-- ==== Sys2Proof/Word.lean ====
section
/-! DEFINITION. The word types of the block and their plainest arithmetic. -/

namespace Sys2Proof

/-- A register of a lane (02_register_pages.md R40). -/
abbrev Word := BitVec 32
abbrev Half := BitVec 16
abbrev Byte := BitVec 8
/-- A register of two words, or a frame number. -/
abbrev Dword := BitVec 64

/-- The two lanes (01_architecture.md, "Lanes"). -/
inductive LaneId where
  | a | b
  deriving DecidableEq, Repr

namespace LaneId

def other : LaneId → LaneId
  | a => b
  | b => a

@[simp] theorem other_a : LaneId.a.other = .b := rfl
@[simp] theorem other_b : LaneId.b.other = .a := rfl
@[simp] theorem other_other (x : LaneId) : x.other.other = x := by cases x <;> rfl

end LaneId

end Sys2Proof
end

