-- ==== Sys2Proof/Syntax.lean ====
section
/-! DEFINITION. The commands of the block: one constructor of `Instr` for each row of
spec/opcode_table.json, and the operand types. An operand says what the environment brings with the
command: what arrived, what was measured, which lane or port it concerns. -/

namespace Sys2Proof

/-- The supply inputs (03_power_clocks_start.md R60). -/
inductive InputId where
  | in1 | in2
  deriving DecidableEq, Repr

/-- The power domains, in the bit order of PWR.DOMSTAT (Table PWR-8). -/
inductive Domain where
  | bkp | ts | la | lb | cra | crb | met | io | nv | dsp
  deriving DecidableEq, Repr

/-- Values the hub's monitors measure at +0 µs (R73, R62) and the eight analog inputs in µA. -/
structure SupplyMeas where
  ai : List Nat
  in1v : Half
  in1f : Half
  in2v : Half
  in2f : Half
  in1ac : Bool
  in2ac : Bool
  /-- bank voltage in 10 mV -/
  bankv : Nat
  /-- module power in 0.1 W -/
  pin : Half
  deriving DecidableEq, Repr

/-! ### Register transactions (02_register_pages.md R53, R57) -/

/-- One entry of a write transaction. -/
structure WriteEntry where
  addr : Word
  value : Word
  guard : Option (Word × Word) := none
  deriving DecidableEq, Repr

/-- Roles of a session (17_security.md R402). -/
inductive SessRole where
  | view | operate | engineer | security
  deriving DecidableEq, Repr

/-- Who writes a register: an engine of the lane, or a transaction of source 0x04. -/
inductive Origin where
  | engine (n : Fin 8)
  | external (role : SessRole)
  deriving DecidableEq, Repr

/-! ### Metering (12_electrical_metering.md Table MET-2, 13_heat_metering_pulses.md Table HTM-1) -/

/-- Payload of the source 0x03 arrival, Table MET-2. -/
structure MetWindow where
  tfe : Half
  valid : Bool
  wno : Word
  ovrmap : BitVec 80
  /-- 80 channels of 32 samples, signed 24-bit -/
  samples : List (List Int)
  /-- the 32 RTD result words where FESTAT bit 1 is set -/
  rtd : Option (List Word)
  deriving DecidableEq, Repr

/-! ### Arrivals of ports, fabric and lanes -/

/-- Assay report payload, Table ASY-4. -/
structure AssayReport where
  typ : Nat
  lane : LaneId
  unit : Nat
  array : Nat
  addr : Nat
  bit : Nat
  res : Nat
  spare : Nat
  fno : Nat
  deriving DecidableEq, Repr

/-- One lane's verification report (17_security.md R400): first failing status code (0 PASS), image
digest and computed fingerprint. -/
structure VerReport where
  code : Half
  digest : List Byte
  fp : Dword
  deriving DecidableEq, Repr

/-- What a failing unit of a lane makes of its verification report: a code it reports where its checks find none, and bits
of the digest it gets wrong; neither in a sound lane. -/
structure VerFault where
  code : Half := 0
  upset : List Byte := []
  deriving DecidableEq, Repr

/-- What E0 or E1 of a lane hands to the hub as a source 0x04 arrival that is no write transaction. -/
inductive LaneReport where
  /-- the module SALT (20_rogon_fabric.md R440) -/
  | salt (v : List Byte)
  /-- the telegram salt (21_field_ports.md R465) -/
  | tsalt (v : List Byte)
  /-- an image page (17_security.md R399): session, tag, slot page index, 2 048 bytes -/
  | page (session tag idx : Nat) (data : List Byte)
  | verification (a b : VerReport)
  | assay (r : AssayReport)
  deriving DecidableEq, Repr

/-- State of a port as a status arrival carries it (Table PRT-1 KIND 0x01). -/
inductive PortStatus where
  | eth (speed : Nat)
  | can (state tec rec : Nat) (fdSeen abLock : Bool) (abnbr abdbr : Nat)
  | mbus (on ovc : Bool) (ibus : Nat)
  deriving DecidableEq, Repr

/-- The content of a port or fabric arrival: Table PRT-1 and Table FAB-3. -/
inductive PortBody where
  /-- KIND 0x00: station answered (0xFFFF unsolicited) and the received unit -/
  | unit (stn : Nat) (data : List Byte)
  /-- KIND 0x01 -/
  | status (p : PortStatus)
  /-- KIND 0x02: station and outcome 1–4 -/
  | outcome (stn code : Nat)
  /-- KIND 0x03: connection, service, application data unit -/
  | adu (conn svc : Nat) (data : List Byte)
  /-- a fabric frame with its receive stamp in ns -/
  | fabFrame (stamp : Int) (data : List Byte)
  | fabStatus (pwr sfp block up : Bool)
  /-- transmit stamp of the own TIME frame with SEQ `seq` -/
  | fabStamp (stamp : Int) (seq : Nat)
  deriving DecidableEq, Repr

/-- A PTP message that enters on the PTP port (16_time.md R371); times in ns, `corr` the correction field. -/
inductive PtpBody where
  | sync (seq : Nat) (twoStep : Bool) (origin corr : Int)
  | followUp (seq : Nat) (origin corr : Int)
  /-- data set of the sender in the order of IEEE 1588-2019 clause 9.3, grandmaster identity, UTC offset -/
  | announce (ds : List Nat) (gmid : Dword) (utc : Int) (utcValid : Bool)
  | delayReq (seq : Nat) (corr : Int)
  | delayResp (seq : Nat) (t4 corr : Int)
  | pdelayReq (seq : Nat) (corr : Int)
  | pdelayResp (seq : Nat) (twoStep : Bool) (t2 corr : Int)
  | pdelayRespFollowUp (seq : Nat) (t3 corr : Int)
  /-- any other message: management, signalling and what IEEE 1588 defines else -/
  | other
  deriving DecidableEq, Repr

/-- The message with its port, transport (IEEE 802.3, or UDP/IPv4), domainNumber and sender, and the moment its SFD has passed
the MAC, in ns after the frame start; the hub stamps it (R368). -/
structure PtpMsg where
  port : Nat
  l2 : Bool
  domain : Nat
  sender : Dword
  enters : Int
  body : PtpBody
  deriving DecidableEq, Repr

/-- PTP messages the port sends of its own at an interval (R370). -/
inductive PtpKind where
  | sync | announce | delayReq | pdelayReq
  deriving DecidableEq, Repr

/-- A frame received on an Ethernet port (21_field_ports.md R455), sorted as the hub sorts it. -/
inductive EthFrame where
  | arp
  | icmpEcho
  | ptp
  /-- data of a TCP connection: service 1 Modbus client, 2 Modbus server, 3 IEC 104; 4 a message of Vangilo Link on
  TCP port 7 410, by its session -/
  | tcp (svc conn : Nat) (data : List Byte)
  | tcpClose (svc conn : Nat)
  /-- a UDP datagram with its IPv4 and UDP headers -/
  | udp (data : List Byte)
  | other
  deriving DecidableEq, Repr

/-- The content of an arrival that completes at its source (ARRIVAL_COMPLETE). -/
inductive ArrContent where
  /-- source 0x03 -/
  | met (w : MetWindow)
  /-- source 0x04, handed over by E0 or E1 of a lane -/
  | lane (r : LaneReport)
  /-- sources 0x10 to 0x21 -/
  | port (b : PortBody)
  deriving DecidableEq, Repr

/-! ### Start-up and delivery -/

/-- What the start-up test of Table ASY-5 finds on one lane (18_assay.md R415): the part that fails beyond repair, the rows
that March found failing, as array and row, and the CRC-32C of each memory image of part 5 with that of its reload. -/
structure StartTest where
  failed : Option Nat := none
  repairs : List (Nat × Nat) := []
  images : List (Word × Word) := []
  deriving DecidableEq, Repr

/-- What a start-up phase finds on one lane beyond the checks the model makes itself: a boot failure code
(17_security.md R396), the length of the phase in ms, the findings of the start-up test, and whether the lane reports ready. -/
structure LaneStart where
  boot : Half := 0
  ms : Nat := 0
  test : StartTest := {}
  ready : Bool := true
  deriving DecidableEq, Repr

/-- What ECC or Assay finds in a lane (18_assay.md R408, R410, R411): a corrected error of an access, by array and row; an
uncorrectable error; the restore of a slice whose CRC-32C fails. -/
inductive Finding where
  | corrected (arr row : Nat)
  | uncorrectable
  | restoreBad
  deriving DecidableEq, Repr

/-- What a lane delivers at +600 µs beside its computed output frame: the margin in µs to the deadline, intact
checksums of frame and heartbeat, results of its Assay window, and plant outputs that an upset has changed. -/
structure Delivery where
  margin : Nat
  intact : Bool := true
  hbIntact : Bool := true
  asyFail : Bool := false
  ttFail : Bool := false
  finds : List Finding := []
  upset : Option (BitVec 16 × List Nat) := none
  deriving DecidableEq, Repr

/-- Why a lane misses the compute deadline: its frame as a whole; loop contributions missing at LD (09_control_loops.md
R219); the same with a loop pass still running at +40 µs of the next frame. -/
inductive Lateness where
  | frame | loops | passes
  deriving DecidableEq, Repr

/-- A lane that misses the compute deadline, why, and whether its targeted set found a failure. -/
structure LateLane where
  lane : LaneId
  why : Lateness
  ttFail : Bool
  deriving DecidableEq, Repr

/-- The cage of a fabric link (23_physical.md R499): its switch trips; a module is in it. -/
structure CageState where
  trip : Bool
  sfp : Bool
  deriving DecidableEq, Repr

/-! ### Sessions and debug -/

/-- What a TLS handshake offers, with the code points of RFC 8446: version, cipher suite, group and signature scheme, and
whether it asks for a pre-shared key or resumption, or sends early data (17_security.md R402). -/
structure TlsOffer where
  version : Nat := 0x0304
  suite : Nat := 0x1302
  group : Nat := 0x0018
  scheme : Nat := 0x0503
  psk : Bool := false
  early : Bool := false
  deriving DecidableEq, Repr

/-- What the TLS handshake of a session found of the client certificate (17_security.md R402, R403, R406):
certificates presented, whether the chain ends at slot 5 or is self-signed, the serials of the chain, and its
validity in seconds of the calendar. -/
structure ClientCert where
  offer : TlsOffer := {}
  present : Bool := true
  chain : Nat := 1
  ownerSigned : Bool := true
  selfSigned : Bool := false
  serials : List (List Byte) := []
  notBefore : Nat := 0
  notAfter : Nat := 4294967295
  role : SessRole
  deriving DecidableEq, Repr

/-- How an attempt to open a client connection ends: whether the peer answers, and with TLS what it presents
(17_security.md R404). -/
structure ConnectReply where
  up : Bool
  cert : ClientCert := { role := .view }
  deriving DecidableEq, Repr

/-- An operation of the service port's debug function (17_security.md R405). -/
inductive DebugOp where
  | halt (engine : Nat)
  | step (engine : Nat)
  | read (addr : Nat)
  | write (addr : Nat) (value : Byte)
  deriving DecidableEq, Repr

/-! ### Operands of the Enesque instructions (11_enesque_instructions.md) -/

/-- The executors E4 and E5. -/
inductive Exec45 where
  | e4 | e5
  deriving DecidableEq, Repr

/-- The commands of the block. -/
inductive Instr where
  /-- FRAME_START (R86): The hub frame timebase expires and starts frame k; it applies any phase correction, samples the analog inputs and latches the supply and clock status. -/
  | frameStart (m : SupplyMeas)
  /-- DI_EDGE (R509): A digital input edge enters the hub at the isolator output and is stamped and queued for the source 0x02 arrival. -/
  | diEdge (din : Nat) (level : Bool) (t : Int)
  /-- PULSE_INPUT_COUNT (R509): A pulse on a pulse input increments its hub counter modulo 2^32. -/
  | pulseInputCount (n : Nat)
  /-- DI_ARRIVAL_CLOSE (R509): At +35 µs the hub closes the source 0x02 arrival with DI states, pulse counts and up to 21 queued edges. -/
  | diArrivalClose
  /-- ARRIVAL_COMPLETE (R23): An arrival completes at its port and the hub streams it to both lanes, ordered by completion time and source number. -/
  | arrivalComplete (src : Nat) (t : Int) (c : ArrContent)
  /-- INPUT_FRAME_CLOSE (R21): At +40 µs the hub closes input frame k and sends the trailer with FNO, ACNT, ACRC, network time and the calendar reading. -/
  | inputFrameClose
  /-- INPUT_INSTANT (R37): At +60 µs each lane makes input frame k visible and performs steps 1 to 7 of Table ARC-5 in order. -/
  | inputInstant (lossA : Bool) (lossB : Bool)
  /-- SOLVE_COMPUTATION_END (R179): E3 ends a solve computation with the validity check and status assignment, ready for publication. -/
  | solveComputationEnd (lane : LaneId) (us : Nat)
  /-- DISPATCH_COMPUTATION_END (R205): E3 ends 28 interior-point iterations and assigns the dispatch outcome. -/
  | dispatchComputationEnd (lane : LaneId) (us : Nat)
  /-- BOUNDARY_EXCHANGE_RESEND (R451): An exchange is placed again every 2 × LATENCY + 2 frames until the neighbour's next exchange is visible or the epoch ends. -/
  | boundaryExchangeResend (epoch : Nat)
  /-- EPOCH_STOP (R186): A member stops an epoch and votes ABSENT when its final exchange is late or a neighbour signals a stop. -/
  | epochStop (epoch : Nat)
  /-- DECISION_DEADLINE (R109): At snap(e) + 2 × P_s − LATENCY with votes missing, the epoch is abandoned. -/
  | decisionDeadline (epoch : Nat)
  /-- RTD_STALE (R303): After 300 frames without an RTD result, the heat point sets TSTALE. -/
  | rtdStale
  /-- PULSE_END (R315): The hub ends a pulse after WIDTH frames of the frame timebase. -/
  | pulseEnd (n : Nat)
  /-- TELEGRAM_STATION_STALE (R464): A telegram station becomes STALE when TOUT frames pass without an accepted telegram. -/
  | telegramStationStale (stn : Nat)
  /-- QUEUE_STRANDED_TAIL (R429): An open item that gains no word over RTO snapshots is closed by the manager, and its writer's item is orphaned. -/
  | queueStrandedTail (q : Nat)
  /-- SUMMARY_COMPLETE (R352): After the last held page is hashed, E0 signs the inspection summary and loads the summary window. -/
  | summaryComplete
  /-- ADJACENCY_TIMEOUT (R442): An adjacency falls when 400 frames pass without a HELLO on its link. -/
  | adjacencyTimeout (link : Nat)
  /-- LSA_AGE_OUT (R443): A database entry not refreshed within 120 000 frames is removed. -/
  | lsaAgeOut
  /-- PRECOPY_PASS_END (R127): A pre-copy pass completes, and the next pass or the final pass is chosen. -/
  | precopyPassEnd (lines : Nat)
  /-- TRANSFER_TIMEOUT (R128): A transfer whose phases 1–3 exceed 10 s, or which exceeds 16 passes, fails and the receiver becomes UNFIT. -/
  | transferTimeout
  /-- OUTPUT_FRAME_DELIVERY (R27): A lane delivers output frame k and its heartbeat to the hub and Touchstone by +600 µs. -/
  | outputFrameDelivery (lane : LaneId) (d : Delivery)
  /-- DEADLINE_MISS (R90): A lane that misses +600 µs sends no output frame, counts LATECNT and reports NOOUT. -/
  | deadlineMiss (late : LateLane)
  /-- ASSAY_REPORT (R414): A repair, failure or commanded result report arrives via source 0x04, and both lanes update the ASY page and repair maps. -/
  | assayReport (r : AssayReport)
  /-- COMPARE (R114): At +700 µs Touchstone compares the output frames and heartbeats, decides the verdict and sends it to the hub by +720 µs. -/
  | compare
  /-- TOUCHSTONE_LOSS (R134): A lock-step failure, PD_TS or CK_TS fault, or missing verdict makes the hub latch ownership and write its own verdicts. -/
  | touchstoneLoss
  /-- APPLY_INSTANT (R29): At +750 µs the hub drives the owner's output frame, holds the last values, or drives the quench image. -/
  | applyInstant (pathOk : Bool)
  /-- INPUT_LOST (R61): An input is declared lost when its envelope stays below 70 V for 25 ms. -/
  | inputLost (inp : InputId)
  /-- INPUT_GOOD (R61): An input is declared good after its envelope has stayed above 80 V for 100 ms without a converter fault. -/
  | inputGood (inp : InputId)
  /-- CONVERTER_FAULT (R512): A converter detecting an internal fault stops, reports the fault, and the input is declared lost at once. -/
  | converterFault (inp : InputId)
  /-- CONVERTER_RETRY (R512): 10 s after a fault the converter retries, latching after three failures within an hour. -/
  | converterRetry (inp : InputId) (ok : Bool)
  /-- PFAIL (R63): Power failure is declared when the boost converter has carried VBUS for 20 µs. -/
  | pfail
  /-- BANK_LOW (R67): The bank falling below 11.0 V while carrying VBUS sets BANKLOW and starts the ordered shutdown. -/
  | bankLow
  /-- HOLD_READY (R62): The bank reaches 26.0 V and HOLDRDY is set. -/
  | holdReady
  /-- DOMAIN_FAULT (R68): A domain supervisor detects under-voltage, over-voltage or over-current and switches its domain off. -/
  | domainFault (d : Domain)
  /-- DOMAIN_REPOWER (R68): A faulted PD_MET or PD_NV is re-powered after its delay, within its retry limit. -/
  | domainRepower (d : Domain)
  /-- CLOCK_FAILURE (R70): A clock outside its limit for two windows is declared failed. -/
  | clockFailure (clk : Nat)
  /-- UNCORRECTABLE_ERROR (R19): An uncorrectable memory error is a lane fault reported in the same frame. -/
  | uncorrectableError (lane : LaneId)
  /-- ENGINE_TRAP (R39): An undefined firmware instruction, a protection violation or an SRAM error stops the engine as a lane fault. -/
  | engineTrap (lane : LaneId) (eng : Nat) (code : Nat) (pc : Word)
  /-- WATCHDOG_EXPIRY (R39): An engine missing WDFR consecutive handshakes has expired and stops as a lane fault. -/
  | watchdogExpiry (lane : LaneId) (eng : Nat)
  /-- POWER_RETURN (R79): Power returns and the module starts at phase 1 of the start-up sequence. -/
  | powerReturn
  /-- STARTUP_PHASE_END (R79): A start-up phase completes and the next phase of Table PWR-6 begins. -/
  | startupPhaseEnd (lane : Option LaneId) (tsOk : Bool) (a : LaneStart) (b : LaneStart)
  /-- LAMP_TEST_END (R508): After 500 ms the lamp test ends and only IN1, IN2, HOLD and TS are shown until k0. -/
  | lampTestEnd
  /-- LANE_READY_TIMEOUT (R81): A lane not ready within 10 s of the other leads Touchstone to start the ready lane alone. -/
  | laneReadyTimeout
  /-- START_FRAME (R80): Touchstone names k0, the third frame after the later ready lane, and the lanes run their first frame. -/
  | startFrame
  /-- REG_WRITE (R49): A write to a register without its own row takes effect at once, or at step 2 for RWS, with range and access checks. -/
  | regWrite (o : Origin) (addr : Word) (value : Word)
  /-- LOCK_WRITE (R47): A write of ID[15:0] to LOCK opens the page for one write, and any other value reports BADKEY. -/
  | lockWrite (o : Origin) (page : Nat) (value : Word)
  /-- CTRL_SRST (R59): A write of 1 to CTRL.SRST resets the block's registers and state and aborts a running operation. -/
  | ctrlSrst (o : Origin) (page : Nat)
  /-- IRQF_FORCE (R44): A write to IRQF sets the matching IRQS bits. -/
  | irqfForce (o : Origin) (page : Nat) (value : Word)
  /-- ERRC_READ (R58): An external read of an RC register returns the value and passes a clear to the hub. -/
  | errcRead (session : Nat) (page : Nat)
  /-- WRITE_TRANSACTION (R53): An authenticated write transaction is handed to the hub as one source 0x04 arrival, or refused for lack of room. -/
  | writeTransaction (session : Nat) (tag : Nat) (t : Int) (entries : List WriteEntry) (entropy : List Byte)
  /-- READ_TRANSACTION (R57): An immediate read transaction is answered from the active lane's current state. -/
  | readTransaction (session : Nat) (tag : Nat) (addrs : List Word)
  /-- FRAME_CONSISTENT_READ (R57): A frame-consistent read is answered from the state at the apply instant of the next frame. -/
  | frameConsistentRead (session : Nat) (tag : Nat) (addrs : List Word)
  /-- SUBSCRIBE (R461): A session subscribes to page interrupts by mask, or ends its subscription. -/
  | subscribe (session : Nat) (mask : BitVec 256)
  /-- KEEPALIVE (R461): A keepalive message keeps a session open. -/
  | keepalive (session : Nat)
  /-- SESSION_OPEN (R402): A TLS 1.3 Vangilo Link session is opened with the client certificate checked per life-cycle state. -/
  | sessionOpen (session : Nat) (port : Nat) (cert : ClientCert)
  /-- SESSION_IDLE_TIMEOUT (R462): A session with no message for 60 s is closed. -/
  | sessionIdleTimeout (session : Nat)
  /-- SESSION_PROTOCOL_ERROR (R462): A message of unknown type or wrong length closes the session. -/
  | sessionProtocolError (session : Nat)
  /-- RST_WARM (R84): RST.KIND = 0b01 by an external write commands a warm module restart. -/
  | rstWarm (o : Origin)
  /-- RST_COLD (R84): RST.KIND = 0b10 by an external write commands a cold module restart. -/
  | rstCold (o : Origin)
  /-- RSTPOL_WRITE (R85): A write to SYS.RSTPOL is stored in the restart policy record. -/
  | rstpolWrite (o : Origin) (value : Word)
  /-- QUENCH_IMAGE_WRITE (R138): A write to DOQ or AOQ places a new PIO record in the output frame. -/
  | quenchImageWrite (o : Origin) (n : Nat) (value : Word)
  /-- SWAP (R125): TST.SWAP requests a role exchange carried out in the next row 4 verdict, or dropped. -/
  | swap (o : Origin)
  /-- TDATA_WRITE (R210): A TDATA write stores the value at TKIND and TIDX and then increments TIDX. -/
  | tdataWrite (o : Origin) (value : Word)
  /-- BURN_CLR (R232): BURN.CLR clears a Burnish period's memory of the selected loop at step 2. -/
  | burnClr (o : Origin) (which : Word)
  /-- TRACE_ARM (R234): TRC.ARM clears the buffers and starts FILL. -/
  | traceArm (o : Origin)
  /-- TRACE_FIRE (R234): TRC.FIRE triggers the trace in FILL or ARMED. -/
  | traceFire (o : Origin)
  /-- TRACE_STOP (R234): TRC.STOP ends recording and moves the trace to DONE. -/
  | traceStop (o : Origin)
  /-- TRACE_ROLL (R234): TRC.ROLL starts rolling capture with cleared buffers. -/
  | traceRoll (o : Origin)
  /-- PRG_RUN (R248): PRG.CMD RUN puts the program in RUN, or is refused with FAULT set or without a program. -/
  | prgRun (o : Origin)
  /-- PRG_STOP (R248): PRG.CMD STOP abandons every cycle and puts the program in STOP. -/
  | prgStop (o : Origin)
  /-- PRG_HOLD (R248): PRG.CMD HOLD suspends all cycles when HOLD is permitted. -/
  | prgHold (o : Origin)
  /-- FLTACK (R248): PRG.FLTACK clears FAULT in STOP. -/
  | fltack (o : Origin)
  /-- HOLD_TIMEOUT (R248): After HOLDTO seconds in HOLD the program goes to STOP and IRQS.HOLDTO is set. -/
  | holdTimeout
  /-- VVAL_WRITE (R253): An on-line change writes one value into the variable or constant area at step 2. -/
  | vvalWrite (o : Origin) (value : Word)
  /-- FORCE_APPLY (R251): FCMD apply activates or updates the selected force entry. -/
  | forceApply (o : Origin)
  /-- FORCE_RELEASE (R251): FCMD release frees the selected force entry. -/
  | forceRelease (o : Origin)
  /-- FORCE_RELEASE_ALL (R251): FCMD release-all frees every force entry. -/
  | forceReleaseAll (o : Origin)
  /-- FORCE_TIMEOUT (R252): An entry is released FTO minutes after it was applied, and FTOREL is set. -/
  | forceTimeout
  /-- FLUSH (R431): QMG.FLUSH discards every item of the selected queue and orphans the writer's open item. -/
  | flush (o : Origin)
  /-- FLUSHALL (R431): QMG.FLUSHALL flushes queues 8–55 in ascending order. -/
  | flushall (o : Origin)
  /-- CAP_WRITE (R424): A CAP write changes a queue's capacity unless the pool sum or a non-empty queue forbids it. -/
  | capWrite (o : Origin) (value : Word)
  /-- PATINA_SUM (R352): PAT.SUM starts a signed summary of partition SPART. -/
  | patinaSum (o : Origin)
  /-- CALENDAR_SET (R359): RTC.SET takes SETW0 and SETW1, checks the date and places a set command. -/
  | calendarSet (o : Origin)
  /-- ALARM_WRITE (R363): A write to an alarm's ALMCFG or ALMDAY fields rearms it from the current CALSEC. -/
  | alarmWrite (o : Origin) (day : Bool) (value : Word)
  /-- HALT_TIMEOUT (R358): A HALT set for 1 s clears itself and sets SETABT. -/
  | haltTimeout
  /-- CALENDAR_SHADOW_FREEZE (R357): A read of CALW0 freezes the reader's shadow of CALW1 and CALSEC. -/
  | calendarShadowFreeze (reader : Nat)
  /-- CALENDAR_SHADOW_RELEASE (R357): A read of CALW1 releases the reader's shadow. -/
  | calendarShadowRelease (reader : Nat)
  /-- CALENDAR_SHADOW_TIMEOUT (R357): A shadow not released within 1 s, or 1 000 frames for an engine, releases itself. -/
  | calendarShadowTimeout (reader : Nat)
  /-- OSF (R355): No CK_BKP edge for 100 ms, or a backup supply below 1.8 V, sets OSF. -/
  | osf
  /-- BATLOW_TEST (R355): At power return and every 24 h the coin cell is tested under load and BATLOW is set below 2.5 V. -/
  | batlowTest (low : Bool)
  /-- BACKUP_SWITCH_TO_CELL (R361): VDD_BKP below 3.05 V locks the interface, cancels a HALT and switches to the coin cell after 20 µs. -/
  | backupSwitchToCell
  /-- BACKUP_SWITCH_TO_VDD (R361): VDD_BKP above 3.15 V for 1 ms switches the domain back. -/
  | backupSwitchToVdd
  /-- BACKUP_UNLOCK (R361): 10 ms after the switch back, the backup domain unlocks its interface. -/
  | backupUnlock
  /-- PTP_MESSAGE (R371): A stamped PTP message of the configured profile is passed to the owner lane's E2 for protocol and sample computation. -/
  | ptpMessage (m : PtpMsg)
  /-- SAMPLE_TIMEOUT (R373): No sample for SMPTO ms moves ACQUIRE to FREE or LOCKED to HOLDOVER. -/
  | sampleTimeout
  /-- HOLDOVER_TIMEOUT (R373): HOTIME seconds in HOLDOVER move SYNC to FREE. -/
  | holdoverTimeout
  /-- TX_TIMESTAMP (R369): At a PTP event transmission the hub appends the identifier, port and stamp to the transmit queue, or counts an overflow. -/
  | txTimestamp (port : Nat) (ident : Nat) (ns : Int)
  /-- LCMD_PROVISION (R376): LCMD PROVISION generates and fuses DRS and moves BLANK to PROVISIONED. -/
  | lcmdProvision (o : Origin) (entropy : List Byte)
  /-- LCMD_CLAIM (R376): LCMD CLAIM writes the owner key to slot 5 and moves to FIELD. -/
  | lcmdClaim (o : Origin)
  /-- LCMD_DEBUGON (R376): LCMD DEBUGON with a valid token moves FIELD to FIELD_DEBUG. -/
  | lcmdDebugon (o : Origin)
  /-- LCMD_DEBUGOFF (R376): LCMD DEBUGOFF moves FIELD_DEBUG to FIELD. -/
  | lcmdDebugoff (o : Origin)
  /-- LCMD_RETIRE (R376): LCMD RETIRE with a valid token empties slots 8–127 and burns the RETIRED fuse. -/
  | lcmdRetire (o : Origin)
  /-- KCMD_DERIVE (R389): KCMD DERIVE recomputes a derived slot from its active parent. -/
  | kcmdDerive (o : Origin)
  /-- KCMD_INVALIDATE (R388): KCMD INVALIDATE places a STATE 3 record and orphans its descendants. -/
  | kcmdInvalidate (o : Origin)
  /-- KCMD_STAGE (R385): KCMD STAGE unwraps the blob into the staging register. -/
  | kcmdStage (o : Origin)
  /-- KCMD_VERIFY (R385): KCMD VERIFY compares EKCV with the staged key's KCV. -/
  | kcmdVerify (o : Origin)
  /-- KCMD_COMMIT (R385): KCMD COMMIT places the new slot record of a verified staging. -/
  | kcmdCommit (o : Origin)
  /-- KCMD_ABORT (R385): KCMD ABORT clears the staging. -/
  | kcmdAbort (o : Origin)
  /-- STAGING_EXPIRY (R385): A staging held 600 000 frames is cleared with STGEXP. -/
  | stagingExpiry
  /-- ATT (R390): CRY.ATT latches the nonce and E0 signs an attestation statement. -/
  | att (o : Origin)
  /-- UCMD_START (R398): UCMD START begins staging in the non-committed slot. -/
  | ucmdStart (o : Origin)
  /-- UCMD_VERIFY (R398): UCMD VERIFY starts verification when all pages are staged in mode COMPARED. -/
  | ucmdVerify (o : Origin)
  /-- UCMD_PROMOTE (R398): UCMD PROMOTE writes the manifest making the target COMMITTED. -/
  | ucmdPromote (o : Origin)
  /-- UCMD_ABORT (R398): UCMD ABORT returns replacement to IDLE with the slot EMPTY. -/
  | ucmdAbort (o : Origin)
  /-- PAGE (R399): An image page transfer is accepted at NEXTPG and issued as an OP 4 NAND request. -/
  | page (session : Nat) (tag : Nat) (idx : Nat) (data : List Byte)
  /-- VERIFICATION_REPORT (R400): Both lanes' verification reports arrive and decide VERIFIED or a return to STAGING. -/
  | verificationReport (a : VerFault) (b : VerFault)
  /-- VERIFICATION_TIMEOUT (R398): No report within 60 000 frames returns to STAGING with 0x2C44. -/
  | verificationTimeout
  /-- PROMOTION_ABANDON (R398): A manifest write not executed within 1 000 frames abandons the promotion with TRIG 0x6. -/
  | promotionAbandon
  /-- ASY_KIND_BACKGROUND (R418): ASY.CMD kind 1 runs one background pass of UNIT now. -/
  | asyKindBackground (o : Origin) (unit : Nat) (tlane : Nat)
  /-- ASY_KIND_STARTUP (R419): ASY.CMD kind 2 takes the standby lane out for a destructive start-up test and a transfer. -/
  | asyKindStartup (o : Origin) (unit : Nat) (tlane : Nat)
  /-- ASY_KIND_INJECT (R418): ASY.CMD kind 3 injects a single-bit or double-bit error. -/
  | asyKindInject (o : Origin) (unit : Nat) (tlane : Nat)
  /-- LINK_STATE_CHANGE (R433): A fabric link enters or leaves UP. -/
  | linkStateChange (link : Nat) (cage : CageState) (block : Bool)
  /-- FABRIC_FRAME_RECEIVE (R438): A fabric frame received on a link is FCRC-checked and delivered locally or forwarded. -/
  | fabricFrameReceive (link : Nat) (stamp : Int) (data : List Byte)
  /-- PORT_REQUEST_TIMEOUT (R456): A request timer expires and the hub places a no-response arrival. -/
  | portRequestTimeout (src : Nat) (stn : Nat)
  /-- RS485_ADU_END (R468): A silence of t3.5 ends an RS-485 ADU, which is delivered if its CRC checks. -/
  | rs485AduEnd (port : Nat) (t : Int) (data : List Byte)
  /-- MODBUS_CONNECT (R458): The owner's E1 opens a Modbus TCP client connection when a request needs it. -/
  | modbusConnect (conn : Nat) (reply : ConnectReply)
  /-- CAN_BUS_OFF (R472): A transmit error count above 255 makes a CAN port bus-off. -/
  | canBusOff (port : Nat)
  /-- CAN_RECOVER (R472): CAN RECOVER starts bus-off recovery. -/
  | canRecover (o : Origin) (port : Nat)
  /-- CAN_RECOVERY_COMPLETE (R472): After 128 occurrences of 11 recessive bits the port becomes error active. -/
  | canRecoveryComplete (port : Nat)
  /-- AUTOBAUD_RATE_SWITCH (R471): After 200 frames without lock, autobaud tries the next nominal rate. -/
  | autobaudRateSwitch (port : Nat)
  /-- AUTOBAUD_LOCK (R471): Two consecutive error-free frames lock the autobaud rate. -/
  | autobaudLock (port : Nat)
  /-- MBUS_OVERCURRENT (R473): A bus current above 120 mA for 50 ms switches the M-Bus off and sets OVC. -/
  | mbusOvercurrent (port : Nat) (ibus : Nat)
  /-- MBUS_REPOWER (R473): 10 s after an overcurrent the bus is re-powered, at most 3 times an hour. -/
  | mbusRepower (port : Nat)
  /-- MBUS_RESTART (R473): MB RESTART re-powers a bus switched off by OVC. -/
  | mbusRestart (o : Origin) (port : Nat)
  /-- RENDER_COMPLETE (R485): A render completes and E1 hands the CRC of the back buffer to the controller. -/
  | renderComplete
  /-- VERTICAL_BLANK (R485): At the vertical blank the controller swaps buffers, commits gamma and moves VCOM. -/
  | verticalBlank
  /-- REFRESH_CRC_CHECK (R487): Each refresh's CRC is compared, and CRCMAX mismatches set CRCALM and may blank. -/
  | refreshCrcCheck (crc : Word)
  /-- DISPLAY_STALE (R488): No swap for STALEMS sets STALE and draws a red border. -/
  | displayStale
  /-- PANEL_POWER_UP (R477): When the panel conditions first hold, the rail power-up sequence runs. -/
  | panelPowerUp
  /-- PANEL_POWER_DOWN (R477): When a panel condition ceases, the power-down sequence runs. -/
  | panelPowerDown
  /-- RAIL_FAULT (R479): A rail outside ±5 % for 1 ms or in over-current powers the panel down and sets RFLT. -/
  | railFault (rail : Nat)
  /-- RAIL_RETRY (R479): 1 s after a rail fault power-up is retried, at most 3 times an hour. -/
  | railRetry
  /-- BACKLIGHT_STRING_FAULT (R481): An open or shorted LED string for 10 ms is disabled and flagged. -/
  | backlightStringFault (n : Nat) (short : Bool)
  /-- GCOMMIT (R482): PNL.GCOMMIT copies the shadow gamma tables at the next vertical blank. -/
  | gcommit (o : Origin)
  /-- GDATA_WRITE (R482): A GDATA write sets the shadow entry and increments GIDX. -/
  | gdataWrite (o : Origin) (value : Word)
  /-- PNL_RESTART (R479): PNL.RESTART clears LOCKOUT and starts power-up. -/
  | pnlRestart (o : Origin)
  /-- RAIL_WRITE (R480): An AVDD, VGH or VGL write applies only while unpowered, and VCOM moves gradually. -/
  | railWrite (o : Origin) (n : Nat) (value : Word)
  /-- ENQ_LD (R265): LD loads the bit operand into BA. -/
  | enqLd (e : Exec45) (area : BitVec 4) (addr : BitVec 20)
  /-- ENQ_LDN (R265): LDN loads the inverted bit operand into BA. -/
  | enqLdn (e : Exec45) (area : BitVec 4) (addr : BitVec 20)
  /-- ENQ_AND (R265): AND combines BA with the bit operand. -/
  | enqAnd (e : Exec45) (area : BitVec 4) (addr : BitVec 20)
  /-- ENQ_ANDN (R265): ANDN combines BA with the inverted bit operand. -/
  | enqAndn (e : Exec45) (area : BitVec 4) (addr : BitVec 20)
  /-- ENQ_OR (R265): OR combines BA with the bit operand. -/
  | enqOr (e : Exec45) (area : BitVec 4) (addr : BitVec 20)
  /-- ENQ_ORN (R265): ORN combines BA with the inverted bit operand. -/
  | enqOrn (e : Exec45) (area : BitVec 4) (addr : BitVec 20)
  /-- ENQ_XOR (R265): XOR combines BA with the bit operand. -/
  | enqXor (e : Exec45) (area : BitVec 4) (addr : BitVec 20)
  /-- ENQ_ST (R265): ST writes BA to the bit operand. -/
  | enqSt (e : Exec45) (area : BitVec 4) (addr : BitVec 20)
  /-- ENQ_STN (R265): STN writes the inverse of BA to the bit operand. -/
  | enqStn (e : Exec45) (area : BitVec 4) (addr : BitVec 20)
  /-- ENQ_SET (R265): SET sets the bit operand when BA = 1. -/
  | enqSet (e : Exec45) (area : BitVec 4) (addr : BitVec 20)
  /-- ENQ_RST (R265): RST clears the bit operand when BA = 1. -/
  | enqRst (e : Exec45) (area : BitVec 4) (addr : BitVec 20)
  /-- ENQ_NOT (R265): NOT inverts BA. -/
  | enqNot (e : Exec45) (area : BitVec 4) (addr : BitVec 20)
  /-- ENQ_RE (R265): RE detects a rising edge using the bit operand as memory. -/
  | enqRe (e : Exec45) (area : BitVec 4) (addr : BitVec 20)
  /-- ENQ_FE (R265): FE detects a falling edge using the bit operand as memory. -/
  | enqFe (e : Exec45) (area : BitVec 4) (addr : BitVec 20)
  /-- ENQ_AND_OPEN (R265): AND( pushes a pending AND with BA and loads the operand. -/
  | enqAndOpen (e : Exec45) (area : BitVec 4) (addr : BitVec 20)
  /-- ENQ_OR_OPEN (R265): OR( pushes a pending OR with BA and loads the operand. -/
  | enqOrOpen (e : Exec45) (area : BitVec 4) (addr : BitVec 20)
  /-- ENQ_XOR_OPEN (R265): XOR( pushes a pending XOR with BA and loads the operand. -/
  | enqXorOpen (e : Exec45) (area : BitVec 4) (addr : BitVec 20)
  /-- ENQ_ANDN_OPEN (R265): ANDN( pushes a pending ANDN with BA and loads the operand. -/
  | enqAndnOpen (e : Exec45) (area : BitVec 4) (addr : BitVec 20)
  /-- ENQ_CLOSE_PAREN (R265): ) pops a BIT entry and combines it with BA. -/
  | enqCloseParen (e : Exec45) (area : BitVec 4) (addr : BitVec 20)
  /-- ENQ_PUSHW (R265): PUSHW pushes WA as a WORD entry. -/
  | enqPushw (e : Exec45) (area : BitVec 4) (addr : BitVec 20)
  /-- ENQ_POPW (R265): POPW pops a WORD entry and combines it with WA by the selected operation. -/
  | enqPopw (e : Exec45) (area : BitVec 4) (addr : BitVec 20)
  /-- ENQ_LDW (R265): LDW loads the word operand into WA. -/
  | enqLdw (e : Exec45) (area : BitVec 4) (addr : BitVec 20)
  /-- ENQ_STW (R265): STW writes WA to the word operand. -/
  | enqStw (e : Exec45) (area : BitVec 4) (addr : BitVec 20)
  /-- ENQ_LDHI (R265): LDHI loads the immediate into the high half of WA. -/
  | enqLdhi (e : Exec45) (area : BitVec 4) (addr : BitVec 20)
  /-- ENQ_LDB (R265): LDB loads a byte, zero-extended, into WA. -/
  | enqLdb (e : Exec45) (area : BitVec 4) (addr : BitVec 20)
  /-- ENQ_STB (R265): STB writes WA[7:0] to a byte. -/
  | enqStb (e : Exec45) (area : BitVec 4) (addr : BitVec 20)
  /-- ENQ_LDX (R265): LDX loads XR from the word operand. -/
  | enqLdx (e : Exec45) (area : BitVec 4) (addr : BitVec 20)
  /-- ENQ_STX (R265): STX writes XR to the word operand. -/
  | enqStx (e : Exec45) (area : BitVec 4) (addr : BitVec 20)
  /-- ENQ_ADX (R265): ADX adds a sign-extended immediate to XR. -/
  | enqAdx (e : Exec45) (area : BitVec 4) (addr : BitVec 20)
  /-- ENQ_ADD (R265): ADD adds the operand to WA modulo 2^32. -/
  | enqAdd (e : Exec45) (area : BitVec 4) (addr : BitVec 20)
  /-- ENQ_SUB (R265): SUB subtracts the operand from WA. -/
  | enqSub (e : Exec45) (area : BitVec 4) (addr : BitVec 20)
  /-- ENQ_MUL (R265): MUL sets WA to the low 32 bits of the product. -/
  | enqMul (e : Exec45) (area : BitVec 4) (addr : BitVec 20)
  /-- ENQ_DIV (R265): DIV divides WA, truncating, and faults on zero. -/
  | enqDiv (e : Exec45) (area : BitVec 4) (addr : BitVec 20)
  /-- ENQ_MOD (R265): MOD sets WA to the remainder, and faults on zero. -/
  | enqMod (e : Exec45) (area : BitVec 4) (addr : BitVec 20)
  /-- ENQ_WAND (R265): WAND performs a bitwise AND into WA. -/
  | enqWand (e : Exec45) (area : BitVec 4) (addr : BitVec 20)
  /-- ENQ_WOR (R265): WOR performs a bitwise OR into WA. -/
  | enqWor (e : Exec45) (area : BitVec 4) (addr : BitVec 20)
  /-- ENQ_WXOR (R265): WXOR performs a bitwise XOR into WA. -/
  | enqWxor (e : Exec45) (area : BitVec 4) (addr : BitVec 20)
  /-- ENQ_SHL (R265): SHL shifts WA left. -/
  | enqShl (e : Exec45) (area : BitVec 4) (addr : BitVec 20)
  /-- ENQ_SHR (R265): SHR shifts WA right logically. -/
  | enqShr (e : Exec45) (area : BitVec 4) (addr : BitVec 20)
  /-- ENQ_SAR (R265): SAR shifts WA right arithmetically. -/
  | enqSar (e : Exec45) (area : BitVec 4) (addr : BitVec 20)
  /-- ENQ_NEG (R265): NEG negates WA. -/
  | enqNeg (e : Exec45) (area : BitVec 4) (addr : BitVec 20)
  /-- ENQ_EQ (R265): EQ sets BA to WA = operand. -/
  | enqEq (e : Exec45) (area : BitVec 4) (addr : BitVec 20)
  /-- ENQ_NE (R265): NE sets BA to WA ≠ operand. -/
  | enqNe (e : Exec45) (area : BitVec 4) (addr : BitVec 20)
  /-- ENQ_LT (R265): LT sets BA to the signed WA < operand. -/
  | enqLt (e : Exec45) (area : BitVec 4) (addr : BitVec 20)
  /-- ENQ_LE (R265): LE sets BA to the signed WA ≤ operand. -/
  | enqLe (e : Exec45) (area : BitVec 4) (addr : BitVec 20)
  /-- ENQ_GT (R265): GT sets BA to the signed WA > operand. -/
  | enqGt (e : Exec45) (area : BitVec 4) (addr : BitVec 20)
  /-- ENQ_GE (R265): GE sets BA to the signed WA ≥ operand. -/
  | enqGe (e : Exec45) (area : BitVec 4) (addr : BitVec 20)
  /-- ENQ_LTU (R265): LTU sets BA to the unsigned WA < operand. -/
  | enqLtu (e : Exec45) (area : BitVec 4) (addr : BitVec 20)
  /-- ENQ_GTU (R265): GTU sets BA to the unsigned WA > operand. -/
  | enqGtu (e : Exec45) (area : BitVec 4) (addr : BitVec 20)
  /-- ENQ_FADD (R265): FADD adds the operand to WA in binary32. -/
  | enqFadd (e : Exec45) (area : BitVec 4) (addr : BitVec 20)
  /-- ENQ_FSUB (R265): FSUB subtracts the operand from WA in binary32. -/
  | enqFsub (e : Exec45) (area : BitVec 4) (addr : BitVec 20)
  /-- ENQ_FMUL (R265): FMUL multiplies WA by the operand in binary32. -/
  | enqFmul (e : Exec45) (area : BitVec 4) (addr : BitVec 20)
  /-- ENQ_FDIV (R265): FDIV divides WA by the operand in binary32. -/
  | enqFdiv (e : Exec45) (area : BitVec 4) (addr : BitVec 20)
  /-- ENQ_FMIN (R265): FMIN sets WA to the smaller value. -/
  | enqFmin (e : Exec45) (area : BitVec 4) (addr : BitVec 20)
  /-- ENQ_FMAX (R265): FMAX sets WA to the larger value. -/
  | enqFmax (e : Exec45) (area : BitVec 4) (addr : BitVec 20)
  /-- ENQ_FABS (R265): FABS clears bit 31 of WA. -/
  | enqFabs (e : Exec45) (area : BitVec 4) (addr : BitVec 20)
  /-- ENQ_FNEG (R265): FNEG inverts bit 31 of WA. -/
  | enqFneg (e : Exec45) (area : BitVec 4) (addr : BitVec 20)
  /-- ENQ_FSQRT (R265): FSQRT sets WA to its square root. -/
  | enqFsqrt (e : Exec45) (area : BitVec 4) (addr : BitVec 20)
  /-- ENQ_FLIM (R265): FLIM clamps WA between the operand and the next word. -/
  | enqFlim (e : Exec45) (area : BitVec 4) (addr : BitVec 20)
  /-- ENQ_FEQ (R265): FEQ sets BA to the floating-point equality. -/
  | enqFeq (e : Exec45) (area : BitVec 4) (addr : BitVec 20)
  /-- ENQ_FLT (R265): FLT sets BA to the floating-point WA < operand. -/
  | enqFlt (e : Exec45) (area : BitVec 4) (addr : BitVec 20)
  /-- ENQ_FLE (R265): FLE sets BA to the floating-point WA ≤ operand. -/
  | enqFle (e : Exec45) (area : BitVec 4) (addr : BitVec 20)
  /-- ENQ_FGT (R265): FGT sets BA to the floating-point WA > operand. -/
  | enqFgt (e : Exec45) (area : BitVec 4) (addr : BitVec 20)
  /-- ENQ_FGE (R265): FGE sets BA to the floating-point WA ≥ operand. -/
  | enqFge (e : Exec45) (area : BitVec 4) (addr : BitVec 20)
  /-- ENQ_FFUN (R265): FFUN applies the selected elementary function to WA. -/
  | enqFfun (e : Exec45) (area : BitVec 4) (addr : BitVec 20)
  /-- ENQ_I2F (R265): I2F converts WA from i32 to binary32. -/
  | enqI2f (e : Exec45) (area : BitVec 4) (addr : BitVec 20)
  /-- ENQ_F2I (R265): F2I converts WA to i32, rounded half even and saturated. -/
  | enqF2i (e : Exec45) (area : BitVec 4) (addr : BitVec 20)
  /-- ENQ_U2F (R265): U2F converts WA from u32 to binary32. -/
  | enqU2f (e : Exec45) (area : BitVec 4) (addr : BitVec 20)
  /-- ENQ_SEL (R265): SEL loads the operand into WA when BA = 1. -/
  | enqSel (e : Exec45) (area : BitVec 4) (addr : BitVec 20)
  /-- ENQ_JMP (R265): JMP jumps unconditionally. -/
  | enqJmp (e : Exec45) (area : BitVec 4) (addr : BitVec 20)
  /-- ENQ_JMPC (R265): JMPC jumps when BA = 1. -/
  | enqJmpc (e : Exec45) (area : BitVec 4) (addr : BitVec 20)
  /-- ENQ_JMPN (R265): JMPN jumps when BA = 0. -/
  | enqJmpn (e : Exec45) (area : BitVec 4) (addr : BitVec 20)
  /-- ENQ_CALL (R265): CALL pushes the return address and jumps. -/
  | enqCall (e : Exec45) (area : BitVec 4) (addr : BitVec 20)
  /-- ENQ_CALLC (R265): CALLC calls when BA = 1. -/
  | enqCallc (e : Exec45) (area : BitVec 4) (addr : BitVec 20)
  /-- ENQ_RET (R265): RET pops a return address into PC. -/
  | enqRet (e : Exec45) (area : BitVec 4) (addr : BitVec 20)
  /-- ENQ_END (R265): END ends the feed or main section and triggers its copy-out. -/
  | enqEnd (e : Exec45) (area : BitVec 4) (addr : BitVec 20)
  /-- ENQ_NOP (R265): NOP does nothing. -/
  | enqNop (e : Exec45) (area : BitVec 4) (addr : BitVec 20)
  /-- ENQ_EVT (R271): EVT triggers an event task of EVSRC 0 when BA = 1. -/
  | enqEvt (e : Exec45) (area : BitVec 4) (addr : BitVec 20)
  /-- ENQ_TON (R267): TON runs an on-delay timer. -/
  | enqTon (e : Exec45) (area : BitVec 4) (addr : BitVec 20)
  /-- ENQ_TOF (R267): TOF runs an off-delay timer. -/
  | enqTof (e : Exec45) (area : BitVec 4) (addr : BitVec 20)
  /-- ENQ_TP (R267): TP runs a pulse timer. -/
  | enqTp (e : Exec45) (area : BitVec 4) (addr : BitVec 20)
  /-- ENQ_TPT (R265): TPT sets a timer's preset from WA. -/
  | enqTpt (e : Exec45) (area : BitVec 4) (addr : BitVec 20)
  /-- ENQ_CTU (R268): CTU counts up on a rising BA. -/
  | enqCtu (e : Exec45) (area : BitVec 4) (addr : BitVec 20)
  /-- ENQ_CTD (R268): CTD counts down on a rising BA. -/
  | enqCtd (e : Exec45) (area : BitVec 4) (addr : BitVec 20)
  /-- ENQ_CLD (R265): CLD loads CV from PV when BA = 1. -/
  | enqCld (e : Exec45) (area : BitVec 4) (addr : BitVec 20)
  /-- ENQ_CRST (R265): CRST clears CV when BA = 1. -/
  | enqCrst (e : Exec45) (area : BitVec 4) (addr : BitVec 20)
  /-- ENQ_CPV (R265): CPV sets a counter's preset from WA. -/
  | enqCpv (e : Exec45) (area : BitVec 4) (addr : BitVec 20)
  /-- ENQ_LPV (R269): LPV reads a loop's PV. -/
  | enqLpv (e : Exec45) (area : BitVec 4) (addr : BitVec 20)
  /-- ENQ_LSP (R269): LSP reads a loop's SP. -/
  | enqLsp (e : Exec45) (area : BitVec 4) (addr : BitVec 20)
  /-- ENQ_LE_LOOP (R269): LE reads a loop's error E. -/
  | enqLeLoop (e : Exec45) (area : BitVec 4) (addr : BitVec 20)
  /-- ENQ_LUC (R269): LUC reads a loop's UC. -/
  | enqLuc (e : Exec45) (area : BitVec 4) (addr : BitVec 20)
  /-- ENQ_LUD (R269): LUD reads a loop's UD. -/
  | enqLud (e : Exec45) (area : BitVec 4) (addr : BitVec 20)
  /-- ENQ_LI (R269): LI reads a loop's integrator. -/
  | enqLi (e : Exec45) (area : BitVec 4) (addr : BitVec 20)
  /-- ENQ_LST (R269): LST reads a loop's flags and mode. -/
  | enqLst (e : Exec45) (area : BitVec 4) (addr : BitVec 20)
  /-- ENQ_LPSP (R269): LPSP writes a loop's program setpoint. -/
  | enqLpsp (e : Exec45) (area : BitVec 4) (addr : BitVec 20)
  /-- ENQ_LMAN (R269): LMAN writes a loop's MANOUT. -/
  | enqLman (e : Exec45) (area : BitVec 4) (addr : BitVec 20)
  /-- ENQ_LMODE (R269): LMODE writes a loop's MODE. -/
  | enqLmode (e : Exec45) (area : BitVec 4) (addr : BitVec 20)
  /-- ENQ_SRD (R270): SRD reads a solve result window value. -/
  | enqSrd (e : Exec45) (area : BitVec 4) (addr : BitVec 20)
  /-- ENQ_SRQ (R270): SRQ reads a solve result window quality. -/
  | enqSrq (e : Exec45) (area : BitVec 4) (addr : BitVec 20)
  /-- ENQ_SRN (R270): SRN reads the solve number or status word. -/
  | enqSrn (e : Exec45) (area : BitVec 4) (addr : BitVec 20)
  /-- ENQ_ORD (R270): ORD reads a dispatch result window value. -/
  | enqOrd (e : Exec45) (area : BitVec 4) (addr : BitVec 20)
  /-- ENQ_QGET (R272): QGET takes the next visible data word of the current queue item. -/
  | enqQget (e : Exec45) (area : BitVec 4) (addr : BitVec 20)
  /-- ENQ_QPUT (R272): QPUT appends a data word to the open item, or is ignored when the queue is full. -/
  | enqQput (e : Exec45) (area : BitVec 4) (addr : BitVec 20)
  /-- ENQ_QEND (R272): QEND closes the open item. -/
  | enqQend (e : Exec45) (area : BitVec 4) (addr : BitVec 20)
  /-- ENQ_TIME (R273): TIME reads one word of frame time. -/
  | enqTime (e : Exec45) (area : BitVec 4) (addr : BitVec 20)
  /-- ENQ_RRD (R274): RRD performs an engine register read at XR. -/
  | enqRrd (e : Exec45) (area : BitVec 4) (addr : BitVec 20)
  /-- ENQ_RWR (R274): RWR performs an engine register write at XR. -/
  | enqRwr (e : Exec45) (area : BitVec 4) (addr : BitVec 20)
  /-- ENQ_DLST (R275): DLST hands a display list to E1. -/
  | enqDlst (e : Exec45) (area : BitVec 4) (addr : BitVec 20)
  /-- ENQ_ILLOP (R265): Executing a word whose opcode is undefined faults with 0x01 ILLOP and leads to the program fault. -/
  | enqIllop (e : Exec45) (opcode : BitVec 8) (area : BitVec 4) (addr : BitVec 20)
  /-- CALENDAR_READING (R356): At +20 µs of every frame the hub reads both calendar words through the frozen shadow and forms the reading and CALQ for the trailer. -/
  | calendarReading
  /-- LANE_REPOWER (R130): After a lane has been held OFF for 10 ms in a lane reset, Touchstone powers it up and it enters BOOT. -/
  | laneRepower (lane : LaneId)
  /-- DEBUG_ACCESS (R405): In FIELD_DEBUG the service port's debug function halts or steps an engine or reads or writes memory of one named lane. -/
  | debugAccess (lane : LaneId) (op : DebugOp)
  /-- SESSION_CLOSE (R357): A Vangilo Link session is closed by its client, which releases its calendar shadow and frees its session slot. -/
  | sessionClose (session : Nat)
  /-- ETHERNET_FRAME_RECEIVE (R455): An Ethernet frame received on ETH0–ETH3 is answered by the hub (ARP, ICMP echo), passed on to PTP, TCP or an arrival, or discarded with RXDROP. -/
  | ethernetFrameReceive (port : Nat) (t : Int) (f : EthFrame)
  /-- ETHERNET_LINK_CHANGE (R454): An Ethernet port's link goes up or down, and the hub places a port state arrival that updates LINK and SPEED. -/
  | ethernetLinkChange (port : Nat) (speed : Nat)
  /-- SFP_CAGE_RETRY (R499): 1 s after a cage switch has tripped on over-current, it powers the SFP+ cage again. -/
  | sfpCageRetry (link : Nat)
  /-- CAN_RECEIVE_TIMEOUT (R460): When TOUT frames pass without a matching frame for a CAN station, the hub reports outcome 1 for it. -/
  | canReceiveTimeout (port : Nat) (stn : Nat)
  /-- CONVERTER_FAULT_UNLATCH (R512): A latched converter fault clears when its input has been removed for at least 1 s and then restored. -/
  | converterFaultUnlatch (inp : InputId)
  /-- BANK_FAULT (R62): A bank or charger fault sets PWR.SUPSTAT.BANKFLT, after which hold-up is not assured. -/
  | bankFault
  /-- PTP_MESSAGE_INTERVAL (R370): At the end of its configured interval the owner's E2 sends a Sync, Announce, Delay_Req or Pdelay_Req on the PTP port. -/
  | ptpMessageInterval (k : PtpKind)
  /-- ANNOUNCE_RECEIPT_TIMEOUT (R370): When announceReceiptTimeout intervals pass without an Announce, the PTP port leaves its master selection and changes portState. -/
  | announceReceiptTimeout
  /-- SERVER_CONNECTION_ACCEPT (R467): The active lane's E1 accepts or refuses a TCP connection to the Modbus TCP server or IEC 104 service within its limit of 8 or 4 connections. -/
  | serverConnectionAccept (conn : Nat) (svc : Nat) (port : Nat) (tls : Bool) (cert : ClientCert)
  /-- IEC104_TIMER_EXPIRY (R469): An IEC 60870-5-104 connection timer t1, t2 or t3 runs out, causing an acknowledgement, a test frame or the close of the connection. -/
  | iec104TimerExpiry (conn : Nat) (timer : Nat)
  deriving DecidableEq, Repr

end Sys2Proof
end

