-- ==== Sys2Proof/Decode.lean ====
section
/-! DEFINITION. The table of commands gives no row any bits: no word spells a command. -/

namespace Sys2Proof

/-- The command that the `nbits` low bits of `w` spell by the table: none, since spec/opcode_table.json gives its
rows no bits. -/
def decodeTableWord (nbits w : Nat) : Option Instr :=
  match nbits, w with
  | _, _ => none

end Sys2Proof
end

