-- ==== Sys2Proof/Config.lean ====
section
/-! DEFINITION. Values the spec leaves open: constants without a body, so that no proof can lean on one.
Each names the assumption-log row that declares it. -/

namespace Sys2Proof.Config

/-- Elevation of the ghost end of boundary entry `b`: no record gives it (assumption log 7). -/
opaque ghostElev : Nat → Word

/-- The test root secret TRS of the boot ROM (17_security.md R382), 32 bytes by index (log 8). -/
opaque trs : Nat → Byte

/-- Whether a pixel of a glyph is set: font, character, column, row (22_display.md R484; log 9). -/
opaque glyph : Nat → Nat → Nat → Nat → Bool

/-- Whether a line from (x0, y0) to (x1, y1) covers a pixel: the spec gives no rasterisation (log 9). -/
opaque linePixel : Nat → Nat → Nat → Nat → Nat → Nat → Bool

/-- A measured rail of the operator panel, in 10 mV: hub time, rail (22_display.md Table DSP-5; log 122). -/
opaque measRail : Nat → Nat → Word

/-- A frame-memory word nothing has painted since PD_DSP was powered: column, row (log 9). -/
opaque framePixel : Nat → Nat → Word

/-- Device root secret DRS fused at the factory (17_security.md R378), 32 bytes by index (log 21). -/
opaque factoryRoot : Nat → Byte

/-- The certificate of the test identity, issued by the Izniun test root (17_security.md R382; log 129). -/
opaque testCert : List Byte

/-- The Izniun image root key IRK of the NAND boot header (17_security.md Table SEC-3), 96 bytes (log 21). -/
opaque imageRootKey : Nat → Byte

/-- Measured frequency in Hz of clock `c`, one value for each reading (03_power_clocks_start.md Table
PWR-10 MEASVAL; log 10). -/
opaque measFreq : Nat → Nat → Word

/-- Cycle and busy counters of an engine: page, offset, FRAME_NO; they follow the running firmware (log 10). -/
opaque engTime : Nat → Nat → Nat → Word

/-- Value drawn where the spec states none: a number of the model's own counter (log 2). -/
opaque freeWord : Nat → Word

/-- Serial number of the module, factory value (log 11). -/
opaque serial : Dword

/-- Firmware version word VER of the firmware image with a given digest (02_register_pages.md R42; log 11). -/
opaque version : List Byte → Word

/-- Whether the NAND program or erase with this number of the model's counter fails (14_nv_store.md R339; log 131). -/
opaque nandFails : Nat → Bool

/-- The 64 spare bytes with the BCH code of a NAND page: the spec gives no code polynomial (14_nv_store.md R338; log 131). -/
opaque nandSpare : List Byte → List Byte

/-- The queue whose word lies in a row of the pool in a frame: the spec gives no place of a queue's words (log 130). -/
opaque poolQueue : Nat → Nat → Byte

/-- READER and WRITER nibbles of a firmware queue: Table QUE-1 of 19_queues.md names a group of engines
(assumption log 13). -/
opaque queueMap : Nat → Byte

end Sys2Proof.Config
end

