-- ==== Sys2Proof/Machine/Bytes.lean ====
section
/-! DEFINITION. Byte strings: little-endian fields (02_register_pages.md R41, byte tables of every
chapter), checksums, and lists of numbered data in canonical form. -/

namespace Sys2Proof.Machine

def ceilDiv (a b : Nat) : Nat := (a + b - 1) / b

/-- The `n` low bytes of `x`, least significant first. -/
def leBytes : Nat → Nat → List Byte
  | 0, _ => []
  | n + 1, x => BitVec.ofNat 8 x :: leBytes n (x / 256)

/-- The number a little-endian byte string spells. -/
def ofLe : List Byte → Nat
  | [] => 0
  | b :: bs => b.toNat + 256 * ofLe bs

/-- The number a big-endian byte string spells. -/
def ofBe (l : List Byte) : Nat := l.foldl (fun a b => a * 256 + b.toNat) 0
def beBytes (n x : Nat) : List Byte := (leBytes n x).reverse

/-- `n` bytes of `l` from offset `o`; missing bytes read 0. -/
def sliceB (l : List Byte) (o n : Nat) : List Byte :=
  let s := (l.drop o).take n
  s ++ List.replicate (n - s.length) 0
def u8At (l : List Byte) (o : Nat) : Nat := (l.getD o 0).toNat
def u16At (l : List Byte) (o : Nat) : Nat := ofLe (sliceB l o 2)
def u24At (l : List Byte) (o : Nat) : Nat := ofLe (sliceB l o 3)
def u32At (l : List Byte) (o : Nat) : Nat := ofLe (sliceB l o 4)
def u48At (l : List Byte) (o : Nat) : Nat := ofLe (sliceB l o 6)
def u64At (l : List Byte) (o : Nat) : Nat := ofLe (sliceB l o 8)
def wordAt (l : List Byte) (o : Nat) : Word := BitVec.ofNat 32 (u32At l o)
/-- Two's complement reading of a `bits`-bit number. -/
def toSigned (bits x : Nat) : Int :=
  if x % 2 ^ bits < 2 ^ (bits - 1) then (x % 2 ^ bits : Nat) else (x % 2 ^ bits : Nat) - (2 ^ bits : Nat)
/-- Two's complement form of an integer in `bits` bits. -/
def ofSigned (bits : Nat) (x : Int) : Nat := (x % (2 ^ bits : Nat)).toNat
def i16At (l : List Byte) (o : Nat) : Int := toSigned 16 (u16At l o)
def i32At (l : List Byte) (o : Nat) : Int := toSigned 32 (u32At l o)

def wordsLe (l : List Word) : List Byte := l.flatMap fun w => leBytes 4 w.toNat

/-- Zero bytes up to a multiple of four (04_frame.md R95, R101). -/
def pad4 (n : Nat) : Nat := (n + 3) / 4 * 4
def padded (l : List Byte) : List Byte := l ++ List.replicate (pad4 l.length - l.length) 0

/-! ### Checksums -/

/-- One bit of a reflected CRC of width 32. -/
def crcBit (poly c : Nat) : Nat := if c % 2 = 1 then (c / 2) ^^^ poly else c / 2
def crcByte (poly c : Nat) (b : Byte) : Nat :=
  let c := c ^^^ b.toNat
  crcBit poly (crcBit poly (crcBit poly (crcBit poly (crcBit poly (crcBit poly (crcBit poly (crcBit poly c)))))))

/-- Reflected CRC-32 with all-ones start and final inversion. -/
def crc32With (poly : Nat) (l : List Byte) : Word :=
  BitVec.ofNat 32 ((l.foldl (crcByte poly) 0xFFFFFFFF) ^^^ 0xFFFFFFFF)

/-- CRC-32C (Castagnoli). PRESUMED: the usual reflected form with inversion (assumption log 3). -/
def crc32c (l : List Byte) : Word := crc32With 0x82F63B78 l
/-- CRC-32 of IEEE 802.3, the same form. -/
def crc32 (l : List Byte) : Word := crc32With 0xEDB88320 l

/-- CRC-16 of Modbus RTU: polynomial 0x8005 reflected, start 0xFFFF. -/
def crc16Modbus (l : List Byte) : Nat := l.foldl (crcByte 0xA001) 0xFFFF

/-! ### Lists of numbered data

A finite map with a default is a list of (key, value) pairs with strictly rising keys and no entry
equal to the default. -/

variable {α : Type}

def kvGet (d : α) : List (Nat × α) → Nat → α
  | [], _ => d
  | (j, x) :: l, k => if j = k then x else kvGet d l k

def kvErase : List (Nat × α) → Nat → List (Nat × α)
  | [], _ => []
  | (j, x) :: l, k => if j = k then kvErase l k else (j, x) :: kvErase l k

/-- Place `x` at `k` in key order, replacing an entry there. -/
def kvInsert : List (Nat × α) → Nat → α → List (Nat × α)
  | [], k, x => [(k, x)]
  | (j, y) :: l, k, x =>
    if k < j then (k, x) :: (j, y) :: l
    else if j = k then (k, x) :: l
    else (j, y) :: kvInsert l k x

/-- Write with the canonical form kept: the default is not listed. -/
def kvSet [DecidableEq α] (d : α) (l : List (Nat × α)) (k : Nat) (x : α) : List (Nat × α) :=
  if x = d then kvErase l k else kvInsert l k x

/-- Canonical form: keys strictly rising, no default listed. -/
def kvWf [DecidableEq α] (dflt : Nat → α) : List (Nat × α) → Bool
  | [] => true
  | (k, x) :: l =>
    decide (x ≠ dflt k) && l.all (fun p => decide (k < p.1)) && kvWf dflt l

/-- Write with a default that depends on the key (the reset value of a register). -/
def kvSetD [DecidableEq α] (dflt : Nat → α) (l : List (Nat × α)) (k : Nat) (x : α) : List (Nat × α) :=
  if x = dflt k then kvErase l k else kvInsert l k x
def kvGetD (dflt : Nat → α) : List (Nat × α) → Nat → α
  | [], k => dflt k
  | (j, x) :: l, k => if j = k then x else kvGetD dflt l k

/-- Element `i` replaced, where there is one. -/
def setAt (l : List α) (i : Nat) (x : α) : List α := l.set i x
def modAt (l : List α) (i : Nat) (f : α → α) : List α := l.modify i f

/-- Saturating sum in `bits` bits. -/
def satAdd (bits a b : Nat) : Nat := min (a + b) (2 ^ bits - 1)

end Sys2Proof.Machine
end

