-- ==== Sys2Proof/Machine/Float.lean ====
section
/-! DEFINITION. Binary32 and binary64 arithmetic of the determinism contract (04_frame.md R104):
round to nearest with ties to even, subnormals kept, canonical NaN, and correctly rounded elementary
functions. A number is computed exactly as an integer multiple of a power of two and narrowed once. -/

namespace Sys2Proof.Machine.Float

/-- A binary interchange format: width of the exponent field and of the fraction field. -/
structure Fmt where
  ebits : Nat
  mbits : Nat
  deriving DecidableEq, Repr

def b32 : Fmt := ⟨8, 23⟩
def b64 : Fmt := ⟨11, 52⟩

namespace Fmt

def bias (f : Fmt) : Nat := 2 ^ (f.ebits - 1) - 1
/-- Exponent of the last place of a subnormal number. -/
def emin (f : Fmt) : Int := 1 - (f.bias : Int) - (f.mbits : Int)
def infBits (f : Fmt) : Nat := (2 ^ f.ebits - 1) * 2 ^ f.mbits
def nanBits (f : Fmt) : Nat := f.infBits + 2 ^ (f.mbits - 1)
def signBit (f : Fmt) : Nat := 2 ^ (f.ebits + f.mbits)
/-- The exponent of the format's largest finite magnitude, in last places. -/
def maxBits (f : Fmt) : Nat := f.infBits - 1

end Fmt

/-- A decoded value: `fin s m e` is (−1)^s · m · 2^e. -/
inductive Val where
  | nan
  | inf (s : Bool)
  | fin (s : Bool) (m : Nat) (e : Int)
  deriving DecidableEq, Repr

def decode (f : Fmt) (w : Nat) : Val :=
  let s := decide (f.signBit ≤ w % (2 * f.signBit))
  let a := w % f.signBit
  let ef := a / 2 ^ f.mbits
  let mf := a % 2 ^ f.mbits
  if ef = 2 ^ f.ebits - 1 then (if mf = 0 then .inf s else .nan)
  else if ef = 0 then .fin s mf f.emin
  else .fin s (2 ^ f.mbits + mf) (f.emin + (ef : Int) - 1)

def withSign (f : Fmt) (s : Bool) (a : Nat) : Nat := if s then f.signBit + a else a

/-- The magnitude `m · 2^e`, or a little more when `sticky`, rounded to nearest even. A caller that sets
`sticky` gives `m` at least two bits more than the format holds. -/
def roundMag (f : Fmt) (m : Nat) (e : Int) (sticky : Bool) : Nat :=
  if m = 0 then 0 else
  let n : Int := (Nat.log2 m : Int) + 1
  let l : Int := max (e + n - (f.mbits + 1 : Nat)) f.emin
  let q : Nat :=
    if l ≤ e then m * 2 ^ (e - l).toNat
    else
      let k := (l - e).toNat
      let q := m / 2 ^ k
      let r := m % 2 ^ k
      let h := 2 ^ (k - 1)
      if r > h ∨ (r = h ∧ (sticky ∨ q % 2 = 1)) then q + 1 else q
  let bits := (l - f.emin).toNat * 2 ^ f.mbits + q
  min bits f.infBits

def pack (f : Fmt) (s : Bool) (m : Nat) (e : Int) (sticky : Bool := false) : Nat :=
  withSign f s (roundMag f m e sticky)

/-- Encode an exact value. -/
def encode (f : Fmt) : Val → Nat
  | .nan => f.nanBits
  | .inf s => withSign f s f.infBits
  | .fin s m e => pack f s m e

def signed (s : Bool) (m : Nat) : Int := if s then -(m : Int) else (m : Int)

/-- Exact sum of two finite values, with the zero-sign rule of rounding to nearest. -/
def addFin (s1 : Bool) (m1 : Nat) (e1 : Int) (s2 : Bool) (m2 : Nat) (e2 : Int) : Val :=
  let e := min e1 e2
  let x := signed s1 (m1 * 2 ^ (e1 - e).toNat) + signed s2 (m2 * 2 ^ (e2 - e).toNat)
  if x = 0 then .fin (s1 && s2) 0 e
  else .fin (decide (x < 0)) x.natAbs e

def addV : Val → Val → Val
  | .nan, _ => .nan
  | _, .nan => .nan
  | .inf s, .inf t => if s = t then .inf s else .nan
  | .inf s, _ => .inf s
  | _, .inf t => .inf t
  | .fin s1 m1 e1, .fin s2 m2 e2 => addFin s1 m1 e1 s2 m2 e2

def negV : Val → Val
  | .nan => .nan
  | .inf s => .inf (!s)
  | .fin s m e => .fin (!s) m e

def mulV : Val → Val → Val
  | .nan, _ => .nan
  | _, .nan => .nan
  | .inf s, .inf t => .inf (s != t)
  | .inf s, .fin t m _ => if m = 0 then .nan else .inf (s != t)
  | .fin t m _, .inf s => if m = 0 then .nan else .inf (s != t)
  | .fin s1 m1 e1, .fin s2 m2 e2 => .fin (s1 != s2) (m1 * m2) (e1 + e2)

def add (f : Fmt) (a b : Nat) : Nat := encode f (addV (decode f a) (decode f b))
def sub (f : Fmt) (a b : Nat) : Nat := encode f (addV (decode f a) (negV (decode f b)))
def mul (f : Fmt) (a b : Nat) : Nat := encode f (mulV (decode f a) (decode f b))
/-- Fused a · b + c. -/
def fma (f : Fmt) (a b c : Nat) : Nat := encode f (addV (mulV (decode f a) (decode f b)) (decode f c))

/-- The quotient of two positive magnitudes with 70 bits more than binary64 holds. -/
def divMag (f : Fmt) (s : Bool) (m1 : Nat) (e1 : Int) (m2 : Nat) (e2 : Int) : Nat :=
  let k := Nat.log2 m2 + f.mbits + 4
  let n := m1 * 2 ^ k
  pack f s (n / m2) (e1 - e2 - k) (decide (n % m2 ≠ 0))

def divV (f : Fmt) : Val → Val → Nat
  | .nan, _ => f.nanBits
  | _, .nan => f.nanBits
  | .inf _, .inf _ => f.nanBits
  | .inf s, .fin t _ _ => withSign f (s != t) f.infBits
  | .fin s _ _, .inf t => withSign f (s != t) 0
  | .fin s1 m1 e1, .fin s2 m2 e2 =>
    if m2 = 0 then (if m1 = 0 then f.nanBits else withSign f (s1 != s2) f.infBits)
    else if m1 = 0 then withSign f (s1 != s2) 0
    else
      -- scale the dividend so that the integer quotient keeps mbits + 3 significant bits
      let j := (Nat.log2 m2 + f.mbits + 4) - Nat.log2 m1
      divMag f (s1 != s2) (m1 * 2 ^ j) (e1 - j) m2 e2

def div (f : Fmt) (a b : Nat) : Nat := divV f (decode f a) (decode f b)

def sqrt (f : Fmt) (a : Nat) : Nat :=
  match decode f a with
  | .nan => f.nanBits
  | .inf s => if s then f.nanBits else f.infBits
  | .fin s m e =>
    if m = 0 then a
    else if s then f.nanBits
    else
      let k := 2 * f.mbits + 8
      let (m, e) := if e % 2 = 0 then (m * 2 ^ k, e - k) else (m * 2 ^ (k + 1), e - (k + 1))
      let r := Nat.sqrt m
      pack f false r (e / 2) (decide (r * r ≠ m))

def isNan (f : Fmt) (a : Nat) : Bool := decide (f.infBits < a % f.signBit)
def isFinite (f : Fmt) (a : Nat) : Bool := decide (a % f.signBit < f.infBits)
def isInf (f : Fmt) (a : Nat) : Bool := decide (a % f.signBit = f.infBits)
def isZero (f : Fmt) (a : Nat) : Bool := decide (a % f.signBit = 0)
def isNeg (f : Fmt) (a : Nat) : Bool := decide (f.signBit ≤ a % (2 * f.signBit))

/-- An order-preserving integer for numbers that are not NaN; both zeros are 0. -/
def key (f : Fmt) (a : Nat) : Int :=
  let m := a % f.signBit
  if isNeg f a then -(m : Int) else (m : Int)

def lt (f : Fmt) (a b : Nat) : Bool := !isNan f a && !isNan f b && decide (key f a < key f b)
def le (f : Fmt) (a b : Nat) : Bool := !isNan f a && !isNan f b && decide (key f a ≤ key f b)
def eq (f : Fmt) (a b : Nat) : Bool := !isNan f a && !isNan f b && decide (key f a = key f b)

def neg (f : Fmt) (a : Nat) : Nat := if isNan f a then f.nanBits else (a + f.signBit) % (2 * f.signBit)
def abs (f : Fmt) (a : Nat) : Nat := if isNan f a then f.nanBits else a % f.signBit

/-- The larger of two numbers; a NaN operand gives NaN, and +0 is above −0. -/
def max2 (f : Fmt) (a b : Nat) : Nat :=
  if isNan f a || isNan f b then f.nanBits
  else if key f a = key f b then (if isNeg f a then b else a)
  else if key f a < key f b then b else a
def min2 (f : Fmt) (a b : Nat) : Nat :=
  if isNan f a || isNan f b then f.nanBits
  else if key f a = key f b then (if isNeg f a then a else b)
  else if key f a < key f b then a else b

def ofInt (f : Fmt) (x : Int) : Nat := pack f (decide (x < 0)) x.natAbs 0
/-- The exact integer scaled by 2^e, rounded. -/
def ofScaled (f : Fmt) (x : Int) (e : Int) : Nat := pack f (decide (x < 0)) x.natAbs e

/-- num / den rounded to nearest even. -/
def ofRat (f : Fmt) (num : Int) (den : Nat) : Nat :=
  if num = 0 ∨ den = 0 then 0
  else divV f (.fin (decide (num < 0)) num.natAbs 0) (.fin false den 0)

/-- Floor of a finite value. -/
def floorV (s : Bool) (m : Nat) (e : Int) : Int :=
  let x : Int := signed s m
  if 0 ≤ e then x * 2 ^ e.toNat else x.fdiv (2 ^ (-e).toNat)

/-- Round half even of a finite value. -/
def rneV (s : Bool) (m : Nat) (e : Int) : Int :=
  if 0 ≤ e then signed s (m * 2 ^ e.toNat)
  else
    let k := (-e).toNat
    let q := m / 2 ^ k
    let r := m % 2 ^ k
    let h := 2 ^ (k - 1)
    signed s (if r > h ∨ (r = h ∧ q % 2 = 1) then q + 1 else q)

def floorI (f : Fmt) (a : Nat) : Option Int :=
  match decode f a with
  | .fin s m e => some (floorV s m e)
  | _ => none
def rneI (f : Fmt) (a : Nat) : Option Int :=
  match decode f a with
  | .fin s m e => some (rneV s m e)
  | _ => none

/-- Floor as a number of the same format. -/
def floorF (f : Fmt) (a : Nat) : Nat :=
  match decode f a with
  | .nan => f.nanBits
  | .inf _ => a
  | .fin s m e =>
    let x := floorV s m e
    if x = 0 then withSign f s 0 else ofInt f x

/-- Conversion between the formats. -/
def convert (f g : Fmt) (a : Nat) : Nat := encode g (decode f a)

/-! ### Elementary functions

Fixed point with `P` fraction bits; every series stops by fuel once its terms are below one unit. -/

/-- Fraction bits of the fixed-point work; far beyond the hardest binary64 rounding case. -/
def P : Nat := 320
def one : Int := 2 ^ P
/-- Working bits guaranteed correct below the rounding position. -/
def fmul (a b : Int) : Int := (a * b).fdiv (2 ^ P)

/-- Σ (±1)^k x^k / k!-like series: term_{k+1} = term_k · x / d(k). -/
def series (x : Int) (d : Nat → Int) : Nat → Nat → Int → Int → Int
  | 0, _, _, acc => acc
  | fuel + 1, k, t, acc =>
    let t' := (fmul t x).fdiv (d k)
    series x d fuel (k + 1) t' (acc + t')

/-- exp of a fixed-point argument of magnitude below 1. -/
def expFx (x : Int) : Int := series x (fun k => (k + 1 : Nat)) 90 0 one one

def sinFx (x : Int) : Int := series (-(fmul x x)) (fun k => ((2 * k + 2) * (2 * k + 3) : Nat)) 45 0 x x
def cosFx (x : Int) : Int := series (-(fmul x x)) (fun k => ((2 * k + 1) * (2 * k + 2) : Nat)) 45 0 one one

/-- Σ (−1)^k x^(2k+1)/(2k+1) with a power running beside the sum. -/
def atanSeries (x2 : Int) : Nat → Nat → Int → Int → Int
  | 0, _, _, acc => acc
  | fuel + 1, k, p, acc =>
    let t := p.fdiv (2 * k + 1 : Nat)
    atanSeries x2 fuel (k + 1) (-(fmul p x2)) (acc + t)

/-- arctan(1/n) in fixed point with `bits` fraction bits. -/
def atanInvSeries (n2 : Int) : Nat → Nat → Int → Int → Int
  | 0, _, _, acc => acc
  | fuel + 1, k, p, acc =>
    let t := p.fdiv (2 * k + 1 : Nat)
    atanInvSeries n2 fuel (k + 1) (-(p.fdiv n2)) (acc + t)

/-- π with `bits` fraction bits (Machin). -/
def piFx (bits : Nat) : Int :=
  let g := bits + 32
  let u : Int := 2 ^ g
  let a := atanInvSeries 25 (g / 4 + 8) 0 (u.fdiv 5) 0
  let b := atanInvSeries (239 * 239) (g / 15 + 8) 0 (u.fdiv 239) 0
  (4 * (4 * a - b)).fdiv (2 ^ 32)

/-- ln(1+z)/(…): 2·artanh(z) for a fixed-point z of magnitude at most 1/3. -/
def artanhSeries (z2 : Int) : Nat → Nat → Int → Int → Int
  | 0, _, _, acc => acc
  | fuel + 1, k, p, acc =>
    artanhSeries z2 fuel (k + 1) (fmul p z2) (acc + p.fdiv (2 * k + 1 : Nat))

def lnFx (x : Int) : Int :=
  let z := ((x - one) * one).fdiv (x + one)
  2 * artanhSeries (fmul z z) 120 0 z 0

def ln2Fx : Int := lnFx (2 * one)
def ln10Fx : Int := 3 * ln2Fx + lnFx ((10 * one).fdiv 8)

/-- ln of a positive finite m · 2^e. -/
def lnMag (m : Nat) (e : Int) : Int :=
  let n := Nat.log2 m
  let x : Int := (m * 2 ^ P : Nat) / (2 ^ n : Nat)
  lnFx x + (e + n) * ln2Fx

/-- Round a fixed-point value times 2^e. A value within 2^(80 − P) relative of a number with one bit more
than the format holds is that number: an inexact result is never so near (Table-maker bounds), an exact
one always is. -/
def roundFx (f : Fmt) (s : Bool) (x : Nat) (e : Int) : Nat :=
  if x = 0 then withSign f s 0 else
  let n := Nat.log2 x + 1
  let keep := f.mbits + 3
  if n ≤ keep + 80 then pack f s x (e - P)
  else
    let k := n - keep
    let q := (x + 2 ^ (k - 1)) / 2 ^ k
    let d := ((x : Int) - (q * 2 ^ k : Nat)).natAbs
    if d < 2 ^ (k - 120) then pack f s q (e - P + k)
    else pack f s x (e - P) true

def exp (f : Fmt) (a : Nat) : Nat :=
  match decode f a with
  | .nan => f.nanBits
  | .inf s => if s then 0 else f.infBits
  | .fin s m e =>
    if m = 0 then ofInt f 1
    else if (Nat.log2 m : Int) + e > 12 then (if s then 0 else f.infBits)
    else if (Nat.log2 m : Int) + e < -80 then ofInt f 1
    else
      let x : Int := signed s m * 2 ^ ((P : Int) + e).toNat
      let x : Int := if (P : Int) + e < 0 then (signed s m).fdiv (2 ^ (-((P : Int) + e)).toNat) else x
      let k := x.fdiv ln2Fx
      let r := x - k * ln2Fx
      roundFx f false (expFx r).toNat k

def ln (f : Fmt) (a : Nat) : Nat :=
  match decode f a with
  | .nan => f.nanBits
  | .inf s => if s then f.nanBits else f.infBits
  | .fin s m e =>
    if m = 0 then withSign f true f.infBits
    else if s then f.nanBits
    else
      let y := lnMag m e
      roundFx f (decide (y < 0)) y.natAbs 0

/-- k with m · 2^e = 10^k, where there is one. -/
def pow10Of (m : Nat) (e : Int) : Option Int :=
  let k := (Nat.log2 m : Int) + e
  let g := (k * 30103).fdiv 100000
  [g - 1, g, g + 1].find? fun j =>
    if 0 ≤ j then
      (if 0 ≤ e then m * 2 ^ e.toNat == 10 ^ j.toNat else m == 10 ^ j.toNat * 2 ^ (-e).toNat)
    else
      (if 0 ≤ e then m * 2 ^ e.toNat * 10 ^ (-j).toNat == 1
       else m * 10 ^ (-j).toNat == 2 ^ (-e).toNat)

def log10 (f : Fmt) (a : Nat) : Nat :=
  match decode f a with
  | .nan => f.nanBits
  | .inf s => if s then f.nanBits else f.infBits
  | .fin s m e =>
    if m = 0 then withSign f true f.infBits
    else if s then f.nanBits
    else match pow10Of m e with
      | some k => ofInt f k
      | none =>
        let y := (lnMag m e * one).fdiv ln10Fx
        roundFx f (decide (y < 0)) y.natAbs 0

/-- Quadrant and remainder in fixed point of a finite argument. -/
def reduceTrig (s : Bool) (m : Nat) (e : Int) : Nat × Int :=
  let extra := (max 0 ((Nat.log2 m : Int) + e)).toNat + 64
  let bits := P + extra
  let half := piFx bits          -- π · 2^bits; half-π is this / 2 at the same scale
  let x : Int := if 0 ≤ (bits : Int) + e then signed s m * 2 ^ ((bits : Int) + e).toNat
    else (signed s m).fdiv (2 ^ (-((bits : Int) + e)).toNat)
  let q := (2 * x + half.fdiv 2).fdiv half
  let r := x - (q * half).fdiv 2
  ((q % 4).toNat, r.fdiv (2 ^ extra))

/-- A magnitude just below m · 2^e, for functions whose value next to zero is x − tiny. -/
def nudge (f : Fmt) (s : Bool) (m : Nat) (e : Int) (up : Bool) : Nat :=
  let m' := m * 2 ^ 100
  pack f s (if up then m' + 1 else m' - 1) (e - 100) true

def sin (f : Fmt) (a : Nat) : Nat :=
  match decode f a with
  | .nan => f.nanBits
  | .inf _ => f.nanBits
  | .fin s m e =>
    if m = 0 then a
    else if (Nat.log2 m : Int) + e < -60 then nudge f s m e false
    else
      let (q, r) := reduceTrig s m e
      let y := if q = 0 then sinFx r else if q = 1 then cosFx r else if q = 2 then -(sinFx r) else -(cosFx r)
      roundFx f (decide (y < 0)) y.natAbs 0

def cos (f : Fmt) (a : Nat) : Nat :=
  match decode f a with
  | .nan => f.nanBits
  | .inf _ => f.nanBits
  | .fin s m e =>
    if m = 0 then ofInt f 1
    else if (Nat.log2 m : Int) + e < -60 then ofInt f 1
    else
      let (q, r) := reduceTrig s m e
      let y := if q = 0 then cosFx r else if q = 1 then -(sinFx r) else if q = 2 then -(cosFx r) else sinFx r
      roundFx f (decide (y < 0)) y.natAbs 0

def tan (f : Fmt) (a : Nat) : Nat :=
  match decode f a with
  | .nan => f.nanBits
  | .inf _ => f.nanBits
  | .fin s m e =>
    if m = 0 then a
    else if (Nat.log2 m : Int) + e < -60 then nudge f s m e true
    else
      let (q, r) := reduceTrig s m e
      let sn := sinFx r
      let cs := cosFx r
      let (n, d) := if q % 2 = 0 then (sn, cs) else (-cs, sn)
      if d = 0 then f.nanBits
      else
        let neg := decide ((n < 0) ≠ (d < 0))
        roundFx f neg (n.natAbs * 2 ^ P / d.natAbs) 0

/-- arctan of a fixed-point value in [0, 1], halved twice by the half-angle identity. -/
def atanFx (x : Int) : Int :=
  let h (x : Int) : Int :=
    let r : Int := Nat.sqrt ((one * one + x * x).toNat)
    (x * one).fdiv (one + r)
  4 * atanSeries (let y := h (h x); fmul y y) 140 0 (h (h x)) 0

def atan (f : Fmt) (a : Nat) : Nat :=
  match decode f a with
  | .nan => f.nanBits
  | .inf s => roundFx f s ((piFx P).fdiv 2).toNat 0
  | .fin s m e =>
    if m = 0 then a
    else if (Nat.log2 m : Int) + e < -60 then nudge f s m e false
    else if (Nat.log2 m : Int) + e ≥ 0 then
      -- |x| ≥ 1: π/2 − arctan(1/|x|)
      let inv : Int := (2 ^ (2 * P) : Nat) / (m * 2 ^ 0 : Nat)
      let inv := if 0 ≤ e then inv.fdiv (2 ^ (P + e.toNat)) else inv * 2 ^ (-e).toNat / 2 ^ P
      roundFx f s ((piFx P).fdiv 2 - atanFx inv).toNat 0
    else
      let x : Int := if 0 ≤ (P : Int) + e then (m * 2 ^ ((P : Int) + e).toNat : Nat)
        else (m : Int).fdiv (2 ^ (-((P : Int) + e)).toNat)
      roundFx f s (atanFx x).toNat 0

/-- The value is an integer: none if not, else its parity is odd. -/
def oddInt (m : Nat) (e : Int) : Option Bool :=
  if 0 ≤ e then some (decide (e = 0 ∧ m % 2 = 1))
  else
    let k := (-e).toNat
    if m % 2 ^ k = 0 then some (decide ((m / 2 ^ k) % 2 = 1)) else none

/-- |x|^y for finite positive x ≠ 1 and finite non-zero y. -/
def powMag (f : Fmt) (s : Bool) (m : Nat) (e : Int) (ys : Bool) (ym : Nat) (ye : Int) : Nat :=
  let mag := (Nat.log2 ym : Int) + ye
  let big := decide ((Nat.log2 m : Int) + e ≥ 0)
  if mag > 70 then (if big != ys then withSign f s f.infBits else withSign f s 0)
  else if mag < -150 then withSign f s (ofInt f 1)
  else
    let l := lnMag m e
    let y := signed ys ym
    let t := if 0 ≤ ye then l * y * 2 ^ ye.toNat else (l * y).fdiv (2 ^ (-ye).toNat)
    let k := t.fdiv ln2Fx
    if k > 5000 then withSign f s f.infBits
    else if k < -5000 then withSign f s 0
    else roundFx f s (expFx (t - k * ln2Fx)).toNat k

/-- pow of IEEE 754-2019 clause 9.2. -/
def pow (f : Fmt) (a b : Nat) : Nat :=
  let one := ofInt f 1
  match decode f a, decode f b with
  | _, .fin _ 0 _ => one
  | x, y =>
    if a = one then one
    else match x, y with
      | .nan, _ => f.nanBits
      | _, .nan => f.nanBits
      | .inf s, .inf t => if t then 0 else (let _ := s; f.infBits)
      | .inf s, .fin t m e =>
        let sg := s && (oddInt m e == some true)
        if t then withSign f sg 0 else withSign f sg f.infBits
      | .fin _ m e, .inf t =>
        let c := compare (decode f (encode f (.fin false m e))) (decode f one)
        match c with
        | .eq => one
        | .gt => if t then 0 else f.infBits
        | .lt => if t then f.infBits else 0
      | .fin s m e, .fin t n g =>
        if m = 0 then
          let sg := s && (oddInt n g == some true)
          if t then withSign f sg f.infBits else withSign f sg 0
        else if s then
          match oddInt n g with
          | none => f.nanBits
          | some o =>
            if encode f (.fin false m e) = one then withSign f o one else powMag f o m e t n g
        else powMag f false m e t n g
where
  compare (x y : Val) : Ordering :=
    match x, y with
    | .fin _ m e, .fin _ n g =>
      let k := min e g
      Ord.compare (m * 2 ^ (e - k).toNat) (n * 2 ^ (g - k).toNat)
    | _, _ => .eq

end Sys2Proof.Machine.Float

namespace Sys2Proof.Machine

/-! Short names for binary32 on registers. -/

abbrev F32 := BitVec 32
abbrev F64 := BitVec 64

namespace F32

def add (a b : F32) : F32 := .ofNat 32 (Float.add Float.b32 a.toNat b.toNat)
def sub (a b : F32) : F32 := .ofNat 32 (Float.sub Float.b32 a.toNat b.toNat)
def mul (a b : F32) : F32 := .ofNat 32 (Float.mul Float.b32 a.toNat b.toNat)
def div (a b : F32) : F32 := .ofNat 32 (Float.div Float.b32 a.toNat b.toNat)
def fma (a b c : F32) : F32 := .ofNat 32 (Float.fma Float.b32 a.toNat b.toNat c.toNat)
def sqrt (a : F32) : F32 := .ofNat 32 (Float.sqrt Float.b32 a.toNat)
def lt (a b : F32) : Bool := Float.lt Float.b32 a.toNat b.toNat
def le (a b : F32) : Bool := Float.le Float.b32 a.toNat b.toNat
def eq (a b : F32) : Bool := Float.eq Float.b32 a.toNat b.toNat
def neg (a : F32) : F32 := .ofNat 32 (Float.neg Float.b32 a.toNat)
def abs (a : F32) : F32 := .ofNat 32 (Float.abs Float.b32 a.toNat)
def max (a b : F32) : F32 := .ofNat 32 (Float.max2 Float.b32 a.toNat b.toNat)
def min (a b : F32) : F32 := .ofNat 32 (Float.min2 Float.b32 a.toNat b.toNat)
def isNan (a : F32) : Bool := Float.isNan Float.b32 a.toNat
def isFin (a : F32) : Bool := Float.isFinite Float.b32 a.toNat
def isNeg (a : F32) : Bool := Float.isNeg Float.b32 a.toNat
def isZero (a : F32) : Bool := Float.isZero Float.b32 a.toNat
def ofInt (x : Int) : F32 := .ofNat 32 (Float.ofInt Float.b32 x)
def fromNat (x : Nat) : F32 := .ofNat 32 (Float.ofInt Float.b32 x)
def ofRat (n : Int) (d : Nat) : F32 := .ofNat 32 (Float.ofRat Float.b32 n d)
/-- x · 2^e rounded. -/
def ofScaled (x e : Int) : F32 := .ofNat 32 (Float.ofScaled Float.b32 x e)
def floorI (a : F32) : Option Int := Float.floorI Float.b32 a.toNat
def rneI (a : F32) : Option Int := Float.rneI Float.b32 a.toNat
def floor (a : F32) : F32 := .ofNat 32 (Float.floorF Float.b32 a.toNat)
def exp (a : F32) : F32 := .ofNat 32 (Float.exp Float.b32 a.toNat)
def ln (a : F32) : F32 := .ofNat 32 (Float.ln Float.b32 a.toNat)
def log10 (a : F32) : F32 := .ofNat 32 (Float.log10 Float.b32 a.toNat)
def sin (a : F32) : F32 := .ofNat 32 (Float.sin Float.b32 a.toNat)
def cos (a : F32) : F32 := .ofNat 32 (Float.cos Float.b32 a.toNat)
def tan (a : F32) : F32 := .ofNat 32 (Float.tan Float.b32 a.toNat)
def atan (a : F32) : F32 := .ofNat 32 (Float.atan Float.b32 a.toNat)
def pow (a b : F32) : F32 := .ofNat 32 (Float.pow Float.b32 a.toNat b.toNat)
def toF64 (a : F32) : F64 := .ofNat 64 (Float.convert Float.b32 Float.b64 a.toNat)

def zero : F32 := 0#32
def one : F32 := 0x3F800000#32
def nan : F32 := 0x7FC00000#32
def inf : F32 := 0x7F800000#32

/-- The value as an exact fraction (numerator, denominator) where it is finite. -/
def toRat (a : F32) : Option (Int × Nat) :=
  match Float.decode Float.b32 a.toNat with
  | .fin s m e =>
    some (if 0 ≤ e then (Float.signed s (m * 2 ^ e.toNat), 1) else (Float.signed s m, 2 ^ (-e).toNat))
  | _ => none

end F32

namespace F64

def add (a b : F64) : F64 := .ofNat 64 (Float.add Float.b64 a.toNat b.toNat)
def sub (a b : F64) : F64 := .ofNat 64 (Float.sub Float.b64 a.toNat b.toNat)
def mul (a b : F64) : F64 := .ofNat 64 (Float.mul Float.b64 a.toNat b.toNat)
def div (a b : F64) : F64 := .ofNat 64 (Float.div Float.b64 a.toNat b.toNat)
def fma (a b c : F64) : F64 := .ofNat 64 (Float.fma Float.b64 a.toNat b.toNat c.toNat)
def sqrt (a : F64) : F64 := .ofNat 64 (Float.sqrt Float.b64 a.toNat)
def lt (a b : F64) : Bool := Float.lt Float.b64 a.toNat b.toNat
def le (a b : F64) : Bool := Float.le Float.b64 a.toNat b.toNat
def neg (a : F64) : F64 := .ofNat 64 (Float.neg Float.b64 a.toNat)
def abs (a : F64) : F64 := .ofNat 64 (Float.abs Float.b64 a.toNat)
def max (a b : F64) : F64 := .ofNat 64 (Float.max2 Float.b64 a.toNat b.toNat)
def min (a b : F64) : F64 := .ofNat 64 (Float.min2 Float.b64 a.toNat b.toNat)
def isNan (a : F64) : Bool := Float.isNan Float.b64 a.toNat
def isFin (a : F64) : Bool := Float.isFinite Float.b64 a.toNat
def ofInt (x : Int) : F64 := .ofNat 64 (Float.ofInt Float.b64 x)
def ofRat (n : Int) (d : Nat) : F64 := .ofNat 64 (Float.ofRat Float.b64 n d)
def floorI (a : F64) : Option Int := Float.floorI Float.b64 a.toNat
def rneI (a : F64) : Option Int := Float.rneI Float.b64 a.toNat
def exp (a : F64) : F64 := .ofNat 64 (Float.exp Float.b64 a.toNat)
def atan (a : F64) : F64 := .ofNat 64 (Float.atan Float.b64 a.toNat)
def toF32 (a : F64) : F32 := .ofNat 32 (Float.convert Float.b64 Float.b32 a.toNat)
def zero : F64 := 0#64
def one : F64 := 0x3FF0000000000000#64

end F64

/-- A value of Table "binary32 field" ranges: finite and inside the range. -/
def Float.inRange (lo hi w : Nat) : Bool :=
  Float.isFinite Float.b32 w && Float.le Float.b32 lo w && Float.le Float.b32 w hi

end Sys2Proof.Machine
end

