-- ==== Sys2Proof/Machine/Pages.lean ====
section
/-! DEFINITION. The register map of a lane: every field the register tables of the spec define, one
constant per field, with its access, its reset value and the range its description states
(02_register_pages.md R40 to R44 and the register table of each chapter). A reset the spec takes from a
configuration, a record, the image or the factory is 0 here (assumption log 1, DESIGN CHOICE). -/

namespace Sys2Proof.Machine

/-- Access kinds of the register tables (02_register_pages.md R49 to R51). -/
inductive Access where
  | ro | rw | wo | w1c | w1s | rc | rwl | rws
  deriving DecidableEq, Repr

/-- The values a writable field accepts; any other value reports RANGE (R51). -/
inductive Rng where
  | any
  | nat (lo hi : Nat)
  | int (lo hi : Int)
  /-- finite binary32 between two bit patterns of positive numbers -/
  | f32 (lo hi : Nat)
  | f32pos
  | f32nonneg
  | f32fin
  deriving DecidableEq, Repr

/-- One field of a register table. `cnt` and `stride` describe the tables' `+ 4n` rows. -/
structure Fld where
  page : Nat
  off : Nat
  hi : Nat
  lo : Nat
  acc : Access := .ro
  reset : Nat := 0
  ll : Bool := false
  rng : Rng := .any
  cnt : Nat := 1
  stride : Nat := 0
  deriving DecidableEq, Repr

/-- Element `i` of an array field. -/
def Fld.idx (f : Fld) (i : Nat) : Fld := { f with off := f.off + i * f.stride, cnt := 1, stride := 0 }

/-- The field on instance `n` of a page group (ETH0 to ETH3 and the like). -/
def Fld.inst (f : Fld) (n : Nat) : Fld := { f with page := f.page + n }

/-- The key of the field's register: its byte offset from 0x4000_0000 (R40). -/
def Fld.key (f : Fld) : Nat := f.page * 0x1000 + f.off

def Fld.width (f : Fld) : Nat := f.hi + 1 - f.lo

/-- The field covers the register at page offset `off`. -/
def Fld.covers (f : Fld) (off : Nat) : Bool :=
  if f.cnt = 1 then f.off == off
  else decide (f.off ≤ off) && decide ((off - f.off) % f.stride = 0) && decide ((off - f.off) / f.stride < f.cnt)

namespace R

/-! Page SYS: 03_power_clocks_start.md. -/
def SYS.SERIAL_L : Fld := { page := 0x00, off := 0x040, hi := 31, lo := 0 }
def SYS.SERIAL_H : Fld := { page := 0x00, off := 0x044, hi := 31, lo := 0 }
def SYS.CFGFP_L : Fld := { page := 0x00, off := 0x048, hi := 31, lo := 0 }
def SYS.CFGFP_H : Fld := { page := 0x00, off := 0x04C, hi := 31, lo := 0 }
def SYS.PARTFP_L : Fld := { page := 0x00, off := 0x050, hi := 31, lo := 0 }
def SYS.PARTFP_H : Fld := { page := 0x00, off := 0x054, hi := 31, lo := 0 }
def SYS.CALINV : Fld := { page := 0x00, off := 0x058, hi := 13, lo := 13 }
def SYS.ROLLBACK : Fld := { page := 0x00, off := 0x058, hi := 12, lo := 12 }
def SYS.REASON : Fld := { page := 0x00, off := 0x058, hi := 11, lo := 8 }
def SYS.UPDINT : Fld := { page := 0x00, off := 0x058, hi := 6, lo := 6 }
def SYS.TYPE : Fld := { page := 0x00, off := 0x058, hi := 5, lo := 4, reset := 0x2 }
def SYS.TRIG : Fld := { page := 0x00, off := 0x058, hi := 3, lo := 0, reset := 0x2 }
def SYS.PCYC : Fld := { page := 0x00, off := 0x05C, hi := 31, lo := 0 }
def SYS.MAXOUT : Fld := { page := 0x00, off := 0x060, hi := 31, lo := 16, acc := .rwl }
def SYS.RETPOL : Fld := { page := 0x00, off := 0x060, hi := 0, lo := 0, acc := .rwl }
def SYS.STARTUP : Fld := { page := 0x00, off := 0x064, hi := 31, lo := 0 }

/-! Page FRAME: 04_frame.md. -/
def FRAME.FNO_L : Fld := { page := 0x01, off := 0x040, hi := 31, lo := 0 }
def FRAME.FNO_H : Fld := { page := 0x01, off := 0x044, hi := 31, lo := 0 }
def FRAME.NTNS : Fld := { page := 0x01, off := 0x048, hi := 29, lo := 0 }
def FRAME.NTSEC_L : Fld := { page := 0x01, off := 0x04C, hi := 31, lo := 0 }
def FRAME.NTSEC_H : Fld := { page := 0x01, off := 0x050, hi := 15, lo := 0 }
def FRAME.FLEN : Fld := { page := 0x01, off := 0x054, hi := 31, lo := 0, reset := 0xF4240 }
def FRAME.PHASE : Fld := { page := 0x01, off := 0x058, hi := 31, lo := 0 }
def FRAME.CALVALID : Fld := { page := 0x01, off := 0x05C, hi := 5, lo := 5 }
def FRAME.ALIGNED : Fld := { page := 0x01, off := 0x05C, hi := 4, lo := 4 }
def FRAME.SYNC : Fld := { page := 0x01, off := 0x05C, hi := 1, lo := 0 }
def FRAME.MSOFS_L : Fld := { page := 0x01, off := 0x060, hi := 31, lo := 0 }
def FRAME.MSOFS_H : Fld := { page := 0x01, off := 0x064, hi := 31, lo := 0 }
def FRAME.RNFNO_L : Fld := { page := 0x01, off := 0x068, hi := 31, lo := 0 }
def FRAME.RNFNO_H : Fld := { page := 0x01, off := 0x06C, hi := 31, lo := 0 }
def FRAME.SLEW : Fld := { page := 0x01, off := 0x070, hi := 8, lo := 0, acc := .rws, reset := 0x1F4, rng := .nat 1 500 }
def FRAME.LLREAD : Fld := { page := 0x01, off := 0x074, hi := 31, lo := 0 }
def FRAME.LATECNT : Fld := { page := 0x01, off := 0x078, hi := 31, lo := 0, ll := true }
def FRAME.SLACKMIN : Fld := { page := 0x01, off := 0x07C, hi := 15, lo := 0, acc := .rw, reset := 0xFFFF, ll := true }
def FRAME.I_LATE : Fld := { page := 0x01, off := 0x010, hi := 5, lo := 5, acc := .w1c, ll := true }
def FRAME.I_LLREAD : Fld := { page := 0x01, off := 0x010, hi := 4, lo := 4, acc := .w1c }
def FRAME.I_MSCHG : Fld := { page := 0x01, off := 0x010, hi := 3, lo := 3, acc := .w1c }
def FRAME.I_ALIGNLOST : Fld := { page := 0x01, off := 0x010, hi := 2, lo := 2, acc := .w1c }
def FRAME.I_SYNCCHG : Fld := { page := 0x01, off := 0x010, hi := 1, lo := 1, acc := .w1c }

/-! Page TST: 05_touchstone.md. -/
def TST.XFER : Fld := { page := 0x02, off := 0x040, hi := 27, lo := 27 }
def TST.PATHTEST : Fld := { page := 0x02, off := 0x040, hi := 26, lo := 26 }
def TST.TSLOST : Fld := { page := 0x02, off := 0x040, hi := 25, lo := 25 }
def TST.GAP : Fld := { page := 0x02, off := 0x040, hi := 24, lo := 24 }
def TST.ROLEB : Fld := { page := 0x02, off := 0x040, hi := 22, lo := 20 }
def TST.ROLEA : Fld := { page := 0x02, off := 0x040, hi := 18, lo := 16 }
def TST.CMP : Fld := { page := 0x02, off := 0x040, hi := 10, lo := 8 }
def TST.MODE : Fld := { page := 0x02, off := 0x040, hi := 4, lo := 2 }
def TST.OWNER : Fld := { page := 0x02, off := 0x040, hi := 1, lo := 0 }
def TST.VFNO : Fld := { page := 0x02, off := 0x044, hi := 31, lo := 0 }
def TST.TRLIM : Fld := { page := 0x02, off := 0x048, hi := 3, lo := 0, acc := .rwl, reset := 0x3, rng := .nat 1 15 }
def TST.SWAP : Fld := { page := 0x02, off := 0x04C, hi := 0, lo := 0, acc := .wo }
def TST.LANEID : Fld := { page := 0x02, off := 0x050, hi := 0, lo := 0, ll := true }
def TST.DIFFOFS : Fld := { page := 0x02, off := 0x054, hi := 19, lo := 0, ll := true }
def TST.DIFFCLS : Fld := { page := 0x02, off := 0x058, hi := 23, lo := 16, ll := true }
def TST.DIFFDST : Fld := { page := 0x02, off := 0x058, hi := 11, lo := 0, ll := true }
def TST.DIFFFNO : Fld := { page := 0x02, off := 0x05C, hi := 31, lo := 0, ll := true }
def TST.TTRES : Fld := { page := 0x02, off := 0x060, hi := 3, lo := 0, ll := true }
def TST.I_TSLOST : Fld := { page := 0x02, off := 0x010, hi := 5, lo := 5, acc := .w1c }
def TST.I_MODECHG : Fld := { page := 0x02, off := 0x010, hi := 4, lo := 4, acc := .w1c }
def TST.I_DISAG : Fld := { page := 0x02, off := 0x010, hi := 3, lo := 3, acc := .w1c }
def TST.I_GAP : Fld := { page := 0x02, off := 0x010, hi := 2, lo := 2, acc := .w1c }
def TST.I_OWNCHG : Fld := { page := 0x02, off := 0x010, hi := 1, lo := 1, acc := .w1c }

/-! Page PWR: 03_power_clocks_start.md. -/
def PWR.BANKFLT : Fld := { page := 0x03, off := 0x040, hi := 8, lo := 8 }
def PWR.HOLDRDY : Fld := { page := 0x03, off := 0x040, hi := 7, lo := 7 }
def PWR.BANKLOW : Fld := { page := 0x03, off := 0x040, hi := 6, lo := 6 }
def PWR.REDMODE : Fld := { page := 0x03, off := 0x040, hi := 5, lo := 5 }
def PWR.PFAIL : Fld := { page := 0x03, off := 0x040, hi := 4, lo := 4 }
def PWR.IN2AC : Fld := { page := 0x03, off := 0x040, hi := 3, lo := 3 }
def PWR.IN1AC : Fld := { page := 0x03, off := 0x040, hi := 2, lo := 2 }
def PWR.IN2GOOD : Fld := { page := 0x03, off := 0x040, hi := 1, lo := 1 }
def PWR.IN1GOOD : Fld := { page := 0x03, off := 0x040, hi := 0, lo := 0 }
def PWR.IN1F : Fld := { page := 0x03, off := 0x044, hi := 31, lo := 16 }
def PWR.IN1V : Fld := { page := 0x03, off := 0x044, hi := 15, lo := 0 }
def PWR.IN2F : Fld := { page := 0x03, off := 0x048, hi := 31, lo := 16 }
def PWR.IN2V : Fld := { page := 0x03, off := 0x048, hi := 15, lo := 0 }
def PWR.HOLDMS : Fld := { page := 0x03, off := 0x04C, hi := 31, lo := 16 }
def PWR.BANKV : Fld := { page := 0x03, off := 0x04C, hi := 15, lo := 0 }
def PWR.PIN : Fld := { page := 0x03, off := 0x050, hi := 15, lo := 0 }
def PWR.FAULT : Fld := { page := 0x03, off := 0x054, hi := 25, lo := 16 }
def PWR.ON : Fld := { page := 0x03, off := 0x054, hi := 9, lo := 0 }
def PWR.DSPOFF : Fld := { page := 0x03, off := 0x058, hi := 0, lo := 0, acc := .rws }
def PWR.INLCNT : Fld := { page := 0x03, off := 0x05C, hi := 31, lo := 16 }
def PWR.PFCNT : Fld := { page := 0x03, off := 0x05C, hi := 15, lo := 0 }
def PWR.I_HOLDRDY : Fld := { page := 0x03, off := 0x010, hi := 7, lo := 7, acc := .w1c }
def PWR.I_BANKLOW : Fld := { page := 0x03, off := 0x010, hi := 6, lo := 6, acc := .w1c }
def PWR.I_DOMFLT : Fld := { page := 0x03, off := 0x010, hi := 5, lo := 5, acc := .w1c }
def PWR.I_PFCLR : Fld := { page := 0x03, off := 0x010, hi := 4, lo := 4, acc := .w1c }
def PWR.I_PFAIL : Fld := { page := 0x03, off := 0x010, hi := 3, lo := 3, acc := .w1c }
def PWR.I_INRET : Fld := { page := 0x03, off := 0x010, hi := 2, lo := 2, acc := .w1c }
def PWR.I_INLOST : Fld := { page := 0x03, off := 0x010, hi := 1, lo := 1, acc := .w1c }

/-! Page CLK: 03_power_clocks_start.md. -/
def CLK.CLKOK : Fld := { page := 0x04, off := 0x040, hi := 18, lo := 0 }
def CLK.CLKFLT : Fld := { page := 0x04, off := 0x044, hi := 18, lo := 0, acc := .w1c }
def CLK.REFFALL : Fld := { page := 0x04, off := 0x048, hi := 0, lo := 0 }
def CLK.MEASSEL : Fld := { page := 0x04, off := 0x04C, hi := 4, lo := 0, acc := .rw, rng := .nat 0 18 }
def CLK.MEASVAL : Fld := { page := 0x04, off := 0x050, hi := 31, lo := 0, ll := true }
def CLK.I_REFFALL : Fld := { page := 0x04, off := 0x010, hi := 2, lo := 2, acc := .w1c }
def CLK.I_CLKFLT : Fld := { page := 0x04, off := 0x010, hi := 1, lo := 1, acc := .w1c }

/-! Page RST: 03_power_clocks_start.md. -/
def RST.KIND : Fld := { page := 0x05, off := 0x040, hi := 1, lo := 0, acc := .rwl, rng := .nat 0 2 }
def RST.COLDCNT : Fld := { page := 0x05, off := 0x044, hi := 31, lo := 16 }
def RST.WARMCNT : Fld := { page := 0x05, off := 0x044, hi := 15, lo := 0 }
def RST.LRSTB : Fld := { page := 0x05, off := 0x048, hi := 31, lo := 16 }
def RST.LRSTA : Fld := { page := 0x05, off := 0x048, hi := 15, lo := 0 }

/-! Page HLTH: 05_touchstone.md. -/
def HLTH.FCOMP_L : Fld := { page := 0x06, off := 0x040, hi := 31, lo := 0 }
def HLTH.FCOMP_H : Fld := { page := 0x06, off := 0x044, hi := 31, lo := 0 }
def HLTH.FALONE_L : Fld := { page := 0x06, off := 0x048, hi := 31, lo := 0 }
def HLTH.FALONE_H : Fld := { page := 0x06, off := 0x04C, hi := 31, lo := 0 }
def HLTH.FGAP : Fld := { page := 0x06, off := 0x050, hi := 31, lo := 0 }
def HLTH.FQUN_L : Fld := { page := 0x06, off := 0x054, hi := 31, lo := 0 }
def HLTH.FQUN_H : Fld := { page := 0x06, off := 0x058, hi := 31, lo := 0 }
def HLTH.FQEX_L : Fld := { page := 0x06, off := 0x05C, hi := 31, lo := 0 }
def HLTH.FQEX_H : Fld := { page := 0x06, off := 0x060, hi := 31, lo := 0 }
def HLTH.DISAG : Fld := { page := 0x06, off := 0x064, hi := 31, lo := 0 }
def HLTH.TRTOTB : Fld := { page := 0x06, off := 0x068, hi := 31, lo := 16 }
def HLTH.TRTOTA : Fld := { page := 0x06, off := 0x068, hi := 15, lo := 0 }
def HLTH.TRWINB : Fld := { page := 0x06, off := 0x06C, hi := 7, lo := 4 }
def HLTH.TRWINA : Fld := { page := 0x06, off := 0x06C, hi := 3, lo := 0 }
def HLTH.INDROP : Fld := { page := 0x06, off := 0x070, hi := 31, lo := 0 }
def HLTH.INDSRC : Fld := { page := 0x06, off := 0x074, hi := 7, lo := 0 }
def HLTH.TXDROP : Fld := { page := 0x06, off := 0x078, hi := 31, lo := 0 }
def HLTH.SINGLE : Fld := { page := 0x06, off := 0x07C, hi := 7, lo := 7 }
def HLTH.PATHB : Fld := { page := 0x06, off := 0x07C, hi := 6, lo := 6 }
def HLTH.PATHA : Fld := { page := 0x06, off := 0x07C, hi := 5, lo := 5 }
def HLTH.QIMGINV : Fld := { page := 0x06, off := 0x07C, hi := 4, lo := 4 }
def HLTH.TSLOST : Fld := { page := 0x06, off := 0x07C, hi := 3, lo := 3 }
def HLTH.FAILB : Fld := { page := 0x06, off := 0x07C, hi := 2, lo := 2 }
def HLTH.FAILA : Fld := { page := 0x06, off := 0x07C, hi := 1, lo := 1 }
def HLTH.REPLACE : Fld := { page := 0x06, off := 0x07C, hi := 0, lo := 0 }
def HLTH.OFOVR : Fld := { page := 0x06, off := 0x080, hi := 31, lo := 0 }
def HLTH.I_ALARM : Fld := { page := 0x06, off := 0x010, hi := 8, lo := 1, acc := .w1c }

/-! Page ENG: 01_architecture.md. -/
def ENG.FIRM : Fld := { page := 0x08, off := 0x040, hi := 8, lo := 8 }
def ENG.STATE : Fld := { page := 0x08, off := 0x040, hi := 2, lo := 0, ll := true }
def ENG.TRAPC : Fld := { page := 0x08, off := 0x044, hi := 7, lo := 0, ll := true }
def ENG.TRAPPC : Fld := { page := 0x08, off := 0x048, hi := 31, lo := 0, ll := true }
def ENG.TRAPFNO : Fld := { page := 0x08, off := 0x04C, hi := 31, lo := 0, ll := true }
def ENG.CYC_L : Fld := { page := 0x08, off := 0x050, hi := 31, lo := 0, ll := true }
def ENG.CYC_H : Fld := { page := 0x08, off := 0x054, hi := 31, lo := 0, ll := true }
def ENG.BUSYUS : Fld := { page := 0x08, off := 0x058, hi := 15, lo := 0, ll := true }
def ENG.MAXBUSY : Fld := { page := 0x08, off := 0x05C, hi := 15, lo := 0, acc := .rw, ll := true }
def ENG.SRAMCE : Fld := { page := 0x08, off := 0x060, hi := 31, lo := 0, ll := true }
def ENG.WDFR : Fld := { page := 0x08, off := 0x064, hi := 7, lo := 0, reset := 0xA }
def ENG.I_CE : Fld := { page := 0x08, off := 0x010, hi := 2, lo := 2, acc := .w1c, ll := true }
def ENG.I_TRAP : Fld := { page := 0x08, off := 0x010, hi := 1, lo := 1, acc := .w1c, ll := true }

/-! Page NET: 06_network_model.md. -/
def NET.DOMAIN : Fld := { page := 0x10, off := 0x040, hi := 3, lo := 3 }
def NET.ORDSUP : Fld := { page := 0x10, off := 0x040, hi := 2, lo := 2 }
def NET.LFAIL : Fld := { page := 0x10, off := 0x040, hi := 1, lo := 1 }
def NET.LOADED : Fld := { page := 0x10, off := 0x040, hi := 0, lo := 0 }
def NET.ESEC : Fld := { page := 0x10, off := 0x044, hi := 31, lo := 24 }
def NET.EREC : Fld := { page := 0x10, off := 0x044, hi := 23, lo := 0 }
def NET.SFP_L : Fld := { page := 0x10, off := 0x048, hi := 31, lo := 0 }
def NET.SFP_H : Fld := { page := 0x10, off := 0x04C, hi := 31, lo := 0 }
def NET.DFP_L : Fld := { page := 0x10, off := 0x050, hi := 31, lo := 0 }
def NET.DFP_H : Fld := { page := 0x10, off := 0x054, hi := 31, lo := 0 }
def NET.NBRCH : Fld := { page := 0x10, off := 0x058, hi := 31, lo := 16 }
def NET.NNODE : Fld := { page := 0x10, off := 0x058, hi := 15, lo := 0 }
def NET.NMEAS : Fld := { page := 0x10, off := 0x05C, hi := 31, lo := 16 }
def NET.NPIPE : Fld := { page := 0x10, off := 0x05C, hi := 15, lo := 0 }
def NET.NVALV : Fld := { page := 0x10, off := 0x060, hi := 26, lo := 16 }
def NET.NPUMP : Fld := { page := 0x10, off := 0x060, hi := 9, lo := 0 }
def NET.NSUBS : Fld := { page := 0x10, off := 0x064, hi := 31, lo := 20 }
def NET.NNET : Fld := { page := 0x10, off := 0x064, hi := 18, lo := 16 }
def NET.NSTOR : Fld := { page := 0x10, off := 0x064, hi := 13, lo := 8 }
def NET.NPLNT : Fld := { page := 0x10, off := 0x064, hi := 6, lo := 0 }
def NET.PLUGRES : Fld := { page := 0x10, off := 0x068, hi := 18, lo := 0 }
def NET.PLUGUSE : Fld := { page := 0x10, off := 0x06C, hi := 18, lo := 0 }
def NET.PLUGHWM : Fld := { page := 0x10, off := 0x070, hi := 18, lo := 0 }
def NET.FACTNZ : Fld := { page := 0x10, off := 0x074, hi := 20, lo := 0 }
def NET.DPOS : Fld := { page := 0x10, off := 0x078, hi := 27, lo := 24 }
def NET.DMEM : Fld := { page := 0x10, off := 0x078, hi := 19, lo := 16 }
def NET.MRGCNT : Fld := { page := 0x10, off := 0x07C, hi := 31, lo := 0 }
def NET.LOADMS : Fld := { page := 0x10, off := 0x080, hi := 15, lo := 0, ll := true }
def NET.I_PLUGCAP : Fld := { page := 0x10, off := 0x010, hi := 3, lo := 3, acc := .w1c }
def NET.I_LOADFAIL : Fld := { page := 0x10, off := 0x010, hi := 2, lo := 2, acc := .w1c }
def NET.I_LOADOK : Fld := { page := 0x10, off := 0x010, hi := 1, lo := 1, acc := .w1c }

/-! Page SOL: 07_crucible_solver.md. -/
def SOL.BDMAX : Fld := { page := 0x11, off := 0x040, hi := 30, lo := 24, acc := .rws, reset := 0x8, rng := .nat 0 64 }
def SOL.BDSTEP : Fld := { page := 0x11, off := 0x040, hi := 19, lo := 16, acc := .rws, reset := 0x6 }
def SOL.NREF : Fld := { page := 0x11, off := 0x040, hi := 9, lo := 8, acc := .rws, reset := 0x2, rng := .nat 0 3 }
def SOL.NIT : Fld := { page := 0x11, off := 0x040, hi := 4, lo := 0, acc := .rws, reset := 0xA, rng := .nat 4 16 }
def SOL.PERIOD : Fld := { page := 0x11, off := 0x044, hi := 13, lo := 0 }
def SOL.BDTHR : Fld := { page := 0x11, off := 0x048, hi := 31, lo := 0, acc := .rws, reset := 0x40800000, rng := .f32 0x40000000 0x42C80000 }
def SOL.PTOL : Fld := { page := 0x11, off := 0x04C, hi := 31, lo := 0, acc := .rws, reset := 0x41200000, rng := .f32pos }
def SOL.DPMAX : Fld := { page := 0x11, off := 0x050, hi := 31, lo := 0, acc := .rws, reset := 0x47C35000, rng := .f32 0x447A0000 0x49742400 }
def SOL.STALE : Fld := { page := 0x11, off := 0x054, hi := 31, lo := 16, acc := .rws, reset := 0x384, rng := .nat 1 65535 }
def SOL.TAGE : Fld := { page := 0x11, off := 0x054, hi := 15, lo := 0, acc := .rws, reset := 0x3C, rng := .nat 1 65535 }
def SOL.OBSMIN : Fld := { page := 0x11, off := 0x058, hi := 31, lo := 24, acc := .rws, reset := 0x32, rng := .nat 0 100 }
def SOL.SIGS : Fld := { page := 0x11, off := 0x058, hi := 23, lo := 16, acc := .rws, reset := 0x33, rng := .nat 1 255 }
def SOL.SIGH : Fld := { page := 0x11, off := 0x058, hi := 15, lo := 8, acc := .rws, reset := 0x1A, rng := .nat 1 255 }
def SOL.SIGN : Fld := { page := 0x11, off := 0x058, hi := 7, lo := 0, acc := .rws, reset := 0xD, rng := .nat 1 255 }
def SOL.WSMIS : Fld := { page := 0x11, off := 0x05C, hi := 17, lo := 17 }
def SOL.COLD : Fld := { page := 0x11, off := 0x05C, hi := 16, lo := 16 }
def SOL.NS3 : Fld := { page := 0x11, off := 0x05C, hi := 15, lo := 12, reset := 0x5 }
def SOL.NS2 : Fld := { page := 0x11, off := 0x05C, hi := 11, lo := 8, reset := 0x5 }
def SOL.NS1 : Fld := { page := 0x11, off := 0x05C, hi := 7, lo := 4, reset := 0x5 }
def SOL.NS0 : Fld := { page := 0x11, off := 0x05C, hi := 3, lo := 0, reset := 0x5 }
def SOL.SOLNO_L : Fld := { page := 0x11, off := 0x060, hi := 31, lo := 0 }
def SOL.SOLNO_H : Fld := { page := 0x11, off := 0x064, hi := 31, lo := 0 }
def SOL.MINPER : Fld := { page := 0x11, off := 0x068, hi := 15, lo := 0 }
def SOL.WKIND : Fld := { page := 0x11, off := 0x06C, hi := 18, lo := 16, acc := .rw, rng := .nat 0 6 }
def SOL.WIDX : Fld := { page := 0x11, off := 0x06C, hi := 15, lo := 0, acc := .rw }
def SOL.WVAL : Fld := { page := 0x11, off := 0x070, hi := 31, lo := 0 }
def SOL.WQ : Fld := { page := 0x11, off := 0x074, hi := 7, lo := 0 }
def SOL.COLDREQ : Fld := { page := 0x11, off := 0x078, hi := 0, lo := 0, acc := .rws }
def SOL.I_SKIP : Fld := { page := 0x11, off := 0x010, hi := 6, lo := 6, acc := .w1c }
def SOL.I_BADDATA : Fld := { page := 0x11, off := 0x010, hi := 5, lo := 5, acc := .w1c }
def SOL.I_NOCONV : Fld := { page := 0x11, off := 0x010, hi := 4, lo := 4, acc := .w1c }
def SOL.I_INVALID : Fld := { page := 0x11, off := 0x010, hi := 3, lo := 3, acc := .w1c }
def SOL.I_UNOBS : Fld := { page := 0x11, off := 0x010, hi := 2, lo := 2, acc := .w1c }
def SOL.I_PUB : Fld := { page := 0x11, off := 0x010, hi := 1, lo := 1, acc := .w1c }

/-! Page SOLD: 07_crucible_solver.md. -/
def SOLD.LASTDP : Fld := { page := 0x12, off := 0x040, hi := 31, lo := 0 }
def SOLD.JOBJ : Fld := { page := 0x12, off := 0x044, hi := 31, lo := 0, cnt := 4, stride := 4 }
def SOLD.IMBAL : Fld := { page := 0x12, off := 0x054, hi := 31, lo := 0 }
def SOLD.TPIV : Fld := { page := 0x12, off := 0x058, hi := 31, lo := 16 }
def SOLD.ZPIV : Fld := { page := 0x12, off := 0x058, hi := 15, lo := 0 }
def SOLD.PIVNODE : Fld := { page := 0x12, off := 0x05C, hi := 15, lo := 0, reset := 0xFFFF }
def SOLD.NBAD : Fld := { page := 0x12, off := 0x060, hi := 31, lo := 16 }
def SOLD.NUSED : Fld := { page := 0x12, off := 0x060, hi := 15, lo := 0 }
def SOLD.NMISS : Fld := { page := 0x12, off := 0x064, hi := 31, lo := 16 }
def SOLD.NSTALE : Fld := { page := 0x12, off := 0x064, hi := 15, lo := 0 }
def SOLD.NPARAM : Fld := { page := 0x12, off := 0x068, hi := 31, lo := 16 }
def SOLD.NOBS : Fld := { page := 0x12, off := 0x068, hi := 15, lo := 0 }
def SOLD.REJNET : Fld := { page := 0x12, off := 0x06C, hi := 19, lo := 16 }
def SOLD.NITRUN : Fld := { page := 0x12, off := 0x06C, hi := 4, lo := 0 }
def SOLD.FLOPF_L : Fld := { page := 0x12, off := 0x070, hi := 31, lo := 0 }
def SOLD.FLOPF_H : Fld := { page := 0x12, off := 0x074, hi := 31, lo := 0 }
def SOLD.REGCNT : Fld := { page := 0x12, off := 0x078, hi := 31, lo := 0 }
def SOLD.NOCCNT : Fld := { page := 0x12, off := 0x07C, hi := 31, lo := 16 }
def SOLD.INVCNT : Fld := { page := 0x12, off := 0x07C, hi := 15, lo := 0 }
def SOLD.WSMCNT : Fld := { page := 0x12, off := 0x080, hi := 31, lo := 16 }
def SOLD.COLDCNT : Fld := { page := 0x12, off := 0x080, hi := 15, lo := 0 }
def SOLD.DURUS : Fld := { page := 0x12, off := 0x084, hi := 31, lo := 0, ll := true }
def SOLD.MAXDUR : Fld := { page := 0x12, off := 0x088, hi := 31, lo := 0, acc := .rw, ll := true }
def SOLD.I_REGPIV : Fld := { page := 0x12, off := 0x010, hi := 1, lo := 1, acc := .w1c }

/-! Page OPT: 08_dispatch_optimiser.md. -/
def OPT.STEP : Fld := { page := 0x13, off := 0x040, hi := 21, lo := 16, acc := .rws, rng := .nat 5 60 }
def OPT.NSTEP : Fld := { page := 0x13, off := 0x040, hi := 7, lo := 0, acc := .rws, rng := .nat 2 192 }
def OPT.PERIOD : Fld := { page := 0x13, off := 0x044, hi := 19, lo := 0 }
def OPT.PTOL : Fld := { page := 0x13, off := 0x048, hi := 31, lo := 0, acc := .rws, reset := 0x38D1B717, rng := .f32pos }
def OPT.DTOL : Fld := { page := 0x13, off := 0x04C, hi := 31, lo := 0, acc := .rws, reset := 0x38D1B717, rng := .f32pos }
def OPT.GTOL : Fld := { page := 0x13, off := 0x050, hi := 31, lo := 0, acc := .rws, reset := 0x38D1B717, rng := .f32pos }
def OPT.SLKTOL : Fld := { page := 0x13, off := 0x054, hi := 31, lo := 0, acc := .rws, reset := 0x3A83126F, rng := .f32nonneg }
def OPT.CO2PR : Fld := { page := 0x13, off := 0x058, hi := 31, lo := 0, acc := .rws, rng := .f32nonneg }
def OPT.CSCALE : Fld := { page := 0x13, off := 0x05C, hi := 31, lo := 0, acc := .rws, rng := .f32pos }
def OPT.HOLDMAX : Fld := { page := 0x13, off := 0x060, hi := 31, lo := 16, acc := .rws, rng := .nat 1 65535 }
def OPT.COLDREQ : Fld := { page := 0x13, off := 0x060, hi := 0, lo := 0, acc := .rws }
def OPT.FALLBK : Fld := { page := 0x13, off := 0x064, hi := 13, lo := 13 }
def OPT.HELD : Fld := { page := 0x13, off := 0x064, hi := 12, lo := 12 }
def OPT.NOSTATE : Fld := { page := 0x13, off := 0x064, hi := 11, lo := 11 }
def OPT.WIDEN : Fld := { page := 0x13, off := 0x064, hi := 10, lo := 10 }
def OPT.CAPCLIP : Fld := { page := 0x13, off := 0x064, hi := 9, lo := 9 }
def OPT.SHORT : Fld := { page := 0x13, off := 0x064, hi := 8, lo := 8 }
def OPT.WSMIS : Fld := { page := 0x13, off := 0x064, hi := 7, lo := 7 }
def OPT.COLD : Fld := { page := 0x13, off := 0x064, hi := 6, lo := 6 }
def OPT.LOUT : Fld := { page := 0x13, off := 0x064, hi := 5, lo := 3, reset := 0x4 }
def OPT.CSTAT : Fld := { page := 0x13, off := 0x064, hi := 2, lo := 0, reset := 0x7 }
def OPT.DISPNO_L : Fld := { page := 0x13, off := 0x068, hi := 31, lo := 0 }
def OPT.DISPNO_H : Fld := { page := 0x13, off := 0x06C, hi := 31, lo := 0 }
def OPT.OFP_L : Fld := { page := 0x13, off := 0x070, hi := 31, lo := 0 }
def OPT.OFP_H : Fld := { page := 0x13, off := 0x074, hi := 31, lo := 0 }
def OPT.MINPD : Fld := { page := 0x13, off := 0x078, hi := 19, lo := 0 }
def OPT.TKIND : Fld := { page := 0x13, off := 0x07C, hi := 28, lo := 24, acc := .rws, rng := .nat 0 9 }
def OPT.TIDX : Fld := { page := 0x13, off := 0x07C, hi := 7, lo := 0, acc := .rws, rng := .nat 0 191 }
def OPT.TDATA : Fld := { page := 0x13, off := 0x080, hi := 31, lo := 0, acc := .rws }
def OPT.RKIND : Fld := { page := 0x13, off := 0x084, hi := 18, lo := 16, acc := .rw }
def OPT.RSTEP : Fld := { page := 0x13, off := 0x084, hi := 15, lo := 8, acc := .rw, rng := .nat 0 191 }
def OPT.RIDX : Fld := { page := 0x13, off := 0x084, hi := 7, lo := 0, acc := .rw }
def OPT.RVAL : Fld := { page := 0x13, off := 0x088, hi := 31, lo := 0 }
def OPT.OBJ : Fld := { page := 0x13, off := 0x08C, hi := 31, lo := 0 }
def OPT.I_FALLBK : Fld := { page := 0x13, off := 0x010, hi := 6, lo := 6, acc := .w1c }
def OPT.I_SKIP : Fld := { page := 0x13, off := 0x010, hi := 5, lo := 5, acc := .w1c }
def OPT.I_SHORT : Fld := { page := 0x13, off := 0x010, hi := 4, lo := 4, acc := .w1c }
def OPT.I_SUBOPT : Fld := { page := 0x13, off := 0x010, hi := 3, lo := 3, acc := .w1c }
def OPT.I_INVALID : Fld := { page := 0x13, off := 0x010, hi := 2, lo := 2, acc := .w1c }
def OPT.I_PUB : Fld := { page := 0x13, off := 0x010, hi := 1, lo := 1, acc := .w1c }

/-! Page OPTD: 08_dispatch_optimiser.md. -/
def OPTD.RPRIM : Fld := { page := 0x14, off := 0x040, hi := 31, lo := 0 }
def OPTD.RDUAL : Fld := { page := 0x14, off := 0x044, hi := 31, lo := 0 }
def OPTD.MU : Fld := { page := 0x14, off := 0x048, hi := 31, lo := 0 }
def OPTD.ALPHAMIN : Fld := { page := 0x14, off := 0x04C, hi := 31, lo := 0 }
def OPTD.SLKMAX : Fld := { page := 0x14, off := 0x050, hi := 31, lo := 0 }
def OPTD.NPIVR : Fld := { page := 0x14, off := 0x054, hi := 31, lo := 16 }
def OPTD.NFIX : Fld := { page := 0x14, off := 0x054, hi := 15, lo := 0 }
def OPTD.NROWS : Fld := { page := 0x14, off := 0x058, hi := 23, lo := 16 }
def OPTD.NVARS : Fld := { page := 0x14, off := 0x058, hi := 7, lo := 0 }
def OPTD.REJIT : Fld := { page := 0x14, off := 0x05C, hi := 4, lo := 0 }
def OPTD.SUBCNT : Fld := { page := 0x14, off := 0x060, hi := 31, lo := 16 }
def OPTD.INVCNT : Fld := { page := 0x14, off := 0x060, hi := 15, lo := 0 }
def OPTD.WSMCNT : Fld := { page := 0x14, off := 0x064, hi := 31, lo := 16 }
def OPTD.COLDCNT : Fld := { page := 0x14, off := 0x064, hi := 15, lo := 0 }
def OPTD.SHORTCNT : Fld := { page := 0x14, off := 0x068, hi := 31, lo := 16 }
def OPTD.MISSCNT : Fld := { page := 0x14, off := 0x068, hi := 15, lo := 0 }
def OPTD.DURUS : Fld := { page := 0x14, off := 0x06C, hi := 31, lo := 0, ll := true }
def OPTD.MAXDUR : Fld := { page := 0x14, off := 0x070, hi := 31, lo := 0, acc := .rw, ll := true }
def OPTD.I_REJECT : Fld := { page := 0x14, off := 0x010, hi := 2, lo := 2, acc := .w1c }
def OPTD.I_REGPIV : Fld := { page := 0x14, off := 0x010, hi := 1, lo := 1, acc := .w1c }

/-! Page LOOP: 09_control_loops.md. -/
def LOOP.NLOOP : Fld := { page := 0x18, off := 0x040, hi := 9, lo := 0 }
def LOOP.NBURN : Fld := { page := 0x18, off := 0x044, hi := 9, lo := 0 }
def LOOP.BPOOL : Fld := { page := 0x18, off := 0x048, hi := 24, lo := 0 }
def LOOP.WCP7 : Fld := { page := 0x18, off := 0x04C, hi := 31, lo := 16 }
def LOOP.WCP6 : Fld := { page := 0x18, off := 0x04C, hi := 15, lo := 0 }
def LOOP.PASS7 : Fld := { page := 0x18, off := 0x050, hi := 31, lo := 16, ll := true }
def LOOP.PASS6 : Fld := { page := 0x18, off := 0x050, hi := 15, lo := 0, ll := true }
def LOOP.LBMAX : Fld := { page := 0x18, off := 0x054, hi := 15, lo := 0, acc := .rw, ll := true }
def LOOP.NAUTO : Fld := { page := 0x18, off := 0x058, hi := 25, lo := 16 }
def LOOP.NMAN : Fld := { page := 0x18, off := 0x058, hi := 9, lo := 0 }
def LOOP.NPVBAD : Fld := { page := 0x18, off := 0x05C, hi := 25, lo := 16 }
def LOOP.NSAT : Fld := { page := 0x18, off := 0x05C, hi := 9, lo := 0 }
def LOOP.LDMISS : Fld := { page := 0x18, off := 0x060, hi := 31, lo := 0, ll := true }
def LOOP.I_LDMISS : Fld := { page := 0x18, off := 0x010, hi := 4, lo := 4, acc := .w1c, ll := true }
def LOOP.I_NONFIN : Fld := { page := 0x18, off := 0x010, hi := 3, lo := 3, acc := .w1c }
def LOOP.I_PVBAD : Fld := { page := 0x18, off := 0x010, hi := 2, lo := 2, acc := .w1c }
def LOOP.I_MODECHG : Fld := { page := 0x18, off := 0x010, hi := 1, lo := 1, acc := .w1c }

/-! Page LOOPW: 09_control_loops.md. -/
def LOOPW.LSEL : Fld := { page := 0x19, off := 0x040, hi := 8, lo := 0, acc := .rw }
def LOOPW.FFBAD : Fld := { page := 0x19, off := 0x044, hi := 9, lo := 9 }
def LOOPW.SPBAD : Fld := { page := 0x19, off := 0x044, hi := 8, lo := 8 }
def LOOPW.BLEARN : Fld := { page := 0x19, off := 0x044, hi := 7, lo := 7 }
def LOOPW.FORCED : Fld := { page := 0x19, off := 0x044, hi := 6, lo := 6 }
def LOOPW.NONFIN : Fld := { page := 0x19, off := 0x044, hi := 5, lo := 5 }
def LOOPW.RLIM : Fld := { page := 0x19, off := 0x044, hi := 4, lo := 4 }
def LOOPW.IHOLD : Fld := { page := 0x19, off := 0x044, hi := 3, lo := 3 }
def LOOPW.ICLAMP : Fld := { page := 0x19, off := 0x044, hi := 2, lo := 2 }
def LOOPW.OSAT : Fld := { page := 0x19, off := 0x044, hi := 1, lo := 1 }
def LOOPW.PVBAD : Fld := { page := 0x19, off := 0x044, hi := 0, lo := 0 }
def LOOPW.PV : Fld := { page := 0x19, off := 0x048, hi := 31, lo := 0 }
def LOOPW.SP : Fld := { page := 0x19, off := 0x04C, hi := 31, lo := 0 }
def LOOPW.E : Fld := { page := 0x19, off := 0x050, hi := 31, lo := 0 }
def LOOPW.UC : Fld := { page := 0x19, off := 0x054, hi := 31, lo := 0 }
def LOOPW.UD : Fld := { page := 0x19, off := 0x058, hi := 31, lo := 0 }
def LOOPW.I : Fld := { page := 0x19, off := 0x05C, hi := 31, lo := 0 }
def LOOPW.XD : Fld := { page := 0x19, off := 0x060, hi := 31, lo := 0 }
def LOOPW.RC : Fld := { page := 0x19, off := 0x064, hi := 31, lo := 0 }
def LOOPW.DSP : Fld := { page := 0x19, off := 0x068, hi := 31, lo := 0 }
def LOOPW.PSP : Fld := { page := 0x19, off := 0x06C, hi := 31, lo := 0 }
def LOOPW.MODE : Fld := { page := 0x19, off := 0x070, hi := 1, lo := 0, acc := .rws, rng := .nat 0 2 }
def LOOPW.MANOUT : Fld := { page := 0x19, off := 0x074, hi := 31, lo := 0, acc := .rws, rng := .f32fin }
def LOOPW.LSAMP : Fld := { page := 0x19, off := 0x078, hi := 31, lo := 0 }
def LOOPW.PERIOD : Fld := { page := 0x19, off := 0x080, hi := 31, lo := 16 }
def LOOPW.FLAGS : Fld := { page := 0x19, off := 0x080, hi := 15, lo := 8 }
def LOOPW.KIND : Fld := { page := 0x19, off := 0x080, hi := 7, lo := 0 }
def LOOPW.SPSRC : Fld := { page := 0x19, off := 0x084, hi := 31, lo := 24, acc := .rws, rng := .nat 0 3 }
def LOOPW.PVSRC : Fld := { page := 0x19, off := 0x084, hi := 23, lo := 16 }
def LOOPW.PHASE : Fld := { page := 0x19, off := 0x084, hi := 15, lo := 0 }
def LOOPW.CYC : Fld := { page := 0x19, off := 0x088, hi := 31, lo := 16 }
def LOOPW.DEST : Fld := { page := 0x19, off := 0x088, hi := 15, lo := 8 }
def LOOPW.FFSRC : Fld := { page := 0x19, off := 0x088, hi := 7, lo := 0 }
def LOOPW.PVADDR : Fld := { page := 0x19, off := 0x08C, hi := 31, lo := 0 }
def LOOPW.SPADDR : Fld := { page := 0x19, off := 0x090, hi := 31, lo := 0 }
def LOOPW.FFADDR : Fld := { page := 0x19, off := 0x094, hi := 31, lo := 0 }
def LOOPW.DADDR : Fld := { page := 0x19, off := 0x098, hi := 31, lo := 0 }
def LOOPW.PVGAIN : Fld := { page := 0x19, off := 0x09C, hi := 31, lo := 0, acc := .rws }
def LOOPW.PVOFS : Fld := { page := 0x19, off := 0x0A0, hi := 31, lo := 0, acc := .rws }
def LOOPW.SPLOC : Fld := { page := 0x19, off := 0x0A4, hi := 31, lo := 0, acc := .rws }
def LOOPW.SPRATE : Fld := { page := 0x19, off := 0x0A8, hi := 31, lo := 0, acc := .rws }
def LOOPW.KP : Fld := { page := 0x19, off := 0x0AC, hi := 31, lo := 0, acc := .rws }
def LOOPW.KI : Fld := { page := 0x19, off := 0x0B0, hi := 31, lo := 0, acc := .rws }
def LOOPW.KD : Fld := { page := 0x19, off := 0x0B4, hi := 31, lo := 0, acc := .rws }
def LOOPW.TF : Fld := { page := 0x19, off := 0x0B8, hi := 31, lo := 0, acc := .rws }
def LOOPW.BETA : Fld := { page := 0x19, off := 0x0BC, hi := 31, lo := 0, acc := .rws }
def LOOPW.DB : Fld := { page := 0x19, off := 0x0C0, hi := 31, lo := 0, acc := .rws }
def LOOPW.KFF : Fld := { page := 0x19, off := 0x0C4, hi := 31, lo := 0, acc := .rws }
def LOOPW.ILO : Fld := { page := 0x19, off := 0x0C8, hi := 31, lo := 0, acc := .rws }
def LOOPW.IHI : Fld := { page := 0x19, off := 0x0CC, hi := 31, lo := 0, acc := .rws }
def LOOPW.OLO : Fld := { page := 0x19, off := 0x0D0, hi := 31, lo := 0, acc := .rws }
def LOOPW.OHI : Fld := { page := 0x19, off := 0x0D4, hi := 31, lo := 0, acc := .rws }
def LOOPW.ORATE : Fld := { page := 0x19, off := 0x0D8, hi := 31, lo := 0, acc := .rws }
def LOOPW.MAN0 : Fld := { page := 0x19, off := 0x0DC, hi := 31, lo := 0 }
def LOOPW.OGAIN : Fld := { page := 0x19, off := 0x0E0, hi := 31, lo := 0 }
def LOOPW.OOFS : Fld := { page := 0x19, off := 0x0E4, hi := 31, lo := 0 }
def LOOPW.MODE0 : Fld := { page := 0x19, off := 0x0E8, hi := 7, lo := 0 }

/-! Page BURN: 09_control_loops.md. -/
def BURN.BSEL : Fld := { page := 0x1A, off := 0x040, hi := 8, lo := 0, acc := .rw }
def BURN.NOSYNCB : Fld := { page := 0x1A, off := 0x044, hi := 6, lo := 6 }
def BURN.NOSYNCA : Fld := { page := 0x1A, off := 0x044, hi := 5, lo := 5 }
def BURN.NOVOLTB : Fld := { page := 0x1A, off := 0x044, hi := 4, lo := 4 }
def BURN.NOVOLTA : Fld := { page := 0x1A, off := 0x044, hi := 3, lo := 3 }
def BURN.ENB : Fld := { page := 0x1A, off := 0x044, hi := 2, lo := 2 }
def BURN.ENA : Fld := { page := 0x1A, off := 0x044, hi := 1, lo := 1 }
def BURN.PRESENT : Fld := { page := 0x1A, off := 0x044, hi := 0, lo := 0 }
def BURN.LEADB : Fld := { page := 0x1A, off := 0x048, hi := 31, lo := 16, acc := .rws }
def BURN.LEADA : Fld := { page := 0x1A, off := 0x048, hi := 15, lo := 0, acc := .rws }
def BURN.NA : Fld := { page := 0x1A, off := 0x04C, hi := 16, lo := 0 }
def BURN.NB : Fld := { page := 0x1A, off := 0x050, hi := 16, lo := 0 }
def BURN.IDXA : Fld := { page := 0x1A, off := 0x054, hi := 15, lo := 0 }
def BURN.IDXB : Fld := { page := 0x1A, off := 0x058, hi := 15, lo := 0 }
def BURN.LGA : Fld := { page := 0x1A, off := 0x05C, hi := 31, lo := 0, acc := .rws }
def BURN.LGB : Fld := { page := 0x1A, off := 0x060, hi := 31, lo := 0, acc := .rws }
def BURN.QA : Fld := { page := 0x1A, off := 0x064, hi := 31, lo := 0, acc := .rws }
def BURN.QB : Fld := { page := 0x1A, off := 0x068, hi := 31, lo := 0, acc := .rws }
def BURN.RLIM : Fld := { page := 0x1A, off := 0x06C, hi := 31, lo := 0, acc := .rws }
def BURN.LRN : Fld := { page := 0x1A, off := 0x070, hi := 1, lo := 0, acc := .rws, reset := 0x3 }
def BURN.CLR : Fld := { page := 0x1A, off := 0x074, hi := 1, lo := 0, acc := .rws }
def BURN.IDXMODE : Fld := { page := 0x1A, off := 0x078, hi := 5, lo := 0 }
def BURN.TOFS : Fld := { page := 0x1A, off := 0x07C, hi := 31, lo := 0 }
def BURN.WPER : Fld := { page := 0x1A, off := 0x080, hi := 0, lo := 0, acc := .rw }
def BURN.WBASE : Fld := { page := 0x1A, off := 0x084, hi := 15, lo := 0, acc := .rw }
def BURN.WMEM : Fld := { page := 0x1A, off := 0x400, hi := 31, lo := 0, cnt := 256, stride := 4 }
def BURN.I_NOSYNC : Fld := { page := 0x1A, off := 0x010, hi := 2, lo := 2, acc := .w1c }
def BURN.I_NOVOLT : Fld := { page := 0x1A, off := 0x010, hi := 1, lo := 1, acc := .w1c }

/-! Page TRC: 09_control_loops.md. -/
def TRC.STATE : Fld := { page := 0x1B, off := 0x040, hi := 2, lo := 0 }
def TRC.ROLL : Fld := { page := 0x1B, off := 0x044, hi := 3, lo := 3, acc := .rws }
def TRC.STOP : Fld := { page := 0x1B, off := 0x044, hi := 2, lo := 2, acc := .rws }
def TRC.FIRE : Fld := { page := 0x1B, off := 0x044, hi := 1, lo := 1, acc := .rws }
def TRC.ARM : Fld := { page := 0x1B, off := 0x044, hi := 0, lo := 0, acc := .rws }
def TRC.TDIV : Fld := { page := 0x1B, off := 0x048, hi := 15, lo := 0, acc := .rws, reset := 0x1, rng := .nat 1 65535 }
def TRC.PRE : Fld := { page := 0x1B, off := 0x04C, hi := 15, lo := 0, acc := .rws }
def TRC.TRGCH : Fld := { page := 0x1B, off := 0x050, hi := 7, lo := 4, acc := .rws }
def TRC.TKIND : Fld := { page := 0x1B, off := 0x050, hi := 2, lo := 0, acc := .rws, reset := 0x4, rng := .nat 0 4 }
def TRC.LEVEL : Fld := { page := 0x1B, off := 0x054, hi := 31, lo := 0, acc := .rws, rng := .f32fin }
def TRC.TRGFNO_L : Fld := { page := 0x1B, off := 0x058, hi := 31, lo := 0, acc := .rws }
def TRC.TRGFNO_H : Fld := { page := 0x1B, off := 0x05C, hi := 31, lo := 0, acc := .rws }
def TRC.TFNO_L : Fld := { page := 0x1B, off := 0x060, hi := 31, lo := 0 }
def TRC.TFNO_H : Fld := { page := 0x1B, off := 0x064, hi := 31, lo := 0 }
def TRC.NSAMP : Fld := { page := 0x1B, off := 0x068, hi := 16, lo := 0 }
def TRC.TPOS : Fld := { page := 0x1B, off := 0x06C, hi := 16, lo := 0, reset := 0x1FFFF }
def TRC.CHEN : Fld := { page := 0x1B, off := 0x070, hi := 15, lo := 0, acc := .rws }
def TRC.QTY : Fld := { page := 0x1B, off := 0x080, hi := 12, lo := 9, acc := .rws, rng := .nat 0 7, cnt := 16, stride := 4 }
def TRC.LOOP : Fld := { page := 0x1B, off := 0x080, hi := 8, lo := 0, acc := .rws, cnt := 16, stride := 4 }
def TRC.RCH : Fld := { page := 0x1B, off := 0x0C0, hi := 3, lo := 0, acc := .rw }
def TRC.RBASE : Fld := { page := 0x1B, off := 0x0C4, hi := 15, lo := 0, acc := .rw }
def TRC.RDATA : Fld := { page := 0x1B, off := 0x400, hi := 31, lo := 0, cnt := 256, stride := 4 }
def TRC.I_DONE : Fld := { page := 0x1B, off := 0x010, hi := 2, lo := 2, acc := .w1c }
def TRC.I_TRIG : Fld := { page := 0x1B, off := 0x010, hi := 1, lo := 1, acc := .w1c }

/-! Page PRG: 10_cyclic_programs.md. -/
def PRG.AUTORUN : Fld := { page := 0x1C, off := 0x040, hi := 6, lo := 6 }
def PRG.HOLDEN : Fld := { page := 0x1C, off := 0x040, hi := 5, lo := 5 }
def PRG.PRESENT : Fld := { page := 0x1C, off := 0x040, hi := 4, lo := 4 }
def PRG.FORCED : Fld := { page := 0x1C, off := 0x040, hi := 3, lo := 3 }
def PRG.FAULT : Fld := { page := 0x1C, off := 0x040, hi := 2, lo := 2 }
def PRG.MODE : Fld := { page := 0x1C, off := 0x040, hi := 1, lo := 0 }
def PRG.CMD : Fld := { page := 0x1C, off := 0x044, hi := 1, lo := 0, acc := .wo, rng := .nat 0 3 }
def PRG.FLTACK : Fld := { page := 0x1C, off := 0x048, hi := 0, lo := 0, acc := .wo }
def PRG.FLTCODE : Fld := { page := 0x1C, off := 0x04C, hi := 31, lo := 16 }
def PRG.FLTEXE : Fld := { page := 0x1C, off := 0x04C, hi := 8, lo := 8 }
def PRG.FLTTASK : Fld := { page := 0x1C, off := 0x04C, hi := 5, lo := 0 }
def PRG.FLTADDR : Fld := { page := 0x1C, off := 0x050, hi := 31, lo := 0 }
def PRG.FLTFNO : Fld := { page := 0x1C, off := 0x054, hi := 31, lo := 0 }
def PRG.HOLDTO : Fld := { page := 0x1C, off := 0x058, hi := 15, lo := 0, acc := .rws, reset := 0x258, rng := .nat 1 3600 }
def PRG.RETPG : Fld := { page := 0x1C, off := 0x05C, hi := 23, lo := 16, acc := .rws, reset := 0x8, rng := .nat 1 16 }
def PRG.RETPER : Fld := { page := 0x1C, off := 0x05C, hi := 15, lo := 0, acc := .rws, reset := 0x2710, rng := .nat 1000 60000 }
def PRG.RETGEN : Fld := { page := 0x1C, off := 0x060, hi := 31, lo := 0 }
def PRG.RETSKIP : Fld := { page := 0x1C, off := 0x064, hi := 31, lo := 16 }
def PRG.RETCHNK : Fld := { page := 0x1C, off := 0x064, hi := 15, lo := 0 }
def PRG.AOSTOPQ : Fld := { page := 0x1C, off := 0x068, hi := 31, lo := 24 }
def PRG.AOOWN : Fld := { page := 0x1C, off := 0x068, hi := 23, lo := 16 }
def PRG.DOOWN : Fld := { page := 0x1C, off := 0x068, hi := 15, lo := 0 }
def PRG.DOSTOPQ : Fld := { page := 0x1C, off := 0x06C, hi := 15, lo := 0 }
def PRG.TSEL : Fld := { page := 0x1C, off := 0x070, hi := 5, lo := 0, acc := .rw, rng := .nat 0 39 }
def PRG.EXEC : Fld := { page := 0x1C, off := 0x074, hi := 18, lo := 18 }
def PRG.KIND : Fld := { page := 0x1C, off := 0x074, hi := 17, lo := 16 }
def PRG.PRIO : Fld := { page := 0x1C, off := 0x074, hi := 11, lo := 8 }
def PRG.PEND : Fld := { page := 0x1C, off := 0x074, hi := 2, lo := 2 }
def PRG.STATE : Fld := { page := 0x1C, off := 0x074, hi := 1, lo := 0 }
def PRG.TCYC : Fld := { page := 0x1C, off := 0x078, hi := 31, lo := 0 }
def PRG.TFRM : Fld := { page := 0x1C, off := 0x07C, hi := 15, lo := 0 }
def PRG.TRUNS : Fld := { page := 0x1C, off := 0x080, hi := 31, lo := 0 }
def PRG.TOVR : Fld := { page := 0x1C, off := 0x084, hi := 31, lo := 0 }
def PRG.TLOST : Fld := { page := 0x1C, off := 0x088, hi := 31, lo := 0 }
def PRG.TEXUS : Fld := { page := 0x1C, off := 0x08C, hi := 31, lo := 0, ll := true }
def PRG.USE4 : Fld := { page := 0x1C, off := 0x090, hi := 18, lo := 0 }
def PRG.USE5 : Fld := { page := 0x1C, off := 0x094, hi := 18, lo := 0 }
def PRG.ONLCNT : Fld := { page := 0x1C, off := 0x098, hi := 31, lo := 0 }
def PRG.AREA : Fld := { page := 0x1C, off := 0x09C, hi := 24, lo := 24, acc := .rw }
def PRG.WIDTH : Fld := { page := 0x1C, off := 0x09C, hi := 23, lo := 22, acc := .rw, reset := 0x2, rng := .nat 0 2 }
def PRG.EXE : Fld := { page := 0x1C, off := 0x09C, hi := 21, lo := 21, acc := .rw }
def PRG.VADDR : Fld := { page := 0x1C, off := 0x09C, hi := 19, lo := 0, acc := .rw }
def PRG.VVAL : Fld := { page := 0x1C, off := 0x0A0, hi := 31, lo := 0, acc := .rws }
def PRG.I_HOLDTO : Fld := { page := 0x1C, off := 0x010, hi := 7, lo := 7, acc := .w1c }
def PRG.I_ONLCHG : Fld := { page := 0x1C, off := 0x010, hi := 6, lo := 6, acc := .w1c }
def PRG.I_RETSKIP : Fld := { page := 0x1C, off := 0x010, hi := 5, lo := 5, acc := .w1c }
def PRG.I_EVLOST : Fld := { page := 0x1C, off := 0x010, hi := 4, lo := 4, acc := .w1c }
def PRG.I_OVERRUN : Fld := { page := 0x1C, off := 0x010, hi := 3, lo := 3, acc := .w1c }
def PRG.I_FAULT : Fld := { page := 0x1C, off := 0x010, hi := 2, lo := 2, acc := .w1c }
def PRG.I_MODECHG : Fld := { page := 0x1C, off := 0x010, hi := 1, lo := 1, acc := .w1c }

/-! Page FRC: 10_cyclic_programs.md. -/
def FRC.NFORCE : Fld := { page := 0x1D, off := 0x040, hi := 8, lo := 0 }
def FRC.FSEL : Fld := { page := 0x1D, off := 0x044, hi := 7, lo := 0, acc := .rw }
def FRC.FKIND : Fld := { page := 0x1D, off := 0x048, hi := 2, lo := 0, acc := .rws, rng := .nat 0 4 }
def FRC.FBIT : Fld := { page := 0x1D, off := 0x04C, hi := 28, lo := 24, acc := .rws }
def FRC.FADDR : Fld := { page := 0x1D, off := 0x04C, hi := 19, lo := 0, acc := .rws }
def FRC.FVAL : Fld := { page := 0x1D, off := 0x050, hi := 31, lo := 0, acc := .rws }
def FRC.FCMD : Fld := { page := 0x1D, off := 0x054, hi := 1, lo := 0, acc := .rws, rng := .nat 0 3 }
def FRC.FTO : Fld := { page := 0x1D, off := 0x058, hi := 10, lo := 0, acc := .rws, rng := .nat 0 1440 }
def FRC.FSETFNO : Fld := { page := 0x1D, off := 0x05C, hi := 31, lo := 0 }
def FRC.FACT : Fld := { page := 0x1D, off := 0x060, hi := 0, lo := 0 }
def FRC.FCHGCNT : Fld := { page := 0x1D, off := 0x064, hi := 31, lo := 0 }
def FRC.I_FTOREL : Fld := { page := 0x1D, off := 0x010, hi := 2, lo := 2, acc := .w1c }
def FRC.I_FCHG : Fld := { page := 0x1D, off := 0x010, hi := 1, lo := 1, acc := .w1c }

/-! Page PIMG: 10_cyclic_programs.md. -/
def PIMG.NSTN : Fld := { page := 0x1E, off := 0x040, hi := 11, lo := 0 }
def PIMG.NSTALE : Fld := { page := 0x1E, off := 0x044, hi := 27, lo := 16 }
def PIMG.NUNDLV : Fld := { page := 0x1E, off := 0x044, hi := 11, lo := 0 }
def PIMG.SSEL : Fld := { page := 0x1E, off := 0x048, hi := 10, lo := 0, acc := .rw }
def PIMG.SRC : Fld := { page := 0x1E, off := 0x04C, hi := 15, lo := 8 }
def PIMG.SUBST : Fld := { page := 0x1E, off := 0x04C, hi := 5, lo := 4 }
def PIMG.RESYNC : Fld := { page := 0x1E, off := 0x04C, hi := 3, lo := 3 }
def PIMG.UNDLV : Fld := { page := 0x1E, off := 0x04C, hi := 2, lo := 2 }
def PIMG.STATE : Fld := { page := 0x1E, off := 0x04C, hi := 1, lo := 0 }
def PIMG.INCNT : Fld := { page := 0x1E, off := 0x050, hi := 31, lo := 16 }
def PIMG.INBASE : Fld := { page := 0x1E, off := 0x050, hi := 15, lo := 0 }
def PIMG.OUTCNT : Fld := { page := 0x1E, off := 0x054, hi := 31, lo := 16 }
def PIMG.OUTBASE : Fld := { page := 0x1E, off := 0x054, hi := 15, lo := 0 }
def PIMG.SDROPS : Fld := { page := 0x1E, off := 0x058, hi := 31, lo := 0 }
def PIMG.SUNDLV : Fld := { page := 0x1E, off := 0x05C, hi := 31, lo := 0 }
def PIMG.SGOODFNO : Fld := { page := 0x1E, off := 0x060, hi := 31, lo := 0 }
def PIMG.WADDR : Fld := { page := 0x1E, off := 0x064, hi := 15, lo := 0, acc := .rw }
def PIMG.WVAL : Fld := { page := 0x1E, off := 0x068, hi := 31, lo := 0 }
def PIMG.WRAW : Fld := { page := 0x1E, off := 0x06C, hi := 31, lo := 0 }
def PIMG.I_UNDLV : Fld := { page := 0x1E, off := 0x010, hi := 3, lo := 3, acc := .w1c }
def PIMG.I_STNUP : Fld := { page := 0x1E, off := 0x010, hi := 2, lo := 2, acc := .w1c }
def PIMG.I_STNDOWN : Fld := { page := 0x1E, off := 0x010, hi := 1, lo := 1, acc := .w1c }

/-! Page MET: 12_electrical_metering.md. -/
def MET.TFE : Fld := { page := 0x20, off := 0x040, hi := 31, lo := 16 }
def MET.FEBAND : Fld := { page := 0x20, off := 0x040, hi := 10, lo := 8 }
def MET.CALINV : Fld := { page := 0x20, off := 0x040, hi := 2, lo := 2 }
def MET.NOSAMPW : Fld := { page := 0x20, off := 0x040, hi := 1, lo := 1 }
def MET.FEVALID : Fld := { page := 0x20, off := 0x040, hi := 0, lo := 0 }
def MET.PEND : Fld := { page := 0x20, off := 0x044, hi := 19, lo := 16 }
def MET.BANDG : Fld := { page := 0x20, off := 0x044, hi := 15, lo := 0 }
def MET.FREQ : Fld := { page := 0x20, off := 0x048, hi := 31, lo := 16, cnt := 4, stride := 4 }
def MET.PH32V : Fld := { page := 0x20, off := 0x048, hi := 8, lo := 8, cnt := 4, stride := 4 }
def MET.FREQF : Fld := { page := 0x20, off := 0x048, hi := 7, lo := 7, cnt := 4, stride := 4 }
def MET.NLOST : Fld := { page := 0x20, off := 0x048, hi := 6, lo := 6, cnt := 4, stride := 4 }
def MET.PHSEQ : Fld := { page := 0x20, off := 0x048, hi := 5, lo := 5, cnt := 4, stride := 4 }
def MET.CYCW : Fld := { page := 0x20, off := 0x048, hi := 4, lo := 4, cnt := 4, stride := 4 }
def MET.PHMISS : Fld := { page := 0x20, off := 0x048, hi := 3, lo := 1, cnt := 4, stride := 4 }
def MET.VPRES : Fld := { page := 0x20, off := 0x048, hi := 0, lo := 0, cnt := 4, stride := 4 }
def MET.PH32 : Fld := { page := 0x20, off := 0x058, hi := 31, lo := 0, cnt := 4, stride := 4 }
def MET.NLTHR : Fld := { page := 0x20, off := 0x068, hi := 31, lo := 24, cnt := 4, stride := 4 }
def MET.WIRING : Fld := { page := 0x20, off := 0x068, hi := 18, lo := 17, cnt := 4, stride := 4 }
def MET.NOMF : Fld := { page := 0x20, off := 0x068, hi := 16, lo := 16, cnt := 4, stride := 4 }
def MET.NOMV : Fld := { page := 0x20, off := 0x068, hi := 15, lo := 0, cnt := 4, stride := 4 }
def MET.HEN : Fld := { page := 0x20, off := 0x078, hi := 15, lo := 0, acc := .rws }
def MET.HACT : Fld := { page := 0x20, off := 0x07C, hi := 4, lo := 4 }
def MET.HMP : Fld := { page := 0x20, off := 0x07C, hi := 3, lo := 0 }
def MET.NOSAMP : Fld := { page := 0x20, off := 0x080, hi := 31, lo := 0 }
def MET.SAVECNT : Fld := { page := 0x20, off := 0x084, hi := 31, lo := 0 }
def MET.SAVEREF : Fld := { page := 0x20, off := 0x088, hi := 31, lo := 0 }
def MET.LOSTKIND : Fld := { page := 0x20, off := 0x08C, hi := 1, lo := 0 }
def MET.LOSTFR : Fld := { page := 0x20, off := 0x090, hi := 31, lo := 0 }
def MET.DURUS : Fld := { page := 0x20, off := 0x094, hi := 31, lo := 0, ll := true }
def MET.I_CALINV : Fld := { page := 0x20, off := 0x010, hi := 9, lo := 9, acc := .w1c }
def MET.I_LOST : Fld := { page := 0x20, off := 0x010, hi := 8, lo := 8, acc := .w1c }
def MET.I_NOSAMP : Fld := { page := 0x20, off := 0x010, hi := 7, lo := 7, acc := .w1c }
def MET.I_OVR : Fld := { page := 0x20, off := 0x010, hi := 6, lo := 6, acc := .w1c }
def MET.I_FREQ : Fld := { page := 0x20, off := 0x010, hi := 5, lo := 5, acc := .w1c }
def MET.I_NLOST : Fld := { page := 0x20, off := 0x010, hi := 4, lo := 4, acc := .w1c }
def MET.I_PHSEQ : Fld := { page := 0x20, off := 0x010, hi := 3, lo := 3, acc := .w1c }
def MET.I_VPRES : Fld := { page := 0x20, off := 0x010, hi := 2, lo := 2, acc := .w1c }
def MET.I_BANDCHG : Fld := { page := 0x20, off := 0x010, hi := 1, lo := 1, acc := .w1c }

/-! Page MPT: 12_electrical_metering.md. -/
def MPT.MPSEL : Fld := { page := 0x21, off := 0x040, hi := 3, lo := 0, acc := .rw }
def MPT.VTN : Fld := { page := 0x21, off := 0x044, hi := 31, lo := 16 }
def MPT.VTD : Fld := { page := 0x21, off := 0x044, hi := 15, lo := 8 }
def MPT.CTD : Fld := { page := 0x21, off := 0x044, hi := 7, lo := 0 }
def MPT.CTN : Fld := { page := 0x21, off := 0x048, hi := 31, lo := 16 }
def MPT.FLAGS : Fld := { page := 0x21, off := 0x048, hi := 5, lo := 0 }
def MPT.ISUM : Fld := { page := 0x21, off := 0x04C, hi := 5, lo := 5 }
def MPT.OVR : Fld := { page := 0x21, off := 0x04C, hi := 4, lo := 1 }
def MPT.EXP : Fld := { page := 0x21, off := 0x04C, hi := 0, lo := 0 }
def MPT.U : Fld := { page := 0x21, off := 0x050, hi := 31, lo := 0, cnt := 3, stride := 4 }
def MPT.I : Fld := { page := 0x21, off := 0x05C, hi := 31, lo := 0, cnt := 4, stride := 4 }
def MPT.P : Fld := { page := 0x21, off := 0x06C, hi := 31, lo := 0, cnt := 4, stride := 4 }
def MPT.Q : Fld := { page := 0x21, off := 0x07C, hi := 31, lo := 0, cnt := 4, stride := 4 }
def MPT.ST : Fld := { page := 0x21, off := 0x08C, hi := 31, lo := 0 }
def MPT.PF : Fld := { page := 0x21, off := 0x090, hi := 31, lo := 0 }
def MPT.EREG_L : Fld := { page := 0x21, off := 0x094, hi := 31, lo := 0, cnt := 8, stride := 8 }
def MPT.EREG_H : Fld := { page := 0x21, off := 0x098, hi := 31, lo := 0, cnt := 8, stride := 8 }
def MPT.PCNT : Fld := { page := 0x21, off := 0x0D4, hi := 31, lo := 0, cnt := 8, stride := 4 }
def MPT.WRAPS : Fld := { page := 0x21, off := 0x0F4, hi := 31, lo := 0 }
def MPT.LOSTBND_L : Fld := { page := 0x21, off := 0x0F8, hi := 31, lo := 0 }
def MPT.LOSTBND_H : Fld := { page := 0x21, off := 0x0FC, hi := 31, lo := 0 }
def MPT.HORD : Fld := { page := 0x21, off := 0x100, hi := 13, lo := 8, acc := .rw, reset := 0x1, rng := .nat 1 50 }
def MPT.HCH : Fld := { page := 0x21, off := 0x100, hi := 2, lo := 0, acc := .rw, rng := .nat 0 6 }
def MPT.HVAL : Fld := { page := 0x21, off := 0x104, hi := 31, lo := 0 }
def MPT.THD : Fld := { page := 0x21, off := 0x108, hi := 31, lo := 0 }
def MPT.HFNO : Fld := { page := 0x21, off := 0x10C, hi := 31, lo := 0 }
def MPT.I_ISUM : Fld := { page := 0x21, off := 0x010, hi := 2, lo := 2, acc := .w1c }
def MPT.I_HNEW : Fld := { page := 0x21, off := 0x010, hi := 1, lo := 1, acc := .w1c }

/-! Page HEAT: 13_heat_metering_pulses.md. -/
def HEAT.HSEL : Fld := { page := 0x22, off := 0x040, hi := 3, lo := 0, acc := .rw }
def HEAT.FADDR : Fld := { page := 0x22, off := 0x044, hi := 31, lo := 16 }
def HEAT.FSRC : Fld := { page := 0x22, off := 0x044, hi := 15, lo := 8 }
def HEAT.FLAGS : Fld := { page := 0x22, off := 0x044, hi := 7, lo := 0 }
def HEAT.RTDR : Fld := { page := 0x22, off := 0x048, hi := 15, lo := 8 }
def HEAT.RTDS : Fld := { page := 0x22, off := 0x048, hi := 7, lo := 0 }
def HEAT.TSTALE : Fld := { page := 0x22, off := 0x04C, hi := 3, lo := 3 }
def HEAT.FLF : Fld := { page := 0x22, off := 0x04C, hi := 2, lo := 2 }
def HEAT.TRF : Fld := { page := 0x22, off := 0x04C, hi := 1, lo := 1 }
def HEAT.TSF : Fld := { page := 0x22, off := 0x04C, hi := 0, lo := 0 }
def HEAT.MEAS : Fld := { page := 0x22, off := 0x050, hi := 31, lo := 0, cnt := 5, stride := 4 }
def HEAT.KQ_L : Fld := { page := 0x22, off := 0x064, hi := 31, lo := 0 }
def HEAT.KQ_H : Fld := { page := 0x22, off := 0x068, hi := 31, lo := 0 }
def HEAT.REG_L : Fld := { page := 0x22, off := 0x06C, hi := 31, lo := 0, cnt := 4, stride := 8 }
def HEAT.REG_H : Fld := { page := 0x22, off := 0x070, hi := 31, lo := 0, cnt := 4, stride := 8 }
def HEAT.PCNT : Fld := { page := 0x22, off := 0x08C, hi := 31, lo := 0, cnt := 4, stride := 4 }
def HEAT.WRAPS : Fld := { page := 0x22, off := 0x09C, hi := 31, lo := 0 }
def HEAT.LOSTBND_L : Fld := { page := 0x22, off := 0x0A0, hi := 31, lo := 0 }
def HEAT.LOSTBND_H : Fld := { page := 0x22, off := 0x0A4, hi := 31, lo := 0 }
def HEAT.ERRSEC : Fld := { page := 0x22, off := 0x0A8, hi := 31, lo := 0 }
def HEAT.JUMPCNT : Fld := { page := 0x22, off := 0x0AC, hi := 31, lo := 0 }
def HEAT.RTDSEL : Fld := { page := 0x22, off := 0x0B0, hi := 4, lo := 0, acc := .rw }
def HEAT.RTDRAW : Fld := { page := 0x22, off := 0x0B4, hi := 31, lo := 0 }
def HEAT.RTDT : Fld := { page := 0x22, off := 0x0B8, hi := 31, lo := 0 }
def HEAT.I_LOST : Fld := { page := 0x22, off := 0x010, hi := 4, lo := 4, acc := .w1c }
def HEAT.I_JUMP : Fld := { page := 0x22, off := 0x010, hi := 3, lo := 3, acc := .w1c }
def HEAT.I_TSTALE : Fld := { page := 0x22, off := 0x010, hi := 2, lo := 2, acc := .w1c }
def HEAT.I_FAULT : Fld := { page := 0x22, off := 0x010, hi := 1, lo := 1, acc := .w1c }

/-! Page PLS: 13_heat_metering_pulses.md. -/
def PLS.PEN : Fld := { page := 0x23, off := 0x040, hi := 15, lo := 0, acc := .rws, reset := 0xFFFF }
def PLS.ACTIVE : Fld := { page := 0x23, off := 0x044, hi := 15, lo := 0 }
def PLS.PSEL : Fld := { page := 0x23, off := 0x048, hi := 3, lo := 0, acc := .rw }
def PLS.WIDTH : Fld := { page := 0x23, off := 0x04C, hi := 31, lo := 16 }
def PLS.INDEX : Fld := { page := 0x23, off := 0x04C, hi := 15, lo := 8 }
def PLS.SRCK : Fld := { page := 0x23, off := 0x04C, hi := 1, lo := 1 }
def PLS.ON : Fld := { page := 0x23, off := 0x04C, hi := 0, lo := 0 }
def PLS.KP : Fld := { page := 0x23, off := 0x050, hi := 31, lo := 0 }
def PLS.BKLG : Fld := { page := 0x23, off := 0x054, hi := 15, lo := 0 }
def PLS.EMIT_L : Fld := { page := 0x23, off := 0x058, hi := 31, lo := 0 }
def PLS.EMIT_H : Fld := { page := 0x23, off := 0x05C, hi := 31, lo := 0 }
def PLS.LAST_L : Fld := { page := 0x23, off := 0x060, hi := 31, lo := 0 }
def PLS.LAST_H : Fld := { page := 0x23, off := 0x064, hi := 31, lo := 0 }
def PLS.DROPCNT : Fld := { page := 0x23, off := 0x068, hi := 31, lo := 0 }
def PLS.NEXTF : Fld := { page := 0x23, off := 0x06C, hi := 31, lo := 0 }
def PLS.I_OVFL : Fld := { page := 0x23, off := 0x010, hi := 2, lo := 2, acc := .w1c }
def PLS.I_REISS : Fld := { page := 0x23, off := 0x010, hi := 1, lo := 1, acc := .w1c }

/-! Page PIO: 05_touchstone.md. -/
def PIO.DI : Fld := { page := 0x24, off := 0x040, hi := 31, lo := 0 }
def PIO.DOAPP : Fld := { page := 0x24, off := 0x044, hi := 15, lo := 0 }
def PIO.DOQ : Fld := { page := 0x24, off := 0x048, hi := 15, lo := 0, acc := .rwl }
def PIO.AI_H : Fld := { page := 0x24, off := 0x04C, hi := 31, lo := 16, cnt := 4, stride := 4 }
def PIO.AI_L : Fld := { page := 0x24, off := 0x04C, hi := 15, lo := 0, cnt := 4, stride := 4 }
def PIO.AOQ_H : Fld := { page := 0x24, off := 0x05C, hi := 31, lo := 16, acc := .rwl, rng := .nat 0 22000, cnt := 4, stride := 4 }
def PIO.AOQ_L : Fld := { page := 0x24, off := 0x05C, hi := 15, lo := 0, acc := .rwl, rng := .nat 0 22000, cnt := 4, stride := 4 }
def PIO.HWOFF : Fld := { page := 0x24, off := 0x06C, hi := 2, lo := 2, reset := 0x1 }
def PIO.QACT : Fld := { page := 0x24, off := 0x06C, hi := 1, lo := 1 }
def PIO.QVALID : Fld := { page := 0x24, off := 0x06C, hi := 0, lo := 0 }
def PIO.QSEQ : Fld := { page := 0x24, off := 0x070, hi := 31, lo := 0 }
def PIO.I_QCHG : Fld := { page := 0x24, off := 0x010, hi := 2, lo := 2, acc := .w1c }
def PIO.I_QACT : Fld := { page := 0x24, off := 0x010, hi := 1, lo := 1, acc := .w1c }

/-! Page NVS: 14_nv_store.md. -/
def NVS.NANDLK : Fld := { page := 0x28, off := 0x040, hi := 4, lo := 4 }
def NVS.UNAVAIL : Fld := { page := 0x28, off := 0x040, hi := 3, lo := 3 }
def NVS.DUPSEQ : Fld := { page := 0x28, off := 0x040, hi := 2, lo := 2 }
def NVS.ROLLBACK : Fld := { page := 0x28, off := 0x040, hi := 1, lo := 1 }
def NVS.RECALLED : Fld := { page := 0x28, off := 0x040, hi := 0, lo := 0 }
def NVS.PGWR : Fld := { page := 0x28, off := 0x044, hi := 31, lo := 0 }
def NVS.REFCNT : Fld := { page := 0x28, off := 0x048, hi := 31, lo := 0 }
def NVS.SUPCNT : Fld := { page := 0x28, off := 0x04C, hi := 31, lo := 0 }
def NVS.LASTREF : Fld := { page := 0x28, off := 0x050, hi := 13, lo := 8 }
def NVS.LASTPG : Fld := { page := 0x28, off := 0x050, hi := 5, lo := 0 }
def NVS.ONECOPY : Fld := { page := 0x28, off := 0x054, hi := 31, lo := 16 }
def NVS.NOREC : Fld := { page := 0x28, off := 0x054, hi := 15, lo := 0 }
def NVS.ROLLCNT : Fld := { page := 0x28, off := 0x058, hi := 31, lo := 16 }
def NVS.DUPCNT : Fld := { page := 0x28, off := 0x058, hi := 15, lo := 0 }
def NVS.RECMS : Fld := { page := 0x28, off := 0x05C, hi := 15, lo := 0, ll := true }
def NVS.PSEL : Fld := { page := 0x28, off := 0x060, hi := 3, lo := 0, acc := .rw }
def NVS.PSIZE : Fld := { page := 0x28, off := 0x064, hi := 31, lo := 16 }
def NVS.PBASE : Fld := { page := 0x28, off := 0x064, hi := 15, lo := 0 }
def NVS.PKIND : Fld := { page := 0x28, off := 0x068, hi := 1, lo := 0 }
def NVS.RSEL : Fld := { page := 0x28, off := 0x06C, hi := 11, lo := 0, acc := .rw }
def NVS.PEND : Fld := { page := 0x28, off := 0x070, hi := 3, lo := 3 }
def NVS.VALID : Fld := { page := 0x28, off := 0x070, hi := 2, lo := 1 }
def NVS.SELSLOT : Fld := { page := 0x28, off := 0x070, hi := 0, lo := 0 }
def NVS.RSEQ : Fld := { page := 0x28, off := 0x074, hi := 31, lo := 0 }
def NVS.LGEN : Fld := { page := 0x28, off := 0x078, hi := 31, lo := 0 }
def NVS.LCHUNK : Fld := { page := 0x28, off := 0x07C, hi := 31, lo := 16 }
def NVS.LAREA : Fld := { page := 0x28, off := 0x07C, hi := 0, lo := 0 }
def NVS.NBAD : Fld := { page := 0x28, off := 0x080, hi := 31, lo := 16, ll := true }
def NVS.NSPARE : Fld := { page := 0x28, off := 0x080, hi := 15, lo := 0, ll := true }
def NVS.COMSLOT : Fld := { page := 0x28, off := 0x084, hi := 8, lo := 8 }
def NVS.SLOT1 : Fld := { page := 0x28, off := 0x084, hi := 7, lo := 4 }
def NVS.SLOT0 : Fld := { page := 0x28, off := 0x084, hi := 3, lo := 0 }
def NVS.I_NANDBAD : Fld := { page := 0x28, off := 0x010, hi := 5, lo := 5, acc := .w1c, ll := true }
def NVS.I_UNAVAIL : Fld := { page := 0x28, off := 0x010, hi := 4, lo := 4, acc := .w1c }
def NVS.I_ROLLBACK : Fld := { page := 0x28, off := 0x010, hi := 3, lo := 3, acc := .w1c }
def NVS.I_NOREC : Fld := { page := 0x28, off := 0x010, hi := 2, lo := 2, acc := .w1c }
def NVS.I_REFUSED : Fld := { page := 0x28, off := 0x010, hi := 1, lo := 1, acc := .w1c }

/-! Page PAT: 15_patina_recorder.md. -/
def PAT.FULL : Fld := { page := 0x29, off := 0x040, hi := 15, lo := 8 }
def PAT.PCFG : Fld := { page := 0x29, off := 0x040, hi := 7, lo := 0 }
def PAT.OPSEC : Fld := { page := 0x29, off := 0x044, hi := 31, lo := 0 }
def PAT.BKLG : Fld := { page := 0x29, off := 0x048, hi := 10, lo := 0 }
def PAT.DISC : Fld := { page := 0x29, off := 0x04C, hi := 31, lo := 0 }
def PAT.PATPG : Fld := { page := 0x29, off := 0x050, hi := 4, lo := 0, acc := .rws, reset := 0x4, rng := .nat 1 16 }
def PAT.SPART : Fld := { page := 0x29, off := 0x054, hi := 3, lo := 1, acc := .rws }
def PAT.SUM : Fld := { page := 0x29, off := 0x054, hi := 0, lo := 0, acc := .wo }
def PAT.SUMV : Fld := { page := 0x29, off := 0x058, hi := 0, lo := 0 }
def PAT.SUMFNO : Fld := { page := 0x29, off := 0x05C, hi := 31, lo := 0 }
def PAT.RHDR : Fld := { page := 0x29, off := 0x060, hi := 3, lo := 3, acc := .rw }
def PAT.RPART : Fld := { page := 0x29, off := 0x060, hi := 2, lo := 0, acc := .rw }
def PAT.RSEQ : Fld := { page := 0x29, off := 0x064, hi := 31, lo := 0, acc := .rw }
def PAT.RSTAT : Fld := { page := 0x29, off := 0x068, hi := 1, lo := 0 }
def PAT.NEXT : Fld := { page := 0x29, off := 0x06C, hi := 31, lo := 0 }
def PAT.CIRC : Fld := { page := 0x29, off := 0x070, hi := 31, lo := 0 }
def PAT.BASE : Fld := { page := 0x29, off := 0x074, hi := 31, lo := 0 }
def PAT.NK : Fld := { page := 0x29, off := 0x078, hi := 12, lo := 0 }
def PAT.SUMD : Fld := { page := 0x29, off := 0x100, hi := 31, lo := 0, cnt := 53, stride := 4 }
def PAT.RDATA : Fld := { page := 0x29, off := 0x400, hi := 31, lo := 0, cnt := 64, stride := 4 }
def PAT.I_INVAL : Fld := { page := 0x29, off := 0x010, hi := 5, lo := 5, acc := .w1c }
def PAT.I_SUMDONE : Fld := { page := 0x29, off := 0x010, hi := 4, lo := 4, acc := .w1c }
def PAT.I_DISC : Fld := { page := 0x29, off := 0x010, hi := 3, lo := 3, acc := .w1c }
def PAT.I_FULL : Fld := { page := 0x29, off := 0x010, hi := 2, lo := 2, acc := .w1c }
def PAT.I_CLOSE : Fld := { page := 0x29, off := 0x010, hi := 1, lo := 1, acc := .w1c }

/-! Page HMK: 17_security.md. -/
def HMK.SSEL : Fld := { page := 0x2A, off := 0x040, hi := 6, lo := 0, acc := .rw }
def HMK.DEST : Fld := { page := 0x2A, off := 0x044, hi := 31, lo := 24 }
def HMK.PEND : Fld := { page := 0x2A, off := 0x044, hi := 20, lo := 20 }
def HMK.STATE : Fld := { page := 0x2A, off := 0x044, hi := 19, lo := 16 }
def HMK.ORIGIN : Fld := { page := 0x2A, off := 0x044, hi := 9, lo := 8 }
def HMK.TYPE : Fld := { page := 0x2A, off := 0x044, hi := 3, lo := 0 }
def HMK.PARENT : Fld := { page := 0x2A, off := 0x048, hi := 31, lo := 16 }
def HMK.USAGE : Fld := { page := 0x2A, off := 0x048, hi := 15, lo := 0 }
def HMK.LABEL_L : Fld := { page := 0x2A, off := 0x04C, hi := 31, lo := 0 }
def HMK.LABEL_H : Fld := { page := 0x2A, off := 0x050, hi := 31, lo := 0 }
def HMK.KCV : Fld := { page := 0x2A, off := 0x054, hi := 23, lo := 0 }
def HMK.KGEN : Fld := { page := 0x2A, off := 0x058, hi := 31, lo := 0 }
def HMK.KSEQ : Fld := { page := 0x2A, off := 0x05C, hi := 31, lo := 0 }
def HMK.KCMD : Fld := { page := 0x2A, off := 0x060, hi := 2, lo := 0, acc := .rws, rng := .nat 0 6 }
def HMK.STG : Fld := { page := 0x2A, off := 0x064, hi := 9, lo := 8 }
def HMK.STGSLOT : Fld := { page := 0x2A, off := 0x064, hi := 6, lo := 0 }
def HMK.EKCV : Fld := { page := 0x2A, off := 0x068, hi := 23, lo := 0, acc := .rws }
def HMK.BLEN : Fld := { page := 0x2A, off := 0x06C, hi := 8, lo := 0, acc := .rws, rng := .nat 1 320 }
def HMK.STGFNO : Fld := { page := 0x2A, off := 0x070, hi := 31, lo := 0 }
def HMK.NORPH : Fld := { page := 0x2A, off := 0x074, hi := 31, lo := 16 }
def HMK.NACT : Fld := { page := 0x2A, off := 0x074, hi := 15, lo := 0 }
def HMK.ORPHUSE : Fld := { page := 0x2A, off := 0x078, hi := 31, lo := 0, ll := true }
def HMK.BLOB : Fld := { page := 0x2A, off := 0x400, hi := 31, lo := 0, acc := .rws, cnt := 80, stride := 4 }
def HMK.I_STGEXP : Fld := { page := 0x2A, off := 0x010, hi := 4, lo := 4, acc := .w1c }
def HMK.I_COMMIT : Fld := { page := 0x2A, off := 0x010, hi := 3, lo := 3, acc := .w1c }
def HMK.I_ORPHAN : Fld := { page := 0x2A, off := 0x010, hi := 2, lo := 2, acc := .w1c }
def HMK.I_INVAL : Fld := { page := 0x2A, off := 0x010, hi := 1, lo := 1, acc := .w1c }

/-! Page CRY: 17_security.md. -/
def CRY.ATTV : Fld := { page := 0x2B, off := 0x040, hi := 1, lo := 1 }
def CRY.ATT : Fld := { page := 0x2B, off := 0x040, hi := 0, lo := 0, acc := .rws }
def CRY.NONCE : Fld := { page := 0x2B, off := 0x044, hi := 31, lo := 0, acc := .rws, cnt := 8, stride := 4 }
def CRY.OPCNT : Fld := { page := 0x2B, off := 0x064, hi := 31, lo := 0, ll := true }
def CRY.ERRCNT : Fld := { page := 0x2B, off := 0x068, hi := 31, lo := 0, ll := true }
def CRY.ATTFNO : Fld := { page := 0x2B, off := 0x06C, hi := 31, lo := 0 }
def CRY.ATTD : Fld := { page := 0x2B, off := 0x080, hi := 31, lo := 0, cnt := 42, stride := 4 }
def CRY.I_ATTDONE : Fld := { page := 0x2B, off := 0x010, hi := 1, lo := 1, acc := .w1c }

/-! Page LCS: 17_security.md. -/
def LCS.STATE : Fld := { page := 0x2C, off := 0x040, hi := 2, lo := 0 }
def LCS.TOKCNT : Fld := { page := 0x2C, off := 0x044, hi := 31, lo := 0 }
def LCS.LCMD : Fld := { page := 0x2C, off := 0x048, hi := 2, lo := 0, acc := .rws }
def LCS.TOKEN : Fld := { page := 0x2C, off := 0x04C, hi := 31, lo := 0, acc := .rws, cnt := 24, stride := 4 }
def LCS.UCMD : Fld := { page := 0x2C, off := 0x0AC, hi := 2, lo := 0, acc := .rws }
def LCS.UTGT : Fld := { page := 0x2C, off := 0x0B0, hi := 8, lo := 8 }
def LCS.USTATE : Fld := { page := 0x2C, off := 0x0B0, hi := 2, lo := 0 }
def LCS.NEXTPG : Fld := { page := 0x2C, off := 0x0B4, hi := 31, lo := 0 }
def LCS.NPAGES : Fld := { page := 0x2C, off := 0x0B8, hi := 31, lo := 0 }
def LCS.UPDERR : Fld := { page := 0x2C, off := 0x0BC, hi := 15, lo := 0 }
def LCS.FWSVN : Fld := { page := 0x2C, off := 0x0C0, hi := 31, lo := 0 }
def LCS.FUSESVN : Fld := { page := 0x2C, off := 0x0C4, hi := 31, lo := 0 }
def LCS.CFGVER : Fld := { page := 0x2C, off := 0x0C8, hi := 31, lo := 0 }
def LCS.BOOTERR : Fld := { page := 0x2C, off := 0x0CC, hi := 15, lo := 0, ll := true }
def LCS.I_VERFAIL : Fld := { page := 0x2C, off := 0x010, hi := 3, lo := 3, acc := .w1c }
def LCS.I_VERIFIED : Fld := { page := 0x2C, off := 0x010, hi := 2, lo := 2, acc := .w1c }
def LCS.I_LCCHG : Fld := { page := 0x2C, off := 0x010, hi := 1, lo := 1, acc := .w1c }

/-! Page ASY: 18_assay.md. -/
def ASY.BGEN : Fld := { page := 0x2D, off := 0x040, hi := 4, lo := 4, acc := .rws, reset := 0x1 }
def ASY.BGRATE : Fld := { page := 0x2D, off := 0x040, hi := 3, lo := 0, acc := .rws, reset := 0x2, rng := .nat 0 8 }
def ASY.UNIT : Fld := { page := 0x2D, off := 0x044, hi := 15, lo := 8, acc := .rws }
def ASY.TLANE : Fld := { page := 0x2D, off := 0x044, hi := 5, lo := 4, acc := .rws }
def ASY.KIND : Fld := { page := 0x2D, off := 0x044, hi := 2, lo := 0, acc := .rws, rng := .nat 0 3 }
def ASY.INJADDR : Fld := { page := 0x2D, off := 0x048, hi := 31, lo := 0, acc := .rws }
def ASY.DOUBLE : Fld := { page := 0x2D, off := 0x04C, hi := 7, lo := 7, acc := .rws }
def ASY.INJBIT : Fld := { page := 0x2D, off := 0x04C, hi := 6, lo := 0, acc := .rws, rng := .nat 0 71 }
def ASY.CSTAT : Fld := { page := 0x2D, off := 0x050, hi := 31, lo := 16 }
def ASY.CBUSY : Fld := { page := 0x2D, off := 0x050, hi := 8, lo := 8 }
def ASY.RESB : Fld := { page := 0x2D, off := 0x050, hi := 3, lo := 2 }
def ASY.RESA : Fld := { page := 0x2D, off := 0x050, hi := 1, lo := 0 }
def ASY.FUNIT : Fld := { page := 0x2D, off := 0x054, hi := 23, lo := 16 }
def ASY.FLANE : Fld := { page := 0x2D, off := 0x054, hi := 8, lo := 8 }
def ASY.FBIT : Fld := { page := 0x2D, off := 0x054, hi := 6, lo := 0 }
def ASY.FADDR : Fld := { page := 0x2D, off := 0x058, hi := 31, lo := 0 }
def ASY.FFNO : Fld := { page := 0x2D, off := 0x05C, hi := 31, lo := 0 }
def ASY.ALANE : Fld := { page := 0x2D, off := 0x060, hi := 4, lo := 4, acc := .rw }
def ASY.ARRAY : Fld := { page := 0x2D, off := 0x060, hi := 3, lo := 0, acc := .rw, rng := .nat 0 10 }
def ASY.NSPARE : Fld := { page := 0x2D, off := 0x064, hi := 15, lo := 8 }
def ASY.NUSED : Fld := { page := 0x2D, off := 0x064, hi := 7, lo := 0 }
def ASY.SPAREXB : Fld := { page := 0x2D, off := 0x068, hi := 1, lo := 1 }
def ASY.SPAREXA : Fld := { page := 0x2D, off := 0x068, hi := 0, lo := 0 }
def ASY.SURESB : Fld := { page := 0x2D, off := 0x06C, hi := 7, lo := 4 }
def ASY.SURESA : Fld := { page := 0x2D, off := 0x06C, hi := 3, lo := 0 }
def ASY.REPCNT : Fld := { page := 0x2D, off := 0x070, hi := 31, lo := 0 }
def ASY.TTCNT : Fld := { page := 0x2D, off := 0x074, hi := 31, lo := 0 }
def ASY.BGSLICE : Fld := { page := 0x2D, off := 0x078, hi := 31, lo := 0, ll := true }
def ASY.BGPASS : Fld := { page := 0x2D, off := 0x07C, hi := 31, lo := 0, ll := true }
def ASY.BGUNIT : Fld := { page := 0x2D, off := 0x080, hi := 31, lo := 24, ll := true }
def ASY.BGSEG : Fld := { page := 0x2D, off := 0x080, hi := 19, lo := 0, ll := true }
def ASY.CECNT : Fld := { page := 0x2D, off := 0x084, hi := 31, lo := 0, ll := true }
def ASY.I_PASS : Fld := { page := 0x2D, off := 0x010, hi := 5, lo := 5, acc := .w1c, ll := true }
def ASY.I_SPAREX : Fld := { page := 0x2D, off := 0x010, hi := 4, lo := 4, acc := .w1c }
def ASY.I_CMDDONE : Fld := { page := 0x2D, off := 0x010, hi := 3, lo := 3, acc := .w1c }
def ASY.I_REPAIR : Fld := { page := 0x2D, off := 0x010, hi := 2, lo := 2, acc := .w1c }
def ASY.I_FAIL : Fld := { page := 0x2D, off := 0x010, hi := 1, lo := 1, acc := .w1c }

/-! Page RTC: 16_time.md. -/
def RTC.CALW0 : Fld := { page := 0x30, off := 0x040, hi := 31, lo := 0 }
def RTC.CALW1 : Fld := { page := 0x30, off := 0x044, hi := 31, lo := 0 }
def RTC.CALSEC : Fld := { page := 0x30, off := 0x048, hi := 31, lo := 0 }
def RTC.SETPEND : Fld := { page := 0x30, off := 0x04C, hi := 4, lo := 4 }
def RTC.SETABT : Fld := { page := 0x30, off := 0x04C, hi := 3, lo := 3 }
def RTC.BATLOW : Fld := { page := 0x30, off := 0x04C, hi := 2, lo := 2 }
def RTC.OSF : Fld := { page := 0x30, off := 0x04C, hi := 1, lo := 1 }
def RTC.CALVALID : Fld := { page := 0x30, off := 0x04C, hi := 0, lo := 0 }
def RTC.SETW0 : Fld := { page := 0x30, off := 0x050, hi := 31, lo := 0, acc := .rws }
def RTC.SETW1 : Fld := { page := 0x30, off := 0x054, hi := 31, lo := 0, acc := .rws }
def RTC.SET : Fld := { page := 0x30, off := 0x058, hi := 0, lo := 0, acc := .rws }
def RTC.LOCOFS : Fld := { page := 0x30, off := 0x05C, hi := 31, lo := 16, acc := .rws, rng := .int (-1440) 1440 }
def RTC.ASTHR : Fld := { page := 0x30, off := 0x05C, hi := 15, lo := 8, acc := .rws, reset := 0xA, rng := .nat 1 255 }
def RTC.AUTOSET : Fld := { page := 0x30, off := 0x05C, hi := 0, lo := 0, acc := .rws }
def RTC.UTCOFS : Fld := { page := 0x30, off := 0x060, hi := 15, lo := 0, acc := .rws, reset := 0x25, rng := .int (-255) 255 }
def RTC.ASEL : Fld := { page := 0x30, off := 0x064, hi := 2, lo := 0, acc := .rw }
def RTC.HOUR : Fld := { page := 0x30, off := 0x068, hi := 31, lo := 24, acc := .rws }
def RTC.MIN : Fld := { page := 0x30, off := 0x068, hi := 23, lo := 16, acc := .rws }
def RTC.SEC : Fld := { page := 0x30, off := 0x068, hi := 15, lo := 8, acc := .rws }
def RTC.EN : Fld := { page := 0x30, off := 0x068, hi := 7, lo := 7, acc := .rws }
def RTC.DMODE : Fld := { page := 0x30, off := 0x068, hi := 6, lo := 6, acc := .rws }
def RTC.MON : Fld := { page := 0x30, off := 0x06C, hi := 15, lo := 8, acc := .rws }
def RTC.DAYSEL : Fld := { page := 0x30, off := 0x06C, hi := 7, lo := 0, acc := .rws }
def RTC.NEXT : Fld := { page := 0x30, off := 0x070, hi := 31, lo := 0, reset := 0xFFFFFFFF }
def RTC.LAST : Fld := { page := 0x30, off := 0x074, hi := 31, lo := 0 }
def RTC.FCNT : Fld := { page := 0x30, off := 0x078, hi := 31, lo := 16 }
def RTC.LATE : Fld := { page := 0x30, off := 0x078, hi := 1, lo := 1 }
def RTC.ARMED : Fld := { page := 0x30, off := 0x078, hi := 0, lo := 0 }
def RTC.I_SETABT : Fld := { page := 0x30, off := 0x010, hi := 6, lo := 6, acc := .w1c }
def RTC.I_BATLOW : Fld := { page := 0x30, off := 0x010, hi := 5, lo := 5, acc := .w1c }
def RTC.I_LATE : Fld := { page := 0x30, off := 0x010, hi := 4, lo := 4, acc := .w1c }
def RTC.I_CALINV : Fld := { page := 0x30, off := 0x010, hi := 3, lo := 3, acc := .w1c }
def RTC.I_CALSET : Fld := { page := 0x30, off := 0x010, hi := 2, lo := 2, acc := .w1c }
def RTC.I_ALARM : Fld := { page := 0x30, off := 0x010, hi := 1, lo := 1, acc := .w1c }

/-! Page PTP: 16_time.md. -/
def PTP.SERVOOFF : Fld := { page := 0x31, off := 0x040, hi := 3, lo := 3 }
def PTP.REFFALL : Fld := { page := 0x31, off := 0x040, hi := 2, lo := 2 }
def PTP.SYNC : Fld := { page := 0x31, off := 0x040, hi := 1, lo := 0 }
def PTP.PRIO2 : Fld := { page := 0x31, off := 0x044, hi := 31, lo := 24, acc := .rws, reset := 0x80 }
def PTP.PRIO1 : Fld := { page := 0x31, off := 0x044, hi := 23, lo := 16, acc := .rws, reset := 0xFF }
def PTP.DOMAIN : Fld := { page := 0x31, off := 0x044, hi := 15, lo := 8, acc := .rws, rng := .nat 0 127 }
def PTP.PORT : Fld := { page := 0x31, off := 0x044, hi := 3, lo := 2, acc := .rws }
def PTP.PROFILE : Fld := { page := 0x31, off := 0x044, hi := 1, lo := 0, acc := .rws, rng := .nat 0 3 }
def PTP.ANNRTO : Fld := { page := 0x31, off := 0x048, hi := 31, lo := 24, acc := .rws, reset := 0x3, rng := .nat 2 10 }
def PTP.LOGDLY : Fld := { page := 0x31, off := 0x048, hi := 23, lo := 16, acc := .rws, rng := .int (-4) 5 }
def PTP.LOGANN : Fld := { page := 0x31, off := 0x048, hi := 15, lo := 8, acc := .rws, reset := 0x1, rng := .nat 0 3 }
def PTP.LOGSYNC : Fld := { page := 0x31, off := 0x048, hi := 7, lo := 0, acc := .rws, rng := .int (-4) 1 }
def PTP.STEPTHR : Fld := { page := 0x31, off := 0x04C, hi := 31, lo := 0, acc := .rws, reset := 0x186A0, rng := .nat 1000 1000000000 }
def PTP.UNLKTHR : Fld := { page := 0x31, off := 0x050, hi := 31, lo := 16, acc := .rws, reset := 0x2710, rng := .nat 100 65535 }
def PTP.LOCKTHR : Fld := { page := 0x31, off := 0x050, hi := 15, lo := 0, acc := .rws, reset := 0x3E8, rng := .nat 10 65535 }
def PTP.KI : Fld := { page := 0x31, off := 0x054, hi := 31, lo := 16, acc := .rws, reset := 0x4D, rng := .nat 0 1024 }
def PTP.KP : Fld := { page := 0x31, off := 0x054, hi := 15, lo := 0, acc := .rws, reset := 0xB3, rng := .nat 0 1024 }
def PTP.HOTIME : Fld := { page := 0x31, off := 0x058, hi := 31, lo := 16, acc := .rws, reset := 0xE10, rng := .nat 1 65535 }
def PTP.SMPTO : Fld := { page := 0x31, off := 0x058, hi := 15, lo := 0, acc := .rws, reset := 0xBB8, rng := .nat 100 60000 }
def PTP.LTNS : Fld := { page := 0x31, off := 0x05C, hi := 29, lo := 0, ll := true }
def PTP.LTSEC_L : Fld := { page := 0x31, off := 0x060, hi := 31, lo := 0, ll := true }
def PTP.LTSEC_H : Fld := { page := 0x31, off := 0x064, hi := 15, lo := 0, ll := true }
def PTP.OFFSET : Fld := { page := 0x31, off := 0x068, hi := 31, lo := 0, ll := true }
def PTP.MPD : Fld := { page := 0x31, off := 0x06C, hi := 31, lo := 0, ll := true }
def PTP.ADJ : Fld := { page := 0x31, off := 0x070, hi := 31, lo := 0, ll := true }
def PTP.PSTATE : Fld := { page := 0x31, off := 0x074, hi := 3, lo := 0, ll := true }
def PTP.GMID_L : Fld := { page := 0x31, off := 0x078, hi := 31, lo := 0, ll := true }
def PTP.GMID_H : Fld := { page := 0x31, off := 0x07C, hi := 31, lo := 0, ll := true }
def PTP.UTCANN : Fld := { page := 0x31, off := 0x080, hi := 31, lo := 16, ll := true }
def PTP.UTCANNV : Fld := { page := 0x31, off := 0x080, hi := 0, lo := 0, ll := true }
def PTP.STEPCNT : Fld := { page := 0x31, off := 0x084, hi := 31, lo := 0, ll := true }
def PTP.I_GMCHG : Fld := { page := 0x31, off := 0x010, hi := 5, lo := 5, acc := .w1c, ll := true }
def PTP.I_STEP : Fld := { page := 0x31, off := 0x010, hi := 4, lo := 4, acc := .w1c, ll := true }
def PTP.I_FREE : Fld := { page := 0x31, off := 0x010, hi := 3, lo := 3, acc := .w1c }
def PTP.I_HOLD : Fld := { page := 0x31, off := 0x010, hi := 2, lo := 2, acc := .w1c }
def PTP.I_LOCK : Fld := { page := 0x31, off := 0x010, hi := 1, lo := 1, acc := .w1c }

/-! Page TSQ: 16_time.md. -/
def TSQ.FULL : Fld := { page := 0x32, off := 0x040, hi := 8, lo := 8 }
def TSQ.LEVEL : Fld := { page := 0x32, off := 0x040, hi := 4, lo := 0 }
def TSQ.OVFCNT : Fld := { page := 0x32, off := 0x044, hi := 31, lo := 0 }
def TSQ.OVFPORT : Fld := { page := 0x32, off := 0x048, hi := 9, lo := 8 }
def TSQ.OVFID : Fld := { page := 0x32, off := 0x048, hi := 7, lo := 0 }
def TSQ.STALECNT : Fld := { page := 0x32, off := 0x04C, hi := 31, lo := 0 }
def TSQ.HVALID : Fld := { page := 0x32, off := 0x050, hi := 16, lo := 16 }
def TSQ.HPORT : Fld := { page := 0x32, off := 0x050, hi := 9, lo := 8 }
def TSQ.HID : Fld := { page := 0x32, off := 0x050, hi := 7, lo := 0 }
def TSQ.HNS : Fld := { page := 0x32, off := 0x054, hi := 29, lo := 0 }
def TSQ.HSEC_L : Fld := { page := 0x32, off := 0x058, hi := 31, lo := 0 }
def TSQ.HSEC_H : Fld := { page := 0x32, off := 0x05C, hi := 15, lo := 0 }
def TSQ.I_STALE : Fld := { page := 0x32, off := 0x010, hi := 2, lo := 2, acc := .w1c }
def TSQ.I_OVF : Fld := { page := 0x32, off := 0x010, hi := 1, lo := 1, acc := .w1c }

/-! Page QMG: 19_queues.md. -/
def QMG.POOLUSE : Fld := { page := 0x34, off := 0x040, hi := 16, lo := 0 }
def QMG.CECNT : Fld := { page := 0x34, off := 0x044, hi := 31, lo := 0, ll := true }
def QMG.QSEL : Fld := { page := 0x34, off := 0x048, hi := 5, lo := 0, acc := .rw }
def QMG.CAP : Fld := { page := 0x34, off := 0x04C, hi := 14, lo := 0, acc := .rwl, reset := 0x200 }
def QMG.RTO : Fld := { page := 0x34, off := 0x050, hi := 31, lo := 16, acc := .rwl, reset := 0xA, rng := .nat 1 65535 }
def QMG.CUT : Fld := { page := 0x34, off := 0x050, hi := 12, lo := 0, acc := .rwl }
def QMG.READER : Fld := { page := 0x34, off := 0x054, hi := 7, lo := 4 }
def QMG.WRITER : Fld := { page := 0x34, off := 0x054, hi := 3, lo := 0 }
def QMG.HELD : Fld := { page := 0x34, off := 0x058, hi := 16, lo := 0 }
def QMG.ORPH : Fld := { page := 0x34, off := 0x05C, hi := 3, lo := 3 }
def QMG.OPEN : Fld := { page := 0x34, off := 0x05C, hi := 2, lo := 2 }
def QMG.FULL : Fld := { page := 0x34, off := 0x05C, hi := 1, lo := 1 }
def QMG.VIS : Fld := { page := 0x34, off := 0x05C, hi := 0, lo := 0 }
def QMG.IGNCNT : Fld := { page := 0x34, off := 0x060, hi := 31, lo := 0 }
def QMG.OVRCNT : Fld := { page := 0x34, off := 0x064, hi := 31, lo := 0 }
def QMG.TRUNCCNT : Fld := { page := 0x34, off := 0x068, hi := 31, lo := 0 }
def QMG.STRAND : Fld := { page := 0x34, off := 0x06C, hi := 31, lo := 0 }
def QMG.FLUSHW : Fld := { page := 0x34, off := 0x070, hi := 31, lo := 0 }
def QMG.QCECNT : Fld := { page := 0x34, off := 0x074, hi := 31, lo := 0, ll := true }
def QMG.FLUSHALL : Fld := { page := 0x34, off := 0x078, hi := 1, lo := 1, acc := .rws }
def QMG.FLUSH : Fld := { page := 0x34, off := 0x078, hi := 0, lo := 0, acc := .rws }
def QMG.I_CE : Fld := { page := 0x34, off := 0x010, hi := 5, lo := 5, acc := .w1c, ll := true }
def QMG.I_FULL : Fld := { page := 0x34, off := 0x010, hi := 4, lo := 4, acc := .w1c }
def QMG.I_STRAND : Fld := { page := 0x34, off := 0x010, hi := 3, lo := 3, acc := .w1c }
def QMG.I_TRUNC : Fld := { page := 0x34, off := 0x010, hi := 2, lo := 2, acc := .w1c }
def QMG.I_OVR : Fld := { page := 0x34, off := 0x010, hi := 1, lo := 1, acc := .w1c }

/-! Page ETH: 21_field_ports.md. -/
def ETH.PTPPORT : Fld := { page := 0x38, off := 0x040, hi := 3, lo := 3 }
def ETH.SPEED : Fld := { page := 0x38, off := 0x040, hi := 2, lo := 1 }
def ETH.LINK : Fld := { page := 0x38, off := 0x040, hi := 0, lo := 0 }
def ETH.IPADDR : Fld := { page := 0x38, off := 0x044, hi := 31, lo := 0 }
def ETH.NETMASK : Fld := { page := 0x38, off := 0x048, hi := 31, lo := 0 }
def ETH.GATEWAY : Fld := { page := 0x38, off := 0x04C, hi := 31, lo := 0 }
def ETH.SERV : Fld := { page := 0x38, off := 0x050, hi := 20, lo := 16 }
def ETH.TGPORT : Fld := { page := 0x38, off := 0x050, hi := 15, lo := 0 }
def ETH.NTCP : Fld := { page := 0x38, off := 0x054, hi := 31, lo := 16, ll := true }
def ETH.NSESS : Fld := { page := 0x38, off := 0x054, hi := 15, lo := 0, ll := true }
def ETH.RXFR : Fld := { page := 0x38, off := 0x058, hi := 31, lo := 0 }
def ETH.RXDROP : Fld := { page := 0x38, off := 0x05C, hi := 31, lo := 0, ll := true }
def ETH.TGOK : Fld := { page := 0x38, off := 0x060, hi := 31, lo := 0 }
def ETH.TGAUTH : Fld := { page := 0x38, off := 0x064, hi := 31, lo := 0 }
def ETH.TGREPLAY : Fld := { page := 0x38, off := 0x068, hi := 31, lo := 0 }
def ETH.I_TGAUTH : Fld := { page := 0x38, off := 0x010, hi := 3, lo := 3, acc := .w1c }
def ETH.I_LINKDN : Fld := { page := 0x38, off := 0x010, hi := 2, lo := 2, acc := .w1c }
def ETH.I_LINKUP : Fld := { page := 0x38, off := 0x010, hi := 1, lo := 1, acc := .w1c }

/-! Page FAB: 20_rogon_fabric.md. -/
def FAB.MODID : Fld := { page := 0x3C, off := 0x040, hi := 11, lo := 0 }
def FAB.LATENCY : Fld := { page := 0x3C, off := 0x044, hi := 4, lo := 0 }
def FAB.KSLOT2 : Fld := { page := 0x3C, off := 0x048, hi := 14, lo := 8, acc := .rws }
def FAB.KSLOT : Fld := { page := 0x3C, off := 0x048, hi := 6, lo := 0, acc := .rws }
def FAB.TSRC : Fld := { page := 0x3C, off := 0x04C, hi := 2, lo := 0, acc := .rws, rng := .nat 0 4 }
def FAB.THOP : Fld := { page := 0x3C, off := 0x050, hi := 15, lo := 8, reset := 0xFF }
def FAB.DUPID : Fld := { page := 0x3C, off := 0x050, hi := 6, lo := 6 }
def FAB.NOKEY : Fld := { page := 0x3C, off := 0x050, hi := 5, lo := 5 }
def FAB.COORD : Fld := { page := 0x3C, off := 0x050, hi := 4, lo := 4 }
def FAB.DOMAIN : Fld := { page := 0x3C, off := 0x050, hi := 3, lo := 3 }
def FAB.SALTV : Fld := { page := 0x3C, off := 0x050, hi := 2, lo := 2 }
def FAB.TFAB : Fld := { page := 0x3C, off := 0x050, hi := 1, lo := 1 }
def FAB.ADJ : Fld := { page := 0x3C, off := 0x050, hi := 0, lo := 0 }
def FAB.NREACH : Fld := { page := 0x3C, off := 0x054, hi := 13, lo := 8 }
def FAB.NLSA : Fld := { page := 0x3C, off := 0x054, hi := 6, lo := 0 }
def FAB.LEPOCH_L : Fld := { page := 0x3C, off := 0x058, hi := 31, lo := 0 }
def FAB.LEPOCH_H : Fld := { page := 0x3C, off := 0x05C, hi := 31, lo := 0 }
def FAB.LDEC : Fld := { page := 0x3C, off := 0x060, hi := 1, lo := 0 }
def FAB.COMCNT : Fld := { page := 0x3C, off := 0x064, hi := 31, lo := 0 }
def FAB.ABNCNT : Fld := { page := 0x3C, off := 0x068, hi := 31, lo := 0 }
def FAB.ABSCNT : Fld := { page := 0x3C, off := 0x06C, hi := 31, lo := 0 }
def FAB.AUTHFAIL : Fld := { page := 0x3C, off := 0x070, hi := 31, lo := 0 }
def FAB.REPLAY : Fld := { page := 0x3C, off := 0x074, hi := 31, lo := 0 }
def FAB.NOSALT : Fld := { page := 0x3C, off := 0x078, hi := 31, lo := 0 }
def FAB.NLSAFULL : Fld := { page := 0x3C, off := 0x07C, hi := 31, lo := 16 }
def FAB.BADDEC : Fld := { page := 0x3C, off := 0x07C, hi := 15, lo := 0 }
def FAB.RESEND : Fld := { page := 0x3C, off := 0x080, hi := 31, lo := 0 }
def FAB.FWDCNT : Fld := { page := 0x3C, off := 0x084, hi := 31, lo := 0, ll := true }
def FAB.HOPDROP : Fld := { page := 0x3C, off := 0x088, hi := 31, lo := 0, ll := true }
def FAB.NOROUTE : Fld := { page := 0x3C, off := 0x08C, hi := 31, lo := 0, ll := true }
def FAB.RSEL : Fld := { page := 0x3C, off := 0x090, hi := 11, lo := 0, acc := .rw }
def FAB.RVALID : Fld := { page := 0x3C, off := 0x094, hi := 31, lo := 31 }
def FAB.RLINK : Fld := { page := 0x3C, off := 0x094, hi := 25, lo := 24 }
def FAB.RHOPS : Fld := { page := 0x3C, off := 0x094, hi := 23, lo := 20 }
def FAB.RCOST : Fld := { page := 0x3C, off := 0x094, hi := 15, lo := 0 }
def FAB.I_DUPID : Fld := { page := 0x3C, off := 0x010, hi := 7, lo := 7, acc := .w1c }
def FAB.I_NOKEY : Fld := { page := 0x3C, off := 0x010, hi := 6, lo := 6, acc := .w1c }
def FAB.I_AUTHFAIL : Fld := { page := 0x3C, off := 0x010, hi := 5, lo := 5, acc := .w1c }
def FAB.I_ABANDON : Fld := { page := 0x3C, off := 0x010, hi := 4, lo := 4, acc := .w1c }
def FAB.I_COMMIT : Fld := { page := 0x3C, off := 0x010, hi := 3, lo := 3, acc := .w1c }
def FAB.I_ROUTECHG : Fld := { page := 0x3C, off := 0x010, hi := 2, lo := 2, acc := .w1c }
def FAB.I_ADJCHG : Fld := { page := 0x3C, off := 0x010, hi := 1, lo := 1, acc := .w1c }

/-! Page FL: 20_rogon_fabric.md. -/
def FL.COST : Fld := { page := 0x3D, off := 0x040, hi := 7, lo := 0, acc := .rws, rng := .nat 1 255 }
def FL.ASYM : Fld := { page := 0x3D, off := 0x044, hi := 31, lo := 0, acc := .rws, rng := .int (-100000) 100000 }
def FL.TVALID : Fld := { page := 0x3D, off := 0x048, hi := 6, lo := 6 }
def FL.ADJ : Fld := { page := 0x3D, off := 0x048, hi := 5, lo := 5 }
def FL.HELLO : Fld := { page := 0x3D, off := 0x048, hi := 4, lo := 4 }
def FL.BLOCK : Fld := { page := 0x3D, off := 0x048, hi := 3, lo := 3 }
def FL.SFP : Fld := { page := 0x3D, off := 0x048, hi := 2, lo := 2 }
def FL.PWR : Fld := { page := 0x3D, off := 0x048, hi := 1, lo := 1 }
def FL.UP : Fld := { page := 0x3D, off := 0x048, hi := 0, lo := 0 }
def FL.NLINK : Fld := { page := 0x3D, off := 0x04C, hi := 13, lo := 12 }
def FL.NBR : Fld := { page := 0x3D, off := 0x04C, hi := 11, lo := 0 }
def FL.TOFS : Fld := { page := 0x3D, off := 0x050, hi := 31, lo := 0 }
def FL.DELAY : Fld := { page := 0x3D, off := 0x054, hi := 31, lo := 0 }
def FL.DOWNCNT : Fld := { page := 0x3D, off := 0x058, hi := 31, lo := 16 }
def FL.UPCNT : Fld := { page := 0x3D, off := 0x058, hi := 15, lo := 0 }
def FL.RXFR : Fld := { page := 0x3D, off := 0x05C, hi := 31, lo := 0 }
def FL.TXFR : Fld := { page := 0x3D, off := 0x060, hi := 31, lo := 0 }
def FL.BLKERR : Fld := { page := 0x3D, off := 0x064, hi := 31, lo := 0, ll := true }
def FL.QDROP : Fld := { page := 0x3D, off := 0x068, hi := 31, lo := 0, ll := true }
def FL.I_ADJCHG : Fld := { page := 0x3D, off := 0x010, hi := 3, lo := 3, acc := .w1c }
def FL.I_DOWN : Fld := { page := 0x3D, off := 0x010, hi := 2, lo := 2, acc := .w1c }
def FL.I_UP : Fld := { page := 0x3D, off := 0x010, hi := 1, lo := 1, acc := .w1c }

/-! Page CAN: 21_field_ports.md. -/
def CAN.RECOVER : Fld := { page := 0x44, off := 0x040, hi := 4, lo := 4, acc := .rws }
def CAN.ONESHOT : Fld := { page := 0x44, off := 0x040, hi := 3, lo := 3, acc := .rws }
def CAN.MODE : Fld := { page := 0x44, off := 0x040, hi := 2, lo := 0, acc := .rws, rng := .nat 0 3 }
def CAN.NBR : Fld := { page := 0x44, off := 0x044, hi := 31, lo := 16, acc := .rws }
def CAN.DBR : Fld := { page := 0x44, off := 0x044, hi := 15, lo := 0, acc := .rws }
def CAN.FDSEEN : Fld := { page := 0x44, off := 0x048, hi := 3, lo := 3 }
def CAN.ABLOCK : Fld := { page := 0x44, off := 0x048, hi := 2, lo := 2 }
def CAN.STATE : Fld := { page := 0x44, off := 0x048, hi := 1, lo := 0 }
def CAN.REC : Fld := { page := 0x44, off := 0x04C, hi := 31, lo := 16 }
def CAN.TEC : Fld := { page := 0x44, off := 0x04C, hi := 15, lo := 0 }
def CAN.ABNBR : Fld := { page := 0x44, off := 0x050, hi := 31, lo := 16 }
def CAN.ABDBR : Fld := { page := 0x44, off := 0x050, hi := 15, lo := 0 }
def CAN.BOCNT : Fld := { page := 0x44, off := 0x054, hi := 31, lo := 0 }
def CAN.OSFAIL : Fld := { page := 0x44, off := 0x058, hi := 31, lo := 0 }
def CAN.RXCNT : Fld := { page := 0x44, off := 0x05C, hi := 31, lo := 0 }
def CAN.I_ABLOCK : Fld := { page := 0x44, off := 0x010, hi := 5, lo := 5, acc := .w1c }
def CAN.I_OSFAIL : Fld := { page := 0x44, off := 0x010, hi := 4, lo := 4, acc := .w1c }
def CAN.I_PASSIVE : Fld := { page := 0x44, off := 0x010, hi := 3, lo := 3, acc := .w1c }
def CAN.I_BUSOFF : Fld := { page := 0x44, off := 0x010, hi := 2, lo := 2, acc := .w1c }
def CAN.I_RECOVERED : Fld := { page := 0x44, off := 0x010, hi := 1, lo := 1, acc := .w1c }

/-! Page SER: 21_field_ports.md. -/
def SER.LINE : Fld := { page := 0x48, off := 0x040, hi := 7, lo := 4 }
def SER.BAUD : Fld := { page := 0x48, off := 0x040, hi := 2, lo := 0 }
def SER.RXADU : Fld := { page := 0x48, off := 0x044, hi := 31, lo := 0 }
def SER.CRCERR : Fld := { page := 0x48, off := 0x048, hi := 31, lo := 0, ll := true }
def SER.TOUT : Fld := { page := 0x48, off := 0x04C, hi := 31, lo := 0 }
def SER.OVRUN : Fld := { page := 0x48, off := 0x050, hi := 31, lo := 0, ll := true }
def SER.I_TOUT : Fld := { page := 0x48, off := 0x010, hi := 2, lo := 2, acc := .w1c }

/-! Page MB: 21_field_ports.md. -/
def MB.OVC : Fld := { page := 0x4C, off := 0x040, hi := 3, lo := 3 }
def MB.BUSON : Fld := { page := 0x4C, off := 0x040, hi := 2, lo := 2 }
def MB.BAUD : Fld := { page := 0x4C, off := 0x040, hi := 1, lo := 0 }
def MB.IBUS : Fld := { page := 0x4C, off := 0x044, hi := 15, lo := 0 }
def MB.RXTG : Fld := { page := 0x4C, off := 0x048, hi := 31, lo := 0 }
def MB.COLL : Fld := { page := 0x4C, off := 0x04C, hi := 31, lo := 0 }
def MB.OVCCNT : Fld := { page := 0x4C, off := 0x050, hi := 31, lo := 0 }
def MB.RESTART : Fld := { page := 0x4C, off := 0x054, hi := 0, lo := 0, acc := .rws }
def MB.I_OVC : Fld := { page := 0x4C, off := 0x010, hi := 2, lo := 2, acc := .w1c }
def MB.I_COLL : Fld := { page := 0x4C, off := 0x010, hi := 1, lo := 1, acc := .w1c }

/-! Page DSP: 22_display.md. -/
def DSP.DLBAD : Fld := { page := 0x50, off := 0x040, hi := 4, lo := 4, ll := true }
def DSP.BLANKED : Fld := { page := 0x50, off := 0x040, hi := 3, lo := 3, ll := true }
def DSP.CRCALM : Fld := { page := 0x50, off := 0x040, hi := 2, lo := 2, ll := true }
def DSP.STALE : Fld := { page := 0x50, off := 0x040, hi := 1, lo := 1, ll := true }
def DSP.RUN : Fld := { page := 0x50, off := 0x040, hi := 0, lo := 0, ll := true }
def DSP.VACT : Fld := { page := 0x50, off := 0x044, hi := 31, lo := 16 }
def DSP.HACT : Fld := { page := 0x50, off := 0x044, hi := 15, lo := 0 }
def DSP.PIXKHZ : Fld := { page := 0x50, off := 0x048, hi := 31, lo := 0 }
def DSP.REFRESH : Fld := { page := 0x50, off := 0x04C, hi := 15, lo := 0 }
def DSP.SWAPCNT : Fld := { page := 0x50, off := 0x050, hi := 31, lo := 0, ll := true }
def DSP.CRCERR : Fld := { page := 0x50, off := 0x054, hi := 31, lo := 0, ll := true }
def DSP.LASTCRC : Fld := { page := 0x50, off := 0x058, hi := 31, lo := 0, ll := true }
def DSP.EXPCRC : Fld := { page := 0x50, off := 0x05C, hi := 31, lo := 0, ll := true }
def DSP.CRCACT : Fld := { page := 0x50, off := 0x060, hi := 8, lo := 8, acc := .rws }
def DSP.CRCMAX : Fld := { page := 0x50, off := 0x060, hi := 5, lo := 0, acc := .rws, rng := .nat 1 60 }
def DSP.STALEMS : Fld := { page := 0x50, off := 0x064, hi := 15, lo := 0, acc := .rws, rng := .nat 500 60000 }
def DSP.DLERR : Fld := { page := 0x50, off := 0x068, hi := 31, lo := 16, ll := true }
def DSP.DLREJ : Fld := { page := 0x50, off := 0x068, hi := 15, lo := 0, ll := true }
def DSP.SINCE : Fld := { page := 0x50, off := 0x06C, hi := 31, lo := 0, ll := true }
def DSP.I_DLBAD : Fld := { page := 0x50, off := 0x010, hi := 3, lo := 3, acc := .w1c, ll := true }
def DSP.I_STALE : Fld := { page := 0x50, off := 0x010, hi := 2, lo := 2, acc := .w1c, ll := true }
def DSP.I_CRCALM : Fld := { page := 0x50, off := 0x010, hi := 1, lo := 1, acc := .w1c, ll := true }

/-! Page PNL: 22_display.md. -/
def PNL.BLSHORT : Fld := { page := 0x51, off := 0x040, hi := 15, lo := 12, ll := true }
def PNL.BLOPEN : Fld := { page := 0x51, off := 0x040, hi := 11, lo := 8, ll := true }
def PNL.RFTRY : Fld := { page := 0x51, off := 0x040, hi := 7, lo := 6, ll := true }
def PNL.RFRAIL : Fld := { page := 0x51, off := 0x040, hi := 5, lo := 4, ll := true }
def PNL.RFLT : Fld := { page := 0x51, off := 0x040, hi := 3, lo := 3, ll := true }
def PNL.LOCKOUT : Fld := { page := 0x51, off := 0x040, hi := 2, lo := 2, ll := true }
def PNL.SEQ : Fld := { page := 0x51, off := 0x040, hi := 1, lo := 1, ll := true }
def PNL.ON : Fld := { page := 0x51, off := 0x040, hi := 0, lo := 0, ll := true }
def PNL.VGH : Fld := { page := 0x51, off := 0x044, hi := 31, lo := 16, acc := .rws }
def PNL.AVDD : Fld := { page := 0x51, off := 0x044, hi := 15, lo := 0, acc := .rws }
def PNL.VCOM : Fld := { page := 0x51, off := 0x048, hi := 31, lo := 16, acc := .rws, rng := .nat 200 700 }
def PNL.VGL : Fld := { page := 0x51, off := 0x048, hi := 15, lo := 0, acc := .rws }
def PNL.BLEN : Fld := { page := 0x51, off := 0x04C, hi := 31, lo := 28, acc := .rws }
def PNL.BLDIM : Fld := { page := 0x51, off := 0x04C, hi := 25, lo := 16, acc := .rws, rng := .nat 0 1000 }
def PNL.BLCUR : Fld := { page := 0x51, off := 0x04C, hi := 9, lo := 0, acc := .rws, rng := .nat 0 600 }
def PNL.MVGH : Fld := { page := 0x51, off := 0x050, hi := 31, lo := 16, ll := true }
def PNL.MAVDD : Fld := { page := 0x51, off := 0x050, hi := 15, lo := 0, ll := true }
def PNL.MVCOM : Fld := { page := 0x51, off := 0x054, hi := 31, lo := 16, ll := true }
def PNL.MVGL : Fld := { page := 0x51, off := 0x054, hi := 15, lo := 0, ll := true }
def PNL.GSEL : Fld := { page := 0x51, off := 0x058, hi := 9, lo := 8, acc := .rw, rng := .nat 0 2 }
def PNL.GIDX : Fld := { page := 0x51, off := 0x058, hi := 7, lo := 0, acc := .rw }
def PNL.GDATA : Fld := { page := 0x51, off := 0x05C, hi := 9, lo := 0, acc := .rws }
def PNL.RESTART : Fld := { page := 0x51, off := 0x060, hi := 1, lo := 1, acc := .rws }
def PNL.GCOMMIT : Fld := { page := 0x51, off := 0x060, hi := 0, lo := 0, acc := .rws }
def PNL.I_BLFLT : Fld := { page := 0x51, off := 0x010, hi := 4, lo := 4, acc := .w1c, ll := true }
def PNL.I_LOCKOUT : Fld := { page := 0x51, off := 0x010, hi := 3, lo := 3, acc := .w1c, ll := true }
def PNL.I_RFLT : Fld := { page := 0x51, off := 0x010, hi := 2, lo := 2, acc := .w1c, ll := true }
def PNL.I_ON : Fld := { page := 0x51, off := 0x010, hi := 1, lo := 1, acc := .w1c, ll := true }

end R

/-- The fields of page SYS. -/
def fieldsSYS : List Fld := [
  R.SYS.SERIAL_L, R.SYS.SERIAL_H, R.SYS.CFGFP_L, R.SYS.CFGFP_H, R.SYS.PARTFP_L, R.SYS.PARTFP_H, R.SYS.CALINV, R.SYS.ROLLBACK,
  R.SYS.REASON, R.SYS.UPDINT, R.SYS.TYPE, R.SYS.TRIG, R.SYS.PCYC, R.SYS.MAXOUT, R.SYS.RETPOL, R.SYS.STARTUP]

/-- The fields of page FRAME. -/
def fieldsFRAME : List Fld := [
  R.FRAME.FNO_L, R.FRAME.FNO_H, R.FRAME.NTNS, R.FRAME.NTSEC_L, R.FRAME.NTSEC_H, R.FRAME.FLEN, R.FRAME.PHASE, R.FRAME.CALVALID,
  R.FRAME.ALIGNED, R.FRAME.SYNC, R.FRAME.MSOFS_L, R.FRAME.MSOFS_H, R.FRAME.RNFNO_L, R.FRAME.RNFNO_H, R.FRAME.SLEW, R.FRAME.LLREAD,
  R.FRAME.LATECNT, R.FRAME.SLACKMIN, R.FRAME.I_LATE, R.FRAME.I_LLREAD, R.FRAME.I_MSCHG, R.FRAME.I_ALIGNLOST, R.FRAME.I_SYNCCHG]

/-- The fields of page TST. -/
def fieldsTST : List Fld := [
  R.TST.XFER, R.TST.PATHTEST, R.TST.TSLOST, R.TST.GAP, R.TST.ROLEB, R.TST.ROLEA, R.TST.CMP, R.TST.MODE,
  R.TST.OWNER, R.TST.VFNO, R.TST.TRLIM, R.TST.SWAP, R.TST.LANEID, R.TST.DIFFOFS, R.TST.DIFFCLS, R.TST.DIFFDST,
  R.TST.DIFFFNO, R.TST.TTRES, R.TST.I_TSLOST, R.TST.I_MODECHG, R.TST.I_DISAG, R.TST.I_GAP, R.TST.I_OWNCHG]

/-- The fields of page PWR. -/
def fieldsPWR : List Fld := [
  R.PWR.BANKFLT, R.PWR.HOLDRDY, R.PWR.BANKLOW, R.PWR.REDMODE, R.PWR.PFAIL, R.PWR.IN2AC, R.PWR.IN1AC, R.PWR.IN2GOOD,
  R.PWR.IN1GOOD, R.PWR.IN1F, R.PWR.IN1V, R.PWR.IN2F, R.PWR.IN2V, R.PWR.HOLDMS, R.PWR.BANKV, R.PWR.PIN,
  R.PWR.FAULT, R.PWR.ON, R.PWR.DSPOFF, R.PWR.INLCNT, R.PWR.PFCNT, R.PWR.I_HOLDRDY, R.PWR.I_BANKLOW, R.PWR.I_DOMFLT,
  R.PWR.I_PFCLR, R.PWR.I_PFAIL, R.PWR.I_INRET, R.PWR.I_INLOST]

/-- The fields of page CLK. -/
def fieldsCLK : List Fld := [
  R.CLK.CLKOK, R.CLK.CLKFLT, R.CLK.REFFALL, R.CLK.MEASSEL, R.CLK.MEASVAL, R.CLK.I_REFFALL, R.CLK.I_CLKFLT]

/-- The fields of page RST. -/
def fieldsRST : List Fld := [
  R.RST.KIND, R.RST.COLDCNT, R.RST.WARMCNT, R.RST.LRSTB, R.RST.LRSTA]

/-- The fields of page HLTH. -/
def fieldsHLTH : List Fld := [
  R.HLTH.FCOMP_L, R.HLTH.FCOMP_H, R.HLTH.FALONE_L, R.HLTH.FALONE_H, R.HLTH.FGAP, R.HLTH.FQUN_L, R.HLTH.FQUN_H, R.HLTH.FQEX_L,
  R.HLTH.FQEX_H, R.HLTH.DISAG, R.HLTH.TRTOTB, R.HLTH.TRTOTA, R.HLTH.TRWINB, R.HLTH.TRWINA, R.HLTH.INDROP, R.HLTH.INDSRC,
  R.HLTH.TXDROP, R.HLTH.SINGLE, R.HLTH.PATHB, R.HLTH.PATHA, R.HLTH.QIMGINV, R.HLTH.TSLOST, R.HLTH.FAILB, R.HLTH.FAILA,
  R.HLTH.REPLACE, R.HLTH.OFOVR, R.HLTH.I_ALARM]

/-- The fields of page ENG. -/
def fieldsENG : List Fld := [
  R.ENG.FIRM, R.ENG.STATE, R.ENG.TRAPC, R.ENG.TRAPPC, R.ENG.TRAPFNO, R.ENG.CYC_L, R.ENG.CYC_H, R.ENG.BUSYUS,
  R.ENG.MAXBUSY, R.ENG.SRAMCE, R.ENG.WDFR, R.ENG.I_CE, R.ENG.I_TRAP]

/-- The fields of page NET. -/
def fieldsNET : List Fld := [
  R.NET.DOMAIN, R.NET.ORDSUP, R.NET.LFAIL, R.NET.LOADED, R.NET.ESEC, R.NET.EREC, R.NET.SFP_L, R.NET.SFP_H,
  R.NET.DFP_L, R.NET.DFP_H, R.NET.NBRCH, R.NET.NNODE, R.NET.NMEAS, R.NET.NPIPE, R.NET.NVALV, R.NET.NPUMP,
  R.NET.NSUBS, R.NET.NNET, R.NET.NSTOR, R.NET.NPLNT, R.NET.PLUGRES, R.NET.PLUGUSE, R.NET.PLUGHWM, R.NET.FACTNZ,
  R.NET.DPOS, R.NET.DMEM, R.NET.MRGCNT, R.NET.LOADMS, R.NET.I_PLUGCAP, R.NET.I_LOADFAIL, R.NET.I_LOADOK]

/-- The fields of page SOL. -/
def fieldsSOL : List Fld := [
  R.SOL.BDMAX, R.SOL.BDSTEP, R.SOL.NREF, R.SOL.NIT, R.SOL.PERIOD, R.SOL.BDTHR, R.SOL.PTOL, R.SOL.DPMAX,
  R.SOL.STALE, R.SOL.TAGE, R.SOL.OBSMIN, R.SOL.SIGS, R.SOL.SIGH, R.SOL.SIGN, R.SOL.WSMIS, R.SOL.COLD,
  R.SOL.NS3, R.SOL.NS2, R.SOL.NS1, R.SOL.NS0, R.SOL.SOLNO_L, R.SOL.SOLNO_H, R.SOL.MINPER, R.SOL.WKIND,
  R.SOL.WIDX, R.SOL.WVAL, R.SOL.WQ, R.SOL.COLDREQ, R.SOL.I_SKIP, R.SOL.I_BADDATA, R.SOL.I_NOCONV, R.SOL.I_INVALID,
  R.SOL.I_UNOBS, R.SOL.I_PUB]

/-- The fields of page SOLD. -/
def fieldsSOLD : List Fld := [
  R.SOLD.LASTDP, R.SOLD.JOBJ, R.SOLD.IMBAL, R.SOLD.TPIV, R.SOLD.ZPIV, R.SOLD.PIVNODE, R.SOLD.NBAD, R.SOLD.NUSED,
  R.SOLD.NMISS, R.SOLD.NSTALE, R.SOLD.NPARAM, R.SOLD.NOBS, R.SOLD.REJNET, R.SOLD.NITRUN, R.SOLD.FLOPF_L, R.SOLD.FLOPF_H,
  R.SOLD.REGCNT, R.SOLD.NOCCNT, R.SOLD.INVCNT, R.SOLD.WSMCNT, R.SOLD.COLDCNT, R.SOLD.DURUS, R.SOLD.MAXDUR, R.SOLD.I_REGPIV]

/-- The fields of page OPT. -/
def fieldsOPT : List Fld := [
  R.OPT.STEP, R.OPT.NSTEP, R.OPT.PERIOD, R.OPT.PTOL, R.OPT.DTOL, R.OPT.GTOL, R.OPT.SLKTOL, R.OPT.CO2PR,
  R.OPT.CSCALE, R.OPT.HOLDMAX, R.OPT.COLDREQ, R.OPT.FALLBK, R.OPT.HELD, R.OPT.NOSTATE, R.OPT.WIDEN, R.OPT.CAPCLIP,
  R.OPT.SHORT, R.OPT.WSMIS, R.OPT.COLD, R.OPT.LOUT, R.OPT.CSTAT, R.OPT.DISPNO_L, R.OPT.DISPNO_H, R.OPT.OFP_L,
  R.OPT.OFP_H, R.OPT.MINPD, R.OPT.TKIND, R.OPT.TIDX, R.OPT.TDATA, R.OPT.RKIND, R.OPT.RSTEP, R.OPT.RIDX,
  R.OPT.RVAL, R.OPT.OBJ, R.OPT.I_FALLBK, R.OPT.I_SKIP, R.OPT.I_SHORT, R.OPT.I_SUBOPT, R.OPT.I_INVALID, R.OPT.I_PUB]

/-- The fields of page OPTD. -/
def fieldsOPTD : List Fld := [
  R.OPTD.RPRIM, R.OPTD.RDUAL, R.OPTD.MU, R.OPTD.ALPHAMIN, R.OPTD.SLKMAX, R.OPTD.NPIVR, R.OPTD.NFIX, R.OPTD.NROWS,
  R.OPTD.NVARS, R.OPTD.REJIT, R.OPTD.SUBCNT, R.OPTD.INVCNT, R.OPTD.WSMCNT, R.OPTD.COLDCNT, R.OPTD.SHORTCNT, R.OPTD.MISSCNT,
  R.OPTD.DURUS, R.OPTD.MAXDUR, R.OPTD.I_REJECT, R.OPTD.I_REGPIV]

/-- The fields of page LOOP. -/
def fieldsLOOP : List Fld := [
  R.LOOP.NLOOP, R.LOOP.NBURN, R.LOOP.BPOOL, R.LOOP.WCP7, R.LOOP.WCP6, R.LOOP.PASS7, R.LOOP.PASS6, R.LOOP.LBMAX,
  R.LOOP.NAUTO, R.LOOP.NMAN, R.LOOP.NPVBAD, R.LOOP.NSAT, R.LOOP.LDMISS, R.LOOP.I_LDMISS, R.LOOP.I_NONFIN, R.LOOP.I_PVBAD,
  R.LOOP.I_MODECHG]

/-- The fields of page LOOPW. -/
def fieldsLOOPW : List Fld := [
  R.LOOPW.LSEL, R.LOOPW.FFBAD, R.LOOPW.SPBAD, R.LOOPW.BLEARN, R.LOOPW.FORCED, R.LOOPW.NONFIN, R.LOOPW.RLIM, R.LOOPW.IHOLD,
  R.LOOPW.ICLAMP, R.LOOPW.OSAT, R.LOOPW.PVBAD, R.LOOPW.PV, R.LOOPW.SP, R.LOOPW.E, R.LOOPW.UC, R.LOOPW.UD,
  R.LOOPW.I, R.LOOPW.XD, R.LOOPW.RC, R.LOOPW.DSP, R.LOOPW.PSP, R.LOOPW.MODE, R.LOOPW.MANOUT, R.LOOPW.LSAMP,
  R.LOOPW.PERIOD, R.LOOPW.FLAGS, R.LOOPW.KIND, R.LOOPW.SPSRC, R.LOOPW.PVSRC, R.LOOPW.PHASE, R.LOOPW.CYC, R.LOOPW.DEST,
  R.LOOPW.FFSRC, R.LOOPW.PVADDR, R.LOOPW.SPADDR, R.LOOPW.FFADDR, R.LOOPW.DADDR, R.LOOPW.PVGAIN, R.LOOPW.PVOFS, R.LOOPW.SPLOC,
  R.LOOPW.SPRATE, R.LOOPW.KP, R.LOOPW.KI, R.LOOPW.KD, R.LOOPW.TF, R.LOOPW.BETA, R.LOOPW.DB, R.LOOPW.KFF,
  R.LOOPW.ILO, R.LOOPW.IHI, R.LOOPW.OLO, R.LOOPW.OHI, R.LOOPW.ORATE, R.LOOPW.MAN0, R.LOOPW.OGAIN, R.LOOPW.OOFS,
  R.LOOPW.MODE0]

/-- The fields of page BURN. -/
def fieldsBURN : List Fld := [
  R.BURN.BSEL, R.BURN.NOSYNCB, R.BURN.NOSYNCA, R.BURN.NOVOLTB, R.BURN.NOVOLTA, R.BURN.ENB, R.BURN.ENA, R.BURN.PRESENT,
  R.BURN.LEADB, R.BURN.LEADA, R.BURN.NA, R.BURN.NB, R.BURN.IDXA, R.BURN.IDXB, R.BURN.LGA, R.BURN.LGB,
  R.BURN.QA, R.BURN.QB, R.BURN.RLIM, R.BURN.LRN, R.BURN.CLR, R.BURN.IDXMODE, R.BURN.TOFS, R.BURN.WPER,
  R.BURN.WBASE, R.BURN.WMEM, R.BURN.I_NOSYNC, R.BURN.I_NOVOLT]

/-- The fields of page TRC. -/
def fieldsTRC : List Fld := [
  R.TRC.STATE, R.TRC.ROLL, R.TRC.STOP, R.TRC.FIRE, R.TRC.ARM, R.TRC.TDIV, R.TRC.PRE, R.TRC.TRGCH,
  R.TRC.TKIND, R.TRC.LEVEL, R.TRC.TRGFNO_L, R.TRC.TRGFNO_H, R.TRC.TFNO_L, R.TRC.TFNO_H, R.TRC.NSAMP, R.TRC.TPOS,
  R.TRC.CHEN, R.TRC.QTY, R.TRC.LOOP, R.TRC.RCH, R.TRC.RBASE, R.TRC.RDATA, R.TRC.I_DONE, R.TRC.I_TRIG]

/-- The fields of page PRG. -/
def fieldsPRG : List Fld := [
  R.PRG.AUTORUN, R.PRG.HOLDEN, R.PRG.PRESENT, R.PRG.FORCED, R.PRG.FAULT, R.PRG.MODE, R.PRG.CMD, R.PRG.FLTACK,
  R.PRG.FLTCODE, R.PRG.FLTEXE, R.PRG.FLTTASK, R.PRG.FLTADDR, R.PRG.FLTFNO, R.PRG.HOLDTO, R.PRG.RETPG, R.PRG.RETPER,
  R.PRG.RETGEN, R.PRG.RETSKIP, R.PRG.RETCHNK, R.PRG.AOSTOPQ, R.PRG.AOOWN, R.PRG.DOOWN, R.PRG.DOSTOPQ, R.PRG.TSEL,
  R.PRG.EXEC, R.PRG.KIND, R.PRG.PRIO, R.PRG.PEND, R.PRG.STATE, R.PRG.TCYC, R.PRG.TFRM, R.PRG.TRUNS,
  R.PRG.TOVR, R.PRG.TLOST, R.PRG.TEXUS, R.PRG.USE4, R.PRG.USE5, R.PRG.ONLCNT, R.PRG.AREA, R.PRG.WIDTH,
  R.PRG.EXE, R.PRG.VADDR, R.PRG.VVAL, R.PRG.I_HOLDTO, R.PRG.I_ONLCHG, R.PRG.I_RETSKIP, R.PRG.I_EVLOST, R.PRG.I_OVERRUN,
  R.PRG.I_FAULT, R.PRG.I_MODECHG]

/-- The fields of page FRC. -/
def fieldsFRC : List Fld := [
  R.FRC.NFORCE, R.FRC.FSEL, R.FRC.FKIND, R.FRC.FBIT, R.FRC.FADDR, R.FRC.FVAL, R.FRC.FCMD, R.FRC.FTO,
  R.FRC.FSETFNO, R.FRC.FACT, R.FRC.FCHGCNT, R.FRC.I_FTOREL, R.FRC.I_FCHG]

/-- The fields of page PIMG. -/
def fieldsPIMG : List Fld := [
  R.PIMG.NSTN, R.PIMG.NSTALE, R.PIMG.NUNDLV, R.PIMG.SSEL, R.PIMG.SRC, R.PIMG.SUBST, R.PIMG.RESYNC, R.PIMG.UNDLV,
  R.PIMG.STATE, R.PIMG.INCNT, R.PIMG.INBASE, R.PIMG.OUTCNT, R.PIMG.OUTBASE, R.PIMG.SDROPS, R.PIMG.SUNDLV, R.PIMG.SGOODFNO,
  R.PIMG.WADDR, R.PIMG.WVAL, R.PIMG.WRAW, R.PIMG.I_UNDLV, R.PIMG.I_STNUP, R.PIMG.I_STNDOWN]

/-- The fields of page MET. -/
def fieldsMET : List Fld := [
  R.MET.TFE, R.MET.FEBAND, R.MET.CALINV, R.MET.NOSAMPW, R.MET.FEVALID, R.MET.PEND, R.MET.BANDG, R.MET.FREQ,
  R.MET.PH32V, R.MET.FREQF, R.MET.NLOST, R.MET.PHSEQ, R.MET.CYCW, R.MET.PHMISS, R.MET.VPRES, R.MET.PH32,
  R.MET.NLTHR, R.MET.WIRING, R.MET.NOMF, R.MET.NOMV, R.MET.HEN, R.MET.HACT, R.MET.HMP, R.MET.NOSAMP,
  R.MET.SAVECNT, R.MET.SAVEREF, R.MET.LOSTKIND, R.MET.LOSTFR, R.MET.DURUS, R.MET.I_CALINV, R.MET.I_LOST, R.MET.I_NOSAMP,
  R.MET.I_OVR, R.MET.I_FREQ, R.MET.I_NLOST, R.MET.I_PHSEQ, R.MET.I_VPRES, R.MET.I_BANDCHG]

/-- The fields of page MPT. -/
def fieldsMPT : List Fld := [
  R.MPT.MPSEL, R.MPT.VTN, R.MPT.VTD, R.MPT.CTD, R.MPT.CTN, R.MPT.FLAGS, R.MPT.ISUM, R.MPT.OVR,
  R.MPT.EXP, R.MPT.U, R.MPT.I, R.MPT.P, R.MPT.Q, R.MPT.ST, R.MPT.PF, R.MPT.EREG_L,
  R.MPT.EREG_H, R.MPT.PCNT, R.MPT.WRAPS, R.MPT.LOSTBND_L, R.MPT.LOSTBND_H, R.MPT.HORD, R.MPT.HCH, R.MPT.HVAL,
  R.MPT.THD, R.MPT.HFNO, R.MPT.I_ISUM, R.MPT.I_HNEW]

/-- The fields of page HEAT. -/
def fieldsHEAT : List Fld := [
  R.HEAT.HSEL, R.HEAT.FADDR, R.HEAT.FSRC, R.HEAT.FLAGS, R.HEAT.RTDR, R.HEAT.RTDS, R.HEAT.TSTALE, R.HEAT.FLF,
  R.HEAT.TRF, R.HEAT.TSF, R.HEAT.MEAS, R.HEAT.KQ_L, R.HEAT.KQ_H, R.HEAT.REG_L, R.HEAT.REG_H, R.HEAT.PCNT,
  R.HEAT.WRAPS, R.HEAT.LOSTBND_L, R.HEAT.LOSTBND_H, R.HEAT.ERRSEC, R.HEAT.JUMPCNT, R.HEAT.RTDSEL, R.HEAT.RTDRAW, R.HEAT.RTDT,
  R.HEAT.I_LOST, R.HEAT.I_JUMP, R.HEAT.I_TSTALE, R.HEAT.I_FAULT]

/-- The fields of page PLS. -/
def fieldsPLS : List Fld := [
  R.PLS.PEN, R.PLS.ACTIVE, R.PLS.PSEL, R.PLS.WIDTH, R.PLS.INDEX, R.PLS.SRCK, R.PLS.ON, R.PLS.KP,
  R.PLS.BKLG, R.PLS.EMIT_L, R.PLS.EMIT_H, R.PLS.LAST_L, R.PLS.LAST_H, R.PLS.DROPCNT, R.PLS.NEXTF, R.PLS.I_OVFL,
  R.PLS.I_REISS]

/-- The fields of page PIO. -/
def fieldsPIO : List Fld := [
  R.PIO.DI, R.PIO.DOAPP, R.PIO.DOQ, R.PIO.AI_H, R.PIO.AI_L, R.PIO.AOQ_H, R.PIO.AOQ_L, R.PIO.HWOFF,
  R.PIO.QACT, R.PIO.QVALID, R.PIO.QSEQ, R.PIO.I_QCHG, R.PIO.I_QACT]

/-- The fields of page NVS. -/
def fieldsNVS : List Fld := [
  R.NVS.NANDLK, R.NVS.UNAVAIL, R.NVS.DUPSEQ, R.NVS.ROLLBACK, R.NVS.RECALLED, R.NVS.PGWR, R.NVS.REFCNT, R.NVS.SUPCNT,
  R.NVS.LASTREF, R.NVS.LASTPG, R.NVS.ONECOPY, R.NVS.NOREC, R.NVS.ROLLCNT, R.NVS.DUPCNT, R.NVS.RECMS, R.NVS.PSEL,
  R.NVS.PSIZE, R.NVS.PBASE, R.NVS.PKIND, R.NVS.RSEL, R.NVS.PEND, R.NVS.VALID, R.NVS.SELSLOT, R.NVS.RSEQ,
  R.NVS.LGEN, R.NVS.LCHUNK, R.NVS.LAREA, R.NVS.NBAD, R.NVS.NSPARE, R.NVS.COMSLOT, R.NVS.SLOT1, R.NVS.SLOT0,
  R.NVS.I_NANDBAD, R.NVS.I_UNAVAIL, R.NVS.I_ROLLBACK, R.NVS.I_NOREC, R.NVS.I_REFUSED]

/-- The fields of page PAT. -/
def fieldsPAT : List Fld := [
  R.PAT.FULL, R.PAT.PCFG, R.PAT.OPSEC, R.PAT.BKLG, R.PAT.DISC, R.PAT.PATPG, R.PAT.SPART, R.PAT.SUM,
  R.PAT.SUMV, R.PAT.SUMFNO, R.PAT.RHDR, R.PAT.RPART, R.PAT.RSEQ, R.PAT.RSTAT, R.PAT.NEXT, R.PAT.CIRC,
  R.PAT.BASE, R.PAT.NK, R.PAT.SUMD, R.PAT.RDATA, R.PAT.I_INVAL, R.PAT.I_SUMDONE, R.PAT.I_DISC, R.PAT.I_FULL,
  R.PAT.I_CLOSE]

/-- The fields of page HMK. -/
def fieldsHMK : List Fld := [
  R.HMK.SSEL, R.HMK.DEST, R.HMK.PEND, R.HMK.STATE, R.HMK.ORIGIN, R.HMK.TYPE, R.HMK.PARENT, R.HMK.USAGE,
  R.HMK.LABEL_L, R.HMK.LABEL_H, R.HMK.KCV, R.HMK.KGEN, R.HMK.KSEQ, R.HMK.KCMD, R.HMK.STG, R.HMK.STGSLOT,
  R.HMK.EKCV, R.HMK.BLEN, R.HMK.STGFNO, R.HMK.NORPH, R.HMK.NACT, R.HMK.ORPHUSE, R.HMK.BLOB, R.HMK.I_STGEXP,
  R.HMK.I_COMMIT, R.HMK.I_ORPHAN, R.HMK.I_INVAL]

/-- The fields of page CRY. -/
def fieldsCRY : List Fld := [
  R.CRY.ATTV, R.CRY.ATT, R.CRY.NONCE, R.CRY.OPCNT, R.CRY.ERRCNT, R.CRY.ATTFNO, R.CRY.ATTD, R.CRY.I_ATTDONE]

/-- The fields of page LCS. -/
def fieldsLCS : List Fld := [
  R.LCS.STATE, R.LCS.TOKCNT, R.LCS.LCMD, R.LCS.TOKEN, R.LCS.UCMD, R.LCS.UTGT, R.LCS.USTATE, R.LCS.NEXTPG,
  R.LCS.NPAGES, R.LCS.UPDERR, R.LCS.FWSVN, R.LCS.FUSESVN, R.LCS.CFGVER, R.LCS.BOOTERR, R.LCS.I_VERFAIL, R.LCS.I_VERIFIED,
  R.LCS.I_LCCHG]

/-- The fields of page ASY. -/
def fieldsASY : List Fld := [
  R.ASY.BGEN, R.ASY.BGRATE, R.ASY.UNIT, R.ASY.TLANE, R.ASY.KIND, R.ASY.INJADDR, R.ASY.DOUBLE, R.ASY.INJBIT,
  R.ASY.CSTAT, R.ASY.CBUSY, R.ASY.RESB, R.ASY.RESA, R.ASY.FUNIT, R.ASY.FLANE, R.ASY.FBIT, R.ASY.FADDR,
  R.ASY.FFNO, R.ASY.ALANE, R.ASY.ARRAY, R.ASY.NSPARE, R.ASY.NUSED, R.ASY.SPAREXB, R.ASY.SPAREXA, R.ASY.SURESB,
  R.ASY.SURESA, R.ASY.REPCNT, R.ASY.TTCNT, R.ASY.BGSLICE, R.ASY.BGPASS, R.ASY.BGUNIT, R.ASY.BGSEG, R.ASY.CECNT,
  R.ASY.I_PASS, R.ASY.I_SPAREX, R.ASY.I_CMDDONE, R.ASY.I_REPAIR, R.ASY.I_FAIL]

/-- The fields of page RTC. -/
def fieldsRTC : List Fld := [
  R.RTC.CALW0, R.RTC.CALW1, R.RTC.CALSEC, R.RTC.SETPEND, R.RTC.SETABT, R.RTC.BATLOW, R.RTC.OSF, R.RTC.CALVALID,
  R.RTC.SETW0, R.RTC.SETW1, R.RTC.SET, R.RTC.LOCOFS, R.RTC.ASTHR, R.RTC.AUTOSET, R.RTC.UTCOFS, R.RTC.ASEL,
  R.RTC.HOUR, R.RTC.MIN, R.RTC.SEC, R.RTC.EN, R.RTC.DMODE, R.RTC.MON, R.RTC.DAYSEL, R.RTC.NEXT,
  R.RTC.LAST, R.RTC.FCNT, R.RTC.LATE, R.RTC.ARMED, R.RTC.I_SETABT, R.RTC.I_BATLOW, R.RTC.I_LATE, R.RTC.I_CALINV,
  R.RTC.I_CALSET, R.RTC.I_ALARM]

/-- The fields of page PTP. -/
def fieldsPTP : List Fld := [
  R.PTP.SERVOOFF, R.PTP.REFFALL, R.PTP.SYNC, R.PTP.PRIO2, R.PTP.PRIO1, R.PTP.DOMAIN, R.PTP.PORT, R.PTP.PROFILE,
  R.PTP.ANNRTO, R.PTP.LOGDLY, R.PTP.LOGANN, R.PTP.LOGSYNC, R.PTP.STEPTHR, R.PTP.UNLKTHR, R.PTP.LOCKTHR, R.PTP.KI,
  R.PTP.KP, R.PTP.HOTIME, R.PTP.SMPTO, R.PTP.LTNS, R.PTP.LTSEC_L, R.PTP.LTSEC_H, R.PTP.OFFSET, R.PTP.MPD,
  R.PTP.ADJ, R.PTP.PSTATE, R.PTP.GMID_L, R.PTP.GMID_H, R.PTP.UTCANN, R.PTP.UTCANNV, R.PTP.STEPCNT, R.PTP.I_GMCHG,
  R.PTP.I_STEP, R.PTP.I_FREE, R.PTP.I_HOLD, R.PTP.I_LOCK]

/-- The fields of page TSQ. -/
def fieldsTSQ : List Fld := [
  R.TSQ.FULL, R.TSQ.LEVEL, R.TSQ.OVFCNT, R.TSQ.OVFPORT, R.TSQ.OVFID, R.TSQ.STALECNT, R.TSQ.HVALID, R.TSQ.HPORT,
  R.TSQ.HID, R.TSQ.HNS, R.TSQ.HSEC_L, R.TSQ.HSEC_H, R.TSQ.I_STALE, R.TSQ.I_OVF]

/-- The fields of page QMG. -/
def fieldsQMG : List Fld := [
  R.QMG.POOLUSE, R.QMG.CECNT, R.QMG.QSEL, R.QMG.CAP, R.QMG.RTO, R.QMG.CUT, R.QMG.READER, R.QMG.WRITER,
  R.QMG.HELD, R.QMG.ORPH, R.QMG.OPEN, R.QMG.FULL, R.QMG.VIS, R.QMG.IGNCNT, R.QMG.OVRCNT, R.QMG.TRUNCCNT,
  R.QMG.STRAND, R.QMG.FLUSHW, R.QMG.QCECNT, R.QMG.FLUSHALL, R.QMG.FLUSH, R.QMG.I_CE, R.QMG.I_FULL, R.QMG.I_STRAND,
  R.QMG.I_TRUNC, R.QMG.I_OVR]

/-- The fields of page ETH. -/
def fieldsETH : List Fld := [
  R.ETH.PTPPORT, R.ETH.SPEED, R.ETH.LINK, R.ETH.IPADDR, R.ETH.NETMASK, R.ETH.GATEWAY, R.ETH.SERV, R.ETH.TGPORT,
  R.ETH.NTCP, R.ETH.NSESS, R.ETH.RXFR, R.ETH.RXDROP, R.ETH.TGOK, R.ETH.TGAUTH, R.ETH.TGREPLAY, R.ETH.I_TGAUTH,
  R.ETH.I_LINKDN, R.ETH.I_LINKUP]

/-- The fields of page FAB. -/
def fieldsFAB : List Fld := [
  R.FAB.MODID, R.FAB.LATENCY, R.FAB.KSLOT2, R.FAB.KSLOT, R.FAB.TSRC, R.FAB.THOP, R.FAB.DUPID, R.FAB.NOKEY,
  R.FAB.COORD, R.FAB.DOMAIN, R.FAB.SALTV, R.FAB.TFAB, R.FAB.ADJ, R.FAB.NREACH, R.FAB.NLSA, R.FAB.LEPOCH_L,
  R.FAB.LEPOCH_H, R.FAB.LDEC, R.FAB.COMCNT, R.FAB.ABNCNT, R.FAB.ABSCNT, R.FAB.AUTHFAIL, R.FAB.REPLAY, R.FAB.NOSALT,
  R.FAB.NLSAFULL, R.FAB.BADDEC, R.FAB.RESEND, R.FAB.FWDCNT, R.FAB.HOPDROP, R.FAB.NOROUTE, R.FAB.RSEL, R.FAB.RVALID,
  R.FAB.RLINK, R.FAB.RHOPS, R.FAB.RCOST, R.FAB.I_DUPID, R.FAB.I_NOKEY, R.FAB.I_AUTHFAIL, R.FAB.I_ABANDON, R.FAB.I_COMMIT,
  R.FAB.I_ROUTECHG, R.FAB.I_ADJCHG]

/-- The fields of page FL. -/
def fieldsFL : List Fld := [
  R.FL.COST, R.FL.ASYM, R.FL.TVALID, R.FL.ADJ, R.FL.HELLO, R.FL.BLOCK, R.FL.SFP, R.FL.PWR,
  R.FL.UP, R.FL.NLINK, R.FL.NBR, R.FL.TOFS, R.FL.DELAY, R.FL.DOWNCNT, R.FL.UPCNT, R.FL.RXFR,
  R.FL.TXFR, R.FL.BLKERR, R.FL.QDROP, R.FL.I_ADJCHG, R.FL.I_DOWN, R.FL.I_UP]

/-- The fields of page CAN. -/
def fieldsCAN : List Fld := [
  R.CAN.RECOVER, R.CAN.ONESHOT, R.CAN.MODE, R.CAN.NBR, R.CAN.DBR, R.CAN.FDSEEN, R.CAN.ABLOCK, R.CAN.STATE,
  R.CAN.REC, R.CAN.TEC, R.CAN.ABNBR, R.CAN.ABDBR, R.CAN.BOCNT, R.CAN.OSFAIL, R.CAN.RXCNT, R.CAN.I_ABLOCK,
  R.CAN.I_OSFAIL, R.CAN.I_PASSIVE, R.CAN.I_BUSOFF, R.CAN.I_RECOVERED]

/-- The fields of page SER. -/
def fieldsSER : List Fld := [
  R.SER.LINE, R.SER.BAUD, R.SER.RXADU, R.SER.CRCERR, R.SER.TOUT, R.SER.OVRUN, R.SER.I_TOUT]

/-- The fields of page MB. -/
def fieldsMB : List Fld := [
  R.MB.OVC, R.MB.BUSON, R.MB.BAUD, R.MB.IBUS, R.MB.RXTG, R.MB.COLL, R.MB.OVCCNT, R.MB.RESTART,
  R.MB.I_OVC, R.MB.I_COLL]

/-- The fields of page DSP. -/
def fieldsDSP : List Fld := [
  R.DSP.DLBAD, R.DSP.BLANKED, R.DSP.CRCALM, R.DSP.STALE, R.DSP.RUN, R.DSP.VACT, R.DSP.HACT, R.DSP.PIXKHZ,
  R.DSP.REFRESH, R.DSP.SWAPCNT, R.DSP.CRCERR, R.DSP.LASTCRC, R.DSP.EXPCRC, R.DSP.CRCACT, R.DSP.CRCMAX, R.DSP.STALEMS,
  R.DSP.DLERR, R.DSP.DLREJ, R.DSP.SINCE, R.DSP.I_DLBAD, R.DSP.I_STALE, R.DSP.I_CRCALM]

/-- The fields of page PNL. -/
def fieldsPNL : List Fld := [
  R.PNL.BLSHORT, R.PNL.BLOPEN, R.PNL.RFTRY, R.PNL.RFRAIL, R.PNL.RFLT, R.PNL.LOCKOUT, R.PNL.SEQ, R.PNL.ON,
  R.PNL.VGH, R.PNL.AVDD, R.PNL.VCOM, R.PNL.VGL, R.PNL.BLEN, R.PNL.BLDIM, R.PNL.BLCUR, R.PNL.MVGH,
  R.PNL.MAVDD, R.PNL.MVCOM, R.PNL.MVGL, R.PNL.GSEL, R.PNL.GIDX, R.PNL.GDATA, R.PNL.RESTART, R.PNL.GCOMMIT,
  R.PNL.I_BLFLT, R.PNL.I_LOCKOUT, R.PNL.I_RFLT, R.PNL.I_ON]

/-- One row of Table REG-1. -/
structure PageRow where
  first : Nat
  count : Nat
  enReset : Bool
  enFixed : Bool
  fields : List Fld

/-- Table REG-1: the assigned pages, by group. -/
def pageRows : List PageRow := [
  ⟨0x00, 1, true, true, fieldsSYS⟩,
  ⟨0x01, 1, true, true, fieldsFRAME⟩,
  ⟨0x02, 1, true, true, fieldsTST⟩,
  ⟨0x03, 1, true, true, fieldsPWR⟩,
  ⟨0x04, 1, true, true, fieldsCLK⟩,
  ⟨0x05, 1, true, true, fieldsRST⟩,
  ⟨0x06, 1, true, true, fieldsHLTH⟩,
  ⟨0x08, 8, true, true, fieldsENG⟩,
  ⟨0x10, 1, false, false, fieldsNET⟩,
  ⟨0x11, 1, false, false, fieldsSOL⟩,
  ⟨0x12, 1, false, false, fieldsSOLD⟩,
  ⟨0x13, 1, false, false, fieldsOPT⟩,
  ⟨0x14, 1, false, false, fieldsOPTD⟩,
  ⟨0x18, 1, false, false, fieldsLOOP⟩,
  ⟨0x19, 1, false, false, fieldsLOOPW⟩,
  ⟨0x1A, 1, false, false, fieldsBURN⟩,
  ⟨0x1B, 1, false, false, fieldsTRC⟩,
  ⟨0x1C, 1, false, false, fieldsPRG⟩,
  ⟨0x1D, 1, false, false, fieldsFRC⟩,
  ⟨0x1E, 1, false, false, fieldsPIMG⟩,
  ⟨0x20, 1, true, false, fieldsMET⟩,
  ⟨0x21, 1, true, false, fieldsMPT⟩,
  ⟨0x22, 1, true, false, fieldsHEAT⟩,
  ⟨0x23, 1, false, false, fieldsPLS⟩,
  ⟨0x24, 1, true, false, fieldsPIO⟩,
  ⟨0x28, 1, true, true, fieldsNVS⟩,
  ⟨0x29, 1, true, false, fieldsPAT⟩,
  ⟨0x2A, 1, true, true, fieldsHMK⟩,
  ⟨0x2B, 1, true, false, fieldsCRY⟩,
  ⟨0x2C, 1, true, true, fieldsLCS⟩,
  ⟨0x2D, 1, true, false, fieldsASY⟩,
  ⟨0x30, 1, true, false, fieldsRTC⟩,
  ⟨0x31, 1, true, false, fieldsPTP⟩,
  ⟨0x32, 1, true, false, fieldsTSQ⟩,
  ⟨0x34, 1, true, false, fieldsQMG⟩,
  ⟨0x38, 4, true, false, fieldsETH⟩,
  ⟨0x3C, 1, false, false, fieldsFAB⟩,
  ⟨0x3D, 4, false, false, fieldsFL⟩,
  ⟨0x44, 4, false, false, fieldsCAN⟩,
  ⟨0x48, 4, false, false, fieldsSER⟩,
  ⟨0x4C, 2, false, false, fieldsMB⟩,
  ⟨0x50, 1, false, false, fieldsDSP⟩,
  ⟨0x51, 1, false, false, fieldsPNL⟩]

/-- The group of page index `n`, none where the index is unassigned (R42). -/
def pageRow (n : Nat) : Option PageRow :=
  pageRows.find? fun r => decide (r.first ≤ n) && decide (n < r.first + r.count)

end Sys2Proof.Machine
end

