-- ==== Sys2Proof/Machine/State.lean ====
section
/-! DEFINITION. The state of the module as plain data, the reasons a step can stop, and the state after
reset. Every structure names the chapter of spec/ it follows. -/

namespace Sys2Proof.Machine

/-- Why the block stops. Raised by no meaning of this model: every command completes (safe). -/
inductive Fault where
  /-- Raised by no definition: the block has no state in which it stops (safe). -/
  | halted
  deriving DecidableEq, Repr

/-- Why the model has no meaning for a command. -/
inductive Refusal where
  /-- Raised by an arm of exec whose command has no meaning yet; names the command (safe). -/
  | notModelled (mnemonic : String)
  deriving DecidableEq, Repr

/-- The registers of a lane that differ from their reset value: byte offset from 0x4000_0000, in rising
order. -/
abbrev RegFile := List (Nat × Word)

/-! ### Output frames (04_frame.md R101, Table FRM-4) -/

/-! ### Supplies, domains, clocks and restarts (03_power_clocks_start.md) -/

/-- One supply input and its converter (R60, R61, R512). -/
structure SupplyInput where
  good : Bool := false
  /-- the converter reports an internal fault -/
  fault : Bool := false
  latched : Bool := false
  /-- hub times, in frames, of failed retries -/
  failed : List Nat := []
  deriving DecidableEq, Repr

structure Power where
  in1 : SupplyInput := {}
  in2 : SupplyInput := {}
  meas : SupplyMeas := ⟨List.replicate 8 0, 0, 0, 0, 0, false, false, 0, 0⟩
  /-- the backup boost converter carries VBUS -/
  boost : Bool := false
  pfail : Bool := false
  holdRdy : Bool := false
  bankLow : Bool := false
  bankFlt : Bool := false
  /-- DOMSTAT.ON and FAULT bits -/
  dom : BitVec 10 := 0
  fault : BitVec 10 := 0
  /-- hub times of re-powers of PD_MET -/
  metRepower : List Nat := []
  /-- clocks declared failed (R70), bit order of Table PWR-2 -/
  clkFail : BitVec 19 := 0
  refFall : Bool := false
  /-- what reduced mode switches off has been switched off and not yet on again (R64, R66) -/
  redOff : Bool := false
  /-- frame k of the ordered shutdown (R67) -/
  shutdown : Option Nat := none
  /-- supply is off -/
  off : Bool := true
  deriving DecidableEq, Repr

/-- A module restart a lane has accepted (R84, R376, Table SEC-10): kind, TRIG and REASON of Tables PWR-4
and PWR-5. -/
structure RestartReq where
  cold : Bool
  trig : Nat
  reason : Nat := 0
  deriving DecidableEq, Repr

/-- Progress of a start-up or of one lane through Table PWR-6. -/
structure Startup where
  phase : Nat
  /-- hub time, in frames, of its first frame or of the frame of the restart command (R80) -/
  since : Nat := 0
  /-- it began at phase 1 -/
  full : Bool := true
  trig : Nat := 2
  /-- lanes that reported ready, with the frame -/
  readyA : Option Nat := none
  readyB : Option Nat := none
  failA : Option Nat := none
  failB : Option Nat := none
  k0 : Option Nat := none
  /-- ms the hub has waited in phase 1 for the backup domain to unlock its interface (R366) -/
  waited : Nat := 0
  /-- it stopped for good: Touchstone failed its internal test, or no lane can start -/
  stopped : Bool := false
  /-- the restart interrupted a replacement (R401) -/
  upd : Bool := false
  /-- pulse outputs that held a pulse as the lanes were reset, with FRAME_NO of its command (R83) -/
  pulsing : List (Nat × Nat) := []
  deriving DecidableEq, Repr

/-! ### Touchstone (05_touchstone.md) -/

/-- Table TST-5. -/
inductive Role where
  | off | boot | standby | active | alone | receive | unfit | failed
  deriving DecidableEq, Repr

/-- MODE of Table TST-2. -/
inductive TsMode where
  | start | compared | resolving | single | transfer | tslost | quench
  deriving DecidableEq, Repr

/-- OWNER of Table TST-2. -/
inductive Owner where
  | held | laneA | laneB | quench
  deriving DecidableEq, Repr

/-- CMP of Table TST-2. -/
inductive Cmp where
  | equal | differ | absentA | absentB | absentBoth | notCompared
  deriving DecidableEq, Repr

/-- The verdict record, Table TST-2. -/
structure Verdict where
  owner : Owner := .held
  mode : TsMode := .start
  cmp : Cmp := .equal
  roleA : Role := .off
  roleB : Role := .off
  gap : Bool := false
  tslost : Bool := false
  pathtest : Bool := false
  xfer : Bool := false
  vfno : Nat := 0
  /-- MODEL's own: transients this verdict counts, which each lane derives from the run of verdicts (R131) -/
  trA : Bool := false
  trB : Bool := false
  /-- MODEL's own: a pending swap was carried out, or dropped (R125) -/
  swap : Option Bool := none
  deriving DecidableEq, Repr

/-- The heartbeat record, Table TST-1; `intact` is false where HCRC fails. -/
structure Heartbeat where
  fno : Nat
  inloss : Bool := false
  noout : Bool := false
  laneflt : Bool := false
  deadline : Bool := false
  cruoff : Bool := false
  asyfail : Bool := false
  lclkflt : Bool := false
  fpmis : Bool := false
  ttdone : Bool := false
  ttfail : Bool := false
  intact : Bool := true
  deriving DecidableEq, Repr

/-- A disagreement being resolved (R120 to R122). -/
structure Resolution where
  start : Nat
  cls : Nat
  dest : Nat
  ofs : Nat
  /-- the differing plant output: DO n as n, AO n as 16 + n -/
  out : Nat := 0
  inlossA : Bool := false
  inlossB : Bool := false
  deriving DecidableEq, Repr

/-- A state transfer (Table TST-8). `phase` 0 waits for step 1 of the frame after the verdict. -/
structure Transfer where
  receiver : LaneId
  phase : Nat := 0
  started : Nat := 0
  passes : Nat := 0
  /-- bytes still to copy, as the last pass left them -/
  lines : Nat := 0
  /-- rejoin frame t + 1 -/
  rejoin : Nat := 0
  /-- a kind 2 Assay command: the receiving lane still runs its start-up test (R419) -/
  test : Bool := false
  /-- it completes a lane reset -/
  reset : Bool := false
  /-- it has failed; the next verdict makes the receiver UNFIT -/
  failed : Bool := false
  /-- it failed because the receiver's start-up test failed -/
  testBad : Bool := false
  /-- the final pass has been taken in this frame; phase 5 has ended for solves -/
  final : Bool := false
  solveDone : Bool := false
  deriving DecidableEq, Repr

structure Touchstone where
  mode : TsMode := .start
  roleA : Role := .off
  roleB : Role := .off
  verdict : Verdict := {}
  /-- consecutive held frames (R117) -/
  held : Nat := 0
  res : Option Resolution := none
  transfer : Option Transfer := none
  /-- last rejoin frame and its lane (R129) -/
  rejoined : Option (LaneId × Nat) := none
  swap : Bool := false
  /-- ages in frames, newest first (R131) -/
  trAgeA : List Nat := []
  trAgeB : List Nat := []
  rstAgeA : List Nat := []
  rstAgeB : List Nat := []
  /-- frames a lane has been OFF in a lane reset (R130), none where no reset runs -/
  rstOffA : Option Nat := none
  rstOffB : Option Nat := none
  /-- the path exercise of this block of 60 000 frames is done (R133) -/
  pathDone : Option Nat := none
  /-- a lane found unclean by the path exercise, from the next frame -/
  pathBad : Option LaneId := none
  lost : Bool := false
  /-- lane latched at the loss (R134) -/
  latched : Option LaneId := none
  /-- the quench image is kept until the next module restart (R135) -/
  latchQuench : Bool := false
  /-- Touchstone has ordered a module restart with TRIG 0x8, which begins with the next frame (R115, R117, R128) -/
  order8 : Bool := false
  /-- the last targeted test, Table TST-10 TTRES -/
  ttRes : BitVec 4 := 0
  /-- start-up test results of both lanes (R416), and the TRIG 0x8 restart of this power session done -/
  suresA : Nat := 0
  suresB : Nat := 0
  /-- lanes not ready within 10 s, or failed in a start-up test, since the last restart -/
  giveUpA : Bool := false
  giveUpB : Bool := false
  trig8 : Bool := false
  deriving DecidableEq, Repr

/-! ### Network model (06_network_model.md) -/

/-- NETW, Table NET-3. Real quantities are binary32 words. -/
structure NetwRec where
  kind : Nat
  refn : Nat
  pref : Word
  pprop : Word
  tmerge : Word
  deriving DecidableEq, Repr

structure NodeRec where
  net : Nat
  kind : Nat
  elev : Word
  p0 : Word
  t0 : Word
  deriving DecidableEq, Repr

structure BrchRec where
  frm : Nat
  dst : Nat
  kind : Nat
  flags : Nat
  comp : Nat
  m0 : Word
  deriving DecidableEq, Repr

/-- Component records, Table NET-4. -/
structure PipeRec where
  len : Word
  diam : Word
  rough : Word
  zeta : Word
  uloss : Word
  ambg : Nat
  plugmax : Nat
  deriving DecidableEq, Repr

structure PumpRec where
  a0 : Word
  a1 : Word
  a2 : Word
  nmax : Word
  nbind : Nat
  deriving DecidableEq, Repr

structure ValvRec where
  kvs : Word
  range : Word
  char : Nat
  hbind : Nat
  leak : Word
  deriving DecidableEq, Repr

structure PlntRec where
  typ : Nat
  khyd : Word
  qmax : Word
  qmin : Word
  tomax : Word
  deriving DecidableEq, Repr

structure StorRec where
  typ : Nat
  layers : Nat
  ambg : Nat
  cap : Word
  ua : Word
  khyd : Word
  deriving DecidableEq, Repr

structure SubsRec where
  stn : Nat
  qdes : Word
  mdes : Word
  kvs : Word
  trdes : Word
  deriving DecidableEq, Repr

structure AmbgRec where
  tcon : Word
  bind : Nat
  deriving DecidableEq, Repr

/-- MEAS, Table NET-5. -/
structure MeasRec where
  qty : Nat
  src : Nat
  obj : Nat
  addr : Nat
  sigma : Word
  gain : Word
  ofs : Word
  deriving DecidableEq, Repr

/-- PART and BNDY (R158, R159). -/
structure PartRec where
  ident : Nat
  count : Nat
  sfp : Nat
  deriving DecidableEq, Repr

structure BndyRec where
  branch : Nat
  nbr : Nat
  node : Nat
  owner : Bool
  deriving DecidableEq, Repr

/-- A loaded model with its elimination order and, per column of the factor, the rows below the
diagonal as positions in the order (R154, R155). -/
structure NetModel where
  netw : List NetwRec := []
  node : List NodeRec := []
  brch : List BrchRec := []
  pipe : List PipeRec := []
  pump : List PumpRec := []
  valv : List ValvRec := []
  plnt : List PlntRec := []
  stor : List StorRec := []
  subs : List SubsRec := []
  meas : List MeasRec := []
  ambg : List AmbgRec := []
  part : List PartRec := []
  bndy : List BndyRec := []
  ordsup : Bool := false
  order : List Nat := []
  cols : List (List Nat) := []
  sfp : Dword := 0
  dfp : Dword := 0
  deriving DecidableEq, Repr

/-- A plug (R147): fraction of the volume in units of 2⁻³¹, and temperature. -/
structure Plug where
  f : Nat
  t : Word
  deriving DecidableEq, Repr

/-- Plug state: plugs by branch index, node temperatures, branch outlet temperatures. -/
structure Thermal where
  plugs : List (Nat × List Plug) := []
  tnode : List Word := []
  tout : List Word := []
  deriving DecidableEq, Repr

/-! ### Crucible network solver (07_crucible_solver.md) -/

/-- SOL settings latched at a snapshot (R164). -/
structure SolCfg where
  nit : Nat
  nref : Nat
  bdstep : Nat
  bdmax : Nat
  bdthr : Word
  ptol : Word
  dpmax : Word
  stale : Nat
  tage : Nat
  obsmin : Nat
  sigs : Nat
  sigh : Nat
  sign : Nat
  deriving DecidableEq, Repr

/-- Raw value of a binding at the snapshot (R167): none where no value was received. -/
structure MeasSnap where
  raw : Option Word
  age : Nat
  /-- condition QUAL of Table SOL-2 -/
  bad : Bool
  deriving DecidableEq, Repr

/-- One network of a result record. -/
structure NetRes where
  status : Nat := 5
  /-- it has been valid at some time since the restart -/
  ever : Bool := false
  job : Word := 0
  imbal : Word := 0
  zpiv : Nat := 0
  tpiv : Nat := 0
  deriving DecidableEq, Repr

/-- Diagnostics of one computation, Table SOL-11. -/
structure SolDiag where
  lastdp : Word := 0
  imbal : Word := 0
  tpiv : Nat := 0
  zpiv : Nat := 0
  pivnode : Nat := 0xFFFF
  nbad : Nat := 0
  nused : Nat := 0
  nmiss : Nat := 0
  nstale : Nat := 0
  nobs : Nat := 0
  rejnet : Nat := 0
  nitrun : Nat := 0
  /-- capacity merges of the plug update (R148) -/
  merges : Nat := 0
  deriving DecidableEq, Repr

/-- The result record, Table SOL-7. -/
structure SolveRec where
  n : Nat
  fno : Nat
  sfp : Dword
  dfp : Dword
  cold : Bool
  wsmis : Bool
  base : Option Nat
  nets : List NetRes
  p : List Word
  nq : List Nat
  m : List Word
  tprop : List Word
  bq : List Nat
  th : List Word
  z : List Word
  zst : List Nat
  resid : List Word
  /-- published temperatures; the plugs with them -/
  therm : Thermal
  /-- the plug state after the update, which goes on whatever is published (R177) -/
  after : Thermal
  diag : SolDiag
  deriving DecidableEq, Repr

/-- The iterate of a computation: state vectors, per-binding marks, per-network progress. -/
structure SolWork where
  p : List Word
  m : List Word
  th : List Word
  th0 : List Word
  z : List Word
  w : List Word
  zst : List Nat
  /-- normalised residuals, and the residuals themselves, of the last executed iteration -/
  resid : List Word
  res : List Word
  /-- networks that ended by a rejected iteration, and iterations executed by each -/
  rej : List Bool
  its : List Nat
  /-- per network, max|α δp| of its last executed iteration -/
  lastdp : List Word
  closed : List Bool
  bound : List Bool
  /-- regularised pivots of the final iteration: node and whether it was an exact zero -/
  piv : List (Nat × Bool)
  deriving DecidableEq, Repr

/-- A boundary value of Table SOL-8: node, KIND F, ORD, V1, V2. -/
structure BndVal where
  node : Nat
  isF : Bool
  ord : Nat
  v1 : Word
  v2 : Word
  deriving DecidableEq, Repr

structure Exchange where
  epoch : Nat
  iter : Nat
  cold : Bool
  stop : Bool
  dfp : Dword
  vals : List BndVal
  deriving DecidableEq, Repr

/-- A solve in computation; for a domain member it is an epoch (R185 to R187). -/
structure SolveJob where
  n : Nat
  fno : Nat
  cfg : SolCfg
  base : Option SolveRec
  cold : Bool
  wsmis : Bool
  /-- snapshot of the bindings (R167) -/
  snaps : List MeasSnap := []
  /-- an SRST of NET applies to this solve (R149) -/
  reset : Bool := false
  work : SolWork
  /-- iterations run; the exchanges received, and those sent with the frame of the last sending -/
  iter : Nat := 0
  recv : List (Nat × Exchange) := []
  sent : List (Nat × Nat × Exchange) := []
  /-- FRAME_NO of its vote, with the STATUS voted -/
  voted : Option (Nat × Nat) := none
  digest : Dword := 0
  deriving DecidableEq, Repr

/-- VOTE payload, Table FAB-8, with the member that sent it. -/
structure Vote where
  src : Nat
  epoch : Nat
  base : Option Nat
  dfp : Dword
  digest : Dword
  status : Nat
  deriving DecidableEq, Repr

structure Solver where
  model : Option NetModel := none
  therm : Thermal := {}
  /-- SRST of NET waits for the next snapshot (R149) -/
  plugReset : Bool := false
  job : Option SolveJob := none
  /-- ended and ready for publication -/
  ready : Option SolveRec := none
  /-- committed epochs that wait for their publication frames, in epoch order (R110) -/
  waiting : List SolveRec := []
  cur : Option SolveRec := none
  /-- the current result as it stood at the end of step 2 (R98) -/
  seen : Option SolveRec := none
  /-- the next solve starts cold: restart, reduced mode or SRST (R182, R166) -/
  nextCold : Bool := true
  /-- epochs in computation or awaiting a decision, older first -/
  epochs : List SolveJob := []
  /-- committed results by epoch, newest first, at most three -/
  committed : List (Nat × SolveRec) := []
  /-- flows of the most recent valid estimate of each network (R148), in a domain the last committed ones (R187) -/
  flows : List Word := []
  /-- coordinator: votes received and epochs decided -/
  votes : List Vote := []
  decided : List Nat := []
  /-- decisions visible in this frame, and whether each is COMMIT -/
  decisions : List (Nat × Bool) := []
  deriving DecidableEq, Repr

/-! ### Dispatch optimiser (08_dispatch_optimiser.md) -/

structure PlantDisp where
  mode : Nat
  tlim : Int
  fuel : Word
  fq : Word
  ef : Word
  elec : Word
  ramp : Word
  rw : Word
  mmax : Word
  deriving DecidableEq, Repr

structure StoreDisp where
  pch : Word
  pdis : Word
  eminf : Word
  emaxf : Word
  cw : Word
  vt : Word
  /-- TLO, or PIW of an electrical store -/
  tlo : Word
  thi : Word
  deriving DecidableEq, Repr

structure ChanRec where
  vkind : Nat
  vidx : Nat
  dkind : Nat
  fbmode : Nat
  daddr : Nat
  gain : Word
  ofs : Word
  fbval : Word
  deriving DecidableEq, Repr

/-- The dispatch image (R190). -/
structure DispImage where
  fmode : Nat
  period : Nat
  nstep : Nat
  step : Nat
  holdmax : Nat
  cscale : Word
  co2pr : Word
  gimax : Word
  gemax : Word
  cu : Word
  cu2 : Word
  ce : Word
  ce2 : Word
  dmax : Word
  plants : List PlantDisp
  stores : List StoreDisp
  chans : List ChanRec
  deriving DecidableEq, Repr

/-- One equality row: right-hand side and terms as variable index and coefficient. -/
structure EqRow where
  rhs : Word
  terms : List (Nat × Word)
  deriving DecidableEq, Repr

/-- The quadratic programme of R192 to R198, variables ordered by step; `fixed` ones sit at `l`. -/
structure QProg where
  nvar : Nat
  nrow : Nat
  nstep : Nat
  h : List Word
  c : List Word
  l : List Word
  u : List Word
  fixed : List Bool
  rows : List EqRow
  deriving DecidableEq, Repr

/-- The iterate of R199. -/
structure IpmIter where
  x : List Word
  y : List Word
  zl : List Word
  zu : List Word
  deriving DecidableEq, Repr

structure DispJob where
  n : Nat
  fno : Nat
  prog : QProg
  start : IpmIter
  cold : Bool
  wsmis : Bool
  nostate : Bool
  widen : Bool
  capclip : Bool
  ofp : Dword
  sfp : Dword
  cscale : Word
  step : Nat
  np : Nat
  ns : Nat
  nk : Nat
  ptol : Word
  dtol : Word
  gtol : Word
  slktol : Word
  deriving DecidableEq, Repr

/-- A computed dispatch: its job, final iterate, outcome and diagnostics. -/
structure DispRec where
  job : DispJob
  it : IpmIter
  outcome : Nat
  short : Bool
  rprim : Word
  rdual : Word
  mu : Word
  alphamin : Word
  slkmax : Word
  npivr : Nat
  rejit : Nat
  obj : Word
  deriving DecidableEq, Repr

structure Optimiser where
  image : Option DispImage := none
  /-- staged tables (Table OPT-8), ten of 192; none where they are as at reset -/
  tables : List (List Word) := []
  job : Option DispJob := none
  ready : Option DispRec := none
  cur : Option DispRec := none
  /-- the current result as it stood at the end of step 2 (R98) -/
  seen : Option DispRec := none
  /-- outcome the running period ends with, Table OPT-9 -/
  outcome : Nat := 4
  nextCold : Bool := true
  /-- consecutive missed publications; a period is in progress; it ran in reduced mode -/
  missed : Nat := 0
  /-- frame of the last period boundary seen -/
  period : Option Nat := none
  /-- HOLDMAX as latched there (R189) -/
  holdmax : Nat := 0
  deriving DecidableEq, Repr

/-! ### Control loops, Burnish and trace (09_control_loops.md) -/

/-- The record of a loop, Table LOP-2, with the values in effect of its RWS words. -/
structure LoopRec where
  kind : Nat := 0
  flags : BitVec 8 := 0
  period : Nat := 1
  phase : Nat := 0
  pvsrc : Nat := 0
  spsrc : Nat := 0
  ffsrc : Nat := 255
  dest : Nat := 0
  cyc : Nat := 0
  pvaddr : Nat := 0
  spaddr : Nat := 0
  ffaddr : Nat := 0
  daddr : Nat := 0
  pvgain : Word := 0
  pvofs : Word := 0
  sploc : Word := 0
  sprate : Word := 0
  kp : Word := 0
  ki : Word := 0
  kd : Word := 0
  tf : Word := 0
  beta : Word := 0
  db : Word := 0
  kff : Word := 0
  ilo : Word := 0
  ihi : Word := 0
  olo : Word := 0
  ohi : Word := 0
  orate : Word := 0
  man0 : Word := 0
  ogain : Word := 0
  oofs : Word := 0
  mode0 : Nat := 0
  deriving DecidableEq, Repr

/-- A Burnish record, Table LOP-3, with its two memories as listed entries (0 elsewhere). -/
structure BurnRec where
  idxmode : BitVec 8 := 0
  na : Nat := 0
  nb : Nat := 0
  leada : Nat := 0
  leadb : Nat := 0
  lga : Word := 0
  lgb : Word := 0
  qa : Word := 0
  qb : Word := 0
  rlim : Word := 0
  tofs : Nat := 0
  lrn : BitVec 2 := 3
  idxa : Nat := 0
  idxb : Nat := 0
  memA : List (Nat × Word) := []
  memB : List (Nat × Word) := []
  nosyncA : Bool := false
  nosyncB : Bool := false
  novoltA : Bool := false
  novoltB : Bool := false
  deriving DecidableEq, Repr

/-- PSP, MANOUT and MODE that a program engine wrote after PB, for the next PB (R215, R226). -/
structure LoopPend where
  psp : Option Word := none
  man : Option Word := none
  mode : Option Nat := none
  deriving DecidableEq, Repr

/-- State of one loop (R220 to R225). -/
structure LoopState where
  mode : Nat := 0
  manout : Word := 0
  psp : Word := 0
  dsp : Word := 0
  sp : Word := 0
  pv : Word := 0
  e : Word := 0
  uc : Word := 0
  ud : Word := 0
  i : Word := 0
  uprev : Word := 0
  xd : Word := 0
  pvp : Word := 0
  rc : Word := 0
  ffv : Word := 0
  reinit : Bool := true
  /-- the setpoint is taken without ramp at the next sample (R220) -/
  first : Bool := true
  kpPrev : Word := 0
  kdPrev : Word := 0
  kffPrev : Word := 0
  /-- a previous sample fixed kpPrev, kdPrev and kffPrev -/
  coefSeen : Bool := false
  /-- LOOPW offset 0x044 bits [9:0] -/
  flags : BitVec 10 := 0
  lsamp : Word := 0
  /-- UC at the end of the previous frame's pass, for R217 source 2 -/
  ucLast : Word := 0
  /-- DEST 3: frames on in the current cycle; none before the first cycle frame -/
  onFrames : Option Nat := none
  /-- what the next PB takes up from E4 and from E5 -/
  pend4 : LoopPend := {}
  pend5 : LoopPend := {}
  /-- an SRST of LOOP acts at the start of the next sample (R229) -/
  srst : Bool := false
  deriving DecidableEq, Repr

structure Loop where
  cfg : LoopRec := {}
  burn : Option BurnRec := none
  st : LoopState := {}
  /-- the records as configured: what the RWS words return to after a cold start or an SRST of LOOP (R228, R229) -/
  cfg0 : LoopRec := {}
  burn0 : Option BurnRec := none
  deriving DecidableEq, Repr

/-- States of Table LOP-9. -/
inductive TrcState where
  | idle | fill | armed | post | done | roll
  deriving DecidableEq, Repr

structure Trace where
  /-- per sample, oldest first: values of the 16 channels -/
  buf : List (List Word) := []
  /-- samples before the trigger sample, once triggered -/
  before : Nat := 0
  prev : Option Word := none
  /-- FIRE and STOP act at the next trace sample -/
  fire : Bool := false
  stop : Bool := false
  deriving DecidableEq, Repr

/-! ### Cyclic programs (10_cyclic_programs.md, 11_enesque_instructions.md) -/

/-- A range of process image words: base and count. -/
structure PiRange where
  base : Nat
  count : Nat
  deriving DecidableEq, Repr

/-- A task record, Table PRG-2. -/
structure TaskRec where
  kind : Nat := 0
  exe : Nat := 4
  prio : Nat := 0
  ovrfault : Bool := false
  hasFeed : Bool := false
  period : Nat := 1
  phase : Nat := 0
  evsrc : Nat := 0
  evarg : Nat := 0
  feed : Nat := 0
  main : Nat := 0
  wcfeed : Nat := 0
  inR : List PiRange := []
  outR : List PiRange := []
  deriving DecidableEq, Repr

/-- A nesting-stack entry (R260): `bit` holds the opcode that pushed it and BA. -/
inductive StkEntry where
  | bit (op : Nat) (v : Bool)
  | word (w : Word)
  | ret (a : Nat)
  deriving DecidableEq, Repr

/-- The context of a task (R259). -/
structure EnqCtx where
  pc : Nat := 0
  ba : Bool := false
  wa : Word := 0
  xr : Word := 0
  stk : List StkEntry := []
  deriving DecidableEq, Repr

/-- Where a cycle stands. -/
inductive TaskPhase where
  | idle | released | feed | feedDone | main
  deriving DecidableEq, Repr

structure Task where
  cfg : TaskRec := {}
  ph : TaskPhase := .idle
  parked : Bool := false
  pend : Bool := false
  ctx : EnqCtx := {}
  /-- the task image, by process image address -/
  img : List (Nat × Word) := []
  relFno : Nat := 0
  cyc : Nat := 0
  feedCyc : Nat := 0
  tcyc : Nat := 0
  tfrm : Nat := 0
  truns : Nat := 0
  tovr : Nat := 0
  tlost : Nat := 0
  /-- EVT triggered it; released in the next frame -/
  evt : Bool := false
  deriving DecidableEq, Repr

structure Timer where
  pt : Nat := 0
  et : Nat := 0
  q : Bool := false
  inprev : Bool := false
  lastf : Nat := 0
  deriving DecidableEq, Repr

structure Counter where
  cv : Int := 0
  pv : Int := 0
  down : Bool := false
  cprev : Bool := false
  deriving DecidableEq, Repr

/-- A constant changed on line (R253): executor 4 or 5, width 0–2, byte offset; its value stands in the
constant area. -/
structure Overlay where
  exe : Nat
  width : Nat
  ofs : Nat
  deriving DecidableEq, Repr

/-- Declarations of an executor, Table ENQ-2, and its sizes. -/
structure EnqDecl where
  ncode : Nat := 0
  ksize : Nat := 0
  vsize : Nat := 0
  timers : List (Nat × Bool × Nat) := []
  counters : List (Nat × Bool × Int) := []
  retained : List (Nat × Nat) := []
  inits : List (Nat × List Byte) := []
  deriving DecidableEq, Repr

/-- One executor, E4 or E5. -/
structure Executor where
  decl : EnqDecl := {}
  code : List Word := []
  konst : List (Nat × Word) := []
  vars : List (Nat × Word) := []
  timers : List (Nat × Timer) := []
  counters : List (Nat × Counter) := []
  /-- task whose section is executing -/
  cur : Option Nat := none
  /-- counted cycles of this frame -/
  used : Nat := 0
  /-- display list of this frame (R275) -/
  dlist : Option (Nat × Nat) := none
  faulted : Bool := false
  deriving DecidableEq, Repr

/-- A force entry (R251). -/
structure Force where
  kind : Nat
  bit : Nat
  addr : Nat
  val : Word
  fno : Nat
  deriving DecidableEq, Repr

inductive PrgMode where
  | stop | run | hold
  deriving DecidableEq, Repr

structure Program where
  tasks : List Task := List.replicate 40 {}
  /-- constants changed on line, in order of first change -/
  overlay : List Overlay := []
  /-- frame of the last entry to RUN or k0: LASTF of a timer not executed since (R266) -/
  runSince : Nat := 0
  e4 : Executor := {}
  e5 : Executor := {}
  /-- process image: underlying values, and the image at the end of step 2 and of the frame before -/
  pi : List (Nat × Word) := []
  view : List (Nat × Word) := []
  viewPrev : List (Nat × Word) := []
  /-- image as at PB, for loop source 1 -/
  atPb : List (Nat × Word) := []
  forces : List (Nat × Force) := []
  mode : PrgMode := .stop
  /-- frames spent in HOLD -/
  heldFor : Nat := 0
  /-- entry to RUN in this frame: 1 warm, 2 cold, 3 command -/
  entry : Option Nat := none
  dooown : BitVec 16 := 0
  aoown : BitVec 8 := 0
  dostopq : BitVec 16 := 0
  aostopq : BitVec 8 := 0
  /-- words last handed off: DO and AO0–AO7 -/
  handDo : BitVec 16 := 0
  handAo : List Nat := List.replicate 8 0
  /-- first frame in STOP has come -/
  stopped : Bool := true
  /-- retain generation waiting for its header: GEN, NCHUNK, calendar, CALQ, FRAME_NO -/
  retHdr : Option (Nat × Nat × Dword × Bool × Nat) := none
  deriving DecidableEq, Repr

/-! ### Electrical metering (12_electrical_metering.md) -/

/-- Group record, Table MET-8. -/
structure MetGroupCfg where
  nomv : Nat := 2300
  wiring : Nat := 0
  nomf : Nat := 0
  nlthr : Nat := 20
  deriving DecidableEq, Repr

/-- Measurement-point record, Table MET-9. -/
structure MpCfg where
  on : Bool := true
  group : Nat := 0
  punit : Nat := 0
  inom : Nat := 1
  vtn : Nat := 1
  vtd : Nat := 1
  ctn : Nat := 1
  ctd : Nat := 1
  deriving DecidableEq, Repr

/-- The factory calibration ledger (R281): gain and delay of channel c in band b at index 8c + b. -/
structure Calib where
  theta : List Int
  gain : List Nat
  dly : List Nat
  deriving DecidableEq, Repr

/-- One channel from window to window: last calibrated values, the history of a voltage channel (newest
first), samples since its last crossing and that crossing's time. -/
structure MetChan where
  lastY : Option Int := none
  lastX : Option Int := none
  hist : List Int := []
  since : Option Nat := none
  tc : Option Int := none
  deriving DecidableEq, Repr

/-- Sums over a running cycle of one group (R288, R294): Σv² per voltage channel and samples. -/
structure GrpAcc where
  n : Nat := 0
  v2 : List Nat := [0, 0, 0, 0]
  deriving DecidableEq, Repr

/-- Sums over a running cycle of one measurement point: Σv² per element, Σi² per current, ΣP, ΣQ and the
sum of (i1 + i2 + i3 + iN)². -/
structure MpAcc where
  n : Nat := 0
  v2 : List Nat := [0, 0, 0]
  i2 : List Nat := [0, 0, 0, 0]
  sp : Int := 0
  sq : Int := 0
  ss : Nat := 0
  deriving DecidableEq, Repr

/-- Cycle and detector state of one voltage group; its flags live in the MET page. -/
structure MetGroup where
  period : Option Nat := none
  fmhz : Nat := 0
  peaks : List Nat := []
  sinceClose : Nat := 0
  accX : GrpAcc := {}
  accW : GrpAcc := {}
  seqBad : Nat := 0
  seqGood : Nat := 0
  nlBad : Nat := 0
  nlGood : Nat := 0
  pendBand : Option Nat := none
  /-- OVRMAP bits of the voltage channels in the running cycle, and the flags they led to -/
  ovrSeen : Nat := 0
  ovr : Nat := 0
  /-- PH32 and PH32V to be published at step 2 of the next frame (R286) -/
  ph32 : Nat := 0
  ph32v : Bool := false
  deriving DecidableEq, Repr

/-- One measurement point: its eight registers in the order of Table MET-7, the four remainders RA, RR,
RSI, RSE, the sums of the second and the cycle values. -/
structure MeasPoint where
  reg : List Dword := List.replicate 8 0
  rem : List Int := [0, 0, 0, 0]
  lostbnd : Dword := 0
  sc : Nat := 0
  u : List Nat := [0, 0, 0]
  i : List Nat := [0, 0, 0, 0]
  accX : MpAcc := {}
  accW : MpAcc := {}
  secP : List Int := [0, 0, 0]
  secQ : List Int := [0, 0, 0]
  secS : Int := 0
  ovrSeen : Nat := 0
  isumBad : Nat := 0
  isumGood : Nat := 0
  /-- flags ISUM, OVR (4) and EXP as the MPT page shows them -/
  flags : Nat := 0
  /-- published binary32 values: U1–U3, I1–I3, IN, P1–P3, PT, Q1–Q3, QT, ST, PF -/
  pub : List Word := List.replicate 17 0
  /-- harmonic groups: 7 channels of 50, THD of 7, and HFNO -/
  harm : List (List Word) := []
  thd : List Word := List.replicate 7 0
  hfno : Word := 0
  deriving DecidableEq, Repr

/-- The harmonic scan (R293). -/
structure HarmScan where
  mp : Option Nat := none
  /-- waiting for the first reference crossing -/
  armed : Bool := false
  cycles : Nat := 0
  /-- samples of the seven channels, newest first -/
  buf : List (List Int) := []
  /-- point, results and frame of publication -/
  due : List (Nat × Nat × List (List Word) × List Word) := []
  deriving DecidableEq, Repr

structure Metering where
  groupCfg : List MetGroupCfg := List.replicate 4 {}
  mpCfg : List MpCfg := (List.range 16).map fun m => { group := m / 4 }
  calib : Calib := ⟨[-160, 0, 160, 320, 480, 640, 800], List.replicate 640 1006632960, List.replicate 640 0⟩
  chans : List MetChan := List.replicate 80 {}
  groups : List MetGroup := List.replicate 4 {}
  mps : List MeasPoint := List.replicate 16 {}
  /-- FRAME_NO of the last frame whose window was judged; a later gap is windows lost with their input frames -/
  lastFno : Option Nat := none
  secFlen : Nat := 0
  scan : HarmScan := {}
  /-- no window processed since the restart -/
  fresh : Bool := true
  /-- a save placed and not yet known as executed, with its KIND (R296) -/
  savePend : Option Nat := none
  /-- that save is the final save, whose records keep PRIO (R323) -/
  savePrio : Bool := false
  deriving DecidableEq, Repr

/-! ### Heat metering and pulse outputs (13_heat_metering_pulses.md) -/

/-- Heat point record, Table HTM-5. -/
structure HpCfg where
  on : Bool := false
  mode : Nat := 0
  floc : Nat := 0
  punit : Nat := 0
  vunit : Nat := 0
  flagsByte : Nat := 0
  rtds : Nat := 0
  rtdr : Nat := 0
  typS : Nat := 0
  typR : Nat := 0
  fsrc : Nat := 0
  faddr : Nat := 0
  kvol : Nat := 1
  dvmax : Nat := 0
  pprop : Word := 0
  dtmin : Nat := 0
  pfs : Nat := 1
  deriving DecidableEq, Repr

/-- Pulse output record, Table HTM-6. -/
structure PoCfg where
  on : Bool := false
  srck : Nat := 0
  index : Nat := 0
  width : Nat := 10
  kp : Nat := 1
  deriving DecidableEq, Repr

/-- One heat point. Temperatures are binary64 numbers in °C. -/
structure HeatPoint where
  ts : BitVec 64 := 0
  tr : BitVec 64 := 0
  tsf : Bool := false
  trf : Bool := false
  flf : Bool := false
  tstale : Bool := false
  kq : Int := 0
  heat : Dword := 0
  cool : Dword := 0
  vol : Dword := 0
  volf : Dword := 0
  re : Int := 0
  vr : Int := 0
  cprev : Word := 0
  errsec : Nat := 0
  jump : Nat := 0
  lostbnd : Dword := 0
  /-- cprev has not been taken since k0 or a change of source (R307) -/
  first : Bool := true
  /-- the first difference after an FLF period is exempt and carries no energy (R307) -/
  afterFlf : Bool := false
  /-- sums of the second: Σ dV, Σ dV × KQ, and whether it was faulted -/
  secV : Nat := 0
  secE : Int := 0
  secF : Bool := false
  flow : Word := 0
  power : Word := 0
  deriving DecidableEq, Repr

/-- One pulse output (R314). -/
structure PulseOut where
  last : Dword := 0
  emit : Dword := 0
  bklg : Nat := 0
  drop : Nat := 0
  nextf : Dword := 0
  /-- a command stands in the output frame of this frame -/
  placed : Bool := false
  deriving DecidableEq, Repr

structure Heating where
  hpCfg : List HpCfg := List.replicate 16 {}
  poCfg : List PoCfg := List.replicate 16 {}
  hps : List HeatPoint := List.replicate 16 {}
  pos : List PulseOut := List.replicate 16 {}
  rtdRaw : List Word := List.replicate 32 0
  /-- frames since the last RTD result -/
  sinceRtd : Nat := 0
  secFlen : Nat := 0
  /-- the second of R292 its sums belong to -/
  secOf : Nat := 0
  deriving DecidableEq, Repr

/-! ### Non-volatile store (14_nv_store.md) -/

/-- One write request, Table NVS-2, with its entry destination and PRIO flag (R323). -/
structure NvReq where
  part : Nat
  op : Nat
  area : Nat := 0
  rid : Nat := 0
  num : Nat := 0
  chunk : Nat := 0
  nchunk : Nat := 0
  prio : Bool := false
  data : List Byte
  deriving DecidableEq, Repr

/-- What a lane knows of one ingot record: valid copies, the selected slot and its SEQ. -/
structure RecInfo where
  valid0 : Bool := false
  valid1 : Bool := false
  seq : Option Nat := none
  slot : Nat := 0
  deriving DecidableEq, Repr

/-- What a lane knows of a ledger: its current generation, and the generation it is writing. -/
structure LedgerInfo where
  gen : Nat := 0
  nchunk : Nat := 0
  area : Nat := 0
  present : Bool := false
  /-- highest GEN of any valid chunk (R333) -/
  top : Nat := 0
  /-- generation in progress: GEN, area, chunk data, next chunk to place -/
  wgen : Nat := 0
  warea : Nat := 0
  wdata : List (List Byte) := []
  wnext : Nat := 0
  busy : Bool := false
  deriving DecidableEq, Repr

/-- A lane's side of the store. -/
structure NvLane where
  /-- ingot records by partition × 4096 + RID -/
  recs : List (Nat × RecInfo) := []
  calib : LedgerInfo := {}
  retain : LedgerInfo := {}
  /-- sizes of PAT0–PAT7 in pages (R321) -/
  patSize : List Nat := List.replicate 8 0
  /-- requests placed in the output frame being filled, in production order -/
  placed : List NvReq := []
  /-- requests of an output frame that is closed, until step 1 decides their outcome -/
  sent : List NvReq := []
  /-- requests of the previous output frame that did not count as executed -/
  retry : List NvReq := []
  /-- frames of NAND lockout still to run (R339) -/
  nandLock : Nat := 0
  /-- FRAME_NO of the last rise of the PD_NV fault bit (R336) -/
  faultAt : Option Nat := none
  deriving DecidableEq, Repr

/-- The store itself, in PD_NV: MRAM and NAND as listed bytes. -/
structure NvStore where
  mram : List Host.Cell := []
  nand : List Host.Cell := []
  /-- frames of NAND lockout still to run (R339) -/
  nandLock : Nat := 0
  /-- NAND blocks marked bad and not yet replaced, and the spare blocks unused -/
  badBlocks : List Nat := []
  spares : Nat := 1008
  /-- the last write sequence: page, content before it and as written, in its order (R324, R327) -/
  seq : List (Nat × List Byte × List Byte) := []
  /-- what an installation that changes something is compared with: first page and size each of PAT0 to PAT7 had when its
  header was last written (R321, R349), and the heat section of the last start (R307, R316); the model's own -/
  patAt : List (Option (Nat × Nat)) := List.replicate 8 none
  heatRan : Option (List HpCfg × List PoCfg) := none
  deriving DecidableEq, Repr

/-! ### Patina recorder (15_patina_recorder.md) -/

/-- Partition record, Table PAT-1, with the place of its log (R321, R348). -/
structure PatPart where
  size : Nat := 0
  iper : Nat := 60000
  first : Nat := 0
  next : Nat := 0
  base : Nat := 0
  full : Bool := false
  hseq : Nat := 0
  /-- to be cleared at its first write (R349) -/
  clear : Bool := false
  deriving DecidableEq, Repr

/-- Channel record and accumulators (R341, R342); min, max, sum and sumsq are binary64. -/
structure PatChan where
  src : Nat
  part : Nat
  sper : Nat
  addr : Nat
  lo : Word
  w : Word
  n : Nat := 0
  nskip : Nat := 0
  bins : List Nat := List.replicate 32 0
  mn : BitVec 64 := 0
  mx : BitVec 64 := 0
  mnStamp : List Byte := []
  mxStamp : List Byte := []
  sum : BitVec 64 := 0
  sumsq : BitVec 64 := 0
  starts : List Byte := []
  partialIv : Bool := true
  deriving DecidableEq, Repr

/-- A page waiting in the backlog: partition, page within it, its 256 bytes. -/
structure PatPage where
  part : Nat
  page : Nat
  data : List Byte
  deriving DecidableEq, Repr

/-- A summary in progress (R352). -/
structure PatSummary where
  part : Nat
  reqFno : Nat
  stamp : List Byte
  /-- held pages hashed so far, of `count` -/
  taken : Nat := 0
  count : Nat
  ninv : Nat := 0
  hashed : List Byte := []
  deriving DecidableEq, Repr

structure Patina where
  parts : List PatPart := List.replicate 8 {}
  chans : List PatChan := []
  backlog : List PatPage := []
  summary : Option PatSummary := none
  sumd : List Word := List.replicate 53 0
  /-- stamp of the first frame Patina ran -/
  firstStamp : List Byte := []
  deriving DecidableEq, Repr

/-! ### Time (16_time.md) -/

/-- The calendar counters, as seconds since 2000-01-01 00:00:00 and the prescaler (R355), with the
backup domain's interface state (R356, R358, R361). -/
structure Calendar where
  sec : Nat := 0
  presc : Nat := 0
  osf : Bool := true
  batlow : Bool := false
  setabt : Bool := false
  /-- HALT in force, with the staged seconds -/
  halt : Option Nat := none
  /-- interface locked; the domain is on the coin cell -/
  locked : Bool := true
  onCell : Bool := true
  /-- the hub's last reading, bytes [7:0], and CALQ bit 0 -/
  reading : Dword := 0
  calq : Bool := false
  /-- backup SRAM records: alarms 0–7 and the UTC offset at 8 -/
  sram : List (Nat × List Byte) := []
  deriving DecidableEq, Repr

/-- SYNC of Table TIM-5. -/
inductive Sync where
  | free | acquire | locked | holdover
  deriving DecidableEq, Repr

/-- The local time clock and the servo of the hub (R366, R372, R373). -/
structure LocalClock where
  /-- {SEC, NS} in ns at the start of the current frame -/
  ns : Int := 0
  /-- steps made since that frame started (R92) -/
  pend : Int := 0
  frac : Word := 0
  addend : Nat := 17179869184
  /-- how far past the frame's start its first CK_PTP cycle lies, in 2⁻³² ns of local-clock time (R86) -/
  past : Nat := 0
  sync : Sync := .free
  i : Int := 0
  adj : Int := 0
  /-- consecutive samples below LOCKTHR and at or above UNLKTHR -/
  good : Nat := 0
  bad : Nat := 0
  /-- frames since the last sample, and in HOLDOVER -/
  sinceSample : Nat := 0
  holdFor : Nat := 0
  servoOff : Bool := false
  steps : Nat := 0
  deriving DecidableEq, Repr

/-- An entry of the transmit timestamp queue (R369). -/
structure TsEntry where
  port : Nat
  ident : Nat
  ns : Int
  deriving DecidableEq, Repr

/-- portState of IEEE 1588-2019, codes 1–9. -/
inductive PortState where
  | initializing | faulty | disabled | listening | preMaster | master | passive | uncalibrated | slave
  deriving DecidableEq, Repr

/-- The PTP port on the owner's E2 (R370, R371). -/
structure PtpPort where
  state : PortState := .initializing
  gmid : Dword := 0
  /-- the selected master: its clock identity, and its data set as clause 9.3 compares it -/
  best : Option (Dword × List Nat) := none
  seqSync : Nat := 0
  seqAnn : Nat := 0
  seqDly : Nat := 0
  /-- event messages sent and not yet stamped: identifier, message kind, sequence number, and for whom -/
  pending : List (Nat × Nat × Nat × Dword) := []
  nextId : Nat := 0
  /-- time stamps of the exchange in progress: t1, t2, t3 -/
  t1 : Option Int := none
  t2 : Option Int := none
  t3 : Option Int := none
  t4 : Option Int := none
  /-- sequence number of the Sync whose stamps t1 and t2 hold, and mean path delay -/
  sync : Nat := 0
  mpd : Int := 0
  deriving DecidableEq, Repr

/-- One alarm (R363). -/
structure Alarm where
  cfg : Word := 0
  day : Word := 0
  next : Word := 0xFFFFFFFF
  last : Word := 0
  fcnt : Nat := 0
  late : Bool := false
  /-- an OP 2 command is to be placed (R365) -/
  dirty : Bool := false
  deriving DecidableEq, Repr

/-- A frozen shadow of CALW1 and CALSEC (R357): reader, values, frames held. Readers 0–7 are the engines,
8 + s is session s. -/
structure CalShadow where
  reader : Nat
  calw1 : Word
  calsec : Word
  age : Nat := 0
  deriving DecidableEq, Repr

/-- A calendar command of class 0x05, destination 0x30 (Table TIM-2). -/
inductive CalCmd where
  | set (sec : Nat)
  | alarm (idx : Nat) (rec : List Byte)
  | utc (rec : List Byte)
  deriving DecidableEq, Repr

structure TimeLane where
  alarms : List Alarm := List.replicate 8 {}
  shadows : List CalShadow := []
  /-- a SET accepted at step 2 of this frame: SETW0 and SETW1 -/
  setReq : Option (Word × Word) := none
  utcDirty : Bool := false
  /-- steps of the local clock before the last SRST of PTP, which STEPCNT leaves out (Table REG-4) -/
  stepBase : Nat := 0
  deriving DecidableEq, Repr

/-! ### Hallmark keys, life cycle and trusted operation (17_security.md) -/

/-- A slot record, Table SEC-4, with its key in the clear as the lane holds it. -/
structure KeySlot where
  typ : Nat := 0
  state : Nat := 0
  origin : Nat := 0
  dest : BitVec 8 := 0
  usage : BitVec 16 := 0
  parent : Nat := 0xFFFF
  label : List Byte := []
  kcv : Nat := 0
  kgen : Nat := 0
  seq : Nat := 0
  key : List Byte := []
  deriving DecidableEq, Repr

/-- The staging register of a lane (R385). -/
structure Staging where
  slot : Nat
  key : KeySlot
  fno : Nat
  verified : Bool := false
  deriving DecidableEq, Repr

/-- USTATE of Table SEC-10. -/
inductive UState where
  | idle | staging | verifying | verified | promoting
  deriving DecidableEq, Repr

/-- Manifest slot states (14_nv_store.md R340). -/
inductive SlotState where
  | empty | staging | verified | committed | previous
  deriving DecidableEq, Repr

/-- A manifest slot entry: state, image digest and configuration fingerprint. -/
structure SlotInfo where
  state : SlotState := .empty
  digest : List Byte := List.replicate 48 0
  fp : Dword := 0
  deriving DecidableEq, Repr

/-- Header fields of an image (Table SEC-7) a lane keeps of the committed slot. -/
structure ImageInfo where
  fwsvn : Nat := 0
  cfgver : Nat := 0
  fwdigest : List Byte := List.replicate 48 0
  cfgdigest : List Byte := List.replicate 48 0
  deriving DecidableEq, Repr

/-- A lane's security state. -/
structure Security where
  slots : List KeySlot := List.replicate 128 {}
  staging : Option Staging := none
  /-- slot records placed and not yet known as executed: slot, new record -/
  inflight : List (Nat × KeySlot) := []
  lcState : Nat := 1
  tokcnt : Nat := 0
  /-- life-cycle state and TOKCNT an accepted command leads to, once its records have executed -/
  lcNext : Option (Nat × Nat) := none
  /-- PROVISION: DRS to be fused -/
  drsNext : Option (List Byte) := none
  ustate : UState := .idle
  utgt : Nat := 1
  nextpg : Nat := 0
  npages : Nat := 0
  manifest : List SlotInfo := [{ state := .committed }, {}]
  /-- image page accepted and not yet written -/
  page : Option (Nat × List Byte) := none
  /-- FRAME_NO of VERIFY or PROMOTE -/
  since : Nat := 0
  image : ImageInfo := {}
  /-- the IRK of slot 4, as the boot ROM read it from the NAND boot header (R395) -/
  irk : List Byte := []
  cfgfp : Dword := 0
  /-- security section (R406) -/
  revoked : List (List Byte) := []
  secFlags : BitVec 3 := 0
  /-- accepted KCMD commands with their slot, carried out at step 7 (R384) -/
  kcmds : List (Nat × Nat) := []
  /-- nonce latched for an attestation; statement signed, loaded at the next step 2 -/
  attReq : Option (List Byte) := none
  attDone : Option (List Byte × Nat) := none
  deriving DecidableEq, Repr

/-- The fuse bank of a lane (R378). -/
structure FuseBank where
  drs : List Byte := []
  irkHash : List Byte := []
  provisioned : Bool := true
  retired : Bool := false
  svn : Nat := 0
  deriving DecidableEq, Repr

/-! ### Assay self-test (18_assay.md) -/

/-- A targeted set running on a lane (R417): slices still to run and the result so far. -/
structure Targeted where
  start : Nat
  left : Nat
  failed : Bool := false
  deriving DecidableEq, Repr

structure Assay where
  /-- position of the next background slice -/
  unit : Nat := 0
  seg : Nat := 0
  /-- corrected errors by array row: array, row, FRAME_NO of each -/
  errs : List (Nat × Nat × List Nat) := []
  /-- rows waiting for a retest: array, row -/
  retest : List (Nat × Nat) := []
  targeted : Option Targeted := none
  /-- repair maps of both lanes: lane × 11 + array, rows mapped in spare order -/
  maps : List (List Nat) := List.replicate 22 []
  /-- rows this lane's own arrays have mapped onto spares (R412) -/
  own : List (List Nat) := List.replicate 11 []
  /-- the running command: kind, unit, lanes, slices of a kind-1 pass still to run -/
  cmd : Option (Nat × Nat × Nat × Nat) := none
  /-- a kind-2 command waits for the verdict of this frame -/
  kind2 : Option (Nat × LaneId) := none
  deriving DecidableEq, Repr

/-! ### Inter-engine queues (19_queues.md) -/

/-- One item: priority, data words in order, words taken by the reader, and its state at the last
snapshot. -/
structure QItem where
  prio : Nat
  words : List Dword := []
  /-- a writer may still append -/
  isOpen : Bool := true
  /-- data words stored when the last snapshot was taken, and those visible in this frame -/
  snapLen : Nat := 0
  visible : Nat := 0
  taken : Nat := 0
  /-- consecutive snapshots without a new word -/
  idle : Nat := 0
  /-- order of the first word -/
  born : Nat := 0
  deriving DecidableEq, Repr

structure Queue where
  items : List QItem := []
  /-- `born` of the reader's current item -/
  cur : Option Nat := none
  /-- the writer has an open item, opened by task `wTask` where an executor writes; it is orphaned -/
  wOpen : Bool := false
  wTask : Nat := 0
  orphan : Bool := false
  /-- free words left in this frame -/
  free : Nat := 512
  held : Nat := 0
  nextBorn : Nat := 0
  cap : Nat := 512
  cut : Nat := 0
  rto : Nat := 10
  ign : Nat := 0
  ovr : Nat := 0
  trunc : Nat := 0
  strand : Nat := 0
  flushw : Nat := 0
  full : Bool := false
  ce : Nat := 0
  deriving DecidableEq, Repr

/-! ### Rogon fabric (20_rogon_fabric.md) -/

/-- One link of a lane's E1 (R442, R446, R447). -/
structure FabLink where
  adj : Bool := false
  /-- FRAME_NO of the last HELLO received, and its SRC -/
  helloAt : Option Nat := none
  heard : Nat := 0
  /-- SEQ of own TIME frames with their transmit stamps, newest first, at most two -/
  sentTime : List (Nat × Option Int) := []
  /-- the neighbour's last TIME frame: its SEQ and the receive stamp here -/
  rxTime : Option (Nat × Int) := none
  /-- THOP of the neighbour's last TIME frame -/
  nbrThop : Nat := 0xFF
  deriving DecidableEq, Repr

/-- A database entry (R443); adjacencies as neighbour, cost, link. -/
structure LsaEntry where
  origin : Nat
  salt : List Byte
  lseq : Nat
  adjs : List (Nat × Nat × Nat)
  refreshed : Nat
  deriving DecidableEq, Repr

/-- A route: destination, cost, hops, first hop, own link. -/
structure Route where
  dst : Nat
  cost : Nat
  hops : Nat
  first : Nat
  link : Nat
  deriving DecidableEq, Repr

/-- A frame to be sealed at the end of step 7 (R439): destination, TYPE, TC and payload; TYPE 0 is a complete
frame flooded on. -/
structure FabOut where
  dst : Nat
  typ : Nat
  tc : Nat
  data : List Byte
  deriving DecidableEq, Repr

structure Fabric where
  /-- the table has been computed and not yet loaded into the switch (R444) -/
  routed : Bool := false
  /-- links the fabric section enables (Table FAB-11 LINKEN) -/
  linken : BitVec 4 := 0
  salt : Option (List Byte) := none
  seq : Nat := 0
  links : List FabLink := List.replicate 4 {}
  /-- SALT of each originator, and its replay window: highest SEQ and those accepted within 64 -/
  salts : List (Nat × List Byte) := []
  replay : List (Nat × List Byte × Nat × List Nat) := []
  db : List LsaEntry := []
  routes : List Route := []
  routesDirty : Bool := false
  lsaDue : Bool := false
  lsaAt : Option Nat := none
  /-- a servo sample taken in this frame (R448), and a change of the time neighbour -/
  sample : Option Int := none
  gmChange : Bool := false
  /-- frames of this output frame, in production order -/
  outbox : List FabOut := []
  deriving DecidableEq, Repr

/-- State of one FL link in the hub (R433, R434, R499). -/
structure HubLink where
  pwr : Bool := false
  sfp : Bool := false
  block : Bool := false
  /-- hub time at which the cage switch tripped (R499) -/
  trip : Option Nat := none
  /-- the state last reported by a link status arrival -/
  told : BitVec 4 := 0
  deriving DecidableEq, Repr

/-! ### Field ports and sessions (21_field_ports.md) -/

/-- Port records 1–4 of Table PRT-2 as the hub and E1 use them. -/
structure EthCfg where
  services : BitVec 5 := 0
  tgslot : Nat := 8
  ip : Word := 0
  mask : Word := 0
  gw : Word := 0
  tgport : Nat := 0
  twin : Nat := 1
  ca : Nat := 1
  deriving DecidableEq, Repr

/-- Station record with its substitute values. -/
structure Station where
  stn : Nat
  src : Nat
  proto : Nat
  addr : Nat
  unit : Nat
  subst : Nat
  wordmode : Nat
  tls : Bool
  secondary : Bool
  inbase : Nat
  incnt : Nat
  outbase : Nat
  outcnt : Nat
  rreg : Nat
  wreg : Nat
  canid : Nat
  rfc : Nat
  retry : Nat
  period : Nat
  phase : Nat
  tout : Nat
  substv : List (Nat × Word) := []
  /-- GOOD, and the FRAME_NO of the last valid unit -/
  good : Bool := false
  lastAt : Option Nat := none
  /-- a request is outstanding, with attempts already failed -/
  busy : Bool := false
  tries : Nat := 0
  /-- writes outstanding, oldest first: 1 where it was counted as undelivered when due, 2 where it resynchronises (R247);
  whether the oldest was placed before the outstanding request -/
  writes : List Nat := []
  wfirst : Bool := false
  /-- units of M-Bus outstanding that go before a request: SND_NKE and selection (R473) -/
  pre : Nat := 0
  /-- frame count bit of M-Bus, 1 after SND_NKE (EN 13757-2) -/
  fcb : Bool := true
  /-- last accepted telegram: salt and sequence; fields as number, value, valid, FRAME_NO -/
  tsalt : List Byte := []
  tseq : Nat := 0
  fields : List (Nat × Word × Bool × Nat) := []
  /-- words of an accepted telegram waiting for step 1 -/
  pendIn : List (Nat × Word) := []
  /-- own command telegrams: next TSEQ, and those not confirmed with the frame of sending and the write's kind -/
  cseq : Nat := 0
  cpend : List (Nat × Nat × Nat) := []
  /-- undelivered output writes and their count, resynchronisation, GOOD to STALE transitions (R247) -/
  undlv : Bool := false
  resync : Bool := false
  /-- back to GOOD with no write placed since -/
  fresh : Bool := false
  sundlv : Nat := 0
  drops : Nat := 0
  deriving DecidableEq, Repr

structure SrvWindow where
  unit : Nat
  rbase : Nat
  rcnt : Nat
  wbase : Nat
  wcnt : Nat
  wordmode : Nat
  deriving DecidableEq, Repr

/-- IEC 104 point with the value last reported. -/
structure IecPoint where
  ioa : Nat
  typ : Nat
  srck : Nat
  addr : Nat
  bit : Nat
  deadband : Word
  last : Option Word := none
  deriving DecidableEq, Repr

structure QBinding where
  queue : Nat
  exe : Nat
  prio : Nat
  src : Nat
  stream : Nat
  port : Nat
  deriving DecidableEq, Repr

structure Ports where
  eth : List EthCfg := List.replicate 4 {}
  stations : List Station := []
  windows : List SrvWindow := []
  points : List IecPoint := []
  bindings : List QBinding := []
  /-- TSALT of this start-up (R465) -/
  tsalt : Option (List Byte) := none
  /-- port-control entries to be placed (again): source numbers (R457) -/
  ctl : List Nat := []
  /-- writes of clients to be done at step 7: word address, the bits written, and value -/
  srvWrites : List (Nat × Word × Word) := []
  deriving DecidableEq, Repr

/-- An outstanding request timer of the hub (R456). -/
structure ReqTimer where
  src : Nat
  stn : Nat
  /-- hub time in frames at which it expires -/
  due : Nat
  /-- which opening of its connection a Modbus TCP request went out on -/
  gen : Nat := 0
  /-- the outcome its expiry reports: 1 no response, 2 a unit that expects none has been transmitted -/
  code : Nat := 1
  deriving DecidableEq, Repr

/-- A transmission waiting in a port queue (R103): source, connection + 1 of a TCP unit or 0, the output frame
it came from, and its entry. -/
structure TxWait where
  src : Nat
  conn : Nat
  frame : Nat
  data : List Byte
  deriving DecidableEq, Repr

/-- A CAN controller of the hub (R471, R472). -/
structure CanPort where
  mode : Nat := 0
  oneshot : Bool := false
  nbr : Nat := 0
  dbr : Nat := 0
  /-- 0 error active, 1 error passive, 2 bus-off, 3 recovering -/
  state : Nat := 0
  txc : Nat := 0
  rxc : Nat := 0
  fdSeen : Bool := false
  abRate : Nat := 1000
  abLock : Option (Nat × Nat) := none
  /-- autobaud: hub time at which this rate began, and consecutive error-free frames at it (R471) -/
  abSince : Nat := 0
  abGood : Nat := 0
  /-- station numbers of the frames in the transmit buffers, at most 32 (R470) -/
  tx : List Nat := []
  /-- CK_CAN has failed: the port takes no part on the bus (R70) -/
  stopped : Bool := false
  deriving DecidableEq, Repr

/-- An M-Bus master of the hub (R473). -/
structure MbusPort where
  on : Bool := false
  ovc : Bool := false
  ibus : Nat := 0
  /-- hub times of the last overcurrent trip and of automatic re-powers -/
  trip : Nat := 0
  repower : List Nat := []
  deriving DecidableEq, Repr

/-- A Vangilo Link session (R402, R461, R462). Port 4 is the service port. -/
structure Session where
  ident : Nat
  port : Nat
  role : SessRole
  /-- register map pages subscribed, and hub time of the last message -/
  subs : BitVec 256 := 0
  lastAt : Nat := 0
  /-- tags of transactions handed over and not answered -/
  open_ : List Nat := []
  /-- which opening of this session number it is: answers of an earlier one are lost (R56) -/
  gen : Nat := 0
  deriving DecidableEq, Repr

/-- A TCP connection of E1 (R458, R466, R467, R469): service 1 Modbus client, 2 server, 3 IEC 104. -/
structure TcpConn where
  num : Nat
  svc : Nat
  port : Nat
  addr : Nat
  tls : Bool := false
  operate : Bool := false
  outstanding : Nat := 0
  /-- which opening of this connection number it is -/
  gen : Nat := 0
  /-- IEC 104: started, unacknowledged sent and received frames, test frame sent, queued ASDUs -/
  started : Bool := false
  vs : Nat := 0
  vr : Nat := 0
  unackRx : Nat := 0
  testSent : Bool := false
  queue : List (List Byte) := []
  deriving DecidableEq, Repr

/-- A PTP message as it leaves (R370): its port, whether it goes over IEEE 802.3 or UDP/IPv4, domainNumber, the sender's clock
identity, messageType and sequenceId; the time it carries, the correction field, the identity it answers (0 none), and the
data set, UTC offset and logMessageInterval of those that have them. -/
structure PtpOut where
  port : Nat
  l2 : Bool
  domain : Nat
  who : Dword
  kind : Nat
  seq : Nat
  time : Int := 0
  corr : Int := 0
  dest : Dword := 0
  ds : List Nat := []
  utc : Int := 0
  interval : Int := 0x7F
  deriving DecidableEq, Repr

/-- What the active lane's E1 sends on a session or service, newest last; the MODEL's record of
traffic that leaves the block. -/
inductive Sent where
  | answer (session tag fno : Nat) (codes : List Half)
  | readAnswer (session tag fno : Nat) (vals : List (Word × Half))
  | event (session page : Nat) (irqs : Word) (fno : Nat)
  | refuse (session tag : Nat) (code : Half)
  | port (src : Nat) (data : List Byte)
  /-- the device certificate a TLS handshake presents, with slot 2 (17_security.md R402) -/
  | serverCert (session : Nat) (cert : List Byte)
  /-- a byte of lane memory the debug function read (17_security.md R405) -/
  | debugByte (lane : LaneId) (addr : Nat) (value : Byte)
  /-- the hub's own answer to an ARP or ICMP echo request -/
  | reply (port : Nat) (icmp : Bool)
  /-- a PTP message the owner's E2 sends -/
  | ptp (m : PtpOut)
  deriving DecidableEq, Repr

/-- A frame-consistent read waiting for the apply instant of `fno` (R57). -/
structure WaitRead where
  session : Nat
  tag : Nat
  role : SessRole
  addrs : List Word
  fno : Nat
  deriving DecidableEq, Repr

/-- A fabric frame in the egress queue of a link and class, with the hub time in ns at which it came (20_rogon_fabric.md R436). -/
structure EgFrame where
  link : Nat
  tc : Nat
  since : Nat
  data : List Byte
  deriving DecidableEq, Repr

/-- Ports, sessions and connections outside the lanes. -/
structure HubPorts where
  /-- egress queues of the fabric switch in order of arrival, and the hub time in ns at which each link is free -/
  egr : List EgFrame := []
  egLine : List (Nat × Nat) := []
  ethLink : List Nat := List.replicate 4 0
  timers : List ReqTimer := []
  txq : List TxWait := []
  /-- hub time, in µs, at which the line of a port is free, by source (R103) -/
  line : List (Nat × Nat) := []
  /-- ports whose last request has expired unanswered, with nothing sent since: the next unit is late (R456) -/
  late : List Nat := []
  can : List CanPort := List.replicate 4 {}
  mb : List MbusPort := List.replicate 2 {}
  sessions : List Session := []
  /-- sessions and client connections opened so far -/
  opens : Nat := 0
  conns : List TcpConn := []
  /-- hub time of the last attempt to open a client connection, by server address and port -/
  tried : List (Nat × Nat × Nat) := []
  waits : List WaitRead := []
  /-- RC clears handed over and not yet applied: address and value (R58) -/
  rcPend : List (Word × Word) := []
  links : List HubLink := List.replicate 4 {}
  /-- the switch keeps what the owner lane's E1 loaded last (R444, R445): its route table, the module's identifier, and
  the enabled links -/
  routes : List Route := []
  modid : Nat := 0
  linkEn : BitVec 4 := 0
  /-- traffic sent by this command's frame or session, newest last -/
  sent : List Sent := []
  deriving DecidableEq, Repr

/-! ### Operator display (22_display.md) -/

/-- The display section of the configuration, Table DSP-1. -/
structure DispCfg where
  hact : Nat := 0
  hfp : Nat := 0
  hsw : Nat := 0
  hbp : Nat := 0
  vact : Nat := 0
  vfp : Nat := 0
  vsw : Nat := 0
  vbp : Nat := 0
  pixkhz : Nat := 0
  flags : Nat := 0
  /-- gamma tables, entry 256 × colour + index; empty without a section -/
  gamma : List Nat := []
  /-- DSP and PNL registers as the section gave them, by key: what SRST returns them to -/
  regs0 : List (Nat × Word) := []
  deriving DecidableEq, Repr

/-- What the controller takes from the DSP and PNL pages of the owner lane, and keeps while no lane runs (R477, R488). -/
structure DispSet where
  en : Bool := false
  crcmax : Nat := 60
  crcact : Bool := false
  stalems : Nat := 60000
  vcom : Nat := 0
  blen : Nat := 0
  deriving DecidableEq, Repr

/-- The display controller with its two buffers; a buffer is the list of drawing operations applied to
it, since the glyphs of R484 are not given. -/
structure Display where
  cfg : DispCfg := {}
  /-- each buffer as the words of the lists painted into it, since its last CLEAR; the front buffer's CRC as
  handed over -/
  front : List Word := []
  frontCrc : Option Word := none
  back : List Word := []
  /-- CRC of a finished render waiting for the vertical blank -/
  ready : Option Word := none
  /-- list being rendered, the newest list waiting, and the last list rendered with its hub time -/
  render : Option (List Word) := none
  newest : Option (List Word) := none
  last : Option (List Word × Nat) := none
  on : Bool := false
  set : DispSet := {}
  /-- hub time at which the running rail sequence ends, and at which the panel's power-up began -/
  seqEnd : Nat := 0
  onAt : Nat := 0
  /-- number of the refresh, modulo 4: the phase of the dithering (R475) -/
  refreshNo : Nat := 0
  /-- hub time of the last rail fault -/
  faultAt : Nat := 0
  rflt : Bool := false
  rfrail : Nat := 0
  lockout : Bool := false
  /-- hub times of power-up attempts after faults -/
  tries : List Nat := []
  stale : Bool := false
  crcErrRun : Nat := 0
  crcalm : Bool := false
  blanked : Bool := false
  backlight : Bool := false
  blopen : BitVec 4 := 0
  blshort : BitVec 4 := 0
  /-- active and shadow gamma tables, entry 256 × colour + index -/
  gamma : List Nat := List.replicate 768 0
  shadow : List Nat := List.replicate 768 0
  commit : Bool := false
  /-- VCOM as driven, in 10 mV -/
  vcom : Nat := 0
  /-- hub time of the last swap, and counts -/
  swapAt : Nat := 0
  swaps : Nat := 0
  crcErr : Nat := 0
  lastCrc : Word := 0
  dlbad : Bool := false
  dlerr : Nat := 0
  dlrej : Nat := 0
  deriving DecidableEq, Repr

/-- Writes of the PNL page a lane hands to the controller at the end of step 2: GCOMMIT, RESTART, a write of
BLEN, and shadow gamma entries (R479, R481, R482). -/
structure PanelReq where
  commit : Bool := false
  restart : Bool := false
  blen : Bool := false
  gdata : List (Nat × Nat) := []
  /-- SRST of DSP and of PNL (Table REG-4) -/
  dspReset : Bool := false
  pnlReset : Bool := false
  deriving DecidableEq, Repr

/-! ### Frames: arrivals, input frames, output frames (04_frame.md) -/

/-- A DI edge record of Table FRM-9; the time is in ns of the frame timebase, and relative to the frame in an arrival. -/
structure DiEdge where
  din : Nat
  level : Bool
  ns : Int
  deriving DecidableEq, Repr

/-- The payload of an arrival. -/
inductive ArrBody where
  /-- source 0x01: AI in µA, the status block of Table PWR-3, the verdict (R114) -/
  | analog (ai : List Nat) (block : List Word) (v : Verdict)
  /-- source 0x02, Table FRM-9; times relative to the frame start -/
  | digital (di : Word) (pcnt : List Word) (edges : List DiEdge) (edrop : Nat)
  /-- source 0x03, Table MET-2 -/
  | metering (w : MetWindow)
  /-- source 0x04: a write transaction of a session, given by `Session.key` -/
  | write (session : Nat) (tag : Nat) (role : SessRole) (entries : List WriteEntry)
      (entropy : List Byte)
  /-- source 0x04: the clear of an RC register's returned value (R58) -/
  | rcClear (addr : Word) (value : Word)
  /-- source 0x04: any other request handed over by E1 or E0 -/
  | lane (r : LaneReport)
  /-- KIND 0x03 of Table PRT-1, with the client's right to write as the active lane's E1 knows it -/
  | adu (conn svc : Nat) (operate : Bool) (data : List Byte)
  /-- a port or fabric arrival -/
  | port (b : PortBody)
  deriving DecidableEq, Repr

/-- An arrival with its header, Table FRM-2; `tcmp` is in ns of the frame timebase while the arrival waits, and relative to
the start of its frame in a closed frame. -/
structure Arrival where
  src : Nat
  deferred : Bool := false
  seq : Nat
  len : Nat
  tcmp : Int
  body : ArrBody
  deriving DecidableEq, Repr

/-- The trailer of an input frame, Table FRM-3. -/
structure Trailer where
  fno : Nat
  acnt : Nat
  /-- network time at the frame start, in ns -/
  nt : Int
  sync : Sync
  calq : Bool
  cal : Dword
  flen : Nat
  /-- CRC-32C over all arrivals, and over the trailer before it -/
  acrc : Word := 0
  tcrc : Word := 0
  deriving DecidableEq, Repr

structure InputFrame where
  trailer : Trailer
  arrivals : List Arrival
  deriving DecidableEq, Repr

/-- The payload of an output entry. -/
inductive OutBody where
  /-- class 0x01: DO states and AO currents in µA -/
  | plant (dout : BitVec 16) (ao : List Nat)
  /-- class 0x02: pulse width in ms -/
  | pulse (width : Nat)
  /-- classes 0x03 and 0x04: payload bytes -/
  | bytes (data : List Byte)
  /-- class 0x05: a store request -/
  | nv (r : NvReq)
  /-- class 0x05, destination 0x30: a calendar command -/
  | cal (c : CalCmd)
  deriving DecidableEq, Repr

structure OutEntry where
  cls : Nat
  dest : Nat
  body : OutBody
  deriving DecidableEq, Repr

/-- An output frame with the fields of its header that vary, Table FRM-4; `ok` is false where OCRC fails. -/
structure OutFrame where
  fno : Nat
  fp : Dword
  entries : List OutEntry
  ok : Bool := true
  deriving DecidableEq, Repr

/-! ### A lane -/

/-- A held RWS write (R49), bound to the window selection at the moment of the write (R236), with the frame it was made
in. -/
structure HeldWrite where
  eng : Nat
  addr : Word
  value : Word
  sel : Nat
  fno : Nat
  deriving DecidableEq, Repr

/-- One compute lane. -/
structure Lane where
  id : LaneId
  /-- the lane runs frames: it is ACTIVE, STANDBY or ALONE by its own knowledge (Table TST-5) -/
  running : Bool := false
  /-- phase of Table PWR-6 the lane is in; 0 when it is off or runs frames -/
  phase : Nat := 0
  regs : RegFile := []
  /-- the register space at the end of step 2 (R98) -/
  view : RegFile := []
  held : List HeldWrite := []
  opened : List Nat := []
  /-- IRQS bits set in this frame, which a W1C of the frame leaves set (R46) -/
  irqSet : List (Nat × Word) := []
  /-- pages whose interrupt request has risen since E1 last sent events, in order of the rise (R45, R462) -/
  rose : List Nat := []
  /-- register presets to be applied at step 2 of k0 (R393) -/
  presets : List (Nat × Word) := []
  /-- the visible input frame -/
  frame : Option InputFrame := none
  inloss : Bool := false
  /-- SEQ of the last arrival of each source (R137) -/
  lastSeq : List (Nat × Nat) := []
  /-- lane faults found in this frame: LANEFLT, DEADLINE, CRUOFF, ASYFAIL, LCLKFLT -/
  laneflt : Bool := false
  deadlineFlt : Bool := false
  /-- E6 or E7 did not hand its plant-output contributions to E0 in this frame (R219) -/
  loopsLate : Bool := false
  asyfail : Bool := false
  /-- the lane has run the steps of this frame -/
  ranFrame : Bool := false
  /-- FRAME_NO of k0 of this start-up -/
  k0 : Nat := 0
  reduced : Bool := false
  /-- FRAME_NO of the last exit from reduced mode (R66) -/
  redEnd : Option Nat := none
  /-- a module restart follows this frame -/
  restart : Option RestartReq := none
  /-- the output frame under assembly, as entries in production order -/
  out : List OutEntry := []
  /-- the previous output frame as the lane assembled it, and the entries it left out (R28) -/
  lastOut : List OutEntry := []
  leftOut : List OutEntry := []
  /-- what the hub and Touchstone received for the current frame -/
  delivered : Option OutFrame := none
  hb : Option Heartbeat := none
  /-- the status block of the previous frame, the baseline of the PWR and CLK events (R73) -/
  prevBlock : Option (List Word) := none
  met : Metering := {}
  heat : Heating := {}
  nv : NvLane := {}
  time : TimeLane := {}
  ptp : PtpPort := {}
  /-- transmit timestamp queue (R369), oldest first -/
  tsq : List TsEntry := []
  queues : List Queue := List.replicate 64 {}
  pat : Patina := {}
  loops : List (Nat × Loop) := []
  trc : Trace := {}
  prg : Program := {}
  slv : Solver := {}
  opt : Optimiser := {}
  sec : Security := {}
  fuses : FuseBank := {}
  asy : Assay := {}
  fab : Fabric := {}
  ports : Ports := {}
  /-- display list handed off in this frame (R485) -/
  dlist : Option (List Word) := none
  panel : PanelReq := {}
  /-- DO states of the quench image that the hub has in use (R138) -/
  qdo : BitVec 16 := 0
  /-- display section as installed (R476) -/
  dispCfg : DispCfg := {}
  /-- FRAME_NO of the last write of MAXBUSY, by page (Table ARC-7) -/
  busyFrom : List (Nat × Nat) := []
  /-- bytes of lane memory that a debug access wrote (R405) -/
  mem : List Host.Cell := []
  /-- status per entry of the transactions applied in this frame: `Session.key`, tag, FRAME_NO, codes (R56) -/
  answers : List (Nat × Nat × Nat × List Half) := []
  deriving DecidableEq, Repr

/-! ### The hub and the whole block -/

/-- Outputs the hub drives (R29, R69). -/
structure Outputs where
  dout : BitVec 16 := 0
  ao : List Nat := List.replicate 8 0
  hwoff : Bool := true
  quench : Bool := false
  /-- frames each pulse output still holds its pulse (R315) -/
  pulses : List Nat := List.replicate 16 0
  /-- FRAME_NO of the command each pulse came from -/
  pulseFno : List Nat := List.replicate 16 0
  /-- quench image loaded by the hub: DOQ and AOQ -/
  qdo : BitVec 16 := 0
  qao : List Nat := List.replicate 8 0
  qvalid : Bool := false
  /-- a written PIO record takes effect at the next apply instant (R138) -/
  qnext : Option (BitVec 16 × List Nat) := none
  deriving DecidableEq, Repr

/-- The I/O hub. -/
structure Hub where
  fno : Nat := 0
  /-- frames since the hub was powered: the clock of the hub's own timers -/
  upFrames : Nat := 0
  running : Bool := false
  /-- start of the current frame on the frame timebase, which is never stepped (R92), in ns -/
  tb : Int := 0
  /-- length of the current frame, and of the one before -/
  flen : Nat := 1000000
  flenPrev : Nat := 1000000
  rnfno : Nat := 0
  clk : LocalClock := {}
  di : Word := 0
  edges : List DiEdge := []
  edrop : Nat := 0
  pcnt : List Word := List.replicate 16 0
  /-- arrivals complete and not yet in a closed frame, in order of completion -/
  waiting : List Arrival := []
  seqs : List (Nat × Nat) := []
  /-- the apply instant of this frame has passed -/
  applied : Bool := false
  closed : Option InputFrame := none
  /-- the verdict carried by the next source 0x01 arrival -/
  verdict : Verdict := {}
  outs : Outputs := {}
  ports : HubPorts := {}
  disp : Display := {}
  /-- hub time at which the lamp test of R508 ends -/
  lamp : Option Nat := none
  deriving DecidableEq, Repr


/-- The whole block. -/
structure State where
  laneA : Lane
  laneB : Lane
  hub : Hub
  ts : Touchstone
  pwr : Power
  startup : Option Startup
  nv : NvStore
  cal : Calendar
  /-- MODEL's own: numbers the free values drawn so far (assumption log 2) -/
  free : Nat
  /-- commands waiting, first in, first out -/
  pending : List Instr
  deriving DecidableEq, Repr

/-- The module with no supply, as it leaves the factory (00_scope.md R3): no lane runs, the outputs are
in the hardware-off state (R69), no command waits. -/
def State.reset : State where
  laneA := { id := .a }
  laneB := { id := .b }
  hub := {}
  ts := {}
  pwr := {}
  startup := none
  nv := {}
  cal := {}
  free := 0
  pending := []

end Sys2Proof.Machine
end

