-- ==== Sys2Proof/Machine/Ops.lean ====
section
/-! DEFINITION. The named operations every meaning is written with: registers and their fields,
status codes and interrupts, the lanes, arrivals, and entries of the output frame. -/

namespace Sys2Proof.Machine

/-! ### Registers (02_register_pages.md) -/

/-- Reset value of a header register (Tables REG-1 to REG-7). -/
def headerReset (row : PageRow) (page off : Nat) : Nat :=
  if off = 0x000 then 0x01000D00 + row.first + (page - row.first) * 0x10000
  else if off = 0x008 then (if row.enReset then 1 else 0)
  else 0

/-- Reset value of the register at byte offset `key` of the register space. -/
def resetWord (key : Nat) : Word :=
  match pageRow (key / 0x1000) with
  | none => 0
  | some row =>
    let off := key % 0x1000
    if off < 0x040 then .ofNat 32 (headerReset row (key / 0x1000) off)
    else .ofNat 32 (row.fields.foldl (fun a f => if f.covers off then a + f.reset * 2 ^ f.lo else a) 0)

def bits (w : Word) (hi lo : Nat) : Nat := (w.toNat / 2 ^ lo) % 2 ^ (hi + 1 - lo)

def withBits (w : Word) (hi lo v : Nat) : Word :=
  .ofNat 32 (w.toNat - bits w hi lo * 2 ^ lo + (v % 2 ^ (hi + 1 - lo)) * 2 ^ lo)

def Lane.reg (l : Lane) (key : Nat) : Word := kvGetD resetWord l.regs key
def Lane.setReg (l : Lane) (key : Nat) (w : Word) : Lane := { l with regs := kvSetD resetWord l.regs key w }

def Lane.get (l : Lane) (f : Fld) : Nat := bits (l.reg f.key) f.hi f.lo
def Lane.on (l : Lane) (f : Fld) : Bool := decide (l.get f ≠ 0)
def Lane.getW (l : Lane) (f : Fld) : Word := .ofNat 32 (l.get f)
def Lane.getI (l : Lane) (f : Fld) : Int := toSigned f.width (l.get f)
def Lane.put (l : Lane) (f : Fld) (v : Nat) : Lane := l.setReg f.key (withBits (l.reg f.key) f.hi f.lo v)
def Lane.putB (l : Lane) (f : Fld) (b : Bool) : Lane := l.put f (if b then 1 else 0)
def Lane.putI (l : Lane) (f : Fld) (v : Int) : Lane := l.put f (ofSigned f.width v)
/-- A count that saturates (the "saturating" fields). -/
def Lane.inc (l : Lane) (f : Fld) (n : Nat := 1) : Lane := l.put f (satAdd f.width (l.get f) n)
/-- A register pair, low word first (R41). -/
def Lane.get64 (l : Lane) (lo hi : Fld) : Nat := l.get lo + l.get hi * 2 ^ 32
def Lane.put64 (l : Lane) (lo hi : Fld) (v : Nat) : Lane := (l.put lo (v % 2 ^ 32)).put hi (v / 2 ^ 32)
def Lane.inc64 (l : Lane) (lo hi : Fld) (n : Nat := 1) : Lane :=
  l.put64 lo hi ((l.get64 lo hi + n) % 2 ^ 64)

/-- A page that works on the network model: NET, SOL, SOLD, OPT and OPTD (R140). -/
def modelPage (page : Nat) : Bool := decide (0x10 ≤ page ∧ page ≤ 0x14)

/-- CTRL.EN of a page. Without a model the pages of R140 refuse every operation with DISABLED. -/
def Lane.enabled (l : Lane) (page : Nat) : Bool :=
  (l.reg (page * 0x1000 + 0x008)).getLsbD 0 && (!modelPage page || l.on R.NET.LOADED)

/-- IRQS AND IRQE of a page: its interrupt request is the OR over all bits (R45). -/
def Lane.irqLine (l : Lane) (page : Nat) : Word := l.reg (page * 0x1000 + 0x010) &&& l.reg (page * 0x1000 + 0x014)

/-- The page joins the list of those whose interrupt request has risen, where it was low in `before`. -/
def Lane.noteRise (l before : Lane) (page : Nat) : Lane :=
  { l with rose := if before.irqLine page = 0 ∧ l.irqLine page ≠ 0 ∧ page ∉ l.rose then l.rose ++ [page] else l.rose }

/-- Sets bit `b` of IRQS of a page; a W1C of this frame leaves it set (R46). -/
def Lane.irqBit (l : Lane) (page b : Nat) : Lane :=
  let k := page * 0x1000 + 0x010
  Lane.noteRise { l.setReg k (l.reg k ||| (1 <<< b)) with
    irqSet := kvSet 0 l.irqSet page (kvGet 0 l.irqSet page ||| (1 <<< b)) } l page

def Lane.irq (l : Lane) (f : Fld) : Lane := l.irqBit f.page f.lo
def Lane.irqIf (l : Lane) (c : Bool) (f : Fld) : Lane := if c then l.irq f else l

/-- Posts a status code, page index in bits [15:8], to ERRC of its page (Table REG-6, R52). -/
def Lane.post (l : Lane) (code : Nat) : Lane :=
  if code % 256 = 0 then l
  else (l.setReg (code / 256 * 0x1000 + 0x01C) (.ofNat 32 code)).irqBit (code / 256) 0

/-- Posts `code` where it is not 0. -/
def Lane.postIf (l : Lane) (c : Bool) (code : Nat) : Lane := if c then l.post code else l

/-- Drops every register of `page` that differs from its reset value, but for CTRL.EN (Table REG-4). -/
def Lane.clearPage (l : Lane) (page : Nat) : Lane :=
  { l with regs := l.regs.filter fun kv => decide (kv.1 / 0x1000 ≠ page) || decide (kv.1 % 0x1000 = 0x008) }

/-- FRAME_NO as the trailer of the current frame gave it (R97). -/
def Lane.fno (l : Lane) : Nat := l.get64 R.FRAME.FNO_L R.FRAME.FNO_H

/-- MODE and role codes of Tables TST-2 and TST-5. -/
def TsMode.code : TsMode → Nat
  | .start => 0 | .compared => 1 | .resolving => 2 | .single => 3 | .transfer => 4 | .tslost => 5 | .quench => 6

def Role.code : Role → Nat
  | .off => 0 | .boot => 1 | .standby => 2 | .active => 3 | .alone => 4 | .receive => 5 | .unfit => 6 | .failed => 7

def Owner.code : Owner → Nat
  | .held => 0 | .laneA => 1 | .laneB => 2 | .quench => 3

def Cmp.code : Cmp → Nat
  | .equal => 0 | .differ => 1 | .absentA => 2 | .absentB => 3 | .absentBoth => 4 | .notCompared => 5

/-- Module mode as the lane knows it from the last verdict. -/
def Lane.mode (l : Lane) : Nat := l.get R.TST.MODE
def Lane.compared (l : Lane) : Bool := decide (l.mode = 1)
def Lane.role (l : Lane) : Nat := match l.id with
  | .a => l.get R.TST.ROLEA
  | .b => l.get R.TST.ROLEB

/-! ### The lanes -/

def State.lane (s : State) : LaneId → Lane
  | .a => s.laneA
  | .b => s.laneB

def State.setLane (s : State) (x : LaneId) (l : Lane) : State := match x with
  | .a => { s with laneA := l }
  | .b => { s with laneB := l }

/-- `f` on one lane. -/
def onLane (x : LaneId) (f : Lane → Lane) (s : State) : State := s.setLane x (f (s.lane x))

/-- `f` on one lane where it runs frames. -/
def onRunningLane (x : LaneId) (f : Lane → Lane) (s : State) : State :=
  if (s.lane x).running then onLane x f s else s

def runIf (f : Lane → Lane) (l : Lane) : Lane := if l.running then f l else l

/-- `f` on both lanes, where they run frames: equal arrivals act on both (R22). -/
def onLanes (f : Lane → Lane) (s : State) : State :=
  { s with laneA := runIf f s.laneA, laneB := runIf f s.laneB }

def Touchstone.role (t : Touchstone) : LaneId → Role
  | .a => t.roleA
  | .b => t.roleB

def Touchstone.setRole (t : Touchstone) (x : LaneId) (r : Role) : Touchstone := match x with
  | .a => { t with roleA := r }
  | .b => { t with roleB := r }

/-- The active lane (Table ARC-6): ACTIVE or ALONE, or the latched lane under Touchstone loss (R134). -/
def State.activeId (s : State) : Option LaneId :=
  if s.ts.lost then s.ts.latched
  else if s.ts.roleA = .active ∨ s.ts.roleA = .alone then some .a
  else if s.ts.roleB = .active ∨ s.ts.roleB = .alone then some .b
  else none

def State.active (s : State) : Option Lane := s.activeId.map s.lane

/-- Draws a number for a free value (assumption log 2). -/
def State.draw (s : State) : Nat × State := (s.free, { s with free := s.free + 1 })

/-- `n` free words as bytes. -/
def State.drawWords : Nat → State → List Byte × State
  | 0, s => ([], s)
  | n + 1, s =>
    let r := s.draw.2.drawWords n
    (wordsLe [Config.freeWord s.free] ++ r.1, r.2)

/-! ### Arrivals (01_architecture.md Table ARC-3, 04_frame.md R95) -/

/-- Quota per frame in bytes, 0 for a number that is no source. -/
def srcQuota (src : Nat) : Nat :=
  if src = 0x01 then 64
  else if src = 0x02 then 256
  else if src = 0x03 then 12 * 1024
  else if src = 0x04 then 16 * 1024
  else if src = 0x05 then 1024
  else if 0x10 ≤ src ∧ src ≤ 0x13 then 128 * 1024
  else if 0x14 ≤ src ∧ src ≤ 0x17 then 96 * 1024
  else if 0x18 ≤ src ∧ src ≤ 0x1B then 1024
  else if 0x1C ≤ src ∧ src ≤ 0x21 then 256
  else 0

/-- Header, payload and padding. -/
def Arrival.size (a : Arrival) : Nat := 12 + pad4 a.len

def sizeOfSrc (src : Nat) (l : List Arrival) : Nat :=
  l.foldl (fun n a => if a.src = src then n + a.size else n) 0

/-- An instant of a frame, in ns from its start, as the CK_PTP cycle of 4 ns it falls in (R86). -/
def ptpCycle (t : Int) : Int := t - t % 4

/-- Completion time first, then source number (R23). -/
def arrInsert (a : Arrival) : List Arrival → List Arrival
  | [] => [a]
  | b :: l => if a.tcmp < b.tcmp ∨ (a.tcmp = b.tcmp ∧ a.src < b.src) then a :: b :: l else b :: arrInsert a l

/-- An arrival completes `t` ns after the start of the current frame: it takes the next SEQ of its source
and waits for a frame, or is discarded where the source's backlog would exceed four quotas (R24, R95). -/
def Hub.complete (h : Hub) (src len : Nat) (t : Int) (body : ArrBody) : Hub :=
  let seq := kvGet 0 h.seqs src
  let a : Arrival := { src, seq, len, tcmp := h.tb + ptpCycle t, body }
  let h := { h with seqs := kvSet 0 h.seqs src ((seq + 1) % 65536) }
  if sizeOfSrc src h.waiting + a.size > 4 * srcQuota src then h else { h with waiting := arrInsert a h.waiting }

/-- E1 hands an arrival of source 0x04 over at `t` or, where that is later, with the one it handed over last: a source
completes in the order of its hand-overs (R95, 21_field_ports.md R462; the instant is a DESIGN CHOICE, assumption log
124). -/
def Hub.handOver (h : Hub) (len : Nat) (t : Int) (body : ArrBody) : Hub :=
  h.complete 0x04 len (h.waiting.foldl (fun m a => if a.src = 0x04 then max m (a.tcmp - h.tb) else m) t) body

/-- Assigns waiting arrivals to the frame that closes: those that fit their source's quota, without
reordering within a source; the others wait, deferred (R21, R24). -/
def assign : List Arrival → List Nat → List (Nat × Nat) → List Arrival × List Arrival
  | [], _, _ => ([], [])
  | a :: l, blocked, used =>
    let n := kvGet 0 used a.src + a.size
    if blocked.contains a.src ∨ n > srcQuota a.src then
      let r := assign l (a.src :: blocked) used
      (r.1, { a with deferred := true } :: r.2)
    else
      let r := assign l blocked (kvSet 0 used a.src n)
      (a :: r.1, r.2)

/-! ### The output frame under assembly (04_frame.md R101) -/

def Lane.emit (l : Lane) (cls dest : Nat) (body : OutBody) : Lane := { l with out := l.out ++ [⟨cls, dest, body⟩] }

/-- Payload length in bytes of an entry (the plant output payload is DESIGN CHOICE, assumption log 4). -/
def OutBody.len : OutBody → Nat
  | .plant _ _ => 20
  | .pulse _ => 4
  | .bytes d => d.length
  | .nv r => 16 + r.data.length
  | .cal (.set _) => 12
  | .cal (.alarm _ r) => 4 + r.length
  | .cal (.utc r) => 4 + r.length

def OutEntry.size (e : OutEntry) : Nat := 8 + pad4 e.body.len

/-! ### Lists of 32-bit values -/

def Lane.lifeCycle (l : Lane) : Nat := l.sec.lcState
/-- Configuration runs in FIELD and FIELD_DEBUG (17_security.md Table SEC-1). -/
def Lane.runsConfig (l : Lane) : Bool := l.lifeCycle == 2 || l.lifeCycle == 3

/-- The stamp of a frame: FRAME_NO and the calendar reading in BCD form as the trailer gave it. -/
def Lane.trailer (l : Lane) : Trailer := match l.frame with
  | some f => f.trailer
  | none => { fno := l.fno, acnt := 0, nt := 0, sync := .free, calq := false, cal := 0, flen := 1000000 }

def Lane.arrivals (l : Lane) : List Arrival := match l.frame with
  | some f => f.arrivals
  | none => []

end Sys2Proof.Machine
end

