-- ==== Sys2Proof/Machine/Display.lean ====
section
/-! DEFINITION. The operator display (22_display.md): display section, lists and rendering, the controller with
its rails, backlight and gamma tables; and the front LEDs (23_physical.md R507, R508). -/

namespace Sys2Proof.Machine

/-! ### The section (R474, R476) -/

structure DispSection where
  cfg : DispCfg
  avdd : Nat
  vgh : Nat
  vgl : Int
  vcom : Nat
  blcur : Nat
  bldim : Nat
  blen : Nat
  crcmax : Nat
  crcact : Nat
  stalems : Nat
  gamma : List Nat
  deriving DecidableEq, Repr

def DispCfg.ht (c : DispCfg) : Nat := c.hact + c.hfp + c.hsw + c.hbp
def DispCfg.vt (c : DispCfg) : Nat := c.vact + c.vfp + c.vsw + c.vbp
/-- Refresh rate in 0.01 Hz. -/
def DispCfg.refresh (c : DispCfg) : Nat := if c.ht * c.vt = 0 then 0 else c.pixkhz * 100000 / (c.ht * c.vt)

/-- The section, or 0x5040. -/
def dispSection (b : List Byte) : Except Nat DispSection :=
  let inR (x lo hi : Nat) : Bool := decide (lo ≤ x) && decide (x ≤ hi)
  let c : DispCfg := { hact := u16At b 0, hfp := u16At b 2, hsw := u16At b 4, hbp := u16At b 6, vact := u16At b 8, vfp := u16At b 10
                       vsw := u16At b 12, vbp := u16At b 14, pixkhz := u32At b 16, flags := u8At b 20 }
  let d : DispSection := {
    cfg := c, avdd := u16At b 22, vgh := u16At b 24, vgl := i16At b 26, vcom := u16At b 28, blcur := u16At b 30, bldim := u16At b 32
    blen := u8At b 34, crcmax := u8At b 35, crcact := u8At b 36, stalems := u16At b 38, gamma := (List.range 768).map fun i => u16At b (44 + 2 * i) }
  let porch := [c.hfp, c.hsw, c.hbp, c.vfp, c.vsw, c.vbp].all fun x => inR x 1 1023
  let ok := inR c.hact 320 1280 && inR c.vact 240 800 && porch && decide (c.ht ≤ 2047) && decide (c.vt ≤ 2047) && inR c.pixkhz 25000 83500
    && decide (50 * (c.ht * c.vt) ≤ c.pixkhz * 1000) && decide (c.pixkhz * 1000 ≤ 75 * (c.ht * c.vt)) && decide (c.flags < 16)
    && inR d.avdd 900 1500 && inR d.vgh 1500 3000 && decide (-1500 ≤ d.vgl) && decide (d.vgl ≤ -600) && inR d.vcom 200 700
    && decide (d.blcur ≤ 600) && decide (d.bldim ≤ 1000) && decide (d.blen < 16) && inR d.crcmax 1 60 && decide (d.crcact ≤ 1)
    && inR d.stalems 500 60000 && d.gamma.all (fun g => decide (g ≤ 1023)) && u8At b 21 == 0 && u8At b 37 == 0 && u32At b 40 == 0
  if b.length ≠ 1584 ∨ u32At b 1580 ≠ (crc32c (b.take 1580)).toNat ∨ !ok then .error 0x5040 else .ok d

def Lane.installDisplay (l : Lane) (d : DispSection) : Lane :=
  let en (l : Lane) (p : Nat) : Lane := l.setReg (p * 0x1000 + 8) (withBits (l.reg (p * 0x1000 + 8)) 0 0 1)
  let l := (((l.put R.DSP.HACT d.cfg.hact).put R.DSP.VACT d.cfg.vact).put R.DSP.PIXKHZ d.cfg.pixkhz).put R.DSP.REFRESH d.cfg.refresh
  let l := ((l.put R.DSP.CRCACT d.crcact).put R.DSP.CRCMAX d.crcmax).put R.DSP.STALEMS d.stalems
  let l := (((l.put R.PNL.AVDD d.avdd).put R.PNL.VGH d.vgh).putI R.PNL.VGL d.vgl).put R.PNL.VCOM d.vcom
  let l := ((l.put R.PNL.BLCUR d.blcur).put R.PNL.BLDIM d.bldim).put R.PNL.BLEN d.blen
  let regs0 := [0x50060, 0x50064, 0x51044, 0x51048, 0x5104C].map fun k => (k, l.reg k)
  { en (en l 0x50) 0x51 with dispCfg := { d.cfg with gamma := d.gamma, regs0 } }

/-! ### Display lists (R483, R484) -/

inductive DrawCmd where
  | clear (c : Nat)
  | rect (filled : Bool) (x y w h c : Nat)
  | line (x0 y0 x1 y1 c : Nat)
  | text (font x y c : Nat) (chars : List Nat)
  deriving DecidableEq, Repr

def xOf (w : Word) : Nat := bits w 15 0
def yOf (w : Word) : Nat := bits w 31 16
def rgb (w : Word) : Nat := bits w 23 0

def digitsOf : Nat → Nat → List Nat
  | 0, _ => []
  | fuel + 1, n => if n < 10 then [0x30 + n] else digitsOf fuel (n / 10) ++ [0x30 + n % 10]

/-- The characters of NUM: half even to `dec` decimals, right-aligned in `width`. -/
def numChars (dec width : Nat) (v : Word) : List Nat :=
  let fit (cs : List Nat) : List Nat :=
    if width < cs.length then List.replicate width 0x23 else List.replicate (width - cs.length) 0x20 ++ cs
  match F32.toRat v with
  | none => fit [0x2D, 0x2D, 0x2D, 0x2D]
  | some (n, d) =>
    let a := n.natAbs * 10 ^ dec
    let q := a / d
    let r := 2 * (a % d)
    let q := if d < r ∨ (r = d ∧ q % 2 = 1) then q + 1 else q
    let frac := (digitsOf 20 (10 ^ dec + q % 10 ^ dec)).drop 1
    let body := digitsOf 60 (q / 10 ^ dec) ++ (if dec = 0 then [] else 0x2E :: frac)
    fit (if n < 0 ∧ q ≠ 0 then 0x2D :: body else body)

/-- The commands of a list, or the word offset of the first that is wrong. -/
def parseList : Nat → Nat → List Word → Except Nat (List DrawCmd)
  | 0, _, _ => .ok []
  | _, _, [] => .ok []
  | fuel + 1, ofs, h :: ws =>
    let op := bits h 31 24
    let nw := bits h 23 16
    let arg := bits h 15 0
    let a := ws.take nw
    let w (i : Nat) : Word := a.getD i 0
    let cmd : Option DrawCmd :=
      if a.length < nw then none
      else if op = 1 ∧ nw = 1 then some (.clear (rgb (w 0)))
      else if op = 2 ∧ nw = 3 then some (.rect (arg % 2 == 1) (xOf (w 0)) (yOf (w 0)) (xOf (w 1)) (yOf (w 1)) (rgb (w 2)))
      else if op = 3 ∧ nw = 3 then some (.line (xOf (w 0)) (yOf (w 0)) (xOf (w 1)) (yOf (w 1)) (rgb (w 2)))
      else if op = 4 ∧ 2 ≤ nw then
        let n := bits (w 1) 31 24
        let cs := (List.range n).map fun i => bits (w (2 + i / 4)) (8 * (i % 4) + 7) (8 * (i % 4))
        if n = 0 ∨ nw ≠ 2 + (n + 3) / 4 ∨ cs.any (fun c => decide (c < 0x20) || decide (0x7E < c)) then none
        else some (.text (arg % 4) (xOf (w 0)) (yOf (w 0)) (rgb (w 1)) cs)
      else if op = 5 ∧ nw = 3 then
        some (.text (arg % 4) (xOf (w 0)) (yOf (w 0)) (rgb (w 1)) (numChars (arg / 16 % 16) (arg / 256 % 16) (w 2)))
      else none
    match cmd with
    | none => .error ofs
    | some c => (parseList fuel (ofs + 1 + nw) (ws.drop nw)).map fun l => c :: l

/-- The colour a command gives a pixel, none where it does not cover it. -/
def DrawCmd.at (x y : Nat) : DrawCmd → Option Nat
  | .clear c => some c
  | .rect filled x0 y0 w h c =>
    let inside := decide (x0 ≤ x) && decide (x < x0 + w) && decide (y0 ≤ y) && decide (y < y0 + h)
    let edge := x == x0 || x + 1 == x0 + w || y == y0 || y + 1 == y0 + h
    if inside && (filled || edge) then some c else none
  | .line x0 y0 x1 y1 c =>
    -- the spec gives no rasterisation (assumption log 9)
    if (x = x0 ∧ y = y0) ∨ (x = x1 ∧ y = y1) ∨ Config.linePixel x0 y0 x1 y1 x y then some c else none
  | .text font x0 y0 c chars =>
    let fw := [8, 12, 16, 24].getD font 8
    let fh := [16, 24, 32, 48].getD font 16
    if x < x0 ∨ y < y0 ∨ y0 + fh ≤ y then none
    else match chars[(x - x0) / fw]? with
      | some ch => if Config.glyph font ch ((x - x0) % fw) (y - y0) then some c else none
      | none => none

/-- Commands of a buffer's content. -/
def bufferCmds (ws : List Word) : List DrawCmd := match parseList ws.length 0 ws with
  | .ok l => l
  | .error _ => []

/-- A frame-memory word of a buffer; what nothing has painted is not given. -/
def pixelOf (cmds : List DrawCmd) (x y : Nat) : Word :=
  cmds.foldl (fun w c => match c.at x y with
    | some v => .ofNat 32 v
    | none => w) (Config.framePixel x y)

/-- CRC-32 of the visible words in scan order (R485). -/
def imageCrc (c : DispCfg) (ws : List Word) : Word :=
  let cmds := bufferCmds ws
  crc32 ((List.range (c.hact * c.vact)).flatMap fun i => leBytes 4 (pixelOf cmds (i % c.hact) (i / c.hact)).toNat)

def isClear (w : Word) : Bool := bits w 31 24 == 1

/-- Words painted into a buffer that already holds `old`. -/
def paintWords (old new : List Word) : List Word :=
  if (new.head?).any isClear then new else old ++ new

/-! ### The controller -/

def Hub.setDisp (h : Hub) (f : Display → Display) : Hub := { h with disp := f h.disp }

/-- An interrupt of the DSP or PNL page on both lanes. -/
def dispIrq (f : Fld) (s : State) : State := onLanes (fun l => l.irq f) s

/-- E1 of the owner takes a list handed off (R485). -/
def Display.take (d : Display) (l : List Word) : Display :=
  if d.render.isNone ∧ d.ready.isNone then { d with render := some l } else { d with newest := some l }

/-- The last list is rendered again after 1 000 ms. -/
def Display.again (d : Display) (now : Nat) : Display :=
  match d.last with
  | some (l, t) => if t + 1000 ≤ now ∧ d.render.isNone ∧ d.ready.isNone ∧ d.newest.isNone then { d with render := some l } else d
  | none => d

def Display.nextRender (d : Display) : Display :=
  if d.render.isNone ∧ d.ready.isNone then { d with render := d.newest, newest := none } else d

/-- A render completes: the CRC is handed over, or the list is rejected. -/
def renderComplete (s : State) : State :=
  let d := s.hub.disp
  let cfg := ((s.active.map fun (l : Lane) => l.dispCfg)).getD d.cfg
  match s.activeId, d.render with
  | some _, some ws =>
    match parseList ws.length 0 ws with
    | .error o =>
      let d := { d with render := none, dlbad := true, dlerr := min o 65535, dlrej := satAdd 16 d.dlrej 1 }
      dispIrq R.DSP.I_DLBAD { s with hub := { s.hub with disp := d.nextRender } }
    | .ok _ =>
      let back := paintWords d.back ws
      { s with hub := { s.hub with disp := { d with
          render := none, back, ready := some (imageCrc cfg back), dlbad := false, last := some (ws, s.hub.upFrames), cfg := cfg } } }
  | _, _ => s

/-- The vertical blank: swap, gamma commit, one VCOM step (R480, R482, R485, R488). -/
def verticalBlank (s : State) : State :=
  let d := s.hub.disp
  if !d.on then s
  else
    let d := match d.ready with
      | some c => ({ d with front := d.back, back := d.front, frontCrc := some c, ready := none, swaps := satAdd 32 d.swaps 1
                            swapAt := s.hub.upFrames, stale := false } : Display).nextRender
      | none => d
    let d := if d.commit then { d with gamma := d.shadow, commit := false } else d
    let want := d.set.vcom
    { s with hub := { s.hub with disp := { d with refreshNo := (d.refreshNo + 1) % 4, vcom := if d.vcom < want then d.vcom + 1 else if want < d.vcom then d.vcom - 1 else d.vcom } } }

/-- A refresh whose words gave `crc` (R487). After a failure of CK_PIX there is none, and the display stays dark (R70). -/
def refreshCheck (crc : Word) (s : State) : State :=
  let d := s.hub.disp
  if !d.on ∨ s.pwr.clkFail.getLsbD 17 then s
  else match d.frontCrc with
  | none => { s with hub := { s.hub with disp := { d with lastCrc := crc } } }
  | some e =>
    if crc = e then
      { s with hub := { s.hub with disp := { d with lastCrc := crc, crcErrRun := 0, crcalm := false, blanked := false
                                                    backlight := d.backlight || d.blanked } } }
    else
      let run := d.crcErrRun + 1
      let alarm := decide (d.set.crcmax ≤ run)
      let blank := d.blanked || (alarm && d.set.crcact)
      let d' := { d with lastCrc := crc, crcErrRun := run, crcErr := satAdd 32 d.crcErr 1, crcalm := d.crcalm || alarm, blanked := blank
                         backlight := d.backlight && !blank }
      let s := { s with hub := { s.hub with disp := d' } }
      if alarm && !d.crcalm then dispIrq R.DSP.I_CRCALM s else s

def displayStale (s : State) : State :=
  let d := s.hub.disp
  if !d.on ∨ d.stale ∨ s.hub.upFrames < d.swapAt + d.set.stalems then s
  else dispIrq R.DSP.I_STALE { s with hub := { s.hub with disp := { d with stale := true } } }

/-! ### Rails and backlight (R477 to R481) -/

/-- PD_DSP is on and the panel is enabled. -/
def panelWanted (s : State) : Bool :=
  s.pwr.dom.getLsbD 9 && !s.hub.disp.rflt && !s.hub.disp.lockout && s.hub.running && s.hub.disp.set.en

def refreshMs (c : DispCfg) (n : Nat) : Nat := if c.pixkhz = 0 then 0 else (n * c.ht * c.vt + c.pixkhz - 1) / c.pixkhz

/-- The power-up sequence of Table DSP-2; a display that is blanked stays dark. -/
def panelOn (s : State) : State :=
  let d := s.hub.disp
  dispIrq R.PNL.I_ON { s with hub := { s.hub with disp := { d with
    on := true, vcom := d.set.vcom, backlight := !d.blanked, swapAt := s.hub.upFrames, onAt := s.hub.upFrames
    seqEnd := s.hub.upFrames + 25 + refreshMs d.cfg 3 } } }

/-- The panel is scanned from 15 ms on, and the backlight is lit three refreshes later (Table DSP-2). -/
def Display.scanning (d : Display) (now : Nat) : Bool := d.on && decide (d.onAt + 15 ≤ now)
def Display.lit (d : Display) (now : Nat) : Bool := d.on && d.backlight && decide (d.onAt + 15 + refreshMs d.cfg 3 ≤ now)

/-- A power-down sequence; without PD_DSP the rails go within 2 ms (R478). -/
def panelOff (fast : Bool) (s : State) : State :=
  let d := s.hub.disp
  dispIrq R.PNL.I_ON { s with hub := { s.hub with disp := { d with
    on := false, vcom := 0, backlight := false, stale := false, seqEnd := s.hub.upFrames + (if fast then 2 else 60 + refreshMs d.cfg 1) } } }

def panelUp (s : State) : State := if panelWanted s && !s.hub.disp.on then panelOn s else s
def panelDown (s : State) : State :=
  if s.hub.disp.on && !panelWanted s then panelOff (!s.pwr.dom.getLsbD 9) s else s

/-- PD_DSP has lost its supply: frame memory and controller state go (R64, R67). -/
def dispPowerOff (s : State) : State :=
  if s.pwr.dom.getLsbD 9 then s
  else
    let s := panelDown s
    let d := s.hub.disp
    { s with hub := { s.hub with disp := { d with front := [], back := [], frontCrc := none, ready := none, render := none, crcalm := false, blanked := false } } }

def attempts (d : Display) (now : Nat) : Nat := d.tries.countP fun t => decide (now < t + 3600000)

def railFault (rail : Nat) (s : State) : State :=
  if !s.hub.disp.on ∨ 3 < rail then s
  else
    let s := panelOff true s
    let d := s.hub.disp
    let lock := decide (3 ≤ attempts d s.hub.upFrames)
    let s := dispIrq R.PNL.I_RFLT { s with hub := { s.hub with disp := { d with rflt := true, rfrail := rail, faultAt := s.hub.upFrames, lockout := lock } } }
    if lock then dispIrq R.PNL.I_LOCKOUT s else s

/-- 1 s after a fault, at most three attempts in an hour. -/
def railRetry (s : State) : State :=
  let d := s.hub.disp
  let now := s.hub.upFrames
  if !d.rflt ∨ d.lockout ∨ now < d.faultAt + 1000 ∨ 3 ≤ attempts d now then s
  else panelUp { s with hub := { s.hub with disp := { d with rflt := false, tries := now :: d.tries.take 3 } } }

def stringFault (n : Nat) (short : Bool) (s : State) : State :=
  let d := s.hub.disp
  let en := d.set.blen.testBit n
  let bit := 1#4 <<< n
  if !d.lit s.hub.upFrames ∨ !en ∨ 3 < n ∨ (d.blopen ||| d.blshort).getLsbD n then s
  else dispIrq R.PNL.I_BLFLT { s with hub := { s.hub with disp :=
    if short then { d with blshort := d.blshort ||| bit } else { d with blopen := d.blopen ||| bit } } }

/-! ### What the lanes hand to the controller at the end of step 2, and its owner (R482, R486) -/

/-- Settings of the DSP and PNL pages. -/
def Lane.dispSet (l : Lane) : DispSet where
  en := l.enabled 0x50 && l.enabled 0x51
  crcmax := l.get R.DSP.CRCMAX
  crcact := l.on R.DSP.CRCACT
  stalems := l.get R.DSP.STALEMS
  vcom := l.get R.PNL.VCOM
  blen := l.get R.PNL.BLEN

def panelRequests (s : State) : State :=
  match s.active with
  | none => s
  | some l =>
    let r := l.panel
    let d := { s.hub.disp with set := l.dispSet }
    let d := { d with shadow := r.gdata.foldl (fun t e => t.set e.1 e.2) d.shadow, commit := d.commit || r.commit }
    let d := if r.dspReset then { d with dlbad := false, dlerr := 0, dlrej := 0, swaps := 0, crcErr := 0, crcErrRun := 0, lastCrc := 0 } else d
    let d := if r.pnlReset then { d with shadow := if d.cfg.gamma.isEmpty then d.gamma else d.cfg.gamma, commit := true } else d
    let d := if r.blen || r.pnlReset then { d with blopen := 0, blshort := 0 } else d
    let d := if r.restart then { d with lockout := false, rflt := false } else d
    let s := { s with hub := { s.hub with disp := d } }
    let clear (l : Lane) : Lane := { l with panel := {} }
    let s := { s with laneA := clear s.laneA, laneB := clear s.laneB }
    if r.restart then panelUp s else s

/-- At a change of owner the partly rendered buffer and its CRC are discarded; the new owner renders its newest list
again (DEDUCED, assumption log 122). -/
def Display.newOwner (d : Display) : Display :=
  { d with render := d.newest.or (d.render.or (d.last.map (·.1))), newest := none, ready := none }

/-- At k0 the timing is that of the configuration, and both gamma tables are loaded (R482). -/
def Display.atK0 (d : Display) (c : DispCfg) : Display :=
  let g := if c.gamma.isEmpty then d.gamma else c.gamma
  { d with cfg := c, render := none, newest := none, ready := none, last := none, gamma := g, shadow := g, commit := false }

/-! ### What the panel shows (R475, R487, R488) -/

/-- Ten bits to eight: of the four refreshes as many show one more as the two low bits say (DEDUCED, assumption log 122). -/
def dither (v phase : Nat) : Nat := min 255 (v / 4 + if phase < v % 4 then 1 else 0)

def Display.colour (d : Display) (c v x y : Nat) : Nat := dither (d.gamma.getD (256 * c + v) 0) ((x + 2 * y + d.refreshNo) % 4)

/-- Red, green and blue of a pixel in the running refresh: black while blanked and before the first swap, the border of a
stale image, else the front buffer through the gamma tables. -/
def Display.shown (d : Display) (x y : Nat) : Nat × Nat × Nat :=
  if d.blanked ∨ d.frontCrc.isNone then (0, 0, 0)
  else if d.stale ∧ (x < 4 ∨ y < 4 ∨ d.cfg.hact ≤ x + 4 ∨ d.cfg.vact ≤ y + 4) then (255, 0, 0)
  else
    let w := pixelOf (bufferCmds d.front) x y
    (d.colour 0 (bits w 23 16) x y, d.colour 1 (bits w 15 8) x y, d.colour 2 (bits w 7 0) x y)

/-! ### The panel port (R474)

The bit mappings are those of OpenLDI for eight bits a colour, and a line runs from its active pixels over front porch, sync
and back porch (PRESUMED, assumption log 139). -/

def DispCfg.jeida (c : DispCfg) : Bool := c.flags.testBit 3
/-- Levels of HSYNC, VSYNC and DE at clock `i` of line `j`, with the polarities of FLAGS (Table DSP-1). -/
def DispCfg.hsync (c : DispCfg) (i : Nat) : Bool :=
  (decide (c.hact + c.hfp ≤ i) && decide (i < c.hact + c.hfp + c.hsw)) == c.flags.testBit 0
def DispCfg.vsync (c : DispCfg) (j : Nat) : Bool :=
  (decide (c.vact + c.vfp ≤ j) && decide (j < c.vact + c.vfp + c.vsw)) == c.flags.testBit 1
def DispCfg.visible (c : DispCfg) (i j : Nat) : Bool := decide (i < c.hact) && decide (j < c.vact)
def DispCfg.de (c : DispCfg) (i j : Nat) : Bool := c.visible i j != c.flags.testBit 2

/-- The seven slots of the four data pairs in one pixel clock, the first slot first. -/
def DispCfg.pairs (c : DispCfg) (rgb : Nat × Nat × Nat) (hs vs de : Bool) : List (List Bool) :=
  let o := if c.jeida then 2 else 0
  let e := if c.jeida then 0 else 6
  let r (n : Nat) : Bool := rgb.1.testBit n
  let g (n : Nat) : Bool := rgb.2.1.testBit n
  let b (n : Nat) : Bool := rgb.2.2.testBit n
  [[g o, r (5 + o), r (4 + o), r (3 + o), r (2 + o), r (1 + o), r o],
   [b (1 + o), b o, g (5 + o), g (4 + o), g (3 + o), g (2 + o), g (1 + o)],
   [de, vs, hs, b (5 + o), b (4 + o), b (3 + o), b (2 + o)],
   [false, b (1 + e), b e, g (1 + e), g e, r (1 + e), r e]]

/-- The clock pair over the same slots. -/
def clockPair : List Bool := [true, true, false, false, false, true, true]

/-- What the data pairs carry at clock `i` of line `j` of the running refresh; none where the port is off (R477). -/
def Display.port (d : Display) (now i j : Nat) : Option (List (List Bool)) :=
  if d.scanning now then
    some (d.cfg.pairs (if d.cfg.visible i j then d.shown i j else (0, 0, 0)) (d.cfg.hsync i) (d.cfg.vsync j) (d.cfg.de i j))
  else none

/-! ### DSP and PNL pages as E1 reads them -/

def nat1 (b : Bool) : Nat := if b then 1 else 0

def readDsp (h : Hub) (l : Lane) (off : Nat) : Nat :=
  let d := h.disp
  if off = 0x040 then nat1 d.dlbad * 16 + nat1 d.blanked * 8 + nat1 d.crcalm * 4 + nat1 d.stale * 2 + nat1 (d.scanning h.upFrames)
  else if off = 0x050 then d.swaps
  else if off = 0x054 then d.crcErr
  else if off = 0x058 then d.lastCrc.toNat
  else if off = 0x05C then (d.frontCrc.getD 0).toNat
  else if off = 0x068 then d.dlerr * 65536 + d.dlrej
  else if off = 0x06C then min (2 ^ 32 - 1) (h.upFrames - d.swapAt)
  else (l.reg (0x50000 + off)).toNat

def readPnl (h : Hub) (l : Lane) (off : Nat) : Nat :=
  let d := h.disp
  let m (rail : Nat) : Nat := (Config.measRail h.upFrames rail).toNat % 65536
  if off = 0x040 then
    d.blshort.toNat * 4096 + d.blopen.toNat * 256 + min 3 (attempts d h.upFrames) * 64 + d.rfrail * 16 + nat1 d.rflt * 8 + nat1 d.lockout * 4
      + nat1 (decide (h.upFrames < d.seqEnd)) * 2 + nat1 d.on
  else if off = 0x050 then m 2 * 65536 + m 0
  else if off = 0x054 then m 3 * 65536 + m 1
  else if off = 0x05C then d.gamma.getD (256 * l.get R.PNL.GSEL + l.get R.PNL.GIDX) 0
  else (l.reg (0x51000 + off)).toNat

/-- A GDATA write (R482). -/
def Lane.writeGdata (l : Lane) (v : Nat) : Lane :=
  let i := l.get R.PNL.GIDX
  { l with panel := { l.panel with gdata := l.panel.gdata ++ [(256 * l.get R.PNL.GSEL + i, v % 1024)] } }.put R.PNL.GIDX ((i + 1) % 256)

/-! ### Front LEDs (R507, R508) -/

inductive Led where
  | in1 | in2 | hold | laneA | laneB | ts | sync | prg | force | lc | replace
  deriving DecidableEq, Repr

inductive LedView where
  | off | green | greenFlash | amber | amberFlash | red | redFlash | lampTest
  deriving DecidableEq, Repr

def roleLed (r : Role) : LedView := match r with
  | .off => .off
  | .active => .green
  | .standby => .greenFlash
  | .alone => .amber
  | .boot | .receive => .amberFlash
  | .unfit | .failed => .red

/-- What an LED shows (Table PHY-7). -/
def State.led (s : State) (x : Led) : LedView :=
  let own := s.active
  let inLed (a b : SupplyInput) : LedView := if a.good then .green else if b.good then .red else .off
  let early := s.startup.isSome && s.hub.lamp.isSome
  if s.pwr.off then .off
  else if s.hub.lamp.any fun t => decide (s.hub.upFrames < t) then .lampTest
  else match x with
    | .in1 => inLed s.pwr.in1 s.pwr.in2
    | .in2 => inLed s.pwr.in2 s.pwr.in1
    | .hold =>
      if s.pwr.bankFlt then .red
      else if own.any (·.reduced) then .amber
      else if s.pwr.holdRdy then .green else .greenFlash
    | .ts => if s.ts.lost then .red else if s.startup.any fun u => decide (u.phase ≤ 2) then .off else .green
    | y =>
      if early then .off
      else match y with
        | .laneA => roleLed s.ts.roleA
        | .laneB => roleLed s.ts.roleB
        | .sync => match s.hub.clk.sync with
          | .locked => .green
          | .holdover => .greenFlash
          | .acquire => .amber
          | .free => .off
        | .prg => match own with
          | none => .off
          | some l =>
            if l.on R.PRG.FAULT then .red
            else if !l.on R.PRG.PRESENT then .off
            else match l.prg.mode with
              | .run => .green
              | .hold => .amber
              | .stop => .off
        | .force => if own.any fun l => !l.prg.forces.isEmpty then .amber else .off
        | .lc => match own with
          | none => .off
          | some l => match l.lifeCycle with
            | 3 => .amber
            | 4 => .redFlash
            | 2 => .off
            | _ => .amberFlash
        | .replace => if own.any fun l => l.on R.HLTH.REPLACE then .red else .off
        | _ => .off

end Sys2Proof.Machine
end

