-- ==== Sys2Proof/Machine/Crypto.lean ====
section
/-! DEFINITION. The cryptographic functions the spec names (17_security.md): SHA-384 of FIPS 180-4, HMAC,
the counter-mode derivation of SP 800-108 (R381), AES-256-GCM, and ECDSA and ECDH over P-384 with the
deterministic nonces of RFC 6979. -/

namespace Sys2Proof.Machine.Crypto

/-! ### SHA-384 -/

def kA : List Nat := [
  0x428A2F98D728AE22, 0x7137449123EF65CD, 0xB5C0FBCFEC4D3B2F, 0xE9B5DBA58189DBBC,
  0x3956C25BF348B538, 0x59F111F1B605D019, 0x923F82A4AF194F9B, 0xAB1C5ED5DA6D8118,
  0xD807AA98A3030242, 0x12835B0145706FBE, 0x243185BE4EE4B28C, 0x550C7DC3D5FFB4E2,
  0x72BE5D74F27B896F, 0x80DEB1FE3B1696B1, 0x9BDC06A725C71235, 0xC19BF174CF692694,
  0xE49B69C19EF14AD2, 0xEFBE4786384F25E3, 0x0FC19DC68B8CD5B5, 0x240CA1CC77AC9C65,
  0x2DE92C6F592B0275, 0x4A7484AA6EA6E483, 0x5CB0A9DCBD41FBD4, 0x76F988DA831153B5,
  0x983E5152EE66DFAB, 0xA831C66D2DB43210, 0xB00327C898FB213F, 0xBF597FC7BEEF0EE4,
  0xC6E00BF33DA88FC2, 0xD5A79147930AA725, 0x06CA6351E003826F, 0x142929670A0E6E70,
  0x27B70A8546D22FFC, 0x2E1B21385C26C926, 0x4D2C6DFC5AC42AED, 0x53380D139D95B3DF,
  0x650A73548BAF63DE, 0x766A0ABB3C77B2A8, 0x81C2C92E47EDAEE6, 0x92722C851482353B]

def kB : List Nat := [
  0xA2BFE8A14CF10364, 0xA81A664BBC423001, 0xC24B8B70D0F89791, 0xC76C51A30654BE30,
  0xD192E819D6EF5218, 0xD69906245565A910, 0xF40E35855771202A, 0x106AA07032BBD1B8,
  0x19A4C116B8D2D0C8, 0x1E376C085141AB53, 0x2748774CDF8EEB99, 0x34B0BCB5E19B48A8,
  0x391C0CB3C5C95A63, 0x4ED8AA4AE3418ACB, 0x5B9CCA4F7763E373, 0x682E6FF3D6B2B8A3,
  0x748F82EE5DEFB2FC, 0x78A5636F43172F60, 0x84C87814A1F0AB72, 0x8CC702081A6439EC,
  0x90BEFFFA23631E28, 0xA4506CEBDE82BDE9, 0xBEF9A3F7B2C67915, 0xC67178F2E372532B,
  0xCA273ECEEA26619C, 0xD186B8C721C0C207, 0xEADA7DD6CDE0EB1E, 0xF57D4F7FEE6ED178,
  0x06F067AA72176FBA, 0x0A637DC5A2C898A6, 0x113F9804BEF90DAE, 0x1B710B35131C471B,
  0x28DB77F523047D84, 0x32CAAB7B40C72493, 0x3C9EBE0A15C9BEBC, 0x431D67C49C100D4C,
  0x4CC5D4BECB3E42B6, 0x597F299CFC657E2A, 0x5FCB6FAB3AD6FAEC, 0x6C44198C4A475817]

def h384 : List Nat := [
  0xCBBB9D5DC1059ED8, 0x629A292A367CD507, 0x9159015A3070DD17, 0x152FECD8F70E5939,
  0x67332667FFC00B31, 0x8EB44A8768581511, 0xDB0C2E0D64F98FA7, 0x47B5481DBEFA4FA4]

def m64 (x : Nat) : Nat := x % 2 ^ 64
def rotr (x n : Nat) : Nat := m64 ((x >>> n) ||| (x <<< (64 - n)))
def s0 (x : Nat) : Nat := rotr x 1 ^^^ rotr x 8 ^^^ (x >>> 7)
def s1 (x : Nat) : Nat := rotr x 19 ^^^ rotr x 61 ^^^ (x >>> 6)
def S0 (x : Nat) : Nat := rotr x 28 ^^^ rotr x 34 ^^^ rotr x 39
def S1 (x : Nat) : Nat := rotr x 14 ^^^ rotr x 18 ^^^ rotr x 41

/-- The message schedule, newest word first: `n` more words. -/
def expand : Nat → List Nat → List Nat
  | 0, w => w
  | n + 1, w => expand n (m64 (s1 (w.getD 1 0) + w.getD 6 0 + s0 (w.getD 14 0) + w.getD 15 0) :: w)

structure Regs where
  a : Nat
  b : Nat
  c : Nat
  d : Nat
  e : Nat
  f : Nat
  g : Nat
  h : Nat

def round (r : Regs) (kw : Nat × Nat) : Regs :=
  let ch := (r.e &&& r.f) ^^^ ((2 ^ 64 - 1 - r.e) &&& r.g)
  let maj := (r.a &&& r.b) ^^^ (r.a &&& r.c) ^^^ (r.b &&& r.c)
  let t1 := r.h + S1 r.e + ch + kw.1 + kw.2
  let t2 := S0 r.a + maj
  ⟨m64 (t1 + t2), r.a, r.b, r.c, m64 (r.d + t1), r.e, r.f, r.g⟩

def words64 : Nat → List Byte → List Nat
  | 0, _ => []
  | n + 1, l => ofBe (l.take 8) :: words64 n (l.drop 8)

def block (h : List Nat) (b : List Byte) : List Nat :=
  let w := (expand 64 (words64 16 b).reverse).reverse
  let r0 : Regs := ⟨h.getD 0 0, h.getD 1 0, h.getD 2 0, h.getD 3 0, h.getD 4 0, h.getD 5 0, h.getD 6 0, h.getD 7 0⟩
  let r := ((kA ++ kB).zip w).foldl round r0
  List.zipWith (fun x y => m64 (x + y)) h [r.a, r.b, r.c, r.d, r.e, r.f, r.g, r.h]

def blocks : Nat → List Nat → List Byte → List Nat
  | 0, h, _ => h
  | n + 1, h, l => blocks n (block h (l.take 128)) (l.drop 128)

/-- SHA-384. -/
def sha384 (m : List Byte) : List Byte :=
  let z := (240 - (m.length + 1) % 128) % 128
  let p := m ++ [0x80] ++ List.replicate z 0 ++ beBytes 16 (8 * m.length)
  ((blocks (p.length / 128) h384 p).take 6).flatMap (beBytes 8)

/-- First 8 bytes of a digest, little-endian (R157, R394). -/
def fp64 (m : List Byte) : Dword := .ofNat 64 (ofLe ((sha384 m).take 8))

def xorB (a b : List Byte) : List Byte := List.zipWith (· ^^^ ·) a b

/-- HMAC-SHA-384. -/
def hmac (key msg : List Byte) : List Byte :=
  let k0 := if key.length > 128 then sha384 key else key
  let k := k0 ++ List.replicate (128 - k0.length) 0
  sha384 (k.map (· ^^^ 0x5C) ++ sha384 (k.map (· ^^^ 0x36) ++ msg))

/-- SP 800-108 in counter mode (R381): `bits` of output from `parent`. -/
def kdf (parent label context : List Byte) (bits : Nat) : List Byte :=
  ((List.range ((bits + 383) / 384)).flatMap fun i =>
    hmac parent (beBytes 4 (i + 1) ++ label ++ [0] ++ context ++ beBytes 4 bits)).take (bits / 8)

/-! ### AES-256 and GCM -/

def xtime (a : Nat) : Nat := if a ≥ 128 then ((a * 2) % 256) ^^^ 0x1B else a * 2

def gmul8 : Nat → Nat → Nat → Nat
  | 0, _, _ => 0
  | n + 1, a, b => (if b % 2 = 1 then a else 0) ^^^ gmul8 n (xtime a) (b / 2)

def gmul (a b : Nat) : Nat := gmul8 8 a b

def gpow (a : Nat) : Nat → Nat
  | 0 => 1
  | n + 1 => gmul a (gpow a n)

def rotl8 (x n : Nat) : Nat := ((x <<< n) ||| (x >>> (8 - n))) % 256

/-- The S-box: inverse in GF(2⁸) and the affine map. -/
def sboxOf (x : Nat) : Nat :=
  let i := gpow x 254
  i ^^^ rotl8 i 1 ^^^ rotl8 i 2 ^^^ rotl8 i 3 ^^^ rotl8 i 4 ^^^ 0x63

def sboxTable : List Nat := (List.range 256).map sboxOf
def sbox (b : Byte) : Byte := .ofNat 8 (sboxTable.getD b.toNat 0)

/-- Key schedule of AES-256, words newest first: `n` more words. -/
def keyExpand : Nat → List (List Byte) → List (List Byte)
  | 0, w => w
  | n + 1, w =>
    let i := w.length
    let t := w.headD []
    let t' :=
      if i % 8 = 0 then
        xorB ((t.drop 1 ++ t.take 1).map sbox) [.ofNat 8 (gpow 2 (i / 8 - 1)), 0, 0, 0]
      else if i % 8 = 4 then t.map sbox else t
    keyExpand n (xorB (w.getD 7 []) t' :: w)

def chunks (k : Nat) : Nat → List Byte → List (List Byte)
  | 0, _ => []
  | n + 1, l => l.take k :: chunks k n (l.drop k)

def roundKeys (key : List Byte) : List (List Byte) :=
  let w := (keyExpand 52 (chunks 4 8 key).reverse).reverse
  (List.range 15).map fun r => ((w.drop (4 * r)).take 4).flatten

def shiftRows (s : List Byte) : List Byte :=
  (List.range 16).map fun i => s.getD ((i + 4 * (i % 4)) % 16) 0

def mixColumn (c : List Byte) : List Byte :=
  let g (k : Nat) (b : Byte) : Byte := .ofNat 8 (gmul k b.toNat)
  let at_ (i : Nat) := c.getD (i % 4) 0
  (List.range 4).map fun i => g 2 (at_ i) ^^^ g 3 (at_ (i + 1)) ^^^ at_ (i + 2) ^^^ at_ (i + 3)

def aesRounds : List (List Byte) → List Byte → List Byte
  | [], s => s
  | [k], s => xorB (shiftRows (s.map sbox)) k
  | k :: ks, s => aesRounds ks (xorB (((chunks 4 4 (shiftRows (s.map sbox))).map mixColumn).flatten) k)

/-- One AES-256 block. -/
def aes (rk : List (List Byte)) (b : List Byte) : List Byte := aesRounds (rk.drop 1) (xorB b (rk.headD []))

/-- Multiplication in GF(2¹²⁸) with the bit order of GCM. -/
def ghMul : Nat → Nat → Nat → Nat → Nat
  | 0, _, _, z => z
  | n + 1, x, v, z =>
    ghMul n x (if v % 2 = 1 then (v / 2) ^^^ (0xE1 * 2 ^ 120) else v / 2) (if x.testBit n then z ^^^ v else z)

def padTo16 (l : List Byte) : List Byte := l ++ List.replicate ((16 - l.length % 16) % 16) 0

def ghash (h : Nat) (l : List Byte) : Nat :=
  (chunks 16 (l.length / 16) l).foldl (fun y b => ghMul 128 (y ^^^ ofBe b) h 0) 0

def ctrBlocks (rk : List (List Byte)) (iv : List Byte) (from_ : Nat) (n : Nat) : List Byte :=
  (List.range n).flatMap fun i => aes rk (iv ++ beBytes 4 (from_ + i))

def gcmTag (rk : List (List Byte)) (iv aad ct : List Byte) : List Byte :=
  let h := ofBe (aes rk (List.replicate 16 0))
  let s := ghash h (padTo16 aad ++ padTo16 ct ++ beBytes 8 (8 * aad.length) ++ beBytes 8 (8 * ct.length))
  xorB (beBytes 16 s) (aes rk (iv ++ beBytes 4 1))

/-- AES-256-GCM with a 12-byte IV: ciphertext and tag. -/
def gcmSeal (key iv aad pt : List Byte) : List Byte × List Byte :=
  let rk := roundKeys key
  let ct := xorB pt (ctrBlocks rk iv 2 ((pt.length + 15) / 16))
  (ct, gcmTag rk iv aad ct)

/-- Opening: none where the tag fails. -/
def gcmOpen (key iv aad ct tag : List Byte) : Option (List Byte) :=
  let rk := roundKeys key
  if gcmTag rk iv aad ct = tag then some (xorB ct (ctrBlocks rk iv 2 ((ct.length + 15) / 16))) else none

/-! ### P-384 -/

def p384 : Nat := 2 ^ 384 - 2 ^ 128 - 2 ^ 96 + 2 ^ 32 - 1
def n384 : Nat := 0xFFFFFFFFFFFFFFFFFFFFFFFFFFFFFFFFFFFFFFFFFFFFFFFFC7634D81F4372DDF581A0DB248B0A77AECEC196ACCC52973
def b384 : Nat := 0xB3312FA7E23EE7E4988E056BE3F82D19181D9C6EFE8141120314088F5013875AC656398D8A2ED19D2A85C8EDD3EC2AEF
def g384 : Nat × Nat :=
  (0xAA87CA22BE8B05378EB1C71EF320AD746E1D3B628BA79B9859F741E082542A385502F25DBF55296C3A545E3872760AB7,
   0x3617DE4A96262C6F5D9E98BF9292DC29F8F41DBD289A147CE9DA3113B5F0B8C00A60B1CE1D7E819D7A431D7C90EA0E5F)

def powMod (m : Nat) : Nat → Nat → Nat → Nat
  | 0, _, _ => 1
  | k + 1, b, e => (if e % 2 = 1 then b else 1) * powMod m k (b * b % m) (e / 2) % m

def invMod (m a : Nat) : Nat := powMod m 384 (a % m) (m - 2)

/-- A point; none is the point at infinity. -/
abbrev Pt := Option (Nat × Nat)

def addPt : Pt → Pt → Pt
  | none, q => q
  | p, none => p
  | some (x1, y1), some (x2, y2) =>
    let m := p384
    if x1 = x2 ∧ (y1 + y2) % m = 0 then none
    else
      let l :=
        if x1 = x2 ∧ y1 = y2 then (3 * x1 * x1 + (m - 3)) * invMod m (2 * y1) % m
        else (y2 + m - y1) * invMod m (x2 + m - x1) % m
      let x := (l * l + 2 * m - x1 - x2) % m
      some (x, (l * (x1 + m - x) + m - y1) % m)

def mulPt : Nat → Nat → Pt → Pt
  | 0, _, _ => none
  | k + 1, e, q =>
    let r := mulPt k (e / 2) (addPt q q)
    if e % 2 = 1 then addPt q r else r

def scalarMul (e : Nat) (q : Pt) : Pt := mulPt 384 e q

def onCurve (x y : Nat) : Bool :=
  decide (x < p384) && decide (y < p384) && decide (y * y % p384 = (x * x * x + (p384 - 3) * x + b384) % p384)

/-- Public point X‖Y of a private key. -/
def pubOf (d : Nat) : List Byte :=
  match scalarMul d (some g384) with
  | some (x, y) => beBytes 48 x ++ beBytes 48 y
  | none => List.replicate 96 0

def pointOf (xy : List Byte) : Pt :=
  let x := ofBe (xy.take 48)
  let y := ofBe ((xy.drop 48).take 48)
  if onCurve x y then some (x, y) else none

/-- ECDH shared x-coordinate; none where the point is not on the curve. -/
def ecdh (d : Nat) (xy : List Byte) : Option (List Byte) :=
  match pointOf xy with
  | none => none
  | q => (scalarMul d q).map fun p => beBytes 48 p.1

/-- The nonce search of RFC 6979, SHA-384: `fuel` candidates. -/
def nonceLoop : Nat → List Byte → List Byte → Nat
  | 0, _, _ => 1
  | f + 1, k, v =>
    let v := hmac k v
    let t := ofBe v
    if 1 ≤ t ∧ t < n384 then t
    else
      let k := hmac k (v ++ [0])
      nonceLoop f k (hmac k v)

def nonce (d : Nat) (h : List Byte) : Nat :=
  let x := beBytes 48 d
  let z := beBytes 48 (ofBe h % n384)
  let v := List.replicate 48 (1 : Byte)
  let k := hmac (List.replicate 48 0) (v ++ [0] ++ x ++ z)
  let v := hmac k v
  let k := hmac k (v ++ [1] ++ x ++ z)
  nonceLoop 16 k (hmac k v)

/-- ECDSA signature r‖s over a digest. -/
def sign (d : Nat) (h : List Byte) : List Byte :=
  let k := nonce d h
  match scalarMul k (some g384) with
  | none => List.replicate 96 0
  | some (x, _) =>
    let r := x % n384
    let s := invMod n384 k * (ofBe h + r * d) % n384
    beBytes 48 r ++ beBytes 48 s

/-- ECDSA verification of r‖s over a digest with the public key X‖Y. -/
def verify (pub h sig : List Byte) : Bool :=
  let r := ofBe (sig.take 48)
  let s := ofBe ((sig.drop 48).take 48)
  match pointOf pub with
  | none => false
  | q =>
    if r = 0 ∨ n384 ≤ r ∨ s = 0 ∨ n384 ≤ s then false
    else
      let w := invMod n384 s
      match addPt (scalarMul (ofBe h * w % n384) (some g384)) (scalarMul (r * w % n384) q) with
      | none => false
      | some (x, _) => decide (x % n384 = r)

/-- The private scalar of an ECDSA or ECDH key from 512 derived bits (R381). -/
def scalarOf (c : List Byte) : Nat := ofBe c % (n384 - 1) + 1

end Sys2Proof.Machine.Crypto
end

