-- ==== Sys2Proof/Machine/Water.lean ====
section
/-! DEFINITION. Exact sums (04_frame.md R104) and water properties (13_heat_metering_pulses.md R304,
06_network_model.md R142). The coefficients of IAPWS-IF97 region 1 and of the IAPWS 2008 viscosity
formulation are those of the releases the spec cites; it does not print them (assumption log 5, PRESUMED). -/

namespace Sys2Proof.Machine

/-! ### The exact dot-product unit -/

/-- Sum of products of finite values in units of 2⁻³⁰⁰, with what makes it no number. -/
structure Acc where
  sum : Int := 0
  nan : Bool := false
  pinf : Bool := false
  ninf : Bool := false

def Acc.add (a : Acc) (x y : F32) : Acc :=
  match Float.mulV (Float.decode Float.b32 x.toNat) (Float.decode Float.b32 y.toNat) with
  | .nan => { a with nan := true }
  | .inf s => if s then { a with ninf := true } else { a with pinf := true }
  | .fin s m e => { a with sum := a.sum + Float.signed s (m * 2 ^ (e + 300).toNat) }

def Acc.round (a : Acc) : F32 :=
  if a.nan || (a.pinf && a.ninf) then F32.nan
  else if a.pinf then F32.inf
  else if a.ninf then F32.neg F32.inf
  else F32.ofScaled a.sum (-300)

/-- Exact sum of products, rounded once to binary32 (R104). -/
def exactDot (l : List (F32 × F32)) : F32 := (l.foldl (fun (a : Acc) p => a.add p.1 p.2) {}).round

def exactSum (l : List F32) : F32 := exactDot (l.map fun x => (x, F32.one))

/-! ### Water -/

/-- The decimal m · 10^e in binary64. -/
def dec (m : Int) (e : Int) : F64 :=
  if 0 ≤ e then F64.ofInt (m * 10 ^ e.toNat) else F64.ofRat m (10 ^ (-e).toNat)

def dec32 (m : Int) (e : Int) : F32 :=
  if 0 ≤ e then F32.ofInt (m * 10 ^ e.toNat) else F32.ofRat m (10 ^ (-e).toNat)

/-- Powers by repeated multiplication from exponent 0, negative ones as reciprocals (R304). -/
def powNat64 (x : F64) : Nat → F64
  | 0 => F64.one
  | n + 1 => F64.mul (powNat64 x n) x

def powInt64 (x : F64) (e : Int) : F64 :=
  if 0 ≤ e then powNat64 x e.toNat else F64.div F64.one (powNat64 x (-e).toNat)

/-- I, J and n (as m · 10^e) of region 1, Table 2 of the release. -/
def if97 : List (Int × Int × Int × Int) := [
  (0, -2, 14632971213167, -14), (0, -1, -84548187169114, -14), (0, 0, -37563603672040, -13),
  (0, 1, 33855169168385, -13), (0, 2, -95791963387872, -14), (0, 3, 15772038513228, -14),
  (0, 4, -16616417199501, -15), (0, 5, 81214629983568, -17), (1, -9, 28319080123804, -17),
  (1, -7, -60706301565874, -17), (1, -1, -18990068218419, -15), (1, 0, -32529748770505, -15),
  (1, 1, -21841717175414, -15), (1, 3, -52838357969930, -18), (2, -3, -47184321073267, -17),
  (2, 0, -30001780793026, -17), (2, 1, 47661393906987, -18), (2, 3, -44141845330846, -19),
  (2, 17, -72694996297594, -29), (3, -4, -31679644845054, -18), (3, 0, -28270797985312, -19),
  (3, 6, -85205128120103, -23), (4, -5, -22425281908000, -19), (4, -2, -65171222895601, -20),
  (4, 10, -14341729937924, -26), (5, -8, -40516996860117, -20), (8, -11, -12734301741641, -22),
  (8, -6, -17424871230634, -23), (21, -29, -68762131295531, -32), (23, -31, 14478307828521, -33),
  (29, -38, 26335781662795, -36), (30, -39, -11947622640071, -36), (31, -40, 18228094581404, -37),
  (32, -41, -93537087292458, -39)]

def sum64 (l : List F64) : F64 := l.foldl F64.add F64.zero

/-- γ_π, γ_τ and γ_ττ at π and τ. -/
def gammaPi (pi tau : F64) : F64 :=
  sum64 (if97.map fun (i, j, m, e) =>
    F64.mul (F64.mul (F64.mul (F64.neg (dec m e)) (F64.ofInt i)) (powInt64 (F64.sub (dec 71 (-1)) pi) (i - 1)))
      (powInt64 (F64.sub tau (dec 1222 (-3))) j))

def gammaTau (pi tau : F64) : F64 :=
  sum64 (if97.map fun (i, j, m, e) =>
    F64.mul (F64.mul (F64.mul (dec m e) (powInt64 (F64.sub (dec 71 (-1)) pi) i)) (F64.ofInt j))
      (powInt64 (F64.sub tau (dec 1222 (-3))) (j - 1)))

def gammaTauTau (pi tau : F64) : F64 :=
  sum64 (if97.map fun (i, j, m, e) =>
    F64.mul (F64.mul (F64.mul (F64.mul (dec m e) (powInt64 (F64.sub (dec 71 (-1)) pi) i)) (F64.ofInt j))
      (F64.ofInt (j - 1))) (powInt64 (F64.sub tau (dec 1222 (-3))) (j - 2)))

def waterR : F64 := dec 461526 (-3)
def kelvin (t : F64) : F64 := F64.add t (dec 27315 (-2))
def piOf (p : F64) : F64 := F64.div p (dec 1653 4)
def tauOf (t : F64) : F64 := F64.div (dec 1386 0) (kelvin t)

/-- Density, specific enthalpy and specific heat at p in Pa and t in °C (R304). -/
def waterRho (p t : F64) : F64 :=
  F64.div p (F64.mul (F64.mul (F64.mul waterR (kelvin t)) (piOf p)) (gammaPi (piOf p) (tauOf t)))
def waterH (p t : F64) : F64 :=
  F64.mul (F64.mul waterR (dec 1386 0)) (gammaTau (piOf p) (tauOf t))
def waterCp (p t : F64) : F64 :=
  F64.mul (F64.mul (F64.neg waterR) (F64.mul (tauOf t) (tauOf t))) (gammaTauTau (piOf p) (tauOf t))

/-- H_i of the dilute-gas factor and H_ij of the second factor, as i, j, value. -/
def viscH0 : List (Int × Int) := [(167752, -5), (220462, -5), (6366564, -7), (-241605, -6)]
def viscH1 : List (Int × Int × Int × Int) := [
  (0, 0, 520094, -6), (0, 1, 222531, -6), (0, 2, -281378, -6), (0, 3, 161913, -6), (0, 4, -325372, -7),
  (1, 0, 850895, -7), (1, 1, 999115, -6), (1, 2, -906851, -6), (1, 3, 257399, -6),
  (2, 0, -108374, -5), (2, 1, 188797, -5), (2, 2, -772479, -6),
  (3, 0, -289555, -6), (3, 1, 126613, -5), (3, 2, -489837, -6), (3, 4, 698452, -7), (3, 6, -435673, -8),
  (4, 2, -257040, -6), (4, 5, 872102, -8),
  (5, 1, 120573, -6), (5, 6, -593264, -9)]

/-- Dynamic viscosity in Pa·s. -/
def waterMu (p t : F64) : F64 :=
  let tb := F64.div (kelvin t) (dec 647096 (-3))
  let rb := F64.div (waterRho p t) (dec 322 0)
  let d := sum64 ((viscH0.zip (List.range 4)).map fun ((m, e), i) => F64.div (dec m e) (powNat64 tb i))
  let mu0 := F64.div (F64.mul (dec 100 0) (F64.sqrt tb)) d
  let x := F64.sub (F64.div F64.one tb) F64.one
  let y := F64.sub rb F64.one
  let s := sum64 (viscH1.map fun (i, j, m, e) => F64.mul (F64.mul (powInt64 x i) (dec m e)) (powInt64 y j))
  F64.mul (F64.mul mu0 (F64.exp (F64.mul rb s))) (dec 1 (-6))

/-- Properties the network model interpolates. -/
inductive WaterProp where
  | rho | mu | cp
  deriving DecidableEq, Repr

/-- An entry of the table at `i` °C and pressure `pprop` (R142): the binary64 value rounded to binary32. -/
def waterEntry (k : WaterProp) (pprop : F32) (i : Nat) : F32 :=
  let p := F32.toF64 pprop
  let t := F64.ofInt i
  F64.toF32 (match k with
    | .rho => waterRho p t
    | .mu => waterMu p t
    | .cp => waterCp p t)

/-- Linear interpolation in binary32 between steps of 1 K, clamped to 0–200 °C (R142). -/
def waterAt (k : WaterProp) (pprop t : F32) : F32 :=
  let t := F32.max F32.zero (F32.min t (F32.fromNat 200))
  let i := min ((F32.floorI t).getD 0).toNat 199
  let a := waterEntry k pprop i
  let b := waterEntry k pprop (i + 1)
  F32.fma (F32.sub t (F32.fromNat i)) (F32.sub b a) a

end Sys2Proof.Machine
end

