-- ==== Sys2Proof/Machine/Net.lean ====
section
/-! DEFINITION. The network model: reading and checking a model image, ordering and fingerprints, and the
plug update (06_network_model.md). -/

namespace Sys2Proof.Machine

/-! ### Reading the image (R139 to R141) -/

/-- A failed check: status code, section type, record index (R152). -/
structure LoadErr where
  code : Nat
  sec : Nat := 0
  rec_ : Nat := 0xFFFFFF
  deriving DecidableEq, Repr

structure DirEnt where
  typ : Nat
  rsize : Nat
  count : Nat
  offs : Nat
  deriving DecidableEq, Repr

/-- Record size of each section type (Table NET-2), 0 for an unknown type. -/
def netRsize (t : Nat) : Nat := [0, 16, 16, 16, 32, 32, 24, 32, 32, 32, 24, 8, 2, 16, 16].getD t 0

/-- Record limits of Table NET-6, which names none for PIPE and ORDR. More than 16 PART records are LIMIT, which comes
before PART (R158; DEDUCED, assumption log 105). -/
def netLimit (t : Nat) : Nat :=
  [0, 4, 4096, 6144, 2 ^ 32, 512, 1024, 64, 32, 2048, 16384, 64, 2 ^ 32, 16, 256].getD t 0

/-- Reserved bytes of a record of each type (Tables NET-3 to NET-5, R158, R159). -/
def netReserved (t : Nat) : List Nat :=
  match t with
  | 1 => [1]
  | 2 => [2, 3]
  | 3 => [12, 13, 14, 15]
  | 4 => (List.range 9).map (· + 23)
  | 5 => (List.range 14).map (· + 18)
  | 6 => 9 :: (List.range 8).map (· + 16)
  | 7 => [1, 2, 3] ++ (List.range 12).map (· + 20)
  | 8 => (List.range 16).map (· + 16)
  | 9 => [2, 3] ++ (List.range 12).map (· + 20)
  | 10 => [20, 21, 22, 23]
  | 11 => [6, 7]
  | 13 => [12, 13, 14, 15]
  | 14 => (List.range 9).map (· + 7)
  | _ => []

def dirEnts (b : List Byte) : List DirEnt :=
  (List.range (u16At b 12)).map fun i =>
    let o := 64 + 16 * i
    ⟨u16At b o, u16At b (o + 2), u32At b (o + 4), u32At b (o + 8)⟩

def secOf (d : List DirEnt) (t : Nat) : Option DirEnt := d.find? (·.typ == t)
def secCount (d : List DirEnt) (t : Nat) : Nat := ((secOf d t).map (·.count)).getD 0

/-- The records of a section as byte lists. -/
def secRecs (b : List Byte) (d : List DirEnt) (t : Nat) : List (List Byte) :=
  match secOf d t with
  | none => []
  | some e => (List.range e.count).map fun i => sliceB b (e.offs + i * e.rsize) e.rsize

def readModel (b : List Byte) (d : List DirEnt) : NetModel where
  netw := (secRecs b d 1).map fun r => ⟨u8At r 0, u16At r 2, wordAt r 4, wordAt r 8, wordAt r 12⟩
  node := (secRecs b d 2).map fun r => ⟨u8At r 0, u8At r 1, wordAt r 4, wordAt r 8, wordAt r 12⟩
  brch := (secRecs b d 3).map fun r => ⟨u16At r 0, u16At r 2, u8At r 4, u8At r 5, u16At r 6, wordAt r 8⟩
  pipe := (secRecs b d 4).map fun r =>
    ⟨wordAt r 0, wordAt r 4, wordAt r 8, wordAt r 12, wordAt r 16, u16At r 20, u8At r 22⟩
  pump := (secRecs b d 5).map fun r => ⟨wordAt r 0, wordAt r 4, wordAt r 8, wordAt r 12, u16At r 16⟩
  valv := (secRecs b d 6).map fun r => ⟨wordAt r 0, wordAt r 4, u8At r 8, u16At r 10, wordAt r 12⟩
  plnt := (secRecs b d 7).map fun r => ⟨u8At r 0, wordAt r 4, wordAt r 8, wordAt r 12, wordAt r 16⟩
  stor := (secRecs b d 8).map fun r => ⟨u8At r 0, u8At r 1, u16At r 2, wordAt r 4, wordAt r 8, wordAt r 12⟩
  subs := (secRecs b d 9).map fun r => ⟨u16At r 0, wordAt r 4, wordAt r 8, wordAt r 12, wordAt r 16⟩
  meas := (secRecs b d 10).map fun r =>
    ⟨u8At r 0, u8At r 1, u16At r 2, u32At r 4, wordAt r 8, wordAt r 12, wordAt r 16⟩
  ambg := (secRecs b d 11).map fun r => ⟨wordAt r 0, u16At r 4⟩
  part := (secRecs b d 13).map fun r => ⟨u16At r 0, u16At r 2, u64At r 4⟩
  bndy := (secRecs b d 14).map fun r => ⟨u16At r 0, u16At r 2, u16At r 4, u8At r 6 == 1⟩
  ordsup := (u16At b 6).testBit 1
  order := (secRecs b d 12).map fun r => u16At r 0

/-! ### Topology helpers -/

def ghostBase : Nat := 0xF000
def BrchRec.outOfService (r : BrchRec) : Bool := r.flags.testBit 1
def BrchRec.nonReturn (r : BrchRec) : Bool := r.flags.testBit 0

def NetModel.nodeAt (m : NetModel) (i : Nat) : NodeRec := m.node.getD i ⟨0, 0, 0, 0, 0⟩
def NetModel.brchAt (m : NetModel) (i : Nat) : BrchRec := m.brch.getD i ⟨0, 0, 0, 0, 0, 0⟩
def NetModel.pipeAt (m : NetModel) (i : Nat) : PipeRec := m.pipe.getD i ⟨0, 0, 0, 0, 0, 0xFFFF, 1⟩
def NetModel.storAt (m : NetModel) (i : Nat) : StorRec := m.stor.getD i ⟨0, 1, 0xFFFF, 0, 0, 0⟩

/-- Network of a branch: that of an end that is a node of this image. -/
def NetModel.netOf (m : NetModel) (r : BrchRec) : Nat :=
  (m.nodeAt (if r.frm < ghostBase then r.frm else r.dst)).net

def NetModel.pprop (m : NetModel) (net : Nat) : F32 := ((m.netw[net]?).map (·.pprop)).getD 0
def NetModel.isRef (m : NetModel) (i : Nat) : Bool := (m.nodeAt i).kind == 1

/-- Edges of the elimination graph and of connectivity: branches in service between two own nodes. -/
def NetModel.edges (m : NetModel) : List (Nat × Nat) :=
  (m.brch.filter fun r => !r.outOfService && decide (r.frm < ghostBase) && decide (r.dst < ghostBase)).map
    fun r => (r.frm, r.dst)

/-- Nodes reached from `seen` along edges: `fuel` rounds. -/
def reach (es : List (Nat × Nat)) : Nat → List Nat → List Nat
  | 0, seen => seen
  | k + 1, seen =>
    let new := (es.flatMap fun (a, b) =>
      (if seen.contains a && !seen.contains b then [b] else []) ++
      (if seen.contains b && !seen.contains a then [a] else [])).dedup
    if new.isEmpty then seen else reach es k (seen ++ new)

/-! ### Ordering (R154, R155) -/

/-- Inserts `x` into a rising list without repeats. -/
def insSorted (x : Nat) : List Nat → List Nat
  | [] => [x]
  | y :: l => if x < y then x :: y :: l else if x = y then y :: l else y :: insSorted x l

def unionSorted (a b : List Nat) : List Nat := a.foldl (fun l x => insSorted x l) b

/-- Adjacency among the nodes still to be eliminated. -/
abbrev Adj := List (Nat × List Nat)

def Adj.nbrs (g : Adj) (v : Nat) : List Nat := ((g.find? (·.1 == v)).map (·.2)).getD []

/-- Node of least degree, ties to the least index. -/
def Adj.least : Adj → Option (Nat × Nat)
  | [] => none
  | (v, ns) :: g =>
    match Adj.least g with
    | none => some (v, ns.length)
    | some (w, d) => if ns.length < d ∨ (ns.length = d ∧ v < w) then some (v, ns.length) else some (w, d)

def Adj.eliminate (g : Adj) (v : Nat) : Adj :=
  let nv := g.nbrs v
  (g.filter (·.1 != v)).map fun (u, ns) =>
    if nv.contains u then (u, (unionSorted nv ns).filter fun x => x != u && x != v) else (u, ns)

def startAdj (m : NetModel) : Adj :=
  let own := (List.range m.node.length).filter fun i => !m.isRef i
  let es := m.edges.filter fun (a, b) => !m.isRef a && !m.isRef b
  own.map fun v => (v, es.foldl (fun l (a, b) =>
    if a = v ∧ b ≠ v then insSorted b l else if b = v ∧ a ≠ v then insSorted a l else l) [])

/-- Minimum-degree elimination: node and its neighbours at elimination, in order. -/
def minDegree : Nat → Adj → List (Nat × List Nat)
  | 0, _ => []
  | k + 1, g =>
    match g.least with
    | none => []
    | some (v, _) => (v, g.nbrs v) :: minDegree k (g.eliminate v)

def givenOrder : List Nat → Adj → List (Nat × List Nat)
  | [], _ => []
  | v :: l, g => (v, g.nbrs v) :: givenOrder l (g.eliminate v)

/-- Order, and for each column the positions of the rows below its diagonal, ascending. -/
def ordering (m : NetModel) (supplied : List Nat) : List Nat × List (List Nat) :=
  let g := startAdj m
  let el := if m.ordsup then givenOrder supplied g else minDegree g.length g
  let ord := el.map (·.1)
  (ord, el.map fun (_, ns) => (ns.map fun v => ord.idxOf v).foldl (fun l x => insSorted x l) [])

def NetModel.factnz (m : NetModel) : Nat := m.cols.foldl (fun n c => n + c.length + 1) 0
def NetModel.flopf (m : NetModel) : Nat := m.cols.foldl (fun n c => n + (c.length + 1) * (c.length + 1)) 0

/-! ### Fingerprints (R157, R160) -/

def structureStream (b : List Byte) (d : List DirEnt) (m : NetModel) : List Byte :=
  (List.range 14).flatMap (fun i => leBytes 4 (secCount d (i + 1))) ++
  m.node.flatMap (fun r => leBytes 1 r.net ++ leBytes 1 r.kind) ++
  m.brch.flatMap (fun r =>
    leBytes 2 r.frm ++ leBytes 2 r.dst ++ leBytes 1 r.kind ++ leBytes 1 (r.flags % 4) ++ leBytes 2 r.comp) ++
  m.stor.flatMap (fun r => leBytes 1 r.typ ++ leBytes 1 r.layers) ++
  m.meas.flatMap (fun r => leBytes 1 r.qty ++ leBytes 1 r.src ++ leBytes 2 r.obj ++ leBytes 4 r.addr) ++
  m.ambg.flatMap (fun r => leBytes 2 r.bind) ++
  m.order.flatMap (leBytes 2) ++
  (secRecs b d 13 ++ secRecs b d 14).flatMap (·.take 16)

def domainFp (m : NetModel) : Dword :=
  if m.part.isEmpty then 0
  else Crypto.fp64 (m.part.flatMap fun r => leBytes 2 r.ident ++ leBytes 8 r.sfp ++ leBytes 2 r.count)

/-! ### The checks of Table NET-7, in table order -/

def firstErr (l : List (Option LoadErr)) : Option LoadErr := l.findSome? id

def errIf (c : Bool) (e : LoadErr) : Option LoadErr := if c then some e else none

/-- The first record of a section that a test finds bad. -/
def errRec (code sec : Nat) (l : List α) (bad : α → Bool) : Option LoadErr :=
  (l.findIdx? bad).map fun i => ⟨code, sec, i⟩

def chkFormat (b : List Byte) : Option LoadErr :=
  errIf (decide (b.length < 68 ∨ u32At b 0 ≠ 0x4C444D4E ∨ u16At b 4 ≠ 1 ∨ u32At b 8 ≠ b.length) ||
    decide (crc32c (b.take (b.length - 4)) ≠ wordAt b (b.length - 4))) ⟨0x1040, 0, 0xFFFFFF⟩

def rising : List Nat → Bool
  | a :: b :: l => decide (a < b) && rising (b :: l)
  | _ => true

/-- Section types whose presence the header's flags and the records call for (Table NET-2). -/
def secNeeded (flags : Nat) (m : NetModel) (t : Nat) : Bool :=
  let usesKind (k : Nat) := m.brch.any (·.kind == k)
  match t with
  | 1 | 2 | 3 => true
  | 4 => usesKind 0
  | 5 => usesKind 1
  | 6 => usesKind 2
  | 7 => usesKind 3
  | 8 => usesKind 4
  | 9 => usesKind 5
  | 11 => m.pipe.any (·.ambg != 0xFFFF) || m.stor.any (·.ambg != 0xFFFF)
  | 12 => flags.testBit 1
  | 13 | 14 => flags.testBit 0
  | _ => false

/-- Directory entries, each with its index, the type of the entry before it and the end of that entry's section. -/
def dirPlaced : Nat → Nat → Nat → List DirEnt → List (Nat × Nat × Nat × DirEnt)
  | _, _, _, [] => []
  | i, prev, at_, e :: l => (i, prev, at_, e) :: dirPlaced (i + 1) e.typ (e.offs + e.count * e.rsize) l

/-- The entry itself is wrong: its type, size or place, or a reserved byte. -/
def dirBad (b : List Byte) : Nat × Nat × Nat × DirEnt → Bool
  | (i, prev, at_, e) =>
    decide (e.typ ≤ prev) || decide (netRsize e.typ = 0 ∨ e.rsize ≠ netRsize e.typ ∨ e.offs % 8 ≠ 0) ||
      decide (e.offs < at_) || decide (e.offs + e.count * e.rsize + 4 > b.length) ||
      (sliceB b (64 + 16 * i + 12) 4).any (· != 0)

/-- Reserved bytes and bits of a record. -/
def recReserved (t : Nat) (r : List Byte) : Bool :=
  (netReserved t).any (fun i => r.getD i 0 != 0) || (t == 3 && decide (4 ≤ u8At r 5)) || (t == 14 && decide (1 < u8At r 6))

/-- The header, as section type 0, then the section types in ascending order: a section that is wrong as a whole, or
missing, goes before its records, which are read by its place and size; ORDR, PART or BNDY present while its FLAGS bit is
clear is a wrong section (DEDUCED, assumption log 105). -/
def chkSection (b : List Byte) (d : List DirEnt) (m : NetModel) : Option LoadErr :=
  let flags := u16At b 6
  let placed := dirPlaced 0 0 (64 + 16 * d.length) d
  let types := d.foldl (fun l e => insSorted e.typ l) ((List.range 14).map (· + 1))
  firstErr (errIf (decide (u16At b 12 < 1 ∨ 14 < u16At b 12 ∨ u16At b 14 ≠ 0 ∨ 4 ≤ flags) ||
      (sliceB b 32 32).any (· != 0)) ⟨0x1041, 0, 0xFFFFFF⟩ ::
    types.map fun t =>
      let present := (secOf d t).isSome
      let need := secNeeded flags m t
      firstErr [
        errIf ((placed.any fun p => p.2.2.2.typ == t && dirBad b p) || (need && !present) ||
          (decide (12 ≤ t) && present && !need)) ⟨0x1041, t, 0xFFFFFF⟩,
        errRec 0x1041 t (secRecs b d t) (recReserved t)])

def chkLimit (b : List Byte) (d : List DirEnt) : Option LoadErr :=
  firstErr [errIf (decide (b.length > 2097152)) ⟨0x1042, 0, 0xFFFFFF⟩,
    (d.find? fun e => decide (e.count > netLimit e.typ)).map fun e => ⟨0x1042, e.typ, 0xFFFFFF⟩]

/-- Kind of object a QTY takes: node, branch, branch of a kind, ambient group. -/
def objBad (m : NetModel) (r : MeasRec) : Bool :=
  let nb := m.brch.length
  if r.qty = 1 ∨ r.qty = 5 then decide (m.node.length ≤ r.obj)
  else if r.qty = 2 ∨ r.qty = 3 ∨ r.qty = 4 ∨ r.qty = 6 ∨ r.qty = 7 then decide (nb ≤ r.obj)
  else if r.qty = 8 then decide (nb ≤ r.obj) || (m.brchAt r.obj).kind != 1
  else if r.qty = 9 then decide (nb ≤ r.obj) || (m.brchAt r.obj).kind != 2
  else if r.qty = 10 then decide (m.ambg.length ≤ r.obj)
  else true

/-- Source and address of Table NET-5 (checked with the indices: DESIGN CHOICE, assumption log 6). -/
def srcBad (r : MeasRec) : Bool :=
  match r.src with
  | 1 => decide (7 < r.addr)
  | 2 => decide (15 < r.addr % 256 ∨ 3 < r.addr / 256)
  | 3 => decide (2047 < r.addr % 65536 ∨ 63 < r.addr / 65536)
  | 4 => decide (0xFFFF < r.addr)
  | 7 => false
  | _ => true

/-- Check 0x1043 (the fields that are no indexes: DEDUCED, assumption log 105). -/
def chkIndex (m : NetModel) : Option LoadErr :=
  let comps := [m.pipe.length, m.pump.length, m.valv.length, m.plnt.length, m.stor.length, m.subs.length]
  let endBad (e : Nat) : Bool :=
    if e < ghostBase then decide (m.node.length ≤ e) else decide (m.bndy.length ≤ e - ghostBase)
  let optBad (n x : Nat) : Bool := decide (x ≠ 0xFFFF ∧ n ≤ x)
  firstErr [
    errRec 0x1043 1 m.netw fun r => decide (m.node.length ≤ r.refn),
    errRec 0x1043 2 m.node fun r => decide (m.netw.length ≤ r.net),
    errRec 0x1043 3 m.brch fun r => endBad r.frm || endBad r.dst || decide (comps.getD r.kind 0 ≤ r.comp),
    errRec 0x1043 4 m.pipe fun r => optBad m.ambg.length r.ambg,
    errRec 0x1043 5 m.pump fun r => optBad m.meas.length r.nbind,
    errRec 0x1043 6 m.valv fun r => optBad m.meas.length r.hbind,
    errRec 0x1043 8 m.stor fun r => optBad m.ambg.length r.ambg,
    errRec 0x1043 9 m.subs fun r => decide (2047 < r.stn),
    errRec 0x1043 10 m.meas fun r => objBad m r || srcBad r,
    errRec 0x1043 11 m.ambg fun r => optBad m.meas.length r.bind,
    errRec 0x1043 14 m.bndy fun r => decide (m.brch.length ≤ r.branch ∨
      (((m.part.find? fun p => p.ident == r.nbr).map (·.count)).getD 4096) ≤ r.node)]

/-- A finite number between two bounds, as decimals m · 10^e. -/
def f32In (lo hi : F32) (w : Word) : Bool := F32.isFin w && F32.le lo w && F32.le w hi
def f32Pos (w : Word) : Bool := F32.isFin w && F32.lt F32.zero w
def f32NonNeg (w : Word) : Bool := F32.isFin w && F32.le F32.zero w

/-- Check 0x1044, with the fields that are no reals but for KIND of BRCH and STN of SUBS (DEDUCED, assumption log 105). -/
def chkValue (m : NetModel) : Option LoadErr :=
  let no (b : Bool) : Bool := !b
  firstErr [
    errRec 0x1044 1 m.netw fun r => no (decide (r.kind ≤ 2) && F32.isFin r.pref &&
      f32In (dec32 1 5) (dec32 25 5) r.pprop && f32In 0 (dec32 5 0) r.tmerge),
    errRec 0x1044 2 m.node fun r => no (decide (r.kind ≤ 1) && F32.isFin r.elev && F32.isFin r.p0 && F32.isFin r.t0),
    errRec 0x1044 3 m.brch fun r => no (F32.isFin r.m0),
    errRec 0x1044 4 m.pipe fun r => no (f32Pos r.len && f32In (dec32 1 (-2)) (dec32 2 0) r.diam &&
      f32In 0 (dec32 1 (-2)) r.rough && f32NonNeg r.zeta && f32NonNeg r.uloss &&
      decide (1 ≤ r.plugmax ∧ r.plugmax ≤ 96) && (r.ambg != 0xFFFF || F32.isZero r.uloss)),
    errRec 0x1044 5 m.pump fun r => no (f32Pos r.a0 && F32.isFin r.a1 && F32.isFin r.a2 && F32.lt r.a2 F32.zero &&
      f32In (dec32 1 (-1)) (dec32 12 (-1)) r.nmax),
    errRec 0x1044 6 m.valv fun r => no (f32Pos r.kvs && f32In (dec32 10 0) (dec32 1000 0) r.range &&
      decide (r.char ≤ 1) && f32In (dec32 1 (-4)) (dec32 5 (-2)) r.leak),
    errRec 0x1044 7 m.plnt fun r => no (decide (r.typ ≤ 5) && f32Pos r.khyd && f32Pos r.qmax &&
      f32NonNeg r.qmin && F32.le r.qmin r.qmax && F32.isFin r.tomax),
    errRec 0x1044 8 m.stor fun r => no (decide (r.typ ≤ 1) &&
      (if r.typ = 0 then decide (1 ≤ r.layers ∧ r.layers ≤ 16) && (r.ambg != 0xFFFF || F32.isZero r.ua)
       else decide (r.layers = 0) && r.ambg == 0xFFFF && F32.isZero r.khyd) &&
      F32.isFin r.cap && F32.isFin r.ua && F32.isFin r.khyd),
    errRec 0x1044 9 m.subs fun r => no (F32.isFin r.qdes && F32.isFin r.mdes && F32.isFin r.kvs && F32.isFin r.trdes),
    errRec 0x1044 10 m.meas fun r => no (f32Pos r.sigma && F32.isFin r.gain && F32.isFin r.ofs),
    errRec 0x1044 11 m.ambg fun r => no (F32.isFin r.tcon)]

def chkTopology (m : NetModel) : Option LoadErr :=
  let idx := List.range m.node.length
  let uses (k : Nat) (i : Nat) : Nat := m.brch.countP fun r => r.kind == k && r.comp == i
  let once (sec k : Nat) (n : Nat) : Option LoadErr := errRec 0x1045 sec (List.range n) fun i => uses k i != 1
  firstErr [
    errRec 0x1045 1 (List.range m.netw.length) fun n =>
      let own := idx.filter fun i => (m.nodeAt i).net == n
      let refn := ((m.netw[n]?).map (·.refn)).getD 0
      own.filter m.isRef != [refn] || !(own.all fun i => (reach m.edges m.node.length [refn]).contains i),
    errRec 0x1045 3 m.brch fun r => decide (r.frm = r.dst) ||
      (decide (r.frm < ghostBase) && decide (r.dst < ghostBase) && (m.nodeAt r.frm).net != (m.nodeAt r.dst).net) ||
      (r.kind == 4 && (m.storAt r.comp).typ == 1),
    once 4 0 m.pipe.length, once 5 1 m.pump.length, once 6 2 m.valv.length, once 7 3 m.plnt.length,
    errRec 0x1045 8 (List.range m.stor.length) fun i => (m.storAt i).typ == 0 && uses 4 i != 1,
    once 9 5 m.subs.length]

/-- Plug capacity reserved: pipes in service and thermal stores (R150). -/
def NetModel.plugres (m : NetModel) : Nat :=
  m.brch.foldl (fun n r => if r.kind = 0 ∧ !r.outOfService then n + (m.pipeAt r.comp).plugmax else n) 0
    + m.stor.foldl (fun n r => if r.typ = 0 then n + r.layers else n) 0

/-- A PART record with bits above its identifier, out of order, or this member's own with a wrong count or SFP (R158). -/
def partBad (m : NetModel) (modid : Nat) (sfp : Dword) (i : Nat) : Bool :=
  match m.part[i]? with
  | none => false
  | some r =>
    decide (4096 ≤ r.ident) || (i != 0 && decide (r.ident ≤ ((m.part[i - 1]?).map (·.ident)).getD 0)) ||
      (decide (r.ident = modid) && (r.count != m.node.length || BitVec.ofNat 64 r.sfp != sfp))

/-- A BNDY record with a neighbour that is no other member, a branch that is no pipe with one ghost end that names this
entry, or a ghost end of another branch that names it (R159). -/
def bndyBad (m : NetModel) (modid i : Nat) : Bool :=
  match m.bndy[i]? with
  | none => false
  | some r =>
    let br := m.brchAt r.branch
    let names (x : BrchRec) : Bool := x.frm == ghostBase + i || x.dst == ghostBase + i
    !(m.part.any (·.ident == r.nbr)) || r.nbr == modid || br.kind != 0 || !names br ||
      (decide (ghostBase ≤ br.frm) && decide (ghostBase ≤ br.dst)) ||
      (List.range m.brch.length).any fun j => j != r.branch && names (m.brchAt j)

def chkPart (m : NetModel) (modid : Nat) (d : List DirEnt) (sfp : Dword) : Option LoadErr :=
  if (secOf d 13).isNone then none
  else
    firstErr [
      errIf (decide (16 < m.part.length ∨ 65536 < m.part.foldl (fun n r => n + r.count) 0)) ⟨0x104A, 13, 0xFFFFFF⟩,
      errRec 0x104A 13 (List.range m.part.length) (partBad m modid sfp),
      errIf (decide (modid = 0) || !(m.part.any (·.ident == modid))) ⟨0x104A, 13, 0xFFFFFF⟩,
      errRec 0x104A 14 (List.range m.bndy.length) (bndyBad m modid)]

/-- Loads a model image (R151 to R156): the model, or the first failed check. -/
def netLoad (modid : Nat) (b : List Byte) : Except LoadErr NetModel :=
  let d := dirEnts b
  let m := readModel b d
  match firstErr [chkFormat b, chkSection b d m, chkLimit b d, chkIndex m, chkValue m, chkTopology m,
      errIf (decide (m.plugres > 262144)) ⟨0x1046, 0, 0xFFFFFF⟩,
      errIf (m.ordsup && (m.order.foldl (fun l x => insSorted x l) []) !=
        (List.range m.node.length).filter (fun i => !m.isRef i)) ⟨0x1047, 12, 0xFFFFFF⟩,
      errIf (m.ordsup && m.order.length != m.node.countP (·.kind != 1)) ⟨0x1047, 12, 0xFFFFFF⟩] with
  | some e => .error e
  | none =>
    let (ord, cols) := ordering m m.order
    let m := { m with order := ord, cols := cols }
    let sfp := Crypto.fp64 (structureStream b d m)
    let dfp := domainFp m
    match firstErr [
        errIf (decide (m.factnz > 1572864)) ⟨0x1048, 0, 0xFFFFFF⟩,
        errIf (u64At b 16 != 0 && BitVec.ofNat 64 (u64At b 16) != sfp) ⟨0x1049, 0, 0xFFFFFF⟩,
        chkPart m modid d sfp,
        errIf (u64At b 24 != 0 && BitVec.ofNat 64 (u64At b 24) != dfp) ⟨0x104A, 13, 0xFFFFFF⟩] with
    | some e => .error e
    | none => .ok { m with sfp, dfp }

/-! ### Plug tracking (R147 to R149) -/

/-- The object of a branch that holds plugs, in service or not: volume, loss rate, ambient group, capacity (R147, R149). -/
structure PlugObj where
  vol : F64
  g : F32
  ambg : Nat
  cap : Nat

def pi64 : F64 := dec 3141592653589793238 (-18)
def quarterPiD2 (d : F32) : F64 :=
  let d := F32.toF64 d
  F64.mul (F64.mul (F64.mul (dec 25 (-2)) pi64) d) d

def NetModel.plugObj (m : NetModel) (r : BrchRec) : Option PlugObj :=
  if r.kind = 0 then
    let p := m.pipeAt r.comp
    let a := quarterPiD2 p.diam
    some ⟨F64.mul a (F32.toF64 p.len), F64.toF32 (F64.div (F32.toF64 p.uloss) a), p.ambg, p.plugmax⟩
  else if r.kind = 4 then
    let s := m.storAt r.comp
    some ⟨F32.toF64 s.cap, F64.toF32 (F64.div (F32.toF64 s.ua) (F32.toF64 s.cap)), s.ambg, s.layers⟩
  else none

def fullPlug : Nat := 2 ^ 31

/-- A branch that this module tracks: not a boundary branch the neighbour owns (R159). -/
def NetModel.tracks (m : NetModel) (i : Nat) : Bool := !(m.bndy.any fun b => b.branch == i && !b.owner)

/-- Temperature of an end: the node, or a ghost end by its boundary entry. -/
def endTemp (tn : List Word) (ghost : Nat → Word) (e : Nat) : Word :=
  if e < ghostBase then tn.getD e 0 else ghost (e - ghostBase)

/-- T0 of an end; a ghost end takes that of the branch's own node (DESIGN CHOICE, assumption log 6). -/
def NetModel.t0 (m : NetModel) (r : BrchRec) (e : Nat) : Word :=
  (m.nodeAt (if e < ghostBase then e else if r.frm < ghostBase then r.frm else r.dst)).t0

/-- Initial plug of a branch (R149). -/
def NetModel.plug0 (m : NetModel) (r : BrchRec) : Plug :=
  ⟨fullPlug, F32.mul (dec32 5 (-1)) (F32.add (m.t0 r r.frm) (m.t0 r r.dst))⟩

def thermalInit (m : NetModel) : Thermal where
  plugs := (List.range m.brch.length).filterMap fun i =>
    if (m.plugObj (m.brchAt i)).isSome && m.tracks i then some (i, [m.plug0 (m.brchAt i)]) else none
  tnode := m.node.map (·.t0)
  tout := m.brch.map fun r =>
    if r.kind = 5 then ((m.subs[r.comp]?).map (·.trdes)).getD 0 else m.t0 r r.dst

/-- What one plug update needs beside the plugs. -/
structure PlugIn where
  /-- flows by branch, solve period in s -/
  m : List Word
  dt32 : F32
  dt64 : F64
  /-- outlet temperatures of plants and substations, and of boundary branches of a neighbour -/
  tsrc : Nat → Option Word
  /-- ambient temperature by group -/
  amb : Nat → Word
  ghostT : Nat → Word

/-- Pass 1 on one plug. -/
def coolPlug (pp g dt ta : F32) (p : Plug) : Plug :=
  let x := F32.mul g dt
  let y := F32.mul (waterAt .rho pp p.t) (waterAt .cp pp p.t)
  let a := F32.exp (F32.neg (F32.div x y))
  { p with t := F32.fma (F32.sub p.t ta) a ta }

/-- Pass 2: removes `rem` from the head of the list, the outlet end: plugs left, and (take, t) pairs. -/
def takePlugs : Nat → List Plug → List Plug × List (Nat × Word)
  | _, [] => ([], [])
  | rem, p :: l =>
    if rem = 0 then (p :: l, [])
    else if rem < p.f then ({ p with f := p.f - rem } :: l, [(rem, p.t)])
    else
      let r := takePlugs (rem - p.f) l
      (r.1, (p.f, p.t) :: r.2)

def two31 : F32 := F32.ofScaled 1 (-31)

/-- Volume fraction displaced in one update. -/
def plugQ (m : F32) (dt64 : F64) (rho : F32) (v : F64) : Nat :=
  let x := F64.div (F64.mul (F32.toF64 (F32.abs m)) dt64) (F64.mul (F32.toF64 rho) v)
  if F64.le F64.one x then fullPlug else ((F64.rneI (F64.mul x (F64.ofInt (2 ^ 31)))).getD 0).toNat

def mergePlugs (a b : Plug) : Plug :=
  let f := a.f + b.f
  ⟨f, F64.toF32 (F64.div (F64.add (F64.mul (F64.ofInt a.f) (F32.toF64 a.t)) (F64.mul (F64.ofInt b.f) (F32.toF64 b.t)))
    (F64.ofInt f))⟩

/-- Position of the adjacent pair with the least temperature difference, ties to the lower position. -/
def closestPair : List Plug → Nat → Option (Nat × F32)
  | a :: b :: l, i =>
    let d := F32.abs (F32.sub a.t b.t)
    match closestPair (b :: l) (i + 1) with
    | none => some (i, d)
    | some (j, e) => if F32.lt e d then some (j, e) else some (i, d)
  | _, _ => none

def mergeAt : Nat → List Plug → List Plug
  | 0, a :: b :: l => mergePlugs a b :: l
  | n + 1, a :: l => a :: mergeAt n l
  | _, l => l

/-- Merges until the capacity holds: plugs and number of merges. -/
def capMerge (cap : Nat) : Nat → List Plug → List Plug × Nat
  | 0, l => (l, 0)
  | k + 1, l =>
    if l.length ≤ cap then (l, 0)
    else match closestPair l 0 with
      | none => (l, 0)
      | some (i, _) =>
        let r := capMerge cap k (mergeAt i l)
        (r.1, r.2 + 1)

/-- Pass 4 at position 0 when `front`, else at the end. -/
def insertPlug (tmerge : F32) (cap : Nat) (front : Bool) (q : Nat) (t : Word) (l : List Plug) : List Plug × Nat :=
  let l := if front then l else l.reverse
  let near : Bool := match l with
    | [] => false
    | a :: _ => F32.lt (F32.abs (F32.sub t a.t)) tmerge
  let l := match l with
    | [] => [⟨q, t⟩]
    | a :: r => if near then mergePlugs ⟨q, t⟩ a :: r else ⟨q, t⟩ :: a :: r
  let l := if front then l else l.reverse
  capMerge cap l.length l

/-- One plug update, four passes over all objects (R148): new state and merges under the capacity clause. -/
def plugUpdate (m : NetModel) (i : PlugIn) (th : Thermal) : Thermal × Nat :=
  let br (b : Nat) := m.brchAt b
  let flow (b : Nat) : F32 := i.m.getD b 0
  let fwd (b : Nat) : Bool := !F32.lt (flow b) F32.zero
  let inletEnd (b : Nat) : Nat := if fwd b then (br b).frm else (br b).dst
  let tinPrev (b : Nat) : F32 := endTemp th.tnode i.ghostT (inletEnd b)
  -- pass 1
  let cooled := th.plugs.map fun (b, ps) =>
    match m.plugObj (br b) with
    | some o =>
      if o.ambg = 0xFFFF then (b, ps)
      else (b, ps.map (coolPlug (m.pprop (m.netOf (br b))) o.g i.dt32 (i.amb o.ambg)))
    | none => (b, ps)
  -- pass 2: branch, plugs outlet end first, displaced fraction, outlet temperature
  let removed := cooled.map fun (b, ps) =>
    match m.plugObj (br b) with
    | none => (b, ps, 0, (0 : Word))
    | some o =>
      let q := plugQ (flow b) i.dt64 (waterAt .rho (m.pprop (m.netOf (br b))) (tinPrev b)) o.vol
      let ol := if fwd b then ps.reverse else ps
      let (left, takes) := takePlugs q ol
      let tout : F32 :=
        if q = 0 then ((ol.head?).map fun (p : Plug) => p.t).getD 0
        else F32.div (exactDot (takes.map fun (f, t) => (F32.mul (F32.fromNat f) two31, t)))
          (F32.mul (F32.fromNat q) two31)
      (b, if fwd b then left.reverse else left, q, tout)
  let tout := (List.range m.brch.length).map fun b =>
    match removed.find? (·.1 == b) with
    | some r => r.2.2.2
    | none =>
      if (br b).kind = 1 ∨ (br b).kind = 2 then tinPrev b
      else (i.tsrc b).getD (th.tout.getD b 0)
  -- pass 3
  let tnode := (List.range m.node.length).map fun n =>
    let inn := (List.range m.brch.length).filter fun b =>
      !(br b).outOfService && ((F32.lt F32.zero (flow b) && (br b).dst == n) ||
        (F32.lt (flow b) F32.zero && (br b).frm == n))
    if inn.isEmpty then th.tnode.getD n 0
    else F32.div (exactDot (inn.map fun b => (F32.abs (flow b), tout.getD b 0)))
      (exactSum (inn.map fun b => F32.abs (flow b)))
  -- pass 4
  let ins := removed.map fun (b, ps, q, _) =>
    match m.plugObj (br b) with
    | none => ((b, ps), 0)
    | some o =>
      if q = 0 then ((b, ps), 0)
      else
        let tm := ((m.netw[m.netOf (br b)]?).map fun (n : NetwRec) => n.tmerge).getD 0
        let r := insertPlug tm o.cap (fwd b) q (endTemp tnode i.ghostT (inletEnd b)) ps
        ((b, r.1), r.2)
  ({ plugs := ins.map (·.1), tnode, tout }, ins.foldl (fun n x => n + x.2) 0)

def Thermal.used (t : Thermal) : Nat := t.plugs.foldl (fun n p => n + p.2.length) 0

/-! ### The NET page at the end of phase 5 (R162) -/

def netRegsLoad (m : NetModel) (modid : Nat) (l : Lane) : Lane :=
  let pos := (m.part.findIdx? (·.ident == modid)).getD 0
  let l := ((l.put R.NET.LOADED 1).put R.NET.LFAIL 0).putB R.NET.ORDSUP m.ordsup
  let l := (l.putB R.NET.DOMAIN (!m.part.isEmpty)).putB R.FAB.DOMAIN (!m.part.isEmpty)
  let l := l.putB R.FAB.COORD ((m.part.head?).any fun p => p.ident == modid)
  let l := (l.put64 R.NET.SFP_L R.NET.SFP_H m.sfp.toNat).put64 R.NET.DFP_L R.NET.DFP_H m.dfp.toNat
  let l := ((l.put R.NET.NBRCH m.brch.length).put R.NET.NNODE m.node.length).put R.NET.NMEAS m.meas.length
  let l := ((l.put R.NET.NPIPE m.pipe.length).put R.NET.NVALV m.valv.length).put R.NET.NPUMP m.pump.length
  let l := ((l.put R.NET.NSUBS m.subs.length).put R.NET.NNET m.netw.length).put R.NET.NSTOR m.stor.length
  let l := ((l.put R.NET.NPLNT m.plnt.length).put R.NET.PLUGRES m.plugres).put R.NET.FACTNZ m.factnz
  let l := (l.put R.NET.DPOS pos).put R.NET.DMEM (m.part.length - 1)
  let t := thermalInit m
  let l := (l.put R.NET.PLUGUSE t.used).put R.NET.PLUGHWM t.used
  let l := l.put64 R.SOLD.FLOPF_L R.SOLD.FLOPF_H m.flopf
  ({ l with slv := { l.slv with model := some m, therm := t } }).irq R.NET.I_LOADOK

def netRegsFail (e : LoadErr) (l : Lane) : Lane :=
  let l := ((l.put R.NET.LOADED 0).put R.NET.LFAIL 1).put R.NET.ESEC e.sec
  (((l.put R.NET.EREC e.rec_).post e.code).irq R.NET.I_LOADFAIL)

end Sys2Proof.Machine
end

