-- ==== Sys2Proof/Machine/Solver.lean ====
section
/-! DEFINITION. Crucible: snapshot processing, the Gauss–Newton iterations, status and the result record
(07_crucible_solver.md). Within an expression products and sums are taken from left to right. -/

namespace Sys2Proof.Machine

open F32 in
def half32 : F32 := dec32 5 (-1)
def pi32 : F32 := dec32 3141592653589793 (-15)
def grav : F32 := dec32 980665 (-5)
def two32 : F32 := F32.fromNat 2
def mul3 (a b c : F32) : F32 := F32.mul (F32.mul a b) c
def mul4 (a b c d : F32) : F32 := F32.mul (mul3 a b c) d
/-- m|m|. -/
def sqSigned (m : F32) : F32 := F32.mul m (F32.abs m)
def big100 : F32 := F32.ofScaled 1 100
/-- Finite and not above 2^100 in magnitude (R175, R177). -/
def sane (x : F32) : Bool := F32.isFin x && F32.le (F32.abs x) big100
/-- Largest magnitude; a NaN is passed over. -/
def maxAbs (l : List F32) : F32 := l.foldl (fun a x => if F32.lt a (F32.abs x) then F32.abs x else a) F32.zero

/-! ### Settings and snapshot (R164, R167) -/

def solCfgOf (l : Lane) : SolCfg where
  nit := l.get R.SOL.NIT
  nref := l.get R.SOL.NREF
  bdstep := l.get R.SOL.BDSTEP
  bdmax := l.get R.SOL.BDMAX
  bdthr := l.getW R.SOL.BDTHR
  ptol := l.getW R.SOL.PTOL
  dpmax := l.getW R.SOL.DPMAX
  stale := l.get R.SOL.STALE
  tage := l.get R.SOL.TAGE
  obsmin := l.get R.SOL.OBSMIN
  sigs := l.get R.SOL.SIGS
  sigh := l.get R.SOL.SIGH
  sign := l.get R.SOL.SIGN

/-- Analog input `i` in µA as the current input frame carries it. -/
def Lane.ai (l : Lane) (i : Nat) : Nat :=
  l.get ((if i % 2 = 0 then R.PIO.AI_L else R.PIO.AI_H).idx (i / 2))

/-- Published quantity `q` of a heat point in the order flow, supply, return, power (R310). -/
def HeatPoint.quantity (h : HeatPoint) (q : Nat) : Word :=
  match q with
  | 0 => h.flow
  | 1 => F64.toF32 h.ts
  | 2 => F64.toF32 h.tr
  | _ => h.power

def HeatPoint.faulted (h : HeatPoint) : Bool := h.tsf || h.trf || h.flf || h.tstale
def Heating.ok (h : Heating) (i : Nat) : Bool :=
  ((h.hpCfg[i]?).map fun (c : HpCfg) => c.on).getD false && ((h.hps[i]?).map fun (p : HeatPoint) => !p.faulted).getD false

/-- Raw value and age of a binding (Table SOL-1). -/
def measSnap (l : Lane) (r : MeasRec) : MeasSnap :=
  match r.src with
  | 1 =>
    let v := l.ai r.addr
    ⟨some (F32.fromNat v), 0, decide (v < 3600 ∨ 21000 < v)⟩
  | 2 => ⟨(l.heat.hps[r.addr % 256]?).map fun (h : HeatPoint) => h.quantity (r.addr / 256), 0, !l.heat.ok (r.addr % 256)⟩
  | 3 =>
    match l.ports.stations.find? (·.stn == r.addr % 2048) with
    | none => ⟨none, 0, false⟩
    | some s =>
      match s.fields.find? (·.1 == r.addr / 65536) with
      | none => ⟨none, 0, false⟩
      | some (_, v, valid, f) => ⟨some v, l.fno - f, !valid⟩
  | 4 => ⟨some (kvGet 0 l.prg.view r.addr), 0, false⟩
  | _ => ⟨some r.ofs, 0, false⟩

/-! ### Temperatures of the base (R167) -/

/-- Fraction-weighted mean of a list of plugs. -/
def plugMean (ps : List Plug) : F32 := exactDot (ps.map fun p => (F32.mul (F32.fromNat p.f) two31, p.t))

/-- Property temperature of a branch: mean plug temperature of a pipe or store, the inlet node's
temperature otherwise (DEDUCED from R143 and R146, assumption log 12). -/
def propTemp (m : NetModel) (flow : Nat → F32) (ghostT : Nat → Word) (th : Thermal) (b : Nat) : F32 :=
  match th.plugs.find? (·.1 == b) with
  | some (_, ps) => plugMean ps
  | none =>
    let r := m.brchAt b
    endTemp th.tnode ghostT (if F32.lt (flow b) F32.zero then r.dst else r.frm)

def coldTprop (m : NetModel) : List Word := m.brch.map fun r => (m.plug0 r).t

/-! ### Conversion and status of the bindings (R168, R169) -/

structure Temps where
  tnode : List Word
  tprop : List Word
  tout : List Word

def isThermal (q : Nat) : Bool := q == 5 || q == 6 || q == 10
def isFlow (q : Nat) : Bool := q == 3 || q == 4 || q == 7
def isTheta (q : Nat) : Bool := q == 8 || q == 9

/-- Value, weight and status of one binding; `ghostT` gives the neighbour's base node temperature at a ghost end. -/
def convBinding (m : NetModel) (c : SolCfg) (t : Temps) (ghostT : Nat → Word) (r : MeasRec) (s : MeasSnap) : Word × Word × Nat :=
  match s.raw with
  | none => (0, 0, 1)
  | some raw =>
    let v := F32.fma raw r.gain r.ofs
    let k := F32.add F32.one (F32.div (F32.div (F32.fromNat s.age) (F32.fromNat 1000)) (F32.fromNat c.tage))
    let sig := F32.mul r.sigma k
    let br := m.brchAt r.obj
    let pp := m.pprop (m.netOf br)
    let tb := t.tprop.getD r.obj 0
    let dt := F32.sub (endTemp t.tnode ghostT br.frm) (t.tout.getD r.obj 0)
    let (z, sig) :=
      if r.qty = 4 then
        let rho := waterAt .rho pp tb
        (F32.mul rho v, F32.mul rho sig)
      else if r.qty = 7 then
        let cp := waterAt .cp pp tb
        (F32.div v (F32.mul cp dt), F32.div sig (F32.mul cp (F32.abs dt)))
      else (v, sig)
    let w := F32.div F32.one (F32.mul sig sig)
    let st : Nat :=
      if s.age > c.stale * 1000 then 2
      else if s.bad then 3
      else if !F32.isFin z || !F32.isFin w then 4
      else if r.qty = 7 ∧ F32.lt (F32.abs dt) two32 then 5
      else if r.qty = 1 ∧ m.isRef r.obj then 6
      else if isThermal r.qty then 7
      else 0
    (z, w, st)

/-! ### Branch evaluation (R143 to R146, Table SOL-3) -/

/-- Drop, ∂D/∂m and ∂D/∂θ. -/
structure BrEval where
  d : F32
  a : F32
  c : F32 := F32.zero

def swameeJain (eps dia re : F32) : F32 :=
  let x := F32.add (F32.div eps (F32.mul (dec32 37 (-1)) dia)) (F32.div (dec32 574 (-2)) (F32.pow re (dec32 9 (-1))))
  let l := F32.log10 x
  F32.div (dec32 25 (-2)) (F32.mul l l)

def frictionF (eps dia re : F32) : F32 :=
  if F32.lt (F32.fromNat 4000) re then swameeJain eps dia re
  else
    let f2 := F32.div (F32.fromNat 64) (F32.fromNat 2000)
    let f4 := swameeJain eps dia (F32.fromNat 4000)
    F32.fma (F32.div (F32.sub re (F32.fromNat 2000)) (F32.fromNat 2000)) (F32.sub f4 f2) f2

def evalPipe (p : PipeRec) (rho mu m : F32) : BrEval :=
  let d4 := mul4 p.diam p.diam p.diam p.diam
  let am := F32.abs m
  let re := F32.div (F32.mul (F32.fromNat 4) am) (mul3 pi32 p.diam mu)
  let den := mul4 rho pi32 pi32 d4
  if F32.lt re (F32.fromNat 2000) then
    let lam := F32.div (mul3 (F32.fromNat 128) mu p.len) (mul3 pi32 rho d4)
    let kap := F32.div (F32.mul (F32.fromNat 8) p.zeta) den
    ⟨F32.add (F32.mul lam m) (F32.mul kap (sqSigned m)), F32.add lam (mul3 two32 kap am), F32.zero⟩
  else
    let f := frictionF p.rough p.diam re
    let kap := F32.div (F32.mul (F32.fromNat 8) (F32.add (F32.div (F32.mul f p.len) p.diam) p.zeta)) den
    ⟨F32.mul kap (sqSigned m), mul3 two32 kap am, F32.zero⟩

/-- A control valve or a substation with Kv and its derivative (R145). -/
def evalKv (rho m kv kvd : F32) : BrEval :=
  let kap := F32.div (dec32 1296 6) (mul3 rho kv kv)
  let d := F32.mul kap (sqSigned m)
  ⟨d, mul3 two32 kap (F32.abs m), F32.div (F32.mul (F32.mul (F32.neg two32) d) kvd) kv⟩

def evalValve (v : ValvRec) (rho m h : F32) : BrEval :=
  let leak := F32.mul v.leak v.kvs
  let raw := if v.char = 0 then F32.mul v.kvs h else F32.mul v.kvs (F32.pow v.range (F32.sub h F32.one))
  let kv := F32.max raw leak
  let kvd :=
    if F32.lt raw leak then F32.zero
    else if v.char = 0 then v.kvs else F32.mul kv (F32.ln v.range)
  evalKv rho m kv kvd

def evalPump (p : PumpRec) (rho m n : F32) : BrEval :=
  let q := F32.div m rho
  let head := F32.add (F32.add (mul3 p.a0 n n) (mul3 p.a1 n q)) (F32.mul p.a2 (sqSigned q))
  ⟨mul3 (F32.neg rho) grav head,
   F32.mul (F32.neg grav) (F32.add (F32.mul p.a1 n) (mul3 two32 p.a2 (F32.abs q))),
   mul3 (F32.neg rho) grav (F32.add (mul3 two32 p.a0 n) (F32.mul p.a1 q))⟩

def evalK (k m : F32) : BrEval := ⟨F32.mul k (sqSigned m), mul3 two32 k (F32.abs m), F32.zero⟩

def evalBranch (md : NetModel) (tprop : List Word) (b : Nat) (m th : F32) : BrEval × F32 :=
  let r := md.brchAt b
  let pp := md.pprop (md.netOf r)
  let t := tprop.getD b 0
  let rho := waterAt .rho pp t
  let e := match r.kind with
    | 0 => evalPipe (md.pipeAt r.comp) rho (waterAt .mu pp t) m
    | 1 => match md.pump[r.comp]? with
      | some p => evalPump p rho m th
      | none => ⟨0, 0, 0⟩
    | 2 => match md.valv[r.comp]? with
      | some v => evalValve v rho m th
      | none => ⟨0, 0, 0⟩
    | 3 => evalK (((md.plnt[r.comp]?).map fun (p : PlntRec) => p.khyd).getD 0) m
    | 4 => evalK (md.storAt r.comp).khyd m
    | _ => match md.subs[r.comp]? with
      | some s => evalKv rho m (F32.mul s.kvs th) s.kvs
      | none => ⟨0, 0, 0⟩
  (e, rho)

/-! ### θ of a branch -/

/-- A branch with a θ: a pump, valve or substation in service (DEDUCED, assumption log 125). -/
def hasTheta (r : BrchRec) : Bool := !r.outOfService && (r.kind == 1 || r.kind == 2 || r.kind == 5)
def thetaLo (r : BrchRec) : F32 := if r.kind = 5 then dec32 1 (-4) else F32.zero
def thetaHi (md : NetModel) (r : BrchRec) : F32 :=
  if r.kind = 1 then ((md.pump[r.comp]?).map fun (p : PumpRec) => p.nmax).getD F32.one else F32.one
def thetaCold (md : NetModel) (r : BrchRec) : F32 :=
  if r.kind = 1 then F32.min F32.one (thetaHi md r) else if r.kind = 2 then F32.one else if r.kind = 5 then half32 else F32.zero
/-- 1 / σ_θ². -/
def priorW (c : SolCfg) (r : BrchRec) : F32 :=
  let s := F32.div (F32.fromNat (if r.kind = 1 then c.sign else if r.kind = 2 then c.sigh else c.sigs)) (F32.fromNat 256)
  F32.div F32.one (F32.mul s s)

/-! ### One iteration (R170 to R175) -/

/-- Pressures seen at the ends of branches, ghost ends by the latest exchange (R184). -/
def endP (p : List Word) (ghostP : Nat → Word) (e : Nat) : F32 :=
  if e < ghostBase then p.getD e 0 else ghostP (e - ghostBase)

def endElev (md : NetModel) (e : Nat) : F32 :=
  if e < ghostBase then (md.nodeAt e).elev else Config.ghostElev (e - ghostBase)

/-- One branch in an iteration. -/
structure BrState where
  g : F32
  phi : F32
  c : F32
  m : F32
  th : F32
  closed : Bool

def brState (md : NetModel) (tprop : List Word) (ghostP : Nat → Word) (p : List Word) (b : Nat) (m th : F32) : BrState :=
  let r := md.brchAt b
  if r.outOfService then ⟨0, 0, 0, 0, th, false⟩
  else
    let (e, rho) := evalBranch md tprop b m th
    let g := F32.div F32.one (F32.max e.a F32.one)
    let s := mul3 rho grav (F32.sub (endElev md r.dst) (endElev md r.frm))
    let phi := F32.sub (F32.sub (F32.sub (endP p ghostP r.frm) (endP p ghostP r.dst)) s) e.d
    if r.nonReturn && F32.lt (F32.fma g phi m) F32.zero then ⟨F32.ofScaled 1 (-30), 0, e.c, 0, th, true⟩
    else ⟨g, phi, e.c, m, th, false⟩

def BrState.u (s : BrState) : F32 := F32.fma s.g s.phi s.m

/-- A USED binding as it enters the fit. -/
structure Row where
  j : Nat
  r : MeasRec
  z : F32
  w : F32

/-- Bindings of a status as rows. -/
def rowsOf (md : NetModel) (k : SolWork) (st : Nat) : List Row :=
  (List.range md.meas.length).filterMap fun j =>
    match md.meas[j]? with
    | some r => if k.zst.getD j 1 = st then some ⟨j, r, k.z.getD j 0, k.w.getD j 0⟩ else none
    | none => none

def usedRows (md : NetModel) (k : SolWork) : List Row := rowsOf md k 0

def netOfBinding (md : NetModel) (r : MeasRec) : Nat :=
  if r.qty = 1 ∨ r.qty = 5 then (md.nodeAt r.obj).net else md.netOf (md.brchAt r.obj)

/-- Parameter update of one branch (R172): its state after it, and whether θ ended at a bound. -/
def thetaStep (md : NetModel) (c : SolCfg) (rows : List Row) (th0 : F32) (b : Nat) (s : BrState) : BrState × Bool :=
  let r := md.brchAt b
  if !hasTheta r then (s, false)
  else
    let own := rows.filter fun x => x.r.obj == b
    let tr := own.filter fun x => isTheta x.r.qty
    let fr := own.filter fun x => isFlow x.r.qty
    let u := s.u
    let kb := F32.neg (F32.mul s.c s.g)
    let wp := priorW c r
    let num := exactDot ([(wp, F32.sub th0 s.th)] ++ tr.map (fun x => (x.w, F32.sub x.z s.th)) ++
      fr.map (fun x => (F32.mul x.w kb, F32.sub x.z u)))
    let den := exactDot ([(wp, F32.one)] ++ tr.map (fun x => (x.w, F32.one)) ++ fr.map (fun x => (F32.mul x.w kb, kb)))
    let raw := F32.add s.th (F32.div num den)
    let lo := thetaLo r
    let hi := thetaHi md r
    let tn := if F32.lt raw lo then lo else if F32.lt hi raw then hi else raw
    ({ s with phi := F32.fma (F32.neg s.c) (F32.sub tn s.th) s.phi, th := tn },
      F32.le tn lo || F32.le hi tn)

/-- Coefficients of a hydraulic row on own, non-reference nodes, and its residual. -/
def rowCoef (md : NetModel) (ghostP : Nat → Word) (p : List Word) (st : List BrState) (x : Row) : List (Nat × F32) × F32 :=
  let br := md.brchAt x.r.obj
  let s := st.getD x.r.obj ⟨0, 0, 0, 0, 0, false⟩
  let free (l : List (Nat × F32)) := l.filter fun e => decide (e.1 < ghostBase) && !md.isRef e.1
  if x.r.qty = 1 then (free [(x.r.obj, F32.one)], F32.sub x.z (p.getD x.r.obj 0))
  else if x.r.qty = 2 then
    (free [(br.frm, F32.one), (br.dst, F32.neg F32.one)],
      F32.sub x.z (F32.sub (endP p ghostP br.frm) (endP p ghostP br.dst)))
  else if isFlow x.r.qty then (free [(br.frm, s.g), (br.dst, F32.neg s.g)], F32.sub x.z s.u)
  else ([], F32.sub x.z s.th)

/-- Terms of the nodal system keyed by node pair and node, gathered before the one rounding (R173). Networks that have
ended take no part (R175). -/
structure Terms where
  mat : List ((Nat × Nat) × (F32 × F32))
  rhs : List (Nat × (F32 × F32))

def nodalTerms (md : NetModel) (ghostP : Nat → Word) (p : List Word) (st : List BrState) (rows : List Row)
    (ended : Nat → Bool) : Terms :=
  let brT := (List.range md.brch.length).map fun b =>
    let r := md.brchAt b
    let s := st.getD b ⟨0, 0, 0, 0, 0, false⟩
    if r.outOfService || ended (md.netOf r) then (([] : List ((Nat × Nat) × (F32 × F32))), ([] : List (Nat × (F32 × F32))))
    else
      let ok (e : Nat) : Bool := decide (e < ghostBase) && !md.isRef e
      let d (e : Nat) := if ok e then [((e, e), (s.g, F32.one))] else []
      let o := if ok r.frm && ok r.dst then
        [((r.frm, r.dst), (F32.neg s.g, F32.one)), ((r.dst, r.frm), (F32.neg s.g, F32.one))] else []
      (d r.frm ++ d r.dst ++ o,
        (if ok r.frm then [(r.frm, (F32.neg s.u, F32.one))] else []) ++
        (if ok r.dst then [(r.dst, (s.u, F32.one))] else []))
  let meT := rows.map fun x =>
    let hr : List (Nat × F32) × F32 := rowCoef md ghostP p st x
    let h := hr.1
    let res := hr.2
    (h.flatMap fun (a, ha) => h.map fun ((b, hb) : Nat × F32) => ((a, b), (F32.mul x.w ha, hb)),
     h.map fun (a, ha) => (a, (F32.mul x.w ha, res)))
  let all : List (List ((Nat × Nat) × (F32 × F32)) × List (Nat × (F32 × F32))) := brT ++ meT
  ⟨all.flatMap (·.1), all.flatMap (·.2)⟩

/-- The system by elimination position: diagonal, columns below it, right-hand side. -/
structure System where
  diag : List F32
  low : List (List (Nat × F32))
  rhs : List F32

def buildSystem (md : NetModel) (t : Terms) : System :=
  let pos := md.order
  let entry (a c : Nat) : F32 := exactDot ((t.mat.filter fun e => e.1 == (a, c)).map (·.2))
  { diag := pos.map fun v => entry v v
    low := (pos.zip md.cols).map fun (v, col) => col.map fun i => (i, entry (pos.getD i 0) v)
    rhs := pos.map fun v => exactDot ((t.rhs.filter fun e => e.1 == v).map (·.2)) }

/-- The factor: rows of L as (column, value) ascending, D, and the pivot record: position, 1 zero or 2 tiny. -/
structure Factor where
  rows : List (List (Nat × F32))
  d : List F32
  piv : List (Nat × Nat)

def lget (l : List (Nat × F32)) (k : Nat) : Option F32 := (l.find? (·.1 == k)).map (·.2)

/-- The fma chain of R174 for entry (i, j). -/
def chain (d : List F32) (ri rj : List (Nat × F32)) (s : F32) : F32 :=
  rj.foldl (fun s (k, ljk) =>
    match lget ri k with
    | some lik => F32.fma (F32.neg lik) (F32.mul ljk (d.getD k 0)) s
    | none => s) s

def factorCols (tau : F32) (sy : System) : Nat → Nat → Factor → Factor
  | 0, _, f => f
  | n + 1, j, f =>
    let rj := f.rows.getD j []
    let s := chain f.d rj rj (sy.diag.getD j 0)
    let bad : Nat := if !F32.isFin s then 0 else if F32.le tau s then 0 else if F32.isZero s then 1 else 2
    let dj := if bad = 0 then s else tau
    let rows := (sy.low.getD j []).foldl (fun rows (i, mij) =>
      let ri := rows.getD i []
      rows.set i (ri ++ [(j, F32.div (chain f.d ri rj mij) dj)])) f.rows
    factorCols tau sy n (j + 1)
      { rows, d := f.d ++ [dj], piv := if bad = 0 then f.piv else f.piv ++ [(j, bad)] }

def factorise (sy : System) : Factor :=
  let n := sy.diag.length
  factorCols (F32.mul (F32.ofScaled 1 (-24)) (maxAbs sy.diag)) sy n 0 ⟨List.replicate n [], [], []⟩

/-- Forward substitution, division by D, backward substitution (R175). -/
def triSolve (f : Factor) (r : List F32) : List F32 :=
  let y := (f.rows.zip r).foldl (fun (acc : List F32) (ri, b) =>
    acc ++ [ri.foldl (fun s (k, l) => F32.fma (F32.neg l) (acc.getD k 0) s) b]) []
  let z := List.zipWith F32.div y f.d
  let n := z.length
  (List.range n).reverse.foldl (fun (x : List F32) i =>
    let s := (List.range n).reverse.foldl (fun s k =>
      if i < k then
        match lget (f.rows.getD k []) i with
        | some l => F32.fma (F32.neg l) (x.getD k 0) s
        | none => s
      else s) (x.getD i 0)
    x.set i s) z

def residual (sy : System) (x : List F32) : List F32 :=
  (List.range x.length).map fun i =>
    let up := (List.range x.length).flatMap fun j =>
      ((sy.low.getD j []).filter fun e => e.1 == i).map fun e => (F32.neg e.2, x.getD j 0)
    let down := (sy.low.getD i []).map fun e => (F32.neg e.2, x.getD e.1 0)
    exactDot ([(sy.rhs.getD i 0, F32.one), (F32.neg (sy.diag.getD i 0), x.getD i 0)] ++ up ++ down)

def refine (sy : System) (f : Factor) : Nat → List F32 → List F32
  | 0, x => x
  | n + 1, x => refine sy f n (List.zipWith F32.add x (triSolve f (residual sy x)))

/-- Residuals of rows after a step (R176): binding index, normalised value and value. -/
def normResiduals (md : NetModel) (ghostP : Nat → Word) (p : List Word) (st : List BrState) (rows : List Row)
    (step : Nat → F32) : List (Nat × F32 × F32) :=
  rows.map fun x =>
    let (h, res) := rowCoef md ghostP p st x
    let corr := exactDot (h.map fun (n, hn) => (hn, step n))
    let r := F32.sub res corr
    (x.j, F32.mul (F32.abs r) (F32.sqrt x.w), r)

/-- Marks rows above BDTHR in descending order, ties to the lower index, up to BDMAX. -/
def badMarks (thr : F32) : Nat → List (Nat × F32) → List Nat
  | 0, _ => []
  | n + 1, l =>
    match l.foldl (fun (best : Option (Nat × F32)) x =>
        if F32.lt thr x.2 then
          match best with
          | none => some x
          | some b => if F32.lt b.2 x.2 ∨ (x.2 = b.2 ∧ x.1 < b.1) then some x else some b
        else best) none with
    | none => []
    | some b => b.1 :: badMarks thr n (l.filter fun x => x.1 != b.1)

/-- One Gauss–Newton iteration over every network that has not ended (R172 to R176). A network whose iteration is rejected
keeps what its last executed iteration left. -/
def iterate (md : NetModel) (c : SolCfg) (tprop : List Word) (ghostP : Nat → Word) (it : Nat) (k : SolWork) : SolWork :=
  let nb := md.brch.length
  let ended (n : Nat) : Bool := k.rej.getD n false
  let going (x : Row) : Bool := !ended (netOfBinding md x.r)
  let rows := (usedRows md k).filter going
  let st0 := (List.range nb).map fun b => brState md tprop ghostP k.p b (k.m.getD b 0) (k.th.getD b 0)
  let stb := (List.range nb).map fun b =>
    thetaStep md c rows (k.th0.getD b 0) b (st0.getD b ⟨0, 0, 0, 0, 0, false⟩)
  let st := stb.map (·.1)
  let sy := buildSystem md (nodalTerms md ghostP k.p st rows ended)
  let f := factorise sy
  let dp := refine sy f c.nref (triSolve f sy.rhs)
  let netOfNode (v : Nat) : Nat := (md.nodeAt v).net
  let nets := List.range md.netw.length
  let dpOf (n : Nat) : List F32 := ((md.order.zip dp).filter fun e => netOfNode e.1 == n).map (·.2)
  let alpha := nets.map fun n => F32.min F32.one (F32.div c.dpmax (maxAbs (dpOf n)))
  let raw (v : Nat) : F32 :=
    if md.isRef v then F32.zero else ((md.order.zip dp).find? (·.1 == v)).elim F32.zero (·.2)
  let step (v : Nat) : F32 := if v < ghostBase then F32.mul (alpha.getD (netOfNode v) 0) (raw v) else F32.zero
  let pNew := (List.range md.node.length).map fun v =>
    if md.isRef v then k.p.getD v 0 else F32.add (k.p.getD v 0) (step v)
  let mNew := (List.range nb).map fun b =>
    let r := md.brchAt b
    if r.outOfService then F32.zero
    else
      let s := st.getD b ⟨0, 0, 0, 0, 0, false⟩
      let a := alpha.getD (md.netOf r) 0
      let rawEnd (e : Nat) : F32 := if e < ghostBase then raw e else F32.zero
      let m := F32.fma s.g (F32.add s.phi (F32.mul a (F32.sub (rawEnd r.frm) (rawEnd r.dst)))) s.m
      if r.nonReturn && F32.lt m F32.zero then F32.zero else m
  let thNew := st.map (·.th)
  let bad (n : Nat) : Bool :=
    !((md.order.zip f.d).all fun e => netOfNode e.1 != n || sane e.2) ||
    !((dpOf n).all sane) ||
    !((List.range md.node.length).all fun v => netOfNode v != n || sane (pNew.getD v 0)) ||
    !((List.range nb).all fun b => md.netOf (md.brchAt b) != n || (sane (mNew.getD b 0) && sane (thNew.getD b 0)))
  let live (n : Nat) : Bool := !ended n && !bad n
  let pickN (old new : List Word) := (List.range md.node.length).map fun v =>
    if live (netOfNode v) then new.getD v 0 else old.getD v 0
  let pickB (old new : List Word) := (List.range nb).map fun b =>
    if live (md.netOf (md.brchAt b)) then new.getD b 0 else old.getD b 0
  let liveRow (x : Row) : Bool := live (netOfBinding md x.r)
  let nr := normResiduals md ghostP k.p st (rows.filter liveRow) step
  -- bindings at reference nodes are kept for residual reporting only (Table SOL-2)
  let nref := normResiduals md ghostP k.p st ((rowsOf md k 6).filter liveRow) step
  let marks := if c.bdstep ≠ 0 ∧ it = c.bdstep then badMarks c.bdthr c.bdmax (nr.map fun x => (x.1, x.2.1)) else []
  let pickF (old new : List Bool) := (List.range nb).map fun b =>
    if live (md.netOf (md.brchAt b)) then new.getD b false else old.getD b false
  { k with
    p := pickN k.p pNew
    m := pickB k.m mNew
    th := pickB k.th thNew
    zst := (List.range k.zst.length).map fun j => if marks.contains j then 8 else k.zst.getD j 1
    resid := (nr ++ nref).foldl (fun l x => l.set x.1 x.2.1) k.resid
    res := (nr ++ nref).foldl (fun l x => l.set x.1 x.2.2) k.res
    rej := nets.map fun n => ended n || bad n
    its := nets.map fun n => if live n then k.its.getD n 0 + 1 else k.its.getD n 0
    lastdp := nets.map fun n => if live n then maxAbs ((dpOf n).map (F32.mul (alpha.getD n 0))) else k.lastdp.getD n 0
    closed := pickF k.closed (st.map (·.closed))
    bound := pickF k.bound (stb.map (·.2))
    piv := (List.range md.order.length).filterMap fun j =>
      let v := md.order.getD j 0
      if live (netOfNode v) then (f.piv.find? (·.1 == j)).map fun e => (v, e.2 == 1) else k.piv.find? (·.1 == v) }

def iterateN (md : NetModel) (c : SolCfg) (tprop : List Word) (ghostP : Nat → Word) : Nat → Nat → SolWork → SolWork
  | 0, _, k => k
  | n + 1, i, k => iterateN md c tprop ghostP n (i + 1) (iterate md c tprop ghostP i k)

/-! ### Starting a solve (R181, R182) -/

def SolveRec.temps (r : SolveRec) : Temps := ⟨r.therm.tnode, r.tprop, r.therm.tout⟩

/-- The base of one network: none where it starts cold (R181). -/
def warmBase (base : Option SolveRec) (cold : Bool) (net : Nat) : Option SolveRec :=
  if cold then none
  else base.bind fun r => if ((r.nets[net]?).map fun (x : NetRes) => x.ever).getD false then some r else none

/-- Temperatures the job uses: those of the base, or in a network that starts cold T0 of the nodes and, for branches, the
mean of the end-node T0 (R167, R181). -/
def jobTemps (md : NetModel) (base : Option SolveRec) (cold : Bool) : Temps :=
  let t := thermalInit md
  let c : Temps := ⟨t.tnode, coldTprop md, coldTprop md⟩
  let ofN (f : Temps → List Word) := (List.range md.node.length).map fun v =>
    (f (((warmBase base cold (md.nodeAt v).net).map SolveRec.temps).getD c)).getD v 0
  let ofB (f : Temps → List Word) := (List.range md.brch.length).map fun b =>
    (f (((warmBase base cold (md.netOf (md.brchAt b))).map SolveRec.temps).getD c)).getD b 0
  ⟨ofN (·.tnode), ofB (·.tprop), ofB (·.tout)⟩

def startWork (md : NetModel) (c : SolCfg) (base : Option SolveRec) (cold : Bool) (snaps : List MeasSnap) : SolWork :=
  let conv := (md.meas.zip snaps).map fun (r, s) => convBinding md c (jobTemps md base cold) (fun _ => 0) r s
  let warm := warmBase base cold
  let p := (List.range md.node.length).map fun v =>
    let nd := md.nodeAt v
    if nd.kind = 1 then ((md.netw[nd.net]?).map fun (x : NetwRec) => x.pref).getD 0
    else match warm nd.net with
      | some r => r.p.getD v 0
      | none => nd.p0
  let ofB (f : SolveRec → List Word) (cold : BrchRec → Word) := (List.range md.brch.length).map fun b =>
    let r := md.brchAt b
    match warm (md.netOf r) with
    | some x => (f x).getD b 0
    | none => cold r
  let th := ofB (·.th) (thetaCold md)
  { p, m := (ofB (·.m) (·.m0)).zipWith (fun w (r : BrchRec) => if r.outOfService then F32.zero else w) md.brch, th, th0 := th
    z := conv.map (·.1), w := conv.map (·.2.1), zst := conv.map (·.2.2)
    resid := List.replicate md.meas.length 0
    res := List.replicate md.meas.length 0
    rej := List.replicate md.netw.length false
    its := List.replicate md.netw.length 0
    lastdp := List.replicate md.netw.length 0
    closed := [], bound := [], piv := [] }

/-- The bindings of a member that has its neighbours' exchange 0: a ghost end takes their base node temperature
(R169). -/
def SolveJob.convert (md : NetModel) (j : SolveJob) (ghostT : Nat → Word) : SolveJob :=
  let conv := (md.meas.zip j.snaps).map fun (r, s) => convBinding md j.cfg (jobTemps md j.base j.cold) ghostT r s
  { j with work := { j.work with z := conv.map (·.1), w := conv.map (·.2.1), zst := conv.map (·.2.2) } }

/-! ### Ending a solve: validity, thermal stage, status, record (R177 to R180) -/

/-- Weighted mean of the usable bindings of a quantity on an object (R177), none without one. -/
def boundMean (md : NetModel) (k : SolWork) (qty obj : Nat) : Option F32 :=
  let l := (List.range md.meas.length).filterMap fun j =>
    match md.meas[j]? with
    | some r =>
      let st := k.zst.getD j 1
      if r.qty = qty ∧ r.obj = obj ∧ (st = 0 ∨ st = 7) then some (k.w.getD j 0, k.z.getD j 0) else none
    | none => none
  if l.isEmpty then none
  else some (F32.div (exactDot l) (exactSum (l.map (·.1))))

def srcTemp (md : NetModel) (k : SolWork) (b : Nat) : Option Word :=
  let r := md.brchAt b
  if r.kind = 3 ∨ r.kind = 5 then (boundMean md k 6 b).or (boundMean md k 5 r.dst) else none

def ambTemp (md : NetModel) (k : SolWork) (a : Nat) : Word :=
  match md.ambg[a]? with
  | none => 0
  | some g =>
    let st := k.zst.getD g.bind 1
    if g.bind ≠ 0xFFFF ∧ (st = 0 ∨ st = 7) then k.z.getD g.bind 0 else g.tcon

def netInvalid (md : NetModel) (k : SolWork) (n : Nat) : Bool :=
  !((List.range md.node.length).all fun v => (md.nodeAt v).net != n || sane (k.p.getD v 0)) ||
  !((List.range md.brch.length).all fun b =>
    md.netOf (md.brchAt b) != n || (sane (k.m.getD b 0) && sane (k.th.getD b 0)))

/-- The plug state of a network whose temperatures are not finite is made anew (R177). -/
def thermalBad (md : NetModel) (t : Thermal) (n : Nat) : Bool :=
  (t.plugs.any fun (b, ps) => md.netOf (md.brchAt b) == n && ps.any fun p => !F32.isFin p.t) ||
  ((List.range md.node.length).any fun v => (md.nodeAt v).net == n && !F32.isFin (t.tnode.getD v 0)) ||
  ((List.range md.brch.length).any fun b => md.netOf (md.brchAt b) == n && !F32.isFin (t.tout.getD b 0))

def thermalReset (md : NetModel) (bad : Nat → Bool) (t : Thermal) : Thermal :=
  let t0 := thermalInit md
  { plugs := t.plugs.map fun (b, ps) =>
      if bad (md.netOf (md.brchAt b)) then (b, [md.plug0 (md.brchAt b)]) else (b, ps)
    tnode := (List.range md.node.length).map fun v =>
      if bad (md.nodeAt v).net then t0.tnode.getD v 0 else t.tnode.getD v 0
    tout := (List.range md.brch.length).map fun b =>
      if bad (md.netOf (md.brchAt b)) then t0.tout.getD b 0 else t.tout.getD b 0 }

/-- Nodal imbalance of the final flows at a node (Table SOL-11). -/
def imbalance (md : NetModel) (k : SolWork) (v : Nat) : F32 :=
  F32.abs (exactSum ((List.range md.brch.length).filterMap fun b =>
    let r := md.brchAt b
    if r.outOfService then none
    else if r.frm = v then some (F32.neg (k.m.getD b 0))
    else if r.dst = v then some (k.m.getD b 0) else none))

/-- θ of branch `b` is observed: a USED θ or flow row names it (R179). -/
def thetaObs (md : NetModel) (k : SolWork) (b : Nat) : Bool :=
  hasTheta (md.brchAt b) && (usedRows md k).any fun x => x.r.obj == b && (isTheta x.r.qty || isFlow x.r.qty)

/-- A quantity of the hydraulic fit: neither thermal nor a θ. -/
def hydraulic (q : Nat) : Bool := !isThermal q && !isTheta q

def netStatus (md : NetModel) (c : SolCfg) (k : SolWork) (invalid : Nat → Bool) (n : Nat) : Nat :=
  let used := (usedRows md k).filter fun x => hydraulic x.r.qty && netOfBinding md x.r == n
  let par := (List.range md.brch.length).filter fun b => hasTheta (md.brchAt b) && md.netOf (md.brchAt b) == n
  let obs := par.countP (thetaObs md k)
  let marked := (List.range md.meas.length).any fun j =>
    k.zst.getD j 1 == 8 && ((md.meas[j]?).map fun r => netOfBinding md r == n).getD false
  if invalid n then 4
  else if k.rej.getD n false || F32.lt c.ptol (k.lastdp.getD n 0) then 3
  else if used.isEmpty then 2
  else if k.piv.any (fun e => (md.nodeAt e.1).net == n) || marked || decide (obs * 100 < c.obsmin * par.length) then 1
  else 0

/-- Ends a computation: the plug update with its flows, status and record. `flows` are those of the most
recent valid estimate; `prev` is the record current before, whose values stay for an INVALID network; of one that has never
been valid nothing is published, and its items read 0 (assumption log 106). -/
def finishSolve (md : NetModel) (ghostT : Nat → Word) (ps : Nat) (th : Thermal) (flows : List Word)
    (prev : Option SolveRec) (j : SolveJob) : SolveRec :=
  let k := j.work
  let nb := md.brch.length
  let invalid := netInvalid md k
  let used := (List.range nb).map fun b =>
    if invalid (md.netOf (md.brchAt b)) then flows.getD b 0 else k.m.getD b 0
  let pin : PlugIn := {
    m := used, dt32 := F32.div (F32.fromNat ps) (F32.fromNat 1000)
    dt64 := F64.div (F64.ofInt ps) (F64.ofInt 1000)
    tsrc := srcTemp md k, amb := ambTemp md k, ghostT := ghostT }
  let (t1, merges) := plugUpdate md pin th
  let badT := fun n => decide (n < md.netw.length) && thermalBad md t1 n
  let t2 := thermalReset md badT t1
  let invalid := fun n => invalid n || badT n
  let resT := (List.range md.meas.length).filterMap fun i =>
    match md.meas[i]? with
    | some r =>
      if k.zst.getD i 1 = 7 ∧ (r.qty = 5 ∨ r.qty = 6) then
        let t := if r.qty = 5 then t2.tnode.getD r.obj 0 else t2.tout.getD r.obj 0
        some (i, F32.mul (F32.abs (F32.sub (k.z.getD i 0) t)) (F32.sqrt (k.w.getD i 0)))
      else none
    | none => none
  let k := { k with
    resid := resT.foldl (fun l x => l.set x.1 x.2) k.resid
    zst := resT.foldl (fun l x => if F32.lt j.cfg.bdthr x.2 then l.set x.1 8 else l) k.zst }
  let nets := List.range md.netw.length
  let pick (net : Nat) (new : Word) (old : SolveRec → Option Word) : Word :=
    if invalid net then (prev.bind old).getD 0 else new
  let fin := (List.range md.node.length).map fun v => imbalance md k v
  let wr2 (n : Nat) : F32 := exactDot ((usedRows md k).filterMap fun x =>
    if netOfBinding md x.r = n then
      let r := k.res.getD x.j 0
      some (F32.mul x.w r, r)
    else none)
  let res := nets.map fun n =>
    let st := netStatus md j.cfg k invalid n
    let pv := k.piv.filter fun e => (md.nodeAt e.1).net == n
    ({ status := st
       ever := st != 4 || ((prev.bind fun r => r.nets[n]?).map fun (x : NetRes) => x.ever).getD false
       job := wr2 n
       imbal := maxAbs ((List.range md.node.length).filterMap fun v =>
         if (md.nodeAt v).net = n ∧ !md.isRef v then some (fin.getD v 0) else none)
       zpiv := pv.countP (·.2), tpiv := pv.countP (fun e => !e.2) } : NetRes)
  let unobs (n : Nat) : Bool := ((res[n]?).map fun (x : NetRes) => x.status == 2).getD false
  let flag (b : Bool) (v : Nat) : Nat := if b then v else 0
  let zst := k.zst
  let cnt (p : Nat → Bool) : Nat := zst.countP p
  let obs := (List.range nb).map (thetaObs md k)
  { n := j.n, fno := j.fno, sfp := md.sfp, dfp := md.dfp, cold := j.cold, wsmis := j.wsmis
    base := if j.cold then none else j.base.map fun (r : SolveRec) => r.n
    nets := res
    p := (List.range md.node.length).map fun v => pick (md.nodeAt v).net (k.p.getD v 0) fun r => r.p[v]?
    nq := (List.range md.node.length).map fun v =>
      flag (k.piv.any (·.1 == v)) 1 + flag (unobs (md.nodeAt v).net) 2 + flag (invalid (md.nodeAt v).net) 4
    m := (List.range nb).map fun b => pick (md.netOf (md.brchAt b)) (k.m.getD b 0) fun r => r.m[b]?
    tprop := (List.range nb).map fun b =>
      pick (md.netOf (md.brchAt b)) (propTemp md (fun b => used.getD b 0) ghostT t2 b) fun r => r.tprop[b]?
    bq := (List.range nb).map fun b =>
      flag (k.closed.getD b false) 1 + flag (obs.getD b false) 2 + flag (k.bound.getD b false) 4 +
      flag (invalid (md.netOf (md.brchAt b))) 8
    th := (List.range nb).map fun b => pick (md.netOf (md.brchAt b)) (k.th.getD b 0) fun r => r.th[b]?
    z := k.z, zst, resid := k.resid
    therm := {
      plugs := t2.plugs
      tnode := (List.range md.node.length).map fun v => pick (md.nodeAt v).net (t2.tnode.getD v 0) fun r => r.therm.tnode[v]?
      tout := (List.range nb).map fun b => pick (md.netOf (md.brchAt b)) (t2.tout.getD b 0) fun r => r.therm.tout[b]? }
    after := t2
    diag := {
      lastdp := maxAbs k.lastdp, imbal := maxAbs (res.map fun (x : NetRes) => x.imbal)
      tpiv := k.piv.countP (fun e => !e.2), zpiv := k.piv.countP (·.2)
      pivnode := ((k.piv.head?).map (·.1)).getD 0xFFFF
      nbad := cnt (· == 8), nused := cnt (· == 0)
      nmiss := cnt (fun s => s == 1 || s == 3 || s == 4 || s == 5), nstale := cnt (· == 2)
      nobs := obs.countP id
      rejnet := (nets.map fun n => if k.rej.getD n false then 2 ^ n else 0).foldl (· + ·) 0
      nitrun := k.its.foldl Nat.min j.cfg.nit, merges } }

/-- Flows of the next plug updates: those of each valid network, else the ones in force (R148, R177). -/
def nextFlows (md : NetModel) (r : SolveRec) (old : List Word) : List Word :=
  (List.range md.brch.length).map fun b =>
    if ((r.nets[md.netOf (md.brchAt b)]?).map fun (x : NetRes) => x.status == 4).getD true then old.getD b 0 else r.m.getD b 0

/-! ### Time budget (R183) -/

/-- MINPER in frames for NIT and NREF; `lat` is FAB.LATENCY of a domain member. -/
def minPer (md : NetModel) (nit nref : Nat) (lat : Option Nat) : Nat :=
  let t := 60000 + nit * (ceilDiv md.flopf 80000 + ceilDiv ((nref + 1) * md.factnz) 2000 +
    ceilDiv md.brch.length 100 + ceilDiv md.meas.length 200)
  ceilDiv t 324 + (match lat with
    | some x => (nit + 1) * (x + 1)
    | none => 0)

end Sys2Proof.Machine
end

