-- ==== Sys2Proof/Machine/Dispatch8.lean ====
section
/-! DEFINITION. The dispatch optimiser: its image, the quadratic programme, the interior-point method, and
publication (08_dispatch_optimiser.md). -/

namespace Sys2Proof.Machine

/-! ### The dispatch image (R190, R191) -/

def i16Of (b : List Byte) (o : Nat) : Int := i16At b o

def readDisp (b : List Byte) : DispImage :=
  let npl := u16At b 12
  let nst := u16At b 14
  let nch := u16At b 16
  { fmode := u8At b 18, period := u32At b 20, nstep := u8At b 24, step := u8At b 25, holdmax := u16At b 26
    cscale := wordAt b 28, co2pr := wordAt b 32, gimax := wordAt b 36, gemax := wordAt b 40
    cu := wordAt b 44, cu2 := wordAt b 48, ce := wordAt b 52, ce2 := wordAt b 56, dmax := wordAt b 60
    plants := (List.range npl).map fun i =>
      let o := 64 + 32 * i
      ⟨u8At b o, i16Of b (o + 2), wordAt b (o + 4), wordAt b (o + 8), wordAt b (o + 12), wordAt b (o + 16),
        wordAt b (o + 20), wordAt b (o + 24), wordAt b (o + 28)⟩
    stores := (List.range nst).map fun i =>
      let o := 64 + 32 * npl + 32 * i
      ⟨wordAt b o, wordAt b (o + 4), wordAt b (o + 8), wordAt b (o + 12), wordAt b (o + 16), wordAt b (o + 20),
        wordAt b (o + 24), wordAt b (o + 28)⟩
    chans := (List.range nch).map fun i =>
      let o := 64 + 32 * (npl + nst) + 20 * i
      ⟨u8At b o, u8At b (o + 1), u8At b (o + 2), u8At b (o + 3), u32At b (o + 4), wordAt b (o + 8),
        wordAt b (o + 12), wordAt b (o + 16)⟩ }

/-- Loads a dispatch image against the model and P_s: the image, or the code of the first failed check. The codes of
integer fields out of range, and that fields a plant or store does not use count as reserved, are DEDUCED (assumption log
126). -/
def dispLoad (m : NetModel) (ps : Nat) (b : List Byte) : Except Nat DispImage :=
  let d := readDisp b
  let len := 68 + 32 * d.plants.length + 32 * d.stores.length + 20 * d.chans.length
  let reservedBad := u16At b 6 != 0 || u8At b 19 != 0 ||
    (List.range d.plants.length).any (fun i => u8At b (64 + 32 * i + 1) != 0 ||
      (((m.plnt[i]?).map fun (p : PlntRec) => p.typ != 4).getD true && u16At b (64 + 32 * i + 2) != 0)) ||
    (List.range d.stores.length).any (fun i => (m.storAt i).typ == 1 &&
      u32At b (64 + 32 * d.plants.length + 32 * i + 28) != 0)
  let nn (w : Word) := f32NonNeg w
  let frac (w : Word) := f32In 0 F32.one w
  let valueOk :=
    d.fmode < 256 && (List.range 4).all (fun n => (d.fmode / 4 ^ n) % 4 != 3) &&
    decide (30000 ≤ d.period ∧ d.period ≤ 900000 ∧ ps ≠ 0 ∧ d.period % ps = 0) &&
    decide (2 ≤ d.nstep ∧ d.nstep ≤ 192 ∧ 5 ≤ d.step ∧ d.step ≤ 60 ∧ 1 ≤ d.holdmax) &&
    f32Pos d.cscale && f32Pos d.dmax && nn d.co2pr && nn d.gimax && nn d.gemax && nn d.cu && nn d.cu2 &&
    nn d.ce && nn d.ce2 &&
    d.plants.all (fun p => decide (p.mode ≤ 3) && nn p.fuel && nn p.fq && nn p.ef && F32.isFin p.elec &&
      f32Pos p.ramp && nn p.rw && nn p.mmax) &&
    (d.stores.zip (List.range d.stores.length)).all (fun (s, i) => nn s.pch && nn s.pdis && frac s.eminf &&
      frac s.emaxf && F32.le s.eminf s.emaxf && nn s.cw && nn s.vt &&
      ((m.storAt i).typ == 1 || (F32.isFin s.tlo && F32.isFin s.thi && F32.lt s.tlo s.thi))) &&
    d.chans.all (fun c => decide (c.fbmode ≤ 1 ∧ c.vkind ≤ 3 ∧ c.dkind ≤ 1) && F32.isFin c.gain &&
      F32.isFin c.ofs && F32.isFin c.fbval)
  let indexOk := d.chans.all fun c =>
    decide (c.vidx < (if c.vkind = 0 then d.plants.length else if c.vkind = 3 then 2 else d.stores.length)) &&
    (if c.dkind = 0 then decide (c.daddr ≤ 511) else decide (0x8000 ≤ c.daddr ∧ c.daddr ≤ 0xFFFF))
  if b.length < 68 ∨ u32At b 0 ≠ 0x50534944 ∨ u16At b 4 ≠ 1 ∨ u32At b 8 ≠ len ∨ b.length ≠ len ∨
      crc32c (b.take (b.length - 4)) ≠ wordAt b (b.length - 4) ∨ reservedBad then .error 0x1342
  else if d.plants.length ≠ m.plnt.length ∨ d.stores.length ≠ m.stor.length ∨ 256 < d.chans.length then .error 0x1343
  else if !valueOk then .error 0x1344
  else if !indexOk then .error 0x1345
  else if d.period > d.step * 60000 then .error 0x1341
  else .ok d

/-- Staged tables at reset (Table OPT-8). -/
def tablesReset (fmode : Nat) : List (List Word) :=
  let row (w : Word) := List.replicate 192 w
  [row 0, row 0, row 0, row 0] ++
  (List.range 4).map (fun k => row (if (fmode / 4 ^ k) % 4 = 1 then F32.one else 0)) ++
  [row 0xFFFFFFFF, row 0xFFFFFFFF]

/-- The staged tables. -/
def Optimiser.tabs (o : Optimiser) : List (List Word) :=
  if o.tables.isEmpty then tablesReset ((o.image.map (·.fmode)).getD 0) else o.tables

/-! ### The programme (R192 to R198) -/

/-- What the snapshot gives the construction. -/
structure DispIn where
  d : DispImage
  md : NetModel
  res : Option SolveRec
  therm : Thermal
  tables : List (List Word)
  pi : List (Nat × Word)
  nstep : Nat
  step : Nat
  cscale : Word
  co2pr : Word

def million : F32 := dec32 1 6

def branchOf (m : NetModel) (kind comp : Nat) : Nat :=
  (m.brch.findIdx? fun r => r.kind == kind && r.comp == comp).getD 0

def DispIn.tab (i : DispIn) (k t : Nat) : Word := (i.tables.getD k []).getD t 0
def DispIn.dh (i : DispIn) : F32 := F32.div (F32.fromNat i.step) (F32.fromNat 60)

/-- A network without a solve state (R196). -/
def DispIn.noState (i : DispIn) (net : Nat) : Bool :=
  match i.res with
  | none => true
  | some r => ((r.nets[net]?).map fun (x : NetRes) => x.status == 5).getD true

/-- Inlet temperature and present output of plant p. -/
def DispIn.plantNow (i : DispIn) (p : Nat) : F32 × F32 :=
  let b := branchOf i.md 3 p
  let br := i.md.brchAt b
  let net := i.md.netOf br
  match i.res, i.noState net with
  | some r, false =>
    let ti := r.therm.tnode.getD br.frm 0
    let cp := waterAt .cp (i.md.pprop net) ti
    let q := F32.div (mul3 cp (r.m.getD b 0) (F32.sub (r.therm.tout.getD b 0) ti)) million
    (ti, if ((i.md.plnt[p]?).map fun (x : PlntRec) => x.typ == 4).getD false then F32.neg q else q)
  | _, _ => ((i.md.nodeAt br.frm).t0, F32.zero)

/-- Bounds of q_p in step t and whether the cap was raised (R193). -/
def DispIn.qBounds (i : DispIn) (p t : Nat) : F32 × F32 × Bool :=
  match i.d.plants[p]?, i.md.plnt[p]? with
  | some dp, some pr =>
    let (ti, _) := i.plantNow p
    let net := i.md.netOf (i.md.brchAt (branchOf i.md 3 p))
    let qmax := F32.div pr.qmax million
    let dT := if pr.typ = 4 then F32.sub ti (F32.div (F32.ofInt dp.tlim) (F32.fromNat 10)) else F32.sub pr.tomax ti
    let hyd := F32.div (mul3 (waterAt .cp (i.md.pprop net) ti) dp.mmax dT) million
    let cap := if F32.isZero dp.mmax then qmax else F32.min qmax hyd
    let cap := if F32.lt cap F32.zero then F32.zero else cap
    let bit := (i.tab (if p < 32 then 8 else 9) t).getLsbD (p % 32)
    let qmin := F32.div pr.qmin million
    let (lo, off) :=
      if dp.mode = 0 then (F32.zero, false)
      else if dp.mode = 2 then (qmin, false)
      else if dp.mode = 3 then (F32.zero, true)
      else if bit then (qmin, false) else (F32.zero, true)
    if off then (F32.zero, F32.zero, false)
    else if F32.lt cap lo then (lo, lo, true) else (lo, cap, false)
  | _, _ => (0, 0, false)

/-- The forward ramp pass (R194): bounds of r per step and WIDEN. -/
def rampPass (rdh : F32) : List (F32 × F32) → F32 → F32 → List (F32 × F32) × Bool
  | [], _, _ => ([], false)
  | (l, u) :: rest, lo, hi =>
    let w1 := F32.lt (F32.add hi rdh) l
    let rh := if w1 then F32.sub l hi else rdh
    let w2 := F32.lt u (F32.add lo (F32.neg rdh))
    let rl := if w2 then F32.sub u lo else F32.neg rdh
    let r := rampPass rdh rest (F32.max l (F32.add lo rl)) (F32.min u (F32.add hi rh))
    ((rl, rh) :: r.1, w1 || w2 || r.2)

/-- The forward energy pass (R195). -/
def energyPass (a emin emax dhdis dhch : F32) : Nat → F32 → F32 → List (F32 × F32) × Bool
  | 0, _, _ => ([], false)
  | n + 1, lo, hi =>
    let rl := F32.fma a lo (F32.neg dhdis)
    let rh := F32.fma a hi dhch
    let w1 := F32.lt rh emin
    let el := if w1 then rh else emin
    let w2 := F32.lt emax rl
    let eh := if w2 then rl else emax
    let r := energyPass a emin emax dhdis dhch n (F32.max el rl) (F32.min eh rh)
    ((el, eh) :: r.1, w1 || w2 || r.2)

/-- Capacity, initial energy and retention of store j in MWh (R195). -/
def DispIn.store (i : DispIn) (j : Nat) : F32 × F32 × F32 :=
  let st := i.md.storAt j
  let ds := i.d.stores.getD j ⟨0, 0, 0, 0, 0, 0, 0, 0⟩
  let k36 := dec32 36 8
  if st.typ = 0 then
    let b := branchOf i.md 4 j
    let pp := i.md.pprop (i.md.netOf (i.md.brchAt b))
    let tb := F32.mul half32 (F32.add ds.tlo ds.thi)
    let rc := F32.mul (waterAt .rho pp tb) (waterAt .cp pp tb)
    let plugs := ((i.therm.plugs.find? (·.1 == b)).map (·.2)).getD []
    let e0 := exactDot (plugs.map fun p => (F32.mul (F32.fromNat p.f) two31,
      F32.div (mul4 (waterAt .rho pp p.t) (waterAt .cp pp p.t) st.cap (F32.sub p.t ds.tlo)) k36))
    (F32.div (mul3 rc st.cap (F32.sub ds.thi ds.tlo)) k36, e0,
      F32.exp (F32.neg (F32.div (mul3 i.dh (F32.fromNat 3600) st.ua) (F32.mul rc st.cap))))
  else
    let cap := F32.div st.cap (F32.fromNat 1000)
    (cap, F32.mul (kvGet 0 i.pi ds.tlo.toNat) cap, F32.exp (F32.mul i.dh (F32.ln (F32.sub F32.one st.ua))))

def recAmb (md : NetModel) (r : SolveRec) (a : Nat) : Word :=
  match md.ambg[a]? with
  | none => 0
  | some g =>
    let st := r.zst.getD g.bind 1
    if g.bind ≠ 0xFFFF ∧ (st = 0 ∨ st = 7) then r.z.getD g.bind 0 else g.tcon

def DispIn.cooling (i : DispIn) (net : Nat) : Bool := ((i.md.netw[net]?).map fun (x : NetwRec) => x.kind == 1).getD false

/-- D_k and L_k of a network (R196); a boundary pipe of a neighbour has no plugs here and counts at its owner (R159). -/
def DispIn.demandLoss (i : DispIn) (net : Nat) : F32 × F32 :=
  match i.res, i.noState net with
  | some r, false =>
    let bs := (List.range i.md.brch.length).filter fun b => i.md.netOf (i.md.brchAt b) == net
    let dk := F32.div (exactDot ((bs.filter fun b => (i.md.brchAt b).kind == 5).map fun b =>
      let br := i.md.brchAt b
      let tf := r.therm.tnode.getD br.frm 0
      (F32.mul (waterAt .cp (i.md.pprop net) tf) (r.m.getD b 0), F32.sub tf (r.therm.tout.getD b 0)))) million
    let lk := F32.div (exactDot ((bs.filter fun b => (i.md.brchAt b).kind == 0 && i.md.tracks b).map fun b =>
      let p := i.md.pipeAt (i.md.brchAt b).comp
      let tm := plugMean (((i.therm.plugs.find? (·.1 == b)).map (·.2)).getD [])
      let ta := if p.ambg = 0xFFFF then tm else recAmb i.md r p.ambg
      (F32.mul p.uloss p.len, if i.cooling net then F32.sub ta tm else F32.sub tm ta))) million
    (if i.cooling net then F32.neg dk else dk, lk)
  | _, _ => (F32.zero, F32.zero)

def DispIn.demand (i : DispIn) (net t : Nat) : F32 :=
  let mode := (i.d.fmode / 4 ^ net) % 4
  let v := i.tab (4 + net) t
  let (dk, lk) := i.demandLoss net
  let d :=
    if i.noState net ∨ mode = 0 then v
    else if mode = 1 then F32.mul v dk else dk
  F32.add d lk

def hmin : F32 := F32.ofScaled 1 (-16)
def hess (q : F32) : F32 := F32.max (F32.mul two32 q) hmin

/-- One variable: bounds, linear term, Hessian entry. -/
structure VarDef where
  l : F32
  u : F32
  c : F32
  h : F32

/-- The whole programme, with the flags WIDEN, CAPCLIP and NOSTATE. -/
def buildProg (i : DispIn) : QProg × Bool × Bool × Bool :=
  let np := i.d.plants.length
  let ns := i.d.stores.length
  let nk := i.md.netw.length
  let n := 2 * np + 2 * ns + 4 + 2 * nk
  let m := nk + 1 + ns + np
  let dh := i.dh
  let sc (w : F32) := F32.div w i.cscale
  let co2 := sc i.co2pr
  let steps := List.range i.nstep
  let qb := (List.range np).map fun p => steps.map fun t => i.qBounds p t
  let qnow := (List.range np).map fun p => (i.plantNow p).2
  let ramps := (List.range np).map fun p =>
    let rdh := F32.mul (((i.d.plants[p]?).map fun (x : PlantDisp) => x.ramp).getD 0) dh
    rampPass rdh ((qb.getD p []).map fun (l, u, _) => (l, u)) (qnow.getD p 0) (qnow.getD p 0)
  let sts := (List.range ns).map i.store
  let energies := (List.range ns).map fun j =>
    let ds := i.d.stores.getD j ⟨0, 0, 0, 0, 0, 0, 0, 0⟩
    let (cap, e0, a) := sts.getD j (0, 0, 0)
    energyPass a (F32.mul ds.eminf cap) (F32.mul ds.emaxf cap) (F32.mul dh ds.pdis) (F32.mul dh ds.pch) i.nstep e0 e0
  let lin (c q : F32) (l u : F32) : VarDef := ⟨l, u, c, hess q⟩
  let dl := (List.range nk).map i.demandLoss
  let demand (k t : Nat) : F32 :=
    let mode := (i.d.fmode / 4 ^ k) % 4
    let v := i.tab (4 + k) t
    let (dk, lk) := dl.getD k (0, 0)
    F32.add (if i.noState k || mode == 0 then v else if mode = 1 then F32.mul v dk else dk) lk
  let vars := steps.flatMap fun t =>
    (List.range np).map (fun p =>
      let d := i.d.plants.getD p ⟨0, 0, 0, 0, 0, 0, 0, 0, 0⟩
      let (l, u, _) := (qb.getD p []).getD t (0, 0, false)
      lin (F32.mul dh (F32.add (sc d.fuel) (F32.mul co2 d.ef))) (F32.mul dh (sc d.fq)) l u) ++
    (List.range np).map (fun p =>
      let d := i.d.plants.getD p ⟨0, 0, 0, 0, 0, 0, 0, 0, 0⟩
      let (l, u) := (ramps.getD p ([], false)).1.getD t (0, 0)
      lin 0 (sc d.rw) l u) ++
    i.d.stores.map (fun s => lin 0 (F32.mul dh (sc s.cw)) (F32.neg s.pdis) s.pch) ++
    (List.range ns).map (fun j =>
      let s := i.d.stores.getD j ⟨0, 0, 0, 0, 0, 0, 0, 0⟩
      let (l, u) := (energies.getD j ([], false)).1.getD t (0, 0)
      lin (if t + 1 = i.nstep then F32.neg (sc s.vt) else 0) 0 l u) ++
    [lin (F32.mul dh (F32.add (sc (i.tab 0 t)) (F32.mul co2 (i.tab 2 t)))) 0 0 i.d.gimax,
     lin (F32.mul (F32.neg dh) (sc (i.tab 1 t))) 0 0 i.d.gemax,
     lin (F32.mul dh (sc i.d.ce)) (F32.mul dh (sc i.d.ce2)) 0 i.d.dmax,
     lin (F32.mul dh (sc i.d.ce)) (F32.mul dh (sc i.d.ce2)) 0 i.d.dmax] ++
    List.replicate (2 * nk) (lin (F32.mul dh (sc i.d.cu)) (F32.mul dh (sc i.d.cu2)) 0 i.d.dmax)
  let plantNet (p : Nat) := i.md.netOf (i.md.brchAt (branchOf i.md 3 p))
  let storeNet (j : Nat) := i.md.netOf (i.md.brchAt (branchOf i.md 4 j))
  let one := F32.one
  let neg1 := F32.neg F32.one
  let rows := steps.flatMap fun t =>
    let v (x : Nat) := t * n + x
    let prev (x : Nat) := (t - 1) * n + x
    let qi (p : Nat) := p
    let ri (p : Nat) := np + p
    let ci (j : Nat) := 2 * np + j
    let ei (j : Nat) := 2 * np + ns + j
    let gi := 2 * np + 2 * ns
    (List.range nk).map (fun k =>
      (⟨demand k t,
        ((List.range np).filter fun p => plantNet p == k).map (fun p => (v (qi p), one)) ++
        ((List.range ns).filter fun j => (i.md.storAt j).typ == 0 && storeNet j == k).map (fun j => (v (ci j), neg1)) ++
        [(v (gi + 4 + 2 * k), one), (v (gi + 4 + 2 * k + 1), neg1)]⟩ : EqRow)) ++
    [⟨i.tab 3 t,
      (List.range np).map (fun p =>
        (v (qi p), F32.neg (((i.d.plants[p]?).map fun (x : PlantDisp) => x.elec).getD 0))) ++
      ((List.range ns).filter fun j => (i.md.storAt j).typ == 1).map (fun j => (v (ci j), neg1)) ++
      [(v gi, one), (v (gi + 1), neg1), (v (gi + 2), one), (v (gi + 3), neg1)]⟩] ++
    (List.range ns).map (fun j =>
      let (_, e0, a) := sts.getD j (0, 0, 0)
      let base := [(v (ei j), one), (v (ci j), F32.neg dh)]
      if t = 0 then ⟨F32.mul a e0, base⟩ else ⟨0, base ++ [(prev (ei j), F32.neg a)]⟩) ++
    (List.range np).map (fun p =>
      let base := [(v (ri p), one), (v (qi p), neg1)]
      if t = 0 then ⟨F32.neg (qnow.getD p 0), base⟩ else ⟨0, base ++ [(prev (qi p), one)]⟩)
  let fixed := vars.map fun x =>
    F32.lt (F32.sub x.u x.l) (F32.mul (F32.ofScaled 1 (-20)) (F32.max F32.one (F32.abs x.l)))
  let isFixed (k : Nat) := fixed.getD k false
  let lOf := vars.map fun (x : VarDef) => x.l
  let rows := rows.map fun r =>
    let fx := r.terms.filter fun e => isFixed e.1
    { rhs := if fx.isEmpty then r.rhs
             else exactDot ((r.rhs, F32.one) :: fx.map fun e => (F32.neg e.2, lOf.getD e.1 0))
      terms := r.terms.filter fun e => !isFixed e.1 }
  ({ nvar := n, nrow := m, nstep := i.nstep
     h := (vars.zip fixed).map fun (x, f) => if f then F32.one else x.h
     c := vars.map fun (x : VarDef) => x.c
     l := lOf, u := vars.map fun (x : VarDef) => x.u, fixed, rows },
   ramps.any (·.2) || energies.any (·.2),
   qb.any fun l => l.any fun x => x.2.2,
   (List.range nk).any i.noState)

/-! ### The interior-point method (R199 to R201) -/

def QProg.free (q : QProg) : List Nat := (List.range q.l.length).filter fun k => !q.fixed.getD k false

/-- A x by row and Aᵀ y by variable, exact with one rounding. -/
def QProg.ax (q : QProg) (x : List F32) : List F32 := q.rows.map fun r => exactDot (r.terms.map fun e => (e.2, x.getD e.1 0))
def QProg.aty (q : QProg) (y : List F32) : List F32 :=
  let cols := (q.rows.zip y).foldl (fun (acc : List (List (F32 × F32))) (r, yi) =>
    r.terms.foldl (fun acc e => acc.modify e.1 fun l => l ++ [(e.2, yi)]) acc) (List.replicate q.l.length [])
  cols.map exactDot
/-- b − A x, of the rounded row sums. -/
def QProg.rp (q : QProg) (x : List F32) : List F32 := List.zipWith (fun (r : EqRow) ax => F32.sub r.rhs ax) q.rows (q.ax x)

/-- Dense blocks of N and of its factor: rows of rows. -/
abbrev Mat := List (List F32)
def Mat.get (a : Mat) (i j : Nat) : F32 := (a.getD i []).getD j 0

def eps20 : F32 := F32.ofScaled 1 (-20)

/-- Entry (r, c) of N. -/
def normalEntry (q : QProg) (dd : List F32) (r c : Nat) : F32 :=
  let tr := ((q.rows[r]?).map fun (x : EqRow) => x.terms).getD []
  let tc := ((q.rows[c]?).map fun (x : EqRow) => x.terms).getD []
  let pairs := tr.filterMap fun e => (tc.find? (·.1 == e.1)).map fun f => (e.1, F32.div e.2 (dd.getD e.1 0), f.2)
  exactDot ((pairs.map fun x => (x.2.1, x.2.2)) ++ (if r = c then [(eps20, F32.one)] else []))

/-- Forward substitution with a lower block, fma ascending, as the rows of cb take it. -/
def fwdFma (lb : Mat) (b : List F32) : List F32 :=
  (List.range b.length).foldl (fun (x : List F32) j =>
    let s := (List.range j).foldl (fun s k => F32.fma (F32.neg (lb.get j k)) (x.getD k 0) s) (b.getD j 0)
    x ++ [F32.div s (lb.get j j)]) []

/-- b less an inner product, which is exact and rounded once (R199). -/
def lessDot (b : F32) (l : List (F32 × F32)) : F32 := F32.sub b (exactDot l)

/-- Forward substitution of a solve. -/
def fwdSub (lb : Mat) (b : List F32) : List F32 :=
  (List.range b.length).foldl (fun (x : List F32) j =>
    x ++ [F32.div (lessDot (b.getD j 0) ((List.range j).map fun k => (lb.get j k, x.getD k 0))) (lb.get j j)]) []

/-- Backward substitution with the transposed block. -/
def bwdSub (lb : Mat) (b : List F32) : List F32 :=
  let n := b.length
  (List.range n).reverse.foldl (fun (x : List F32) j =>
    let s := lessDot (b.getD j 0) (((List.range n).filter fun k => decide (j < k)).map fun k => (lb.get k j, x.getD k 0))
    x.set j (F32.div s (lb.get j j))) (List.replicate n F32.zero)

/-- Dense Cholesky of a block with pivots raised to τ: factor, raised pivots, whether a pivot is no number. The iteration
is rejected there: no later pivot counts as raised. -/
def cholBlock (tau : F32) (s : Mat) (n : Nat) : Mat × Nat × Bool :=
  (List.range n).foldl (fun (acc : Mat × Nat × Bool) j =>
    let lb := acc.1
    let d := (List.range j).foldl (fun d k => F32.fma (F32.neg (lb.get j k)) (lb.get j k) d) (s.get j j)
    let bad := !F32.isFin d
    let low := F32.lt d tau
    let dj := F32.sqrt (if low then tau else d)
    let lb := (List.range n).foldl (fun (lb : Mat) i =>
      if i < j then lb
      else
        let v := if i = j then dj
          else F32.div (lessDot (s.get i j) ((List.range j).map fun k => (lb.get i k, lb.get j k))) dj
        lb.modify i fun row => row ++ [v]) lb
    (lb, acc.2.1 + (if low && !bad && !acc.2.2 then 1 else 0), acc.2.2 || bad)) (List.replicate n [], 0, false)

/-- Factor of N: diagonal blocks lb, coupling blocks cb (R200). -/
structure NFactor where
  lb : List Mat
  cb : List Mat
  npivr : Nat
  bad : Bool

def nfactor (q : QProg) (dd : List F32) : NFactor :=
  let m := q.nrow
  let idx := List.range m
  let blk (t u : Nat) : Mat := idx.map fun i => idx.map fun j => normalEntry q dd (t * m + i) (u * m + j)
  let diag := (List.range q.nstep).map fun t => blk t t
  let tau := F32.mul (F32.ofScaled 1 (-24)) (maxAbs (diag.flatMap fun b => idx.map fun i => b.get i i))
  (List.range q.nstep).foldl (fun (f : NFactor) t =>
    let s := diag.getD t []
    let cb := if t = 0 then [] else (blk t (t - 1)).map (fwdFma (f.lb.getD (t - 1) []))
    let s := if t = 0 then s else
      idx.map fun i => idx.map fun j =>
        (List.range m).foldl (fun v k => F32.fma (F32.neg (Mat.get cb i k)) (Mat.get cb j k) v) (s.get i j)
    let (lb, np, bad) := cholBlock tau s m
    ⟨f.lb ++ [lb], f.cb ++ [cb], f.npivr + (if f.bad then 0 else np), f.bad || bad⟩) ⟨[], [], 0, false⟩

def nsolve1 (q : QProg) (f : NFactor) (b : List F32) : List F32 :=
  let m := q.nrow
  let seg (l : List F32) (t : Nat) := (l.drop (t * m)).take m
  let w := (List.range q.nstep).foldl (fun (w : List (List F32)) t =>
    let bt := seg b t
    let bt := if t = 0 then bt else
      (List.range m).map fun i => lessDot (bt.getD i 0)
        ((List.range m).map fun k => (Mat.get (f.cb.getD t []) i k, (w.getD (t - 1) []).getD k 0))
    w ++ [fwdSub (f.lb.getD t []) bt]) []
  let v := (List.range q.nstep).reverse.foldl (fun (v : List (List F32)) t =>
    let wt := w.getD t []
    let wt := match v with
      | [] => wt
      | nx :: _ => (List.range m).map fun i => lessDot (wt.getD i 0)
          ((List.range m).map fun k => (Mat.get (f.cb.getD (t + 1) []) k i, nx.getD k 0))
    bwdSub (f.lb.getD t []) wt :: v) []
  v.flatten

/-- nsolve: one solve and one refinement with an exact residual. -/
def nsolve (q : QProg) (dd : List F32) (f : NFactor) (b : List F32) : List F32 :=
  let x := nsolve1 q f b
  let m := q.nrow
  let res := (List.range b.length).map fun r =>
    let near := (List.range b.length).filter fun c => decide (r / m ≤ c / m + 1 ∧ c / m ≤ r / m + 1)
    exactDot ((b.getD r 0, F32.one) :: near.map fun c => (F32.neg (normalEntry q dd r c), x.getD c 0))
  List.zipWith F32.add x (nsolve1 q f res)

structure Dir where
  dx : List F32
  dy : List F32
  dzl : List F32
  dzu : List F32

def newton (q : QProg) (dd : List F32) (f : NFactor) (it : IpmIter) (tl tu : List F32) : Dir :=
  let aty := q.aty it.y
  let n := q.l.length
  let g := (List.range n).map fun i =>
    let x := it.x.getD i 0
    let dl := F32.sub x (q.l.getD i 0)
    let du := F32.sub (q.u.getD i 0) x
    F32.add (F32.sub (F32.sub (F32.add (F32.mul (q.h.getD i 0) x) (q.c.getD i 0)) (aty.getD i 0))
      (F32.div (tl.getD i 0) dl)) (F32.div (tu.getD i 0) du)
  let dy := nsolve q dd f (List.zipWith F32.add (q.rp it.x) (q.ax (List.zipWith F32.div g dd)))
  let atdy := q.aty dy
  let dx := (List.range n).map fun i =>
    if q.fixed.getD i false then F32.zero else F32.div (F32.sub (atdy.getD i 0) (g.getD i 0)) (dd.getD i 0)
  let z (lower : Bool) := (List.range n).map fun i =>
    if q.fixed.getD i false then F32.zero
    else
      let x := it.x.getD i 0
      let gap := if lower then F32.sub x (q.l.getD i 0) else F32.sub (q.u.getD i 0) x
      let zi := (if lower then it.zl else it.zu).getD i 0
      let base := F32.sub ((if lower then tl else tu).getD i 0) (F32.mul gap zi)
      let p := F32.mul zi (dx.getD i 0)
      F32.div (if lower then F32.sub base p else F32.add base p) gap
  ⟨dx, dy, z true, z false⟩

def ipmMu (q : QProg) (x zl zu : List F32) : F32 :=
  let fr := q.free
  F32.div (exactDot (fr.flatMap fun i =>
    [(F32.sub (x.getD i 0) (q.l.getD i 0), zl.getD i 0), (F32.sub (q.u.getD i 0) (x.getD i 0), zu.getD i 0)]))
    (F32.fromNat (2 * fr.length))

def steplen (q : QProg) (it : IpmIter) (d : Dir) : F32 :=
  let lower (a r : F32) : F32 := if F32.lt r a then r else a
  let amax := q.free.foldl (fun a i =>
    let x := it.x.getD i 0
    let dx := d.dx.getD i 0
    let a := if F32.lt dx F32.zero then lower a (F32.div (F32.sub x (q.l.getD i 0)) (F32.neg dx))
      else if F32.lt F32.zero dx then lower a (F32.div (F32.sub (q.u.getD i 0) x) dx) else a
    let dz (a : F32) (z dz : F32) := if F32.lt dz F32.zero then lower a (F32.div z (F32.neg dz)) else a
    dz (dz a (it.zl.getD i 0) (d.dzl.getD i 0)) (it.zu.getD i 0) (d.dzu.getD i 0)) F32.inf
  F32.min F32.one (F32.mul (dec32 995 (-3)) amax)

/-- x + α d, rounded twice. -/
def plus (al : F32) (d x : List F32) : List F32 := List.zipWith (fun d x => F32.add x (F32.mul al d)) d x

/-- fma(α, d, x). -/
def axpy (al : F32) (d x : List F32) : List F32 := List.zipWith (fun d x => F32.fma al d x) d x

/-- The iterate, smallest corrector step, pivots raised, and the rejected iteration (0 none). -/
structure IpmState where
  it : IpmIter
  mu : F32
  amin : F32
  npivr : Nat
  rejit : Nat

def ipmStep (q : QProg) (k : Nat) (s : IpmState) : IpmState :=
  if s.rejit ≠ 0 then s
  else
    let it := s.it
    let n := q.l.length
    let mu := ipmMu q it.x it.zl it.zu
    let dd := (List.range n).map fun i =>
      if q.fixed.getD i false then F32.add (q.h.getD i 0) eps20
      else
        let x := it.x.getD i 0
        F32.add (F32.add (F32.add (q.h.getD i 0) (F32.div (it.zl.getD i 0) (F32.sub x (q.l.getD i 0))))
          (F32.div (it.zu.getD i 0) (F32.sub (q.u.getD i 0) x))) eps20
    let f := nfactor q dd
    let zero := List.replicate n F32.zero
    let a := newton q dd f it zero zero
    let aa := steplen q it a
    let mua := ipmMu q (plus aa a.dx it.x) (plus aa a.dzl it.zl) (plus aa a.dzu it.zu)
    let sg := F32.min F32.one (F32.div mua mu)
    let sigma := F32.mul (F32.mul sg sg) sg
    let sm := F32.mul sigma mu
    let d := newton q dd f it (List.zipWith (fun x z => F32.sub sm (F32.mul x z)) a.dx a.dzl)
      (List.zipWith (fun x z => F32.add sm (F32.mul x z)) a.dx a.dzu)
    let al := steplen q it d
    let nx : IpmIter := ⟨axpy al d.dx it.x, axpy al d.dy it.y, axpy al d.dzl it.zl, axpy al d.dzu it.zu⟩
    if f.bad || !(nx.x.all sane && nx.y.all sane && nx.zl.all sane && nx.zu.all sane) then
      { s with rejit := k, npivr := s.npivr + f.npivr }
    else
      { it := nx, mu := ipmMu q nx.x nx.zl nx.zu, amin := if F32.lt al s.amin then al else s.amin
        npivr := s.npivr + f.npivr, rejit := 0 }

def ipmRun (q : QProg) (start : IpmIter) : IpmState :=
  ((List.range 28).map (· + 1)).foldl (fun s k => ipmStep q k s)
    ⟨start, ipmMu q start.x start.zl start.zu, F32.one, 0, 0⟩

/-! ### Starting point (R202) -/

def coldIter (q : QProg) : IpmIter where
  x := (List.range q.l.length).map fun i =>
    let l := q.l.getD i 0
    if q.fixed.getD i false then l else F32.add l (F32.mul half32 (F32.sub (q.u.getD i 0) l))
  y := List.replicate q.rows.length F32.zero
  zl := q.fixed.map fun f => if f then F32.zero else F32.one
  zu := q.fixed.map fun f => if f then F32.zero else F32.one

def warmIter (q : QProg) (k : Nat) (b : IpmIter) : IpmIter :=
  let src (n i : Nat) := min (i / n + k) (q.nstep - 1) * n + i % n
  let x := (List.range q.l.length).map fun i =>
    let l := q.l.getD i 0
    let u := q.u.getD i 0
    if q.fixed.getD i false then l
    else
      let g := F32.mul (F32.ofScaled 1 (-6)) (F32.sub u l)
      F32.min (F32.max (b.x.getD (src q.nvar i) 0) (F32.add l g)) (F32.sub u g)
  let z (lower : Bool) (zs : List F32) := (List.range q.l.length).map fun i =>
    if q.fixed.getD i false then F32.zero
    else
      let gap := if lower then F32.sub (x.getD i 0) (q.l.getD i 0) else F32.sub (q.u.getD i 0) (x.getD i 0)
      F32.max (zs.getD (src q.nvar i) 0) (F32.div (F32.ofScaled 1 (-10)) gap)
  { x, y := (List.range q.rows.length).map fun r => b.y.getD (src q.nrow r) 0, zl := z true b.zl, zu := z false b.zu }

/-! ### Fingerprint, outcome, record (R203 to R205) -/

def optFp (md : NetModel) (nstep step : Nat) : Dword :=
  Crypto.fp64 (leBytes 8 md.sfp.toNat ++ leBytes 1 nstep ++ leBytes 1 step ++ leBytes 2 md.plnt.length ++
    leBytes 2 md.stor.length ++
    (List.range md.plnt.length).flatMap (fun p =>
      leBytes 1 (md.netOf (md.brchAt (branchOf md 3 p))) ++ leBytes 1 (((md.plnt[p]?).map fun (x : PlntRec) => x.typ).getD 0)) ++
    (List.range md.stor.length).flatMap (fun j =>
      leBytes 1 (if (md.storAt j).typ = 0 then md.netOf (md.brchAt (branchOf md 4 j)) else 0) ++
      leBytes 1 (md.storAt j).typ))

/-- Variable indices of the balance slacks. -/
def DispJob.slacks (j : DispJob) : List Nat :=
  let g := 2 * j.np + 2 * j.ns
  (List.range j.prog.nstep).flatMap fun t => (List.range (2 + 2 * j.nk)).map fun x => t * j.prog.nvar + g + 2 + x

def finishDispatch (j : DispJob) : DispRec :=
  let q := j.prog
  let s := ipmRun q j.start
  let it := s.it
  let aty := q.aty it.y
  let prim := F32.div (maxAbs (q.rp it.x)) (F32.add F32.one (maxAbs (q.rows.map fun (r : EqRow) => r.rhs)))
  let dual := F32.div (maxAbs (q.free.map fun i =>
      F32.add (F32.sub (F32.sub (F32.add (F32.mul (q.h.getD i 0) (it.x.getD i 0)) (q.c.getD i 0)) (aty.getD i 0))
        (it.zl.getD i 0)) (it.zu.getD i 0))) (F32.add F32.one (maxAbs q.c))
  let slk := maxAbs (j.slacks.map fun i => it.x.getD i 0)
  let outcome :=
    if !(it.x.all sane && it.y.all sane) then 2
    else if s.rejit ≠ 0 ∨ F32.lt j.ptol prim ∨ F32.lt j.dtol dual ∨ F32.lt j.gtol s.mu then 1 else 0
  let obj := exactDot ((List.range q.l.length).flatMap fun i =>
    let x := it.x.getD i 0
    [(q.c.getD i 0, x)] ++ (if q.fixed.getD i false then [] else [(mul3 half32 (q.h.getD i 0) x, x)]))
  { job := j, it, outcome, short := F32.lt j.slktol slk, rprim := prim, rdual := dual, mu := s.mu
    alphamin := s.amin, slkmax := slk, npivr := s.npivr, rejit := s.rejit, obj := F32.mul obj j.cscale }

/-- MINPD in frames (R208). -/
def minPd (np ns nk nstep : Nat) : Nat :=
  let n := 2 * np + 2 * ns + 4 + 2 * nk
  let m := nk + 1 + ns + np
  ceilDiv (20000 + 28 * nstep * (ceilDiv (m * m * m) 2000 + ceilDiv (n * m) 500)) 216

end Sys2Proof.Machine
end

