-- ==== Sys2Proof/Machine/Nv.lean ====
section
/-! DEFINITION. The non-volatile store (14_nv_store.md): partitions, record pages, the factory content,
execution of write requests, their outcome on a lane, selection of copies, ledgers and NAND slots. -/

namespace Sys2Proof.Machine

/-! ### Partitions (Table NVS-1) -/

def fixedPages : List Nat := [64, 32, 1024, 1728, 512, 64, 64, 0]
def fixedBase : List Nat := [0, 64, 96, 1120, 2848, 3360, 3424, 3488]

/-- Pages of partition `p`; `sizes` are those of PAT0 to PAT7. -/
def partPages (sizes : List Nat) (p : Nat) : Nat := if p < 8 then fixedPages.getD p 0 else sizes.getD (p - 8) 0
def partBase (sizes : List Nat) (p : Nat) : Nat :=
  if p < 8 then fixedBase.getD p 0 else 3488 + (sizes.take (p - 8)).foldl (· + ·) 0
/-- PKIND: 0 absent, 1 ingot, 2 ledger, 3 log. -/
def partKind (sizes : List Nat) (p : Nat) : Nat :=
  if partPages sizes p = 0 then 0 else if p = 2 ∨ p = 3 then 2 else if 8 ≤ p then 3 else 1

/-! ### Record pages (R324, R328, R329, Table NVS-3) -/

/-- The page a request of OP 1 or 2 writes. -/
def recordPage (num part rid chunk nchunk : Nat) (data : List Byte) : List Byte :=
  let body := leBytes 4 num ++ leBytes 2 (part * 4096 + rid) ++ leBytes 2 data.length ++ leBytes 2 chunk
    ++ leBytes 2 nchunk ++ sliceB data 0 232
  body ++ leBytes 4 (crc32c body).toNat ++ leBytes 4 0xA5 ++ leBytes 4 0

/-- A valid copy: NUM, CHUNK, NCHUNK and data (R329). -/
structure Copy where
  num : Nat
  chunk : Nat
  nchunk : Nat
  data : List Byte
  deriving DecidableEq, Repr

def parseCopy (part rid : Nat) (page : List Byte) : Option Copy :=
  let len := u16At page 6
  let c : Copy := ⟨u32At page 0, u16At page 8, u16At page 10, sliceB page 12 len⟩
  if u32At page 248 = 0xA5 ∧ u16At page 4 = part * 4096 + rid ∧ 1 ≤ len ∧ len ≤ 232
      ∧ ((part = 2 ∨ part = 3) → c.chunk < c.nchunk) ∧ u32At page 244 = (crc32c (page.take 244)).toNat then some c
  else none

/-- LEN a record must have (R510, Tables MET-7, HTM-4 and SEC-4); the LCS records are DESIGN CHOICE
(assumption log 19). -/
def recordLen (part rid : Nat) : Option Nat :=
  if part = 0 then [36, 20, 20, 192, 12, 20][rid]?
  else if part = 1 then (if rid = 8 then some 156 else some 232)
  else if part = 4 then some 144
  else if part = 5 then (if rid = 0 then some 8 else if rid = 1 then some 120 else none)
  else none

/-! ### Factory content (00_scope.md R3) -/

/-- The calibration ledger stream (Table NVS-8). -/
def calibStream (k : Calib) : List Byte :=
  k.theta.flatMap (fun t => leBytes 2 (ofSigned 16 t)) ++ [0, 0] ++
    (k.gain.zip k.dly).flatMap fun (p : Nat × Nat) => leBytes 4 p.1 ++ leBytes 2 p.2

def chunkData (stream : List Byte) (c : Nat) : List Byte := (stream.drop (232 * c)).take 232
def chunkCount (stream : List Byte) : Nat := (stream.length + 231) / 232

/-- LCS RID 0 and RID 1; their layouts are DESIGN CHOICE (assumption log 19). -/
def lcsRecord (st tok : Nat) : List Byte := leBytes 4 st ++ leBytes 4 tok
def SlotState.code : SlotState → Nat
  | .empty => 0 | .staging => 1 | .verified => 2 | .committed => 3 | .previous => 4
def SlotState.ofCode (n : Nat) : SlotState :=
  if n = 1 then .staging else if n = 2 then .verified else if n = 3 then .committed else if n = 4 then .previous else .empty
def manifestRecord (m : List SlotInfo) : List Byte :=
  leBytes 4 (m.findIdx fun x => x.state == .committed) ++ m.flatMap (fun x => leBytes 2 x.state.code) ++
    m.flatMap fun x => sliceB x.digest 0 48 ++ leBytes 8 x.fp.toNat
def readManifest (b : List Byte) : List SlotInfo :=
  [⟨.ofCode (u16At b 4), sliceB b 8 48, .ofNat 64 (u64At b 56)⟩, ⟨.ofCode (u16At b 6), sliceB b 64 48, .ofNat 64 (u64At b 112)⟩]

/-- Content of page `n` as the factory leaves it; none where it writes nothing. What the records of the device certificate
(LCS RIDs 2 to 5) hold the spec does not give: zeros (DESIGN CHOICE, assumption log 93). -/
def factoryPage (n : Nat) : Option (List Byte) :=
  if n = 4 then some (recordPage 0 0 2 0 0 (List.replicate 20 0))
  else if n = 3360 then some (recordPage 0 5 0 0 0 (lcsRecord 1 0))
  else if n = 3362 then some (recordPage 0 5 1 0 0 (manifestRecord [{ state := .committed }, {}]))
  else if 3364 ≤ n ∧ n ≤ 3370 ∧ n % 2 = 0 then some (recordPage 0 5 ((n - 3360) / 2) 0 0 (List.replicate 232 0))
  else if 96 ≤ n ∧ n < 113 then
    let s := calibStream ({} : Metering).calib
    some (recordPage 1 2 0 (n - 96) 17 (chunkData s (n - 96)))
  else none

/-- What a byte of MRAM that no command has written reads as: the factory content, else 0 (assumption log
19). -/
def mramFactory (a : Nat) : Byte := match factoryPage (a / 256) with
  | some p => p.getD (a % 256) 0
  | none => 0

/-! ### The memories -/

/-- Page `n` of the MRAM. -/
def NvStore.page (s : NvStore) (n : Nat) : List Byte :=
  let cells := s.mram.filter fun c => decide (c.1 / 256 = n)
  let base := (factoryPage n).getD (List.replicate 256 0)
  if cells.isEmpty then base
  else (List.range 256).map fun i => kvGet (base.getD i 0) cells (256 * n + i)

/-- Bytes written at ascending addresses. -/
def writeCells (dflt : Nat → Byte) (m : List Host.Cell) (a : Nat) : List Byte → List Host.Cell
  | [] => m
  | b :: bs => writeCells dflt (kvSetD dflt m a b) (a + 1) bs

def NvStore.writePage (s : NvStore) (n : Nat) (data : List Byte) : NvStore :=
  { s with mram := writeCells mramFactory s.mram (256 * n) (sliceB data 0 256) }

/-- Address of byte 0 of page `p` of NAND slot `slot` (R338). -/
def nandAddr (slot p : Nat) : Nat := ((16 + 3584 * slot) * 64 + p) * 2048

/-- What a NAND byte reads that no command has written: 0xFF (R339), but in block 0 the factory's boot header, which begins
with the IRK (17_security.md R395; that place is a DESIGN CHOICE, assumption log 133). -/
def nandErased (a : Nat) : Byte := if a < 96 then Config.imageRootKey a else 0xFF

/-- The IRK as it stands in the boot header. -/
def NvStore.bootIrk (s : NvStore) : List Byte := (List.range 96).map fun i => kvGet (nandErased i) s.nand i

def NvStore.nandPage (s : NvStore) (slot p : Nat) : List Byte :=
  let a := nandAddr slot p
  let cells := s.nand.filter fun c => decide (c.1 / 2048 = a / 2048)
  (List.range 2048).map fun i => kvGet 0xFF cells (a + i)

/-- The spare bytes of the page, with its code (R338). -/
def NvStore.nandSpare (s : NvStore) (slot p : Nat) : List Byte := Config.nandSpare (s.nandPage slot p)

/-- Block of a page of a slot. -/
def nandBlock (slot p : Nat) : Nat := 16 + 3584 * slot + p / 64

/-- A program or erase that failed marks the block; what the page then holds is not given (R339). -/
def NvStore.nandFail (s : NvStore) (slot p : Nat) (junk : List Byte) : NvStore :=
  let b := nandBlock slot p
  { s with
    nand := writeCells nandErased s.nand (nandAddr slot p) (sliceB junk 0 2048)
    badBlocks := if s.badBlocks.contains b then s.badBlocks else s.badBlocks ++ [b] }

/-- A page of the first `n` of a slot lies in a block that is marked bad and not yet replaced. -/
def NvStore.slotBad (s : NvStore) (slot n : Nat) : Bool :=
  s.badBlocks.any fun b => decide (nandBlock slot 0 ≤ b) && decide (b ≤ nandBlock slot (n - 1))

/-- A page of index 0 mod 64 erases its block first; a bad block is replaced at its erase (R339). -/
def NvStore.writeNand (s : NvStore) (slot p : Nat) (data : List Byte) : NvStore :=
  let a := nandAddr slot p
  let b := a / (64 * 2048)
  let m := if p % 64 = 0 then s.nand.filter fun c => decide (c.1 / (64 * 2048) ≠ b) else s.nand
  let spare := decide (p % 64 = 0) && s.badBlocks.contains b && decide (0 < s.spares)
  { s with
    nand := writeCells nandErased m a (sliceB data 0 2048)
    badBlocks := if spare then s.badBlocks.filter (fun x => x != b) else s.badBlocks
    spares := if spare then s.spares - 1 else s.spares }

/-- Canonical form of both memories. -/
def NvStore.wf (s : NvStore) : Bool := kvWf mramFactory s.mram && kvWf nandErased s.nand

/-! ### Execution of requests (R323, R339) -/

/-- MRAM page a request writes. -/
def NvReq.page (sizes : List Nat) (r : NvReq) : Nat :=
  partBase sizes r.part +
    (if r.op = 1 then 2 * r.rid + r.num % 2
     else if r.op = 2 then r.area * (partPages sizes r.part / 2) + r.chunk
     else r.num)

def NvReq.image (r : NvReq) : List Byte :=
  if r.op = 3 then r.data else recordPage r.num r.part r.rid r.chunk r.nchunk r.data

/-- The fields that Table NVS-2 wants zero outside ledger chunks, and RID outside records and ledgers. -/
def NvReq.noChunk (r : NvReq) : Bool := r.area == 0 && r.chunk == 0 && r.nchunk == 0

/-- Status of an MRAM request by its own content, 0 where it may be executed. -/
def NvReq.check (sizes : List Nat) (lc : Nat) (r : NvReq) : Nat :=
  let n := partPages sizes r.part
  let ok : Bool :=
    if r.op = 1 then r.noChunk && decide (2 * r.rid + 1 < n) && decide (1 ≤ r.data.length) && decide (r.data.length ≤ 232)
    else if r.op = 2 then
      decide (r.area ≤ 1) && decide (r.rid = 0) && decide (1 ≤ r.nchunk) && decide (r.nchunk ≤ n / 2)
        && decide (r.chunk < r.nchunk) && decide (1 ≤ r.data.length) && decide (r.data.length ≤ 232)
    else r.noChunk && r.rid == 0 && decide (r.op = 3) && decide (r.num < n) && decide (r.data.length = 256)
  if r.part = 7 ∨ n = 0 ∨ !ok then 0x2809
  else if r.part = 2 ∧ 1 < lc then 0x280D
  else 0

/-- MRAM requests in the order of execution with their status; `used` pages are spent. -/
def judgeMram (sizes : List Nat) (lc : Nat) : Nat → List NvReq → List (NvReq × Nat)
  | _, [] => []
  | used, r :: l =>
    let c := r.check sizes lc
    if c ≠ 0 then (r, c) :: judgeMram sizes lc used l
    else if 32 ≤ used then (r, 0x2841) :: judgeMram sizes lc used l
    else (r, 0) :: judgeMram sizes lc (used + 1) l

/-- NAND requests: the first that may be executed is. -/
def judgeNand (committed lock : Nat) : Bool → List NvReq → List (NvReq × Nat)
  | _, [] => []
  | done, r :: l =>
    if r.part = 0x20 + committed then (r, 0x280D) :: judgeNand committed lock done l
    else if 229375 < r.num ∨ r.data.length ≠ 2048 ∨ r.rid ≠ 0 ∨ !r.noChunk then (r, 0x2809) :: judgeNand committed lock done l
    else if lock ≠ 0 then (r, 0x2843) :: judgeNand committed lock done l
    else if done then (r, 0x2841) :: judgeNand committed lock done l
    else (r, 0) :: judgeNand committed lock true l

/-- Every request of a driven output frame with its status, in the order of execution. -/
def judge (sizes : List Nat) (lc committed lock : Nat) (rs : List NvReq) : List (NvReq × Nat) :=
  let m := rs.filter fun r => r.op != 4
  judgeMram sizes lc 0 (m.filter (·.prio) ++ m.filter fun r => !r.prio)
    ++ judgeNand committed lock false (rs.filter fun r => r.op == 4)

def outReqs (es : List OutEntry) : List NvReq := es.filterMap fun e => match e.body with
  | .nv r => some r
  | _ => none

def erased (j : List (NvReq × Nat)) : Bool := j.any fun p => decide (p.2 = 0) && p.1.op == 4 && decide (p.1.num % 64 = 0)

def NvStore.execute (sizes : List Nat) (s : NvStore) (r : NvReq) : NvStore :=
  if r.op = 4 then s.writeNand (r.part - 0x20) r.num r.data else s.writePage (r.page sizes) r.image

/-- Where the partitions stand whose header a request writes: first page and size (R321). -/
def patPlaces (sizes : List Nat) (rs : List NvReq) (l : List (Option (Nat × Nat))) : List (Option (Nat × Nat)) :=
  rs.foldl (fun l r => if r.op = 3 ∧ r.num < 2 then l.set (r.part - 8) (some (partBase sizes r.part, partPages sizes r.part)) else l) l

/-- The controller after the apply instant of a driven frame, the store being available; `seq` is its write sequence with the
before-images (R327). -/
def NvStore.run (sizes : List Nat) (lc committed : Nat) (es : List OutEntry) (s : NvStore) : NvStore :=
  let j := judge sizes lc committed s.nandLock (outReqs es)
  let go := j.filter fun p => p.2 == 0
  let t := go.foldl (fun (s : NvStore) p => s.execute sizes p.1) s
  let mram := (go.map (·.1)).filter fun r => r.op != 4
  { t with
    nandLock := if erased j then 4 else t.nandLock - 1
    seq := mram.map fun r => (r.page sizes, s.page (r.page sizes), r.image)
    patAt := patPlaces sizes mram t.patAt }

/-! ### An interrupted write sequence (R324) -/

/-- Steps of one page write: the commit word, 244 bytes in ascending address, the CRC word, the commit word. -/
def pageSteps : Nat := 247

/-- A page of OP 1 or 2 that has made `k` of its steps; one of OP 3 is written in ascending address. -/
def tornPage (log : Bool) (k : Nat) (old new : List Byte) : List Byte :=
  if log then new.take k ++ old.drop k
  else if k = 0 then old
  else new.take (min (k - 1) 244) ++ (old.take 244).drop (k - 1) ++ (if 246 ≤ k then sliceB new 244 4 else sliceB old 244 4) ++ [0, 0, 0, 0] ++ old.drop 252

/-- The sequence stops after `k` steps: pages it has not reached keep their content, the one in progress is torn. -/
def NvStore.tear (s : NvStore) (k : Nat) : NvStore :=
  (s.seq.zipIdx).foldl (fun (t : NvStore) p =>
    if (p.2 + 1) * pageSteps ≤ k then t
    else t.writePage p.1.1 (tornPage (decide (3488 ≤ p.1.1)) (k - p.2 * pageSteps) p.1.2.1 p.1.2.2)) { s with seq := [] }

/-- The manifest as it stood before the last write sequence: a restart finds it where its new record has not counted as
executed (R340). -/
def NvStore.oldManifest (s : NvStore) : NvStore :=
  (s.seq.filter fun p => p.1 / 2 == 1681).foldl (fun (t : NvStore) p => t.writePage p.1 p.2.1) s

/-! ### A lane's requests (R325, R326) -/

def recKey (part rid : Nat) : Nat := part * 4096 + rid
def Lane.recInfo (l : Lane) (part rid : Nat) : RecInfo := kvGet {} l.nv.recs (recKey part rid)

/-- A request of the record or chunk stands in this output frame or waits for its reissue. -/
def Lane.inFlight (l : Lane) (part rid : Nat) : Bool :=
  (l.nv.placed ++ l.nv.sent ++ l.nv.retry).any fun r => r.op == 1 && r.part == part && r.rid == rid

def Lane.emitNv (l : Lane) (r : NvReq) : Lane :=
  { l.emit 5 r.part (.nv r) with nv := { l.nv with placed := l.nv.placed ++ [r] } }

def sameRecord (a b : NvReq) : Bool := a.op == b.op && a.part == b.part && a.rid == b.rid && a.chunk == b.chunk

/-- SEQ after that of the newest request of a record that is not placed again: while an output frame with one is on its way,
that one's is taken as executed (R326). -/
def Lane.freshSeq (l : Lane) (part rid : Nat) : Nat :=
  match (l.nv.sent.find? fun r => r.op == 1 && r.part == part && r.rid == rid).map (·.num) with
  | some n => (n + 1) % 2 ^ 32
  | none => match (l.recInfo part rid).seq with
    | some n => (n + 1) % 2 ^ 32
    | none => 0

/-- Requests placed while the outcome of the frame before was open, once it is known: one of a record that failed replaces it
and takes its number (R326). The lane with them, and how many there are. -/
def Lane.renumber (l : Lane) (failed : List NvReq) : Lane × Nat :=
  let old (r : NvReq) : Option NvReq := if r.op = 1 then failed.find? (sameRecord r) else none
  let out := l.out.map fun e => match e.body with
    | .nv r => { e with body := .nv { r with num := ((old r).map (·.num)).getD r.num } }
    | _ => e
  ({ l with out }, ((outReqs l.out).filter fun r => (old r).isSome).length)

/-- Places the record (part, rid). A request of the record that did not count as executed keeps its number:
it is replaced, which SUPCNT counts, or reissued with new data where `reissue` (R296, R326). A second write
within one frame takes the place of the first. -/
def Lane.nvPut (l : Lane) (part rid : Nat) (data : List Byte) (prio reissue : Bool := false) : Lane :=
  let r : NvReq := { part, op := 1, rid, num := l.freshSeq part rid, prio, data }
  match l.nv.placed.find? (sameRecord r) with
  | some p =>
    let r := { r with num := p.num, prio := p.prio || prio }
    { l with
      out := l.out.map fun e => match e.body with
        | .nv q => if sameRecord q r then { e with body := .nv r } else e
        | _ => e
      nv := { l.nv with placed := l.nv.placed.map fun q => if sameRecord q r then r else q } }
  | none =>
    match l.nv.retry.find? (sameRecord r) with
    | some p =>
      let l := { l with nv := { l.nv with retry := l.nv.retry.filter fun q => !sameRecord q r } }
      let l := if reissue then l else l.inc R.NVS.SUPCNT
      l.emitNv { r with num := p.num, prio := prio || (reissue && p.prio) }
    | none => l.emitNv r

/-- Requests that wait for a reissue and that no producer replaced in this frame. -/
def Lane.reissue (l : Lane) : Lane :=
  let rs := l.nv.retry
  rs.foldl (fun (l : Lane) r => l.emitNv r) { l with nv := { l.nv with retry := [] } }

/-- A record the lane knows as written. -/
def RecInfo.wrote (i : RecInfo) (num : Nat) : RecInfo :=
  { i with
      valid0 := i.valid0 || num % 2 == 0, valid1 := i.valid1 || num % 2 == 1
      seq := some num, slot := num % 2 }

/-- What step 1 learns of the previous output frame: the requests that count as executed and those that do
not. -/
structure NvOutcome where
  done : List NvReq := []
  failed : List NvReq := []
  deriving DecidableEq, Repr

/-- Step 1 of the next frame (R325): `owned` says that the verdict named a lane as owner, `up` that PD_NV is
on and not faulted in this frame's status block. -/
def Lane.nvStep1 (l : Lane) (owned up : Bool) : Lane × NvOutcome :=
  let reqs := outReqs l.lastOut
  let committed := l.sec.manifest.findIdx fun x => x.state == .committed
  let j := judge l.nv.patSize l.lifeCycle committed l.nv.nandLock reqs
  let all := if !owned then reqs.map fun r => (r, 1)
    else if l.on R.NVS.UNAVAIL then reqs.map fun r => (r, 0x2840)
    else if !up then reqs.map fun r => (r, 0x2842)
    else j
  let missing := outReqs l.leftOut
  let done := (all.filter fun p => p.2 == 0).map (·.1)
  let bad := all.filter fun p => p.2 != 0
  let failed := bad.map (·.1) ++ missing
  let l := bad.foldl (fun (l : Lane) p => if p.2 = 1 then l else l.post p.2) l
  let l := (l.inc R.NVS.PGWR done.length).inc R.NVS.REFCNT failed.length
  let l := l.put R.NVS.LASTPG (done.filter fun r => r.op != 4).length
  let l := l.put R.NVS.LASTREF (min 63 (failed.filter fun r => r.op != 4).length)
  let l := l.irqIf (!failed.isEmpty) R.NVS.I_REFUSED
  let lock := if erased (all.filter fun p => p.2 == 0) then 4 else l.nv.nandLock - 1
  let recs := done.foldl (fun (m : List (Nat × RecInfo)) r =>
    if r.op = 1 then kvInsert m (recKey r.part r.rid) ((kvGet {} m (recKey r.part r.rid)).wrote r.num) else m) l.nv.recs
  let l := l.putB R.NVS.NANDLK (lock != 0)
  let new := outReqs l.out
  let r := l.renumber failed
  let l := r.1.inc R.NVS.SUPCNT r.2
  ({ l with nv := { l.nv with
      recs := recs, placed := outReqs l.out, sent := [], nandLock := lock
      retry := failed.filter fun r => r.op == 1 && !new.any (sameRecord r) } }, { done, failed })

/-- A PD_NV fault seen in the status block: the second within 10 s makes the store unavailable (R336). -/
def Lane.nvFault (l : Lane) (rise : Bool) : Lane :=
  if !rise then l
  else
    let second := match l.nv.faultAt with
      | some f => decide (l.fno - f ≤ 10000)
      | none => false
    let l := { l with nv := { l.nv with faultAt := some l.fno } }
    if second && !l.on R.NVS.UNAVAIL then
      let l := (l.put R.NVS.UNAVAIL 1).irq R.NVS.I_UNAVAIL
      { l with
          nv := { l.nv with
            calib := { l.nv.calib with busy := false, wdata := [] }, retain := { l.nv.retain with busy := false, wdata := [] } }
          prg := { l.prg with retHdr := none } }
    else l

/-! ### Recall (R330, R334, R335) -/

/-- Selection of an ingot copy: slot and copy, duplicates, and what the lane remembers. -/
structure Selected where
  info : RecInfo := {}
  data : Option (List Byte) := none
  dup : Bool := false
  one : Bool := false
  deriving DecidableEq, Repr

def newer (a b : Nat) : Bool :=
  let d := (a + 2 ^ 32 - b) % 2 ^ 32
  decide (1 ≤ d) && decide (d < 2 ^ 31)

/-- Table NVS-4. -/
def select (c0 c1 : Option Copy) : Selected :=
  match c0, c1 with
  | none, none => {}
  | some a, none => { info := ⟨true, false, some a.num, 0⟩, data := some a.data, one := true }
  | none, some b => { info := ⟨false, true, some b.num, 1⟩, data := some b.data, one := true }
  | some a, some b =>
    if newer a.num b.num then { info := ⟨true, true, some a.num, 0⟩, data := some a.data }
    else if newer b.num a.num then { info := ⟨true, true, some b.num, 1⟩, data := some b.data }
    else if a.num = b.num ∧ a.num % 2 = 1 then
      { info := ⟨true, true, some b.num, 1⟩, data := some b.data, dup := true }
    else { info := ⟨true, true, some a.num, 0⟩, data := some a.data, dup := true }

/-- A valid copy of a record: also its LEN, and the STATE of a key slot record (17_security.md R380), are in range. -/
def NvStore.copy (s : NvStore) (part rid slot : Nat) : Option Copy :=
  (parseCopy part rid (s.page (partBase [] part + 2 * rid + slot))).filter fun c =>
    ((recordLen part rid).all fun n => decide (c.data.length = n)) && (part != 4 || decide (u8At c.data 1 ≤ 3))

def NvStore.record (s : NvStore) (part rid : Nat) : Selected := select (s.copy part rid 0) (s.copy part rid 1)

/-- The valid chunks of one area, in chunk order; a chunk stands at its own index (R329). -/
def NvStore.chunks (s : NvStore) (part area : Nat) : List (Nat × Copy) :=
  let n := partPages [] part / 2
  (List.range n).filterMap fun c =>
    ((parseCopy part 0 (s.page (partBase [] part + area * n + c))).filter fun x => decide (x.chunk = c)).map fun x => (c, x)

/-- GEN and NCHUNK of the complete generation of an area (R332). -/
def completeGen (cs : List (Nat × Copy)) : Option (Nat × Nat) :=
  match cs with
  | (0, c) :: _ =>
    let mine := (cs.takeWhile fun p => decide (p.1 < c.nchunk)).filter fun p => p.2.num == c.num && p.2.nchunk == c.nchunk
    if mine.length = c.nchunk then some (c.num, c.nchunk) else none
  | _ => none

/-- A ledger at recall: what the lane remembers, its stream, and whether it rolled back (R333, R334). -/
def NvStore.ledger (s : NvStore) (part : Nat) : LedgerInfo × Option (List Byte) × Bool :=
  let cs := [s.chunks part 0, s.chunks part 1]
  let area (a : Nat) : List (Nat × Copy) := cs.getD a []
  let gens := ((area 0) ++ (area 1)).map fun p => p.2.num
  let top := gens.foldl (fun t g => if t = 0 ∨ newer g t then g else t) 0
  let pick := match completeGen (area 0), completeGen (area 1) with
    | some a, some b => if newer b.1 a.1 then some (1, b) else some (0, a)
    | some a, none => some (0, a)
    | none, some b => some (1, b)
    | none, none => none
  match pick with
  | none => ({ top }, none, false)
  | some (ar, g, n) =>
    let stream := ((area ar).take n).flatMap fun p => p.2.data
    ({ gen := g, nchunk := n, area := ar, present := true, top }, some stream, gens.any fun x => newer x g)

/-- Records counted in NOREC and ONECOPY (R330). -/
def countedRec (part rid : Nat) : Bool := (part == 0 && decide (rid ≤ 5)) || (part == 1 && decide (rid ≤ 14)) || (part == 5 && decide (rid ≤ 5))

/-- Every record position a lane recalls. -/
def recallKeys : List (Nat × Nat) :=
  (List.range 6).map (fun r => (0, r)) ++ (List.range 15).map (fun r => (1, r)) ++ (List.range 128).map (fun r => (4, r))
    ++ (List.range 6).map (fun r => (5, r)) ++ (List.range 27).map fun r => (6, r)

/-- What a lane reads from the store in phase 4 (R335). -/
structure Recalled where
  recs : List (Nat × Nat × Selected)
  calib : LedgerInfo × Option (List Byte) × Bool
  retain : LedgerInfo × Option (List Byte) × Bool
  deriving DecidableEq, Repr

def NvStore.recall (s : NvStore) : Recalled where
  recs := recallKeys.map fun k => (k.1, k.2, s.record k.1 k.2)
  calib := s.ledger 2
  retain := s.ledger 3

def Recalled.data (r : Recalled) (part rid : Nat) : Option (List Byte) :=
  (r.recs.find? fun x => x.1 == part && x.2.1 == rid).bind fun x => x.2.2.data

/-- The NVS page and the lane's knowledge of the store after recall; `ms` is the duration. -/
def Lane.nvRecall (l : Lane) (r : Recalled) (ms : Nat) : Lane :=
  let counted := r.recs.filter fun x => countedRec x.1 x.2.1
  let norec := (counted.filter fun x => x.2.2.data.isNone).length
  let one := (counted.filter fun x => x.2.2.one).length
  let dup := (r.recs.filter fun x => x.2.2.dup).length
  let roll := (if r.calib.2.2 then 1 else 0) + (if r.retain.2.2 then 1 else 0)
  let l := { l with nv := { l.nv with
      recs := r.recs.foldl (fun (m : List (Nat × RecInfo)) (x : Nat × Nat × Selected) => kvSet {} m (recKey x.1 x.2.1) x.2.2.info) []
      calib := r.calib.1, retain := r.retain.1, placed := [], retry := [] } }
  let l := (((l.put R.NVS.NOREC norec).put R.NVS.ONECOPY one).put R.NVS.DUPCNT dup).put R.NVS.ROLLCNT roll
  let l := ((l.putB R.NVS.DUPSEQ (dup != 0)).putB R.NVS.ROLLBACK (roll != 0)).put R.NVS.RECALLED 1
  let l := l.put R.NVS.RECMS ms
  let l := (l.irqIf (norec != 0) R.NVS.I_NOREC).irqIf (roll != 0) R.NVS.I_ROLLBACK
  l.putB R.SYS.ROLLBACK r.retain.2.2

/-! ### A generation in progress (R332, R333, R255) -/

/-- Starts a new generation of a ledger with its stream. -/
def LedgerInfo.start (g : LedgerInfo) (stream : List Byte) : LedgerInfo :=
  { g with
      wgen := g.top % 2 ^ 32 + 1, warea := if g.present then 1 - g.area else 0
      wdata := (List.range (chunkCount stream)).map (chunkData stream), wnext := 0, busy := true }

def LedgerInfo.request (g : LedgerInfo) (part c : Nat) : NvReq :=
  { part, op := 2, area := g.warea, num := g.wgen, chunk := c, nchunk := g.wdata.length, data := g.wdata.getD c [] }

/-- After the outcome of a frame: the next chunk to place is the first not executed; a generation whose last
chunk executed is the current one. -/
def LedgerInfo.outcome (g : LedgerInfo) (part : Nat) (o : NvOutcome) : LedgerInfo × Bool :=
  if !g.busy then (g, false)
  else
    let mine := o.failed.filter fun r => r.op == 2 && r.part == part
    let g := match mine with
      | [] => g
      | r :: rs => { g with wnext := rs.foldl (fun m (x : NvReq) => min m x.chunk) r.chunk }
    let top := if o.done.any fun r => r.op == 2 && r.part == part then g.wgen else g.top
    let g := { g with top := top }
    if g.wdata.length ≤ g.wnext then
      ({ g with gen := g.wgen, nchunk := g.wdata.length, area := g.warea, present := true, busy := false, wdata := [] }, true)
    else (g, false)

/-- Places the next `n` chunks of the retain ledger. -/
def Lane.placeChunks (l : Lane) (part n : Nat) (g : LedgerInfo) : Lane × LedgerInfo :=
  if !g.busy then (l, g)
  else
    let cs := (List.range n).filterMap fun i => if g.wnext + i < g.wdata.length then some (g.wnext + i) else none
    (cs.foldl (fun (l : Lane) c => l.emitNv (g.request part c)) l, { g with wnext := g.wnext + cs.length })

/-! ### The NVS page (Table NVS-6) -/

def Lane.readNvs (l : Lane) (off : Nat) : Nat :=
  let p := l.get R.NVS.PSEL
  let r := l.get R.NVS.RSEL
  let i := l.recInfo p r
  let g : LedgerInfo := if p = 2 then l.nv.calib else if p = 3 then l.nv.retain else {}
  let b (x : Bool) (n : Nat) : Nat := if x then n else 0
  let slot (n : Nat) : Nat := (l.sec.manifest.getD n {}).state.code
  if off = 0x064 then partPages l.nv.patSize p * 2 ^ 16 + partBase l.nv.patSize p
  else if off = 0x068 then partKind l.nv.patSize p
  else if off = 0x070 then
    b (l.inFlight p r) 8 + b i.valid0 4 + b i.valid1 2 + i.slot
  else if off = 0x074 then i.seq.getD 0
  else if off = 0x078 then g.gen
  else if off = 0x07C then g.nchunk * 2 ^ 16 + g.area
  else if off = 0x084 then
    (l.sec.manifest.findIdx fun x => x.state == .committed) * 256 + slot 1 * 16 + slot 0
  else (l.reg (0x28000 + off)).toNat

end Sys2Proof.Machine
end

