-- ==== Sys2Proof/Machine/Security.lean ====
section
/-! DEFINITION. Hallmark keys, life cycle, secure boot and configuration replacement (17_security.md). -/

namespace Sys2Proof.Machine

def Lane.setSec (l : Lane) (f : Security → Security) : Lane := { l with sec := f l.sec }
/-- Asks for a module restart after this frame; an earlier request of the frame stands. -/
def Lane.askRestart (l : Lane) (cold : Bool) (trig : Nat) (reason : Nat := 0) : Lane :=
  if l.restart.isSome then l else { l with restart := some { cold, trig, reason } }

/-! ### Keys (R378 to R382) -/

def serialBytes : List Byte := leBytes 8 Config.serial.toNat

/-- The key root of the life-cycle state (Table SEC-1); BLANK has none. -/
def Lane.rootSecret (l : Lane) : Option (List Byte) :=
  if l.lifeCycle = 0 then none
  else if l.lifeCycle = 3 then some ((List.range 32).map Config.trs)
  else if l.fuses.drs.isEmpty then some ((List.range 32).map Config.factoryRoot)
  else some l.fuses.drs

def asciiBytes (s : String) : List Byte := s.toList.map fun c => BitVec.ofNat 8 c.toNat

/-- Key material of a type derived from `parent` (R381). -/
def deriveKey (parent label : List Byte) (slot typ : Nat) : List Byte :=
  let ctx := serialBytes ++ leBytes 2 slot
  if typ = 2 then Crypto.kdf parent label ctx 256
  else if typ = 4 ∨ typ = 6 then beBytes 48 (Crypto.scalarOf (Crypto.kdf parent label ctx 512))
  else Crypto.kdf parent label ctx 384

/-- KCV of a key (R387), as the 24-bit number of its three bytes, first byte lowest. -/
def kcvOf (typ : Nat) (key : List Byte) : Nat :=
  let point (xy : List Byte) : List Byte := Crypto.sha384 (4 :: xy)
  ofLe ((if typ = 5 then point key
    else if typ = 4 ∨ typ = 6 then point (Crypto.pubOf (ofBe key))
    else Crypto.hmac key (List.replicate 16 0)).take 3)


/-- A slot as the lane uses it: the fixed slots of Table SEC-3 follow the key root, slot 4 the boot header, and an imported
secret slot is locked in FIELD_DEBUG (R382). USAGE of the fixed slots follows their content (assumption log 22). -/
def Lane.slot (l : Lane) (n : Nat) : KeySlot :=
  let fixed (typ origin : Nat) (dest : BitVec 8) (usage : BitVec 16) (label : String) (f : List Byte → List Byte) : KeySlot :=
    match l.rootSecret with
    | none => {}
    | some r =>
      let k := f r
      { typ, state := 1, origin, dest, usage, parent := if origin = 2 then 0 else 0xFFFF, label := asciiBytes label, kcv := kcvOf typ k, key := k }
  match n with
  | 0 => fixed 1 1 0 1 "" fun r => r
  | 1 => fixed 2 2 0 0x18 "SLOTWRAP" fun r => deriveKey r (asciiBytes "SLOTWRAP") 1 2
  | 2 => fixed 4 2 3 2 "IDENTITY" fun r => deriveKey r (asciiBytes "IDENTITY") 2 4
  | 3 => fixed 6 2 0 0x40 "IMPORT00" fun r => deriveKey r (asciiBytes "IMPORT00") 3 6
  | 4 => if l.sec.irk.isEmpty then {} else
    { typ := 5, state := 1, origin := 1, dest := 1, usage := 4, parent := 0xFFFF, kcv := kcvOf 5 l.sec.irk, key := l.sec.irk }
  | n => l.sec.slots.getD n {}

def KeySlot.secret (k : KeySlot) : Bool := k.typ != 5 && k.typ != 0
/-- STATE as the HMK page shows it. -/
def Lane.slotState (l : Lane) (n : Nat) : Nat :=
  let k := l.slot n
  if 8 ≤ n ∧ l.lifeCycle = 3 ∧ k.origin = 3 ∧ k.secret then 4 else k.state

/-- The scalar of the device identity key, slot 2. -/
def Lane.identity (l : Lane) : Nat := ofBe (l.slot 2).key

/-- A load of slot `n` into engine `e` and a use of USAGE bit `u` (R383): the key, or the status refused
with. The state of the slot is looked at before DEST and USAGE (DEDUCED, assumption log 117). A slot whose secret did not
unwrap, and one derived from it, has no key, and is locked as in FIELD_DEBUG (assumption log 22). -/
def Lane.keyUse (l : Lane) (n e u : Nat) : Except Nat (List Byte) :=
  let k := l.slot n
  let s := l.slotState n
  if s = 4 ∨ (s = 1 ∧ k.key.isEmpty) then .error 0x2A47
  else if s = 0 then .error 0x2A4A
  else if s = 2 ∨ s = 3 then .error 0x2A40
  else if !k.dest.getLsbD e then .error 0x2A44
  else if !k.usage.getLsbD u then .error 0x2A46
  else .ok k.key

/-- A verification with the owner key by E0, slot 5 (R377, R386, R395). -/
def Lane.ownerUse (l : Lane) : Except Nat (List Byte) := l.keyUse 5 0 2

/-- A signature verified with a key that may be used; a refused use verifies nothing. -/
def verifyWith (r : Except Nat (List Byte)) (digest sig : List Byte) : Bool := match r with
  | .ok key => Crypto.verify key digest sig
  | .error _ => false

/-- The use counted on the HMK and CRY pages. -/
def Lane.tallyUse (l : Lane) (r : Except Nat (List Byte)) : Lane :=
  match r with
  | .ok _ => l.inc R.CRY.OPCNT
  | .error c => (if c = 0x2A40 then l.inc R.HMK.ORPHUSE else l).inc R.CRY.ERRCNT

/-- The use counted, and its refusal posted. -/
def Lane.countUse (l : Lane) (r : Except Nat (List Byte)) : Lane :=
  match r with
  | .ok _ => l.tallyUse r
  | .error c => (l.tallyUse r).post c

/-- Status of a derivation from parent `p`, 0 where it may be made (R383, R389): Hallmark itself uses the parent. -/
def Lane.deriveCode (l : Lane) (p : Nat) : Nat :=
  let s := l.slotState p
  if s = 4 ∨ (s = 1 ∧ (l.slot p).key.isEmpty) then 0x2A47
  else if s ≠ 1 then 0x2A45
  else if !(l.slot p).usage.getLsbD 0 then 0x2A46
  else 0

/-! ### Slot records (R380) -/

def secretLen (typ : Nat) : Nat := if typ = 2 then 32 else 48
def wrapIv (slot seq : Nat) : List Byte := leBytes 2 slot ++ leBytes 4 seq ++ List.replicate 6 0

/-- Table SEC-4 for slot `n` with SEQ `seq`. -/
def Lane.slotRecord (l : Lane) (n seq : Nat) (k : KeySlot) : List Byte :=
  let h := [BitVec.ofNat 8 k.typ, BitVec.ofNat 8 k.state, BitVec.ofNat 8 k.origin, k.dest] ++ leBytes 2 k.usage.toNat ++ leBytes 2 k.parent
    ++ sliceB k.label 0 8 ++ leBytes 3 k.kcv ++ [0] ++ leBytes 4 k.kgen ++ List.replicate 8 0
  let mat := if k.typ = 0 ∨ k.origin = 2 ∨ k.key.isEmpty then []
    else if k.typ = 5 then k.key
    else let r := Crypto.gcmSeal (l.slot 1).key (wrapIv n seq) h k.key; r.1 ++ r.2
  h ++ sliceB mat 0 112

/-- The slot a record of 144 bytes spells: none where its STATE is outside 0 to 3. A secret that does not
unwrap leaves the slot without a key. -/
def Lane.readSlot (l : Lane) (n seq : Nat) (b : List Byte) : Option KeySlot :=
  let typ := u8At b 0
  let k : KeySlot := { typ, state := u8At b 1, origin := u8At b 2, dest := b.getD 3 0, usage := .ofNat 16 (u16At b 4), parent := u16At b 6, label := sliceB b 8 8, kcv := u24At b 16, kgen := u32At b 20, seq }
  if 3 < k.state then none
  else if typ = 0 ∨ k.origin = 2 then some k
  else if typ = 5 then some { k with key := sliceB b 32 96 }
  else
    let n' := secretLen typ
    match Crypto.gcmOpen (l.slot 1).key (wrapIv n seq) (sliceB b 0 32) (sliceB b 32 n') (sliceB b (32 + n') 16) with
    | some key => some { k with key := key }
    | none => some k

/-- Slots in use that are derived. -/
def Lane.derivedSlots (l : Lane) : Nat := l.sec.slots.countP fun k => k.origin == 2 && k.state != 0

/-- Derived slots are recomputed at recall (R380), each pass using the keys of the pass before: as many passes as there are
derived slots reach every depth. -/
def Lane.deriveSlots (l : Lane) : Nat → Lane
  | 0 => l
  | f + 1 =>
    let step (l : Lane) (n : Nat) : Lane :=
      let k := l.slot n
      if n < 8 ∨ k.origin ≠ 2 ∨ k.state = 0 ∨ 128 ≤ k.parent then l
      else
        let p := l.slot k.parent
        if p.key.isEmpty then l
        else l.setSec fun s => { s with slots := s.slots.set n { k with key := deriveKey p.key k.label n k.typ } }
    Lane.deriveSlots ((List.range 128).foldl step l) f

/-- SEQ the next write of slot `n` takes. -/
def Lane.nextSeq (l : Lane) (part rid : Nat) : Nat :=
  match (l.nv.placed ++ l.nv.retry).find? fun r => r.op == 1 && r.part == part && r.rid == rid with
  | some r => r.num
  | none => l.freshSeq part rid

/-- Places the record of slot `n`; the slot changes when it has executed (R384). -/
def Lane.putSlot (l : Lane) (n : Nat) (k : KeySlot) : Lane :=
  let seq := l.nextSeq 4 n
  let l := l.nvPut 4 n (l.slotRecord n seq k)
  l.setSec fun s => { s with inflight := kvSet { typ := 255 } s.inflight n { k with seq := seq } }

/-- The record of slot `n` is in flight (R384). -/
def Lane.slotPend (l : Lane) (n : Nat) : Bool := (l.sec.inflight.any fun p => p.1 == n) || l.inFlight 4 n

/-! ### Slot changes at step 1 (R384, R388) -/

/-- Orphans the slots whose parent is in `ps`, and in turn theirs; the records of the orphaned slots are
placed (assumption log 22). -/
def Lane.orphan : Nat → List Nat → Lane → Lane
  | 0, _, l => l
  | f + 1, ps, l =>
    let hit := (List.range 128).filter fun n => decide (8 ≤ n) && ps.contains (l.slot n).parent && (l.slot n).state != 0 && (l.slot n).state != 2
    if hit.isEmpty then l
    else
      let l := hit.foldl (fun (l : Lane) n =>
        let k := { l.slot n with state := 2 }
        let l := l.nvPut 4 n (l.slotRecord n (l.nextSeq 4 n) k)
        (l.setSec fun s => { s with slots := s.slots.set n k }).irq R.HMK.I_ORPHAN) l
      Lane.orphan f hit l

/-- The slot changes whose records executed. -/
def Lane.slotsStep1 (l : Lane) (o : NvOutcome) : Lane :=
  let go := l.sec.inflight.filter fun p => o.done.any fun r => r.op == 1 && r.part == 4 && r.rid == p.1
  go.foldl (fun (l : Lane) (p : Nat × KeySlot) =>
    let old := l.slot p.1
    let l := l.setSec fun s => { s with slots := s.slots.set p.1 p.2, inflight := s.inflight.filter fun q => q.1 != p.1 }
    let l := (l.irq R.HMK.I_COMMIT).irqIf (decide (p.2.state = 3)) R.HMK.I_INVAL
    if p.2.state = 3 ∨ (p.2.origin = 3 ∧ old.state ≠ 0) then l.orphan 128 [p.1] else l) l

/-! ### HMK commands (R384 to R389) -/

/-- The BLOB registers as bytes. -/
def Lane.blobBytes (l : Lane) : List Byte := (List.range 80).flatMap fun i => leBytes 4 (l.get (R.HMK.BLOB.idx i))
def Lane.blob (l : Lane) : List Byte := l.blobBytes.take (l.get R.HMK.BLEN)

/-- The key an import blob for slot `n` holds (R386, Table SEC-5). -/
def Lane.unwrap (l : Lane) (n : Nat) (b : List Byte) : Option KeySlot :=
  let typ := u8At b 0
  let usage := u16At b 2
  let sec := typ = 2 ∨ typ = 3 ∨ typ = 4 ∨ typ = 6 ∨ typ = 7
  let len := secretLen typ
  let body := (if sec then 125 + len + 16 else 112)
  let total := if n = 5 then body + 96 else body
  let head := (sec ∨ typ = 5) ∧ usage < 128 ∧ u16At b 4 = n ∧ (sliceB b 6 10).all (· == 0) ∧ b.length = total ∧ (n ≠ 5 ∨ typ = 5)
  let owner := n ≠ 5 ∨ verifyWith l.ownerUse (Crypto.sha384 (b.take body)) (b.drop body)
  if !(head ∧ owner) then none
  else
    let k : KeySlot := { typ, state := 1, origin := 3, dest := b.getD 1 0, usage := .ofNat 16 usage }
    let mk (key : List Byte) : KeySlot := { k with key := key, kcv := kcvOf typ key }
    if typ = 5 then (if (Crypto.pointOf (sliceB b 16 96)).isSome then some (mk (sliceB b 16 96)) else none)
    else if b.getD 16 0 ≠ 4 then none
    else (Crypto.ecdh (ofBe (l.slot 3).key) (sliceB b 17 96)).bind fun x =>
      let wk := Crypto.kdf x (asciiBytes "IMPORT00") (serialBytes ++ leBytes 2 n) 256
      (Crypto.gcmOpen wk (sliceB b 113 12) (sliceB b 0 16 ++ serialBytes) (sliceB b 125 len) (sliceB b (125 + len) 16)).map mk

def Lane.clearStaging (l : Lane) : Lane :=
  ((l.setSec fun s => { s with staging := none }).put R.HMK.STG 0).put R.HMK.STGSLOT 0

def fixedSlot (n : Nat) : Bool := decide (n ≤ 4) || n == 6 || n == 7

/-- A KCMD write at step 2 on the selected slot: refused with a status, or carried out at step 7. -/
def Lane.kcmd (l : Lane) (cmd : Nat) : Lane × Nat :=
  let n := l.get R.HMK.SSEL
  let k := l.slot n
  let go : Lane × Nat := (l.setSec fun s => { s with kcmds := s.kcmds ++ [(cmd, n)] }, 0)
  if cmd = 0 then (l, 0)
  else if fixedSlot n ∨ (n = 5 ∧ (cmd = 1 ∨ cmd = 2)) then (l, 0x2A43)
  else if l.slotPend n then (l, 0x2A08)
  else if cmd = 6 then (l.clearStaging, 0)
  else if cmd = 3 then (if l.sec.staging.isSome ∨ (l.sec.kcmds.any fun c => c.1 == 3) then (l, 0x2A08) else go)
  else if cmd = 4 then (if l.sec.staging.isNone then (l, 0x2A48) else go)
  else if cmd = 5 then (if l.get R.HMK.STG ≠ 2 ∨ (l.sec.staging.map (·.slot)) ≠ some n then (l, 0x2A48) else go)
  else if cmd = 2 then (if k.state = 0 then (l, 0x2A4A) else go)
  else if k.state = 0 then (l, 0x2A4A)
  else if k.origin ≠ 2 ∨ 128 ≤ k.parent then (l, 0x2A45)
  else if l.deriveCode k.parent ≠ 0 then (l, l.deriveCode k.parent)
  else go

/-- The part of a KCMD that E0 performs at step 7. -/
def Lane.kcmdAct (l : Lane) (c : Nat × Nat) : Lane :=
  let n := c.2
  let k := l.slot n
  match c.1 with
  | 1 =>
    if l.deriveCode k.parent ≠ 0 then l.post (l.deriveCode k.parent)
    else
      let key := deriveKey (l.slot k.parent).key k.label n k.typ
      l.putSlot n { k with state := 1, kgen := (k.kgen + 1) % 2 ^ 32, key := key, kcv := kcvOf k.typ key }
  | 2 => l.putSlot n { k with state := 3 }
  | 3 =>
    match l.unwrap n l.blob with
    | none => l.post 0x2A42
    | some key =>
      let l := l.setSec fun s => { s with staging := some { slot := n, key, fno := l.fno } }
      ((l.put R.HMK.STG 1).put R.HMK.STGSLOT n).put R.HMK.STGFNO (l.fno % 2 ^ 32)
  | 4 =>
    match l.sec.staging with
    | none => l.post 0x2A48
    | some st =>
      if l.get R.HMK.EKCV = st.key.kcv then (l.setSec fun s => { s with staging := some { st with verified := true } }).put R.HMK.STG 2
      else l.clearStaging.post 0x2A41
  | 5 =>
    match l.sec.staging with
    | none => l.post 0x2A48
    | some st => (l.putSlot n { st.key with kgen := (k.kgen + 1) % 2 ^ 32 }).clearStaging
  | _ => l

def Lane.kcmdStep7 (l : Lane) : Lane :=
  l.sec.kcmds.foldl Lane.kcmdAct (l.setSec fun s => { s with kcmds := [] })

/-- A staging held for 600 000 frames ends at step 2 (R385). -/
def Lane.stagingExpiry (l : Lane) : Lane :=
  match l.sec.staging with
  | some st => if st.fno + 600000 ≤ l.fno then (l.clearStaging.post 0x2A49).irq R.HMK.I_STGEXP else l
  | none => l

/-! ### Life cycle (R375 to R377) -/

def Lane.token (l : Lane) : List Byte := (List.range 24).flatMap fun i => leBytes 4 (l.get (R.LCS.TOKEN.idx i))

/-- The token signs this command (R377). -/
def Lane.tokenOk (l : Lane) (cmd : Nat) : Bool :=
  verifyWith l.ownerUse (Crypto.sha384 (serialBytes ++ leBytes 4 l.sec.tokcnt ++ [BitVec.ofNat 8 cmd])) l.token

/-- The status of a token (R377): that of a refused use of slot 5, or of a verification that fails, or 0. -/
def Lane.tokenCode (l : Lane) (cmd : Nat) : Nat := match l.ownerUse with
  | .error c => c
  | .ok _ => if l.tokenOk cmd then 0 else 0x2C45

/-- Places the LCS record of an accepted life-cycle command. -/
def Lane.toLifeCycle (l : Lane) (st tok : Nat) : Lane :=
  ((l.nvPut 5 0 (lcsRecord st tok)).setSec fun s => { s with lcNext := some (st, tok) }).irq R.LCS.I_LCCHG

/-- A life-cycle command at step 2 (Table SEC-2); `entropy` is what the arrival carries for PROVISION. -/
def Lane.lcmd (l : Lane) (cmd : Nat) (entropy : List Byte) : Lane × Nat :=
  let st := l.lifeCycle
  let tok := l.sec.tokcnt
  if cmd = 0 ∨ 5 < cmd then (l, 0)
  else if l.sec.ustate ≠ .idle ∨ l.sec.staging.isSome ∨ l.sec.lcNext.isSome then (l, 0x2C08)
  else match cmd with
    | 1 =>
      if st ≠ 0 then (l, 0x2C46)
      else
        let drs := (Crypto.kdf (sliceB entropy 0 48) (asciiBytes "ROOT0000") (serialBytes ++ leBytes 2 0) 256).take 32
        ((l.toLifeCycle 1 tok).setSec fun s => { s with drsNext := some drs }, 0)
    | 2 =>
      let key := l.blobBytes.take 96
      if st ≠ 1 ∨ (Crypto.pointOf key).isNone then (l, 0x2C46)
      else
        let k : KeySlot := { typ := 5, state := 1, origin := 3, dest := 3, usage := 4, kcv := kcvOf 5 key, kgen := (l.slot 5).kgen + 1, key }
        ((l.putSlot 5 k).toLifeCycle 2 tok, 0)
    | 3 =>
      let u := l.tallyUse l.ownerUse
      if st ≠ 2 then (l, 0x2C46)
      else if l.tokenCode 3 ≠ 0 then (u, l.tokenCode 3)
      else (u.toLifeCycle 3 (tok + 1), 0)
    | 4 => if st ≠ 3 then (l, 0x2C46) else (l.toLifeCycle 2 tok, 0)
    | _ =>
      let u := l.tallyUse l.ownerUse
      if st ≠ 2 ∧ st ≠ 3 then (l, 0x2C46)
      else if l.tokenCode 5 ≠ 0 then (u, l.tokenCode 5)
      else
        let full := (List.range 128).filter fun n => decide (8 ≤ n) && (l.slot n).state != 0
        ((full.foldl (fun (l : Lane) n => l.putSlot n {}) u).toLifeCycle 4 (tok + 1), 0)

/-- At step 1: the records of a life-cycle command have executed; fuses burn and a cold restart follows, until which the
life-cycle state stays what it was (R376, R382). -/
def Lane.lifeCycleStep1 (l : Lane) : Lane :=
  match l.sec.lcNext with
  | none => l
  | some (st, _) =>
    if l.inFlight 5 0 ∨ !l.sec.inflight.isEmpty then l
    else
      let l : Lane := { l with fuses := { l.fuses with
          drs := (match l.sec.drsNext with
            | some d => d
            | none => l.fuses.drs)
          provisioned := l.fuses.provisioned || st == 1, retired := l.fuses.retired || st == 4 } }
      l.askRestart true 4

/-! ### Attestation (R390) -/

/-- CRY.ATT latches the nonce. -/
def Lane.attest (l : Lane) : Lane × Nat :=
  if !l.enabled 0x2B then (l, 0x2B07)
  else
    let n := (List.range 8).flatMap fun i => leBytes 4 (l.get (R.CRY.NONCE.idx i))
    ((l.setSec fun s => { s with attReq := some n }).put R.CRY.ATTV 0, 0)

def Lane.attStatement (l : Lane) (nonce : List Byte) : List Byte :=
  let b := leBytes 4 0x54544153 ++ [BitVec.ofNat 8 l.lifeCycle, 0, 0, 0] ++ serialBytes ++ leBytes 8 (l.get64 R.SYS.CFGFP_L R.SYS.CFGFP_H)
    ++ leBytes 4 l.sec.image.fwsvn ++ leBytes 4 l.sec.image.cfgver ++ leBytes 8 l.fno ++ sliceB nonce 0 32
  b ++ Crypto.sign l.identity (Crypto.sha384 b)

/-- The statement is signed with slot 2; a BLANK module has none, and the operation is refused (R383). -/
def Lane.attStep7 (l : Lane) : Lane :=
  match l.sec.attReq with
  | none => l
  | some n =>
    match l.keyUse 2 0 1 with
    | .ok _ => (l.setSec fun s => { s with attReq := none, attDone := some (l.attStatement n, l.fno) }).inc R.CRY.OPCNT
    | .error e => (l.setSec fun s => { s with attReq := none }).countUse (.error e)

/-- ATTD loads at step 2 of the next frame; a later ATT keeps ATTV 0 until its own result. -/
def Lane.attStep2 (l : Lane) : Lane :=
  match l.sec.attDone with
  | none => l
  | some (b, f) =>
    let l := (List.range 42).foldl (fun (l : Lane) i => l.put (R.CRY.ATTD.idx i) (u32At b (4 * i))) l
    let l := (l.put R.CRY.ATTFNO (f % 2 ^ 32)).setSec fun s => { s with attDone := none }
    (l.putB R.CRY.ATTV l.sec.attReq.isNone).irq R.CRY.I_ATTDONE

/-! ### Images (R391, R394, R395) -/

def divUp (a b : Nat) : Nat := (a + b - 1) / b
def imagePages (h : List Byte) : Nat := 1 + divUp (u32At h 8) 2048 + divUp (u32At h 12) 2048

def NvStore.nandBytes (s : NvStore) (slot page len : Nat) : List Byte :=
  ((List.range (divUp len 2048)).flatMap fun i => s.nandPage slot (page + i)).take len

/-- A slot that was never written holds the factory image, whose content is not given (assumption log 21). -/
def NvStore.factorySlot (s : NvStore) (slot : Nat) : Bool := (s.nandPage slot 0).all (· == 0xFF)

def NvStore.firmware (s : NvStore) (slot : Nat) (h : List Byte) : List Byte := s.nandBytes slot 1 (u32At h 8)
def NvStore.configPart (s : NvStore) (slot : Nat) : List Byte :=
  let h := s.nandPage slot 0
  s.nandBytes slot (1 + divUp (u32At h 8) 2048) (u32At h 12)

/-- Header checks that need no further page (Table SEC-9 steps 3 and 4): 0, or the failure code; that of a SERIAL that does
not match is the first code of step 4 (DEDUCED, assumption log 117). -/
def Lane.headerCode (l : Lane) (h : List Byte) : Nat :=
  if u32At h 0 ≠ 0x474D4956 ∨ u16At h 4 ≠ 1 ∨ u16At h 6 ≠ 0 ∨ 67106816 < u32At h 8 + u32At h 12 ∨ 64 < u32At h 16 ∨ u32At h 20 = 0
      ∨ !((h.drop 320).take 1728).all (· == 0) then 0x2C48
  else if !verifyWith (l.keyUse 4 0 2) (Crypto.sha384 (sliceB h 16 4 ++ sliceB h 32 48)) (sliceB h 128 96) then 0x2C49
  else if !verifyWith l.ownerUse (Crypto.sha384 (h.take 224)) (sliceB h 224 96) then 0x2C49
  else if u64At h 24 ≠ 0 ∧ u64At h 24 ≠ Config.serial.toNat then 0x2C49
  else if u32At h 16 < l.fuses.svn then 0x2C4A
  else 0

def imageDigest (h : List Byte) : List Byte := Crypto.sha384 (h.take 320)

/-- Every check of Table SEC-9 steps 3 and 4 on a slot but that of the manifest digest. -/
def Lane.imageCode (l : Lane) (s : NvStore) (slot : Nat) : Nat :=
  let h := s.nandPage slot 0
  let c := l.headerCode h
  if c ≠ 0 then c
  else if Crypto.sha384 (s.firmware slot h) ≠ sliceB h 32 48 ∨ Crypto.sha384 (s.configPart slot) ≠ sliceB h 80 48 then 0x2C4B
  else 0

/-- Step 1 of Table SEC-9: the IRK of the boot header has the hash in the fuses; `[]` stands for the hash of the factory's
key (assumption log 133). -/
def Lane.irkOk (l : Lane) (s : NvStore) : Bool :=
  (l.fuses.irkHash.isEmpty && s.nand.all fun c => decide (96 ≤ c.1))
    || Crypto.sha384 s.bootIrk ==
      (if l.fuses.irkHash.isEmpty then Crypto.sha384 ((List.range 96).map Config.imageRootKey) else l.fuses.irkHash)

/-- The boot ROM takes the IRK of the boot header where its hash is right. -/
def Lane.readIrk (l : Lane) (s : NvStore) : Lane :=
  l.setSec fun t => { t with irk := if l.irkOk s then s.bootIrk else [] }

/-- The configuration fingerprint of a slot (R394). -/
def NvStore.fingerprint (s : NvStore) (slot : Nat) : Dword :=
  let h := s.nandPage slot 0
  Crypto.fp64 (h.take 32 ++ Crypto.sha384 (s.firmware slot h) ++ Crypto.sha384 (s.configPart slot))

def Lane.committedSlot (l : Lane) : Nat := l.sec.manifest.findIdx fun x => x.state == .committed

/-- Secure boot of the committed slot (Table SEC-9): 0, or the code BOOTERR shows. -/
def Lane.bootCode (l : Lane) (s : NvStore) : Nat :=
  let c := l.committedSlot
  if l.sec.irk.isEmpty then 0x2C49
  else if 2 ≤ c then 0x2C48
  else if s.factorySlot c then 0
  else
    let r := l.imageCode s c
    if r ≠ 0 then r else if imageDigest (s.nandPage c 0) ≠ (l.sec.manifest.getD c {}).digest then 0x2C4B else 0

def NvStore.imageInfo (s : NvStore) (slot : Nat) : ImageInfo :=
  if s.factorySlot slot then {}
  else
    let h := s.nandPage slot 0
    { fwsvn := u32At h 16, cfgver := u32At h 20, fwdigest := sliceB h 32 48, cfgdigest := sliceB h 80 48 }

/-! ### Configuration replacement (R398 to R400) -/

def UState.code : UState → Nat
  | .idle => 0 | .staging => 1 | .verifying => 2 | .verified => 3 | .promoting => 4

/-- A new manifest, placed as one record. -/
def Lane.putManifest (l : Lane) (m : List SlotInfo) : Lane :=
  (l.nvPut 5 1 (manifestRecord m)).setSec fun s => { s with manifest := m }

def Lane.setSlotState (l : Lane) (n : Nat) (st : SlotState) : Lane :=
  l.putManifest (l.sec.manifest.modify n fun x => { x with state := st })

/-- The operation returns to STAGING with a failure. -/
def Lane.updFail (l : Lane) (code : Nat) : Lane :=
  (((l.setSec fun s => { s with ustate := .staging }).put R.LCS.UPDERR code).post code).irq R.LCS.I_VERFAIL

/-- A UCMD at step 2 (Table SEC-10). -/
def Lane.ucmd (l : Lane) (cmd : Nat) : Lane × Nat :=
  let u := l.sec.ustate
  let t := l.sec.utgt
  match cmd with
  | 1 =>
    if u ≠ .idle then (l, 0x2C08)
    else
      let t := 1 - min 1 l.committedSlot
      let l := l.setSec fun s => { s with ustate := .staging, utgt := t, nextpg := 0, npages := 0, page := none }
      (l.setSlotState t .staging, 0)
  | 2 =>
    if u ≠ .staging then (l, 0x2C47)
    else if !l.compared then (l, 0x2C43)
    else if l.sec.npages = 0 ∨ l.sec.nextpg ≠ l.sec.npages then (l, 0x2C42)
    else (l.setSec fun s => { s with ustate := .verifying, since := l.fno }, 0)
  | 3 =>
    if u ≠ .verified then (l, 0x2C47)
    else if !l.compared then (l, 0x2C43)
    else
      let m := (l.sec.manifest.modify t fun x => { x with state := .committed }).modify (1 - t) fun x => { x with state := .previous }
      let l := l.nvPut 5 1 (manifestRecord m)
      (l.setSec fun s => { s with ustate := .promoting, since := l.fno }, 0)
  | 4 =>
    if u = .staging ∨ u = .verifying ∨ u = .verified then
      ((l.setSec fun s => { s with ustate := .idle, page := none }).setSlotState t .empty, 0)
    else (l, 0x2C47)
  | _ => (l, 0)

/-- An image page transfer at step 2 (R399): the status of the transfer. -/
def Lane.imagePage (l : Lane) (idx : Nat) (data : List Byte) : Lane × Nat :=
  if l.sec.ustate ≠ .staging then (l.post 0x2C41, 0x2C41)
  else if idx ≠ l.sec.nextpg ∨ (idx ≠ 0 ∧ l.sec.npages ≤ idx) then (l.post 0x2C40, 0x2C40)
  else if l.sec.page.isSome then (l.post 0x2C08, 0x2C08)
  else
    let c := if idx = 0 then l.headerCode data else 0
    if c ≠ 0 then (l.post 0x2C48, 0x2C48)
    else (l.setSec fun s => { s with page := some (idx, data), npages := if idx = 0 then imagePages data else s.npages }, 0)

/-- E0 issues the accepted page, again after a frame that did not execute it; not during a NAND lockout, of which it knows
(DEDUCED, assumption log 117). -/
def Lane.pageStep7 (l : Lane) : Lane :=
  match l.sec.page with
  | some (i, d) => if l.nv.nandLock ≠ 0 then l else l.emitNv { part := 0x20 + l.sec.utgt, op := 4, num := i, data := sliceB d 0 2048 }
  | none => l

/-- Verification reports at step 2 (R400). -/
def Lane.verification (l : Lane) (a b : VerReport) : Lane :=
  if l.sec.ustate ≠ .verifying then l
  else if a.code ≠ 0 then l.updFail a.code.toNat
  else if b.code ≠ 0 then l.updFail b.code.toNat
  else if a.digest ≠ b.digest then l.updFail 0x2C4D
  else
    let fp := if l.get R.TST.ROLEA = 2 then a.fp else b.fp
    let m := l.sec.manifest.modify l.sec.utgt fun _ => { state := .verified, digest := a.digest, fp := fp }
    ((l.setSec fun s => { s with ustate := .verified }).putManifest m).irq R.LCS.I_VERIFIED

/-- What one lane reports in VERIFYING (R400), the section checks of the chapters given as `sections`. A page that its code
shows to be wrong fails the read-back (14_nv_store.md R339). -/
def Lane.verReport (l : Lane) (s : NvStore) (standby : Bool) (sections : Nat) : VerReport :=
  let t := l.sec.utgt
  let h := s.nandPage t 0
  let c := l.imageCode s t
  let code := if !standby then 0 else if s.slotBad t (imagePages h) then 0x2C4B else if c ≠ 0 then c else if u32At h 20 ≤ l.sec.image.cfgver then 0x2C4A else sections
  ⟨.ofNat 16 code, imageDigest h, if standby then s.fingerprint t else 0⟩

def Lane.verificationTimeout (l : Lane) : Lane :=
  if l.sec.ustate = .verifying ∧ l.sec.since + 60000 ≤ l.fno then l.updFail 0x2C44 else l

/-- The promotion is abandoned: the manifest record is reissued no longer, the module restarts on the old slot; USTATE is
PROMOTING until then. -/
def Lane.promotionAbandon (l : Lane) : Lane :=
  if l.sec.ustate = .promoting ∧ (l.sec.since + 1000 ≤ l.fno ∨ l.on R.NVS.UNAVAIL) then
    { l with nv := { l.nv with retry := l.nv.retry.filter fun r => !(r.part == 5 && r.rid == 1) } }.askRestart false 6
  else l

/-- Replacement at step 1: executed pages and manifest records, and the mode. -/
def Lane.replaceStep1 (l : Lane) (o : NvOutcome) : Lane :=
  let l : Lane := match l.sec.page with
    | some (i, _) =>
      if o.done.any fun r => r.op == 4 && r.num == i then l.setSec fun s => { s with page := none, nextpg := i + 1 } else l
    | none => l
  let wrote := o.done.any fun r => r.op == 1 && r.part == 5 && r.rid == 1
  let l : Lane := if wrote ∧ l.sec.ustate = .promoting then
      let t := l.sec.utgt
      (l.setSec fun s => { s with
        manifest := (s.manifest.modify t fun x => { x with state := .committed }).modify (1 - t) fun x => { x with state := .previous } }).askRestart false 5
    else l
  let l := if l.sec.ustate = .verifying ∧ !l.compared then l.updFail 0x2C43 else l
  l.verificationTimeout.promotionAbandon

/-- Every restart clears the staging and ends a replacement (R385, Table SEC-10). -/
def Security.restarted (s : Security) : Security :=
  let v := s.manifest.findIdx fun x => x.state == .verified
  { s with
      staging := none, inflight := [], lcNext := none, drsNext := none, page := none, kcmds := [], attReq := none, attDone := none
      ustate := if v < 2 then .verified else .idle
      utgt := if v < 2 then v else 1 - min 1 (s.manifest.findIdx fun x => x.state == .committed), nextpg := 0, npages := 0
      manifest := s.manifest.map fun x => if x.state = .staging then { x with state := .empty } else x }

/-! ### Configuration directory and security section (R392, R406) -/

/-- The sections of a configuration part as type and bytes, or 0x2C4C. -/
def configSections (b : List Byte) : Except Nat (List (Nat × List Byte)) :=
  let n := u32At b 0
  let ent (i : Nat) : Nat × Nat × Nat := (u16At b (16 + 16 * i), u32At b (20 + 16 * i), u32At b (24 + 16 * i))
  let es := (List.range n).map ent
  let zero := (sliceB b 4 12).all (· == 0) && (List.range n).all fun i => u16At b (18 + 16 * i) == 0 && u32At b (28 + 16 * i) == 0
  let asc := (es.zip (es.drop 1)).all fun p => decide (p.1.1 < p.2.1)
  let inside := es.all fun e => decide (1 ≤ e.1) && decide (e.1 ≤ 12) && e.2.1 % 8 == 0 && decide (16 + 16 * n ≤ e.2.1) && decide (e.2.1 + e.2.2 ≤ b.length)
  let apart := (List.range n).all fun i => (List.range n).all fun j =>
    i == j || decide ((ent i).2.1 + (ent i).2.2 ≤ (ent j).2.1) || decide ((ent j).2.1 + (ent j).2.2 ≤ (ent i).2.1)
  if b.length < 16 ∨ n = 0 ∨ 16 < n then .error 0x2C4C
  else if !(zero && asc && inside && apart) then .error 0x2C4C
  else .ok (es.map fun e => (e.1, sliceB b e.2.1 e.2.2))

/-- The security section: revoked serials and flags. -/
def securitySection (b : List Byte) : Except Nat (List (List Byte) × BitVec 3) :=
  let n := u16At b 0
  let serial (i : Nat) : List Byte := sliceB b (4 + 24 * i) 24
  let ok (e : List Byte) : Bool :=
    let k := u8At e 0
    decide (1 ≤ k) && decide (k ≤ 20) && (sliceB e 1 3).all (· == 0) && ((e.drop (4 + k)).all (· == 0))
  if 256 < n ∨ b.length ≠ 8 + 24 * n ∨ 7 < u8At b 2 ∨ u8At b 3 ≠ 0 then .error 0x2C4F
  else if u32At b (4 + 24 * n) ≠ (crc32c (b.take (4 + 24 * n))).toNat then .error 0x2C4F
  else if !(List.range n).all fun i => ok (serial i) then .error 0x2C4F
  else .ok ((List.range n).map fun i => sliceB (serial i) 4 (u8At (serial i) 0), .ofNat 3 (u8At b 2))

/-- The addresses a preset may name (R393): CTRL registers and registers with a field whose reset comes from
the configuration. -/
def presetKeys : List Nat :=
  [0x00060, 0x03058, 0x01070, 0x02048, 0x11040, 0x11044, 0x13040, 0x13044, 0x13058, 0x1305C, 0x13060, 0x3005C, 0x30068, 0x3006C, 0x31044, 0x3404C, 0x34050]

/-- The register-preset section as key and value, or the code it is refused with. -/
def presetSection (b : List Byte) : Except Nat (List (Nat × Word)) :=
  let n := u32At b 0
  let es := (List.range n).map fun i => (u32At b (4 + 8 * i), wordAt b (8 + 8 * i))
  if b.length ≠ 4 + 8 * n then .error 0x2C4C
  else if es.all fun e => decide (0x40000000 ≤ e.1) && decide (e.1 < 0x40100000) && e.1 % 4 == 0
      && ((e.1 % 0x1000 == 8 && (pageRow ((e.1 - 0x40000000) / 0x1000)).isSome) || presetKeys.contains (e.1 - 0x40000000)) then
    .ok (es.map fun e => (e.1 - 0x40000000, e.2))
  else .error 0x2C4E

/-! ### HMK and LCS pages -/

def Lane.readHmk (l : Lane) (off : Nat) : Nat :=
  let n := l.get R.HMK.SSEL
  let k := l.slot n
  if off = 0x044 then
    k.dest.toNat * 2 ^ 24 + (if l.slotPend n then 2 ^ 20 else 0) + l.slotState n * 2 ^ 16 + k.origin * 256 + k.typ
  else if off = 0x048 then k.parent * 65536 + k.usage.toNat
  else if off = 0x04C then u32At k.label 0
  else if off = 0x050 then u32At k.label 4
  else if off = 0x054 then k.kcv
  else if off = 0x058 then k.kgen
  else if off = 0x05C then k.seq
  else if off = 0x074 then
    let c (v : Nat) : Nat := ((List.range 128).filter fun i => l.slotState i == v).length
    c 2 * 65536 + c 1
  else if off = 0x060 then 0
  else (l.reg (0x2A000 + off)).toNat

def Lane.readLcs (l : Lane) (off : Nat) : Nat :=
  if off = 0x040 then l.lifeCycle
  else if off = 0x044 then l.sec.tokcnt
  else if off = 0x048 ∨ off = 0x0AC then 0
  else if off = 0x0B0 then l.sec.utgt * 256 + l.sec.ustate.code
  else if off = 0x0B4 then l.sec.nextpg
  else if off = 0x0B8 then l.sec.npages
  else if off = 0x0C0 then l.sec.image.fwsvn
  else if off = 0x0C4 then l.fuses.svn
  else if off = 0x0C8 then l.sec.image.cfgver
  else (l.reg (0x2C000 + off)).toNat

end Sys2Proof.Machine
end

