-- ==== Sys2Proof/Machine/Time.lean ====
section
/-! DEFINITION. Calendar clock, alarms, local time clock, servo and PTP port (16_time.md), and the frame
timebase that follows them (04_frame.md R86 to R94). -/

namespace Sys2Proof.Machine

/-! ### Civil time (R354, R355) -/

def bcd (n : Nat) : Nat := n / 10 * 16 + n % 10
/-- The number a BCD byte spells, where it is valid BCD. -/
def ofBcd (b : Nat) : Option Nat := if b % 16 ≤ 9 ∧ b / 16 ≤ 9 then some (b / 16 * 10 + b % 16) else none

/-- Days of the calendar's century: every year divisible by 4 is a leap year. -/
def centuryDays : Nat := 36525
def leapYear (y : Nat) : Bool := y % 4 == 0
def monthDays (y m : Nat) : Nat :=
  if m = 2 then (if leapYear y then 29 else 28)
  else if m = 4 ∨ m = 6 ∨ m = 9 ∨ m = 11 then 30 else 31
/-- Days before year `y` of the century. -/
def yearStart (y : Nat) : Nat := 365 * y + (y + 3) / 4
def monthStart (y m : Nat) : Nat := (List.range (m - 1)).foldl (fun a i => a + monthDays y (i + 1)) 0

/-- Date and time of day. -/
structure Civil where
  year : Nat
  mon : Nat
  day : Nat
  hour : Nat
  min : Nat
  sec : Nat
  deriving DecidableEq, Repr

/-- Month and day of day `d` of year `y`, from month `m`. -/
def monthOf (y : Nat) : Nat → Nat → Nat → Nat × Nat
  | 0, m, d => (m, d + 1)
  | n + 1, m, d => if d < monthDays y m then (m, d + 1) else monthOf y n (m + 1) (d - monthDays y m)

def civilDay (days : Nat) : Nat × Nat × Nat :=
  let d := days % centuryDays
  let y := (4 * d + 3) / 1461
  let y := if yearStart (y + 1) ≤ d then y + 1 else if d < yearStart y then y - 1 else y
  let md := monthOf y 11 1 (d - yearStart y)
  (y, md.1, md.2)

def civilOf (sec : Nat) : Civil :=
  let r := civilDay (sec / 86400)
  let t := sec % 86400
  ⟨r.1, r.2.1, r.2.2, t / 3600, t / 60 % 60, t % 60⟩

def Civil.days (c : Civil) : Nat := yearStart c.year + monthStart c.year c.mon + (c.day - 1)
def Civil.secs (c : Civil) : Nat := c.days * 86400 + c.hour * 3600 + c.min * 60 + c.sec
/-- The date exists and every field is in range. -/
def Civil.ok (c : Civil) : Bool :=
  decide (c.year ≤ 99) && decide (1 ≤ c.mon) && decide (c.mon ≤ 12) && decide (1 ≤ c.day)
    && decide (c.day ≤ monthDays c.year c.mon) && decide (c.hour ≤ 23) && decide (c.min ≤ 59) && decide (c.sec ≤ 59)

/-- 1 Monday to 7 Sunday; 2000-01-01 was a Saturday. -/
def weekday (days : Nat) : Nat := (days + 5) % 7 + 1

/-- A reading in the format of Table TIM-1. -/
def readingOf (sec hsec flags : Nat) : Dword :=
  let c := civilOf sec
  .ofNat 64 (ofLe ([bcd hsec, bcd c.sec, bcd c.min, bcd c.hour, bcd c.day, bcd c.mon, bcd c.year,
    weekday (sec / 86400) + flags].map (BitVec.ofNat 8)))

def byteOf (w : Dword) (i : Nat) : Nat := w.toNat / 2 ^ (8 * i) % 256

/-- The date and time a reading spells, with its hundredths, where every field is valid BCD in range. -/
def decodeReading (w : Dword) : Option (Civil × Nat) := do
  let h ← ofBcd (byteOf w 0)
  let s ← ofBcd (byteOf w 1)
  let mi ← ofBcd (byteOf w 2)
  let ho ← ofBcd (byteOf w 3)
  let d ← ofBcd (byteOf w 4)
  let mo ← ofBcd (byteOf w 5)
  let y ← ofBcd (byteOf w 6)
  let c : Civil := ⟨y, mo, d, ho, mi, s⟩
  if c.ok then some (c, h) else none

/-! ### The calendar in the backup domain -/

def Calendar.flags (c : Calendar) : Nat :=
  (if c.osf then 8 else 0) + (if c.batlow then 16 else 0) + (if c.setabt then 32 else 0)

/-- `n` cycles of CK_BKP: the counters run unless a HALT holds them (R355, R358). -/
def Calendar.run (c : Calendar) (n : Nat) : Calendar :=
  if c.halt.isSome then c
  else { c with
    presc := (c.presc + n) % 32768
    sec := (c.sec + (c.presc + n) / 32768) % (centuryDays * 86400) }

/-- The hub's reading at +20 µs (R356): reads of a locked interface return the last shadow (R361). -/
def Calendar.readAt20 (c : Calendar) : Calendar :=
  let r := if c.locked then c.reading else readingOf c.sec (c.presc * 100 / 32768) c.flags
  { c with reading := r, calq := !c.locked && !c.osf && (decodeReading r).isSome }

/-- A command that stands in a driven output frame (R358, R365); a locked interface refuses it. -/
def Calendar.command (c : Calendar) : CalCmd → Calendar
  | .set sec => if c.locked then c else { c with halt := some sec }
  | .alarm i r => if c.locked then c else { c with sram := kvSet [] c.sram i r }
  | .utc r => if c.locked then c else { c with sram := kvSet [] c.sram 8 r }

/-- HALT is cleared at the start of the next frame and the staged value loads (R358). A set clears OSF
(R355), and SETABT (DESIGN CHOICE, assumption log 14). -/
def Calendar.load (c : Calendar) : Calendar :=
  match c.halt with
  | some s => { c with sec := s, presc := 0, halt := none, osf := false, setabt := false }
  | none => c

/-- A HALT in force is cancelled and SETABT set (R358, R361). -/
def Calendar.cancelHalt (c : Calendar) : Calendar :=
  if c.halt.isSome then { c with halt := none, setabt := true } else c

/-- Validity of a backup SRAM record (R365). -/
def sramOk (r : List Byte) : Bool := decide (r.length = 32) && decide (u32At r 28 = (crc32c (r.take 28)).toNat)

def sramRecord (a b c : Nat) (fp : Dword) : List Byte :=
  let body := leBytes 4 a ++ leBytes 4 b ++ leBytes 4 c ++ leBytes 8 fp.toNat ++ List.replicate 8 0
  body ++ leBytes 4 (crc32c body).toNat

/-! ### Frame timebase (04_frame.md) -/

/-- The phase error of a frame that starts at network time `t` ns, in (−500 000, +500 000]. -/
def phaseOf (t : Int) : Int :=
  let r := t % 1000000
  if 500000 < r then r - 1000000 else r

def clampI (x lo hi : Int) : Int := if x < lo then lo else if hi < x then hi else x

/-- Length of a frame with phase error `e` (R91). -/
def frameLen (sync : Sync) (slew : Nat) (e : Int) : Nat :=
  if sync = .locked ∨ sync = .holdover then (1000000 - Int.tdiv (clampI e (-(slew : Int)) slew) 4 * 4).toNat
  else 1000000

def Sync.code : Sync → Nat
  | .free => 0 | .acquire => 1 | .locked => 2 | .holdover => 3

/-! ### Servo (R372, R373) -/

/-- Settings of the PTP page the servo uses; with a fabric time source PROFILE does not matter (R448). -/
structure ServoCfg where
  profile : Nat
  refFall : Bool
  stepThr : Int
  lockThr : Int
  unlkThr : Int
  ki : Int
  kp : Int
  lsi : Int
  smpTo : Nat
  hoTime : Nat

def servoCfg (l : Lane) : ServoCfg where
  profile := if l.get R.FAB.TSRC ≠ 0 then 1 else l.get R.PTP.PROFILE
  refFall := l.on R.CLK.REFFALL
  stepThr := l.get R.PTP.STEPTHR
  lockThr := l.get R.PTP.LOCKTHR
  unlkThr := l.get R.PTP.UNLKTHR
  ki := l.get R.PTP.KI
  kp := l.get R.PTP.KP
  lsi := if l.get R.FAB.TSRC ≠ 0 then -3 else if l.get R.PTP.PROFILE = 3 then l.getI R.PTP.LOGDLY else l.getI R.PTP.LOGSYNC
  smpTo := l.get R.PTP.SMPTO
  hoTime := l.get R.PTP.HOTIME

def amax : Int := 200000 * 65536

/-- An i64 result. -/
def i64 (x : Int) : Int := toSigned 64 (ofSigned 64 x)

/-- The computation of R372 for a sample, in i64. -/
def LocalClock.correct (c : LocalClock) (g : ServoCfg) (theta : Int) : LocalClock :=
  let r := i64 (-(theta * 2 ^ (16 - g.lsi).toNat))
  let i := clampI (c.i + i64 (g.ki * r) / 256) (-amax) amax
  let adj := clampI (i + i64 (g.kp * r) / 256) (-amax) amax
  { c with i := i, adj := adj, addend := (2 ^ 34 + Int.tdiv (adj * 2 ^ 18) (10 ^ 9)).toNat }

/-- A step by −θ (R367). The network time at the start of the frame that runs stays what it was (R92). -/
def LocalClock.step (c : LocalClock) (theta : Int) : LocalClock := { c with pend := c.pend - theta, steps := c.steps + 1 }

/-- The local clock `t` ns of CK_PTP time after the start of the frame, as that CK_PTP cycle shows it (R366, R368). -/
def LocalClock.at (c : LocalClock) (t : Int) : Int := c.ns + c.pend + (c.frac.toNat + t / 4 * c.addend) / 2 ^ 32

/-- CK_PTP cycles of a frame that lasts `len` ns of local-clock time: the next frame starts with the first cycle at or past
its end (R86). -/
def LocalClock.cycles (c : LocalClock) (len : Nat) : Nat := ceilDiv (len * 2 ^ 32 - c.past) c.addend

/-- The clock over a frame of `len` ns: every cycle adds ADDEND to {NS, FRAC} (R366). -/
def LocalClock.advance (c : LocalClock) (len : Nat) : LocalClock :=
  let n := c.cycles len
  let f := c.frac.toNat + n * c.addend
  { c with
    ns := c.ns + c.pend + (f / 2 ^ 32 : Nat), pend := 0, frac := .ofNat 32 f
    past := c.past + n * c.addend - len * 2 ^ 32
    sinceSample := c.sinceSample + 1
    holdFor := if c.sync = Sync.holdover then c.holdFor + 1 else 0 }

/-- Step, or the computation of R372, by the size of the sample. -/
def LocalClock.stepOr (c : LocalClock) (g : ServoCfg) (theta : Int) : LocalClock :=
  if g.stepThr ≤ |theta| then c.step theta else c.correct g theta

/-- The first row of Table TIM-5: REFFALL, or PROFILE 0. -/
def LocalClock.forceFree (c : LocalClock) (g : ServoCfg) : LocalClock :=
  { c with sync := .free, adj := 0, addend := 2 ^ 34, servoOff := c.servoOff || g.refFall }

/-- A sample (Table TIM-5); `tracking` says the port is SLAVE or UNCALIBRATED. -/
def LocalClock.sample (c : LocalClock) (g : ServoCfg) (tracking : Bool) (theta : Int) : LocalClock :=
  if g.refFall ∨ g.profile = 0 ∨ c.servoOff then c.forceFree g
  else
    let c := { c with sinceSample := 0 }
    match c.sync with
    | .free => if tracking then { LocalClock.stepOr { c with i := 0 } g theta with sync := .acquire, good := 0, bad := 0 } else c
    | .acquire =>
      let n := if |theta| < g.lockThr then c.good + 1 else 0
      let c := { c.correct g theta with good := n }
      if 16 ≤ n then { c with sync := .locked, good := 0, bad := 0 } else c
    | .locked =>
      let n := if g.unlkThr ≤ |theta| then c.bad + 1 else 0
      if g.stepThr ≤ |theta| ∨ 4 ≤ n then { c.stepOr g theta with sync := .acquire, good := 0, bad := 0 }
      else { c.correct g theta with bad := n }
    | .holdover =>
      if |theta| < g.unlkThr then { c.correct g theta with sync := .locked, good := 0, bad := 0, holdFor := 0 }
      else { c.stepOr g theta with sync := .acquire, good := 0, bad := 0, holdFor := 0 }

/-- The clock holds the last frequency estimate. -/
def LocalClock.holdRate (c : LocalClock) : LocalClock :=
  { c with adj := c.i, addend := (2 ^ 34 + Int.tdiv (c.i * 2 ^ 18) (10 ^ 9)).toNat }

/-- No sample for SMPTO ms (Table TIM-5), where that time has passed. -/
def LocalClock.sampleTimeout (c : LocalClock) (g : ServoCfg) : LocalClock :=
  if c.sinceSample < g.smpTo then c
  else match c.sync with
    | .acquire => { c.holdRate with sync := .free }
    | .locked => { c.holdRate with sync := .holdover, holdFor := 0 }
    | _ => c

/-- HOTIME seconds in HOLDOVER, where they have passed. -/
def LocalClock.holdoverTimeout (c : LocalClock) (g : ServoCfg) : LocalClock :=
  if c.sync = Sync.holdover ∧ g.hoTime * 1000 ≤ c.holdFor then { c with sync := Sync.free, holdFor := 0 } else c

/-- A change of grandmaster (Table TIM-5). -/
def LocalClock.gmChange (c : LocalClock) : LocalClock :=
  if c.sync = .locked then { c.holdRate with sync := .holdover, holdFor := 0 } else c

/-- A frame passes: the timers of Table TIM-5 count in frames (ms). -/
def LocalClock.tick (c : LocalClock) (g : ServoCfg) (len : Nat) : LocalClock :=
  let c := c.advance len
  if g.refFall ∨ g.profile = 0 then c.forceFree g
  else (c.sampleTimeout g).holdoverTimeout g

/-- Start in phase 1 (R366). -/
def clockStart (cal : Calendar) (locofs : Int) : Int :=
  if cal.calq then
    let utc : Int := match kvGet [] cal.sram 8 with
      | r => if sramOk r then i16At r 0 else 37
    let calsec : Int := match decodeReading cal.reading with
      | some (c, _) => c.secs
      | none => 0
    (calsec + 946684800 + utc - 60 * locofs) * 10 ^ 9
  else 0

/-! ### Frame time on a lane (R97, Tables FRM-6 and TIM-6) -/

/-- The FRAME registers loaded from the trailer at step 1, with their events. -/
def Lane.loadFrameRegs (l : Lane) (t : Trailer) : Lane :=
  let e := phaseOf t.nt
  let nms := (t.nt - e) / 1000000
  let ofs := ofSigned 64 (nms - t.fno)
  let aligned := decide (t.sync = .locked) && decide (|e| < 1000)
  let l := l.irqIf (decide (l.get R.FRAME.SYNC ≠ t.sync.code)) R.FRAME.I_SYNCCHG
  let l := l.irqIf (l.on R.FRAME.ALIGNED && !aligned) R.FRAME.I_ALIGNLOST
  let l := l.irqIf (decide (l.get64 R.FRAME.MSOFS_L R.FRAME.MSOFS_H ≠ ofs)) R.FRAME.I_MSCHG
  let l := l.put64 R.FRAME.FNO_L R.FRAME.FNO_H t.fno
  let l := l.put R.FRAME.NTNS (t.nt % 10 ^ 9).toNat
  let l := l.put64 R.FRAME.NTSEC_L R.FRAME.NTSEC_H (t.nt / 10 ^ 9).toNat
  let l := l.put R.FRAME.FLEN t.flen
  let l := l.putI R.FRAME.PHASE e
  let l := l.putB R.FRAME.CALVALID t.calq
  let l := l.putB R.FRAME.ALIGNED aligned
  let l := l.put R.FRAME.SYNC t.sync.code
  l.put64 R.FRAME.MSOFS_L R.FRAME.MSOFS_H ofs

/-- The RTC and PTP registers loaded from the trailer at step 1, with their events. -/
def Lane.loadTimeRegs (l : Lane) (t : Trailer) : Lane :=
  let fl := byteOf t.cal 7
  let bit (n : Nat) : Bool := fl.testBit n
  let l := l.irqIf (bit 5 && !l.on R.RTC.SETABT) R.RTC.I_SETABT
  let l := l.irqIf (bit 4 && !l.on R.RTC.BATLOW) R.RTC.I_BATLOW
  let l := l.irqIf (l.on R.RTC.CALVALID && !t.calq) R.RTC.I_CALINV
  let l := l.put R.RTC.CALW0 (t.cal.toNat % 2 ^ 32)
  let l := l.put R.RTC.CALW1 (t.cal.toNat / 2 ^ 32)
  let l := match t.calq, decodeReading t.cal with
    | true, some (c, _) => l.put R.RTC.CALSEC c.secs
    | _, _ => l
  let l := ((l.putB R.RTC.SETABT (bit 5)).putB R.RTC.BATLOW (bit 4)).putB R.RTC.OSF (bit 3)
  let l := l.putB R.RTC.CALVALID t.calq
  let was := l.get R.PTP.SYNC
  let now := t.sync.code
  let l := l.irqIf (decide (was ≠ now ∧ now = 0)) R.PTP.I_FREE
  let l := l.irqIf (decide (was ≠ now ∧ now = 3)) R.PTP.I_HOLD
  let l := l.irqIf (decide (was ≠ now ∧ now = 2)) R.PTP.I_LOCK
  (l.put R.PTP.SYNC now).put R.PTP.REFFALL (l.get R.CLK.REFFALL)

/-! ### Sets (R359, R360) -/

/-- At step 1: whether the calendar commands of the previous output frame count as executed. -/
def Lane.calExecuted (l : Lane) (v : Verdict) : Bool :=
  (v.owner == .laneA || v.owner == .laneB) && l.trailer.calq && !(byteOf l.trailer.cal 7).testBit 5

/-- Calendar commands among entries. -/
def calCmds (es : List OutEntry) : List CalCmd := es.filterMap fun e => match e.body with
  | .cal c => some c
  | _ => none

def CalCmd.isSet : CalCmd → Bool
  | .set _ => true
  | _ => false

/-- Step 1: a set that did not count as executed is lost, records are placed again. -/
def Lane.timeStep1 (l : Lane) (v : Verdict) : Lane :=
  let done := l.calExecuted v
  let sent := calCmds l.lastOut
  let lost := if done then calCmds l.leftOut else sent ++ calCmds l.leftOut
  let again (i : Nat) : Bool := lost.any fun c => match c with
    | .alarm j _ => j == i
    | _ => false
  let utc := lost.any fun c => match c with
    | .utc _ => true
    | _ => false
  let l := l.irqIf (done && sent.any CalCmd.isSet) R.RTC.I_CALSET
  let l := l.postIf (lost.any CalCmd.isSet) 0x3041
  let l := l.putB R.RTC.SETPEND ((calCmds l.out).any CalCmd.isSet)
  { l with time := { l.time with
      alarms := l.time.alarms.mapIdx fun i a => if again i then { a with dirty := true } else a
      utcDirty := l.time.utcDirty || utc } }

/-- The calendar time of the two set words, where it is a date (R359). -/
def setValue (w0 w1 : Word) : Option Nat :=
  match decodeReading (.ofNat 64 (w0.toNat + w1.toNat % 2 ^ 24 * 2 ^ 32)) with
  | some (c, 0) => some c.secs
  | _ => none

def Lane.placeCal (l : Lane) (c : CalCmd) : Lane := l.emit 5 0x30 (.cal c)

def OutEntry.isSet (e : OutEntry) : Bool := match e.body with
  | .cal c => c.isSet
  | _ => false

/-- A set stands in this frame's output frame. -/
def Lane.setPlaced (l : Lane) : Bool := l.out.any OutEntry.isSet

/-- At most one set stands in an output frame: a later one takes the place of an earlier (R358, R360). -/
def Lane.placeSet (l : Lane) (sec : Nat) : Lane :=
  ({ l with out := l.out.filter fun e => !e.isSet }.placeCal (.set sec)).put R.RTC.SETPEND 1

/-- AUTOSET (R360): the seconds to set, where a set is made. -/
def Lane.autoSet (l : Lane) : Option Int :=
  let t := l.trailer
  let nms := (t.nt - phaseOf t.nt) / 1000000
  if l.on R.RTC.AUTOSET ∧ l.on R.FRAME.ALIGNED ∧ t.calq ∧ (nms + 1) % 1000 = 0 then
    let n := t.nt + t.flen
    let s := (n + 500000000) / 10 ^ 9 - l.getI R.RTC.UTCOFS + 60 * l.getI R.RTC.LOCOFS - 946684800
    let hsec : Nat := match decodeReading t.cal with
      | some (_, h) => h
      | none => 0
    let cal : Int := l.get R.RTC.CALSEC * 1000 + 10 * hsec + 1
    if 10 * (l.get R.RTC.ASTHR : Int) ≤ |s * 1000 - cal| then some s else none
  else none

/-! ### Alarms (R363 to R365) -/

/-- Values 0 to n − 1 that match a BCD field, 0xFF being any. -/
def fieldVals (n f : Nat) : List Nat := if f = 0xFF then List.range n else (ofBcd f).toList.filter (· < n)

/-- First matching second of a day at or after `lb`. -/
def firstTod (cfg : Word) (lb : Nat) : Option Nat :=
  let hs := fieldVals 24 (bits cfg 31 24)
  let ms := fieldVals 60 (bits cfg 23 16)
  let ss := fieldVals 60 (bits cfg 15 8)
  hs.findSome? fun h =>
    if h * 3600 + 3600 ≤ lb then none
    else ms.findSome? fun m =>
      if h * 3600 + m * 60 + 60 ≤ lb then none
      else ss.findSome? fun s => if lb ≤ h * 3600 + m * 60 + s then some (h * 3600 + m * 60 + s) else none

def dayMatches (cfg day : Word) (d : Nat) : Bool :=
  let c := civilDay d
  let mon := bits day 15 8
  let sel := bits day 7 0
  (mon == 0xFF || ofBcd mon == some c.2.1) &&
    (if cfg.getLsbD 6 then sel == 0xFF || ofBcd sel == some c.2.2 else sel.testBit (weekday d - 1))

/-- Searches `n` days from day `d`, the first of them from second `lb`. -/
def nextFrom (cfg day : Word) : Nat → Nat → Nat → Option Nat
  | 0, _, _ => none
  | n + 1, d, lb =>
    match (if dayMatches cfg day d then firstTod cfg lb else none) with
    | some t => some (d * 86400 + t)
    | none => nextFrom cfg day n (d + 1) 0

/-- NEXT for a base (R363); 0xFFFF_FFFF where no match exists within 400 days. -/
def nextMatch (cfg day : Word) (base : Nat) : Word :=
  let b := base + 1
  match nextFrom cfg day 401 (b / 86400) (b % 86400) with
  | some t => if t ≤ base + 400 * 86400 then .ofNat 32 t else 0xFFFFFFFF
  | none => 0xFFFFFFFF

def Alarm.enabled (a : Alarm) : Bool := a.cfg.getLsbD 7

/-- NEXT is set from a base; a record is due (R365). -/
def Alarm.arm (a : Alarm) (base : Nat) : Alarm :=
  { a with next := if a.enabled then nextMatch a.cfg a.day base else 0xFFFFFFFF, dirty := true }

/-- A firing at CALSEC `now` (R364). -/
def Alarm.fire (a : Alarm) (now : Nat) : Alarm :=
  { a with
      fcnt := satAdd 16 a.fcnt 1, last := .ofNat 32 now, late := decide (a.next.toNat < now)
      next := nextMatch a.cfg a.day now, dirty := true }

/-- One alarm, evaluated where it is enabled and due. A record that is due at k0 fires late (R365). -/
def Lane.alarmStep (l : Lane) (i : Nat) : Lane :=
  let a := l.time.alarms.getD i {}
  let now := l.get R.RTC.CALSEC
  if a.enabled ∧ a.next ≠ 0xFFFFFFFF ∧ a.next.toNat ≤ now then
    let b := a.fire now
    let b := { b with late := b.late || l.fno == l.k0 }
    let l := { l with time := { l.time with alarms := l.time.alarms.set i b } }
    (l.irq R.RTC.I_ALARM).irqIf b.late R.RTC.I_LATE
  else l

/-- Places the records of changed alarms and of UTCOFS (R365). -/
def Lane.placeRecords (l : Lane) : Lane :=
  let fp : Dword := .ofNat 64 (l.get64 R.SYS.CFGFP_L R.SYS.CFGFP_H)
  let l := (List.range 8).foldl (fun (l : Lane) i =>
    let a := l.time.alarms.getD i {}
    if a.dirty then
      let l := l.placeCal (.alarm i (sramRecord a.cfg.toNat a.day.toNat a.next.toNat fp))
      { l with time := { l.time with alarms := l.time.alarms.set i { a with dirty := false } } }
    else l) l
  if l.time.utcDirty then
    let l := l.placeCal (.utc (sramRecord (l.get R.RTC.UTCOFS) 0 0 fp))
    { l with time := { l.time with utcDirty := false } }
  else l

/-- The set of a SET accepted at step 2, else that of AUTOSET, where the host has placed none (R359, R360). -/
def Lane.calSetStep (l : Lane) : Lane :=
  match l.time.setReq with
  | some (w0, w1) =>
    let l := { l with time := { l.time with setReq := none } }
    (match setValue w0 w1 with
      | some s => l.placeSet s
      | none => l.post 0x3040)
  | none => match if l.setPlaced then none else l.autoSet with
    | some s => if 0 ≤ s ∧ s < centuryDays * 86400 then l.placeSet s.toNat else l.post 0x3040
    | none => l

/-- E2 at step 7: the set, the alarms, the records and the shadows of the engines (R357, R359, R364, R365). -/
def Lane.timeStep7 (l : Lane) : Lane :=
  let l := l.calSetStep
  let l := if l.trailer.calq then (List.range 8).foldl (fun (l : Lane) i => l.alarmStep i) l else l
  let l := l.placeRecords
  let sh := l.time.shadows.map fun (x : CalShadow) => { x with age := x.age + 1 }
  { l with time := { l.time with shadows := sh.filter fun (x : CalShadow) => decide (x.reader < 8 → x.age < 1000) } }

/-- A write to an alarm's fields rearms it from the current CALSEC (R363). -/
def Lane.writeAlarm (l : Lane) (i : Nat) (cfg day : Word) : Lane :=
  let a : Alarm := { l.time.alarms.getD i {} with cfg := cfg, day := day }
  { l with time := { l.time with alarms := l.time.alarms.set i (a.arm (l.get R.RTC.CALSEC)) } }

/-- UTCOFS at k0: that of a valid record, else 37 (R365, Table TIM-6; assumption log 116). -/
def Lane.utcAtK0 (l : Lane) (sram : List (Nat × List Byte)) : Lane :=
  let r := kvGet [] sram 8
  l.putI R.RTC.UTCOFS (if sramOk r then i16At r 0 else 37)

/-- At k0 (R365): a record of this configuration gives the alarm, else the configuration does. The presets of ALMCFG and
ALMDAY reach alarm 0, the one that ASEL shows then, unless its record gives it (assumption log 135). -/
def Lane.alarmsAtK0 (l : Lane) (sram : List (Nat × List Byte)) : Lane :=
  let fp := l.get64 R.SYS.CFGFP_L R.SYS.CFGFP_H
  let now := l.get R.RTC.CALSEC
  let ours (i : Nat) : Bool := sramOk (kvGet [] sram i) && u64At (kvGet [] sram i) 12 == fp
  let al := l.time.alarms.mapIdx fun i a =>
    let r := kvGet [] sram i
    if ours i then { a with cfg := wordAt r 0, day := wordAt r 4, next := wordAt r 8 }
    else a.arm now
  { l with
    time := { l.time with alarms := al }
    presets := if ours 0 then l.presets.filter fun p => p.1 != 0x30068 && p.1 != 0x3006C else l.presets }

/-! ### Shadows (R357) -/

def Lane.shadow (l : Lane) (reader : Nat) : Option CalShadow := l.time.shadows.find? fun x => x.reader == reader
def Lane.dropShadow (l : Lane) (reader : Nat) : Lane :=
  { l with time := { l.time with shadows := l.time.shadows.filter fun x => x.reader != reader } }
def Lane.freezeShadow (l : Lane) (reader : Nat) : Lane :=
  let x : CalShadow := { reader, calw1 := l.getW R.RTC.CALW1, calsec := l.getW R.RTC.CALSEC }
  { l.dropShadow reader with time := { (l.dropShadow reader).time with shadows := (l.dropShadow reader).time.shadows ++ [x] } }

/-! ### The PTP port of the owner's E2 (R369 to R371)

The protocol is IEEE 1588-2019's: its data set comparison, delay mechanisms and port states are PRESUMED
from it (assumption log 16). -/

def PortState.code : PortState → Nat
  | .initializing => 1 | .faulty => 2 | .disabled => 3 | .listening => 4 | .preMaster => 5 | .master => 6
  | .passive => 7 | .uncalibrated => 8 | .slave => 9

/-- Lexicographic comparison of data sets: the lower is the better. -/
def dsLt : List Nat → List Nat → Bool
  | a :: x, b :: y => decide (a < b) || (decide (a = b) && dsLt x y)
  | _, _ => false

/-- The data set of the module's own clock. -/
def Lane.ownDs (l : Lane) : List Nat :=
  [l.get R.PTP.PRIO1, 248, 0xFE, 0xFFFF, l.get R.PTP.PRIO2, Config.serial.toNat, 0]

def Lane.masterCapable (l : Lane) : Bool :=
  (l.get R.PTP.PROFILE == 1 || l.get R.PTP.PROFILE == 2) && decide (l.get R.PTP.PRIO1 < 255)

def Lane.ptpState (l : Lane) (p : PortState) : Lane := { l with ptp := { l.ptp with state := p } }.put R.PTP.PSTATE p.code

def PtpPort.tracking (p : PtpPort) : Bool := p.state == .uncalibrated || p.state == .slave

/-- The message comes from the selected master. -/
def Lane.fromMaster (l : Lane) (sender : Dword) : Bool := l.ptp.best.any fun b => b.1 == sender

/-- An Announce: the better of the sender's and the selected master's data sets is selected, and the selected master's own
takes the place of the one it sent before, be it worse; a master capable port whose own data set is better becomes MASTER,
where the sender is the selected master or there is none. The second part says the grandmaster changed. -/
def Lane.ptpAnnounce (l : Lane) (sender : Dword) (ds : List Nat) (gmid : Dword) (utc : Int) (utcValid : Bool) : Lane × Bool :=
  if l.masterCapable ∧ dsLt l.ownDs ds then
    (if l.ptp.tracking ∧ !l.fromMaster sender then l else { l with ptp := { l.ptp with best := none } }.ptpState .master, false)
  else
    let better := match l.ptp.best with
      | some b => b.1 == sender || !dsLt b.2 ds
      | none => true
    if better then
      let changed := decide (l.ptp.gmid ≠ gmid)
      let st := if l.ptp.state = .slave ∧ !changed then PortState.slave else .uncalibrated
      let l := l.ptpState st
      let l := { l with ptp := { l.ptp with best := some (sender, ds), gmid := gmid } }
      let l := ((l.put64 R.PTP.GMID_L R.PTP.GMID_H gmid.toNat).putI R.PTP.UTCANN utc).putB R.PTP.UTCANNV utcValid
      (l.irqIf changed R.PTP.I_GMCHG, changed)
    else (l, false)

/-- E2 hands an event message to the hub, tagged with the next identifier (R369); `dest` is the identity it answers. -/
def Lane.ptpEvent (l : Lane) (kind seq : Nat) (dest : Dword := 0) : Lane :=
  let p := l.ptp
  { l with ptp := { p with nextId := (p.nextId + 1) % 256, pending := p.pending ++ [(p.nextId, kind, seq, dest)] } }

/-- The transport of the profile is IEEE 802.3 (Table TIM-4). -/
def Lane.ptpL2 (l : Lane) : Bool := l.get R.PTP.PROFILE != 1

/-- A message of the port's, as its configuration has it (R370). -/
def Lane.ptpOut (l : Lane) (kind seq : Nat) : PtpOut :=
  { port := l.get R.PTP.PORT, l2 := l.ptpL2, domain := l.get R.PTP.DOMAIN, who := Config.serial, kind, seq }

/-- Message type codes of IEEE 1588-2019. -/
def ptpCode : PtpKind → Nat
  | .sync => 0
  | .delayReq => 1
  | .pdelayReq => 2
  | .announce => 0xB

/-- Which messages the port sends of its own in its state (R370). -/
def Lane.ptpMaySend (l : Lane) (k : PtpKind) : Bool :=
  let peer := l.get R.PTP.PROFILE == 3
  match k with
  | .sync | .announce => l.ptp.state == .master
  | .delayReq => l.ptp.tracking && !peer
  | .pdelayReq => peer

/-- A message of the port's own: the lane and the message. A Sync is two-step, so its time is in its Follow_Up; a new
exchange replaces one that has not ended. -/
def Lane.ptpSend (l : Lane) (k : PtpKind) : Lane × PtpOut :=
  let p := l.ptp
  match k with
  | .sync =>
    let n := (p.seqSync + 1) % 65536
    (({ l with ptp := { p with seqSync := n } } : Lane).ptpEvent 0 n, { l.ptpOut 0 n with interval := l.getI R.PTP.LOGSYNC })
  | .announce =>
    let n := (p.seqAnn + 1) % 65536
    ({ l with ptp := { p with seqAnn := n } },
      { l.ptpOut 0xB n with ds := l.ownDs, utc := l.getI R.RTC.UTCOFS, interval := l.get R.PTP.LOGANN })
  | _ =>
    let n := (p.seqDly + 1) % 65536
    (({ l with ptp := { p with seqDly := n, t3 := none, t4 := none } } : Lane).ptpEvent (ptpCode k) n, l.ptpOut (ptpCode k) n)

/-- Mean path delay of a completed exchange. -/
def PtpPort.pathDelay (p : PtpPort) (peer : Bool) : Option Int :=
  match p.t1, p.t2, p.t3, p.t4 with
  | some t1, some t2, some t3, some t4 =>
    if peer then none else some (Int.tdiv ((t2 - t1) + (t4 - t3)) 2)
  | _, _, _, _ => none

/-- The offset of the last Sync, once both its stamps are known. -/
def PtpPort.offset (p : PtpPort) : Option Int := do
  let t1 ← p.t1
  let t2 ← p.t2
  some (t2 - t1 - p.mpd)

/-- A message stamped `rx` reaches E2 (R371): the lane, a sample θ for the servo, and a change of grandmaster. Sync,
Follow_Up and Delay_Resp count from the selected master alone. -/
def Lane.ptpMessage (l : Lane) (m : PtpMsg) (rx : Int) : Lane × Option Int × Bool :=
  let take (l : Lane) : Lane × Option Int × Bool :=
    if !l.ptp.tracking then (l, none, false)
    else match l.ptp.offset with
      | some th =>
        let l := l.putI R.PTP.OFFSET (clampI th (-2147483648) 2147483647)
        (if l.ptp.state = .uncalibrated then l.ptpState .slave else l, some th, false)
      | none => (l, none, false)
  let ours := l.fromMaster m.sender
  match m.body with
  | .announce ds gm utc v => let r := l.ptpAnnounce m.sender ds gm utc v; (r.1, none, r.2)
  | .sync seq two origin corr =>
    if !ours then (l, none, false)
    else if two then ({ l with ptp := { l.ptp with sync := seq, t2 := some (rx - corr), t1 := none } }, none, false)
    else take { l with ptp := { l.ptp with sync := seq, t2 := some (rx - corr), t1 := some origin } }
  | .followUp seq origin corr =>
    if ours ∧ l.ptp.sync = seq ∧ l.ptp.t2.isSome then take { l with ptp := { l.ptp with t1 := some (origin + corr) } }
    else (l, none, false)
  | .delayReq _ _ => (l, none, false)
  | .delayResp seq t4 corr =>
    if ours ∧ l.ptp.seqDly = seq ∧ l.ptp.t3.isSome then
      let p := { l.ptp with t4 := some (t4 - corr) }
      match p.pathDelay false with
      | some d => (({ l with ptp := { p with mpd := d, t3 := none, t4 := none } }).putI R.PTP.MPD d, none, false)
      | none => ({ l with ptp := p }, none, false)
    else (l, none, false)
  | .pdelayReq _ _ => (l, none, false)
  | .other => (l, none, false)
  | .pdelayResp seq two t2 corr =>
    match l.ptp.t3 with
    | some t1 =>
      if l.ptp.seqDly ≠ seq then (l, none, false)
      else if two then ({ l with ptp := { l.ptp with t4 := some (rx - corr + t2) } }, none, false)
      else
        let d := Int.tdiv (rx - corr - t1) 2
        (({ l with ptp := { l.ptp with mpd := d, t3 := none, t4 := none } }).putI R.PTP.MPD d, none, false)
    | none => (l, none, false)
  | .pdelayRespFollowUp seq t3 corr =>
    match l.ptp.t3, l.ptp.t4 with
    | some t1, some r =>
      if l.ptp.seqDly ≠ seq then (l, none, false)
      else
        let d := Int.tdiv (r - t3 - corr - t1) 2
        (({ l with ptp := { l.ptp with mpd := d, t3 := none, t4 := none } }).putI R.PTP.MPD d, none, false)
    | _, _ => (l, none, false)

/-- A transmit stamp reaches the timestamp queue (R369). -/
def Lane.pushStamp (l : Lane) (e : TsEntry) : Lane :=
  if 16 ≤ l.tsq.length then
    ((((l.inc R.TSQ.OVFCNT).put R.TSQ.OVFID e.ident).put R.TSQ.OVFPORT e.port)).irq R.TSQ.I_OVF
  else { l with tsq := l.tsq ++ [e] }

/-- E2 takes an entry by identifier: it completes a pending message, or is discarded (R369). -/
def Lane.takeStamp (l : Lane) (e : TsEntry) : Lane :=
  let l := { l with tsq := l.tsq.erase e }
  match l.ptp.pending.find? fun p => p.1 == e.ident with
  | none => (l.inc R.TSQ.STALECNT).irq R.TSQ.I_STALE
  | some p =>
    let l := { l with ptp := { l.ptp with pending := l.ptp.pending.erase p } }
    if (p.2.1 = 1 ∨ p.2.1 = 2) ∧ p.2.2.1 = l.ptp.seqDly then { l with ptp := { l.ptp with t3 := some e.ns } } else l

/-- The follow-up that a stamp allows: Follow_Up after a Sync, Pdelay_Resp_Follow_Up after a Pdelay_Resp. -/
def Lane.ptpFollow (l : Lane) (e : TsEntry) : Option PtpOut :=
  match l.ptp.pending.find? fun p => p.1 == e.ident with
  | some (_, 0, n, _) => some { l.ptpOut 8 n with time := e.ns, interval := l.getI R.PTP.LOGSYNC }
  | some (_, 3, n, d) => some { l.ptpOut 0xA n with time := e.ns, dest := d }
  | _ => none

/-- After an owner change the new owner's E2 starts the port at INITIALIZING; the timestamp queue is flushed (R369,
R371). -/
def Lane.ptpNewOwner (l : Lane) : Lane :=
  ({ l with tsq := [], ptp := { nextId := l.ptp.nextId } } : Lane).ptpState .initializing

/-- The registers that show the head of the timestamp queue (Table TIM-8). -/
def Lane.showTsq (l : Lane) : Lane :=
  let l := (l.put R.TSQ.LEVEL l.tsq.length).putB R.TSQ.FULL (decide (16 ≤ l.tsq.length))
  match l.tsq with
  | [] => (((l.put R.TSQ.HVALID 0).put R.TSQ.HPORT 0).put R.TSQ.HID 0).put R.TSQ.HNS 0
      |>.put64 R.TSQ.HSEC_L R.TSQ.HSEC_H 0
  | e :: _ =>
    (((l.put R.TSQ.HVALID 1).put R.TSQ.HPORT e.port).put R.TSQ.HID e.ident).put R.TSQ.HNS (e.ns % 10 ^ 9).toNat
      |>.put64 R.TSQ.HSEC_L R.TSQ.HSEC_H (e.ns / 10 ^ 9).toNat

/-- The lane-local registers of the local clock (Table TIM-7). -/
def Lane.showClock (l : Lane) (c : LocalClock) : Lane :=
  let l := (l.put R.PTP.LTNS (c.ns % 10 ^ 9).toNat).put64 R.PTP.LTSEC_L R.PTP.LTSEC_H (c.ns / 10 ^ 9).toNat
  let l := (l.putI R.PTP.ADJ (c.adj / 256)).putB R.PTP.SERVOOFF c.servoOff
  let n := min (c.steps - l.time.stepBase) (2 ^ 32 - 1)
  let l := l.irqIf (decide (l.get R.PTP.STEPCNT < n)) R.PTP.I_STEP
  l.put R.PTP.STEPCNT n

end Sys2Proof.Machine
end

