-- ==== Sys2Proof/Machine/Wire.lean ====
section
/-! DEFINITION. Bytes of arrivals and of the input frame's trailer, with the checksums over them
(04_frame.md Tables FRM-2, FRM-3 and FRM-9, 05_touchstone.md Table TST-2, 12_electrical_metering.md Table MET-2,
20_rogon_fabric.md Table FAB-3, 21_field_ports.md Tables PRT-1 and PRT-3). Where a payload has no layout in the spec the
layout is the model's (assumption log 95). -/

namespace Sys2Proof.Machine

/-! ### Payloads of arrivals -/

def flag (b : Bool) (n : Nat) : Nat := if b then 2 ^ n else 0

/-- The verdict record, Table TST-2. -/
def Verdict.bytes (v : Verdict) : List Byte :=
  leBytes 4 (v.owner.code + v.mode.code * 4 + v.cmp.code * 0x100 + v.roleA.code * 0x10000 + v.roleB.code * 0x100000
    + flag v.gap 24 + flag v.tslost 25 + flag v.pathtest 26 + flag v.xfer 27) ++ leBytes 4 v.vfno

/-- Source 0x01: analog values in µA, status block, verdict, 52 bytes (R114). -/
def analogBytes (ai : List Nat) (block : List Word) (v : Verdict) : List Byte :=
  ((List.range 8).flatMap fun i => leBytes 2 (ai.getD i 0)) ++ ((List.range 7).flatMap fun i => leBytes 4 (block.getD i 0).toNat)
    ++ v.bytes

/-- An edge record of Table FRM-9. -/
def DiEdge.bytes (e : DiEdge) : List Byte :=
  leBytes 4 (ofSigned 32 e.ns) ++ [.ofNat 8 e.din, .ofNat 8 (flag e.level 0), 0, 0]

def digitalBytes (di : Word) (pcnt : List Word) (es : List DiEdge) (edrop : Nat) : List Byte :=
  leBytes 4 di.toNat ++ ((List.range 16).flatMap fun i => leBytes 4 (pcnt.getD i 0).toNat)
    ++ [.ofNat 8 es.length, 0] ++ leBytes 2 edrop ++ es.flatMap DiEdge.bytes

/-- Table MET-2. -/
def windowBytes (w : MetWindow) : List Byte :=
  leBytes 2 w.tfe.toNat ++ [.ofNat 8 (flag w.valid 0 + flag w.rtd.isSome 1), 0] ++ leBytes 4 w.wno.toNat
    ++ leBytes 10 w.ovrmap.toNat ++ [0, 0]
    ++ ((List.range 80).flatMap fun c => (List.range 32).flatMap fun j => leBytes 4 (ofSigned 32 ((w.samples.getD c []).getD j 0)))
    ++ (w.rtd.elim [] fun r => (List.range 32).flatMap fun i => leBytes 4 (r.getD i 0).toNat)

/-- An entry of a write transaction (Table PRT-3). -/
def entryBytes (e : WriteEntry) : List Byte :=
  leBytes 4 e.addr.toNat ++ leBytes 4 e.value.toNat ++ leBytes 4 (flag e.guard.isSome 0)
    ++ e.guard.elim [] fun g => leBytes 4 g.1.toNat ++ leBytes 4 g.2.toNat

/-- Body of a write transaction: with the arrival's header 16 + 12 × n bytes and 8 for each guard (R53). -/
def writeBytes (es : List WriteEntry) : List Byte := leBytes 2 es.length ++ [0, 0] ++ es.flatMap entryBytes

/-- Table ASY-4. -/
def assayBytes (r : AssayReport) : List Byte :=
  [.ofNat 8 r.typ, if r.lane = .a then 0 else 1, .ofNat 8 r.unit, .ofNat 8 r.array] ++ leBytes 4 r.addr
    ++ [.ofNat 8 r.bit, .ofNat 8 r.res] ++ leBytes 2 r.spare ++ leBytes 4 r.fno

def verBytes (r : VerReport) : List Byte := leBytes 2 r.code.toNat ++ sliceB r.digest 0 48 ++ leBytes 8 r.fp.toNat

def reportBytes : LaneReport → List Byte
  | .salt v => v
  | .tsalt v => v
  | .page _ _ i d => leBytes 4 i ++ d
  | .verification a b => verBytes a ++ verBytes b
  | .assay r => assayBytes r

/-- A stamp of the fabric (R446): nanoseconds, then 48-bit seconds, in 12 bytes. -/
def stampBytes (ns : Int) : List Byte := leBytes 4 (ns % 10 ^ 9).toNat ++ leBytes 6 (ns / 10 ^ 9).toNat ++ [0, 0]

/-- Port state in the layout of the port's status register (Tables PRT-7, PRT-8, PRT-10). -/
def statusBytes : PortStatus → List Byte
  | .eth v => leBytes 4 (v % 4 * 2 + (if v % 4 = 0 then 0 else 1))
  | .can st tec rec_ fd ab nb db =>
    leBytes 4 (st % 4 + flag ab 2 + flag fd 3) ++ leBytes 4 (tec % 65536 + rec_ % 65536 * 65536) ++ leBytes 4 (db % 65536 + nb % 65536 * 65536)
  | .mbus on ovc i => leBytes 4 (flag on 2 + flag ovc 3) ++ leBytes 4 (i % 65536)

/-- Tables PRT-1 and FAB-3. -/
def portBytes : PortBody → List Byte
  | .unit stn d => [0] ++ leBytes 2 stn ++ [0] ++ d
  | .status p => [1, 0, 0, 0] ++ statusBytes p
  | .outcome stn c => [2] ++ leBytes 2 stn ++ [.ofNat 8 c]
  | .adu conn svc d => [3] ++ leBytes 2 conn ++ [.ofNat 8 svc] ++ d
  | .fabFrame t d => [0, 0, 0, 0] ++ stampBytes t ++ d
  | .fabStatus p s b u => [1, .ofNat 8 (flag p 0 + flag s 1 + flag b 2 + flag u 3)] ++ List.replicate 14 0
  | .fabStamp t q => [2, 0, 0, 0] ++ stampBytes t ++ leBytes 8 q

def ArrBody.bytes : ArrBody → List Byte
  | .analog ai b v => analogBytes ai b v
  | .digital di p es d => digitalBytes di p es d
  | .metering w => windowBytes w
  | .write _ _ _ es _ => writeBytes es
  | .rcClear a w => leBytes 4 a.toNat ++ leBytes 4 w.toNat
  | .lane r => reportBytes r
  | .adu conn svc _ d => [3] ++ leBytes 2 conn ++ [.ofNat 8 svc] ++ d
  | .port b => portBytes b

/-! ### Input frames -/

/-- Header, payload and padding of an arrival (Table FRM-2); `tcmp` is relative to the frame here. -/
def Arrival.bytes (a : Arrival) : List Byte :=
  [.ofNat 8 a.src, .ofNat 8 (flag a.deferred 0)] ++ leBytes 2 a.seq ++ leBytes 4 a.len ++ leBytes 4 (ofSigned 32 a.tcmp)
    ++ sliceB a.body.bytes 0 (pad4 a.len)

/-- ACRC: CRC-32C over all arrivals, in frame order (R96). -/
def arrivalCrc (l : List Arrival) : Word := crc32c (l.flatMap Arrival.bytes)

/-- Bytes [43:0] of the trailer, Table FRM-3. -/
def Trailer.body (t : Trailer) : List Byte :=
  leBytes 8 t.fno ++ leBytes 4 t.acnt ++ leBytes 4 t.acrc.toNat ++ leBytes 4 (t.nt % 10 ^ 9).toNat ++ leBytes 6 (t.nt / 10 ^ 9).toNat
    ++ [.ofNat 8 (match t.sync with | .free => 0 | .acquire => 1 | .locked => 2 | .holdover => 3), .ofNat 8 (flag t.calq 0)]
    ++ leBytes 8 t.cal.toNat ++ leBytes 4 t.flen ++ [0, 0, 0, 0]

/-- The trailer with its TCRC. -/
def Trailer.sealed (t : Trailer) : Trailer := { t with tcrc := crc32c t.body }

/-- An arrival as it stands in the frame that starts at `start`: TCMP in signed 32-bit ns relative to it. -/
def Arrival.inFrame (a : Arrival) (start : Int) : Arrival := { a with tcmp := toSigned 32 (ofSigned 32 (a.tcmp - start)) }

end Sys2Proof.Machine
end

