-- ==== Sys2Proof/Machine/Fabric.lean ====
section
/-! DEFINITION. Rogon fabric (20_rogon_fabric.md): links, sealed frames, adjacencies, the database and its
routes, time transfer, and the fabric section. -/

namespace Sys2Proof.Machine

def Lane.setFab (l : Lane) (f : Fabric → Fabric) : Lane := { l with fab := f l.fab }
def Lane.link (l : Lane) (n : Nat) : FabLink := l.fab.links.getD n {}
def Lane.setLink (l : Lane) (n : Nat) (f : FabLink → FabLink) : Lane := l.setFab fun t => { t with links := t.links.modify n f }
def Lane.modId (l : Lane) : Nat := l.get R.FAB.MODID
def Lane.linkUp (l : Lane) (n : Nat) : Bool := l.on (R.FL.UP.inst n)

/-! ### Configuration (R453, R441) -/

/-- A slot suits the fabric: a KDF secret with DEST E1 and usage derive. -/
def Lane.fabSlotOk (l : Lane) (n : Nat) : Bool :=
  let k := l.slot n
  k.typ == 7 && k.dest.getLsbD 1 && k.usage.getLsbD 0

structure FabCfg where
  modid : Nat
  latency : Nat
  tsrc : Nat
  kslot : Nat
  kslot2 : Nat
  linken : Nat
  cost : List Nat
  asym : List Int
  deriving DecidableEq, Repr

/-- The fabric section, or 0x3C40. -/
def fabricSection (b : List Byte) : Except Nat FabCfg :=
  let c : FabCfg := {
    modid := u16At b 0, latency := u8At b 2, tsrc := u8At b 3, kslot := u8At b 4, kslot2 := u8At b 5, linken := u8At b 6
    cost := (List.range 4).map fun i => u8At b (8 + i), asym := (List.range 4).map fun i => i32At b (12 + 4 * i) }
  let ok := decide (1 ≤ c.modid) && decide (c.modid ≤ 0xFEF) && decide (1 ≤ c.latency) && decide (c.latency ≤ 16) && decide (c.tsrc ≤ 4)
    && decide (8 ≤ c.kslot) && decide (c.kslot ≤ 127) && (c.kslot2 == 0 || (decide (8 ≤ c.kslot2) && decide (c.kslot2 ≤ 127)))
    && decide (c.linken < 16) && u8At b 7 == 0 && c.cost.all (fun x => decide (1 ≤ x)) && c.asym.all fun a => decide (-100000 ≤ a ∧ a ≤ 100000)
  if b.length ≠ 32 ∨ u32At b 28 ≠ (crc32c (b.take 28)).toNat ∨ !ok then .error 0x3C40 else .ok c

/-! ### Sealed frames (R435, R439 to R441) -/

/-- The session key of an originator under a slot, or the status its use is refused with (R383). -/
def Lane.sessionKey (l : Lane) (slot origin : Nat) (salt : List Byte) : Except Nat (List Byte) :=
  match l.keyUse slot 1 0 with
  | .ok k => .ok (Crypto.kdf k (asciiBytes "FABSESS0") (leBytes 2 origin ++ sliceB salt 0 16) 256)
  | .error c => .error c

def fabIv (src seq : Nat) : List Byte := beBytes 2 src ++ beBytes 8 seq ++ [0, 0]

def fabHeader (typ tc hops src dst seq plen : Nat) : List Byte :=
  [BitVec.ofNat 8 (typ + 16), BitVec.ofNat 8 tc, BitVec.ofNat 8 hops, 0] ++ leBytes 2 src ++ leBytes 2 dst ++ leBytes 8 seq ++ leBytes 4 plen
    ++ List.replicate 12 0

/-- The AAD of a frame: the header with HOPS taken as zero, for TYPE 1 to 3 with the destination and the whole payload taken
as zero (assumption log 23). -/
def fabAad (typ tc src dst seq plen : Nat) : List Byte :=
  fabHeader typ tc 0 src (if typ ≤ 3 then 0 else dst) seq plen ++ (if typ ≤ 3 then List.replicate plen 0 else [])

def withFcrc (b : List Byte) : List Byte := b ++ leBytes 4 (crc32c b).toNat

/-- Places a frame for the end of step 7, where E1 seals it. -/
def Lane.fabSend (l : Lane) (typ tc dst : Nat) (payload : List Byte) : Lane :=
  l.setFab fun t => { t with outbox := t.outbox ++ [⟨dst, typ, tc, payload⟩] }

/-- Seals one frame and emits its class 0x04 entry; nothing without SALT, key or an enabled FAB page. -/
def Lane.fabSealOne (l : Lane) (o : FabOut) : Lane :=
  let n := if 0xFF0 ≤ o.dst then some (o.dst - 0xFF0) else (l.fab.routes.find? fun r => r.dst == o.dst).map (·.link)
  let sent (l : Lane) (b : List Byte) : Lane :=
    let l : Lane := match n with
      | some n => l.inc (R.FL.TXFR.inst n)
      | none => l
    l.emit 4 o.dst (.bytes b)
  if o.typ = 0 then sent l o.data
  else match l.fab.salt with
  | none => l
  | some salt =>
    if l.on R.FAB.NOKEY ∨ !l.enabled 0x3C then l
    else match l.sessionKey (l.get R.FAB.KSLOT) l.modId salt with
    | .error c => l.countUse (.error c)
    | .ok key =>
      let seq := l.fab.seq
      let aad := fabAad o.typ o.tc l.modId o.dst seq o.data.length
      let s := if o.typ ≤ 3 then (o.data, (Crypto.gcmSeal key (fabIv l.modId seq) aad []).2)
        else Crypto.gcmSeal key (fabIv l.modId seq) aad o.data
      let b := withFcrc (fabHeader o.typ o.tc 8 l.modId o.dst seq o.data.length ++ s.1 ++ s.2)
      let l := (l.setFab fun t => { t with seq := seq + 1 }).inc R.CRY.OPCNT
      let l := if o.typ = 3 then l.setLink (o.dst - 0xFF0) fun k => { k with sentTime := ((seq, none) :: k.sentTime).take 2 } else l
      sent l b

def fabInsert (o : FabOut) : List FabOut → List FabOut
  | [] => [o]
  | x :: l => if o.dst < x.dst then o :: x :: l else x :: fabInsert o l

/-- Seals the frames of this output frame in the order of their entries (R102, R439). -/
def Lane.fabSeal (l : Lane) : Lane :=
  let os := l.fab.outbox.foldl (fun acc o => fabInsert o acc) []
  os.foldl (fun (l : Lane) o => l.fabSealOne o) (l.setFab fun t => { t with outbox := [] })

/-- The fields of a received frame. -/
structure FabFrame where
  typ : Nat
  tc : Nat
  src : Nat
  dst : Nat
  seq : Nat
  payload : List Byte
  tag : List Byte
  deriving DecidableEq, Repr

def readFab (b : List Byte) : FabFrame :=
  let n := u32At b 16
  { typ := u8At b 0 % 16, tc := u8At b 1 % 4, src := u16At b 4 % 4096, dst := u16At b 6 % 4096, seq := u64At b 8
    payload := sliceB b 32 n, tag := sliceB b (32 + n) 16 }

/-- The hop check of a frame, which has at least its header, tag and FCRC (R435). -/
def hopOk (b : List Byte) : Bool := decide (52 ≤ b.length) && u32At b (b.length - 4) == (crc32c (b.take (b.length - 4))).toNat

/-- A frame whose lengths and version agree (Table FAB-1). -/
def fabShape (b : List Byte) : Bool := decide (u8At b 0 / 16 = 1) && decide (u32At b 16 ≤ 9216) && decide (b.length = 52 + u32At b 16)

/-- One attempt to open a frame under a slot: the lane that has counted the use, and the plaintext. -/
def Lane.fabTry (l : Lane) (f : FabFrame) (salt : List Byte) (slot : Nat) : Lane × Option (List Byte) :=
  let key := l.sessionKey slot f.src salt
  (l.countUse key, match key with
    | .error _ => none
    | .ok key =>
      let aad := fabAad f.typ f.tc f.src f.dst f.seq f.payload.length
      if f.typ ≤ 3 then (Crypto.gcmOpen key (fabIv f.src f.seq) aad [] f.tag).map fun _ => f.payload
      else Crypto.gcmOpen key (fabIv f.src f.seq) aad f.payload f.tag)

/-- The plaintext of a frame, in up to two attempts (R441): none where neither key opens it. -/
def Lane.fabOpen (l : Lane) (f : FabFrame) (salt : List Byte) : Lane × Option (List Byte) :=
  match l.fabTry f salt (l.get R.FAB.KSLOT) with
  | (l, some p) => (l, some p)
  | (l, none) => if l.get R.FAB.KSLOT2 ≠ 0 then l.fabTry f salt (l.get R.FAB.KSLOT2) else (l, none)

/-- The replay window (R441): none where the SEQ is refused. -/
def Lane.fabReplay (l : Lane) (src seq : Nat) (salt : List Byte) : Option Lane :=
  let old := l.fab.replay.find? fun r => r.1 == src && r.2.1 == salt
  let rest := l.fab.replay.filter fun r => !(r.1 == src && r.2.1 == salt)
  match old with
  | none => some (l.setFab fun t => { t with replay := (src, salt, seq, [seq]) :: rest })
  | some (_, _, top, seen) =>
    if seq + 64 ≤ top ∨ seen.contains seq then none
    else
      let top := max top seq
      some (l.setFab fun t => { t with replay := (src, salt, top, (seq :: seen).filter fun x => decide (top < x + 64)) :: rest })

/-- NOKEY of this frame (R441). -/
def Lane.fabKeyStep (l : Lane) : Lane :=
  let bad := l.enabled 0x3C && (l.lifeCycle == 3 || l.slotState (l.get R.FAB.KSLOT) != 1)
  (l.irqIf (bad && !l.on R.FAB.NOKEY) R.FAB.I_NOKEY).putB R.FAB.NOKEY bad

/-! ### Adjacencies (R442) -/

def Lane.showAdj (l : Lane) : Lane := l.putB R.FAB.ADJ (l.fab.links.any (·.adj))

def Lane.setAdj (l : Lane) (n : Nat) (b : Bool) : Lane :=
  if (l.link n).adj = b then l
  else
    let l := (l.setLink n fun k => { k with adj := b }).setFab fun t => { t with lsaDue := true, routesDirty := true }
    (((l.putB (R.FL.ADJ.inst n) b).irq R.FAB.I_ADJCHG).irq (R.FL.I_ADJCHG.inst n)).showAdj

/-- 400 frames have passed without a HELLO on link `n`. -/
def Lane.helloStale (l : Lane) (n : Nat) : Bool := match (l.link n).helloAt with
  | some f => decide (f + 400 ≤ l.fno)
  | none => true

def Lane.adjTimeout (l : Lane) (n : Nat) : Lane :=
  let l := l.putB (R.FL.HELLO.inst n) (!l.helloStale n)
  if (l.link n).adj ∧ l.helloStale n then l.setAdj n false else l

def Lane.takeHello (l : Lane) (n : Nat) (f : FabFrame) (p : List Byte) : Lane :=
  let nbr := u16At p 18
  let was := l.link n
  let changed := was.helloAt.isSome && was.heard != f.src
  let renamed := l.get (R.FL.NBR.inst n) != f.src
  let l := l.setLink n fun k => { k with helloAt := some l.fno, heard := f.src }
  let l := ((l.put (R.FL.NBR.inst n) f.src).put (R.FL.NLINK.inst n) (u8At p 16)).put (R.FL.HELLO.inst n) 1
  let l := if renamed ∧ l.get R.FAB.TSRC = n + 1 then l.setFab fun t => { t with gmChange := true } else l
  if was.adj then (if changed ∨ nbr ≠ l.modId then l.setAdj n false else l)
  else if u8At p 17 = 1 ∧ nbr = l.modId then l.setAdj n true else l

def Lane.sendHello (l : Lane) (n : Nat) : Lane :=
  let seen := !l.helloStale n
  l.fabSend 1 3 (0xFF0 + n) (sliceB (l.fab.salt.getD []) 0 16 ++ [BitVec.ofNat 8 n, if seen then 1 else 0]
    ++ leBytes 2 (if seen then (l.link n).heard else 0) ++ List.replicate 4 0)

/-! ### The database (R443) -/

def Lane.ownAdjs (l : Lane) : List (Nat × Nat × Nat) :=
  (List.range 4).filterMap fun n => if (l.link n).adj then some ((l.link n).heard, l.get (R.FL.COST.inst n), n) else none

def Lane.putLsa (l : Lane) (e : LsaEntry) : Lane :=
  l.setFab fun t => { t with db := (t.db.filter fun x => x.origin != e.origin) ++ [e], routesDirty := true }

def readLsa (origin fno : Nat) (p : List Byte) : LsaEntry :=
  { origin, salt := sliceB p 0 16, lseq := u64At p 16, refreshed := fno
    adjs := (List.range (u8At p 24)).map fun a => (u16At p (32 + 4 * a), u8At p (34 + 4 * a), u8At p (35 + 4 * a)) }

/-- Re-sends an LSA frame unchanged on every other link with an adjacency. -/
def Lane.flood (l : Lane) (from_ : Option Nat) (frame : List Byte) : Lane :=
  (List.range 4).foldl (fun (l : Lane) n =>
    if some n = from_ ∨ !(l.link n).adj then l
    else
      let body := frame.take 6 ++ leBytes 2 (0xFF0 + n) ++ (frame.drop 8).take (frame.length - 12)
      l.fabSend 0 3 (0xFF0 + n) (withFcrc body)) l

/-- Takes a received LSA; the place of the own entry stays free. -/
def Lane.takeLsa (l : Lane) (n : Option Nat) (f : FabFrame) (p frame : List Byte) : Lane :=
  let e := readLsa f.src l.fno p
  let full := decide (64 ≤ (l.fab.db.filter fun x => x.origin != l.modId).length + 1)
  match l.fab.db.find? fun x => x.origin == f.src with
  | none => if full ∧ f.src ≠ l.modId then l.inc R.FAB.NLSAFULL else (l.putLsa e).flood n frame
  | some o => if o.lseq < e.lseq ∨ (o.lseq = e.lseq ∧ o.salt ≠ e.salt) then (l.putLsa e).flood n frame else l

/-- Entries not refreshed within 120 000 frames leave the database. -/
def Lane.lsaAgeOut (l : Lane) : Lane :=
  let keep := l.fab.db.filter fun e => decide (l.fno < e.refreshed + 120000)
  if keep.length = l.fab.db.length then l else l.setFab fun t => { t with db := keep, routesDirty := true }

/-- Originates the own LSA where it is due. -/
def Lane.ownLsa (l : Lane) : Lane :=
  let gap := match l.fab.lsaAt with
    | some f => l.fno - f
    | none => 30000
  match l.fab.salt with
  | none => l
  | some salt =>
    if !((l.fab.lsaDue ∧ 100 ≤ gap) ∨ 30000 ≤ gap) then l
    else
      let adjs := l.ownAdjs
      let lseq := (l.get64 R.FRAME.MSOFS_L R.FRAME.MSOFS_H + l.fno) % 2 ^ 64
      let p := sliceB salt 0 16 ++ leBytes 8 lseq ++ [BitVec.ofNat 8 adjs.length] ++ List.replicate 7 0
        ++ adjs.flatMap fun a => leBytes 2 a.1 ++ [BitVec.ofNat 8 a.2.1, BitVec.ofNat 8 a.2.2]
      let l := (l.putLsa { origin := l.modId, salt, lseq, adjs, refreshed := l.fno }).setFab fun t => { t with lsaDue := false, lsaAt := some l.fno }
      (List.range 4).foldl (fun (l : Lane) n => if (l.link n).adj then l.fabSend 2 3 (0xFF0 + n) p else l) l

/-! ### Routes (R444) -/

/-- Smaller label: total cost, hops, first hop, own link. -/
def Route.less (a b : Route) : Bool :=
  decide (a.cost < b.cost) || (decide (a.cost = b.cost) && (decide (a.hops < b.hops) || (decide (a.hops = b.hops) &&
    (decide (a.first < b.first) || (decide (a.first = b.first) && decide (a.link < b.link))))))

def better (rs : List Route) (r : Route) : List Route :=
  match rs.find? fun x => x.dst == r.dst with
  | none => rs ++ [r]
  | some x => if r.less x then rs.map fun y => if y.dst = r.dst then r else y else rs

/-- The entry of `x` lists `y`. -/
def lists (db : List LsaEntry) (x y : Nat) : Bool := db.any fun e => e.origin == x && e.adjs.any fun a => a.1 == y

/-- One round of relaxation over the labels of the round before. -/
def relax (own : Nat) (db : List LsaEntry) (old : List Route) : List Route :=
  old.foldl (fun rs u =>
    (db.find? fun e => e.origin == u.dst).elim rs fun e =>
      e.adjs.foldl (fun rs a =>
        if a.1 = own ∨ !lists db a.1 u.dst ∨ 8 ≤ u.hops then rs
        else better rs { dst := a.1, cost := u.cost + a.2.1, hops := u.hops + 1, first := u.first, link := u.link }) rs) old

def routeRounds (own : Nat) (db : List LsaEntry) : Nat → List Route → List Route
  | 0, rs => rs
  | n + 1, rs => routeRounds own db n (relax own db rs)

def insRoute (r : Route) : List Route → List Route
  | [] => [r]
  | x :: l => if r.dst < x.dst then r :: x :: l else x :: insRoute r l

def Lane.computeRoutes (l : Lane) : List Route :=
  let direct := (l.ownAdjs.filter fun a => lists l.fab.db a.1 l.modId).foldl
    (fun rs a => better rs { dst := a.1, cost := a.2.1, hops := 1, first := a.1, link := a.2.2 }) []
  (routeRounds l.modId l.fab.db 7 direct).foldl (fun rs r => insRoute r rs) []

def Lane.routeStep (l : Lane) : Lane :=
  if !l.fab.routesDirty then l
  else
    let rs := l.computeRoutes
    let l := l.irqIf (decide (rs ≠ l.fab.routes)) R.FAB.I_ROUTECHG
    l.setFab fun t => { t with routes := rs, routesDirty := false, routed := true }

/-! ### Time transfer (R446 to R448) -/

def stampAt (b : List Byte) (o : Nat) : Int := (u32At b o : Int) + (u48At b (o + 4) : Int) * 10 ^ 9

/-- The own THOP (R448); of a neighbour that has none, none (DEDUCED, assumption log 120). -/
def Lane.thop (l : Lane) : Nat :=
  let s := l.get R.FRAME.SYNC
  let src := l.get R.FAB.TSRC
  if s ≠ 2 ∧ s ≠ 3 then 0xFF
  else if src = 0 then 0
  else min 0xFF ((l.link (src - 1)).nbrThop + 1)

def Lane.sendTime (l : Lane) (n : Nat) : Lane :=
  let k := l.link n
  let prev := k.sentTime.head?
  let tx := match prev with
    | some (s, some t) => leBytes 8 s ++ stampBytes t
    | some (s, none) => leBytes 8 s ++ List.replicate 12 0
    | none => List.replicate 20 0
  let rx := match k.rxTime with
    | some (s, t) => leBytes 8 s ++ stampBytes t
    | none => List.replicate 20 0
  l.fabSend 3 0 (0xFF0 + n) ([BitVec.ofNat 8 (l.get R.FRAME.SYNC), BitVec.ofNat 8 l.thop, 0, 0] ++ tx ++ rx)

/-- A transmit stamp arrives for the TIME frame `seq`. -/
def Lane.timeStamp (l : Lane) (n : Nat) (seq : Nat) (stamp : Int) : Lane :=
  l.setLink n fun k => { k with sentTime := k.sentTime.map fun e => if e.1 = seq then (e.1, some stamp) else e }

def sat32 (x : Int) : Int := clampI x (-(2 ^ 31)) (2 ^ 31 - 1)

def Lane.takeTime (l : Lane) (n : Nat) (f : FabFrame) (p : List Byte) (rx : Int) : Lane :=
  let k := l.link n
  let sync := u8At p 0
  let hop := u8At p 1
  let t1 := (k.sentTime.find? fun e => e.1 == u64At p 24).bind (·.2)
  let t4 := match k.rxTime with
    | some (s, t) => if s = u64At p 4 then some t else none
    | none => none
  let l := l.setLink n fun k => { k with rxTime := some (f.seq, rx), nbrThop := hop }
  match t1, t4 with
  | some t1, some t4 =>
    let a := t4 - stampAt p 12
    let b := stampAt p 32 - t1
    let th := Int.tdiv (i64 (a - b + l.getI (R.FL.ASYM.inst n))) 2
    let d := Int.tdiv (i64 (a + b)) 2
    let l := ((l.putI (R.FL.TOFS.inst n) (sat32 th)).putI (R.FL.DELAY.inst n) (sat32 d)).put (R.FL.TVALID.inst n) 1
    if l.get R.FAB.TSRC = n + 1 ∧ (sync = 2 ∨ sync = 3) ∧ hop < 8 then l.setFab fun t => { t with sample := some th } else l
  | _, _ => l.put (R.FL.TVALID.inst n) 0

/-! ### Link state (R433, R434) -/

/-- A link status arrival at step 1. -/
def Lane.linkStatus (l : Lane) (n : Nat) (pwr sfp block up : Bool) : Lane :=
  let was := l.linkUp n
  let l := (((l.putB (R.FL.PWR.inst n) pwr).putB (R.FL.SFP.inst n) sfp).putB (R.FL.BLOCK.inst n) block).putB (R.FL.UP.inst n) up
  let l := if up ∧ !was then (l.inc (R.FL.UPCNT.inst n)).irq (R.FL.I_UP.inst n) else l
  if was ∧ !up then ((l.inc (R.FL.DOWNCNT.inst n)).irq (R.FL.I_DOWN.inst n)).setAdj n false else l

/-- SALT loaded at step 2 (R440). -/
def Lane.loadSalt (l : Lane) (v : List Byte) : Lane :=
  (l.setFab fun t => { t with salt := some (sliceB v 0 16), seq := 0, lsaDue := true, lsaAt := none }).put R.FAB.SALTV 1

/-! ### Frames from the fabric (R438 to R441) -/

/-- A frame opened by E1; the content of TYPE 4 to 6 goes to the solve domain. -/
structure FabDelivery where
  lane : Lane
  body : Option (FabFrame × List Byte) := none

/-- E1 takes a frame that arrived on link `n` (none: looped back), with its receive stamp. -/
def Lane.fabFrame (l : Lane) (n : Option Nat) (rx : Int) (b : List Byte) : FabDelivery :=
  let f := readFab b
  let l := match n with
    | some n => l.inc (R.FL.RXFR.inst n)
    | none => l
  let authFail (l : Lane) : Lane := (l.inc R.FAB.AUTHFAIL).irq R.FAB.I_AUTHFAIL
  if !l.enabled 0x3C ∨ !fabShape b ∨ f.typ = 0 ∨ 6 < f.typ then ⟨l, none⟩
  else if l.on R.FAB.NOKEY then ⟨authFail l, none⟩
  else
    let own := f.src == l.modId
    let carried := sliceB f.payload 0 16
    let salt := if f.typ ≤ 2 then some carried
      else if own then l.fab.salt
      else (l.fab.salts.find? fun s => s.1 == f.src).map (·.2)
    match salt with
    | none => ⟨l.inc R.FAB.NOSALT, none⟩
    | some salt =>
      match l.fabOpen f salt with
      | (l, none) => ⟨authFail l, none⟩
      | (l, some p) =>
        if f.typ = 1 ∧ own ∧ some salt ≠ l.fab.salt then
          ⟨(l.irqIf (!l.on R.FAB.DUPID) R.FAB.I_DUPID).put R.FAB.DUPID 1, none⟩
        else match l.fabReplay f.src f.seq salt with
          | none => ⟨l.inc R.FAB.REPLAY, none⟩
          | some l =>
            let l := if f.typ ≤ 2 ∧ !own then
                l.setFab fun t => { t with salts := (t.salts.filter fun s => s.1 != f.src) ++ [(f.src, salt)] }
              else l
            match f.typ, n with
            | 1, some n => ⟨l.takeHello n f p, none⟩
            | 2, _ => ⟨l.takeLsa n f p b, none⟩
            | 3, some n => ⟨l.takeTime n f p rx, none⟩
            | 1, none => ⟨l, none⟩
            | 3, none => ⟨l, none⟩
            | _, _ => ⟨l, some (f, p)⟩

/-! ### Step 7 of E1 (R442, R443, R444, R446) -/

def Lane.fabStep7 (l : Lane) : Lane :=
  if !l.enabled 0x3C then l
  else
    let l := (List.range 4).foldl (fun (l : Lane) n => l.adjTimeout n) l
    let l := l.lsaAgeOut
    let l := if l.fno % 100 = 0 then (List.range 4).foldl (fun (l : Lane) n => if l.linkUp n then l.sendHello n else l) l else l
    let l := l.ownLsa
    let l := if l.fno % 125 = 0 then (List.range 4).foldl (fun (l : Lane) n => if l.linkUp n then l.sendTime n else l) l else l
    l.routeStep

/-! ### FAB and FL pages -/

def Lane.readFab (l : Lane) (off : Nat) : Nat :=
  let own := l.modId
  if off = 0x050 then
    bits (l.reg 0x3C050) 7 0 + (if l.get R.FAB.TSRC ≠ 0 then 2 else 0) % 4 + l.thop * 256
  else if off = 0x054 then l.fab.routes.length * 256 + l.fab.db.length
  else if off = 0x094 then
    let d := l.get R.FAB.RSEL
    if d = own ∧ own ≠ 0 then 2 ^ 31
    else match l.fab.routes.find? fun r => r.dst == d with
      | some r => 2 ^ 31 + r.link * 2 ^ 24 + r.hops * 2 ^ 20 + r.cost
      | none => 0
  else (l.reg (0x3C000 + off)).toNat

/-- SRST of FAB: RSEL and the counts. -/
def Lane.fabReset (l : Lane) : Lane :=
  let keep := [0x040, 0x044, 0x048, 0x04C, 0x050, 0x054, 0x058, 0x05C, 0x060].map fun o => (0x3C000 + o, l.reg (0x3C000 + o))
  keep.foldl (fun (l : Lane) (p : Nat × Word) => l.setReg p.1 p.2) (l.clearPage 0x3C)


/-- Installation of the fabric section (R453). -/
def Lane.installFabric (l : Lane) (c : FabCfg) : Lane :=
  let l := (((l.put R.FAB.MODID c.modid).put R.FAB.LATENCY c.latency).put R.FAB.TSRC c.tsrc).put R.FAB.KSLOT c.kslot
  let l := (l.put R.FAB.KSLOT2 c.kslot2).setFab fun t => { t with linken := .ofNat 4 c.linken }
  (List.range 4).foldl (fun (l : Lane) n =>
    (l.put (R.FL.COST.inst n) (c.cost.getD n 1)).putI (R.FL.ASYM.inst n) (c.asym.getD n 0)) l

end Sys2Proof.Machine
end

