-- ==== Sys2Proof/Machine/Queue.lean ====
section
/-! DEFINITION. The inter-engine queues (19_queues.md): the frame snapshot, visible words, full queues,
stranded tails, orphaned items and flushes. -/

namespace Sys2Proof.Machine

/-- Words of the pool an item holds: its header and the data words not yet freed (R422, R425). -/
def QItem.held (i : QItem) : Nat := 1 + i.words.length - i.taken

/-- Visible words (R426). -/
def QItem.visibleNow (cut : Nat) (i : QItem) : Nat :=
  if !i.isOpen then i.words.length
  else if cut ≠ 0 ∧ cut ≤ i.words.length then i.words.length - 1
  else 0

/-- An item has ended for its reader: closed when the snapshot was taken, every word read. -/
def QItem.done (i : QItem) : Bool := !i.isOpen && decide (i.taken = i.words.length)

/-- One item at a snapshot: a stranded one is closed (R429). -/
def QItem.atSnapshot (rto cut : Nat) (i : QItem) : QItem × Bool :=
  let idle := if i.isOpen ∧ i.words.length = i.snapLen then i.idle + 1 else 0
  let strand := i.isOpen && decide (rto ≤ idle)
  let i := { i with idle := idle, isOpen := i.isOpen && !strand }
  ({ i with snapLen := i.words.length, visible := i.visibleNow cut }, strand)

/-- The snapshot of step 1 (R425). -/
def Queue.snapshot (q : Queue) : Queue × Bool :=
  let r := (q.items.filter fun i => !i.done).map (QItem.atSnapshot q.rto q.cut)
  let strand := r.any (·.2)
  let items := r.map (·.1)
  let held := items.foldl (fun n i => n + i.held) 0
  let free := q.cap - held
  ({ q with
      items := items, held := held, free := free
      full := if 2 ≤ free then false else q.full || decide (free = 0)
      strand := if strand then satAdd 32 q.strand 1 else q.strand
      orphan := q.orphan || (strand && q.wOpen) }, strand)

/-- What a write did, beside the value QPUT puts into BA. -/
inductive PutEvent where
  | none | overrun | trunc
  deriving DecidableEq, Repr

def Queue.openItem (q : Queue) : Option QItem := q.items.find? fun i => i.isOpen
def Queue.mapOpen (q : Queue) (f : QItem → QItem) : Queue :=
  { q with items := q.items.map fun i => if i.isOpen then f i else i }

/-- An ignored write (R428): the open item ends or is discarded, and the writer's item is orphaned. -/
def Queue.ignoreWrite (q : Queue) : Queue × PutEvent :=
  let q := { q with ign := satAdd 32 q.ign 1, full := q.full || decide (q.free = 0), wOpen := true, orphan := true }
  if q.items.any fun i => i.isOpen && decide (0 < i.visible) then
    ({ q.mapOpen (fun i => { i with isOpen := false }) with trunc := satAdd 32 q.trunc 1 }, .trunc)
  else
    ({ q with items := q.items.filter fun i => !i.isOpen, ovr := satAdd 32 q.ovr 1 }, .overrun)

/-- A write of one data word (R422, R428, R430): the queue, BA, and what happened. -/
def Queue.put (q : Queue) (prio : Nat) (w : Dword) : Queue × Bool × PutEvent :=
  if q.wOpen ∧ q.orphan then ({ q with flushw := satAdd 32 q.flushw 1 }, true, .none)
  else if q.wOpen then
    if 1 ≤ q.free then
      let q := q.mapOpen fun i => { i with words := i.words ++ [w] }
      ({ q with free := q.free - 1, full := q.full || decide (q.free = 1) }, true, .none)
    else
      let r := q.ignoreWrite
      (r.1, false, r.2)
  else if 2 ≤ q.free then
    let i : QItem := { prio, words := [w], born := q.nextBorn }
    ({ q with
        items := q.items ++ [i], nextBorn := q.nextBorn + 1, wOpen := true, orphan := false
        free := q.free - 2, full := q.full || decide (q.free = 2) }, true, .none)
  else
    let r := q.ignoreWrite
    (r.1, false, r.2)

/-- QEND, or the end of the writing section (R272, R430). -/
def Queue.close (q : Queue) : Queue :=
  let q := if q.orphan then q else q.mapOpen fun i => { i with isOpen := false }
  { q with wOpen := false, orphan := false }

def QItem.readable (i : QItem) : Bool := decide (i.taken < i.visible)

/-- The better of two items: lower priority number, then the older first word (R427). -/
def QItem.before (a b : QItem) : Bool := decide (a.prio < b.prio) || (decide (a.prio = b.prio) && decide (a.born < b.born))

/-- The item the reader reads from: its current item, or the best with visible words (R427). -/
def Queue.readItem (q : Queue) : Option QItem :=
  match q.cur with
  | some b => (q.items.find? fun i => i.born == b).filter QItem.readable
  | none =>
    (q.items.filter QItem.readable).foldl
      (fun best i => match best with
        | none => some i
        | some b => if i.before b then some i else some b) none

/-- The next visible data word, and whether it ends its item (R427). -/
def Queue.take (q : Queue) : Option (Dword × Bool) × Queue :=
  match q.readItem with
  | none => (none, q)
  | some i =>
    let last := decide (i.taken + 1 = i.words.length) && decide (i.visible = i.words.length)
    (some (i.words.getD i.taken 0, last),
      { q with
          items := q.items.map fun j => if j.born = i.born then { j with taken := j.taken + 1 } else j
          cur := if last then none else some i.born })

/-- The whole item is visible: it was closed at the snapshot. -/
def QItem.whole (i : QItem) : Bool := i.readable && i.visible == i.words.length

/-- Every data word of the best whole item, with the queue after they are taken; one still open stays and holds none back
(R432). -/
def Queue.takeItem (q : Queue) : Option (List Dword) × Queue :=
  match Queue.readItem { q with items := q.items.filter QItem.whole, cur := none } with
  | none => (none, q)
  | some i =>
    (some (i.words.drop i.taken),
      { q with items := q.items.map fun j => if j.born = i.born then { j with taken := j.words.length } else j, cur := none })

/-- Every closed visible item, in the order a reader takes them. -/
def Queue.takeAll : Nat → Queue → List (List Dword) × Queue
  | 0, q => ([], q)
  | n + 1, q => match q.takeItem with
    | (none, q) => ([], q)
    | (some w, q) => let r := Queue.takeAll n q; (w :: r.1, r.2)

/-- A flush (R431): every item goes, the words not yet freed count, the writer's item is orphaned. -/
def Queue.flush (q : Queue) : Queue :=
  { q with
      flushw := satAdd 32 q.flushw (q.items.foldl (fun n i => n + (i.words.length - i.taken)) 0)
      items := [], cur := none, orphan := q.wOpen }

/-- A restart empties the queue (R431) and its counts (19_queues.md, "QMG page"); the attributes stay. -/
def Queue.restart (q : Queue) : Queue := { cap := q.cap, cut := q.cut, rto := q.rto, free := q.cap }

/-- SRST of QMG leaves contents and attributes (19_queues.md, "QMG page"). -/
def Queue.clearCounts (q : Queue) : Queue :=
  { q with ign := 0, ovr := 0, trunc := 0, strand := 0, flushw := 0, ce := 0 }

/-! ### On a lane -/

def Lane.queue (l : Lane) (n : Nat) : Queue := l.queues.getD n {}
def Lane.setQueue (l : Lane) (n : Nat) (q : Queue) : Lane := { l with queues := l.queues.set n q }

/-- Engines that write and read a queue of Table QUE-1; 0xF none. Which of E0 to E2, or E0 to E3, a firmware queue has, the
table does not say. -/
def Lane.queueEnds (l : Lane) (n : Nat) : Nat × Nat :=
  let side := match l.ports.bindings.find? fun b => b.queue == n with
    | some b => b.exe
    | none => 0xF
  if 8 ≤ n ∧ n ≤ 23 then (1, side)
  else if 24 ≤ n ∧ n ≤ 39 then (side, 1)
  else if 40 ≤ n ∧ n ≤ 47 then (4, 5)
  else if 48 ≤ n ∧ n ≤ 55 then (5, 4)
  else
    let k := if n < 8 then 3 else 4
    ((Config.queueMap n).toNat % 16 % k, (Config.queueMap n).toNat / 16 % k)

/-- The snapshots of all queues at step 1 (R425, R429). -/
def Lane.queueSnapshot (l : Lane) : Lane :=
  let r := l.queues.map Queue.snapshot
  let rose := (l.queues.zip r).any fun p => !p.1.full && p.2.1.full
  let l := { l with queues := r.map fun (x : Queue × Bool) => x.1 }
  let l := l.put R.QMG.POOLUSE (l.queues.foldl (fun n (q : Queue) => n + q.held) 0)
  (l.irqIf (r.any (·.2)) R.QMG.I_STRAND).irqIf rose R.QMG.I_FULL

/-- A write by an engine, with the interrupts it raises; BA of QPUT. -/
def Lane.queuePut (l : Lane) (n prio : Nat) (w : Dword) : Lane × Bool :=
  let q := l.queue n
  let r := q.put prio w
  let l := (l.setQueue n r.1).irqIf (!q.full && r.1.full) R.QMG.I_FULL
  let l := match r.2.2 with
    | .none => l
    | .overrun => l.irq R.QMG.I_OVR
    | .trunc => l.irq R.QMG.I_TRUNC
  (l, r.2.1)

def Lane.queueTake (l : Lane) (n : Nat) : Option (Dword × Bool) × Lane :=
  let r := (l.queue n).take
  (r.1, l.setQueue n r.2)

def Lane.queueClose (l : Lane) (n : Nat) : Lane := l.setQueue n (l.queue n).close

/-- One whole item written and closed by E1 (R432). -/
def Lane.queueItem (l : Lane) (n prio : Nat) (ws : List Dword) : Lane :=
  (ws.foldl (fun (l : Lane) w => (l.queuePut n prio w).1) l).queueClose n

/-- A corrected error in a row of the pool (R421). -/
def Lane.poolCorrected (l : Lane) (row : Nat) : Lane :=
  let n := (Config.poolQueue row l.fno).toNat % 64
  ((l.setQueue n { l.queue n with ce := satAdd 32 (l.queue n).ce 1 }).inc R.QMG.CECNT).irq R.QMG.I_CE

/-- FLUSH of a queue; a firmware queue reports 0x3442 (R431). -/
def Lane.flushQueue (l : Lane) (n : Nat) : Lane :=
  if 8 ≤ n ∧ n ≤ 55 then l.setQueue n (l.queue n).flush else l.post 0x3442

/-- FLUSHALL (R431). -/
def Lane.flushAll (l : Lane) : Lane := (List.range 48).foldl (fun (l : Lane) i => l.flushQueue (8 + i)) l

/-- A write of an attribute of the selected queue (R424): the status it reports, 0 where it applies. A CAP of 0 makes the
queue full at once; any other counts from the next snapshot, which fixes the free space (R425). -/
def Lane.writeCap (l : Lane) (n v : Nat) : Lane × Nat :=
  if n < 8 ∨ 56 ≤ n then (l.post 0x3442, 0x3442)
  else if v = 1 ∨ 16384 < v then (l.post 0x3409, 0x3409)
  else if 49152 < ((l.queues.drop 8).take 48).foldl (fun s q => s + q.cap) 0 - (l.queue n).cap + v then
    (l.post 0x3440, 0x3440)
  else if (l.queue n).held ≠ 0 ∨ (l.queue n).items ≠ [] then (l.post 0x3441, 0x3441)
  else
    let q := l.queue n
    if v = 0 then ((l.setQueue n { q with cap := 0, free := 0, full := true }).irqIf (!q.full) R.QMG.I_FULL, 0)
    else (l.setQueue n { q with cap := v }, 0)

def Lane.writeRtoCut (l : Lane) (n rto cut : Nat) : Lane × Nat :=
  if n < 8 ∨ 56 ≤ n then (l.post 0x3442, 0x3442)
  else if rto = 0 ∨ cut = 1 ∨ 4096 < cut then (l.post 0x3409, 0x3409)
  else (l.setQueue n { l.queue n with rto := rto, cut := cut }, 0)

end Sys2Proof.Machine
end

