-- ==== Sys2Proof/Machine/Assay.lean ====
section
/-! DEFINITION. Assay self-test (18_assay.md): units, the background pass, targeted sets, commands, reports,
repair maps and the ASY page. -/

namespace Sys2Proof.Machine

def Lane.setAsy (l : Lane) (f : Assay → Assay) : Lane := { l with asy := f l.asy }

/-! ### Units (Tables ASY-1 and ASY-3) -/

/-- Background slices of a unit; 0 where UNIT names none. -/
def unitSlices (u : Nat) : Nat :=
  if u ≤ 0x07 then 64
  else if u ≤ 0x0F then (if u = 0x0C ∨ u = 0x0D then 3072 else 512)
  else [512, 917504, 128, 8192, 16, 32, 32].getD (u - 0x10) 0

/-- Slices of a unit's targeted set. -/
def unitTargeted (u : Nat) : Nat :=
  if u ≤ 0x07 then 4
  else if u ≤ 0x0F then (if u = 0x0C ∨ u = 0x0D then 6 else 1)
  else [1, 1, 4, 4, 2, 0, 2].getD (u - 0x10) 0

def unitOk (u : Nat) : Bool := decide (u ≤ 0x16)

/-- Bytes of a memory unit; 0 for logic. -/
def unitBytes (u : Nat) : Nat :=
  if u = 0x11 then 917504 * 4096
  else if (0x08 ≤ u ∧ u ≤ 0x10) ∨ u = 0x13 then unitSlices u * 1024 else 0

def arraySpares (a : Nat) : Nat := if a = 4 ∨ a = 5 then 32 else if a ≤ 8 then 8 else 48
def arrayRow (a : Nat) : Nat := if a = 10 then 4096 else 1024
/-- Array of a memory unit. -/
def unitArray (u : Nat) : Nat := if u ≤ 0x0F then u - 0x08 else if u = 0x10 then 8 else if u = 0x13 then 9 else 10

def Assay.map (a : Assay) (x : LaneId) (arr : Nat) : List Nat := a.maps.getD ((if x = .a then 0 else 11) + arr) []
/-- SPAREX of a lane: an array has used all its spares (R412). -/
def Assay.sparex (a : Assay) (x : LaneId) : Bool := (List.range 11).any fun i => decide (arraySpares i ≤ (a.map x i).length)

/-! ### Background pass (R409) -/

/-- The slice after the one at (unit, segment); the pass starts again after the last unit. -/
def nextSlice (u seg : Nat) : Nat × Nat × Bool :=
  if seg + 1 < unitSlices u then (u, seg + 1, false)
  else if u < 0x16 then (u + 1, 0, false)
  else (0, 0, true)

def Lane.bgSlices : Nat → Lane → Lane
  | 0, l => l
  | n + 1, l =>
    let r := nextSlice l.asy.unit l.asy.seg
    let l := (l.setAsy fun a => { a with unit := r.1, seg := r.2.1 }).put R.ASY.BGSLICE ((l.get R.ASY.BGSLICE + 1) % 2 ^ 32)
    let l := if r.2.2 then (l.put R.ASY.BGPASS ((l.get R.ASY.BGPASS + 1) % 2 ^ 32)).irq R.ASY.I_PASS else l
    l.bgSlices n

/-- Slices of 50 µs that fit from `t` µs of a frame to +40 µs of the next (R409). -/
def slicesFrom (t : Nat) : Nat := (1040 - t) / 50

/-- The window of the frame that orders a targeted test begins with the command at +700 µs (R417). -/
def firstWindow : Nat := slicesFrom 700

/-- Row retests due (R410). -/
def Lane.retests (l : Lane) (room : Nat) : Lane × Nat :=
  let n := min room l.asy.retest.length
  (l.setAsy fun a => { a with retest := a.retest.drop n }, room - n)

/-- The slices of a targeted set that fit. -/
def Lane.targetedSlices (l : Lane) (room : Nat) : Lane × Nat :=
  match l.asy.targeted with
  | some t => (l.setAsy fun a => { a with targeted := some { t with left := t.left - room } }, room - t.left)
  | none => (l, room)

/-- The Assay window of a frame in which the lane delivered its output frame `margin` µs before +600 µs (R409): a targeted
set, row retests, a kind-1 command and background slices, the last two only while no targeted set stands (R420). -/
def Lane.assayWindow (l : Lane) (margin : Nat) : Lane :=
  let (l, room) := l.targetedSlices (slicesFrom (600 - margin))
  if !l.enabled 0x2D then l
  else
    let (l, room) := l.retests room
    if l.asy.targeted.isSome then l
    else
      let mine (x : Nat) : Bool := if l.id = .a then x % 2 == 1 else x / 2 % 2 == 1
      let (l, room) := match l.asy.cmd with
        | some (1, u, ln, left) =>
          if mine ln then (l.setAsy fun a => { a with cmd := some (1, u, ln, left - min room left) }, room - min room left) else (l, room)
        | _ => (l, room)
      if l.on R.ASY.BGEN then l.bgSlices (min room (l.get R.ASY.BGRATE)) else l

/-! ### Corrected errors (R410) -/

/-- An engine that is halted or stopped does no work (01_architecture.md R39, 17_security.md R405). -/
def Lane.engineRuns (l : Lane) (n : Nat) : Bool := decide (l.get (R.ENG.STATE.inst n) = 1)

/-- A running engine stops with STATE `st` and TRAPC `code`, which is a lane fault. -/
def Lane.engineStops (l : Lane) (eng st code : Nat) : Lane :=
  if 8 ≤ eng ∨ !l.engineRuns eng then l
  else
    let l := (l.put (R.ENG.STATE.inst eng) st).put (R.ENG.TRAPC.inst eng) code
    let l := (l.put (R.ENG.TRAPFNO.inst eng) (l.fno % 2 ^ 32)).irq (R.ENG.I_TRAP.inst eng)
    { l with laneflt := true }

/-- Arrays 0 to 7 are the local SRAMs of the engines: SRAMCE counts and CE is set (01_architecture.md Table ARC-7). -/
def Lane.sramCorrected (l : Lane) (arr : Nat) : Lane :=
  if arr < 8 then (l.inc (R.ENG.SRAMCE.inst arr)).irq (R.ENG.I_CE.inst arr) else l

/-- ECC corrected an error in a row of an array: at the third within 86 400 000 frames the row is retested. -/
def Lane.correctedError (l : Lane) (arr row : Nat) : Lane :=
  let old := match l.asy.errs.find? fun e => e.1 == arr && e.2.1 == row with
    | some e => e.2.2
    | none => []
  let now := (l.fno :: old).filter fun f => decide (l.fno < f + 86400000)
  let hit := decide (3 ≤ now.length)
  let rest := l.asy.errs.filter fun e => !(e.1 == arr && e.2.1 == row)
  let l := (l.setAsy fun a => { a with
    errs := if hit then rest else (arr, row, now) :: rest
    retest := if hit then a.retest ++ [(arr, row)] else a.retest }).inc R.ASY.CECNT
  if arr = 8 then l.poolCorrected row else l.sramCorrected arr

/-- What ECC or a slice found: a restore whose CRC-32C fails and an uncorrectable error are lane faults (R19, R408). -/
def Lane.takeFinding (l : Lane) (f : Finding) : Lane := match f with
  | .corrected arr row => if arr ≤ 10 then l.correctedError arr row else l
  | .uncorrectable | .restoreBad => { l with laneflt := true }

/-- A failing row of this lane's array is mapped onto its next free spare, whose retest is due in the next window (R411,
R412). -/
def Lane.ownRepair (l : Lane) (arr row : Nat) : Lane :=
  let rows := l.asy.own.getD arr []
  if 10 < arr ∨ arraySpares arr ≤ rows.length then l
  else l.setAsy fun a => { a with own := a.own.set arr (rows ++ [row]), retest := a.retest ++ [(arr, row)] }

/-- The start-up test's result as ASY.SURES gives it: 1 pass, 2 pass with repair, 3 fail. It fails where a part fails, an image
of part 5 does not compare, or a failing row has no spare (R415). -/
def Lane.startTest (l : Lane) (e : StartTest) : Lane × Nat :=
  let fits (a : Nat) : Bool := decide (a ≤ 10) &&
    decide ((l.asy.own.getD a []).length + (e.repairs.countP fun r => r.1 == a) ≤ arraySpares a)
  if e.failed.isSome ∨ (e.images.any fun i => i.1 != i.2) ∨ !e.repairs.all (fun r => fits r.1) then (l, 3)
  else
    let l := e.repairs.foldl (fun (l : Lane) r => l.ownRepair r.1 r.2) l
    (l.setAsy fun a => { a with retest := [] }, if e.repairs = [] then 1 else 2)

/-! ### Targeted sets (R417, Table TST-6) -/

/-- Engine unit and its SRAM. -/
def engineUnits (e : Nat) : List Nat := [e, 8 + e]

/-- Units of a targeted test for a differing entry of class `cls`, `eng` being the engine the table names by
content; the interconnect and the lane-memory page belong to every set. -/
def targetUnits (cls eng : Nat) : List Nat :=
  let own := match cls with
    | 1 => engineUnits 0 ++ engineUnits eng
    | 2 => engineUnits 2
    | 3 => [1, eng, 0x10]
    | 4 => engineUnits 3 ++ [0x12, 0x13, 0x14, 1]
    | _ => [0, eng]
  (own ++ [0x11, 0x16]).eraseDups

def targetSlices (cls eng : Nat) : Nat := ((targetUnits cls eng).map unitTargeted).sum

/-- The engine that the configuration makes the writer of the differing entry; `out` is the differing plant output, DO n as
n and AO n as 16 + n, whose process image words are 0x20 and 0x28 + n (Table PRG-5). -/
def Lane.writerOf (l : Lane) (cls dest out : Nat) : Nat :=
  if cls = 1 then
    let loop := l.loops.find? fun p => p.2.cfg.kind != 0 &&
      (if out < 16 then p.2.cfg.dest == 3 && p.2.cfg.daddr == out else p.2.cfg.dest == 1 && p.2.cfg.daddr + 16 == out)
    let word := if out < 16 then 0x20 else 0x18 + out
    (match loop with
      | some p => 6 + min 1 (p.1 / 256)
      | none =>
        let t := l.prg.tasks.find? fun t => t.cfg.outR.any fun r => decide (r.base ≤ word ∧ word < r.base + r.count)
        match t with
        | some t => t.cfg.exe
        | none => 0)
  else if cls = 3 then
    (match l.ports.bindings.find? fun b => b.src == dest && decide (24 ≤ b.queue) with
      | some b => b.exe
      | none => 1)
  else if dest = 1 then 2 else 0

/-- The set begins with the command, in the rest of this frame's window (R417). -/
def Lane.startTargeted (l : Lane) (cls dest out : Nat) : Lane :=
  (l.setAsy fun a => { a with targeted := some { start := l.fno, left := targetSlices cls (l.writerOf cls dest out) - firstWindow } }).inc R.ASY.TTCNT

/-- A failure of the targeted set, told with TTDONE. -/
def Lane.noteTargeted (l : Lane) (bad : Bool) : Lane :=
  l.setAsy fun a => { a with targeted := a.targeted.map fun (t : Targeted) => { t with failed := t.failed || bad } }

/-! ### Commands (R418 to R420) -/

/-- A command that runs or ended: its status. -/
def Lane.asyStat (l : Lane) (code : Nat) : Lane × Nat := (l.put R.ASY.CSTAT code, code)

/-- ASY.CMD at step 2: UNIT, TLANE and KIND of the write. Codes of a unit without memory and of an address off a double
word are readings (DEDUCED, assumption log 119). -/
def Lane.asyCommand (l : Lane) (kind unit tlane : Nat) : Lane × Nat :=
  let lc := l.lifeCycle
  let permitted := if kind = 1 then lc ≤ 3 else if kind = 2 then lc = 2 ∨ lc = 3 else lc = 0 ∨ lc = 3
  let standby := if tlane = 1 then l.get R.TST.ROLEA = 2 else tlane = 2 ∧ l.get R.TST.ROLEB = 2
  let mine : Bool := if l.id = .a then tlane % 2 == 1 else tlane / 2 % 2 == 1
  if !l.enabled 0x2D then (l, 0x2D07)
  else if l.asy.cmd.isSome then l.asyStat 0x2D08
  else if !permitted then l.asyStat 0x2D0D
  else if !unitOk unit ∨ (kind = 2 ∧ unit ≠ 0) ∨ (kind = 3 ∧ unitBytes unit = 0) then l.asyStat 0x2D41
  else if kind = 2 ∧ !(l.compared ∧ standby) ∨ l.mode = 5 then l.asyStat 0x2D40
  else if kind = 3 ∧ (unitBytes unit ≤ l.get R.ASY.INJADDR ∨ l.get R.ASY.INJADDR % 8 ≠ 0) then l.asyStat 0x2D42
  else
    let l := (l.asyStat 0).1
    let l := ((l.put R.ASY.CBUSY 1).put R.ASY.RESA 0).put R.ASY.RESB 0
    let l := l.setAsy fun a => { a with
      cmd := some (kind, unit, tlane, if kind = 1 then unitSlices unit else 0)
      kind2 := if kind = 2 then some (l.fno, if tlane = 1 then .a else .b) else none }
    if kind = 3 ∧ mine then
      if l.on R.ASY.DOUBLE then (Lane.engineStops { l with laneflt := true } (unitArray unit) 3 3, 0)
      else (l.correctedError (unitArray unit) (l.get R.ASY.INJADDR / arrayRow (unitArray unit)), 0)
    else (l, 0)

/-- The running command ends. -/
def Lane.asyEnd (l : Lane) : Lane := (l.setAsy fun a => { a with cmd := none, kind2 := none }).put R.ASY.CBUSY 0

/-- A running command ends with result aborted on the lanes it names. -/
def Lane.asyAbort (l : Lane) : Lane :=
  match l.asy.cmd with
  | none => l
  | some (_, _, ln, _) =>
    let l := if ln % 2 = 1 then l.put R.ASY.RESA 3 else l
    let l := if ln / 2 % 2 = 1 then l.put R.ASY.RESB 3 else l
    l.asyEnd

/-- At step 1: a lane reset, which the verdict's roles show, ends a running command (R420). -/
def Lane.asyRoles (l : Lane) (rst : Bool) : Lane := if rst then l.asyAbort else l

/-- What a module restart leaves of a running command: the result aborted (R420). -/
def Lane.asyAborted (l old : Lane) : Lane :=
  if old.asy.cmd.isNone then l
  else (l.put R.ASY.RESA (old.asyAbort.get R.ASY.RESA)).put R.ASY.RESB (old.asyAbort.get R.ASY.RESB)

/-- At step 1 the verdict of frame k + 1 shows whether a kind 2 command was carried out (R419). -/
def Lane.kind2Step1 (l : Lane) : Lane :=
  match l.asy.kind2 with
  | some (k, x) =>
    if l.get R.TST.VFNO ≠ (k + 1) % 2 ^ 32 then l
    else
      let l := l.setAsy fun a => { a with kind2 := none }
      let role := if x = .a then l.get R.TST.ROLEA else l.get R.TST.ROLEB
      if l.get R.TST.CMP = 0 ∧ role = 5 then l else ((l.asyStat 0x2D43).1.post 0x2D43).asyEnd
  | none => l

/-! ### Reports (R414) -/

/-- The repair map record of an array (R413). -/
def repairRecord (arr : Nat) (rows : List Nat) : List Byte :=
  leBytes 2 rows.length ++ leBytes 2 (arraySpares arr) ++ leBytes 4 0 ++ rows.flatMap (leBytes 4)

def readRepair (b : List Byte) : List Nat := (List.range (u16At b 0)).map fun u => u32At b (8 + 4 * u)

/-- A report at step 2. A repair takes the next free spare (R412). -/
def Lane.assayReport (l : Lane) (r : AssayReport) : Lane :=
  match r.typ with
  | 1 =>
    if 10 < r.array then l
    else
      let k := (if r.lane = .a then 0 else 11) + r.array
      let row := r.addr / arrayRow r.array
      let rows := l.asy.map r.lane r.array
      let rows := if rows.length < arraySpares r.array then rows ++ [row] else rows
      let old := l.asy.sparex r.lane
      let l := l.setAsy fun a => { a with maps := a.maps.set k rows }
      let l := (l.nvPut 6 ((if r.lane = .a then 0 else 16) + r.array) (repairRecord r.array rows)).inc R.ASY.REPCNT
      (l.irq R.ASY.I_REPAIR).irqIf (l.asy.sparex r.lane && !old) R.ASY.I_SPAREX
  | 2 =>
    let l := ((l.put R.ASY.FUNIT r.unit).putB R.ASY.FLANE (r.lane == .b)).put R.ASY.FBIT (if r.bit = 0xFF then 0x7F else r.bit)
    ((l.put R.ASY.FADDR r.addr).put R.ASY.FFNO r.fno).irq R.ASY.I_FAIL
  | 3 =>
    let l := (l.put (if r.lane = .a then R.ASY.RESA else R.ASY.RESB) r.res).irq R.ASY.I_CMDDONE
    (match l.asy.cmd with
      | some (k, u, ln, n) =>
        let ln' := if r.lane = .a then ln / 2 * 2 else ln % 2
        if ln' = 0 then l.asyEnd else l.setAsy fun a => { a with cmd := some (k, u, ln', n) }
      | none => l)
  | _ => l

/-! ### Restarts, SRST and the ASY page (R420) -/

def Lane.showSparex (l : Lane) : Lane := (l.putB R.ASY.SPAREXA (l.asy.sparex .a)).putB R.ASY.SPAREXB (l.asy.sparex .b)

/-- SRST of ASY: a running command ends aborted, the background pass starts again. -/
def Lane.asyReset (l : Lane) : Lane :=
  let run := l.asy.cmd.isSome
  let l := l.asyAbort
  let res := l.reg R.ASY.CSTAT.key
  let sures := l.reg R.ASY.SURESA.key
  let l := (l.clearPage 0x2D).setAsy fun a => { a with unit := 0, seg := 0 }
  (((l.setReg R.ASY.CSTAT.key res).setReg R.ASY.SURESA.key sures).showSparex).postIf run 0x2D0B

/-- Every restart: the maps stay. -/
def Assay.restarted (a : Assay) : Assay := { maps := a.maps, own := a.own }

def Lane.readAsy (l : Lane) (off : Nat) : Nat :=
  if off = 0x044 then (l.reg 0x2D044).toNat / 8 * 8
  else if off = 0x064 then
    let arr := l.get R.ASY.ARRAY
    arraySpares arr * 256 + (l.asy.map (if l.on R.ASY.ALANE then .b else .a) arr).length
  else if off = 0x068 then (if l.asy.sparex .b then 2 else 0) + (if l.asy.sparex .a then 1 else 0)
  else if off = 0x080 then l.asy.unit * 2 ^ 24 + l.asy.seg
  else (l.reg (0x2D000 + off)).toNat

end Sys2Proof.Machine
end

