-- ==== Sys2Proof/Machine/Met.lean ====
section
/-! DEFINITION. Electrical metering (12_electrical_metering.md): calibration and bands, crossings and
cycles, energy registers, published quantities, harmonics and detectors. -/

namespace Sys2Proof.Machine

/-- Samples `a` to `b` − 1. -/
def seg {α : Type} (a b : Nat) (l : List α) : List α := (l.drop a).take (b - a)
def sumI (l : List Int) : Int := l.foldl (· + ·) 0
def sumSq (l : List Int) : Nat := l.foldl (fun n x => n + (x * x).toNat) 0
def isqrt (n : Nat) : Nat := Nat.sqrt n

/-! ### Bands and calibration (R281 to R284) -/

/-- The band of a temperature without hysteresis (R282). -/
def Calib.bandOf (k : Calib) (t : Int) : Nat := (k.theta.filter fun th => decide (th ≤ t)).length
def Calib.th (k : Calib) (b : Nat) : Int := k.theta.getD (b - 1) 0

/-- FEBAND moves up, then down, with 0.5 K of hysteresis (R282). -/
def Calib.bandUp (k : Calib) (t : Int) : Nat → Nat → Nat
  | 0, b => b
  | n + 1, b => if b < 7 ∧ k.th (b + 1) + 8 ≤ t then k.bandUp t n (b + 1) else b
def Calib.bandDown (k : Calib) (t : Int) : Nat → Nat → Nat
  | 0, b => b
  | n + 1, b => if 0 < b ∧ t < k.th b - 8 then k.bandDown t n (b - 1) else b
def Calib.bandMove (k : Calib) (t : Int) (b : Nat) : Nat := k.bandDown t 7 (k.bandUp t 7 b)

/-- Acceptance of the factory ledger (R281). -/
def Calib.ok (k : Calib) : Bool :=
  k.gain.all (fun g => decide (905969664 ≤ g) && decide (g ≤ 1107296256))
    && k.dly.all (fun d => decide (d ≤ 32767))
    && decide (k.theta.length = 7)
    && (List.zipWith (fun (a b : Int) => decide (a < b)) k.theta (k.theta.drop 1)).all id

/-- Calibrated samples of channel `c` (R284): band `b0` before sample `js`, `b1` from it. -/
def calRun (k : Calib) (c js b0 b1 : Nat) : Nat → List Int → Option Int → List Int × Option Int
  | _, [], yp => ([], yp)
  | j, r :: rs, yp =>
    let b := if j < js then b0 else b1
    let y := (r * (k.gain.getD (8 * c + b) 0 : Int) + 2 ^ 27) / 2 ^ 28
    let x := y - ((k.dly.getD (8 * c + b) 0 : Int) * (y - yp.getD y) + 2 ^ 15) / 2 ^ 16
    let t := calRun k c js b0 b1 (j + 1) rs (some y)
    (x :: t.1, t.2)

/-! ### Crossings (R285) -/

/-- The first positive zero crossing at or after sample `j`, with its time in 2⁻¹⁶ ns. -/
def findCross (since : Option Nat) (flen : Nat) : Nat → Option Int → List Int → Option (Nat × Int)
  | _, _, [] => none
  | j, p, x :: xs =>
    match p with
    | some p =>
      if p < 0 ∧ 0 ≤ x ∧ (since.map fun n => decide (320 ≤ n + j)).getD true then
        some (j, Int.tdiv ((((j : Int) - 1) * 65536 + Int.tdiv (65536 * (-p)) (x - p)) * flen) 32)
      else findCross since flen (j + 1) (some x) xs
    | none => findCross since flen (j + 1) (some x) xs

/-- A voltage channel after a window. -/
def MetChan.advance (c : MetChan) (xs : List Int) (y : Option Int) (flen : Nat) : MetChan :=
  let cr := findCross c.since flen 0 c.lastX xs
  { lastY := y
    lastX := xs.getLast?
    hist := (xs.reverse ++ c.hist).take 256
    since := match cr with
      | some (j, _) => some (32 - j)
      | none => c.since.map (· + 32)
    tc := match cr with
      | some (_, t) => some t
      | none => c.tc }

def ms13 : Int := 13000000 * 65536
def ms25 : Int := 25000000 * 65536
/-- P where no cycle has closed (R287). -/
def nominalP (nomf : Nat) : Nat := if nomf = 0 then 1310720000000 else 1092266666666

/-- v90 of a window (R287): `h` holds the samples before it, newest first. -/
def quarterDelay (h xs : List Int) (p flen : Nat) : List Int :=
  let d := p * 8 / flen
  let n := d / 65536
  let f : Int := (d % 65536 : Nat)
  let at_ (j : Nat) (back : Nat) : Int := if back ≤ j then xs.getD (j - back) 0 else h.getD (back - j - 1) 0
  (List.range xs.length).map fun j =>
    let a := at_ j n
    a - (f * (a - at_ j (n + 1)) + 2 ^ 15) / 2 ^ 16

/-! ### One group in one window -/

/-- Elements of a wiring: voltage channel and current (Table MET-3). -/
def elements (wiring : Nat) : List Nat := if wiring = 0 then [0, 1, 2] else if wiring = 1 then [0, 2] else [0]

/-- A cycle close in a window: sample it lies before, samples of the cycle, Σv², and whether a crossing
closed it. -/
structure CycleClose where
  pos : Nat
  crossing : Bool

/-- What the points of a group need of its window. -/
structure GrpWin where
  js : Nat
  b0 : Nat
  b1 : Nat
  xs : List (List Int)
  v90 : List (List Int)
  /-- reference crossing found in the window -/
  cross : Option Nat
  close : Option CycleClose

def GrpAcc.add (a : GrpAcc) (xs : List (List Int)) (i j : Nat) : GrpAcc :=
  { n := a.n + (j - i), v2 := List.zipWith (fun s x => s + sumSq (seg i j x)) a.v2 xs }

def von (nomv : Nat) : Nat := nomv * 65536 * 17 / 1000
def voff (nomv : Nat) : Nat := nomv * 65536 * 14 / 1000

/-- Sets a group flag with its event where it rises. -/
def Lane.riseFlag (l : Lane) (f : Fld) (b : Bool) (ev : Fld) : Lane := (l.irqIf (b && !l.on f) ev).putB f b

/-- |a − t°| ≤ 30° for an angle `a`/`p` of a circle, by integers; distances are taken on the circle. -/
def within30 (a p : Int) (t : Nat) : Bool :=
  let d := (a * 360 - t * p) % (360 * p)
  decide (d ≤ 30 * p) || decide (360 * p - d ≤ 30 * p)

/-- The detectors of a group at a cycle close (R294, Table MET-6). -/
def Lane.groupDetect (l : Lane) (g : Nat) (acc : GrpAcc) (crossing : Bool) : Lane :=
  let cfg := l.met.groupCfg.getD g {}
  let st := l.met.groups.getD g {}
  let u := acc.v2.map fun s => isqrt (s / acc.n)
  let fl (f : Fld) : Fld := f.idx g
  let was := l.get (fl R.MET.PHMISS)
  let phases := if cfg.wiring = 2 then [] else elements cfg.wiring
  let miss := phases.foldl (fun m c =>
    let uc := u.getD c 0
    let old := was.testBit c
    let new := if uc < voff cfg.nomv then true else if von cfg.nomv ≤ uc then false else old
    if new then m + 2 ^ c else m) 0
  let l := l.put (fl R.MET.PHMISS) miss
  let present := decide (cfg.wiring ≠ 2) && decide (miss = 0)
  -- phase sequence
  let tc (c : Nat) : Option Int := (l.met.chans.getD (4 * g + c) {}).tc
  let ang := if crossing && present then
      (match tc 0, tc (if cfg.wiring = 0 then 1 else 2), st.period with
        | some a, some b, some p => some ((b - a) % (p : Int), (p : Int))
        | _, _, _ => none)
    else none
  let bad := if cfg.wiring = 0 then 240 else 60
  let good := if cfg.wiring = 0 then 120 else 300
  let sq := match ang with
    | some (a, p) => if within30 a p bad then (st.seqBad + 1, 0) else if within30 a p good then (0, st.seqGood + 1) else (0, 0)
    | none => if present then (st.seqBad, st.seqGood) else (0, 0)
  let ph := if 10 ≤ sq.1 then true else if 10 ≤ sq.2 then false else l.on (fl R.MET.PHSEQ)
  let l := l.riseFlag (fl R.MET.PHSEQ) ph R.MET.I_PHSEQ
  -- neutral
  let un := u.getD 3 0
  let nl := if cfg.wiring ≠ 0 ∨ !present then (0, 0)
    else if cfg.nomv * 65536 * cfg.nlthr < un * 1000 then (st.nlBad + 1, 0)
    else if un * 1000 < cfg.nomv * 65536 * (cfg.nlthr - 2) then (0, st.nlGood + 1)
    else (0, 0)
  let lost := if cfg.wiring ≠ 0 ∨ !present then false
    else if 10 ≤ nl.1 then true else if 10 ≤ nl.2 then false else l.on (fl R.MET.NLOST)
  let l := l.riseFlag (fl R.MET.NLOST) lost R.MET.I_NLOST
  -- frequency
  let l := if crossing then
      l.riseFlag (fl R.MET.FREQF) (decide (st.fmhz < 45000) || decide (65000 < st.fmhz)) R.MET.I_FREQ
    else l
  -- overrange of the voltage channels
  let l := l.irqIf (decide (st.ovrSeen &&& (15 - st.ovr) ≠ 0)) R.MET.I_OVR
  let st := { st with seqBad := sq.1, seqGood := sq.2, nlBad := nl.1, nlGood := nl.2, ovr := st.ovrSeen }
  { l with met := { l.met with groups := l.met.groups.set g st } }

/-- The group pass of a window of frame `wno` (R283, R285 to R287). -/
def Lane.metGroup (l : Lane) (w : MetWindow) (wno flen flenNow : Nat) (g : Nat) : Lane × GrpWin :=
  let m := l.met
  let cfg := m.groupCfg.getD g {}
  let st := m.groups.getD g {}
  let ch (c : Nat) : MetChan := m.chans.getD (4 * g + c) {}
  let raw (c : Nat) : List Int := w.samples.getD (4 * g + c) []
  let b0 := (l.get R.MET.BANDG) / 16 ^ g % 16
  let vp0 := l.on (R.MET.VPRES.idx g)
  let find (b : Nat) : Option (Nat × Int) :=
    let xs := (calRun m.calib (4 * g) 0 b b 0 (raw 0) (ch 0).lastY).1
    findCross (ch 0).since flen 0 (ch 0).lastX xs
  let sw : Option (Nat × Nat) := match st.pendBand with
    | none => none
    | some b => if !vp0 then some (0, b) else (find b0).map fun c => (c.1, b)
  let js := (sw.map (·.1)).getD 32
  let b1 := (sw.map (·.2)).getD b0
  let l := if sw.isSome then
      (l.put R.MET.BANDG (l.get R.MET.BANDG - b0 * 16 ^ g + b1 * 16 ^ g)).irq R.MET.I_BANDCHG
    else l
  let st := if sw.isSome then { st with pendBand := none } else st
  let cal := (List.range 4).map fun c => calRun m.calib (4 * g + c) js b0 b1 0 (raw c) (ch c).lastY
  let xs := cal.map (·.1)
  let ref := xs.getD 0 []
  -- the crossing that switches the band is the one the old band found
  let cr := if js < 32 ∧ vp0 then find b0 else findCross (ch 0).since flen 0 (ch 0).lastX ref
  let p := st.period.getD (nominalP cfg.nomf)
  let v90 := (List.range 3).map fun c => quarterDelay (ch c).hist (xs.getD c []) p flen
  let adv := (List.range 4).map fun c =>
    let a := (ch c).advance (xs.getD c []) (cal.getD c ([], none)).2 flen
    if c = 0 then
      { a with
          since := match cr with
            | some (j, _) => some (32 - j)
            | none => (ch 0).since.map (· + 32)
          tc := match cr with
            | some (_, t) => some t
            | none => (ch 0).tc }
    else if c = 3 then { a with hist := [] } else a
  let peaks := ((ref.foldl (fun a x => max a x.natAbs) 0) :: st.peaks).take 20
  let pk := peaks.foldl max 0
  let vp := if von cfg.nomv ≤ pk then true else if pk < voff cfg.nomv then false else vp0
  let l := (l.irqIf (vp != vp0) R.MET.I_VPRES).putB (R.MET.VPRES.idx g) vp
  -- closes
  let per : Option Nat := match cr, (ch 0).tc with
    | some (_, t), some t0 => if ms13 ≤ t - t0 ∧ t - t0 ≤ ms25 then some (t - t0).toNat else none
    | _, _ => none
  let closeX := vp && per.isSome
  let since := if !vp then 0 else if closeX then 0 else st.sinceClose + 1
  let closeW := (!vp || decide (25 ≤ since)) && decide (wno % 20 = 19)
  let j := (cr.map (·.1)).getD 32
  let ovr := st.ovrSeen ||| (w.ovrmap.toNat / 2 ^ (4 * g) % 16)
  let st := { st with
    peaks := peaks, sinceClose := since, ovrSeen := ovr
    period := if closeX then per else st.period
    fmhz := if closeX then 65536 * 10 ^ 12 / per.getD 1 else st.fmhz }
  let accClose : GrpAcc := if closeX then st.accX.add xs 0 j else st.accW.add xs 0 32
  let accX := if cr.isSome then GrpAcc.add {} xs j 32 else st.accX.add xs 0 32
  let accW := if closeX then GrpAcc.add {} xs j 32 else if closeW then {} else st.accW.add xs 0 32
  let st := { st with accX := accX, accW := accW }
  let l := { l with met := { l.met with
    groups := l.met.groups.set g st
    chans := l.met.chans.mapIdx fun i c => if 4 * g ≤ i ∧ i < 4 * g + 4 then adv.getD (i - 4 * g) c else c } }
  let l := if closeX then ((l.put (R.MET.FREQ.idx g) (st.fmhz / 10)).put (R.MET.CYCW.idx g) 0)
    else if closeW then l.put (R.MET.CYCW.idx g) 1 else l
  let l := if vp && decide (25 ≤ since) then l.riseFlag (R.MET.FREQF.idx g) true R.MET.I_FREQ else l
  let l := if (closeX || closeW) && decide (0 < accClose.n) then
      let l := l.groupDetect g accClose closeX
      let s := l.met.groups.getD g {}
      let again := w.ovrmap.toNat / 2 ^ (4 * g) % 16
      { l with met := { l.met with groups := l.met.groups.set g { s with ovrSeen := if closeX ∧ j < 32 then again else 0 } } }
    else l
  -- phase at the start of the next frame (R286)
  let s := l.met.groups.getD g {}
  let last := (adv.getD 0 {}).tc
  let span : Int := 65536 * (flen + flenNow : Nat)
  let ph := match last, s.period with
    | some t, some p =>
      (((span - t) * 2 ^ 32 / (p : Int)) % 2 ^ 32,
        vp && decide (45000 ≤ s.fmhz) && decide (s.fmhz ≤ 65000) && decide (span - t < 2 * (p : Int)))
    | _, _ => ((s.ph32 : Int), false)
  let s := { s with ph32 := ph.1.toNat, ph32v := ph.2 }
  let red : Int := 65536 * flen
  let l := { l with met := { l.met with
    groups := l.met.groups.set g s
    chans := l.met.chans.mapIdx fun i c =>
      if 4 * g ≤ i ∧ i < 4 * g + 4 then { c with tc := c.tc.map (· - red) } else c } }
  let close := if closeX then some ⟨j, true⟩ else if closeW then some ⟨32, false⟩ else none
  (l, { js, b0, b1, xs, v90, cross := cr.map (·.1), close })

/-! ### One measurement point in one window -/

def MpCfg.kn (c : MpCfg) : Nat := c.vtn * c.ctn
def MpCfg.kd (c : MpCfg) : Nat := c.vtd * c.ctd
def ukBase : Nat := 7916483719987200000000

/-- The accumulation of R289. -/
def MeasPoint.energy (p : MeasPoint) (c : MpCfg) (flen : Nat) (sa sr : Int) : MeasPoint :=
  let uk : Int := (ukBase * c.kd : Nat)
  let flk : Int := (flen * c.kn : Nat)
  let imp := decide (0 ≤ sa)
  let inc (r : List Dword) (i : Nat) (n : Nat) : List Dword := r.modify i fun x => x + .ofNat 64 n
  let ra := p.rem.getD 0 0 + sa * flk
  let q := Int.tdiv ra uk
  let reg := if 0 < q then inc p.reg 0 q.toNat else if q < 0 then inc p.reg 1 (-q).toNat else p.reg
  let ra := ra - q * uk
  let rr := p.rem.getD 1 0 + sr * flk
  let q := Int.tdiv rr uk
  let reg := if 0 < q then inc reg (if imp then 2 else 3) q.toNat
    else if q < 0 then inc reg (if imp then 5 else 4) (-q).toNat else reg
  let rr := rr - q * uk
  let es : Int := 32 * (p.sc : Int) * flk
  let rs := (if imp then p.rem.getD 2 0 else p.rem.getD 3 0) + es
  let q := Int.tdiv rs uk
  let reg := inc reg (if imp then 6 else 7) q.toNat
  let rs := rs - q * uk
  { p with
      reg := reg
      rem := [ra, rr, if imp then rs else p.rem.getD 2 0, if imp then p.rem.getD 3 0 else rs] }

def MpAcc.add (a : MpAcc) (v v90 cur : List (List Int)) (el : List Nat) (i j : Nat) : MpAcc :=
  let at_ (l : List (List Int)) (e : Nat) : List Int := seg i j (l.getD e [])
  let dot (x y : List Int) : Int := sumI (List.zipWith (· * ·) x y)
  let s := List.zipWith (· + ·) (List.zipWith (· + ·) (at_ cur 0) (at_ cur 1)) (List.zipWith (· + ·) (at_ cur 2) (at_ cur 3))
  { n := a.n + (j - i)
    v2 := a.v2.mapIdx fun e s => s + sumSq (at_ v e)
    i2 := a.i2.mapIdx fun e s => s + sumSq (at_ cur e)
    sp := a.sp + sumI (el.map fun e => dot (at_ v e) (at_ cur e))
    sq := a.sq + sumI (el.map fun e => dot (at_ v90 e) (at_ cur e))
    ss := a.ss + sumSq s }

/-- A number times 2^e times n/d in binary64, in the order written, as binary32 (R292). -/
def scaled (x : Int) (e : Int) (n d : Nat) : Word :=
  F64.toF32 (F64.div (F64.mul (F64.mul (F64.ofInt x) (.ofNat 64 (Float.ofScaled Float.b64 1 e))) (F64.ofInt n)) (F64.ofInt d))

/-- Cycle values and point detectors at a close (R288, R292, R294). -/
def Lane.pointClose (l : Lane) (m wiring : Nat) (c : MpCfg) (a : MpAcc) : Lane :=
  let p := l.met.mps.getD m {}
  let el := elements wiring
  let u := a.v2.mapIdx fun e s => if el.contains e then isqrt (s / a.n) else 0
  let i := a.i2.map fun s => isqrt (s / a.n)
  let pc := Int.tdiv a.sp a.n
  let qc := Int.tdiv a.sq a.n
  let sc := isqrt (pc * pc + qc * qc).toNat
  let maxI := i.foldl max 0
  let r := isqrt (a.ss / a.n)
  let above := decide (maxI < 20 * r) && decide (52429 < r)
  let cnt := if wiring ≠ 0 then (0, 0) else if above then (p.isumBad + 1, 0) else (0, p.isumGood + 1)
  let was := p.flags.testBit 5
  let isum := if wiring ≠ 0 then false else if 10 ≤ cnt.1 then true else if 10 ≤ cnt.2 then false else was
  let ovr := p.ovrSeen
  let l := l.irqIf (decide (ovr &&& (15 - p.flags / 2 % 16) ≠ 0)) R.MET.I_OVR
  let l := l.irqIf (isum && !was) R.MPT.I_ISUM
  let pub := p.pub.mapIdx fun k x =>
    if k < 3 then (if el.contains k then scaled (u.getD k 0) (-16) c.vtn c.vtd else x)
    else if k < 7 then scaled (i.getD (k - 3) 0) (-20) c.ctn c.ctd else x
  let p := { p with
    sc := sc, u := u, i := i, isumBad := cnt.1, isumGood := cnt.2, pub := pub
    flags := p.flags % 2 + 2 * ovr + (if isum then 32 else 0) }
  { l with met := { l.met with mps := l.met.mps.set m p } }

/-- The point pass of a window (R288, R289). -/
def Lane.metPoint (l : Lane) (w : MetWindow) (flen : Nat) (wins : List GrpWin) (m : Nat) : Lane :=
  let c := l.met.mpCfg.getD m {}
  if !c.on then l
  else match wins[c.group]? with
  | none => l
  | some gw =>
    let wiring := (l.met.groupCfg.getD c.group {}).wiring
    let el := elements wiring
    let base := 16 + 4 * m
    let cal := (List.range 4).map fun k =>
      calRun l.met.calib (base + k) gw.js gw.b0 gw.b1 0 (w.samples.getD (base + k) []) (l.met.chans.getD (base + k) {}).lastY
    let cur := cal.map (·.1)
    let dotE (v : List (List Int)) (e : Nat) : Int := sumI (List.zipWith (· * ·) (v.getD e []) (cur.getD e []))
    let sa := (List.range 3).map fun e => if el.contains e then dotE gw.xs e else 0
    let sr := (List.range 3).map fun e => if el.contains e then dotE gw.v90 e else 0
    let p := l.met.mps.getD m {}
    let ovw := w.ovrmap.toNat / 2 ^ base % 16
    let p := { p with ovrSeen := p.ovrSeen ||| ovw }
    let accClose : MpAcc := match gw.close with
      | some k => if k.crossing then p.accX.add gw.xs gw.v90 cur el 0 k.pos else p.accW.add gw.xs gw.v90 cur el 0 32
      | none => {}
    let accX : MpAcc := match gw.cross with
      | some j => MpAcc.add {} gw.xs gw.v90 cur el j 32
      | none => p.accX.add gw.xs gw.v90 cur el 0 32
    let accW : MpAcc := match gw.close with
      | some k => if k.crossing then MpAcc.add {} gw.xs gw.v90 cur el k.pos 32 else {}
      | none => p.accW.add gw.xs gw.v90 cur el 0 32
    let p := { p with accX := accX, accW := accW }
    let l := { l with met := { l.met with
      mps := l.met.mps.set m p
      chans := l.met.chans.mapIdx fun i (x : MetChan) =>
        if base ≤ i ∧ i < base + 4 then { x with lastY := (cal.getD (i - base) ([], none)).2 } else x } }
    let l := if 0 < accClose.n then
        let l := l.pointClose m wiring c accClose
        let p := l.met.mps.getD m {}
        let crossing := (gw.close.map fun (k : CycleClose) => k.crossing).getD false
        { l with met := { l.met with mps := l.met.mps.set m { p with ovrSeen := if crossing then ovw else 0 } } }
      else l
    let p := (l.met.mps.getD m {}).energy c flen (sumI sa) (sumI sr)
    let p := { p with
      secP := List.zipWith (fun s x => s + x * (flen : Int)) p.secP sa
      secQ := List.zipWith (fun s x => s + x * (flen : Int)) p.secQ sr
      secS := p.secS + 32 * (p.sc : Int) * (flen : Int)
      flags := p.flags / 2 * 2 + (if sumI sa < 0 then 1 else 0) }
    { l with met := { l.met with mps := l.met.mps.set m p } }

/-- A power of the second in binary64, in the order of Table MET-5. -/
def secVal (x : Int) (fl : Nat) (c : MpCfg) : F64 :=
  let v := F64.div (F64.mul (F64.ofInt x) (.ofNat 64 (Float.ofScaled Float.b64 1 (-41)))) (F64.ofInt fl)
  F64.div (F64.mul v (F64.ofInt c.kn)) (F64.ofInt c.kd)

/-- Publication of a second and its new start (R292). -/
def MeasPoint.second (p : MeasPoint) (c : MpCfg) (fl : Nat) : MeasPoint :=
  let q := { p with secP := [0, 0, 0], secQ := [0, 0, 0], secS := 0 }
  if fl = 0 ∨ !c.on then q
  else
    let v (x : Int) : F64 := secVal x fl c
    let pt := v (sumI p.secP)
    let st := v p.secS
    let pub := p.pub.mapIdx fun k x =>
      if k < 7 then x
      else if k < 10 then F64.toF32 (v (p.secP.getD (k - 7) 0))
      else if k = 10 then F64.toF32 pt
      else if k < 14 then F64.toF32 (v (p.secQ.getD (k - 11) 0))
      else if k = 14 then F64.toF32 (v (sumI p.secQ))
      else if k = 15 then F64.toF32 st
      else if p.secS = 0 then 0 else F64.toF32 (F64.div pt st)
    { q with pub := pub }

/-! ### Harmonics (R293) -/

def f64Fun (f : Float.Fmt → Nat → Nat) (x : F64) : F64 := .ofNat 64 (f Float.b64 x.toNat)
def twoPi64 : F64 := F64.mul (F64.ofInt 2) (dec 3141592653589793238 (-18))

/-- RMS magnitude of bin `b` of `N` samples. -/
def harmBin (xs : List Int) (n b : Nat) : F64 :=
  let r := xs.foldl (fun (a : F64 × F64 × Nat) x =>
    let th := F64.div (F64.mul (F64.mul twoPi64 (F64.ofInt b)) (F64.ofInt a.2.2)) (F64.ofInt n)
    let x := F64.ofInt x
    (F64.add a.1 (F64.mul x (f64Fun Float.cos th)), F64.add a.2.1 (F64.mul x (f64Fun Float.sin th)), a.2.2 + 1))
    (F64.zero, F64.zero, 0)
  let mag := F64.sqrt (F64.add (F64.mul r.1 r.1) (F64.mul r.2.1 r.2.1))
  F64.div (F64.mul mag (F64.sqrt (F64.ofInt 2))) (F64.ofInt n)

/-- Harmonic group of order `h` with `c` cycles in the window. -/
def harmGroup (bin : Nat → F64) (c h : Nat) : F64 :=
  let sq (b : Nat) : F64 := F64.mul (bin b) (bin b)
  let half := F64.ofRat 1 2
  let mid := (List.range (c - 1)).foldl (fun s i => F64.add s (sq (h * c + 1 + i - c / 2))) (F64.mul half (sq (h * c - c / 2)))
  F64.sqrt (F64.add mid (F64.mul half (sq (h * c + c / 2))))

/-- Groups 1 to 50 of one channel, and its distortion. -/
def harmonics (xs : List Int) (c : Nat) : List F64 × F64 :=
  let bins := (List.range (50 * c + c / 2 + 1)).map fun b => harmBin xs xs.length b
  let g := (List.range 50).map fun i => harmGroup (fun b => bins.getD b F64.zero) c (i + 1)
  let s := (g.drop 1).foldl (fun a x => F64.add a (F64.mul x x)) F64.zero
  (g, F64.div (F64.sqrt s) (g.getD 0 F64.zero))

/-- The next point of the scan after `m` in ascending order among the bits of HEN, around. -/
def nextScan (hen : Nat) (m : Option Nat) : Option Nat :=
  let on := (List.range 16).filter fun i => hen.testBit i
  match m with
  | none => on.head?
  | some m => (on.find? fun i => decide (m < i)).orElse fun _ => on.head?

/-- The seven channels of a point as calibrated in this window. -/
def scanSamples (l : Lane) (before : Lane) (w : MetWindow) (wins : List GrpWin) (m : Nat) : List (List Int) :=
  match wins[(l.met.mpCfg.getD m {}).group]? with
  | none => []
  | some gw => (gw.xs.take 3) ++ (List.range 4).map fun k =>
      let c := 16 + 4 * m + k
      (calRun l.met.calib c gw.js gw.b0 gw.b1 0 (w.samples.getD c []) (before.met.chans.getD c {}).lastY).1

/-- The analysis of point `m` starts at the first reference crossing of its group from sample `at_` of the window on;
without one it waits. -/
def Lane.harmStart (l before : Lane) (w : MetWindow) (wins : List GrpWin) (m at_ : Nat) (sc : HarmScan) : HarmScan :=
  let g := (l.met.mpCfg.getD m {}).group
  let wait : HarmScan := { sc with mp := some m, armed := true, cycles := 0, buf := [] }
  match wins[g]? with
  | none => wait
  | some gw =>
    if !l.on (R.MET.VPRES.idx g) || l.on (R.MET.FREQF.idx g) then wait
    else match gw.cross with
      | none => wait
      | some j =>
        if j < at_ then wait
        else { wait with armed := false, buf := (scanSamples l before w wins m).map fun x => (seg j 32 x).reverse }

/-- The harmonic scan after the points of a window; `before` is the lane before the window. -/
def Lane.harmScan (l before : Lane) (w : MetWindow) (wins : List GrpWin) : Lane :=
  let hen := l.get R.MET.HEN
  let sc := l.met.scan
  let put (l : Lane) (s : HarmScan) : Lane :=
    let l := { l with met := { l.met with scan := s } }
    (l.putB R.MET.HACT s.mp.isSome).put R.MET.HMP (s.mp.getD 0)
  let cur := match sc.mp with
    | some m => if hen.testBit m then some m else nextScan hen (some m)
    | none => nextScan hen none
  match cur with
  | none => put l { sc with mp := none, armed := false, cycles := 0, buf := [] }
  | some m =>
    let sc := if sc.mp = some m then sc else { sc with mp := some m, armed := true, cycles := 0, buf := [] }
    let g := (l.met.mpCfg.getD m {}).group
    match wins[g]? with
    | none => put l sc
    | some gw =>
      let need := if (l.met.groupCfg.getD g {}).nomf = 0 then 10 else 12
      let smp := scanSamples l before w wins m
      let bad := !l.on (R.MET.VPRES.idx g) || l.on (R.MET.FREQF.idx g)
      if bad then put l { sc with armed := true, cycles := 0, buf := [] }
      else if sc.armed then put l (l.harmStart before w wins m 0 sc)
      else
        match gw.cross with
        | none => put l { sc with buf := List.zipWith (fun x b => x.reverse ++ b) smp sc.buf }
        | some j =>
          if sc.cycles + 1 < need then
            put l { sc with cycles := sc.cycles + 1, buf := List.zipWith (fun x b => x.reverse ++ b) smp sc.buf }
          else
            let all := List.zipWith (fun x b => (b.reverse ++ seg 0 j x)) smp sc.buf
            let res := all.map fun x => harmonics x need
            let c := l.met.mpCfg.getD m {}
            let conv (k : Nat) (x : F64) : Word :=
              let e : Int := if k < 3 then -16 else -20
              let n := if k < 3 then c.vtn else c.ctn
              let d := if k < 3 then c.vtd else c.ctd
              F64.toF32 (F64.div (F64.mul (F64.mul x (.ofNat 64 (Float.ofScaled Float.b64 1 e))) (F64.ofInt n)) (F64.ofInt d))
            let groups := res.mapIdx fun k r => r.1.map (conv k)
            let thd := res.map fun r => F64.toF32 r.2
            -- a crossing at sample 0 leaves the window's last sample in the frame before
            let due := sc.due ++ [(m, (if j = 0 then l.fno - 1 else l.fno) + 50, groups, thd)]
            put l (l.harmStart before w wins ((nextScan hen (some m)).getD m) j { sc with due })

/-- Results due in this frame are published (R293). -/
def Lane.harmPublish (l : Lane) : Lane :=
  let due := l.met.scan.due.filter fun d => decide (d.2.1 ≤ l.fno)
  let l := { l with met := { l.met with scan := { l.met.scan with due := l.met.scan.due.filter fun d => decide (l.fno < d.2.1) } } }
  due.foldl (fun (l : Lane) d =>
    let p := l.met.mps.getD d.1 {}
    let p := { p with harm := d.2.2.1, thd := d.2.2.2, hfno := .ofNat 32 l.fno }
    ({ l with met := { l.met with mps := l.met.mps.set d.1 p } }).irq R.MPT.I_HNEW) l

/-! ### Windows (R278, R279) -/

/-- Cycle state starts afresh: a missing window, or SRST of MET (R279, R300). The largest values of the last 20 windows
stay, a missing one counting as a window without samples. -/
def Metering.resetCycles (m : Metering) : Metering :=
  { m with
      chans := List.replicate 80 {}
      groups := m.groups.map fun g =>
        { g with period := none, peaks := (0 :: g.peaks).take 20, sinceClose := 0, accX := {}, accW := {}, seqBad := 0, seqGood := 0
                 nlBad := 0, nlGood := 0, ovrSeen := 0, ph32v := false }
      mps := m.mps.map fun p => { p with accX := {}, accW := {}, ovrSeen := 0, isumBad := 0, isumGood := 0 }
      scan := { m.scan with armed := true, cycles := 0, buf := [] } }

/-- SRST of MET resets detectors, cycle state and the harmonic scan (R300). -/
def Lane.metReset (l : Lane) : Lane :=
  let m := l.met.resetCycles
  let l : Lane := { l with met := { m with
    groups := m.groups.map fun (g : MetGroup) => { g with peaks := [], ovr := 0 }
    mps := m.mps.map fun (p : MeasPoint) => { p with flags := 0 }
    scan := {} } }
  let l := (l.put R.MET.HACT 0).put R.MET.HMP 0
  (List.range 4).foldl (fun (l : Lane) g =>
    [R.MET.VPRES, R.MET.PHMISS, R.MET.CYCW, R.MET.PHSEQ, R.MET.NLOST, R.MET.FREQF].foldl (fun (l : Lane) (f : Fld) =>
      l.put (f.idx g) 0) l) l

/-- Windows lost with input frames that this lane did not take (R279, R298). -/
def Lane.lostWindows (l : Lane) : Lane :=
  let n := match l.met.lastFno with
    | some f => l.fno - 1 - f
    | none => 0
  if n = 0 then l else { (l.inc R.MET.NOSAMP n).irq R.MET.I_NOSAMP with met := l.met.resetCycles }

/-- The window of the current input frame, where it is not missing (R279). -/
def Lane.window (l : Lane) : Option MetWindow :=
  let ws := l.arrivals.filterMap fun a => match a.body with
    | .metering w => some w
    | _ => none
  ws.find? fun w => w.valid && decide (w.wno = .ofNat 32 (l.fno - 1))

/-- PEND follows the pending changes (R283). -/
def Lane.showPend (l : Lane) : Lane :=
  l.put R.MET.PEND ((List.range 4).foldl (fun n g => if (l.met.groups.getD g {}).pendBand.isSome then n + 2 ^ g else n) 0)

/-- FEBAND moves after the window; groups whose band differs have a change pending (R282, R283). -/
def Lane.moveBand (l : Lane) (t : Int) : Lane :=
  let b := l.met.calib.bandMove t (l.get R.MET.FEBAND)
  let l := l.put R.MET.FEBAND b
  let gs := l.met.groups.mapIdx fun g st =>
    { st with pendBand := if (l.get R.MET.BANDG) / 16 ^ g % 16 = b then none else some b }
  ({ l with met := { l.met with groups := gs } }).showPend

/-- Publication of PH32 and PH32V at step 2 (R286). -/
def Lane.metStep2 (l : Lane) : Lane :=
  (List.range 4).foldl (fun (l : Lane) g =>
    let st := l.met.groups.getD g {}
    (l.put (R.MET.PH32.idx g) st.ph32).putB (R.MET.PH32V.idx g) st.ph32v) l

/-- Publication of a second with its sums, and the start of the next (R292). -/
def Lane.closeSecond (l : Lane) : Lane :=
  let fl := l.met.secFlen
  { l with met := { l.met with
    secFlen := 0, mps := l.met.mps.mapIdx fun m p => p.second (l.met.mpCfg.getD m {}) fl } }

/-- A second whose closing frame was lost with its input frame ends before the window of a later one (R292). -/
def Lane.lateSecond (l : Lane) : Lane :=
  if l.met.lastFno.any fun f => f / 1000 ≠ (l.fno - 1) / 1000 then l.closeSecond else l

/-- Metering at step 7 of a frame; `flen` is FLEN(k − 1), the length of the window's frame. The window that k0 receives is of
the frame before it, and is not integrated (R297). -/
def Lane.metStep7 (flen : Nat) (l : Lane) : Lane :=
  let now := l.trailer.flen
  let l := l.lostWindows.lateSecond
  let any := l.arrivals.findSome? fun a => match a.body with
    | .metering w => some w
    | _ => none
  let l := match any with
    | some w => (l.put R.MET.TFE w.tfe.toNat).putB R.MET.FEVALID w.valid
    | none => l
  let l : Lane := if l.fno = l.k0 then l else match l.window with
    | none =>
      let l := ((l.inc R.MET.NOSAMP).put R.MET.NOSAMPW 1).irq R.MET.I_NOSAMP
      { l with met := l.met.resetCycles }
    | some w =>
      let t := toSigned 16 w.tfe.toNat
      let l := l.put R.MET.NOSAMPW 0
      let l := if l.met.fresh then
          let b := l.met.calib.bandOf t
          let l := (l.put R.MET.FEBAND b).put R.MET.BANDG (b * 0x1111)
          { l with met := { l.met with fresh := false } }
        else l
      let before := l
      let r := (List.range 4).foldl (fun (s : Lane × List GrpWin) g =>
        let t := s.1.metGroup w (l.fno - 1) flen now g
        (t.1, s.2 ++ [t.2])) (l, [])
      let l := (List.range 16).foldl (fun (l : Lane) m => l.metPoint w flen r.2 m) r.1
      let l := { l with met := { l.met with secFlen := l.met.secFlen + flen } }
      let l := l.harmScan before w r.2
      l.moveBand t
  let l := if l.fno % 1000 = 0 then l.closeSecond else l
  let l := l.harmPublish
  { l with met := { l.met with lastFno := some l.fno } }

/-! ### What the MPT page shows (R291, Table MET-11) -/

def MpCfg.flagsByte (c : MpCfg) : Nat := (if c.on then 1 else 0) + c.group * 2 + c.punit * 8 + c.inom * 32

def presentation (r : Dword) (punit : Nat) : Nat := r.toNat / 10 ^ (3 + 3 * punit) % 10 ^ 9

/-- Pfs in W as a fraction (R291). -/
def Metering.pfs (m : Metering) (i : Nat) : Nat × Nat :=
  let c := m.mpCfg.getD i {}
  ((elements (m.groupCfg.getD c.group {}).wiring).length * 7200 * c.kn, c.kd)

def Metering.wraps (m : Metering) (i : Nat) : Nat :=
  let p := m.pfs i
  min (10 ^ (9 + 3 * (m.mpCfg.getD i {}).punit) * 3600 * p.2 / p.1) (2 ^ 32 - 1)

/-- The loss bound of R297 in mWh: ⌈frames × Pfs / 3 600⌉. -/
def Metering.lossOf (m : Metering) (i frames : Nat) : Nat :=
  let p := m.pfs i
  (frames * p.1 + 3600 * p.2 - 1) / (3600 * p.2)

/-- A register of the MPT page at offset `off`. -/
def Lane.readMpt (l : Lane) (off : Nat) : Nat :=
  let m := l.get R.MPT.MPSEL
  let c := l.met.mpCfg.getD m {}
  let p := l.met.mps.getD m {}
  let vis (x : Nat) : Nat := if c.on then x else 0
  if off = 0x040 then m
  else if off = 0x044 then c.vtn * 2 ^ 16 + c.vtd * 2 ^ 8 + c.ctd
  else if off = 0x048 then c.ctn * 2 ^ 16 + c.flagsByte
  else if off = 0x04C then vis p.flags
  else if 0x050 ≤ off ∧ off ≤ 0x090 then vis (p.pub.getD ((off - 0x050) / 4) 0).toNat
  else if 0x094 ≤ off ∧ off ≤ 0x0D0 then (p.reg.getD ((off - 0x094) / 8) 0).toNat / (if (off - 0x094) % 8 = 0 then 1 else 2 ^ 32) % 2 ^ 32
  else if 0x0D4 ≤ off ∧ off ≤ 0x0F0 then presentation (p.reg.getD ((off - 0x0D4) / 4) 0) c.punit
  else if off = 0x0F4 then l.met.wraps m
  else if off = 0x0F8 then p.lostbnd.toNat % 2 ^ 32
  else if off = 0x0FC then p.lostbnd.toNat / 2 ^ 32
  else if off = 0x104 then vis ((p.harm.getD (l.get R.MPT.HCH) []).getD (l.get R.MPT.HORD - 1) 0).toNat
  else if off = 0x108 then vis (p.thd.getD (l.get R.MPT.HCH) 0).toNat
  else if off = 0x10C then vis p.hfno.toNat
  else (l.reg (0x21000 + off)).toNat

/-! ### Configuration (R299) -/

/-- The metering section: groups, points and HEN, or none where it is invalid (0x2040). -/
def meteringSection (b : List Byte) : Option (List MetGroupCfg × List MpCfg × Nat) :=
  if b.length ≠ 168 ∨ u32At b 164 ≠ (crc32c (b.take 164)).toNat then none
  else
    let gs := (List.range 4).map fun g =>
      let o := 8 * g
      (⟨u16At b o, u8At b (o + 2), u8At b (o + 3), u8At b (o + 4)⟩ : MetGroupCfg)
    let ps := (List.range 16).map fun m =>
      let o := 32 + 8 * m
      let f := u8At b o
      (⟨f % 2 == 1, f / 2 % 4, f / 8 % 4, f / 32 % 2, u16At b (o + 1), u8At b (o + 3), u16At b (o + 4), u8At b (o + 6)⟩ : MpCfg)
    let okG := gs.all fun g => decide (577 ≤ g.nomv) && decide (g.nomv ≤ 3000) && decide (g.wiring ≤ 2)
      && decide (g.nomf ≤ 1) && decide (5 ≤ g.nlthr) && decide (g.nlthr ≤ 80)
    let okP := (List.range 16).all fun m =>
      let o := 32 + 8 * m
      let p := ps.getD m {}
      decide (u8At b o < 64) && decide (p.punit ≤ 2) && decide (1 ≤ p.vtn) && decide (1 ≤ p.vtd) && decide (1 ≤ p.ctn)
        && decide (1 ≤ p.ctd) && decide (u8At b (o + 7) = 0)
    let zero := (List.range 4).all fun g => decide (u24At b (8 * g + 5) = 0)
    if okG && okP && zero && decide (u16At b 162 = 0) then some (gs, ps, u16At b 160) else none

end Sys2Proof.Machine
end

