-- ==== Sys2Proof/Machine/Heat.lean ====
section
/-! DEFINITION. Heat metering and pulse outputs (13_heat_metering_pulses.md). -/

namespace Sys2Proof.Machine

/-! ### Temperatures and water (R303 to R305, R308) -/

def rtdNom (typ : Nat) : Nat := if typ = 0 then 100 else if typ = 1 then 500 else 1000

/-- Temperature the resistance of an RTD result word stands for (R303); none where RST gives none, or there is no result yet. -/
def rtdCelsius (w : Word) (typ : Nat) : Option F64 :=
  if bits w 31 30 ≠ 0 ∨ w = 0 then none
  else
    let a := dec 39083 (-7)
    let b := dec (-5775) (-10)
    let r : F64 := .ofNat 64 (Float.ofScaled Float.b64 (bits w 29 0) (-16))
    let q := F64.sub F64.one (F64.div r (F64.ofInt (rtdNom typ)))
    let disc := F64.sub (F64.mul a a) (F64.mul (F64.mul (F64.ofInt 4) b) q)
    some (F64.div (F64.add (F64.neg a) (F64.sqrt disc)) (F64.mul (F64.ofInt 2) b))

/-- Temperature of an RTD result word; none where the sensor is faulted (R303). -/
def rtdTemp (w : Word) (typ : Nat) : Option F64 :=
  (rtdCelsius w typ).filter fun t => F64.le F64.zero t && F64.le t (F64.ofInt 200)

/-- Lookup in a table of 2 001 entries at 0.1 °C (R305). -/
def tabAt (tab : F64 → F64) (t : F64) : F64 :=
  let u := F64.mul t (F64.ofInt 10)
  let i : Nat := min ((F64.floorI u).getD 0).toNat 1999
  let f := F64.sub u (F64.ofInt i)
  let e (i : Nat) : F64 := tab (F64.mul (F64.ofRat 1 10) (F64.ofInt i))
  F64.fma f (F64.sub (e (i + 1)) (e i)) (e i)

/-- KQ (R308). -/
def heatKq (c : HpCfg) (h : HeatPoint) : Int :=
  if h.tsf || h.trf || h.tstale || h.flf then 0
  else
    let p := F32.toF64 c.pprop
    let rho := tabAt (waterRho p) (if c.floc = 1 then h.tr else h.ts)
    let dh := F64.sub (tabAt (waterH p) h.ts) (tabAt (waterH p) h.tr)
    let kq := (F64.rneI (F64.mul (F64.mul rho dh) (dec 1048576 (-3)))).getD 0
    let d := F64.abs (F64.sub h.ts h.tr)
    if F64.lt d (F64.div (F64.ofInt c.dtmin) (F64.ofInt 1000)) then 0
    else if (c.mode = 0 ∧ kq < 0) ∨ (c.mode = 1 ∧ 0 < kq) then 0
    else kq

/-! ### Flow (R306, R307) -/

/-- The station whose input area holds a process image word is STALE (R246). -/
def Lane.stationStale (l : Lane) (addr : Nat) : Bool :=
  l.ports.stations.any fun s => decide (s.inbase ≤ addr) && decide (addr < s.inbase + s.incnt) && !s.good

/-- Volume increment of a frame, whether its energy counts, and the point after it. -/
def Lane.heatFlow (l : Lane) (c : HpCfg) (h : HeatPoint) : Nat × Bool × HeatPoint × Bool :=
  if c.fsrc = 2 then
    let ai := l.ai c.faddr
    let bad := decide (ai < 3600) || decide (21000 < ai)
    if bad then (0, false, { h with flf := true, vr := if h.first then 0 else h.vr, first := false }, false)
    else if h.first then (0, true, { h with flf := false, vr := 0, first := false }, false)
    else
      let a : Int := (min (max ai 4000) 20000 - 4000 : Nat)
      let vr := h.vr + a * (c.kvol : Int) * (l.trailer.flen : Int)
      let dv := Int.tdiv vr (16 * 10 ^ 12)
      (dv.toNat, true, { h with flf := false, vr := vr - dv * (16 * 10 ^ 12) }, false)
  else
    let stale := c.fsrc = 1 ∧ l.stationStale c.faddr
    if stale then (0, false, { h with flf := true, afterFlf := true }, false)
    else
      let w : Word := if c.fsrc = 0 then kvGet 0 l.prg.pi (0x10 + c.faddr) else kvGet 0 l.prg.view c.faddr
      if h.first then
        (0, true, { h with flf := false, first := false, afterFlf := false, cprev := w }, false)
      else
        let dv := (w - h.cprev).toNat * c.kvol
        let after := decide (c.fsrc = 1) && h.afterFlf
        let h := { h with flf := false, cprev := w, afterFlf := false }
        if c.dvmax ≠ 0 ∧ c.dvmax < dv ∧ !after then (0, true, { h with jump := satAdd 32 h.jump 1 }, true)
        else (dv, !after, h, false)

/-- The accumulation of R309; `energy` is false for a first difference after FLF. -/
def HeatPoint.accumulate (h : HeatPoint) (dv : Nat) (energy : Bool) : HeatPoint :=
  let fault := h.faulted
  let vol := h.vol + .ofNat 64 dv
  let volf := if fault || !energy then h.volf + .ofNat 64 dv else h.volf
  let kq := if energy then h.kq else 0
  let re := h.re + (dv : Int) * kq
  let q := Int.tdiv re 3774873600
  let h := { h with
    vol := vol, volf := volf, re := re - q * 3774873600
    secV := h.secV + dv, secE := h.secE + (dv : Int) * kq, secF := h.secF || fault }
  if 0 < q then { h with heat := h.heat + .ofNat 64 q.toNat }
  else if q < 0 then { h with cool := h.cool + .ofNat 64 (-q).toNat }
  else h

/-- FLOW and POWER of a second, and its new start (R309, R310). -/
def HeatPoint.second (h : HeatPoint) (fl : Nat) : HeatPoint :=
  let t := F64.mul (F64.ofInt fl) (dec 1 (-9))
  let flow := F64.div (F64.mul (F64.ofInt h.secV) (dec 1 (-6))) t
  let pw := F64.div (F64.mul (F64.mul (F64.ofInt h.secE) (.ofNat 64 (Float.ofScaled Float.b64 1 (-20)))) (dec 1 (-3))) t
  { h with
      secV := 0, secE := 0, secF := false
      errsec := if h.secF then satAdd 32 h.errsec 1 else h.errsec
      flow := if fl = 0 then h.flow else F64.toF32 flow
      power := if fl = 0 then h.power else F64.toF32 pw }

/-- New temperatures of a point from the RTD words (R303). -/
def HeatPoint.temps (h : HeatPoint) (c : HpCfg) (raw : List Word) : HeatPoint :=
  let s := rtdTemp (raw.getD c.rtds 0) c.typS
  let r := rtdTemp (raw.getD c.rtdr 0) c.typR
  { h with ts := s.getD h.ts, tr := r.getD h.tr, tsf := s.isNone, trf := r.isNone, tstale := false }

/-- TSTALE rises after 300 frames without a result (R303). -/
def Lane.rtdStale (l : Lane) : Lane :=
  if l.heat.sinceRtd < 300 then l
  else
    let rose := (l.heat.hpCfg.zip l.heat.hps).any fun p => p.1.on && !p.2.tstale
    let hps := l.heat.hps.mapIdx fun i (h : HeatPoint) =>
      let c := l.heat.hpCfg.getD i {}
      if c.on ∧ !h.tstale then
        let h := { h with tstale := true }
        { h with kq := heatKq c h }
      else h
    ({ l with heat := { l.heat with hps := hps } }).irqIf rose R.HEAT.I_TSTALE

/-- One heat point in a frame. -/
def Lane.heatPoint (l : Lane) (rtd : Bool) (i : Nat) : Lane :=
  let c := l.heat.hpCfg.getD i {}
  if !c.on then l
  else
    let h0 := l.heat.hps.getD i {}
    let h := if rtd then h0.temps c l.heat.rtdRaw else h0
    let r := l.heatFlow c h
    let h := r.2.2.1
    let h := if rtd ∨ h.faulted ≠ h0.faulted then { h with kq := heatKq c h } else h
    let h := h.accumulate r.1 r.2.1
    let rose := (h.tsf && !h0.tsf) || (h.trf && !h0.trf) || (h.flf && !h0.flf)
    let l := { l with heat := { l.heat with hps := l.heat.hps.set i h } }
    (l.irqIf rose R.HEAT.I_FAULT).irqIf r.2.2.2 R.HEAT.I_JUMP

/-- The second the sums belong to is over: it is published, and the sums start afresh (R292, R310). -/
def Lane.heatSecond (l : Lane) : Lane :=
  if l.fno / 1000 = l.heat.secOf then l
  else { l with heat := { l.heat with
    secFlen := 0, secOf := l.fno / 1000, hps := l.heat.hps.map fun h => h.second l.heat.secFlen } }

/-- The RTD results of an arrival: only that of WNO mod 100 = 99 carries any (R302). -/
def rtdResults (w : MetWindow) : Option (List Word) := if w.wno.toNat % 100 = 99 then w.rtd else none

/-- Heat metering at step 7 of a frame; with HEAT disabled the points stand still. -/
def Lane.heatStep7 (l : Lane) : Lane :=
  if !l.enabled 0x22 then l
  else
    let l := l.heatSecond
    let rtd := l.window.bind rtdResults
    let l : Lane := match rtd with
      | some ws => { l with heat := { l.heat with rtdRaw := ws, sinceRtd := 0 } }
      | none => { l with heat := { l.heat with sinceRtd := l.heat.sinceRtd + 1 } }
    let l := l.rtdStale
    let l := (List.range 16).foldl (fun (l : Lane) i => l.heatPoint rtd.isSome i) l
    { l with heat := { l.heat with secFlen := l.heat.secFlen + l.trailer.flen } }

/-! ### Pulse outputs (R314 to R316) -/

/-- The source register of a pulse output. -/
def Lane.pulseSrc (l : Lane) (c : PoCfg) : Dword :=
  if c.srck = 0 then (l.met.mps.getD (c.index % 16) {}).reg.getD (c.index / 16 % 8) 0
  else
    let h := l.heat.hps.getD (c.index % 16) {}
    if c.index / 16 % 4 = 0 then h.heat else if c.index / 16 % 4 = 1 then h.cool else h.vol

/-- One pulse output at the end of step 7: a command is placed where a pulse is due. -/
def Lane.pulseStep (l : Lane) (i : Nat) : Lane :=
  let c := l.heat.poCfg.getD i {}
  let p := l.heat.pos.getD i {}
  let src := l.pulseSrc c
  let put (l : Lane) (p : PulseOut) : Lane := { l with heat := { l.heat with pos := l.heat.pos.set i p } }
  if !(c.on && l.enabled 0x23 && (l.get R.PLS.PEN).testBit i) then
    put l { p with last := src, bklg := 0, placed := false }
  else
    let n := (src - p.last).toNat / c.kp
    let b := p.bklg + n
    let ovf := decide (65535 < b)
    let p := { p with
      last := p.last + BitVec.ofNat 64 (n * c.kp), bklg := min b 65535
      drop := if ovf then satAdd 32 p.drop (b - 65535) else p.drop }
    let l := l.irqIf ovf R.PLS.I_OVFL
    if 0 < p.bklg ∧ p.nextf.toNat ≤ l.fno then
      put (l.emit 2 i (.pulse c.width)) { p with placed := true }
    else put l { p with placed := false }

def Lane.pulseStep7 (l : Lane) : Lane := (List.range 16).foldl (fun (l : Lane) i => l.pulseStep i) l

/-- Step 1 of frame k + 1: the outcome of the commands of frame k (R315). -/
def Lane.pulseStep1 (l : Lane) (owned : Bool) : Lane :=
  let k := l.fno - 1
  let re := !owned && l.heat.pos.any fun p => p.placed
  let pos := l.heat.pos.mapIdx fun i (p : PulseOut) =>
    if p.placed ∧ owned then
      { p with bklg := p.bklg - 1, emit := p.emit + 1, nextf := .ofNat 64 (k + 2 * (l.heat.poCfg.getD i {}).width), placed := false }
    else { p with placed := false }
  let l := ({ l with heat := { l.heat with pos := pos } }).irqIf re R.PLS.I_REISS
  let act := (List.range 16).foldl (fun (n i : Nat) =>
    let w : Nat := (l.heat.poCfg.getD i {}).width
    let nf : Nat := (pos.getD i ({} : PulseOut)).nextf.toNat
    if w ≤ nf ∧ l.fno ≤ nf - w ∧ nf - 2 * w < l.fno ∧ nf ≠ 0 then n + 2 ^ i else n) 0
  l.put R.PLS.ACTIVE act

/-! ### Pages HEAT and PLS (R311, Tables HTM-7 and HTM-8) -/

def HpCfg.wraps (c : HpCfg) : Nat := min (10 ^ (9 + 3 * c.punit) * 3600 / (c.pfs * 1000)) (2 ^ 32 - 1)
/-- The loss bound of R313. -/
def HpCfg.lossOf (c : HpCfg) (frames : Nat) : Nat := (frames * c.pfs * 1000 + 3599) / 3600

/-- Sensor type an RTD has at the heat point it belongs to. -/
def Lane.rtdType (l : Lane) (n : Nat) : Option Nat :=
  l.heat.hpCfg.findSome? fun c =>
    if !c.on then none else if c.rtds = n then some c.typS else if c.rtdr = n then some c.typR else none

def Lane.readHeat (l : Lane) (off : Nat) : Nat :=
  let i := l.get R.HEAT.HSEL
  let c := l.heat.hpCfg.getD i {}
  let h := l.heat.hps.getD i {}
  let b (x : Bool) (n : Nat) : Nat := if x then n else 0
  let regs := [h.heat, h.cool, h.vol, h.volf]
  let kq := ofSigned 64 h.kq
  let half (x : Nat) (hi : Bool) : Nat := if hi then x / 2 ^ 32 else x % 2 ^ 32
  if off = 0x044 then c.faddr * 2 ^ 16 + c.fsrc * 2 ^ 8 + c.flagsByte
  else if off = 0x048 then c.rtdr * 2 ^ 8 + c.rtds
  else if off = 0x04C then b h.tstale 8 + b h.flf 4 + b h.trf 2 + b h.tsf 1
  else if off = 0x050 then (F64.toF32 h.ts).toNat
  else if off = 0x054 then (F64.toF32 h.tr).toNat
  else if off = 0x058 then (F64.toF32 (F64.sub h.ts h.tr)).toNat
  else if off = 0x05C then h.flow.toNat
  else if off = 0x060 then h.power.toNat
  else if off = 0x064 ∨ off = 0x068 then half kq (off == 0x068)
  else if 0x06C ≤ off ∧ off ≤ 0x088 then half (regs.getD ((off - 0x06C) / 8) 0).toNat ((off - 0x06C) % 8 == 4)
  else if 0x08C ≤ off ∧ off ≤ 0x098 then
    let r := (off - 0x08C) / 4
    presentation (regs.getD r 0) (if r < 2 then c.punit else c.vunit)
  else if off = 0x09C then c.wraps
  else if off = 0x0A0 ∨ off = 0x0A4 then half h.lostbnd.toNat (off == 0x0A4)
  else if off = 0x0A8 then h.errsec
  else if off = 0x0AC then h.jump
  else if off = 0x0B4 then (l.heat.rtdRaw.getD (l.get R.HEAT.RTDSEL) 0).toNat
  else if off = 0x0B8 then
    let n := l.get R.HEAT.RTDSEL
    (match l.rtdType n with
      | some t => (match rtdCelsius (l.heat.rtdRaw.getD n 0) t with
        | some x => (F64.toF32 x).toNat
        | none => 0)
      | none => 0)
  else (l.reg (0x22000 + off)).toNat

def Lane.readPls (l : Lane) (off : Nat) : Nat :=
  let i := l.get R.PLS.PSEL
  let c := l.heat.poCfg.getD i {}
  let p := l.heat.pos.getD i {}
  let half (x : Nat) (hi : Bool) : Nat := if hi then x / 2 ^ 32 else x % 2 ^ 32
  if off = 0x04C then c.width * 2 ^ 16 + c.index * 2 ^ 8 + c.srck * 2 + (if c.on then 1 else 0)
  else if off = 0x050 then c.kp
  else if off = 0x054 then p.bklg
  else if off = 0x058 ∨ off = 0x05C then half p.emit.toNat (off == 0x05C)
  else if off = 0x060 ∨ off = 0x064 then half p.last.toNat (off == 0x064)
  else if off = 0x068 then p.drop
  else if off = 0x06C then p.nextf.toNat % 2 ^ 32
  else (l.reg (0x23000 + off)).toNat

/-! ### Configuration (R317) -/

/-- The heat section, or none where it is invalid (0x2240): every record is examined, whether or not it is on. -/
def heatSection (b : List Byte) : Option (List HpCfg × List PoCfg) :=
  if b.length ≠ 772 ∨ u32At b 768 ≠ (crc32c (b.take 768)).toNat then none
  else
    let hp (i : Nat) : HpCfg :=
      let o := 32 * i
      let f := u8At b o
      let s := u8At b (o + 3)
      { on := f % 2 == 1, mode := f / 2 % 4, floc := f / 8 % 2, punit := f / 16 % 4, vunit := f / 64 % 2, flagsByte := f
        rtds := u8At b (o + 1), rtdr := u8At b (o + 2), typS := s % 4, typR := s / 4 % 4, fsrc := u8At b (o + 4)
        faddr := u16At b (o + 6), kvol := u32At b (o + 8), dvmax := u32At b (o + 12), pprop := wordAt b (o + 16)
        dtmin := u16At b (o + 20), pfs := u32At b (o + 24) }
    let po (i : Nat) : PoCfg :=
      let o := 512 + 16 * i
      { on := u8At b o % 2 == 1, srck := u8At b o / 2 % 2, index := u8At b (o + 1), width := u16At b (o + 2), kp := u32At b (o + 4) }
    let hps := (List.range 16).map hp
    let pos := (List.range 16).map po
    let okH (i : Nat) : Bool :=
      let o := 32 * i
      let c := hps.getD i {}
      decide (c.flagsByte < 128) && decide (c.mode ≤ 2) && decide (c.punit ≤ 2) && decide (c.rtds ≤ 31)
        && decide (c.rtdr ≤ 31) && decide (u8At b (o + 3) < 16) && decide (c.typS ≤ 2) && decide (c.typR ≤ 2)
        && decide (c.fsrc ≤ 2) && decide (u8At b (o + 5) = 0)
        && (if c.fsrc = 0 then decide (c.faddr ≤ 15) else if c.fsrc = 1 then decide (0x100 ≤ c.faddr) && decide (c.faddr ≤ 0x7FFF)
            else decide (c.faddr ≤ 7))
        && decide (1 ≤ c.kvol) && decide (c.kvol ≤ (if c.fsrc = 2 then 10 ^ 9 else 10 ^ 7))
        && F32.isFin c.pprop && F32.le (F32.fromNat 100000) c.pprop && F32.le c.pprop (F32.fromNat 2500000)
        && decide (c.dtmin ≤ 3000) && decide (u16At b (o + 22) = 0) && decide (1 ≤ c.pfs) && decide (c.pfs ≤ 10 ^ 7)
        && decide (u32At b (o + 28) = 0)
    let okP (i : Nat) : Bool :=
      let o := 512 + 16 * i
      let c := pos.getD i {}
      decide (u8At b o < 4) && decide (c.index < (if c.srck = 0 then 128 else 48)) && decide (10 ≤ c.width)
        && decide (c.width ≤ 500) && decide (1 ≤ c.kp) && decide (u64At b (o + 8) = 0)
    let rtds := hps.flatMap fun c => [c.rtds, c.rtdr]
    if (List.range 16).all okH && (List.range 16).all okP && decide rtds.Nodup then some (hps, pos) else none

end Sys2Proof.Machine
end

