-- ==== Sys2Proof/Machine/Pi.lean ====
section
/-! DEFINITION. The process image, forces on it (10_cyclic_programs.md R244, R245, R251, R252), and the
solve and dispatch result windows (Tables SOL-10 and OPT-11) as programs, loops, Patina and sessions read
them. -/

namespace Sys2Proof.Machine

/-! ### Forces -/

/-- Bits of process image word `a` that an active force holds. -/
def forceMask (fs : List (Nat × Force)) (a : Nat) : Word :=
  fs.foldl (fun m (p : Nat × Force) =>
    if p.2.addr ≠ a then m
    else if p.2.kind = 1 then 0xFFFFFFFF
    else if p.2.kind = 2 then m ||| (1#32 <<< p.2.bit)
    else m) 0

/-- Word `a` as its readers see it, `v` being the underlying value. -/
def forcedWord (fs : List (Nat × Force)) (a : Nat) (v : Word) : Word :=
  fs.foldl (fun w (p : Nat × Force) =>
    if p.2.addr ≠ a then w
    else if p.2.kind = 1 then p.2.val
    else if p.2.kind = 2 then
      (if p.2.val.getLsbD 0 then w ||| (1#32 <<< p.2.bit) else w &&& ~~~(1#32 <<< p.2.bit))
    else w) v

/-- A variable word of executor 4 or 5 as instructions read it. -/
def forcedVar (fs : List (Nat × Force)) (exe a : Nat) (v : Word) : Word :=
  match fs.find? fun p => p.2.kind == exe - 1 && p.2.addr == a with
  | some p => p.2.val
  | none => v

/-- The image with forces applied. -/
def forcedImage (fs : List (Nat × Force)) (pi : List (Nat × Word)) : List (Nat × Word) :=
  fs.foldl (fun (m : List (Nat × Word)) p =>
    if p.2.kind = 1 ∨ p.2.kind = 2 then kvSet 0 m p.2.addr (forcedWord fs p.2.addr (kvGet 0 pi p.2.addr)) else m) pi

def Lane.pi (l : Lane) (a : Nat) : Word := kvGet 0 l.prg.pi a
def Lane.setPi (l : Lane) (a : Nat) (w : Word) : Lane := { l with prg := { l.prg with pi := kvSet 0 l.prg.pi a w } }
/-- Word `a` as readers see it, forces applied, at the end of step 2. -/
def Lane.piView (l : Lane) (a : Nat) : Word := kvGet 0 l.prg.view a

/-- The readers' view at the end of step 2 (R245). -/
def Lane.viewPi (l : Lane) : Lane :=
  { l with prg := { l.prg with viewPrev := l.prg.view, view := forcedImage l.prg.forces l.prg.pi } }

/-- Reserved words, read zero and not writable (Table PRG-5). -/
def piReserved (a : Nat) : Bool :=
  a == 3 || (decide (0x0C ≤ a) && decide (a ≤ 0x0F)) || (decide (0x21 ≤ a) && decide (a ≤ 0x27)) || (decide (0x30 ≤ a) && decide (a ≤ 0x7F))

/-- Words only step 1 writes. -/
def piReadOnly (a : Nat) : Bool :=
  decide (a < 0x20) || piReserved a || (decide (0x80 ≤ a) && decide (a ≤ 0xFF))

/-! ### The solve result window (Table SOL-10) -/

/-- Value and quality of a window item of the current result; none where the index is out of range. -/
def SolveRec.item (md : NetModel) (r : SolveRec) (kind i : Nat) : Option (Word × Nat) :=
  if kind = 0 then (if i < md.node.length then some (r.p.getD i 0, r.nq.getD i 0) else none)
  else if kind = 1 then (if i < md.node.length then some (r.therm.tnode.getD i 0, r.nq.getD i 0) else none)
  else if kind = 2 then (if i < md.brch.length then some (r.m.getD i 0, r.bq.getD i 0) else none)
  else if kind = 3 then
    (match md.brch[i]? with
      | some b => if hasTheta b then some (r.th.getD i 0, r.bq.getD i 0) else none
      | none => none)
  else if kind = 4 then (if i < md.brch.length then some (r.tprop.getD i 0, r.bq.getD i 0) else none)
  else if kind = 5 then (if i < md.meas.length then some (r.resid.getD i 0, r.zst.getD i 0) else none)
  else if kind = 6 then (if i < md.meas.length then some (r.z.getD i 0, r.zst.getD i 0) else none)
  else none

/-- The quality shows HELD. -/
def itemHeld (kind q : Nat) : Bool := if kind ≤ 1 then q.testBit 2 else if kind ≤ 4 then q.testBit 3 else false

/-- Item of the current result: none where nothing is published or the index is out of range. -/
def Lane.solItem (l : Lane) (kind i : Nat) : Option (Word × Nat) :=
  match l.slv.model, l.slv.cur with
  | some md, some r => r.item md kind i
  | _, _ => none

/-! ### The dispatch result window (Table OPT-11) -/

/-- Value of a window item of a dispatch; none where kind, step or index is out of range. The marginal costs
are rounded after the product and after the quotient (assumption log 12). -/
def DispRec.item (r : DispRec) (kind t i : Nat) : Option Word :=
  let j := r.job
  let n := j.prog.nvar
  let x (k : Nat) : Option Word := some (r.it.x.getD (t * n + k) 0)
  let dh := F32.div (F32.fromNat j.step) (F32.fromNat 60)
  let y (k : Nat) : Option Word := some (F32.div (F32.mul (r.it.y.getD (t * j.prog.nrow + k) 0) j.cscale) dh)
  let g := 2 * j.np + 2 * j.ns
  if j.prog.nstep ≤ t then none
  else match kind with
    | 0 => if i < j.np then x i else none
    | 1 => if i < j.ns then x (2 * j.np + i) else none
    | 2 => if i < j.ns then x (2 * j.np + j.ns + i) else none
    | 3 => if i < 4 then x (g + i) else none
    | 4 => if i < 2 * j.nk then x (g + 4 + i) else none
    | 5 => if i < j.nk then y i else none
    | 6 => if i = 0 then y j.nk else none
    | 7 => if i < j.np then x (j.np + i) else none
    | _ => none

end Sys2Proof.Machine
end

