-- ==== Sys2Proof/Machine/Loops.lean ====
section
/-! DEFINITION. Control loops, Burnish and the trace (09_control_loops.md): sampling, the two laws, modes,
forced destinations, learning, LB, destinations, the trace states, and the loop table image. -/

namespace Sys2Proof.Machine

/-! ### Loops of a lane -/

def Lane.loop (l : Lane) (n : Nat) : Loop := kvGet {} l.loops n
def Lane.setLoop (l : Lane) (n : Nat) (x : Loop) : Lane := { l with loops := kvSet {} l.loops n x }
/-- Loop `n` is a PID or an ONOFF loop. -/
def Lane.hasLoop (l : Lane) (n : Nat) : Bool := decide (n < 512) && (l.loop n).cfg.kind != 0

def clampF (x lo hi : F32) : F32 := if F32.lt x lo then lo else if F32.lt hi x then hi else x
def minus1 : F32 := F32.neg F32.one

namespace LoopRec
def dir (c : LoopRec) : Bool := c.flags.getLsbD 0
def bumpless (c : LoopRec) : Bool := c.flags.getLsbD 1
def dly (c : LoopRec) : Bool := c.flags.getLsbD 2
def trkfrc (c : LoopRec) : Bool := c.flags.getLsbD 3
def burnA (c : LoopRec) : Bool := c.flags.getLsbD 4
def burnB (c : LoopRec) : Bool := c.flags.getLsbD 5
def pvfb (c : LoopRec) : Bool := c.flags.getLsbD 6
/-- Sample time in seconds (R214). -/
def ts (c : LoopRec) : F32 := F32.div (F32.fromNat c.period) (F32.fromNat 1000)
end LoopRec

/-! ### Sources (R217, Table LOP-5) -/

/-- UC of loop `m` as loop `n` reads it in its pass: of this pass on the same engine with a lower number,
else of the end of the previous frame's pass. -/
def Lane.ucOf (l : Lane) (n m : Nat) : F32 :=
  let s := (l.loop m).st
  if m < n ∧ m / 256 = n / 256 then s.uc else s.ucLast

/-- Value of a source for loop `n`, none where it is bad; `at2` is the lane at the end of step 2. -/
def Lane.loopSource (l at2 : Lane) (n code addr : Nat) : Option F32 :=
  match code with
  | 0 =>
    let v := (l.piView (4 + addr % 8)).toNat
    if v < 3600 ∨ 21000 < v then none else some (F32.fromNat v)
  | 1 => let v := kvGet 0 l.prg.atPb addr; if F32.isFin v then some v else none
  | 2 => let v := l.ucOf n addr; if F32.isFin v then some v else none
  | _ =>
    if at2.heat.ok (addr % 256) then some ((at2.heat.hps.getD (addr % 256) {}).quantity (addr / 256 % 256)) else none

/-! ### Destinations (R225) -/

/-- µA of a DEST 1 loop. -/
def Loop.ua (x : Loop) : Nat :=
  match F32.rneI (clampF (F32.fma x.st.ud x.cfg.ogain x.cfg.oofs) F32.zero (F32.fromNat 22000)) with
  | some v => v.toNat
  | none => 0

/-- The forced value of a loop's destination, where it is forced, with the MANOUT it gives (none: MANOUT
keeps its value). -/
def Lane.loopForce (l : Lane) (x : Loop) : Option (Option F32) :=
  let fs := l.prg.forces
  let c := x.cfg
  if c.dest = 1 then
    if forceMask fs (0x28 + c.daddr) = 0 then none
    else
      let v := (forcedWord fs (0x28 + c.daddr) (.ofNat 32 x.ua)).toNat
      let m := F32.div (F32.sub (F32.fromNat (min v 22000)) c.oofs) c.ogain
      some (if F32.isFin m then some m else none)
  else if c.dest = 2 then
    if forceMask fs c.daddr = 0 then none else some (some (forcedWord fs c.daddr x.st.ud))
  else if c.dest = 3 then
    if !(forceMask fs 0x20).getLsbD c.daddr then none
    else some (some (if (forcedWord fs 0x20 0).getLsbD c.daddr then c.ohi else c.olo))
  else none

/-! ### Burnish (R230, R231) -/

/-- One period of a Burnish record: length, lead, source code, gains, memory. -/
structure BurnPer where
  n : Nat
  lead : Nat
  src : Nat
  lg : Word
  q : Word
  idx : Nat
  mem : List (Nat × Word)
  deriving DecidableEq, Repr

def BurnRec.perA (b : BurnRec) : BurnPer := ⟨b.na, b.leada, (b.idxmode.toNat) % 4, b.lga, b.qa, b.idxa, b.memA⟩
def BurnRec.perB (b : BurnRec) : BurnPer := ⟨b.nb, b.leadb, (b.idxmode.toNat) / 4 % 4, b.lgb, b.qb, b.idxb, b.memB⟩
def BurnRec.group (b : BurnRec) : Nat := b.idxmode.toNat / 16 % 4

/-- Index of a sample, NOSYNC and NOVOLT (R230). -/
def Lane.burnIndex (l : Lane) (period tofs vg : Nat) (p : BurnPer) : Nat × Bool × Bool :=
  if p.n = 0 then (0, false, false)
  else if p.src = 0 then ((l.fno / period + tofs) % p.n, false, false)
  else if p.src = 1 then
    let t := l.trailer
    if t.sync = Sync.free ∨ t.sync = Sync.acquire then ((p.idx + 1) % p.n, true, false)
    else
      let nms := (t.nt - (t.nt + 499999) % 1000000 + 499999) / 1000000
      (((nms.toNat + tofs) / period) % p.n, false, false)
  else if !l.on (R.MET.PH32V.idx vg) then (p.idx, false, true)
  else (l.get (R.MET.PH32.idx vg) * p.n / 2 ^ 32, false, false)

def BurnPer.contrib (p : BurnPer) (valid : Bool) : F32 :=
  if p.n = 0 ∨ !valid then F32.zero else kvGet 0 p.mem ((p.idx + p.lead) % p.n)

/-- Learning of one period: the new memory and whether it learned. -/
def BurnPer.learn (p : BurnPer) (rlim e ur olo ohi : F32) (go : Bool) : BurnPer × Bool :=
  let dl := F32.mul p.lg e
  if go ∧ p.n ≠ 0 ∧ !((F32.le ohi ur && F32.lt F32.zero dl) || (F32.le ur olo && F32.lt dl F32.zero)) then
    let v := clampF (F32.fma p.q (kvGet 0 p.mem p.idx) dl) (F32.neg rlim) rlim
    ({ p with mem := kvSet 0 p.mem p.idx v }, true)
  else (p, false)

/-! ### One sample (R220 to R224, R227) -/

/-- Bits of LOOPW offset 0x044. -/
structure LoopFlags where
  pvbad : Bool := false
  osat : Bool := false
  iclamp : Bool := false
  ihold : Bool := false
  rlim : Bool := false
  nonfin : Bool := false
  forced : Bool := false
  blearn : Bool := false
  spbad : Bool := false
  ffbad : Bool := false
  deriving DecidableEq, Repr

def LoopFlags.bits (f : LoopFlags) : BitVec 10 :=
  .ofNat 10 (([f.pvbad, f.osat, f.iclamp, f.ihold, f.rlim, f.nonfin, f.forced, f.blearn, f.spbad, f.ffbad].mapIdx
    fun i b => if b then 2 ^ i else 0).foldl (· + ·) 0)

/-- The setpoint (R220): the state after it and SPBAD. A sample with a bad target is a sample all the same: the next one
is no first sample any more. -/
def LoopState.setpoint (s : LoopState) (c : LoopRec) (target : F32) : LoopState × Bool :=
  if !F32.isFin target then ({ s with first := false }, true)
  else if s.first || !F32.lt F32.zero c.sprate then ({ s with sp := target, first := false }, false)
  else
    let d := F32.mul c.sprate c.ts
    ({ s with sp := clampF target (F32.sub s.sp d) (F32.add s.sp d) }, false)

/-- Rebalancing of the integrator (R227). -/
def LoopState.rebalance (s : LoopState) (c : LoopRec) (ep xs : F32) (rawff : Option F32) : F32 :=
  if !s.coefSeen then s.i
  else
    let kp := c.kp ≠ s.kpPrev
    let kd := c.kd ≠ s.kdPrev
    let i := if kp then F32.fma (F32.neg c.kp) ep (F32.fma s.kpPrev ep s.i) else s.i
    let i := if kd then F32.fma c.kd xs (F32.fma (F32.neg s.kdPrev) xs i) else i
    match rawff with
    | some r =>
      if c.kff ≠ s.kffPrev then
        clampF (F32.fma (F32.neg c.kff) r (F32.fma s.kffPrev r i)) c.ilo c.ihi
      else if kp ∨ kd then clampF i c.ilo c.ihi else i
    | none => if kp ∨ kd then clampF i c.ilo c.ihi else i

/-- End of a sample: UD, UC, flags (R218). UPREV is the previous output of whatever kind (DEDUCED, assumption
log 20). -/
def LoopState.finish (s : LoopState) (dly : Bool) (uc : F32) (f : LoopFlags) (fno : Nat) : LoopState :=
  { s with ud := if dly then s.uc else uc, uc := uc, uprev := uc, flags := f.bits, lsamp := .ofNat 32 fno }

/-- What the law of a loop gives: the state, uc, ur, and the flags. -/
structure LawOut where
  s : LoopState
  uc : F32
  ur : F32
  f : LoopFlags

/-- The PID law (R221, R222) on a good pv, `man` with the manual output. -/
def pidLaw (c : LoopRec) (s : LoopState) (pv rc : F32) (rawff : Option F32) (man : Bool) (f : LoopFlags) : LawOut :=
  let ts := c.ts
  let sg (x : F32) : F32 := F32.mul (if c.dir then minus1 else F32.one) x
  let e := sg (F32.sub s.sp pv)
  let e := if F32.le (F32.abs e) c.db then F32.zero else e
  let ep := sg (F32.fma c.beta s.sp (F32.neg pv))
  let s := if s.reinit then { s with pvp := pv, xd := F32.zero, reinit := false } else s
  let tt := F32.add c.tf ts
  let xd := F32.fma (F32.div c.tf tt) s.xd (F32.div (F32.sub pv s.pvp) tt)
  let xs := sg xd
  let ffv := if c.ffsrc = 255 then F32.zero else match rawff with
    | some r => F32.mul c.kff r
    | none => s.ffv
  let s := if c.bumpless ∧ !man then { s with i := s.rebalance c ep xs (if c.ffsrc = 255 then some F32.zero else rawff) } else s
  let p := F32.mul c.kp ep
  let d := F32.neg (F32.mul c.kd xs)
  let sum (i : F32) : F32 := F32.add (F32.add (F32.add (F32.add p i) d) ffv) rc
  let s := { s with
    pv := pv, e := e, xd := xd, rc := rc, ffv := ffv, pvp := pv, kpPrev := c.kp, kdPrev := c.kd, coefSeen := true
    kffPrev := if rawff.isSome ∨ !s.coefSeen ∨ c.ffsrc = 255 then c.kff else s.kffPrev }
  if man then
    let uc := clampF s.manout c.olo c.ohi
    let i := clampF (F32.sub (F32.sub (F32.sub (F32.sub uc p) d) ffv) rc) c.ilo c.ihi
    ⟨{ s with i := i }, uc, uc, f⟩
  else
    let di := F32.mul (F32.mul c.ki ts) e
    let v0 := sum s.i
    let hold := (F32.le c.ohi v0 && F32.lt F32.zero di) || (F32.le v0 c.olo && F32.lt di F32.zero)
    let di := if hold then F32.zero else di
    let raw := F32.add s.i di
    let i := clampF raw c.ilo c.ihi
    let ur := sum i
    let u1 := clampF ur c.olo c.ohi
    let st := F32.mul c.orate ts
    let uc := if F32.lt F32.zero c.orate then clampF u1 (F32.sub s.uprev st) (F32.add s.uprev st) else u1
    ⟨{ s with i := i }, uc, ur,
      { f with
          ihold := hold, iclamp := F32.lt raw c.ilo || F32.lt c.ihi raw
          osat := F32.lt c.ohi ur || F32.lt ur c.olo
          rlim := F32.lt F32.zero c.orate && (F32.lt u1 (F32.sub s.uprev st) || F32.lt (F32.add s.uprev st) u1) }⟩

/-- The two-position law (R224). -/
def onoffLaw (c : LoopRec) (s : LoopState) (pv : F32) (man : Bool) (f : LoopFlags) : LawOut :=
  let e := F32.mul (if c.dir then minus1 else F32.one) (F32.sub s.sp pv)
  let uc := if man then clampF s.manout c.olo c.ohi
    else if F32.lt c.db e then c.ohi
    else if F32.lt e (F32.neg c.db) then c.olo
    else s.uprev
  ⟨{ s with pv := pv, e := e, reinit := false }, uc, uc, f⟩

/-- The RWS words of a Burnish record return to the configuration; memories and indices stay. -/
def BurnRec.cold (b c : BurnRec) : BurnRec :=
  { b with leada := c.leada, leadb := c.leadb, lga := c.lga, lgb := c.lgb, qa := c.qa, qb := c.qb, rlim := c.rlim, lrn := c.lrn }

/-- Cold values, at a cold start and at the next sample after an SRST of LOOP (R228, R229). No coefficient counts as
used before, so nothing is rebalanced (assumption log 109). -/
def Loop.cold (x : Loop) : Loop :=
  let c := x.cfg0
  let u := clampF c.man0 c.olo c.ohi
  { x with
      cfg := c
      burn := match x.burn, x.burn0 with
        | some b, some b0 => some (b.cold b0)
        | b, _ => b
      st := { x.st with
        mode := c.mode0, manout := c.man0, psp := c.sploc, dsp := c.sploc, i := clampF F32.zero c.ilo c.ihi
        uprev := u, ud := u, uc := u, reinit := true, first := true, coefSeen := false, srst := false } }

/-- A loop of an installed table. -/
def Loop.install (c : LoopRec) (b : Option BurnRec) : Loop :=
  let x : Loop := ({ cfg := c, burn := b, cfg0 := c, burn0 := b } : Loop).cold
  { x with st := { x.st with ucLast := x.st.uc } }

/-- Sample of loop `n` in the current frame. -/
def Lane.loopSample (at2 : Lane) (l : Lane) (n : Nat) : Lane :=
  let x := if (l.loop n).st.srst then (l.loop n).cold else l.loop n
  let l := l.irqIf (decide (x.st.mode ≠ (l.loop n).st.mode)) R.LOOP.I_MODECHG
  let c := x.cfg
  let s := x.st
  if s.mode = 0 then l.setLoop n { x with st := { s with reinit := true, first := true } }
  else
    let frc := l.loopForce x
    let track := c.trkfrc && frc.isSome
    let s := match frc with
      | some (some m) => if c.trkfrc then { s with manout := m } else s
      | _ => s
    let man := decide (s.mode = 1) || track
    let f0 : LoopFlags := { forced := frc.isSome }
    -- Burnish indices
    let bi := x.burn.map fun (b : BurnRec) =>
      let a := l.burnIndex c.period b.tofs b.group b.perA
      let z := l.burnIndex c.period b.tofs b.group b.perB
      ({ b with idxa := a.1, idxb := z.1, nosyncA := a.2.1, nosyncB := z.2.1, novoltA := a.2.2, novoltB := z.2.2 } : BurnRec)
    let l := match x.burn, bi with
      | some o, some b =>
        (l.irqIf (b.nosyncA || b.nosyncB) R.BURN.I_NOSYNC).irqIf
          ((b.novoltA && !o.novoltA) || (b.novoltB && !o.novoltB)) R.BURN.I_NOVOLT
      | _, _ => l
    let target := match c.spsrc with
      | 0 => c.sploc
      | 1 => s.dsp
      | 2 => s.psp
      | _ => l.ucOf n c.spaddr
    let r := s.setpoint c target
    let rawff := if c.ffsrc = 255 then none else l.loopSource at2 n c.ffsrc c.ffaddr
    let f1 := { f0 with spbad := r.2, ffbad := decide (c.ffsrc ≠ 255) && rawff.isNone }
    let pvOf := (l.loopSource at2 n c.pvsrc c.pvaddr).map fun r => F32.fma r c.pvgain c.pvofs
    match pvOf.filter F32.isFin with
    | none =>
      let uc := if c.pvfb then clampF s.manout c.olo c.ohi else s.uprev
      let was := s.flags.getLsbD 0
      let s := ({ s with reinit := true, first := false }).finish c.dly uc { f1 with pvbad := true } l.fno
      (l.setLoop n { x with st := s, burn := bi }).irqIf (!was) R.LOOP.I_PVBAD
    | some pv =>
      let rc := match bi with
        | some b => F32.add (b.perA.contrib (!b.novoltA)) (b.perB.contrib (!b.novoltB))
        | none => F32.zero
      let o := if c.kind = 2 then onoffLaw c r.1 pv man f1 else pidLaw c r.1 pv rc rawff man f1
      if !(F32.isFin o.ur && F32.isFin o.uc) then
        let s := s.finish c.dly s.uprev { f1 with nonfin := true } l.fno
        (l.setLoop n { x with st := s, burn := bi }).irq R.LOOP.I_NONFIN
      else
        let go := decide (s.mode = 2) && !track
        let bl := bi.map fun (b : BurnRec) =>
          let a := b.perA.learn b.rlim o.s.e o.ur c.olo c.ohi (go && b.lrn.getLsbD 0 && !b.novoltA)
          let z := b.perB.learn b.rlim o.s.e o.ur c.olo c.ohi (go && b.lrn.getLsbD 1 && !b.novoltB)
          (({ b with memA := a.1.mem, memB := z.1.mem } : BurnRec), a.2 || z.2)
        let learned := match bl with
          | some (_, y) => y
          | none => false
        let s := o.s.finish c.dly o.uc { o.f with blearn := learned } l.fno
        l.setLoop n { x with st := s, burn := bl.map fun (y : BurnRec × Bool) => y.1 }

/-! ### PB, the pass and LB (R215, Table LOP-6) -/

/-- A change of MODE raises MODECHG; one that leaves or enters OFF acts at the next sample. -/
def Lane.setLoopMode (l : Lane) (n m : Nat) : Lane :=
  let x := l.loop n
  (l.setLoop n { x with st := { x.st with mode := m } }).irqIf (decide (x.st.mode ≠ m)) R.LOOP.I_MODECHG

/-- What PB takes up from both engines: E5's setting stands over E4's (R226). -/
def LoopState.pend (s : LoopState) : LoopPend :=
  { psp := s.pend5.psp.orElse fun _ => s.pend4.psp, man := s.pend5.man.orElse fun _ => s.pend4.man
    mode := s.pend5.mode.orElse fun _ => s.pend4.mode }

/-- PB: what programs wrote to loops takes effect, and loops see the image with the feed copy-outs. -/
def Lane.passPb (l : Lane) : Lane :=
  let l := l.loops.foldl (fun (l : Lane) (p : Nat × Loop) =>
    let q := p.2.st.pend
    let l := match q.mode with
      | some m => l.setLoopMode p.1 m
      | none => l
    let x := l.loop p.1
    l.setLoop p.1 { x with st := { x.st with
      psp := q.psp.getD x.st.psp, manout := q.man.getD x.st.manout, pend4 := {}, pend5 := {} } }) l
  { l with prg := { l.prg with atPb := forcedImage l.prg.forces l.prg.pi } }

/-- Frames on of a DEST 3 loop in its current cycle (R225). -/
def Loop.cycleStep (x : Loop) (fno : Nat) : Loop :=
  if x.cfg.dest = 3 ∧ x.cfg.cyc ≠ 0 ∧ fno % x.cfg.cyc = x.cfg.phase % x.cfg.cyc then
    let on := match F32.rneI (F32.mul (clampF x.st.ud F32.zero F32.one) (F32.fromNat x.cfg.cyc)) with
      | some v => v.toNat
      | none => 0
    { x with st := { x.st with onFrames := some on } }
  else x

/-- FORCED shows the force on a loop's destination in every frame, whether or not it samples (R225). -/
def Lane.showForced (l : Lane) (n : Nat) : Lane :=
  let x := l.loop n
  let f : BitVec 10 := if (l.loopForce x).isSome then x.st.flags ||| 64 else x.st.flags &&& ~~~64
  l.setLoop n { x with st := { x.st with flags := f } }

/-- The pass of E6 and E7 with LB: samples in ascending order, DEST 2 words, the counts of LOOP. An engine that does not
run computes none of its loops. -/
def Lane.loopPass (at2 : Lane) (l : Lane) : Lane :=
  let nums := (l.loops.filter fun p => p.2.cfg.kind != 0 && l.engineRuns (6 + p.1 / 256)).map (·.1)
  let l := if l.enabled 0x18 then
      nums.foldl (fun (l : Lane) n =>
        let c := (l.loop n).cfg
        if l.fno % c.period = c.phase then l.loopSample at2 n else l) l
    else nums.foldl (fun (l : Lane) n =>
      let x := l.loop n
      l.setLoop n { x with st := { x.st with reinit := true, first := true } }) l
  let l := nums.foldl (fun (l : Lane) n =>
    let x := (l.loop n).cycleStep l.fno
    let l := (l.setLoop n { x with st := { x.st with ucLast := x.st.uc } }).showForced n
    if x.cfg.dest = 2 then l.setPi x.cfg.daddr x.st.ud else l) l
  let count (p : LoopState → Bool) : Nat := (nums.filter fun n => p (l.loop n).st).length
  (((l.put R.LOOP.NAUTO (count fun s => s.mode == 2)).put R.LOOP.NMAN (count fun s => s.mode == 1)).put R.LOOP.NPVBAD
    (count fun s => s.flags.getLsbD 0)).put R.LOOP.NSAT (count fun s => s.flags.getLsbD 1)

/-- Analog output of a loop in this frame: output number and µA, before forces. -/
def Lane.loopAo (l : Lane) : List (Nat × Nat) :=
  l.loops.filterMap fun p => if p.2.cfg.kind ≠ 0 ∧ p.2.cfg.dest = 1 then some (p.2.cfg.daddr, p.2.ua) else none

/-- Digital output of a loop in this frame (R225). -/
def Lane.loopDo (l : Lane) : List (Nat × Bool) :=
  l.loops.filterMap fun p =>
    let c := p.2.cfg
    if c.kind ≠ 0 ∧ c.dest = 3 then
      some (c.daddr, match p.2.st.onFrames with
        | some on => decide ((l.fno + c.cyc - c.phase % c.cyc) % c.cyc < on)
        | none => false)
    else none

/-- Reads of Table LOP-8. -/
def LoopState.quantity (s : LoopState) (q : Nat) : Word :=
  [s.pv, s.sp, s.e, s.uc, s.ud, s.i, s.xd, s.rc].getD q 0

/-! ### The trace (R233 to R235) -/

def TrcState.code : TrcState → Nat
  | .idle => 0 | .fill => 1 | .armed => 2 | .post => 3 | .done => 4 | .roll => 5

def Lane.trcState (l : Lane) : Nat := l.get R.TRC.STATE
/-- Moves the trace; DONE raises its event. -/
def Lane.toTrc (l : Lane) (s : TrcState) : Lane :=
  (l.put R.TRC.STATE s.code).irqIf (decide (s = TrcState.done)) R.TRC.I_DONE

def Lane.clearTrc (l : Lane) : Lane :=
  ({ l with trc := {} }).put R.TRC.NSAMP 0 |>.put R.TRC.TPOS 0x1FFFF

def Lane.trcRecording (l : Lane) : Bool := decide (l.trcState = 1 ∨ l.trcState = 2 ∨ l.trcState = 3 ∨ l.trcState = 5)

/-- CMD.ARM: FILL with cleared buffers, ARMED at once where PRE is 0. -/
def Lane.trcArm (l : Lane) : Lane :=
  if l.trcRecording then l.post 0x1B08
  else (l.clearTrc).toTrc (if l.get R.TRC.PRE = 0 then .armed else .fill)
def Lane.trcRoll (l : Lane) : Lane := if l.trcRecording then l.post 0x1B08 else (l.clearTrc).toTrc .roll
def Lane.trcFire (l : Lane) : Lane :=
  if l.trcState = 1 ∨ l.trcState = 2 then { l with trc := { l.trc with fire := true } } else l
/-- CMD.STOP ends a rolling capture at once, a recording at its next trace sample (Table LOP-9). -/
def Lane.trcStop (l : Lane) : Lane :=
  if l.trcState = 5 then (l.put R.TRC.TPOS 0x1FFFF).toTrc .done
  else if l.trcRecording then { l with trc := { l.trc with stop := true } } else l

/-- Values of the 16 channels; a channel not enabled records 0. -/
def Lane.trcValues (l : Lane) : List Word :=
  (List.range 16).map fun c =>
    if (l.get R.TRC.CHEN).testBit c then (l.loop (l.get (R.TRC.LOOP.idx c))).st.quantity (l.get (R.TRC.QTY.idx c)) else 0

/-- The trigger condition of Table LOP-9. -/
def Lane.trcTrig (l : Lane) (cur : Word) : Bool :=
  let lv := l.getW R.TRC.LEVEL
  let rise := match l.trc.prev with
    | some p => F32.lt p lv && F32.le lv cur
    | none => false
  let fall := match l.trc.prev with
    | some p => F32.lt lv p && F32.le cur lv
    | none => false
  match l.get R.TRC.TKIND with
  | 0 => rise
  | 1 => fall
  | 2 => rise || fall
  | 3 => decide (l.get64 R.TRC.TRGFNO_L R.TRC.TRGFNO_H ≤ l.fno)
  | _ => false

/-- The newest `n` samples. -/
def keepLast (n : Nat) (b : List (List Word)) : List (List Word) := b.drop (b.length - n)

/-- A trace sample after LB. -/
def Lane.traceStep (l : Lane) : Lane :=
  let st := l.trcState
  if !(l.enabled 0x18 && l.enabled 0x1B) ∨ l.fno % (max 1 (l.get R.TRC.TDIV)) ≠ 0 ∨ st = 0 ∨ st = 4 then l
  else if l.trc.stop then
    ({ l with trc := { l.trc with stop := false, fire := false } }).toTrc .done
  else
    let v := l.trcValues
    let cur := v.getD (l.get R.TRC.TRGCH) 0
    let pre := l.get R.TRC.PRE
    let fire := l.trc.fire
    let trig := decide (st = 1 ∨ st = 2) && (fire || (decide (st = 2) && l.trcTrig cur))
    let before := if trig then (if st = 2 then (keepLast pre l.trc.buf).length else l.trc.buf.length) else l.trc.before
    let buf := if trig ∧ st = 2 then keepLast pre l.trc.buf ++ [v]
      else if st = 2 then keepLast pre (l.trc.buf ++ [v])
      else keepLast 65536 (l.trc.buf ++ [v])
    let l : Lane := { l with trc := { l.trc with buf := buf, before := before, prev := some cur, fire := false } }
    let l := l.put R.TRC.NSAMP buf.length
    let l := if trig then
        ((l.put64 R.TRC.TFNO_L R.TRC.TFNO_H l.fno).put R.TRC.TPOS before).irq R.TRC.I_TRIG
      else l
    let st := if trig then 3 else st
    let l := l.put R.TRC.STATE st
    if st = 1 ∧ pre ≤ buf.length then l.toTrc .armed
    else if st = 3 ∧ 65536 ≤ buf.length then l.toTrc .done
    else l

def Lane.readTrc (l : Lane) (off : Nat) : Nat :=
  if 0x400 ≤ off ∧ off < 0x800 then
    ((l.trc.buf.getD (l.get R.TRC.RBASE + (off - 0x400) / 4) []).getD (l.get R.TRC.RCH) 0).toNat
  else (l.reg (0x1B000 + off)).toNat

/-! ### The windows LOOPW and BURN (R236, Tables LOP-11 and LOP-12) -/

/-- RWS reals of LOOPW from offset 0x09C, in order. -/
def LoopRec.reals (c : LoopRec) : List Word :=
  [c.pvgain, c.pvofs, c.sploc, c.sprate, c.kp, c.ki, c.kd, c.tf, c.beta, c.db, c.kff, c.ilo, c.ihi, c.olo, c.ohi, c.orate]

def LoopRec.setReal (c : LoopRec) (k : Nat) (w : Word) : LoopRec :=
  match k with
  | 0 => { c with pvgain := w } | 1 => { c with pvofs := w } | 2 => { c with sploc := w } | 3 => { c with sprate := w }
  | 4 => { c with kp := w } | 5 => { c with ki := w } | 6 => { c with kd := w } | 7 => { c with tf := w }
  | 8 => { c with beta := w } | 9 => { c with db := w } | 10 => { c with kff := w } | 11 => { c with ilo := w }
  | 12 => { c with ihi := w } | 13 => { c with olo := w } | 14 => { c with ohi := w } | _ => { c with orate := w }

def nonneg (w : Word) : Bool := F32.le F32.zero w
def finNonneg (w : Word) : Bool := F32.isFin w && nonneg w

/-- Range of real `k` (Table LOP-2, R226). -/
def LoopRec.realOk (c : LoopRec) (k : Nat) (w : Word) : Bool :=
  match k with
  | 0 | 1 | 2 | 10 => F32.isFin w
  | 3 | 9 | 15 => nonneg w
  | 4 | 5 | 6 | 7 => finNonneg w
  | 8 => nonneg w && F32.le w F32.one
  | 11 => F32.isFin w && F32.le w c.ihi
  | 12 => F32.isFin w && F32.le c.ilo w
  | 13 => F32.isFin w && F32.lt w c.ohi
  | _ => F32.isFin w && F32.lt c.olo w

/-- The offset names a word of LOOPW that a write may change. -/
def loopwWritable (off : Nat) : Bool :=
  off == 0x070 || off == 0x074 || off == 0x084 || (decide (0x09C ≤ off) && decide (off ≤ 0x0D8))

/-- A window write to loop `n`: the lane and the low status byte, 0 where it applies, 0x40 NOLOOP. -/
def Lane.writeLoopw (l : Lane) (n off : Nat) (w : Word) : Lane × Nat :=
  let x := l.loop n
  if !l.hasLoop n then (l, 0x40)
  else if off = 0x070 then (if bits w 1 0 = 3 then (l, 9) else (l.setLoopMode n (bits w 1 0), 0))
  else if off = 0x074 then
    (if F32.isFin w then (l.setLoop n { x with st := { x.st with manout := w } }, 0) else (l, 9))
  else if off = 0x084 then
    let v := w.toNat / 2 ^ 24
    if 3 < v ∨ (v = 3 ∧ !(l.hasLoop x.cfg.spaddr && x.cfg.spaddr != n)) then (l, 9)
    else (l.setLoop n { x with cfg := { x.cfg with spsrc := v }, st := { x.st with first := x.st.first || v != x.cfg.spsrc } }, 0)
  else
    let k := (off - 0x09C) / 4
    if x.cfg.realOk k w then (l.setLoop n { x with cfg := x.cfg.setReal k w }, 0) else (l, 9)

def Lane.readLoopw (l : Lane) (off : Nat) : Nat :=
  let n := l.get R.LOOPW.LSEL
  let x := l.loop n
  let c := x.cfg
  let s := x.st
  let ws := [s.pv, s.sp, s.e, s.uc, s.ud, s.i, s.xd, s.rc, s.dsp, s.psp]
  if off = 0x044 then s.flags.toNat
  else if 0x048 ≤ off ∧ off ≤ 0x06C then (ws.getD ((off - 0x048) / 4) 0).toNat
  else if off = 0x070 then s.mode
  else if off = 0x074 then s.manout.toNat
  else if off = 0x078 then s.lsamp.toNat
  else if off = 0x080 then (if c.kind = 0 then 0 else c.period * 2 ^ 16 + c.flags.toNat * 256 + c.kind)
  else if off = 0x084 then c.spsrc * 2 ^ 24 + c.pvsrc * 2 ^ 16 + c.phase
  else if off = 0x088 then (if c.kind = 0 then 0 else c.cyc * 2 ^ 16 + c.dest * 256 + c.ffsrc)
  else if off = 0x08C then c.pvaddr
  else if off = 0x090 then c.spaddr
  else if off = 0x094 then c.ffaddr
  else if off = 0x098 then c.daddr
  else if 0x09C ≤ off ∧ off ≤ 0x0D8 then (c.reals.getD ((off - 0x09C) / 4) 0).toNat
  else if off = 0x0DC then c.man0.toNat
  else if off = 0x0E0 then c.ogain.toNat
  else if off = 0x0E4 then c.oofs.toNat
  else if off = 0x0E8 then c.mode0
  else (l.reg (0x19000 + off)).toNat

def burnWritable (off : Nat) : Bool :=
  off == 0x048 || (decide (0x05C ≤ off) && decide (off ≤ 0x074))

/-- Range of a Burnish real (Table LOP-3): gains 0 to 2, factors 0.5 to 1, RLIM positive. -/
def burnRealOk (off : Nat) (w : Word) : Bool :=
  if off ≤ 0x060 then finNonneg w && F32.le w (F32.fromNat 2)
  else if off ≤ 0x068 then F32.le (F32.ofScaled 1 (-1)) w && F32.le w F32.one
  else F32.isFin w && F32.lt F32.zero w

def Lane.setBurn (l : Lane) (n : Nat) (b : BurnRec) : Lane := l.setLoop n { l.loop n with burn := some b }

/-- A window write to the Burnish record of loop `n`; 0x40 NOBURN. -/
def Lane.writeBurn (l : Lane) (n off : Nat) (w : Word) : Lane × Nat :=
  match (l.loop n).burn with
  | none => (l, 0x40)
  | some b =>
    if off = 0x048 then
      let a := w.toNat % 65536
      let z := w.toNat / 65536
      let ok (v k : Nat) : Bool := decide (v < max 1 k)
      if ok a b.na && ok z b.nb then (l.setBurn n { b with leada := a, leadb := z }, 0) else (l, 9)
    else if off = 0x070 then (l.setBurn n { b with lrn := w.setWidth 2 }, 0)
    else if off = 0x074 then
      (l.setBurn n { b with memA := if w.getLsbD 0 then [] else b.memA, memB := if w.getLsbD 1 then [] else b.memB }, 0)
    else if !burnRealOk off w then (l, 9)
    else if off = 0x05C then (l.setBurn n { b with lga := w }, 0)
    else if off = 0x060 then (l.setBurn n { b with lgb := w }, 0)
    else if off = 0x064 then (l.setBurn n { b with qa := w }, 0)
    else if off = 0x068 then (l.setBurn n { b with qb := w }, 0)
    else (l.setBurn n { b with rlim := w }, 0)

def Lane.readBurn (l : Lane) (off : Nat) : Nat :=
  let x := l.loop (l.get R.BURN.BSEL)
  match x.burn with
  | none => if off = 0x040 ∨ off < 0x040 ∨ off = 0x080 ∨ off = 0x084 then (l.reg (0x1A000 + off)).toNat else 0
  | some b =>
    let bit (y : Bool) (v : Nat) : Nat := if y then v else 0
    let p := if l.on R.BURN.WPER then b.perB else b.perA
    if off = 0x044 then
      1 + bit x.cfg.burnA 2 + bit x.cfg.burnB 4 + bit b.novoltA 8 + bit b.novoltB 16 + bit b.nosyncA 32 + bit b.nosyncB 64
    else if off = 0x048 then b.leadb * 65536 + b.leada
    else if off = 0x04C then b.na
    else if off = 0x050 then b.nb
    else if off = 0x054 then b.idxa
    else if off = 0x058 then b.idxb
    else if 0x05C ≤ off ∧ off ≤ 0x06C then ([b.lga, b.lgb, b.qa, b.qb, b.rlim].getD ((off - 0x05C) / 4) 0).toNat
    else if off = 0x070 then b.lrn.toNat
    else if off = 0x074 then 0
    else if off = 0x078 then b.idxmode.toNat % 64
    else if off = 0x07C then b.tofs
    else if 0x400 ≤ off ∧ off < 0x800 then
      (if p.n = 0 then 0 else (kvGet 0 p.mem ((l.get R.BURN.WBASE + (off - 0x400) / 4) % p.n)).toNat)
    else (l.reg (0x1A000 + off)).toNat

/-! ### The loop table image (R212, R213) -/

def readLoopRec (b : List Byte) (o : Nat) : LoopRec :=
  let w (k : Nat) : Word := wordAt b (o + k)
  { kind := u8At b o, flags := .ofNat 8 (u8At b (o + 1)), period := u16At b (o + 2), phase := u16At b (o + 4)
    pvsrc := u8At b (o + 6), spsrc := u8At b (o + 7), ffsrc := u8At b (o + 8), dest := u8At b (o + 9)
    cyc := u16At b (o + 10), pvaddr := u32At b (o + 12), spaddr := u32At b (o + 16), ffaddr := u32At b (o + 20)
    daddr := u32At b (o + 24), pvgain := w 28, pvofs := w 32, sploc := w 36, sprate := w 40, kp := w 44, ki := w 48
    kd := w 52, tf := w 56, beta := w 60, db := w 64, kff := w 68, ilo := w 72, ihi := w 76, olo := w 80, ohi := w 84
    orate := w 88, man0 := w 92, ogain := w 96, oofs := w 100, mode0 := u8At b (o + 104) }

def readBurnRec (b : List Byte) (o : Nat) : Nat × BurnRec :=
  (u16At b o,
    { idxmode := .ofNat 8 (u8At b (o + 2)), na := u32At b (o + 4), nb := u32At b (o + 8), leada := u16At b (o + 12)
      leadb := u16At b (o + 14), lga := wordAt b (o + 16), lgb := wordAt b (o + 20), qa := wordAt b (o + 24)
      qb := wordAt b (o + 28), rlim := wordAt b (o + 32), tofs := u32At b (o + 36) })

def allZero (l : List Byte) : Bool := l.all fun x => x == 0

/-- Zero fields of a record (check LFORMAT). -/
def loopZero (b : List Byte) (o : Nat) : Bool :=
  let c := readLoopRec b o
  if c.kind = 0 then allZero (sliceB b o 112)
  else !c.flags.getLsbD 7 && (c.dest == 3 || c.cyc == 0) && (c.spsrc == 3 || c.spaddr == 0) && allZero (sliceB b (o + 105) 7)

def LoopRec.valueOk (c : LoopRec) : Bool :=
  c.kind == 0 ||
    (decide (c.kind ≤ 2) && decide (1 ≤ c.period) && decide (c.phase < c.period) && decide (c.pvsrc ≤ 3) && decide (c.spsrc ≤ 3)
      && (decide (c.ffsrc ≤ 3) || c.ffsrc == 255) && decide (c.dest ≤ 3) && (c.dest != 3 || decide (2 ≤ c.cyc))
      && ((List.range 16).all fun k => c.realOk k (c.reals.getD k 0))
      && (c.dest != 1 || (F32.isFin c.ogain && F32.isFin c.oofs)) && decide (c.mode0 ≤ 2))

def BurnRec.valueOk (b : BurnRec) (c : LoopRec) : Bool :=
  let len (on : Bool) (n : Nat) : Bool := if on then decide (2 ≤ n) && decide (n ≤ 65536) else n == 0
  b.perA.src != 3 && b.perB.src != 3 && len c.burnA b.na && len c.burnB b.nb
    && decide (b.leada < max 1 b.na) && decide (b.leadb < max 1 b.nb) && burnRealOk 0x05C b.lga && burnRealOk 0x060 b.lgb
    && burnRealOk 0x064 b.qa && burnRealOk 0x068 b.qb && burnRealOk 0x06C b.rlim

def srcOk (code addr : Nat) : Bool :=
  match code with
  | 0 => decide (addr < 8)
  | 1 => decide (addr < 65536)
  | 2 => decide (addr < 512)
  | 3 => decide (addr % 256 < 16) && decide (addr / 256 < 4)
  | _ => true

/-- Check LINDEX of one record. -/
def LoopRec.indexOk (cs : List LoopRec) (n : Nat) (c : LoopRec) : Bool :=
  c.kind == 0 ||
    (srcOk c.pvsrc c.pvaddr && srcOk c.ffsrc c.ffaddr
      && (c.dest != 1 || decide (c.daddr < 8)) && (c.dest != 3 || decide (c.daddr < 16))
      && (c.dest != 2 || (decide (0x8000 ≤ c.daddr) && decide (c.daddr ≤ 0xFFFF)))
      && (c.spsrc != 3 || (decide (c.spaddr < 512) && c.spaddr != n && ((cs[c.spaddr]?).map fun (x : LoopRec) => x.kind != 0).getD false)))

def noDup : List (Nat × Nat) → Bool
  | [] => true
  | x :: l => !l.contains x && noDup l

/-- The loop table image checked in the order of Table LOP-4; `doown` and `aoown` are the program's output
map. Answers the loops, or the status code. -/
def loopLoad (doown aoown : Nat) (b : List Byte) : Except Nat (List (Nat × Loop)) :=
  let nb := u16At b 6
  let len := 57380 + 40 * nb
  let cs := (List.range 512).map fun i => readLoopRec b (32 + 112 * i)
  let bs := (List.range nb).map fun i => readBurnRec b (32 + 57344 + 40 * i)
  let at0 (n : Nat) : LoopRec := (cs[n]?).getD {}
  let outs := (cs.filter fun c => c.kind != 0 && (c.dest == 1 || c.dest == 3)).map fun c => (c.dest, c.daddr)
  let rec_ascending := (bs.zip (bs.drop 1)).all fun p => decide (p.1.1 < p.2.1)
  if b.length ≠ len ∨ u32At b 0 ≠ 0x504F4F4C ∨ u16At b 4 ≠ 1 ∨ 512 < nb ∨ u32At b 8 ≠ len ∨ !allZero (sliceB b 12 20)
      ∨ u32At b (len - 4) ≠ (crc32c (b.take (len - 4))).toNat
      ∨ !(List.range 512).all (fun i => loopZero b (32 + 112 * i))
      ∨ !(List.range nb).all (fun i => decide (u8At b (32 + 57344 + 40 * i + 2) < 64) && u8At b (32 + 57344 + 40 * i + 3) == 0) then .error 0x1840
  else if !cs.all LoopRec.valueOk || !bs.all (fun p => p.2.valueOk (at0 p.1)) then .error 0x1841
  else if !(cs.mapIdx fun i c => c.indexOk cs i).all id then .error 0x1842
  else if !noDup outs || outs.any (fun p => if p.1 = 1 then aoown.testBit p.2 else doown.testBit p.2) then .error 0x1843
  else if 16777216 < bs.foldl (fun n p => n + p.2.na + p.2.nb) 0 then .error 0x1844
  else if !rec_ascending || bs.any (fun p => decide (512 ≤ p.1) || (at0 p.1).kind != 1 || !((at0 p.1).burnA || (at0 p.1).burnB))
      || (cs.mapIdx fun i (c : LoopRec) => (c.burnA || c.burnB) && !bs.any (fun p => p.1 == i)).any id then .error 0x1845
  else .ok ((cs.mapIdx fun i (c : LoopRec) => (i, c)).filterMap fun p =>
    if p.2.kind = 0 then none
    else some (p.1, Loop.install p.2 ((bs.find? fun q => q.1 == p.1).map (·.2))))

/-- A register as the presets of the configuration will leave it. -/
def Lane.presetReg (l : Lane) (k : Nat) : Word := match (l.presets.filter fun p => p.1 == k).getLast? with
  | some p => p.2
  | none => l.reg k

/-- Trace channels that record a loop of engine E6 (0) or E7 (1), as the configuration presets them (R216). -/
def Lane.traceChannels (l : Lane) (e : Nat) : Nat :=
  ((List.range 16).filter fun c =>
    (l.presetReg R.TRC.CHEN.key).getLsbD c && bits (l.presetReg (R.TRC.LOOP.idx c).key) 8 8 == e).length

/-- The LOOP registers of an installed table (R216). -/
def Lane.loopRegs (l : Lane) : Lane :=
  let cost (e : Nat) : Nat := 60 * l.traceChannels e + l.loops.foldl (fun n p =>
    if p.1 / 256 ≠ e then n
    else n + (if p.2.cfg.kind = 1 then 480 else 160) + 180 * ((if p.2.cfg.burnA then 1 else 0) + (if p.2.cfg.burnB then 1 else 0))) 0
  let bs := l.loops.filterMap fun p => p.2.burn
  let l := (l.put R.LOOP.NLOOP l.loops.length).put R.LOOP.NBURN bs.length
  let l := l.put R.LOOP.BPOOL (bs.foldl (fun n b => n + b.na + b.nb) 0)
  (l.put R.LOOP.WCP6 ((cost 0 + 1199) / 1200)).put R.LOOP.WCP7 ((cost 1 + 1199) / 1200)

/-- LOOP.LDMISS counts a frame withheld because E6 or E7 had not handed off by LD (R219). -/
def Lane.loopLate (l : Lane) : Lane := (l.inc R.LOOP.LDMISS).irq R.LOOP.I_LDMISS

/-- First entry of the Burnish window: 0 to N − 1 of the period shown (Table LOP-12), only 0 where none is. -/
def Lane.wbaseOk (l : Lane) (v : Nat) : Bool :=
  match (l.loop (l.get R.BURN.BSEL)).burn with
  | some b => decide (v < max 1 (if l.on R.BURN.WPER then b.nb else b.na))
  | none => v == 0

/-- SRST of LOOP (R229): every memory is cleared, and each loop takes its cold values at its next sample. -/
def Lane.loopReset (l : Lane) : Lane :=
  { l with loops := l.loops.map fun p =>
      (p.1, { p.2 with
        st := { p.2.st with srst := true }
        burn := p.2.burn.map fun (b : BurnRec) => { b with memA := [], memB := [] } }) }

/-! ### Retained loop data (R228, Table PRG-13) -/

def Loop.retainBytes (n : Nat) (x : Loop) : List Byte :=
  let s := x.st
  leBytes 2 n ++ leBytes 1 s.mode ++ leBytes 1 x.cfg.spsrc ++ wordsLe [s.manout, s.psp, s.dsp, s.sp, s.i, s.uprev, s.ud]
    ++ wordsLe x.cfg.reals ++
    (match x.burn with
      | some b => leBytes 2 b.leada ++ leBytes 2 b.leadb ++ wordsLe [b.lga, b.lgb, b.qa, b.qb, b.rlim] ++ leBytes 4 b.lrn.toNat
      | none => [])

/-- A loop after a warm restart, from its record at offset `o`; UC shows UPREV (assumption log 20). One restored in OFF
leaves it with a first sample (R220). -/
def Loop.restore (x : Loop) (b : List Byte) (o : Nat) : Loop :=
  let w (k : Nat) : Word := wordAt b (o + k)
  let c := (List.range 16).foldl (fun (c : LoopRec) k => c.setReal k (w (32 + 4 * k))) { x.cfg with spsrc := u8At b (o + 3) }
  { x with
      cfg := c
      st := { mode := u8At b (o + 2), manout := w 4, psp := w 8, dsp := w 12, sp := w 16, i := w 20, uprev := w 24, ud := w 28
              uc := w 24, ucLast := w 24, first := u8At b (o + 2) == 0 }
      burn := x.burn.map fun (r : BurnRec) => { r with
        leada := u16At b (o + 96), leadb := u16At b (o + 98), lga := w 100, lgb := w 104, qa := w 108, qb := w 112
        rlim := w 116, lrn := .ofNat 2 (u32At b (o + 120)), memA := [], memB := [] } }

def Loop.retainLen (x : Loop) : Nat := if x.burn.isSome then 124 else 96

end Sys2Proof.Machine
end

