-- ==== Sys2Proof/Machine/Patina.lean ====
section
/-! DEFINITION. Patina recorder (15_patina_recorder.md): configuration, sampling, pages, retention, recall,
the inspection summary and the PAT page. -/

namespace Sys2Proof.Machine

/-! ### Configuration (R341, R321) -/

def patParts (b : List Byte) : List PatPart :=
  (List.range 8).map fun p => { size := u16At b (8 * p), iper := u32At b (8 * p + 4) }

def patChan (b : List Byte) (o : Nat) : PatChan :=
  { src := u8At b o, part := u8At b (o + 1), sper := u16At b (o + 2), addr := u32At b (o + 4), lo := wordAt b (o + 8), w := wordAt b (o + 12) }

/-- ADDR lies in the range Table PAT-2 gives the source. -/
def patAddrOk (src a : Nat) : Bool :=
  if src ≤ 1 then decide (a < 65536)
  else if src = 2 then decide (a < 4096) && decide (a % 256 ≤ 17)
  else if src = 3 then decide (a < 4096) && decide (a % 256 ≤ 4)
  else if src = 4 then decide (a < 2 ^ 20) && decide (a / 65536 ≤ 7) && decide (a % 65536 < 512)
  else if src = 5 then decide (a < 8)
  else decide (a < 2 ^ 19) && decide (a / 65536 ≤ 6)

def patChanOk (ps : List PatPart) (b : List Byte) (o : Nat) : Bool :=
  let c := patChan b o
  let p : PatPart := ps.getD c.part {}
  decide (c.src ≤ 6) && decide (c.part < 8) && decide (1 ≤ c.sper) && decide (c.sper ≤ 60000) && patAddrOk c.src c.addr
    && F32.isFin c.lo && F32.isFin c.w && F32.lt F32.zero c.w && u32At b (o + 16) == 0
    && decide (p.size ≠ 0) && decide (p.iper % c.sper = 0)

/-- The fields of a partition record other than its size lie in Table PAT-1. -/
def patPartOk (b : List Byte) (i : Nat) : Bool :=
  let iper := u32At b (8 * i + 4)
  u16At b (8 * i + 2) == 0 && decide (60000 ≤ iper) && decide (iper ≤ 86400000)

/-- The layout of R321: sizes of 0 or 64 to 16 384 pages, 29 280 in all. -/
def patLayoutOk (ps : List PatPart) : Bool :=
  (ps.all fun p => p.size == 0 || (decide (64 ≤ p.size) && decide (p.size ≤ 16384))) && decide ((ps.map (·.size)).sum ≤ 29280)

/-- The Patina section, or the code it is refused with; that of the layout comes last (DESIGN CHOICE, assumption log 112). -/
def patinaSection (b : List Byte) : Except Nat (List PatPart × List PatChan) :=
  let n := u16At b 64
  let ps := patParts b
  if b.length ≠ 72 + 20 * n ∨ u16At b 66 ≠ 0 then .error 0x2940
  else if u32At b (68 + 20 * n) ≠ (crc32c (b.take (68 + 20 * n))).toNat then .error 0x2940
  else if !((List.range 8).all (patPartOk b) && (List.range n).all fun c => patChanOk ps b (68 + 20 * c)) then .error 0x2940
  else if !patLayoutOk ps then .error 0x2844
  else .ok (ps, (List.range n).map fun c => patChan b (68 + 20 * c))

/-! ### Stamps (R345, R346) -/

/-- The stamp of the frame in progress. -/
def Lane.stamp (l : Lane) : List Byte :=
  let t := l.trailer
  leBytes 4 (l.get R.PAT.OPSEC) ++ leBytes 4 (l.get R.SYS.PCYC) ++ leBytes 8 t.cal.toNat ++ [if t.calq then 1 else 0, 0]
    ++ leBytes 2 ((t.fno - l.k0) % 1000)

def Lane.setPat (l : Lane) (f : Patina → Patina) : Lane := { l with pat := f l.pat }

/-- OPSEC counts seconds after k0 at step 1 (R346). -/
def Lane.patStep1 (l : Lane) : Lane :=
  if l.k0 < l.fno ∧ (l.fno - l.k0) % 1000 = 0 then l.put R.PAT.OPSEC (l.get R.PAT.OPSEC + 1) else l

/-! ### Placement and retention (R348) -/

namespace PatPart
/-- Records kept for ever; 0 in stop mode. -/
def nk (p : PatPart) : Nat := if p.size < 4096 then 0 else (p.size - 2) / 2
/-- Page of relative number `r`, where it has one. -/
def place (p : PatPart) (r : Nat) : Option Nat :=
  if p.size < 4096 then (if r < p.size - 2 then some (2 + r) else none)
  else if r < p.nk then some (2 + r) else some (2 + p.nk + (r - p.nk) % p.nk)
/-- CIRC for the next PSEQ `n` to be written. -/
def circ (p : PatPart) (n : Nat) : Nat := if p.nk = 0 then p.base else max (p.base + p.nk) (n - p.nk)
def heldCount (p : PatPart) (n : Nat) : Nat :=
  let r := n - p.base
  if p.nk = 0 ∨ r ≤ p.nk then r else p.nk + (n - p.circ n)
/-- The i-th held PSEQ in ascending order. -/
def heldAt (p : PatPart) (n i : Nat) : Nat := if p.nk = 0 ∨ i < p.nk then p.base + i else p.circ n + (i - p.nk)
def isHeld (p : PatPart) (n s : Nat) : Bool :=
  if p.nk = 0 then decide (p.base ≤ s) && decide (s < n)
  else (decide (p.base ≤ s) && decide (s < min n (p.base + p.nk))) || (decide (p.circ n ≤ s) && decide (s < n))
/-- A record of sequence `next` finds the partition FULL. -/
def noRoom (p : PatPart) : Bool := (p.place (p.next - p.base)).isNone || decide (0xFFFFFFFF ≤ p.next)
end PatPart

def Patina.part (p : Patina) (i : Nat) : PatPart := p.parts.getD i {}
def Patina.setPart (p : Patina) (i : Nat) (x : PatPart) : Patina := { p with parts := p.parts.set i x }

/-- NEXT of partition `i`, the next PSEQ to be written: records in the backlog are not yet written. -/
def Patina.nextOf (p : Patina) (i : Nat) : Nat :=
  (p.part i).next - (p.backlog.filter fun g => g.part == i && g.data.getD 4 0 != 1).length

/-! ### Pages (R347, R348) -/

def withCrc (b : List Byte) : List Byte := b ++ leBytes 4 (crc32c b).toNat

/-- The header page of partition `i`. -/
def PatPart.header (p : PatPart) (i : Nat) (stamp : List Byte) : List Byte :=
  withCrc (sliceB (leBytes 4 p.hseq ++ [1, BitVec.ofNat 8 (8 + i), 0, 0] ++ stamp ++ leBytes 4 p.base ++ leBytes 4 p.next
    ++ leBytes 4 p.iper ++ leBytes 2 p.size) 0 252)

/-- The record page of a channel, Table PAT-4. -/
def PatChan.page (c : PatChan) (pseq chan ino : Nat) (stampE : List Byte) : List Byte :=
  let ext (v : F64) (st : List Byte) : List Byte :=
    if c.n = 0 then List.replicate 24 0 else leBytes 4 (F64.toF32 v).toNat ++ st
  withCrc (leBytes 4 pseq ++ [if c.partialIv then 0x12 else 2, BitVec.ofNat 8 (8 + c.part)] ++ leBytes 2 chan ++ leBytes 4 ino
    ++ stampE ++ sliceB c.starts 0 20 ++ leBytes 4 c.n ++ leBytes 4 c.nskip ++ c.bins.flatMap (leBytes 4)
    ++ ext c.mn c.mnStamp ++ ext c.mx c.mxStamp ++ leBytes 8 c.sum.toNat ++ leBytes 8 c.sumsq.toNat)

def backlogMax : Nat := 1024

/-- Queues the header of partition `i`; a partition awaiting its clear takes its new BASE with it (R349). A header that
finds the backlog full is not queued, and is no record that DISC counts (DEDUCED, assumption log 115). -/
def Lane.patHeader (l : Lane) (i : Nat) : Lane :=
  let p := l.pat.part i
  if p.size = 0 ∨ backlogMax ≤ l.pat.backlog.length then l
  else l.setPat fun t =>
    { t.setPart i { p with hseq := (p.hseq + 1) % 2 ^ 32, clear := false } with
        backlog := t.backlog ++ [⟨i, p.hseq % 2, p.header i l.stamp⟩] }

def Lane.patDrop (l : Lane) : Lane := (l.inc R.PAT.DISC).irq R.PAT.I_DISC

/-- Sets the FULL bit of a partition that has no place for its next record. -/
def Lane.patFull (l : Lane) (i : Nat) : Lane :=
  let p := l.pat.part i
  if p.size = 0 ∨ p.full ∨ !p.noRoom then l else (l.setPat fun t => t.setPart i { p with full := true }).irq R.PAT.I_FULL

/-- Closes the interval of channel `c` (R343, R350). -/
def Lane.closeChan (l : Lane) (c ino : Nat) : Lane :=
  match l.pat.chans[c]? with
  | none => l
  | some ch =>
    let l := if (l.pat.part ch.part).clear then l.patHeader ch.part else l
    let p := l.pat.part ch.part
    let st := l.stamp
    let fresh : PatChan := { src := ch.src, part := ch.part, sper := ch.sper, addr := ch.addr, lo := ch.lo, w := ch.w, starts := st, partialIv := false }
    let l := if p.full then l
      else if p.clear ∨ backlogMax ≤ l.pat.backlog.length then l.patDrop
      else
        let pg : PatPage := ⟨ch.part, (p.place (p.next - p.base)).getD 0, ch.page p.next c ino st⟩
        (l.setPat fun t => { t.setPart ch.part { p with next := p.next + 1 } with backlog := t.backlog ++ [pg] }).patFull ch.part
    l.setPat fun t => { t with chans := t.chans.set c fresh }

/-- Closes the intervals that end at this frame. -/
def Lane.patClose (l : Lane) : Lane :=
  (List.range 8).foldl (fun (l : Lane) i =>
    let p := l.pat.part i
    if p.size = 0 ∨ p.iper = 0 ∨ l.fno % p.iper ≠ 0 ∨ l.fno = 0 then l
    else
      let mine := (List.range l.pat.chans.length).filter fun c => (l.pat.chans.map (·.part)).getD c 8 == i
      (mine.foldl (fun (l : Lane) c => l.closeChan c ((l.fno / p.iper - 1) % 2 ^ 32)) l).irqIf (!mine.isEmpty) R.PAT.I_CLOSE) l

/-! ### Sampling (R342) -/

/-- Value of a channel's source, none where the sample is skipped; `l` is the lane at the end of step 2. -/
def Lane.patValue (l : Lane) (c : PatChan) : Option F64 :=
  let real (w : Word) : Option F64 := if F32.isFin w then some (F32.toF64 w) else none
  let a := c.addr
  match c.src with
  | 0 => if l.stationStale a then none else real (l.piView a)
  | 1 => if l.stationStale a then none else some (F64.ofInt (l.piView a).toInt)
  | 2 =>
    let m := a / 256
    if !(l.met.mpCfg.getD m {}).on ∨ l.on R.MET.NOSAMPW then none
    else if a % 256 = 17 then some (F64.ofInt (l.get (R.MET.FREQ.idx (l.met.mpCfg.getD m {}).group)))
    else real ((l.met.mps.getD m {}).pub.getD (a % 256) 0)
  | 3 => if l.heat.ok (a / 256) then real ((l.heat.hps.getD (a / 256) {}).quantity (a % 256)) else none
  | 4 =>
    let n := a % 65536
    if !l.hasLoop n ∨ (l.loop n).st.flags.getLsbD 0 then none else real ((l.loop n).st.quantity (a / 65536))
  | 5 => some (F64.ofInt (l.get (if a % 2 = 1 then R.PIO.AI_H.idx (a / 2) else R.PIO.AI_L.idx (a / 2))))
  | _ =>
    match l.solItem (a / 65536) (a % 65536) with
    | some (v, q) => if itemHeld (a / 65536) q then none else real v
    | none => none

/-- One sample taken into the accumulators. -/
def PatChan.sample (c : PatChan) (x : F64) (stamp : List Byte) : PatChan :=
  let u := F64.div (F64.sub x (F32.toF64 c.lo)) (F32.toF64 c.w)
  let b : Nat := if F64.lt u F64.zero then 0
    else if F64.le (F64.ofInt 30) u then 31
    else match F64.floorI u with
      | some k => 1 + k.toNat
      | none => 31
  let n := c.n + 1
  let lower := n = 1 ∨ F64.lt x c.mn
  let upper := n = 1 ∨ F64.lt c.mx x
  { c with
      bins := c.bins.modify b (· + 1), n, sum := F64.add c.sum x, sumsq := F64.fma x x c.sumsq
      mn := if lower then x else c.mn, mnStamp := if lower then stamp else c.mnStamp
      mx := if upper then x else c.mx, mxStamp := if upper then stamp else c.mxStamp }

def Lane.patSample (at2 l : Lane) : Lane :=
  let st := l.stamp
  l.setPat fun t => { t with
    chans := t.chans.map fun (c : PatChan) =>
      if l.fno % (max 1 c.sper) ≠ 0 then c
      else match at2.patValue c with
        | some x => c.sample x st
        | none => { c with nskip := c.nskip + 1 } }

/-! ### Writing (R348, R350) -/

/-- Places the oldest PATPG pages of the backlog, but none of a partition being summarised. -/
def Lane.patPlace (l : Lane) : Lane :=
  let go := (l.pat.backlog.filter fun g => !(l.pat.summary.any fun s => s.part == g.part)).take (l.get R.PAT.PATPG)
  go.foldl (fun (l : Lane) (g : PatPage) => l.emitNv { part := 8 + g.part, op := 3, num := g.page, data := g.data }) l

/-- Patina at step 7 (R342, R343, R348, R350); with PAT disabled it stands still. -/
def Lane.patStep7 (at2 l : Lane) : Lane :=
  if !l.enabled 0x29 then l
  else
    let first := l.pat.firstStamp.isEmpty
    let l := if first then
        let st := l.stamp
        l.setPat fun t => { t with firstStamp := st, chans := t.chans.map fun (c : PatChan) => { c with starts := st } }
      else l.patClose
    let l := l.patSample at2
    let l := if l.fno % 60000 = 40000 then (List.range 8).foldl Lane.patHeader l else l
    l.patPlace

/-- Pages that executed leave the backlog (R350). -/
def Lane.patDone (l : Lane) (o : NvOutcome) : Lane :=
  l.setPat fun t => { t with
    backlog := o.done.foldl (fun (b : List PatPage) r =>
      if r.op = 3 then b.eraseP fun g => 8 + g.part == r.part && g.page == r.num && g.data == r.data else b) t.backlog }

/-! ### Recall (R349, R351) -/

/-- A page of partition `i` whose CRC matches and whose PKIND is `kind`. -/
def patPageOk (i kind : Nat) (b : List Byte) : Bool :=
  decide (u32At b 252 = (crc32c (b.take 252)).toNat) && decide (u8At b 4 % 16 = kind) && decide (u8At b 5 = 8 + i)

def NvStore.patPage (s : NvStore) (sizes : List Nat) (i p : Nat) : List Byte := s.page (partBase sizes (8 + i) + p)

/-- A valid header copy of partition `i` whose log begins at page `first`. -/
def NvStore.patCopy (s : NvStore) (first i c : Nat) : Option (List Byte) :=
  some (s.page (first + c)) |>.filter fun b => patPageOk i 1 b

/-- The header copy that is selected (Table NVS-4). -/
def NvStore.patHeader (s : NvStore) (first i : Nat) : Option (List Byte) :=
  match s.patCopy first i 0, s.patCopy first i 1 with
  | some a, some b =>
    let x := u32At a 0
    let y := u32At b 0
    if newer y x ∨ (x = y ∧ y % 2 = 1) then some b else some a
  | some a, none => some a
  | none, r => r

/-- A log page that is valid under R347. -/
def PatPart.pageValid (p : PatPart) (i pos : Nat) (b : List Byte) : Bool :=
  patPageOk i 2 b && decide (p.base ≤ u32At b 0) && decide (p.place (u32At b 0 - p.base) = some pos)

/-- OPSEC of the stamps of a header, and of a record page: its interval's end and start, and its extremes. -/
def headerOpsec (b : List Byte) : List Nat := [u32At b 8]
def recordOpsec (b : List Byte) : List Nat := [u32At b 12, u32At b 32, u32At b 192, u32At b 216]

/-- Every page of PAT0 to PAT7 that is a record page of partition `i` with a matching CRC. -/
def NvStore.patStray (s : NvStore) (sizes : List Nat) (i : Nat) : List (List Byte) :=
  ((List.range (sizes.take 8).sum).map fun k => s.page (3488 + k)).filter fun b => patPageOk i 2 b

/-- A partition to be cleared at its first write (R349): its first page or size is not that of its last header, or it has no
valid header; `h` is the header it had. -/
def PatPart.cleared (p : PatPart) (stray : List (List Byte)) (h : Option (List Byte)) : PatPart :=
  let top := stray.foldl (fun (m : Nat) (b : List Byte) => max m (u32At b 0 + 1)) 0
  let n := if top = 0 then h.elim 0 fun b => u32At b 32 else top
  { p with base := n, next := n, hseq := h.elim 0 fun b => (u32At b 0 + 1) % 2 ^ 32, clear := true }

/-- A partition that keeps its content, from its header and log pages: its record, whether a held page is invalid, and the
OPSEC of its valid pages (R346, R351). -/
def NvStore.patKept (s : NvStore) (sizes : List Nat) (i : Nat) (p : PatPart) (h : List Byte) : PatPart × Bool × List Nat :=
  let p := { p with base := u32At h 28, hseq := (u32At h 0 + 1) % 2 ^ 32 }
  let log := (List.range (p.size - 2)).map fun k => (k + 2, s.patPage sizes i (k + 2))
  let ok : List (Nat × List Byte) := log.filter fun g => p.pageValid i g.1 g.2
  let p := { p with next := ok.foldl (fun (m : Nat) (g : Nat × List Byte) => max m (u32At g.2 0 + 1)) (u32At h 32) }
  let bad := (List.range (p.heldCount p.next)).any fun k =>
    let q := p.heldAt p.next k
    !(ok.any fun (g : Nat × List Byte) => u32At g.2 0 == q)
  ({ p with full := p.noRoom }, bad, ok.flatMap fun (g : Nat × List Byte) => recordOpsec g.2)

/-- Recall of one partition: its record, whether a held page is invalid, and the OPSEC values found. Where the partition is to
be cleared, any record page of its own counts for OPSEC (assumption log 134). -/
def NvStore.patRecall (s : NvStore) (sizes : List Nat) (i : Nat) (p : PatPart) : PatPart × Bool × List Nat :=
  if p.size = 0 then (p, false, [])
  else
    let first := partBase sizes (8 + i)
    let at_ := (s.patAt.getD i none).getD (first, p.size)
    let heads := ((List.range 2).filterMap fun c => s.patCopy at_.1 i c).flatMap headerOpsec
    match s.patHeader at_.1 i with
    | some h =>
      if at_ = (first, p.size) ∧ u16At h 40 = p.size then
        let r := s.patKept sizes i p h
        (r.1, r.2.1, heads ++ r.2.2)
      else (p.cleared (s.patStray sizes i) (some h), false, heads ++ (s.patStray sizes i).flatMap recordOpsec)
    | none => (p.cleared (s.patStray sizes i) none, false, (s.patStray sizes i).flatMap recordOpsec)

/-- Patina at recall (R346, R351). -/
def Lane.patRecallAll (s : NvStore) (l : Lane) : Lane :=
  let sizes := l.pat.parts.map (·.size)
  let rs := (List.range 8).map fun i => s.patRecall sizes i (l.pat.part i)
  let ops := rs.flatMap (·.2.2)
  let ops := match ops.max? with
    | some m => m + 60
    | none => 0
  let l := l.setPat fun t => { t with parts := rs.map (·.1), backlog := [], summary := none, firstStamp := [] }
  (l.put R.PAT.OPSEC ops).irqIf (rs.any (·.2.1)) R.PAT.I_INVAL

/-! ### Inspection summary (R352) -/

/-- PAT.SUM: 0, or the status the request is refused with. -/
def Lane.patSum (l : Lane) : Lane × Nat :=
  let i := l.get R.PAT.SPART
  let p := l.pat.part i
  if !l.enabled 0x29 then (l, 0x2907)
  else if l.lifeCycle = 0 then (l, 0x290D)
  else if p.size = 0 then (l, 0x2941)
  else if l.pat.summary.isSome then (l, 0x2908)
  else
    let q : PatSummary := { part := i, reqFno := l.fno, stamp := l.stamp, count := p.heldCount (l.pat.nextOf i) }
    (l.setPat fun t => { t with summary := some q }, 0)

/-- The first 116 bytes of Table PAT-5. -/
def Lane.patStatement (l : Lane) (q : PatSummary) : List Byte :=
  let p := l.pat.part q.part
  let n := l.pat.nextOf q.part
  leBytes 4 0x54415053 ++ [BitVec.ofNat 8 (8 + q.part), BitVec.ofNat 8 l.lifeCycle] ++ leBytes 2 p.nk
    ++ leBytes 8 Config.serial.toNat ++ leBytes 8 (l.get64 R.SYS.CFGFP_L R.SYS.CFGFP_H) ++ leBytes 8 q.reqFno ++ q.stamp
    ++ leBytes 4 p.base ++ leBytes 4 (p.circ n) ++ leBytes 4 n ++ leBytes 4 q.ninv ++ Crypto.sha384 q.hashed

/-- The end of the summary: signed with scalar `d` and loaded into the window. -/
def Lane.summaryComplete (d : Nat) (l : Lane) : Lane :=
  match l.pat.summary with
  | none => l
  | some q =>
    if q.taken < q.count then l
    else
      let b := l.patStatement q
      let b := b ++ Crypto.sign d (Crypto.sha384 b)
      let l := l.setPat fun t => { t with summary := none, sumd := (List.range 53).map fun i => wordAt b (4 * i) }
      ((l.put R.PAT.SUMV 1).put R.PAT.SUMFNO (l.fno % 2 ^ 32)).irq R.PAT.I_SUMDONE

/-- Hashes the next 64 held pages at step 7, after a summary whose last page is hashed has completed. -/
def Lane.summaryStep (s : NvStore) (d : Nat) (l : Lane) : Lane :=
  match l.pat.summary with
  | none => l
  | some q =>
    if q.taken = q.count ∧ q.reqFno ≠ l.fno then l.summaryComplete d
    else
      let p := l.pat.part q.part
      let n := l.pat.nextOf q.part
      let sizes := l.pat.parts.map (·.size)
      let go := (List.range 64).filterMap fun k => if q.taken + k < q.count then some (p.heldAt n (q.taken + k)) else none
      let pages := go.map fun sq =>
        let pos := (p.place (sq - p.base)).getD 0
        let b := s.patPage sizes q.part pos
        if p.pageValid q.part pos b ∧ u32At b 0 = sq then (b, 0) else (List.replicate 256 0, 1)
      l.setPat fun t => { t with summary := some { q with
        taken := q.taken + go.length, ninv := q.ninv + (pages.map (·.2)).sum, hashed := q.hashed ++ pages.flatMap (·.1) } }

/-! ### The PAT page (R353) -/

/-- The page RDATA shows and its RSTAT; `s` is the store the lane's MRAM port reads. -/
def Lane.patSelected (s : NvStore) (l : Lane) : List Byte × Nat :=
  let i := l.get R.PAT.RPART
  let p := l.pat.part i
  let sizes := l.pat.parts.map (·.size)
  let q := l.get R.PAT.RSEQ
  let none_ : List Byte := List.replicate 256 0
  if p.size = 0 then (none_, if l.on R.PAT.RHDR then 1 else 2)
  else if l.on R.PAT.RHDR then
    let b := s.patPage sizes i (q % 2)
    (b, if patPageOk i 1 b then 0 else 1)
  else
    let place := if q < p.base then none else p.place (q - p.base)
    match place with
    | none => (none_, 2)
    | some pos =>
      let b := s.patPage sizes i pos
      (b, if !p.isHeld (l.pat.nextOf i) q then 2 else if p.pageValid i pos b ∧ u32At b 0 = q then 0 else 1)

def bitList (bs : List Bool) : Nat := (bs.mapIdx fun i b => if b then 2 ^ i else 0).sum

/-- Computed registers of the PAT page. -/
def Lane.readPat (s : NvStore) (l : Lane) (off : Nat) : Nat :=
  let i := l.get R.PAT.RPART
  let p := l.pat.part i
  let n := l.pat.nextOf i
  if off = 0x040 then bitList (l.pat.parts.map (·.full)) * 256 + bitList (l.pat.parts.map fun p => p.size != 0)
  else if off = 0x048 then l.pat.backlog.length
  else if off = 0x068 then (l.patSelected s).2
  else if off = 0x06C then n
  else if off = 0x070 then p.circ n
  else if off = 0x074 then p.base
  else if off = 0x078 then p.nk
  else if 0x100 ≤ off ∧ off < 0x100 + 212 then (l.pat.sumd.getD ((off - 0x100) / 4) 0).toNat
  else if 0x400 ≤ off ∧ off < 0x500 then u32At (l.patSelected s).1 (off - 0x400)
  else (l.reg (0x29000 + off)).toNat

end Sys2Proof.Machine
end

