-- ==== Sys2Proof/Machine/Prg.lean ====
section
/-! DEFINITION. Cyclic programs (10_cyclic_programs.md) but for the instructions: modes, releases, copies,
forces, on-line change, the hand-off, the retain ledger and the program image. -/

namespace Sys2Proof.Machine

namespace Program
def exe (p : Program) (n : Nat) : Executor := if n = 4 then p.e4 else p.e5
def setExe (p : Program) (n : Nat) (e : Executor) : Program := if n = 4 then { p with e4 := e } else { p with e5 := e }
def task (p : Program) (n : Nat) : Task := p.tasks.getD n {}
def setTask (p : Program) (n : Nat) (t : Task) : Program := { p with tasks := p.tasks.set n t }
end Program

def Lane.exe (l : Lane) (n : Nat) : Executor := l.prg.exe n
def Lane.setExe (l : Lane) (n : Nat) (e : Executor) : Lane := { l with prg := l.prg.setExe n e }
def Lane.task (l : Lane) (n : Nat) : Task := l.prg.task n
def Lane.setTask (l : Lane) (n : Nat) (t : Task) : Lane := { l with prg := l.prg.setTask n t }

/-- A program is installed. -/
def Lane.hasProgram (l : Lane) : Bool := l.on R.PRG.PRESENT

def PrgMode.code : PrgMode → Nat
  | .stop => 0 | .run => 1 | .hold => 2

/-- MODE changes, with MODECHG. -/
def Lane.setPrgMode (l : Lane) (m : PrgMode) : Lane :=
  let l := l.irqIf (decide (l.prg.mode ≠ m)) R.PRG.I_MODECHG
  ({ l with prg := { l.prg with mode := m } }).put R.PRG.MODE m.code

/-! ### Modes (R248, Table PRG-6) -/

/-- A cycle abandoned without copy-out, its release cleared. -/
def Task.abandon (t : Task) : Task := { t with ph := .idle, parked := false, pend := false, evt := false, ctx := {} }

/-- STOP from RUN or HOLD: every cycle is abandoned and the pending releases are cleared. -/
def Lane.prgToStop (l : Lane) : Lane :=
  let l := l.setPrgMode .stop
  { l with prg := { l.prg with
      tasks := l.prg.tasks.map Task.abandon, entry := none, heldFor := 0, stopped := true
      e4 := { l.prg.e4 with cur := none, faulted := false, dlist := none }
      e5 := { l.prg.e5 with cur := none, faulted := false, dlist := none } } }

/-- LASTF of every timer is this frame: at every entry to RUN, and at k0 (R266). -/
def Lane.markTimers (l : Lane) : Lane :=
  let f (e : Executor) : Executor := { e with timers := e.timers.map fun p => (p.1, { p.2 with lastf := l.fno }) }
  { l with prg := { l.prg with runSince := l.fno, e4 := f l.prg.e4, e5 := f l.prg.e5 } }

/-- Entry to RUN; `kind` 1 warm, 2 cold, 3 by command. -/
def Lane.enterRun (l : Lane) (kind : Nat) : Lane :=
  let l := (l.setPrgMode .run).markTimers
  { l with prg := { l.prg with entry := some kind, heldFor := 0, stopped := false } }

/-- RUN command of Table PRG-6. -/
def Lane.cmdRun (l : Lane) : Lane :=
  if !l.enabled 0x1C then l.post 0x1C07
  else match l.prg.mode with
    | .run => l
    | .hold => l.enterRun 3
    | .stop =>
      if l.on R.PRG.FAULT then l.post 0x1C41
      else if !l.hasProgram then l.post 0x1C42
      else l.enterRun 3

/-- STOP command. -/
def Lane.cmdStop (l : Lane) : Lane :=
  if !l.enabled 0x1C then l.post 0x1C07 else if l.prg.mode = .stop then l else l.prgToStop

/-- HOLD command: permitted with HOLDEN or in FIELD_DEBUG. -/
def Lane.cmdHold (l : Lane) : Lane :=
  if !l.enabled 0x1C then l.post 0x1C07
  else if l.prg.mode ≠ .run then l
  else if l.on R.PRG.HOLDEN ∨ l.lifeCycle = 3 then
    let l := l.setPrgMode .hold
    { l with prg := { l.prg with heldFor := 0 } }
  else l.post 0x1C43

/-- FLTACK. -/
def Lane.fltAck (l : Lane) : Lane :=
  if !l.enabled 0x1C then l.post 0x1C07 else if l.prg.mode = .stop then l.put R.PRG.FAULT 0 else l

/-- HOLDTO seconds in HOLD have passed: the program goes to STOP. -/
def Lane.holdTimeout (l : Lane) : Lane :=
  if l.prg.mode = .hold ∧ l.get R.PRG.HOLDTO * 1000 ≤ l.prg.heldFor then l.prgToStop.irq R.PRG.I_HOLDTO else l

/-- A program fault (R250): the record is that of the first fault in execution order; the program stops with
the next frame. -/
def Lane.prgFault (l : Lane) (exe task code addr : Nat) : Lane :=
  let first := !(l.prg.e4.faulted || l.prg.e5.faulted)
  let l := if first then
      ((((l.put R.PRG.FLTCODE code).put R.PRG.FLTEXE (exe - 4)).put R.PRG.FLTTASK task).put R.PRG.FLTADDR addr).put
        R.PRG.FLTFNO (l.fno % 2 ^ 32)
    else l
  (l.setExe exe { l.exe exe with faulted := true }).irq R.PRG.I_FAULT

/-- Step 1 of the next frame: a fault of the frame before leads to STOP with FAULT. -/
def Lane.prgStep1 (l : Lane) : Lane :=
  if l.prg.e4.faulted ∨ l.prg.e5.faulted then l.prgToStop.put R.PRG.FAULT 1 else l

/-- Step 2 of a frame, after the writes: EN fallen to 0 stops the program, HOLD times out. -/
def Lane.prgStep2 (l : Lane) : Lane :=
  let l := if !l.enabled 0x1C ∧ l.prg.mode ≠ .stop then l.prgToStop else l
  l.holdTimeout

/-! ### Releases (R239, R242, R243) -/

/-- A trigger of an event task: a release, a pending release, or a lost one. -/
def Lane.triggerTask (l : Lane) (n : Nat) : Lane :=
  let t := l.task n
  if t.ph = .idle ∧ !t.pend then l.setTask n { t with ph := .released, relFno := l.fno, cyc := 0 }
  else if !t.pend then l.setTask n { t with pend := true }
  else (l.setTask n { t with tlost := satAdd 32 t.tlost 1 }).irq R.PRG.I_EVLOST

/-- Facts of the frame that trigger event tasks, beside the lane itself. -/
structure EventFacts where
  solPub : Bool := false
  optPub : Bool := false
  /-- stations whose state changed -/
  stations : List Nat := []
  deriving DecidableEq, Repr

/-- Whether event task `t` is triggered in this frame (Table PRG-4). -/
def Lane.triggered (l : Lane) (ev : EventFacts) (t : Task) : Bool :=
  let a := t.cfg.evarg
  match t.cfg.evsrc with
  | 0 => t.evt
  | 1 => (l.pi 1).getLsbD a
  | 2 => (l.pi 2).getLsbD a
  | 3 => kvGet 0 l.prg.view a != kvGet 0 l.prg.viewPrev a
  | 4 => ev.solPub
  | 5 => ev.optPub
  | 6 => (l.queue a).readItem.isSome
  | 7 => if a = 0xFFFF then !ev.stations.isEmpty else ev.stations.contains a
  | 8 => (match l.prg.entry with
    | some k => a == 0 || a == k
    | none => false)
  | _ => false

/-- Releases of step 7. A queue trigger finds its release pending without loss ("every frame with an item,
subject to one pending release"). Outside RUN nothing is released, and an EVT trigger due in the frame is gone. -/
def Lane.releaseTasks (l : Lane) (ev : EventFacts) : Lane :=
  if l.prg.mode ≠ .run then { l with prg := { l.prg with tasks := l.prg.tasks.map fun (t : Task) => { t with evt := false } } }
  else
    let l := (List.range 40).foldl (fun (l : Lane) n =>
      let t := l.task n
      let c := t.cfg
      if c.kind = 1 ∧ l.fno % c.period = c.phase then
        if t.ph = .idle then l.setTask n { t with ph := .released, relFno := l.fno, cyc := 0 }
        else if c.ovrfault then l.prgFault c.exe n 0x40 t.ctx.pc
        else (l.setTask n { t with tovr := satAdd 32 t.tovr 1 }).irq R.PRG.I_OVERRUN
      else if c.kind = 2 ∧ l.triggered ev t then
        let l := l.setTask n { t with evt := false }
        if c.evsrc = 6 ∧ t.pend then l else l.triggerTask n
      else l) l
    { l with prg := { l.prg with entry := none } }

/-! ### Copies (R239, R245) -/

def inRanges (rs : List PiRange) (a : Nat) : Bool := rs.any fun r => decide (r.base ≤ a) && decide (a < r.base + r.count)
def rangeWords (rs : List PiRange) : List Nat := rs.flatMap fun r => (List.range r.count).map (r.base + ·)
/-- Counted cycles of a copy. -/
def copyCost (rs : List PiRange) : Nat := (rs.filter fun r => r.count != 0).foldl (fun n r => n + 40 + r.count) 0

/-- Cycles counted for a task on its executor. -/
def Lane.charge (l : Lane) (exe n cost : Nat) : Lane :=
  let t := l.task n
  let l := l.setTask n { t with cyc := t.cyc + cost, feedCyc := t.feedCyc + cost }
  let e := l.exe exe
  l.setExe exe { e with used := e.used + cost }

/-- Copy-in: the IN ranges from the readers' view of this frame. -/
def Lane.copyIn (l : Lane) (n : Nat) : Lane :=
  let t := l.task n
  let img := (rangeWords t.cfg.inR).foldl (fun (m : List (Nat × Word)) a => kvSet 0 m a (l.piView a)) t.img
  (l.setTask n { t with img := img, feedCyc := 0 }).charge t.cfg.exe n (copyCost t.cfg.inR)

/-- Copy-out: the OUT ranges into the process image. -/
def Lane.copyOut (l : Lane) (n : Nat) : Lane :=
  let t := l.task n
  let l := (rangeWords t.cfg.outR).foldl (fun (l : Lane) a => l.setPi a (kvGet 0 t.img a)) l
  l.charge t.cfg.exe n (copyCost t.cfg.outR)

/-- The context at the start of a section (R259). -/
def Task.startAt (t : Task) (a : Nat) : Task := { t with ctx := { pc := a } }

/-- The final copy-out has run: the cycle is complete, and a pending release starts the next one. -/
def Lane.endCycle (l : Lane) (n : Nat) : Lane :=
  let t := l.task n
  let t := { t with
    ph := .idle, tcyc := t.cyc, tfrm := l.fno + 1 - t.relFno, truns := satAdd 32 t.truns 1, parked := false, ctx := {} }
  if t.pend then l.setTask n { t with pend := false, ph := .released, relFno := l.fno, cyc := 0 } else l.setTask n t

/-- The hand-off of R241. -/
def Lane.handOff (l : Lane) : Lane :=
  if l.prg.mode ≠ .run then l
  else { l with prg := { l.prg with
    handDo := (l.pi 0x20).setWidth 16, handAo := (List.range 8).map fun i => min (l.pi (0x28 + i)).toNat 22000 } }

/-! ### Forces (R251, R252) -/

def Force.sameTarget (a b : Force) : Bool := a.kind == b.kind && a.addr == b.addr && (a.kind != 2 || a.bit == b.bit)

/-- NFORCE, PRG.FORCED and the change count follow the table. -/
def Lane.forceChanged (l : Lane) (fs : List (Nat × Force)) (n : Nat) : Lane :=
  let l : Lane := { l with prg := { l.prg with forces := fs } }
  let l := (l.put R.FRC.NFORCE fs.length).putB R.PRG.FORCED (!fs.isEmpty)
  (l.inc R.FRC.FCHGCNT n).irqIf (n != 0) R.FRC.I_FCHG

/-- Target valid: no reserved word, no variable outside its area. -/
def Lane.forceTargetOk (l : Lane) (f : Force) : Bool :=
  if f.kind = 1 ∨ f.kind = 2 then decide (f.addr < 65536) && !piReserved f.addr
  else decide (f.addr % 4 = 0) && decide (f.addr < (l.exe (f.kind + 1)).decl.vsize)

/-- The force table may be changed in this life-cycle state. -/
def Lane.forcePermitted (l : Lane) : Bool := l.lifeCycle == 2 || l.lifeCycle == 3

/-- FCMD 1: the low status byte, 0 where the entry is applied. -/
def Lane.forceApply (l : Lane) (sel : Nat) : Lane × Nat :=
  let f : Force := ⟨l.get R.FRC.FKIND, l.get R.FRC.FBIT, l.get R.FRC.FADDR, l.getW R.FRC.FVAL, l.fno⟩
  let fs := l.prg.forces
  let clash := fs.any fun p => p.1 != sel &&
    (p.2.sameTarget f || (p.2.addr == f.addr && ((p.2.kind == 1 && f.kind == 2) || (p.2.kind == 2 && f.kind == 1))))
  if f.kind = 0 then (l, 0x40)
  else if clash then (l, 0x41)
  else if !l.forceTargetOk f then (l, 0x40)
  else match fs.find? fun p => p.1 == sel with
    | some p => if p.2.sameTarget f then (l.forceChanged (kvInsert fs sel f) 1, 0) else (l, 0x42)
    | none => (l.forceChanged (kvInsert fs sel f) 1, 0)

/-- FCMD 2. -/
def Lane.forceRelease (l : Lane) (sel : Nat) : Lane × Nat :=
  if l.prg.forces.any fun p => p.1 == sel then (l.forceChanged (kvErase l.prg.forces sel) 1, 0) else (l, 0x43)

/-- FCMD 3. -/
def Lane.forceReleaseAll (l : Lane) : Lane := l.forceChanged [] l.prg.forces.length

/-- FTO: entries applied FTO minutes ago or longer are released. -/
def Lane.forceTimeouts (l : Lane) : Lane :=
  let t := l.get R.FRC.FTO * 60000
  let due := l.prg.forces.filter fun p => decide (p.2.fno + t ≤ l.fno)
  if t = 0 ∨ due.isEmpty then l
  else (l.forceChanged (l.prg.forces.filter fun p => !decide (p.2.fno + t ≤ l.fno)) due.length).irq R.FRC.I_FTOREL

def Lane.readFrc (l : Lane) (off : Nat) : Nat :=
  let f := l.prg.forces.find? fun p => p.1 == l.get R.FRC.FSEL
  if off = 0x05C then (match f with
    | some p => p.2.fno % 2 ^ 32
    | none => 0)
  else if off = 0x060 then (if f.isSome then 1 else 0)
  else (l.reg (0x1D000 + off)).toNat

/-! ### Areas of bytes held as words, and on-line change (R253) -/

/-- `n` bytes of value `v` at byte offset `o` of word `w`. -/
def patchWord (w : Word) (o n : Nat) (v : Nat) : Word := withBits w (8 * (o % 4) + 8 * n - 1) (8 * (o % 4)) v

def readArea (m : List (Nat × Word)) (o n : Nat) : Nat := bits (kvGet 0 m (o / 4)) (8 * (o % 4) + 8 * n - 1) (8 * (o % 4))
def writeArea (m : List (Nat × Word)) (o n v : Nat) : List (Nat × Word) :=
  kvSet 0 m (o / 4) (patchWord (kvGet 0 m (o / 4)) o n v)

/-- Length in bytes of the retain stream (R511). -/
def Lane.retainLen (l : Lane) : Nat :=
  let d (e : Executor) : Nat :=
    e.decl.retained.foldl (fun n r => n + r.2) 0 + 16 * (e.decl.timers.filter fun t => t.2.1).length
      + 12 * (e.decl.counters.filter fun t => t.2.1).length
  16 + d l.prg.e4 + d l.prg.e5 + 4 + 12 * l.prg.overlay.length + 16384
    + (l.loops.filter fun p => p.2.cfg.kind != 0).foldl (fun n p => n + p.2.retainLen) 0

/-- A VVAL write with the selection word `sel` (offset 0x09C): the low status byte. -/
def Lane.writeVval (l : Lane) (sel : Nat) (w : Word) : Lane × Nat :=
  let area := sel / 2 ^ 24 % 2
  let width := sel / 2 ^ 22 % 4
  let exe := 4 + sel / 2 ^ 21 % 2
  let o := sel % 2 ^ 20
  let n := 2 ^ width
  let e := l.exe exe
  let size := if area = 0 then e.decl.vsize else e.decl.ksize
  let entry : Overlay := ⟨exe, width, o⟩
  if o % n ≠ 0 ∨ size < o + n then (l, 0x44)
  else if 2 ^ (8 * n) ≤ w.toNat then (l, 9)
  else
    let done (l : Lane) : Lane × Nat := ((l.inc R.PRG.ONLCNT).irq R.PRG.I_ONLCHG, 0)
    if area = 0 then done (l.setExe exe { e with vars := writeArea e.vars o n w.toNat })
    else
      let fresh := !l.prg.overlay.contains entry
      if fresh ∧ 196608 < l.retainLen + 12 then (l, 0x45)
      else
        let l := l.setExe exe { e with konst := writeArea e.konst o n w.toNat }
        done (if fresh then { l with prg := { l.prg with overlay := l.prg.overlay ++ [entry] } } else l)

/-- The underlying value of the selection. -/
def Lane.readVval (l : Lane) : Nat :=
  let e := l.exe (4 + l.get R.PRG.EXE)
  let n := 2 ^ l.get R.PRG.WIDTH
  let o := l.get R.PRG.VADDR
  let size := if l.get R.PRG.AREA = 0 then e.decl.vsize else e.decl.ksize
  if o % n ≠ 0 ∨ size < o + n then 0 else readArea (if l.get R.PRG.AREA = 0 then e.vars else e.konst) o n

/-! ### The PRG page (Table PRG-9) -/

def Lane.readPrg (l : Lane) (off : Nat) : Nat :=
  let t := l.task (l.get R.PRG.TSEL)
  let b (x : Bool) (v : Nat) : Nat := if x then v else 0
  if off = 0x068 then l.prg.aostopq.toNat * 2 ^ 24 + l.prg.aoown.toNat * 2 ^ 16 + l.prg.dooown.toNat
  else if off = 0x06C then l.prg.dostopq.toNat
  else if off = 0x074 then
    let st := if t.ph = .idle then 0 else if l.prg.mode = .hold then 3 else if t.parked then 2 else 1
    b (t.cfg.exe == 5) (2 ^ 18) + t.cfg.kind * 2 ^ 16 + t.cfg.prio * 2 ^ 8 + b t.pend 4 + st
  else if off = 0x078 then t.tcyc % 2 ^ 32
  else if off = 0x07C then min t.tfrm 65535
  else if off = 0x080 then t.truns
  else if off = 0x090 then l.prg.e4.used
  else if off = 0x094 then l.prg.e5.used
  else if off = 0x084 then t.tovr
  else if off = 0x088 then t.tlost
  else if off = 0x0A0 then l.readVval
  else (l.reg (0x1C000 + off)).toNat

/-! ### Physical outputs (R249, R252) -/

/-- Value of one program-owned output: as handed off in RUN and HOLD; in STOP by its STOPQ bit. -/
def prgOut {α : Type} (mode : PrgMode) (stopq : Bool) (quench hand : α) : α :=
  if mode = .stop ∧ stopq then quench else hand

/-- DO states and AO currents the lane places in its output frame: a force first, then a loop, then the
program's owned outputs, and the quench image for an output nobody owns (R237, R249). -/
def Lane.plantOut (l : Lane) : BitVec 16 × List Nat :=
  let q := l.get R.PIO.DOQ
  let ldo := l.loopDo
  let lao := l.loopAo
  let fs := l.prg.forces
  let dbit (n : Nat) : Bool :=
    if (forceMask fs 0x20).getLsbD n then (forcedWord fs 0x20 0).getLsbD n
    else match ldo.find? fun p => p.1 == n with
      | some p => p.2
      | none => if l.prg.dooown.getLsbD n then prgOut l.prg.mode (l.prg.dostopq.getLsbD n) (q.testBit n) (l.prg.handDo.getLsbD n)
        else q.testBit n
  let qa (i : Nat) : Nat := l.get ((if i % 2 = 0 then R.PIO.AOQ_L else R.PIO.AOQ_H).idx (i / 2))
  let aval (i : Nat) : Nat :=
    let v := match lao.find? fun p => p.1 == i with
      | some p => p.2
      | none => if l.prg.aoown.getLsbD i then prgOut l.prg.mode (l.prg.aostopq.getLsbD i) (qa i) (l.prg.handAo.getD i 0) else qa i
    min (forcedWord fs (0x28 + i) (.ofNat 32 v)).toNat 22000
  (.ofNat 16 ((List.range 16).foldl (fun n i => if dbit i then n + 2 ^ i else n) 0), (List.range 8).map aval)

/-! ### The retain ledger (R255, R511) -/

def boolBits (a b : Bool) : Nat := (if a then 1 else 0) + (if b then 2 else 0)

def Executor.retainVars (e : Executor) : List Byte :=
  e.decl.retained.flatMap fun r => (List.range (r.2 / 4)).flatMap fun i => leBytes 4 (kvGet 0 e.vars (r.1 / 4 + i)).toNat

def Executor.timer (e : Executor) (since i : Nat) : Timer := kvGet { lastf := since } e.timers i
def Executor.counter (e : Executor) (i : Nat) : Counter := kvGet {} e.counters i

def Executor.retainTimers (e : Executor) : List Byte :=
  (e.decl.timers.filter fun t => t.2.1).flatMap fun t =>
    let x := e.timer 0 t.1
    leBytes 2 t.1 ++ leBytes 2 (boolBits x.q x.inprev) ++ leBytes 4 x.pt ++ leBytes 4 x.et ++ leBytes 4 0

def Executor.retainCounters (e : Executor) : List Byte :=
  (e.decl.counters.filter fun t => t.2.1).flatMap fun t =>
    let x := e.counter t.1
    leBytes 2 t.1 ++ leBytes 2 (boolBits x.down x.cprev) ++ leBytes 4 (ofSigned 32 x.cv) ++ leBytes 4 (ofSigned 32 x.pv)

def Lane.cfgFp (l : Lane) : Nat := l.get64 R.SYS.CFGFP_L R.SYS.CFGFP_H

/-- The stream of one capture, Table PRG-13. -/
def Lane.retainStream (l : Lane) : List Byte :=
  let ls := l.loops.filter fun p => p.2.cfg.kind != 0
  leBytes 8 l.cfgFp ++ leBytes 2 l.prg.mode.code ++ leBytes 2 ls.length ++ leBytes 4 l.retainLen
    ++ l.prg.e4.retainVars ++ l.prg.e5.retainVars ++ l.prg.e4.retainTimers ++ l.prg.e5.retainTimers
    ++ l.prg.e4.retainCounters ++ l.prg.e5.retainCounters
    ++ leBytes 4 l.prg.overlay.length ++ l.prg.overlay.flatMap (fun o =>
      leBytes 1 o.exe ++ leBytes 3 o.width ++ leBytes 4 o.ofs ++ leBytes 4 (readArea (l.exe o.exe).konst o.ofs (2 ^ o.width)))
    ++ (List.range 4096).flatMap (fun i => leBytes 4 (l.pi (0xF000 + i)).toNat)
    ++ ls.flatMap fun p => p.2.retainBytes p.1

/-- Chunks of the generation in progress go into the output frame. -/
def Lane.retainChunks (l : Lane) (n : Nat) : Lane :=
  let r := l.placeChunks 3 n l.nv.retain
  { r.1 with nv := { r.1.nv with retain := r.2 } }

/-- A capture (R255). -/
def Lane.retainCapture (l : Lane) : Lane :=
  let g := l.nv.retain.start l.retainStream
  let t := l.trailer
  let l := l.put R.PRG.RETCHNK g.wdata.length
  { l with
      nv := { l.nv with retain := g }
      prg := { l.prg with retHdr := some (g.wgen, g.wdata.length, t.cal, t.calq, l.fno) } }

/-- The capture at the end of step 7 and the chunks of the generation in progress (R255). -/
def Lane.retainPeriodic (l : Lane) : Lane :=
  let l := l.retainChunks (l.get R.PRG.RETPG)
  if l.fno % (max 1 (l.get R.PRG.RETPER)) ≠ 0 then l
  else if l.nv.retain.busy ∨ l.prg.retHdr.isSome then (l.inc R.PRG.RETSKIP).irq R.PRG.I_RETSKIP
  else l.retainCapture

/-- Restart header record (Table NVS-8), placed in the frame after the last chunk of a generation. -/
def Lane.retainHeader (l : Lane) : Lane :=
  match l.prg.retHdr with
  | none => l
  | some (gen, n, cal, calq, fno) =>
    let data := leBytes 8 l.cfgFp ++ leBytes 8 cal.toNat ++ leBytes 4 (if calq then 1 else 0) ++ leBytes 4 gen ++ leBytes 4 n ++ leBytes 8 fno
    let l := l.nvPut 0 0 data
    ({ l with prg := { l.prg with retHdr := none } }).put R.PRG.RETGEN gen

/-- The last frame before a commanded restart carries the retained save (03_power_clocks_start.md R84): the generation in
progress goes on, or a capture is taken, in as many chunks as a frame can write, and where they are the last the restart
header goes with them, since no frame follows (DEDUCED, assumption log 114). -/
def Lane.retainLast (l : Lane) : Lane :=
  let l := if l.nv.retain.busy ∨ l.prg.retHdr.isSome then l else l.retainCapture
  let l := l.retainChunks 32
  if l.nv.retain.wdata.length ≤ l.nv.retain.wnext then l.retainHeader else l

/-- The retain ledger at step 7. -/
def Lane.retainStep7 (l : Lane) : Lane :=
  if l.restart.any fun q => q.trig == 3 || q.trig == 4 then l.retainLast else l.retainPeriodic

/-- Step 1: the outcome of the chunks of the frame before; a completed generation gets its header. -/
def Lane.retainStep1 (l : Lane) (o : NvOutcome) : Lane :=
  let r := l.nv.retain.outcome 3 o
  let l := { l with nv := { l.nv with retain := r.1 } }
  if r.2 then l.retainHeader else l

/-- Position of the loop records in a stream. -/
def Lane.loopRecordsAt (l : Lane) (b : List Byte) : Nat :=
  let ls := l.loops.filter fun p => p.2.cfg.kind != 0
  b.length - ls.foldl (fun n p => n + p.2.retainLen) 0

def Executor.restoreVars (e : Executor) (b : List Byte) (o : Nat) : Executor × Nat :=
  e.decl.retained.foldl (fun (p : Executor × Nat) r =>
    ((List.range (r.2 / 4)).foldl (fun (x : Executor) i =>
      { x with vars := kvSet 0 x.vars (r.1 / 4 + i) (wordAt b (p.2 + 4 * i)) }) p.1, p.2 + r.2)) (e, o)

def Executor.restoreTimers (e : Executor) (b : List Byte) (o : Nat) : Executor × Nat :=
  (e.decl.timers.filter fun t => t.2.1).foldl (fun (p : Executor × Nat) t =>
    let x : Timer := ⟨u32At b (p.2 + 4), u32At b (p.2 + 8), (u8At b (p.2 + 2)).testBit 0, (u8At b (p.2 + 2)).testBit 1, 0⟩
    ({ p.1 with timers := kvInsert p.1.timers t.1 x }, p.2 + 16)) (e, o)

def Executor.restoreCounters (e : Executor) (b : List Byte) (o : Nat) : Executor × Nat :=
  (e.decl.counters.filter fun t => t.2.1).foldl (fun (p : Executor × Nat) t =>
    let x : Counter := ⟨i32At b (p.2 + 4), i32At b (p.2 + 8), (u8At b (p.2 + 2)).testBit 0, (u8At b (p.2 + 2)).testBit 1⟩
    ({ p.1 with counters := kvInsert p.1.counters t.1 x }, p.2 + 12)) (e, o)

/-- A warm restart takes the retained data from the stream (R254, R228); answers whether the generation holds
RUN. -/
def Lane.restoreRetained (l : Lane) (b : List Byte) : Lane × Bool :=
  let a := l.prg.e4.restoreVars b 16
  let z := l.prg.e5.restoreVars b a.2
  let a4 := a.1.restoreTimers b z.2
  let z5 := z.1.restoreTimers b a4.2
  let a4 := a4.1.restoreCounters b z5.2
  let z5' := z5.1.restoreCounters b a4.2
  let n := u32At b z5'.2
  let o := z5'.2 + 4
  let l : Lane := { l with prg := { l.prg with e4 := a4.1, e5 := z5'.1 } }
  let l := (List.range n).foldl (fun (l : Lane) i =>
    let k := o + 12 * i
    let v : Overlay := ⟨u8At b k, u8At b (k + 1), u32At b (k + 4)⟩
    let e := l.exe v.exe
    let l := l.setExe v.exe { e with konst := writeArea e.konst v.ofs (2 ^ v.width) (u32At b (k + 8)) }
    { l with prg := { l.prg with overlay := l.prg.overlay ++ [v] } }) l
  let o := o + 12 * n
  let l := (List.range 4096).foldl (fun (l : Lane) i => l.setPi (0xF000 + i) (wordAt b (o + 4 * i))) l
  let r := (l.loops.filter fun p => p.2.cfg.kind != 0).foldl (fun (s : Lane × Nat) p =>
    (s.1.setLoop p.1 (p.2.restore b s.2), s.2 + p.2.retainLen)) (l, o + 16384)
  (r.1, u8At b 8 == 1)

/-! ### The program image (R237, R238, R256 to R258) -/

def readTask (b : List Byte) (o : Nat) : TaskRec :=
  let rng (k : Nat) : PiRange := ⟨u16At b (o + k), u16At b (o + k + 2)⟩
  let ranges (k : Nat) : List PiRange := ((List.range 4).map fun i => rng (k + 4 * i)).filter fun r => r.count != 0
  { kind := u8At b o, exe := u8At b (o + 1), prio := u8At b (o + 2), ovrfault := (u8At b (o + 3)).testBit 0
    hasFeed := (u8At b (o + 3)).testBit 1, period := u16At b (o + 4), phase := u16At b (o + 6), evsrc := u8At b (o + 8)
    evarg := u16At b (o + 10), feed := u32At b (o + 12), main := u32At b (o + 16), wcfeed := u32At b (o + 20)
    inR := ranges 24, outR := ranges 40 }

/-- Check TTABLE of one task record. -/
def taskOk (b : List Byte) (o n : Nat) : Bool :=
  let t := readTask b o
  let rngOk (r : PiRange) : Bool := decide (r.base + r.count ≤ 65536)
  let evOk : Bool := match t.evsrc with
    | 1 | 2 => decide (t.evarg < 32)
    | 3 => true
    | 6 => decide (t.evarg < 64)
    | 7 => decide (t.evarg < 2048) || t.evarg == 0xFFFF
    | 8 => decide (t.evarg ≤ 3)
    | _ => t.evarg == 0
  t.kind == 0 ||
    (((t.kind == 1 && decide (n < 8) && decide (1 ≤ t.period) && decide (t.period ≤ 10000) && decide (t.phase < t.period)
        && t.evsrc == 0 && t.evarg == 0)
      || (t.kind == 2 && decide (8 ≤ n) && t.period == 0 && t.phase == 0 && decide (t.evsrc ≤ 8) && evOk))
    && (t.exe == 4 || t.exe == 5) && decide (t.prio ≤ 15) && decide (u8At b (o + 3) < 4) && u8At b (o + 9) == 0
    && (t.hasFeed || t.feed == 0xFFFFFFFF) && (t.inR ++ t.outR).all rngOk
    && t.outR.all fun r => (List.range r.count).all fun i => !piReadOnly (r.base + i))

/-- The declaration section of an executor: its content and length, or PDECL; none where it runs past the
image or a zero field of a record is not zero, which is PFORMAT (assumption log 111). -/
def readDecl (b : List Byte) (o vsize : Nat) : Option (EnqDecl × Nat × Bool) :=
  let nt := u16At b o
  let nc := u16At b (o + 2)
  let nr := u16At b (o + 4)
  let ni := u16At b (o + 6)
  let tq := o + 8
  let co := tq + 8 * nt
  let ro := co + 8 * nc
  let io := ro + 8 * nr
  let ts := (List.range nt).map fun i => (u16At b (tq + 8 * i), (u8At b (tq + 8 * i + 2)).testBit 0, u32At b (tq + 8 * i + 4))
  let cs := (List.range nc).map fun i => (u16At b (co + 8 * i), (u8At b (co + 8 * i + 2)).testBit 0, i32At b (co + 8 * i + 4))
  let rs := (List.range nr).map fun i => (u32At b (ro + 8 * i), u32At b (ro + 8 * i + 4))
  let blocks := (List.range ni).foldl (fun (s : List (Nat × List Byte) × Nat) _ =>
    let n := u32At b (s.2 + 4)
    (s.1 ++ [(u32At b s.2, sliceB b (s.2 + 8) (min n b.length))], s.2 + 8 + n)) ([], io)
  let asc (l : List Nat) : Bool := (l.zip (l.drop 1)).all fun p => decide (p.1 < p.2)
  let zero := (List.range (nt + nc)).all fun i => decide (u8At b (tq + 8 * i + 2) < 2) && u8At b (tq + 8 * i + 3) == 0
  let spans (l : List (Nat × Nat)) : Bool :=
    (l.all fun p => decide (p.1 % 4 = 0) && decide (p.2 % 4 = 0) && decide (p.1 + p.2 ≤ vsize))
      && asc (l.map (·.1)) && (l.zip (l.drop 1)).all fun p => decide (p.1.1 + p.1.2 ≤ p.2.1)
  let ok := (ts.all fun t => decide (t.1 ≤ 4095)) && asc (ts.map (·.1)) && (cs.all fun t => decide (t.1 ≤ 4095)) && asc (cs.map (·.1))
    && spans rs && spans (blocks.1.map fun p => (p.1, p.2.length))
  if b.length < blocks.2 ∨ !zero then none
  else some ({ vsize, timers := ts, counters := cs, retained := rs, inits := blocks.1 }, blocks.2 - o, ok)

/-- Words of a task image: one per distinct address of its ranges (R257). -/
def TaskRec.imageWords (t : TaskRec) : Nat :=
  ((rangeWords (t.inR ++ t.outR)).foldl (fun (m : List (Nat × Bool)) a => kvInsert m a true) []).length

/-- An installed program image. -/
structure ProgImage where
  e4 : Executor
  e5 : Executor
  tasks : List TaskRec
  doown : Nat
  aoown : Nat
  dostopq : Nat
  aostopq : Nat
  flags : Nat
  deriving DecidableEq, Repr

/-- The executor of a declaration with its initial values (Table PRG-8). -/
def Executor.initial (e : Executor) : Executor :=
  let vars := e.decl.inits.foldl (fun (m : List (Nat × Word)) p =>
    (List.range (p.2.length / 4)).foldl (fun (m : List (Nat × Word)) i => kvSet 0 m (p.1 / 4 + i) (wordAt p.2 (4 * i))) m) []
  { e with
      vars := vars, timers := e.decl.timers.map fun t => (t.1, { pt := t.2.2 })
      counters := e.decl.counters.map fun t => (t.1, { pv := t.2.2 }), cur := none, used := 0, dlist := none, faulted := false }

/-- The program image checked in the order of Table ENQ-10 and then of R238. `loopWords` are the words of
DEST 2 loops, `optWords` those of optimiser channels. -/
def progLoad (loopWords optWords : List Nat) (b : List Byte) : Except Nat ProgImage :=
  let len := u32At b 8
  let tt := u32At b 12
  let blk (e : Nat) : Nat := 16 + 24 * e
  let codeofs (e : Nat) : Nat := u32At b (blk e)
  let ncode (e : Nat) : Nat := u32At b (blk e + 4)
  let kofs (e : Nat) : Nat := u32At b (blk e + 8)
  let ksize (e : Nat) : Nat := u32At b (blk e + 12)
  let vsize (e : Nat) : Nat := u32At b (blk e + 16)
  let dofs (e : Nat) : Nat := u32At b (blk e + 20)
  let used := [0, 1].filter fun e => ncode e != 0
  let decl (e : Nat) := readDecl b (dofs e) (vsize e)
  let secs := (tt, 2256) :: used.flatMap fun e =>
    [(codeofs e, 4 * ncode e), (kofs e, ksize e), (dofs e, ((decl e).map fun d => d.2.1).getD 0)]
  let bounds := secs.all fun s => decide (s.1 % 4 = 0) && decide (s.1 + s.2 ≤ len - 4)
  let secs := (0, 64) :: secs.filter fun s => s.2 != 0
  let apart := (List.range secs.length).all fun i => (List.range i).all fun j =>
    let x := secs.getD i (0, 0)
    let y := secs.getD j (0, 0)
    decide (x.1 + x.2 ≤ y.1) || decide (y.1 + y.2 ≤ x.1)
  let ts := (List.range 40).map fun i => readTask b (tt + 16 + 56 * i)
  let live := ts.filter fun t => t.kind != 0
  let ex (e : Nat) : List TaskRec := live.filter fun t => t.exe == 4 + e
  if b.length ≠ len ∨ len < 64 + 2256 + 4 ∨ u32At b 0 ≠ 0x51534E45 ∨ u16At b 4 ≠ 1 ∨ u16At b 6 ≠ 0
      ∨ u32At b (len - 4) ≠ (crc32c (b.take (len - 4))).toNat
      ∨ !bounds ∨ !apart
      ∨ !used.all (fun e => (decl e).isSome)
      ∨ !(List.range (len - 4)).all (fun i =>
          b.getD i 0 == 0 || secs.any fun s => decide (s.1 ≤ i) && decide (i < s.1 + s.2)) then .error 0x1C48
  else if [0, 1].any (fun e =>
      decide (2097152 < 4 * ncode e + ksize e) || decide (1048576 < ksize e) || decide (ksize e % 4 ≠ 0) || decide (vsize e % 4 ≠ 0)
        || decide (1048576 < vsize e + 4 * (ex e).foldl (fun n t => n + t.imageWords) 0)
        || (ex e).any fun t => ncode e == 0 || decide (ncode e ≤ t.main) || (t.hasFeed && decide (ncode e ≤ t.feed))) then .error 0x1C49
  else if used.any (fun e => (decl e).any fun d => !d.2.2) then .error 0x1C4A
  else if !(List.range 40).all (fun i => taskOk b (tt + 16 + 56 * i) i) || u8At b (tt + 3) != 0 || decide (3 < u8At b (tt + 7))
      || !allZero (sliceB b (tt + 8) 8) then .error 0x1C40
  else
    let outs (e : Nat) : List Nat := (ex e).flatMap fun t => rangeWords t.outR
    let shared := (outs 0).any (fun a => (ex 1).any fun t => inRanges t.outR a)
      || (loopWords ++ optWords).any fun a => live.any fun t => inRanges t.outR a
    if shared then .error 0x1C47
    else if [0, 1].any (fun e => decide (216000 < (ex e).foldl (fun n t => n + t.wcfeed) 0)) then .error 0x1C46
    else
      let mk (e : Nat) : Executor :=
        match decl e with
        | some d =>
          if ncode e = 0 then {}
          else Executor.initial
            { decl := { d.1 with ncode := ncode e, ksize := ksize e, vsize := vsize e }
              code := (List.range (ncode e)).map fun i => wordAt b (codeofs e + 4 * i)
              konst := (List.range (ksize e / 4)).foldl (fun (m : List (Nat × Word)) i => kvSet 0 m i (wordAt b (kofs e + 4 * i))) [] }
        | none => {}
      .ok { e4 := mk 0, e5 := mk 1, tasks := ts, doown := u16At b tt, aoown := u8At b (tt + 2), dostopq := u16At b (tt + 4)
            aostopq := u8At b (tt + 6), flags := u8At b (tt + 7) }

/-- A program as installed: no cycle in progress, STOP. -/
def Lane.installProgram (l : Lane) (p : ProgImage) : Lane :=
  let l : Lane := { l with prg := {
    tasks := p.tasks.map fun c => { cfg := c }, e4 := p.e4, e5 := p.e5, dooown := .ofNat 16 p.doown, aoown := .ofNat 8 p.aoown
    dostopq := .ofNat 16 p.dostopq, aostopq := .ofNat 8 p.aostopq } }
  (((l.put R.PRG.PRESENT 1).putB R.PRG.AUTORUN (p.flags.testBit 0)).putB R.PRG.HOLDEN (p.flags.testBit 1)).put R.PRG.MODE 0

end Sys2Proof.Machine
end

