-- ==== Sys2Proof/Machine/Results.lean ====
section
/-! DEFINITION. Snapshot, publication and domain epochs of the solver (07_crucible_solver.md R163 to R166,
R179 to R187; 04_frame.md R107 to R110; 20_rogon_fabric.md R449 to R451), and snapshot and publication of
the dispatch (08_dispatch_optimiser.md R188, R189, R204 to R210). -/

namespace Sys2Proof.Machine

def Lane.setSlv (l : Lane) (f : Solver → Solver) : Lane := { l with slv := f l.slv }
def Lane.setOpt (l : Lane) (f : Optimiser → Optimiser) : Lane := { l with opt := f l.opt }

/-! ### Publication of a solve -/

/-- The NET page after a plug update (R162). -/
def Lane.plugRegs (l : Lane) (t : Thermal) (merges : Nat) : Lane :=
  let n := t.used
  let l := (l.put R.NET.PLUGUSE n).put R.NET.PLUGHWM (max n (l.get R.NET.PLUGHWM))
  (l.inc R.NET.MRGCNT merges).irqIf (decide (merges ≠ 0)) R.NET.I_PLUGCAP

/-- Loads the SOL and SOLD pages from the record that becomes current (Tables SOL-9 and SOL-11). -/
def Lane.showSolve (l : Lane) (md : NetModel) (r : SolveRec) : Lane :=
  let st (n : Nat) : Nat := ((r.nets[n]?).map fun (x : NetRes) => x.status).getD 5
  let cnt (c : Nat) : Nat := r.nets.countP fun (x : NetRes) => x.status == c
  let d := r.diag
  let l := ((((l.put R.SOL.NS0 (st 0)).put R.SOL.NS1 (st 1)).put R.SOL.NS2 (st 2)).put R.SOL.NS3 (st 3))
  let l := ((l.putB R.SOL.COLD r.cold).putB R.SOL.WSMIS r.wsmis).put64 R.SOL.SOLNO_L R.SOL.SOLNO_H r.n
  let l := (List.range 4).foldl (fun (l : Lane) n =>
    l.put (R.SOLD.JOBJ.idx n) (((r.nets[n]?).map fun (x : NetRes) => x.job.toNat).getD 0)) l
  let l := ((l.put R.SOLD.LASTDP d.lastdp.toNat).put R.SOLD.IMBAL d.imbal.toNat).put R.SOLD.TPIV d.tpiv
  let l := ((l.put R.SOLD.ZPIV d.zpiv).put R.SOLD.PIVNODE d.pivnode).put R.SOLD.NBAD d.nbad
  let l := ((l.put R.SOLD.NUSED d.nused).put R.SOLD.NMISS d.nmiss).put R.SOLD.NSTALE d.nstale
  let l := ((l.put R.SOLD.NPARAM (md.brch.countP hasTheta)).put R.SOLD.NOBS d.nobs).put R.SOLD.REJNET d.rejnet
  let l := ((l.put R.SOLD.NITRUN d.nitrun).inc R.SOLD.REGCNT (d.tpiv + d.zpiv)).inc R.SOLD.NOCCNT (cnt 3)
  let l := l.inc R.SOLD.INVCNT (cnt 4)
  let l := (l.irq R.SOL.I_PUB).irqIf (decide (d.nbad ≠ 0)) R.SOL.I_BADDATA
  let l := ((l.irqIf (decide (cnt 3 ≠ 0)) R.SOL.I_NOCONV).irqIf (decide (cnt 4 ≠ 0)) R.SOL.I_INVALID).irqIf (decide (cnt 2 ≠ 0)) R.SOL.I_UNOBS
  (l.irqIf (decide (d.tpiv + d.zpiv ≠ 0)) R.SOLD.I_REGPIV).setSlv fun s => { s with cur := some r, ready := none }

def Lane.solPeriod (l : Lane) : Nat := l.get R.SOL.PERIOD
def Lane.inDomain (l : Lane) : Bool := l.on R.NET.DOMAIN

/-! ### Boundary exchanges (R184, R185, Table SOL-8) -/

def NetModel.neighbours (md : NetModel) : List Nat := md.bndy.foldl (fun l e => insSorted e.nbr l) []

/-- The own end of a boundary branch. -/
def NetModel.ownEnd (md : NetModel) (e : BndyRec) : Nat :=
  let r := md.brchAt e.branch
  if r.frm < ghostBase then r.frm else r.dst

/-- Entries of the branches shared with `nbr`, each with its rank at the receiver's node and at the own one. -/
def NetModel.shared (md : NetModel) (nbr : Nat) : List (BndyRec × Nat × Nat) :=
  let es := md.bndy.filter fun e => e.nbr == nbr
  (List.range es.length).filterMap fun i =>
    (es[i]?).map fun (e : BndyRec) =>
      (e, (es.take i).countP fun x => x.node == e.node, (es.take i).countP fun x => md.ownEnd x == md.ownEnd e)

/-- What the member sends `nbr` after its present iteration; P entries by ascending node, then F entries in
BNDY order. An exchange that stops the epoch carries ITER one above the last exchange placed (DESIGN CHOICE, assumption
log 24). -/
def NetModel.exchangeOf (md : NetModel) (j : SolveJob) (nbr : Nat) (stop : Bool) : Exchange :=
  let t := jobTemps md j.base j.cold
  let es := md.shared nbr
  let nodes := es.foldl (fun l e => insSorted (md.ownEnd e.1) l) []
  let p := nodes.map fun v => ({ node := v, isF := false, ord := 0, v1 := j.work.p.getD v 0, v2 := t.tnode.getD v 0 } : BndVal)
  let f := (es.filter fun e => e.1.owner).map fun e =>
    ({ node := e.1.node, isF := true, ord := e.2.1, v1 := j.work.m.getD e.1.branch 0, v2 := t.tout.getD e.1.branch 0 } : BndVal)
  { epoch := j.n, iter := if stop then j.iter + 1 else j.iter, cold := j.cold, stop, dfp := md.dfp, vals := if stop then [] else p ++ f }

def BndVal.bytes (v : BndVal) : List Byte :=
  leBytes 2 v.node ++ [if v.isF then 1 else 0, BitVec.ofNat 8 v.ord] ++ wordsLe [v.v1, v.v2] ++ [0, 0, 0, 0]

def Exchange.bytes (x : Exchange) : List Byte :=
  leBytes 8 x.epoch ++ [BitVec.ofNat 8 x.iter, (if x.cold then 1 else 0) + (if x.stop then 2 else 0)] ++ leBytes 2 x.vals.length
    ++ leBytes 8 x.dfp.toNat ++ List.replicate 12 0 ++ x.vals.flatMap BndVal.bytes

def readExchange (b : List Byte) : Exchange where
  epoch := u64At b 0
  iter := u8At b 8
  cold := (b.getD 9 0).getLsbD 0
  stop := (b.getD 9 0).getLsbD 1
  dfp := .ofNat 64 (u64At b 12)
  vals := (List.range (min (u16At b 10) 4096)).map fun i =>
    let o := 32 + 16 * i
    { node := u16At b o, isF := u8At b (o + 2) == 1, ord := u8At b (o + 3), v1 := wordAt b (o + 4), v2 := wordAt b (o + 8) }

def SolveJob.got (j : SolveJob) (nbr iter : Nat) : Option Exchange :=
  (j.recv.find? fun x => x.1 == nbr && x.2.iter == iter).map (·.2)

/-- Value of boundary entry `b` in an exchange of its neighbour. -/
def NetModel.bndP (md : NetModel) (j : SolveJob) (iter b : Nat) : Option BndVal :=
  (md.bndy[b]?).bind fun e => (j.got e.nbr iter).bind fun x => x.vals.find? fun v => !v.isF && v.node == e.node

def NetModel.bndF (md : NetModel) (j : SolveJob) (iter : Nat) (e : BndyRec × Nat × Nat) : Option BndVal :=
  (j.got e.1.nbr iter).bind fun x => x.vals.find? fun v => v.isF && v.node == md.ownEnd e.1 && v.ord == e.2.2

/-- Places exchange `j.iter` for every neighbour. -/
def Lane.sendExchanges (l : Lane) (md : NetModel) (j : SolveJob) (stop : Bool) : Lane × SolveJob :=
  md.neighbours.foldl (fun (lj : Lane × SolveJob) nbr =>
    let x := md.exchangeOf lj.2 nbr stop
    (lj.1.fabSend 4 2 nbr x.bytes,
     { lj.2 with sent := lj.2.sent ++ [(nbr, l.fno, x)] })) (l, j)

/-! ### Votes (R107, R109, R186, R449) -/

def coldBase : Nat := 2 ^ 64 - 1
def SolveJob.baseNo (j : SolveJob) : Nat := if j.cold then coldBase else ((j.base.map fun (r : SolveRec) => r.n).getD coldBase)

def voteBytes (v : Vote) : List Byte :=
  leBytes 8 v.epoch ++ leBytes 8 (v.base.getD coldBase) ++ leBytes 8 v.dfp.toNat ++ leBytes 8 v.digest.toNat
    ++ [BitVec.ofNat 8 v.status, 0, 0, 0]

def NetModel.coordinator (md : NetModel) : Nat := ((md.part.head?).map fun (p : PartRec) => p.ident).getD 0

/-- Values of the branches that a predicate takes, in index order. -/
def NetModel.ofBranches (md : NetModel) (p : BrchRec → Bool) (l : List Word) : List Word :=
  (List.range md.brch.length).filterMap fun b => if p (md.brchAt b) then some (l.getD b 0) else none

/-- Ends an epoch with a vote (1 VALID, 2 INVALID, 3 ABSENT); the digest of an ABSENT vote is 0 (log 24). -/
def Lane.castVote (l : Lane) (md : NetModel) (j : SolveJob) (status : Nat) : Lane × SolveJob :=
  let k := j.work
  let dg : Dword := if status = 3 then 0 else
    Crypto.fp64 (wordsLe k.p ++ wordsLe (md.ofBranches (fun r => !r.outOfService) k.m) ++ wordsLe (md.ofBranches hasTheta k.th) ++ md.neighbours.flatMap fun n => (md.exchangeOf j n false).bytes)
  let l := if status = 3 then l.inc R.FAB.ABSCNT else l
  let v : Vote := { src := l.modId, epoch := j.n, base := if j.cold then none else some j.baseNo, dfp := md.dfp, digest := dg, status }
  (l.fabSend 5 1 md.coordinator (voteBytes v), { j with voted := some (l.fno, status), digest := dg })

/-- Stops an epoch: neighbours learn of it and the vote is ABSENT (R186). -/
def Lane.stopEpoch (l : Lane) (md : NetModel) (j : SolveJob) : Lane × SolveJob :=
  if j.voted.isSome then (l, j)
  else
    let r := l.sendExchanges md j true
    r.1.castVote md r.2 3

def Lane.setEpoch (l : Lane) (j : SolveJob) : Lane :=
  l.setSlv fun s => { s with epochs := s.epochs.map fun e => if e.n = j.n then j else e }

def Lane.epochOf (l : Lane) (n : Nat) : Option SolveJob := l.slv.epochs.find? fun j => j.n == n

/-- Iterates while the neighbours' exchanges are visible, and votes as soon as its own final exchange is placed (R186). -/
def Lane.runEpoch (l : Lane) (md : NetModel) : Nat → SolveJob → Lane × SolveJob
  | 0, j => (l, j)
  | fuel + 1, j =>
    if j.voted.isSome ∨ j.recv.any fun x => x.2.stop then (l, j)
    else if j.cfg.nit ≤ j.iter then
      l.castVote md j (if (List.range md.netw.length).any (netInvalid md j.work) then 2 else 1)
    else if !(md.neighbours.all fun n => (j.got n j.iter).isSome) then (l, j)
    else
      let j := if j.iter = 0 then j.convert md fun b => ((md.bndP j 0 b).map (·.v2)).getD 0 else j
      let gp (b : Nat) : Word := ((md.bndP j j.iter b).map (·.v1)).getD
        (((md.bndy[b]?).map fun e => j.work.p.getD (md.ownEnd e) 0).getD 0)
      let w := iterate md j.cfg (jobTemps md j.base j.cold).tprop gp (j.iter + 1) j.work
      let r := l.sendExchanges md { j with work := w, iter := j.iter + 1 } false
      r.1.runEpoch md fuel r.2

/-- An unanswered exchange is placed again every 2 × LATENCY + 2 frames (R451). -/
def Lane.resendEpoch (l : Lane) (j : SolveJob) : Lane :=
  if j.voted.isSome then l
  else
    let gap := 2 * l.get R.FAB.LATENCY + 2
    let r := j.sent.foldl (fun (lj : Lane × List (Nat × Nat × Exchange)) e =>
      if (j.got e.1 (e.2.2.iter + 1)).isSome then lj
      else if e.2.1 + gap ≤ l.fno then
        ((lj.1.fabSend 4 2 e.1 e.2.2.bytes).inc R.FAB.RESEND, lj.2 ++ [(e.1, l.fno, e.2.2)])
      else (lj.1, lj.2 ++ [e])) (l, [])
    r.1.setEpoch { j with sent := r.2 }

/-- Frame at which a member stops an epoch that has not reached its final exchange (R186). -/
def Lane.stopFrame (l : Lane) (j : SolveJob) : Nat := j.fno + 2 * l.solPeriod - l.get R.FAB.LATENCY - 1

/-- Stops an epoch whose stop frame has come, or that a neighbour has stopped. -/
def Lane.epochStop (l : Lane) (md : NetModel) (j : SolveJob) : Lane :=
  if j.voted.isNone ∧ (l.stopFrame j ≤ l.fno ∨ j.recv.any fun x => x.2.stop) then
    let r := l.stopEpoch md j
    r.1.setEpoch r.2
  else l

/-! ### Decisions (R109, R110, R450) -/

def decisionBytes (epoch : Nat) (commit : Bool) (valid base : Nat) (dfp : Dword) : List Byte :=
  leBytes 8 epoch ++ [if commit then 1 else 2, BitVec.ofNat 8 valid] ++ List.replicate 6 0 ++ leBytes 8 (if commit then base else 0)
    ++ leBytes 8 dfp.toNat

def Lane.decisionFrame (l : Lane) (j : SolveJob) : Nat := j.fno + 2 * l.solPeriod - l.get R.FAB.LATENCY

/-- The coordinator decides epoch `j` where it can: none while votes may still complete it. -/
def Lane.verdictOf (l : Lane) (md : NetModel) (j : SolveJob) : Option Bool :=
  let vs := l.slv.votes.filter fun v => v.epoch == j.n
  let base := (vs.head?).map (·.base)
  if vs.any fun v => v.status != 1 || v.dfp != md.dfp || some v.base != base then some false
  else if vs.length = md.part.length then some true
  else if l.decisionFrame j ≤ l.fno then some false
  else none

/-- Places a decision for every member in ascending identifier. -/
def Lane.placeDecision (l : Lane) (md : NetModel) (j : SolveJob) (commit : Bool) : Lane :=
  let vs := l.slv.votes.filter fun v => v.epoch == j.n
  let b := decisionBytes j.n commit (vs.countP fun v => v.status == 1) (((vs.head?).bind (·.base)).getD coldBase) md.dfp
  let l := md.part.foldl (fun (l : Lane) p => l.fabSend 6 1 p.ident b) l
  l.setSlv fun s => { s with decided := (j.n :: s.decided).take 8, votes := s.votes.filter fun v => v.epoch != j.n }

def Lane.isCoordinator (l : Lane) (md : NetModel) : Bool := md.coordinator == l.modId

def Lane.decideEpoch (l : Lane) (md : NetModel) (j : SolveJob) : Lane :=
  if !l.isCoordinator md ∨ l.slv.decided.contains j.n then l
  else match l.verdictOf md j with
    | some c => l.placeDecision md j c
    | none => l

/-- The lane's Crucible domain is off by a fault, as the visible block shows it (R68). -/
def Lane.arrayFault (l : Lane) : Bool := (l.getW R.PWR.FAULT).getLsbD (if l.id = .a then 4 else 5)

/-- Crucible is off or starting (R64, R66): no snapshot is taken (assumption log 25). -/
def Lane.crucibleOff (l : Lane) : Bool := l.reduced || l.arrayFault || l.redEnd.any fun f => decide (l.fno < f + 20)

/-- The part of a frame's step 7 that runs the domain: the older epoch first. -/
def Lane.domainStep7 (l : Lane) : Lane :=
  match l.slv.model with
  | none => l
  | some md =>
    if !l.inDomain then l
    else
      let ns := l.slv.epochs.map fun (j : SolveJob) => j.n
      let l := ns.foldl (fun (l : Lane) n => match l.epochOf n with
        | none => l
        | some j =>
          let r := if l.crucibleOff then (l, j) else l.runEpoch md 17 j
          let l := r.1.setEpoch r.2
          let l := match l.epochOf n with
            | some j => l.epochStop md j
            | none => l
          match l.epochOf n with
          | some j => l.resendEpoch j
          | none => l) l
      ns.foldl (fun (l : Lane) n => match l.epochOf n with
        | some j => l.decideEpoch md j
        | none => l) l

/-- An exchange of an epoch that is not open here: a late copy where the epoch lies up to two before the oldest open one,
else a neighbour that numbers otherwise, and the member stops the oldest epoch for which it awaits that exchange (R107,
R185; DEDUCED, assumption log 108). -/
def Lane.strangeEpoch (l : Lane) (md : NetModel) (src : Nat) (x : Exchange) : Lane :=
  if l.slv.epochs.any fun j => decide (x.epoch < j.n ∧ j.n ≤ x.epoch + 2) then l
  else match l.slv.epochs.find? fun j => j.voted.isNone && (j.got src x.iter).isNone with
    | some j =>
      let r := l.stopEpoch md j
      r.1.setEpoch r.2
    | none => l

/-- An exchange arrives from `src` (R185, R107). Of an open epoch it matches up to the iteration after the member's own,
which the neighbour cannot pass; after the vote the neighbours' final exchanges still bring their flows (R184). -/
def Lane.takeExchange (l : Lane) (md : NetModel) (src : Nat) (b : List Byte) : Lane :=
  let x := readExchange b
  if !md.neighbours.contains src then l
  else match l.epochOf x.epoch with
  | none => l.strangeEpoch md src x
  | some j =>
    if (j.got src x.iter).isSome ∨ (j.voted.isSome ∧ (x.stop ∨ x.dfp ≠ md.dfp)) then l
    else if x.dfp ≠ md.dfp ∨ min j.cfg.nit (j.iter + 1) < x.iter then
      let r := l.stopEpoch md j
      r.1.setEpoch r.2
    else l.setEpoch { j with recv := j.recv ++ [(src, x)] }

/-- A vote arrives at the coordinator; only the first of a member counts. -/
def Lane.takeVote (l : Lane) (md : NetModel) (src : Nat) (b : List Byte) : Lane :=
  let e := u64At b 0
  let base := u64At b 8
  if !l.isCoordinator md ∨ (l.epochOf e).isNone ∨ l.slv.decided.contains e ∨ !(md.part.any fun p => p.ident == src)
    ∨ (l.slv.votes.any fun v => v.src == src && v.epoch == e) then l
  else l.setSlv fun s => { s with votes := s.votes ++ [{ src, epoch := e, base := if base = coldBase then none else some base, dfp := .ofNat 64 (u64At b 16), digest := .ofNat 64 (u64At b 24), status := u8At b 32 }] }

/-- A decision arrives from source 0x05. -/
def Lane.takeDecision (l : Lane) (md : NetModel) (src : Nat) (b : List Byte) : Lane :=
  let e := u64At b 0
  let dec := u8At b 8
  if src ≠ md.coordinator ∨ BitVec.ofNat 64 (u64At b 24) ≠ md.dfp ∨ (l.epochOf e).isNone ∨ (dec ≠ 1 ∧ dec ≠ 2)
    ∨ (l.slv.decisions.any fun d => d.1 == e) then l.inc R.FAB.BADDEC
  else
    let l := (l.put64 R.FAB.LEPOCH_L R.FAB.LEPOCH_H e).put R.FAB.LDEC dec
    let l := if dec = 1 then (l.inc R.FAB.COMCNT).irq R.FAB.I_COMMIT else (l.inc R.FAB.ABNCNT).irq R.FAB.I_ABANDON
    l.setSlv fun s => { s with decisions := s.decisions ++ [(e, dec == 1)] }

/-- The content of a TYPE 4 to 6 frame reaches the solve domain at step 1. -/
def Lane.domainFrame (l : Lane) (f : FabFrame) (b : List Byte) (fromCoordinatorPath : Bool) : Lane :=
  match l.slv.model with
  | none => l
  | some md =>
    if !l.inDomain then l
    else if f.typ = 4 then l.takeExchange md f.src b
    else if f.typ = 5 then l.takeVote md f.src b
    else if fromCoordinatorPath then l.takeDecision md f.src b
    else l

/-! ### The plug update of a decided epoch (R187) -/

/-- Commits epoch `j`: flows of branches a neighbour owns come from its final exchange where that is visible,
their outlet temperature likewise (assumption log 24). -/
def Lane.commitEpoch (l : Lane) (md : NetModel) (j : SolveJob) : Lane :=
  let owned := (md.neighbours.flatMap md.shared).filter fun e => !e.1.owner
  let vals := owned.filterMap fun e => (md.bndF j j.cfg.nit e).map fun v => (e.1.branch, v)
  let m := vals.foldl (fun (m : List Word) x => m.set x.1 x.2.v1) j.work.m
  let tout := vals.foldl (fun (m : List Word) x => m.set x.1 x.2.v2) l.slv.therm.tout
  let gt (b : Nat) : Word := ((md.bndP j 0 b).map (·.v2)).getD
    (((md.bndy[b]?).map fun e => l.slv.therm.tnode.getD (md.ownEnd e) 0).getD 0)
  let prev := l.slv.waiting.getLast?.or l.slv.cur
  let r := finishSolve md gt l.solPeriod { l.slv.therm with tout } l.slv.flows prev { j with work := { j.work with m } }
  (l.plugRegs r.after r.diag.merges).setSlv fun s =>
    { s with therm := r.after, flows := nextFlows md r s.flows, waiting := s.waiting ++ [r], committed := ((j.n, r) :: s.committed).take 3 }

/-- An abandoned epoch advances the plugs on the last committed flows, without source temperatures of its own, with the
ambient temperatures of the last committed record, TCON where there is none, and with the temperature of a boundary
branch's own node at its ghost end (R187; DESIGN CHOICE, assumption log 24). -/
def Lane.abandonEpoch (l : Lane) (md : NetModel) : Lane :=
  let gt (b : Nat) : Word := ((md.bndy[b]?).map fun e => l.slv.therm.tnode.getD (md.ownEnd e) 0).getD 0
  let amb (a : Nat) : Word := match l.slv.committed.head? with
    | some c => recAmb md c.2 a
    | none => ((md.ambg[a]?).map fun (g : AmbgRec) => g.tcon).getD 0
  let ps := l.solPeriod
  let r := plugUpdate md { m := l.slv.flows, dt32 := F32.div (F32.fromNat ps) (F32.fromNat 1000)
                           dt64 := F64.div (F64.ofInt ps) (F64.ofInt 1000), tsrc := fun _ => none, amb, ghostT := gt } l.slv.therm
  (l.plugRegs r.1 r.2).setSlv fun s => { s with therm := r.1 }

def insDecision (d : Nat × Bool) : List (Nat × Bool) → List (Nat × Bool)
  | [] => [d]
  | x :: l => if d.1 < x.1 then d :: x :: l else x :: insDecision d l

/-- An SRST of NET acts with the plug update of its solve, or of the first later one that is decided (R149, R187). -/
def Lane.resetPlugs (l : Lane) (md : NetModel) (epoch : Nat) : Lane :=
  if l.slv.epochs.any fun e => e.reset && decide (e.n ≤ epoch) then
    l.setSlv fun s => { s with
      therm := thermalInit md, epochs := s.epochs.map fun e => { e with reset := e.reset && decide (epoch < e.n) } }
  else l

/-- Step 3 of a domain member: the decisions visible in this frame, in epoch order, then the publications due, each epoch in
its turn. Reduced mode and a lane without its array publish nothing (R64, R68): a committed epoch that still waits for its
publication frame then is dropped and never published (DESIGN CHOICE, assumption log 69). -/
def Lane.domainStep3 (l : Lane) (md : NetModel) : Lane :=
  let ds := l.slv.decisions.foldl (fun acc d => insDecision d acc) []
  let l := ds.foldl (fun (l : Lane) d => match l.epochOf d.1 with
    | none => l
    | some j =>
      let l := l.resetPlugs md d.1
      let l := if d.2 && j.voted.any (·.2 == 1) then l.commitEpoch md j else l.abandonEpoch md
      l.setSlv fun s => { s with epochs := s.epochs.filter fun e => e.n != d.1 }) l
  let l := l.setSlv fun s => { s with decisions := [] }
  if l.reduced || l.arrayFault then l.setSlv fun s => { s with waiting := [] }
  else
    let due (r : SolveRec) : Bool := decide (r.fno + l.solPeriod ≤ l.fno)
    let rs := l.slv.waiting
    (rs.filter due).foldl (fun (l : Lane) r => l.showSolve md r) (l.setSlv fun s => { s with waiting := rs.filter fun r => !due r })

/-- Step 3: the solve due is published (R35); one not finished is a deadline fault (R38). -/
def Lane.solveStep3 (l : Lane) : Lane :=
  match l.slv.model with
  | none => l
  | some md =>
    if l.inDomain then l.domainStep3 md
    else match l.slv.job with
      | none => l
      | some j =>
        if l.fno < j.fno + l.solPeriod then l
        else
          let l := l.setSlv fun s => { s with job := none }
          match l.slv.ready with
          | some r =>
            ((l.plugRegs r.after r.diag.merges).setSlv fun s => { s with therm := r.after, flows := nextFlows md r s.flows }).showSolve md r
          | none => { l.setSlv fun s => { s with plugReset := s.plugReset || j.reset } with deadlineFlt := true }

/-! ### Snapshot and end of a solve -/

/-- Step 5 (R163 to R167, R181, R182). -/
def Lane.solveStep5 (l : Lane) : Lane :=
  let ps := l.solPeriod
  if ps = 0 ∨ l.fno % ps ≠ 0 then l
  else match l.slv.model with
    | none => l.irq R.SOL.I_SKIP
    | some md =>
      if l.crucibleOff ∨ !l.on R.NET.LOADED ∨ !l.enabled 0x11 then l.irq R.SOL.I_SKIP
      else
        let n := l.fno / ps
        let dom := l.inDomain
        let base := if dom then (l.slv.committed.find? fun c => c.1 + 2 == n).map (·.2) else l.slv.cur
        let mis := base.any fun r => r.sfp != md.sfp || (dom && r.dfp != md.dfp)
        let cold := l.on R.SOL.COLDREQ || l.slv.nextCold || base.isNone || mis
        let cfg := solCfgOf l
        let snaps := md.meas.map (measSnap l)
        let j : SolveJob := { n, fno := l.fno, cfg, base, cold, wsmis := mis, snaps, reset := l.slv.plugReset, work := startWork md cfg base cold snaps }
        let l := if cold then l.inc R.SOLD.COLDCNT else l
        let l := if mis then (l.put R.SOL.WSMIS 1).inc R.SOLD.WSMCNT else l
        let l := (l.put R.SOL.COLDREQ 0).setSlv fun s => { s with plugReset := false, nextCold := false }
        if dom then
          let r := l.sendExchanges md j false
          r.1.setSlv fun s => { s with epochs := s.epochs ++ [r.2] }
        else l.setSlv fun s => { s with job := some j, ready := none }

/-- E3 ends a computation after `dur` µs (R179); a member of a domain ends its epoch through its iterations. -/
def Lane.solveEnd (l : Lane) (dur : Nat) : Lane :=
  match l.slv.model, l.slv.job with
  | some md, some j =>
    if l.slv.ready.isSome then l
    else
      let w := iterateN md j.cfg (jobTemps md j.base j.cold).tprop (fun _ => 0) j.cfg.nit 1 j.work
      let th := if j.reset then thermalInit md else l.slv.therm
      let r := finishSolve md (fun _ => 0) l.solPeriod th l.slv.flows l.slv.cur { j with work := w }
      let d := min dur (2 ^ 32 - 1)
      ((l.put R.SOLD.DURUS d).put R.SOLD.MAXDUR (max d (l.get R.SOLD.MAXDUR))).setSlv fun s => { s with ready := some r }
  | some _, none => if l.slv.epochs.any fun (j : SolveJob) => j.voted.isNone then l.domainStep7 else l
  | none, _ => l

/-- The running computation ends without a result (R166, R64). -/
def Lane.solveAbort (l : Lane) : Lane :=
  match l.slv.model with
  | none => l.setSlv fun s => { s with nextCold := true }
  | some md =>
    let l := l.slv.epochs.foldl (fun (l : Lane) j =>
      let r := l.stopEpoch md j
      r.1.setEpoch r.2) l
    l.setSlv fun s => { s with job := none, ready := none, nextCold := true, plugReset := s.plugReset || s.job.any SolveJob.reset }

def Lane.solveBusy (l : Lane) : Bool := l.slv.job.isSome || l.slv.epochs.any fun (j : SolveJob) => j.voted.isNone

/-! ### Dispatch: publication (R205 to R207) -/

def Lane.writeChannel (l : Lane) (c : ChanRec) (v : Word) : Lane :=
  if c.dkind = 0 then
    (if l.loops.any fun p => p.1 == c.daddr then
      let x := l.loop c.daddr
      l.setLoop c.daddr { x with st := { x.st with dsp := v } }
    else l)
  else l.setPi c.daddr v

/-- Variable of a channel in step 0. -/
def DispRec.chanVar (r : DispRec) (c : ChanRec) : Word :=
  let j := r.job
  let k := if c.vkind = 0 then c.vidx
    else if c.vkind = 1 then 2 * j.np + c.vidx
    else if c.vkind = 2 then 2 * j.np + j.ns + c.vidx
    else 2 * j.np + 2 * j.ns + c.vidx
  r.it.x.getD k 0

def Lane.showDispatch (l : Lane) (r : DispRec) : Lane :=
  let j := r.job
  let l := (((l.putB R.OPT.NOSTATE j.nostate).putB R.OPT.WIDEN j.widen).putB R.OPT.CAPCLIP j.capclip).putB R.OPT.SHORT r.short
  let l := ((l.putB R.OPT.WSMIS j.wsmis).putB R.OPT.COLD j.cold).put R.OPT.CSTAT r.outcome
  let l := ((l.put64 R.OPT.DISPNO_L R.OPT.DISPNO_H j.n).put64 R.OPT.OFP_L R.OPT.OFP_H j.ofp.toNat).put R.OPT.OBJ r.obj.toNat
  let l := ((l.put R.OPTD.RPRIM r.rprim.toNat).put R.OPTD.RDUAL r.rdual.toNat).put R.OPTD.MU r.mu.toNat
  let l := ((l.put R.OPTD.ALPHAMIN r.alphamin.toNat).put R.OPTD.SLKMAX r.slkmax.toNat).put R.OPTD.NPIVR r.npivr
  let l := ((l.put R.OPTD.NFIX (j.prog.fixed.countP fun (b : Bool) => b)).put R.OPTD.NROWS j.prog.nrow).put R.OPTD.NVARS j.prog.nvar
  let l := (l.put R.OPTD.REJIT r.rejit).irq R.OPT.I_PUB
  let l := if r.short then (l.inc R.OPTD.SHORTCNT).irq R.OPT.I_SHORT else l
  let l := if r.outcome = 1 then (l.inc R.OPTD.SUBCNT).irq R.OPT.I_SUBOPT else l
  let l := (l.irqIf (decide (r.rejit ≠ 0)) R.OPTD.I_REJECT).irqIf (decide (r.npivr ≠ 0)) R.OPTD.I_REGPIV
  let l := ((l.put R.OPT.HELD 0).put R.OPT.FALLBK 0).setOpt fun o => { o with cur := some r, missed := 0 }
  match l.opt.image with
  | none => l
  | some d => d.chans.foldl (fun (l : Lane) c => l.writeChannel c (F32.fma (r.chanVar c) c.gain c.ofs)) l

/-- A period that published nothing (R207), by the HOLDMAX latched at its start. -/
def Lane.dispatchMissed (l : Lane) : Lane :=
  let n := l.opt.missed + 1
  let l := ((l.inc R.OPTD.MISSCNT).put R.OPT.HELD 1).setOpt fun o => { o with missed := n }
  if n < l.opt.holdmax ∨ l.on R.OPT.FALLBK ∨ l.opt.image.isNone then l
  else
    let l := (l.put R.OPT.FALLBK 1).irq R.OPT.I_FALLBK
    match l.opt.image with
    | none => l
    | some d => d.chans.foldl (fun (l : Lane) c => if c.fbmode = 1 then l.writeChannel c c.fbval else l) l

def Lane.optPeriod (l : Lane) : Nat := l.get R.OPT.PERIOD

/-- Step 4. A period cut short by reduced mode counts as no miss; one without its array does (R68, R207). -/
def Lane.dispatchStep4 (l : Lane) : Lane :=
  let pd := l.optPeriod
  if pd = 0 ∨ l.fno % pd ≠ 0 then l
  else match l.opt.period with
    | none => l.put R.OPT.LOUT l.opt.outcome
    | some _ =>
      let job := l.opt.job
      let ready := l.opt.ready
      let l := l.setOpt fun o => { o with job := none, ready := none }
      match ready with
      | some r =>
        let l := l.put R.OPT.LOUT r.outcome
        if r.outcome = 2 then ((l.inc R.OPTD.INVCNT).irq R.OPT.I_INVALID).dispatchMissed else l.showDispatch r
      | none =>
        if job.isSome then { l.dispatchMissed with deadlineFlt := true }
        else (l.put R.OPT.LOUT l.opt.outcome).dispatchMissed

/-! ### Dispatch: snapshot and end (R188, R189, R202, R204) -/

def Lane.dispatchStep6 (l : Lane) : Lane :=
  let pd := l.optPeriod
  if pd = 0 ∨ l.fno % pd ≠ 0 then l
  else
    let l := l.setOpt fun o => { o with holdmax := l.get R.OPT.HOLDMAX }
    match l.slv.model, l.opt.image with
    | some md, some d =>
      if l.crucibleOff ∨ !l.on R.NET.LOADED ∨ !l.enabled 0x13 then
        (l.irq R.OPT.I_SKIP).setOpt fun o => { o with period := if l.reduced then none else some l.fno, outcome := 4, job := none, ready := none }
      else
        let nstep := l.get R.OPT.NSTEP
        let step := l.get R.OPT.STEP
        let q := buildProg { d, md, res := l.slv.cur, therm := l.slv.therm, tables := l.opt.tabs, pi := l.prg.view, nstep, step
                             cscale := l.getW R.OPT.CSCALE, co2pr := l.getW R.OPT.CO2PR }
        let ofp := optFp md nstep step
        let mis := l.opt.cur.any fun r => r.job.ofp != ofp
        let cold := l.on R.OPT.COLDREQ || l.opt.nextCold || l.opt.cur.isNone || mis
        let start := match l.opt.cur, cold with
          | some r, false => warmIter q.1 ((pd + step * 30000) / (step * 60000)) r.it
          | _, _ => coldIter q.1
        let j : DispJob := {
          n := l.fno / pd, fno := l.fno, prog := q.1, start, cold, wsmis := mis, widen := q.2.1, capclip := q.2.2.1, nostate := q.2.2.2
          ofp, sfp := md.sfp, cscale := l.getW R.OPT.CSCALE, step, np := d.plants.length, ns := d.stores.length, nk := md.netw.length
          ptol := l.getW R.OPT.PTOL, dtol := l.getW R.OPT.DTOL, gtol := l.getW R.OPT.GTOL, slktol := l.getW R.OPT.SLKTOL }
        let l := if cold then l.inc R.OPTD.COLDCNT else l
        let l := if mis then (l.put R.OPT.WSMIS 1).inc R.OPTD.WSMCNT else l
        (l.put R.OPT.COLDREQ 0).setOpt fun o => { o with job := some j, ready := none, nextCold := false, period := some l.fno, outcome := 3 }
    | _, _ => (l.irq R.OPT.I_SKIP).setOpt fun o => { o with period := some l.fno, outcome := 4, job := none, ready := none }

def Lane.dispatchEnd (l : Lane) (dur : Nat) : Lane :=
  match l.opt.job with
  | none => l
  | some j =>
    if l.opt.ready.isSome then l
    else
      let d := min dur (2 ^ 32 - 1)
      ((l.put R.OPTD.DURUS d).put R.OPTD.MAXDUR (max d (l.get R.OPTD.MAXDUR))).setOpt fun o => { o with ready := some (finishDispatch j) }

/-- SRST or reduced mode ends the running dispatch: outcome ABORTED. A dispatch runs until its publication frame, whenever
its computation has ended. -/
def Lane.dispatchAbort (l : Lane) (reduced : Bool) : Lane :=
  l.setOpt fun o => { o with
    job := none, ready := none, nextCold := true, outcome := if o.job.isSome then 3 else o.outcome
    period := if reduced then none else o.period }

/-! ### Registers of the windows -/

/-- Computed registers of the SOL page (Table SOL-10). -/
def Lane.readSol (l : Lane) (off : Nat) : Nat :=
  let it := l.solItem (l.get R.SOL.WKIND) (l.get R.SOL.WIDX)
  if off = 0x070 then ((it.map fun (x : Word × Nat) => x.1).getD 0).toNat
  else if off = 0x074 then (it.map fun (x : Word × Nat) => x.2).getD 0
  else (l.reg (0x11000 + off)).toNat

/-- Computed registers of the OPT page (R210, Table OPT-11). -/
def Lane.readOpt (l : Lane) (off : Nat) : Nat :=
  if off = 0x080 then ((l.opt.tabs.getD (l.get R.OPT.TKIND) []).getD (l.get R.OPT.TIDX) 0).toNat
  else if off = 0x088 then
    ((l.opt.cur.bind fun r => r.item (l.get R.OPT.RKIND) (l.get R.OPT.RSTEP) (l.get R.OPT.RIDX)).getD 0).toNat
  else (l.reg (0x13000 + off)).toNat

/-- A write to TDATA stores at TKIND and TIDX and steps TIDX (R210), also while OPT is disabled (DEDUCED, assumption log
125). -/
def Lane.writeTdata (l : Lane) (w : Word) : Lane :=
  let k := l.get R.OPT.TKIND
  let i := l.get R.OPT.TIDX
  (l.setOpt fun o => { o with tables := o.tabs.modify k fun t => t.set i w }).put R.OPT.TIDX (if i = 191 then 0 else i + 1)

end Sys2Proof.Machine
end

