-- ==== Sys2Proof/Machine/Ports.lean ====
section
/-! DEFINITION. Field ports as E1 of each lane runs them (21_field_ports.md R454 to R473): the port section,
stations, telegrams, Modbus, M-Bus, IEC 60870-5-104 points and queue streams. Protocol units the spec names by
standard are taken from that standard (assumption log 26). -/

namespace Sys2Proof.Machine

/-! ### The section (R459, Table PRT-2) -/

structure SerialCfg where
  port : Nat
  baud : Nat
  line : Nat
  deriving DecidableEq, Repr

structure CanCfg where
  port : Nat
  mode : Nat
  oneshot : Bool
  nbr : Nat
  dbr : Nat
  deriving DecidableEq, Repr

structure PortSection where
  ports : Ports := {}
  ethOn : List Nat := []
  can : List CanCfg := []
  ser : List SerialCfg := []
  mb : List SerialCfg := []
  /-- substitute values of the section: station, input word offset, value -/
  subs : List (Nat × Nat × Word) := []
  deriving DecidableEq, Repr

def canNominal (n : Nat) : Bool := [125, 250, 500, 800, 1000].contains n
def canData (n : Nat) : Bool := [1000, 2000, 4000, 5000].contains n

def readStation (r : List Byte) : Station :=
  let f := u8At r 9
  { stn := u16At r 0, src := u8At r 2, proto := u8At r 3, addr := u32At r 4, unit := u8At r 8
    subst := f % 4, wordmode := f / 4 % 4, tls := f.testBit 4, secondary := f.testBit 5
    inbase := u16At r 10, incnt := u16At r 12, outbase := u16At r 14, outcnt := u16At r 16
    rreg := u16At r 18, wreg := u16At r 20, canid := u32At r 18, rfc := u8At r 22, retry := u8At r 23
    period := u16At r 24, phase := u16At r 26, tout := u16At r 28 }

/-- The area lies within the remote station words of Table PRG-5. -/
def stationArea (base cnt : Nat) : Bool := cnt == 0 || (decide (0x100 ≤ base) && decide (base + cnt ≤ 0x8000))

/-- Eight BCD digits. -/
def bcd8 (n : Nat) : Bool := (List.range 8).all fun i => decide (n / 16 ^ i % 16 ≤ 9)

/-- A CAN identifier: 29 bits with bit 31 set, or 11 bits (R454). -/
def canIdent (n : Nat) : Bool := if n.testBit 31 then decide (n % 2 ^ 31 < 2 ^ 29) else decide (n < 2 ^ 11)

/-- One request reads at most 125 registers or 2 000 bits (R466), and writes at most 123 registers or 1 968 bits (the Modbus
application protocol; assumption log 127). -/
def modbusFits (s : Station) : Bool :=
  let per := if s.wordmode = 0 then 1 else 2
  if s.rfc ≤ 2 then decide (32 * s.incnt ≤ 2000) && decide (32 * s.outcnt ≤ 1968)
  else decide (per * s.incnt ≤ 125) && decide (per * s.outcnt ≤ 123)

def stationOk (r : List Byte) (s : Station) : Bool :=
  let eth := decide (0x10 ≤ s.src) && decide (s.src ≤ 0x13)
  let can := decide (0x18 ≤ s.src) && decide (s.src ≤ 0x1B)
  let ser := decide (0x1C ≤ s.src) && decide (s.src ≤ 0x1F)
  let mb := s.src == 0x20 || s.src == 0x21
  decide (s.stn < 2048) && ((s.proto == 1 && (eth || ser)) || (s.proto == 2 && can) || (s.proto == 3 && mb) || (s.proto == 4 && eth))
    && decide (s.unit ≤ 247) && decide (s.subst ≤ 2) && decide (s.wordmode ≤ 2) && decide (u8At r 9 < 64)
    && stationArea s.inbase s.incnt && stationArea s.outbase s.outcnt
    && decide (1 ≤ s.rfc) && decide (s.rfc ≤ 4) && decide (s.retry ≤ 5) && decide (1 ≤ s.period)
    && decide (1 ≤ s.tout) && (s.proto != 3 || (s.outcnt == 0 && decide (s.incnt ≤ 64)))
    && ((s.proto != 4 && !(s.proto == 1 && ser)) || s.addr == 0) && (s.proto != 4 || decide (s.outcnt ≤ 16))
    && (s.proto != 2 || decide (s.outcnt ≤ 16)) && u16At r 30 == 0
    && (s.proto != 3 || (if s.secondary then bcd8 s.addr else decide (1 ≤ s.addr) && decide (s.addr ≤ 250)))
    && (s.proto != 2 || (canIdent s.addr && canIdent s.canid)) && (s.proto != 1 || modbusFits s)

/-- Largest index of a point's source: bit of a word, register of Table MET-7, HEAT, COOL, VOL and VOLF of a heat point. -/
def iecIndexMax (srck : Nat) : Nat := if srck = 2 then 7 else if srck = 3 then 3 else 31

def portRecord (c : PortSection) (r : List Byte) : Option PortSection :=
  let p := u8At r 1
  let zero (o : Nat) : Bool := (r.drop o).all (· == 0)
  match u8At r 0 with
  | 1 =>
    let e : EthCfg := { services := .ofNat 5 (u8At r 2), tgslot := u8At r 3, ip := wordAt r 4, mask := wordAt r 8, gw := wordAt r 12
                        tgport := u16At r 16, twin := u16At r 18, ca := u16At r 20 }
    if 3 < p ∨ 32 ≤ u8At r 2 ∨ e.tgslot < 8 ∨ 127 < e.tgslot ∨ e.twin < 1 ∨ 3600 < e.twin ∨ e.ca < 1 ∨ 65534 < e.ca ∨ !zero 22 then none
    else some { c with ethOn := c.ethOn ++ [p], ports := { c.ports with eth := c.ports.eth.set p e } }
  | 2 =>
    let x : CanCfg := ⟨p, u8At r 2, (r.getD 3 0).getLsbD 0, u16At r 4, u16At r 6⟩
    if 3 < p ∨ 3 < x.mode ∨ 1 < u8At r 3 ∨ !canNominal x.nbr ∨ !canData x.dbr ∨ !zero 8 then none else some { c with can := c.can ++ [x] }
  | 3 => if 3 < p ∨ 7 < u8At r 2 ∨ 16 ≤ u8At r 3 ∨ u8At r 3 % 4 = 3 ∨ !zero 4 then none else some { c with ser := c.ser ++ [⟨p, u8At r 2, u8At r 3⟩] }
  | 4 => if 1 < p ∨ 2 < u8At r 2 ∨ !zero 3 then none else some { c with mb := c.mb ++ [⟨p, u8At r 2, 0⟩] }
  | 5 =>
    let s := readStation (r.drop 0)
    if !stationOk r s then none else some { c with ports := { c.ports with stations := c.ports.stations ++ [s] } }
  | 6 =>
    let n := u8At r 4
    let vs := (List.range n).map fun i => (u16At r 0, u16At r 2 + i, wordAt r (8 + 4 * i))
    if n < 1 ∨ 6 < n ∨ 2048 ≤ u16At r 0 ∨ !((sliceB r 5 3).all (· == 0)) then none
    else some { c with subs := c.subs ++ vs }
  | 7 =>
    let b : QBinding := ⟨p, u8At r 2, u8At r 3, u8At r 4, u8At r 5, u16At r 6⟩
    if p < 8 ∨ 39 < p ∨ (b.exe ≠ 4 ∧ b.exe ≠ 5) ∨ 7 < b.prio ∨ b.src < 0x10 ∨ 0x21 < b.src ∨ 3 < b.stream ∨ !zero 8 then none
    else some { c with ports := { c.ports with bindings := c.ports.bindings ++ [b] } }
  | 8 =>
    let w : SrvWindow := ⟨p, u16At r 2, u16At r 4, u16At r 6, u16At r 8, u8At r 10⟩
    if p < 1 ∨ 247 < p ∨ 2 < w.wordmode ∨ 65536 < w.rbase + w.rcnt ∨ 65536 < w.wbase + w.wcnt ∨ !zero 11 then none
    else some { c with ports := { c.ports with windows := c.ports.windows ++ [w] } }
  | 9 =>
    let q : IecPoint := { ioa := u24At r 1, typ := u8At r 4, srck := u8At r 5, addr := u16At r 6, bit := u8At r 8, deadband := wordAt r 12 }
    if !List.contains [1, 3, 13, 15, 30, 31, 36, 37, 45, 50] q.typ ∨ 3 < q.srck ∨ iecIndexMax q.srck < q.bit
        ∨ !((sliceB r 9 3).all (· == 0)) ∨ !zero 16 then none
    else some { c with ports := { c.ports with points := c.ports.points ++ [q] } }
  | _ => none

/-- Two word ranges share a word. -/
def overlap (a an b bn : Nat) : Bool := an != 0 && bn != 0 && decide (a < b + bn) && decide (b < a + an)

def areasClash : List (Nat × Nat) → Bool
  | [] => false
  | a :: l => l.any (fun b => overlap a.1 a.2 b.1 b.2) || areasClash l

/-- The substitute values of the section reach their stations. -/
def PortSection.substituted (c : PortSection) : PortSection :=
  let of (s : Station) : Station := { s with substv := (c.subs.filter fun v => v.1 == s.stn).map (·.2) }
  { c with ports := { c.ports with stations := c.ports.stations.map of } }

/-- The section, or 0x3840. -/
def portSection (b : List Byte) : Except Nat PortSection :=
  let n := u32At b 0
  if b.length ≠ 20 + 32 * n ∨ u32At b (16 + 32 * n) ≠ (crc32c (b.take (16 + 32 * n))).toNat ∨ !((sliceB b 4 12).all (· == 0)) then .error 0x3840
  else
    let c := (List.range n).foldl (fun (c : Option PortSection) i => c.bind fun c => portRecord c (sliceB b (16 + 32 * i) 32)) (some {})
    match c with
    | none => .error 0x3840
    | some c =>
      let ss := c.ports.stations
      let dup := ss.any fun s => decide (1 < ss.countP fun t => t.stn == s.stn)
      let areas := ss.flatMap fun s => [(s.inbase, s.incnt), (s.outbase, s.outcnt)]
      if dup ∨ areasClash areas ∨ 4096 < c.ports.points.length then .error 0x3840 else .ok c.substituted

/-- A slot suits telegrams: an AES key with DEST E1 (R463). -/
def Lane.telegramSlotOk (l : Lane) (n : Nat) : Bool :=
  let k := l.slot n
  k.typ == 2 && k.dest.getLsbD 1

def Lane.setEn (l : Lane) (page : Nat) (b : Bool) : Lane :=
  let k := page * 0x1000 + 8
  l.setReg k (withBits (l.reg k) 0 0 (if b then 1 else 0))

/-- Installation: registers and state of the ports. -/
def Lane.installPorts (l : Lane) (c : PortSection) : Lane :=
  let l := { l with ports := c.ports }
  let l := c.ethOn.foldl (fun (l : Lane) n =>
    let e := c.ports.eth.getD n {}
    let l := (((l.put (R.ETH.IPADDR.inst n) e.ip.toNat).put (R.ETH.NETMASK.inst n) e.mask.toNat).put (R.ETH.GATEWAY.inst n) e.gw.toNat)
    ((l.put (R.ETH.SERV.inst n) e.services.toNat).put (R.ETH.TGPORT.inst n) e.tgport).setEn (0x38 + n) true) l
  let l := c.can.foldl (fun (l : Lane) x =>
    (((((l.put (R.CAN.MODE.inst x.port) x.mode).putB (R.CAN.ONESHOT.inst x.port) x.oneshot).put (R.CAN.NBR.inst x.port) x.nbr).put
      (R.CAN.DBR.inst x.port) x.dbr).setEn (0x44 + x.port) true)) l
  let l := c.ser.foldl (fun (l : Lane) x => ((l.put (R.SER.BAUD.inst x.port) x.baud).put (R.SER.LINE.inst x.port) x.line).setEn (0x48 + x.port) true) l
  c.mb.foldl (fun (l : Lane) x => (l.put (R.MB.BAUD.inst x.port) x.baud).setEn (0x4C + x.port) true) l

/-! ### Stations (R246, R247) -/

def Lane.station (l : Lane) (n : Nat) : Option Station := l.ports.stations.find? fun s => s.stn == n

def Lane.setPorts (l : Lane) (f : Ports → Ports) : Lane := { l with ports := f l.ports }
def Lane.modStation (l : Lane) (n : Nat) (f : Station → Station) : Lane :=
  l.setPorts fun p => { p with stations := p.stations.map fun s => if s.stn = n then f s else s }

def Lane.piBit (l : Lane) (base n : Nat) (b : Bool) : Lane :=
  let a := base + n / 32
  l.setPi a (withBits (l.pi a) (n % 32) (n % 32) (if b then 1 else 0))

def Lane.stationGood (l : Lane) (n : Nat) : Lane :=
  match l.station n with
  | none => l
  | some s =>
    let l := l.modStation n fun s => { s with good := true, lastAt := some l.fno, tries := 0, fresh := s.fresh || !s.good }
    if s.good then l else (l.piBit 0x80 n true).irq R.PIMG.I_STNUP

/-- A write that was to resynchronise a station that has dropped again is a write like any other. -/
def dropResync (k : Nat) : Nat := if k = 2 then 0 else k

/-- GOOD to STALE: the substitutes are written. The write that resynchronises is the first after the next return (R247). -/
def Lane.stationDown (l : Lane) (n : Nat) : Lane :=
  match l.station n with
  | none => l
  | some s =>
    let l := l.modStation n fun s => { s with
      good := false, busy := false, tries := 0, resync := false, writes := s.writes.map dropResync
      cpend := s.cpend.map fun c => (c.1, c.2.1, dropResync c.2.2) }
    if !s.good then l
    else
      let l := (l.modStation n fun s => { s with drops := satAdd 32 s.drops 1 }).piBit 0x80 n false
      let l := l.irq R.PIMG.I_STNDOWN
      match s.subst with
      | 1 => s.substv.foldl (fun (l : Lane) v => if v.1 < s.incnt then l.setPi (s.inbase + v.1) v.2 else l) l
      | 2 => (List.range s.incnt).foldl (fun (l : Lane) k => l.setPi (s.inbase + k) 0) l
      | _ => l

/-- An output write was not delivered. -/
def Lane.undelivered (l : Lane) (n : Nat) : Lane :=
  ((l.modStation n fun s => { s with undlv := true, sundlv := satAdd 32 s.sundlv 1 }).piBit 0xC0 n true).irq R.PIMG.I_UNDLV

/-- A write of kind `k` was not delivered; one that was due while the station was STALE has been counted already. -/
def Lane.notDelivered (l : Lane) (n k : Nat) : Lane := if k = 1 then l else l.undelivered n

/-- A write of kind `k` is confirmed: the one that resynchronises clears RESYNC and the undelivered bit (R247). -/
def Lane.delivered1 (l : Lane) (n k : Nat) : Lane :=
  if k = 2 then (l.modStation n fun s => { s with undlv := false, resync := false }).piBit 0xC0 n false else l

/-- The oldest write outstanding has ended. -/
def Lane.writeEnds (l : Lane) (n : Nat) (f : Lane → Nat → Nat → Lane) : Lane :=
  match (l.station n).bind fun s => s.writes.head? with
  | none => l
  | some k => f (l.modStation n fun s => { s with writes := s.writes.drop 1, wfirst := false }) n k

def Lane.writeFailed (l : Lane) (n : Nat) : Lane := l.writeEnds n Lane.notDelivered
def Lane.writeConfirmed (l : Lane) (n : Nat) : Lane := l.writeEnds n Lane.delivered1

/-- The write placed last was not sent. -/
def Lane.writeLost (l : Lane) (n : Nat) : Lane :=
  match (l.station n).bind fun s => s.writes.getLast? with
  | none => l
  | some k => (l.modStation n fun s => { s with writes := s.writes.dropLast }).notDelivered n k

def Lane.setInputs (l : Lane) (s : Station) (ws : List Word) : Lane :=
  (List.range (min s.incnt ws.length)).foldl (fun (l : Lane) k => l.setPi (s.inbase + k) (ws.getD k 0)) l

/-- The output words a station is sent, forces applied (R252). -/
def Lane.outputs (l : Lane) (s : Station) : List Word :=
  (List.range s.outcnt).map fun k => forcedWord l.prg.forces (s.outbase + k) (l.pi (s.outbase + k))

/-! ### Modbus (R460, R466, R467) -/

/-- Registers onto words under WORDMODE. -/
def regsToWords (mode : Nat) : List Nat → List Word
  | [] => []
  | [a] => if mode = 0 then [.ofNat 32 a] else []
  | a :: b :: l =>
    if mode = 0 then .ofNat 32 a :: regsToWords mode (b :: l)
    else (if mode = 1 then BitVec.ofNat 32 (a * 65536 + b) else BitVec.ofNat 32 (b * 65536 + a)) :: regsToWords mode l

def wordsToRegs (mode : Nat) (ws : List Word) : List Nat := ws.flatMap fun w =>
  let h := w.toNat / 65536
  let o := w.toNat % 65536
  if mode = 0 then [o] else if mode = 1 then [h, o] else [o, h]

def regCount (mode cnt : Nat) : Nat := if mode = 0 then cnt else 2 * cnt

def be16s (b : List Byte) (o n : Nat) : List Nat := (List.range n).map fun i => u8At b (o + 2 * i) * 256 + u8At b (o + 2 * i + 1)
def beB (n x : Nat) : List Byte := beBytes n x

/-- Bits of words as Modbus packs them, and back. -/
def wordsBits (ws : List Word) : List Byte := wordsLe ws
def bitsWords (n : Nat) (b : List Byte) : List Word := (List.range n).map fun i => wordAt (b ++ [0, 0, 0, 0]) (4 * i)

def readPdu (s : Station) : List Byte :=
  let n := if s.rfc ≤ 2 then 32 * s.incnt else regCount s.wordmode s.incnt
  [BitVec.ofNat 8 s.rfc] ++ beB 2 s.rreg ++ beB 2 n

def writePdu (s : Station) (ws : List Word) : List Byte :=
  if s.rfc ≤ 2 then
    [15] ++ beB 2 s.wreg ++ beB 2 (32 * s.outcnt) ++ [BitVec.ofNat 8 (4 * s.outcnt)] ++ wordsBits ws
  else
    let rs := wordsToRegs s.wordmode ws
    [16] ++ beB 2 s.wreg ++ beB 2 rs.length ++ [BitVec.ofNat 8 (2 * rs.length)] ++ rs.flatMap (beB 2)

def rtuAdu (unit : Nat) (pdu : List Byte) : List Byte :=
  let b := BitVec.ofNat 8 unit :: pdu
  b ++ leBytes 2 (crc16Modbus b)

def mbap (tid unit : Nat) (pdu : List Byte) : List Byte := beB 2 tid ++ [0, 0] ++ beB 2 (pdu.length + 1) ++ [BitVec.ofNat 8 unit] ++ pdu

/-- Stations on Modbus TCP that share an address and a port share a connection; connections are numbered in
the order of their first station. -/
def Ports.tcpKeys (p : Ports) : List (Nat × Nat) :=
  (p.stations.filter fun s => s.proto == 1 && decide (s.src ≤ 0x13)).foldl (fun l s =>
    let k := (s.addr, if s.tls then 802 else 502)
    if l.contains k then l else l ++ [k]) []

def Ports.connOf (p : Ports) (s : Station) : Nat := (p.tcpKeys.findIdx? fun k => k == (s.addr, if s.tls then 802 else 502)).getD 0

def portHeader (kind a b : Nat) : List Byte := [BitVec.ofNat 8 kind] ++ leBytes 2 a ++ [BitVec.ofNat 8 b]

/-- A KIND 0x80 entry. -/
def Lane.sendUnit (l : Lane) (src stn : Nat) (reply : Bool) (tout : Nat) (unit : List Byte) : Lane :=
  l.emit 3 src (.bytes (portHeader 0x80 stn (if reply then 1 else 0) ++ leBytes 2 tout ++ [0, 0] ++ unit))

/-- A KIND 0x81 entry. -/
def Lane.sendAdu (l : Lane) (src conn svc : Nat) (adu : List Byte) : Lane := l.emit 3 src (.bytes (portHeader 0x81 conn svc ++ adu))

/-- Places a Modbus request; the transaction identifier is 2 × STN, plus 1 for a write. -/
def Lane.modbusRequest (l : Lane) (s : Station) (write : Bool) (pdu : List Byte) : Lane :=
  if s.src ≤ 0x13 then l.sendAdu s.src (l.ports.connOf s) 1 (mbap (2 * s.stn + (if write then 1 else 0)) s.unit pdu)
  else l.sendUnit s.src s.stn (decide (s.unit ≠ 0)) s.tout (rtuAdu s.unit pdu)

/-- A Modbus response PDU of station `s`. A station without input words is GOOD by the responses to its writes
(assumption log 110). -/
def Lane.modbusResponse (l : Lane) (s : Station) (pdu : List Byte) : Lane :=
  let fc := u8At pdu 0
  let done (l : Lane) : Lane := l.modStation s.stn fun s => { s with busy := false, tries := 0 }
  if fc = s.rfc ∧ s.busy then
    let n := u8At pdu 1
    let want := if s.rfc ≤ 2 then 4 * s.incnt else 2 * regCount s.wordmode s.incnt
    if n ≠ want ∨ pdu.length < 2 + n then done l
    else
      let ws := if s.rfc ≤ 2 then bitsWords s.incnt (pdu.drop 2) else regsToWords s.wordmode (be16s pdu 2 (n / 2))
      (done (l.setInputs s ws)).stationGood s.stn
  else if fc = 15 ∨ fc = 16 then
    let l := l.writeConfirmed s.stn
    if s.incnt = 0 ∧ s.writes ≠ [] then l.stationGood s.stn else l
  else if fc = 0x8F ∨ fc = 0x90 then l.writeFailed s.stn
  else if fc = 0x80 + s.rfc then done l
  else l

/-! ### CAN FD (R454, R460) -/

def dlcOf (n : Nat) : Nat :=
  if n ≤ 8 then n else if n ≤ 12 then 9 else if n ≤ 16 then 10 else if n ≤ 20 then 11 else if n ≤ 24 then 12
  else if n ≤ 32 then 13 else if n ≤ 48 then 14 else 15

def dlcLen (d : Nat) : Nat := [0, 1, 2, 3, 4, 5, 6, 7, 8, 12, 16, 20, 24, 32, 48, 64].getD d 64

def canFrame (ident : Nat) (data : List Byte) : List Byte :=
  let d := dlcOf data.length
  leBytes 4 ident ++ [if 8 < data.length then 1 else 0, BitVec.ofNat 8 d, 0, 0] ++ data ++ List.replicate (dlcLen d - data.length) 0

/-! ### M-Bus (R473) -/

def mbusShort (c a : Nat) : List Byte := [0x10, BitVec.ofNat 8 c, BitVec.ofNat 8 a, BitVec.ofNat 8 (c + a), 0x16]

/-- Selection of a secondary address by its identification number. -/
def mbusSelect (ident : Nat) : List Byte :=
  let body : List Byte := [0x53, 0xFD, 0x52] ++ leBytes 4 ident ++ [0xFF, 0xFF, 0xFF, 0xFF]
  [0x68, 0x0B, 0x0B, 0x68] ++ body ++ [BitVec.ofNat 8 (body.foldl (fun n b => n + b.toNat) 0), 0x16]

/-- A number of `n` bytes of BCD, least significant first. -/
def bcdV (n : Nat) (b : List Byte) : Option Int :=
  let ds := (sliceB b 0 n).reverse.flatMap fun x => [x.toNat / 16, x.toNat % 16]
  if ds.all fun d => decide (d ≤ 9) then some (ds.foldl (fun a d => 10 * a + d) 0 : Nat) else none

/-- Length and value of the data field of a record: BCD, integer or real, of fixed or (DIF 13) variable length; none where it
has no number. -/
def mbusData (dif : Nat) (b : List Byte) : Nat × Option (Int ⊕ Word) :=
  let int (n : Nat) : Nat × Option (Int ⊕ Word) := (n, some (.inl (toSigned (8 * n) (ofLe (sliceB b 0 n)))))
  let bcdN (n : Nat) : Nat × Option (Int ⊕ Word) := (n, (bcdV n b).map .inl)
  match dif % 16 with
  | 0 => (0, none)
  | 1 => int 1
  | 2 => int 2
  | 3 => int 3
  | 4 => int 4
  | 5 => (4, some (.inr (wordAt b 0)))
  | 6 => int 6
  | 7 => int 8
  | 9 => bcdN 1
  | 10 => bcdN 2
  | 11 => bcdN 3
  | 12 => bcdN 4
  | 13 =>
    let v := u8At b 0
    let n := v % 16
    let r := bcdV n (b.drop 1)
    if v < 0xC0 then (1 + v, none)
    else if v < 0xD0 then (1 + n, r.map .inl)
    else if v < 0xE0 then (1 + n, r.map fun x => .inl (-x))
    else if v < 0xF0 then (1 + n, some (.inl (toSigned (8 * n) (ofLe (sliceB b 1 n)))))
    else (1 + (if v < 0xF5 then 4 * (v - 0xEC) else if v = 0xF5 then 48 else if v = 0xF6 then 64 else 0), none)
  | 14 => bcdN 6
  | _ => (0, none)

/-- Decimal exponent of a primary VIF, none where it has no unit of its own; times and durations have exponent 0. -/
def vifExp (v : Nat) : Option Int :=
  let n : Int := v % 8
  let q : Int := v % 4
  if v < 0x08 then some (n - 3) else if v < 0x10 then some n else if v < 0x18 then some (n - 6) else if v < 0x20 then some (n - 3)
  else if v < 0x28 then some 0
  else if v < 0x30 then some (n - 3) else if v < 0x38 then some n else if v < 0x40 then some (n - 6) else if v < 0x48 then some (n - 7)
  else if v < 0x50 then some (n - 9) else if v < 0x58 then some (n - 3) else if v < 0x6C then some (q - 3)
  else if v = 0x6E ∨ (0x70 ≤ v ∧ v < 0x78) then some 0
  else none

def mbusValue (v : Option (Int ⊕ Word)) (e : Option Int) : Word :=
  match v, e with
  | some (.inl x), some e => if e < 0 then F32.ofRat x (10 ^ e.natAbs) else F32.ofRat (x * 10 ^ e.natAbs) 1
  | some (.inr w), some e => if e < 0 then F32.div w (F32.ofRat (10 ^ e.natAbs) 1) else F32.mul w (F32.ofRat (10 ^ e.natAbs) 1)
  | _, _ => F32.nan

/-- Data records of a variable data structure, in order. A VIF 0x7C gives its unit as text, with its length, behind it. -/
def mbusRecords : Nat → List Byte → List Word
  | 0, _ => []
  | fuel + 1, b =>
    match b with
    | [] => []
    | d :: l =>
      if d = 0x2F then mbusRecords fuel l
      else if d = 0x0F ∨ d = 0x1F then []
      else
        let skip (l : List Byte) : List Byte := (l.dropWhile (·.getLsbD 7)).drop 1
        let l := if d.getLsbD 7 then skip l else l
        let v := u8At l 0
        let l := l.drop 1
        let l := if v % 128 = 0x7C then l.drop (1 + u8At l 0) else l
        let l := if 0x80 ≤ v then skip l else l
        let r := mbusData d.toNat l
        mbusValue r.2 (vifExp (v % 128)) :: mbusRecords fuel (l.drop r.1)

def mbusWords (b : List Byte) : Option (List Word) :=
  if u8At b 0 ≠ 0x68 ∨ u8At b 3 ≠ 0x68 ∨ u8At b 6 ≠ 0x72 then none
  else
    let n := u8At b 1
    some (mbusRecords 128 (sliceB b 19 (n - 15)))

/-- An answer of a slave as EN 13757-2 frames it: one acknowledgement character, or a long frame whose two lengths, check
sum and end character fit. Overlapping answers give no such frame (R473, assumption log 83). -/
def mbusAnswer (b : List Byte) : Bool :=
  let n := u8At b 1
  b == [0xE5] ||
    (u8At b 0 == 0x68 && u8At b 3 == 0x68 && u8At b 2 == n && b.length == n + 6 && u8At b (n + 5) == 0x16 &&
      u8At b (n + 4) == ((sliceB b 4 n).foldl (fun k (x : Byte) => k + x.toNat) 0) % 256)

def mbusRequest (s : Station) : List (List Byte) :=
  let c := 0x5B + (if s.fcb then 0x20 else 0)
  if s.secondary then [mbusSelect s.addr, mbusShort c 0xFD] else [mbusShort c s.addr]

/-! ### Substation telegram (R463 to R465) -/

def ipChecksum (b : List Byte) : Nat :=
  let s := (be16s b 0 (b.length / 2)).foldl (· + ·) 0
  let s := s % 65536 + s / 65536
  65535 - (s % 65536 + s / 65536)

/-- A UDP datagram with its IPv4 and UDP headers; the UDP checksum is left 0. -/
def udpDatagram (src dst sport dport : Nat) (data : List Byte) : List Byte :=
  let h (c : Nat) : List Byte := [0x45, 0] ++ beB 2 (28 + data.length) ++ [0, 0, 0x40, 0, 64, 17] ++ beB 2 c ++ leBytes 4 src ++ leBytes 4 dst
  h (ipChecksum (h 0)) ++ beB 2 sport ++ beB 2 dport ++ beB 2 (8 + data.length) ++ [0, 0] ++ data

def udpHdr (b : List Byte) : Nat := 4 * (u8At b 0 % 16)
def udpDport (b : List Byte) : Nat := u8At b (udpHdr b + 2) * 256 + u8At b (udpHdr b + 3)
def udpData (b : List Byte) : List Byte := b.drop (udpHdr b + 8)

def telegramIv (dir stn : Nat) (tsalt : List Byte) (tseq : Nat) : List Byte :=
  [BitVec.ofNat 8 dir] ++ beB 2 stn ++ sliceB tsalt 0 5 ++ beB 4 tseq

def netSec (l : Lane) : Nat := l.get R.FRAME.NTSEC_L

/-- E1 examines one telegram (R464). -/
def Lane.telegram (l : Lane) (port : Nat) (dg : List Byte) : Lane :=
  let b := udpData dg
  let n := u8At b 19
  let e := l.ports.eth.getD port {}
  match l.station (u16At b 4) with
  | none => l
  | some s =>
    if u16At b 0 ≠ 0x4754 ∨ u8At b 2 ≠ 1 ∨ u8At b 3 ≠ 0 ∨ n < 1 ∨ 16 < n ∨ b.length ≠ 36 + 6 * n ∨ s.proto ≠ 4 then l
    else
      let salt := sliceB b 6 5
      let tseq := u32At b 11
      let key := l.keyUse e.tgslot 1 4
      let l := l.countUse key
      let plain := match key with
        | .ok k => Crypto.gcmOpen k (telegramIv 0 s.stn salt tseq) (b.take 20) (sliceB b 20 (6 * n)) (sliceB b (20 + 6 * n) 16)
        | .error _ => none
      match plain with
      | none => (l.inc (R.ETH.TGAUTH.inst port)).irq (R.ETH.I_TGAUTH.inst port)
      | some p =>
        let sync := l.get R.FRAME.SYNC
        let d : Int := toSigned 32 ((u32At b 15 + 2 ^ 32 - netSec l) % 2 ^ 32)
        if (sync = 2 ∨ sync = 3) ∧ e.twin < d.natAbs then l.inc (R.ETH.TGREPLAY.inst port)
        else if salt = s.tsalt ∧ tseq ≤ s.tseq then l.inc (R.ETH.TGREPLAY.inst port)
        else
          let fs := (List.range n).map fun i => (u8At p (6 * i), wordAt p (6 * i + 2), (p.getD (6 * i + 1) 0).getLsbD 0)
          let upd := fs.foldl (fun (m : List (Nat × Word × Bool × Nat)) f =>
            (m.filter fun x => x.1 != f.1) ++ [(f.1, f.2.1, f.2.2, l.fno)]) s.fields
          let ack := (fs.find? fun f => f.1 == 15).map fun f => f.2.1.toNat
          let conf := s.cpend.filter fun c => ack.any fun a => decide (c.1 ≤ a)
          let l := l.modStation s.stn fun s => { s with
            tsalt := salt, tseq, fields := upd, lastAt := some l.fno, addr := u32At dg 12
            pendIn := s.pendIn ++ fs.map fun f => (f.1, f.2.1)
            cpend := s.cpend.filter fun c => !(ack.any fun a => decide (c.1 ≤ a)) }
          let l := l.inc (R.ETH.TGOK.inst port)
          conf.foldl (fun (l : Lane) c => l.delivered1 s.stn c.2.2) l

/-- The words of the telegrams accepted in the frame before, and what has timed out (R464, R465). -/
def Lane.telegramStale (l : Lane) (n : Nat) : Lane :=
  match l.station n with
  | none => l
  | some s => if s.proto = 4 ∧ s.good ∧ s.lastAt.all (fun f => decide (f + s.tout < l.fno)) then l.stationDown n else l

def Lane.telegramStep1 (l : Lane) : Lane :=
  (l.ports.stations.filter fun s => s.proto == 4).foldl (fun (l : Lane) s =>
    let l := if s.pendIn.isEmpty then l
      else
        let l := s.pendIn.foldl (fun (l : Lane) f => if f.1 < s.incnt then l.setPi (s.inbase + f.1) f.2 else l) l
        let at_ := s.lastAt
        ((l.stationGood s.stn).modStation s.stn fun s => { s with pendIn := [], lastAt := at_ })
    let late := s.cpend.filter fun c => decide (c.2.1 + s.tout < l.fno)
    let l := l.modStation s.stn fun s => { s with cpend := s.cpend.filter fun c => decide (l.fno ≤ c.2.1 + s.tout) }
    (late.foldl (fun (l : Lane) c => l.notDelivered s.stn c.2.2) l).telegramStale s.stn) l

/-- A command telegram with the output words, a write of kind `k` (R465). -/
def Lane.sendTelegram (l : Lane) (s : Station) (kind : Nat) : Lane :=
  let port := s.src - 0x10
  let e := l.ports.eth.getD port {}
  match l.ports.tsalt with
  | none => l
  | some salt =>
    let key := l.keyUse e.tgslot 1 3
    let l := l.countUse key
    match key with
    | .error _ => l
    | .ok k =>
      let ws := (l.outputs s).take 16
      let h := leBytes 2 0x4754 ++ [1, 0x80] ++ leBytes 2 s.stn ++ sliceB salt 0 5 ++ leBytes 4 s.cseq ++ leBytes 4 (netSec l) ++ [BitVec.ofNat 8 ws.length]
      let p := (List.range ws.length).flatMap fun i => [BitVec.ofNat 8 (48 + i), 1] ++ leBytes 4 (ws.getD i 0).toNat
      let c := Crypto.gcmSeal k (telegramIv 0x80 s.stn salt s.cseq) h p
      let dst := if s.addr = 0 then 0xFFFFFFFF else s.addr
      let dg := udpDatagram e.ip.toNat dst e.tgport e.tgport (h ++ c.1 ++ c.2)
      (l.sendUnit s.src s.stn false 0 dg).modStation s.stn fun s => { s with
        cseq := s.cseq + 1, cpend := s.cpend ++ [(s.cseq, l.fno, kind)] }

/-! ### Queue streams (R432; item format assumption log 26) -/

def streamItem (b : List Byte) : List Dword :=
  .ofNat 64 b.length :: (List.range ((b.length + 7) / 8)).map fun i => .ofNat 64 (ofLe (sliceB b (8 * i) 8))

def streamBytes (ws : List Dword) : List Byte :=
  match ws with
  | [] => []
  | n :: l => (l.flatMap fun (w : Dword) => leBytes 8 w.toNat).take n.toNat

/-- The unit of an arrival goes to every receive queue bound to its stream, at step 7. -/
def Lane.streamIn (l : Lane) (src : Nat) (data : List Byte) : Lane :=
  l.ports.bindings.foldl (fun (l : Lane) b =>
    if b.src = src ∧ 8 ≤ b.queue ∧ b.queue ≤ 23 ∧ (b.stream ≠ 3 ∨ udpDport data = b.port) then l.queueItem b.queue b.prio (streamItem data) else l) l

/-- Transmit items visible at the snapshot become entries. -/
def Lane.streamOut (l : Lane) : Lane :=
  l.ports.bindings.foldl (fun (l : Lane) b =>
    if b.queue < 24 ∨ 39 < b.queue then l
    else
      let r := Queue.takeAll ((l.queue b.queue).items.length + 1) (l.queue b.queue)
      r.1.foldl (fun (l : Lane) ws => l.sendUnit b.src 0xFFFF false 0 (streamBytes ws)) (l.setQueue b.queue r.2)) l

/-! ### Arrivals of ports at step 1 -/

def Lane.portUnit (l : Lane) (src stn : Nat) (data : List Byte) : Lane :=
  if src ≤ 0x13 then l.inc (R.ETH.RXFR.inst (src - 0x10))
  else if src ≤ 0x1B then
    let l := l.inc (R.CAN.RXCNT.inst (src - 0x18))
    let ident := u32At data 0
    (l.ports.stations.filter fun s => s.proto == 2 && s.src == src && s.addr == ident).foldl (fun (l : Lane) s =>
      (l.setInputs s ((List.range s.incnt).map fun k => wordAt (data ++ List.replicate 64 0) (8 + 4 * k))).stationGood s.stn) l
  else if src ≤ 0x1F then
    let l := l.inc (R.SER.RXADU.inst (src - 0x1C))
    match l.station stn with
    | some s => if u8At data 0 = s.unit then l.modbusResponse s (sliceB data 1 (data.length - 3)) else l.modStation stn fun s => { s with busy := false, tries := 0 }
    | none => l
  else
    let l := l.inc (R.MB.RXTG.inst (src - 0x20))
    if (l.station stn).any fun s => s.pre != 0 then l.modStation stn fun s => { s with pre := s.pre - 1 }
    else match l.station stn, mbusWords data with
    | some s, some ws => ((l.setInputs s ws).modStation stn fun s => { s with busy := false, fcb := !s.fcb }).stationGood stn
    | some _, none => l.modStation stn fun s => { s with busy := false, tries := 0 }
    | none, _ => l

def Lane.portStatus (l : Lane) (src : Nat) (p : PortStatus) : Lane :=
  match p with
  | .eth speed =>
    let n := src - 0x10
    let up := decide (speed ≠ 0)
    let was := l.on (R.ETH.LINK.inst n)
    let l := (l.irqIf (up && !was) (R.ETH.I_LINKUP.inst n)).irqIf (!up && was) (R.ETH.I_LINKDN.inst n)
    (l.put (R.ETH.SPEED.inst n) speed).putB (R.ETH.LINK.inst n) up
  | .can st tec rec_ fd lock nbr dbr =>
    let n := src - 0x18
    let was := l.get (R.CAN.STATE.inst n)
    let l := if st = 2 ∧ was ≠ 2 then (l.inc (R.CAN.BOCNT.inst n)).irq (R.CAN.I_BUSOFF.inst n) else l
    let l := (l.irqIf (st == 1 && was != 1) (R.CAN.I_PASSIVE.inst n)).irqIf (st == 0 && was == 3) (R.CAN.I_RECOVERED.inst n)
    let l := l.irqIf (lock && !l.on (R.CAN.ABLOCK.inst n)) (R.CAN.I_ABLOCK.inst n)
    let l := (((l.put (R.CAN.STATE.inst n) st).put (R.CAN.TEC.inst n) tec).put (R.CAN.REC.inst n) rec_).putB (R.CAN.FDSEEN.inst n) fd
    ((l.putB (R.CAN.ABLOCK.inst n) lock).put (R.CAN.ABNBR.inst n) nbr).put (R.CAN.ABDBR.inst n) dbr
  | .mbus on ovc ibus =>
    let n := src - 0x20
    let l := if ovc ∧ !l.on (R.MB.OVC.inst n) then (l.inc (R.MB.OVCCNT.inst n)).irq (R.MB.I_OVC.inst n) else l
    ((l.putB (R.MB.OVC.inst n) ovc).putB (R.MB.BUSON.inst n) on).put (R.MB.IBUS.inst n) ibus

/-- The poll of station `n` has failed: a retry, or the failure of the last attempt. -/
def Lane.pollFailed (l : Lane) (n : Nat) : Lane :=
  match l.station n with
  | none => l
  | some s =>
    if !s.busy then l
    else if s.tries + 1 ≤ s.retry then l.modStation n fun s => { s with busy := false, tries := s.tries + 1 }
    else l.stationDown n

/-- A write request of station `n` had no answer. -/
def Lane.writeUnanswered (l : Lane) (n : Nat) (f : Lane → Nat → Lane) : Lane :=
  if (l.station n).any fun s => s.incnt == 0 then (f l n).stationDown n else f l n

/-- A request of station `n` has failed: outcome 1. Its requests end in the order they were placed; SND_NKE and a selection
are no attempt of their own (R460). -/
def Lane.requestFailed (l : Lane) (n : Nat) : Lane :=
  match l.station n with
  | none => l
  | some s =>
    if s.proto = 2 then l.stationDown n
    else if s.pre ≠ 0 then l.modStation n fun s => { s with pre := s.pre - 1 }
    else if s.busy ∧ (s.writes = [] ∨ !s.wfirst) then l.pollFailed n
    else if s.writes ≠ [] then l.writeUnanswered n Lane.writeFailed
    else l

/-- A port dropped an entry of station `n`: outcome 4. It has the newest entries waiting. -/
def Lane.requestDropped (l : Lane) (n : Nat) : Lane :=
  match l.station n with
  | none => l
  | some s =>
    if s.pre ≠ 0 then l.modStation n fun s => { s with pre := s.pre - 1 }
    else if s.writes ≠ [] ∧ !(s.busy && s.wfirst) then l.writeLost n
    else l.modStation n fun s => { s with busy := false }

def Lane.portOutcome (l : Lane) (src stn code : Nat) : Lane :=
  let can := decide (0x18 ≤ src) && decide (src ≤ 0x1B)
  let n := src - 0x18
  match code with
  | 1 =>
    let l := if 0x1C ≤ src ∧ src ≤ 0x1F then (l.inc (R.SER.TOUT.inst (src - 0x1C))).irq (R.SER.I_TOUT.inst (src - 0x1C)) else l
    l.requestFailed stn
  | 2 => l.writeConfirmed stn
  | 3 =>
    let l := if can ∧ l.on (R.CAN.ONESHOT.inst n) ∧ l.get (R.CAN.STATE.inst n) ≠ 2 then (l.inc (R.CAN.OSFAIL.inst n)).irq (R.CAN.I_OSFAIL.inst n)
      else l.inc R.HLTH.TXDROP
    l.writeFailed stn
  | _ => (l.inc R.HLTH.TXDROP).requestDropped stn

/-- A port arrival at step 1. -/
def Lane.portStep1 (l : Lane) (src : Nat) (b : PortBody) : Lane :=
  match b with
  | .unit stn data => l.portUnit src stn data
  | .status p => l.portStatus src p
  | .outcome stn code => l.portOutcome src stn code
  | _ => l

/-- A Modbus TCP response reaches its station by the transaction identifier. -/
def Lane.clientAdu (l : Lane) (b : List Byte) : Lane :=
  match l.station ((u8At b 0 * 256 + u8At b 1) / 2) with
  | some s => l.modbusResponse s (b.drop 7)
  | none => l

/-- CAN and M-Bus settings go to the hub as a port-control entry (21_field_ports.md R457). -/
def Lane.pushCtl (l : Lane) (src : Nat) : Lane :=
  l.setPorts fun p => { p with ctl := if p.ctl.contains src then p.ctl else p.ctl ++ [src] }

/-- A port control entry that was not driven is placed again, its RECOVER or RESTART too (R457). -/
def Lane.controlAgain (l : Lane) (src : Nat) (b : List Byte) : Lane :=
  let l := if src ≤ 0x1B then (if (wordAt b 4).getLsbD 4 then l.put (R.CAN.RECOVER.inst (src - 0x18)) 1 else l)
    else if (wordAt b 4).getLsbD 0 then l.put (R.MB.RESTART.inst (src - 0x20)) 1 else l
  l.pushCtl src

/-- Requests of an output frame that was not driven count as sent and lost (Table TST-4), and so do entries left
out of a frame (R28). The hub started no timer for them, so they fail here, at step 1, and not after TOUT (assumption
log 103). -/
def Lane.portsLost (l : Lane) (owned : Bool) : Lane :=
  let lost := if owned then l.leftOut else l.lastOut ++ l.leftOut
  lost.foldl (fun (l : Lane) e => match e.cls, e.body with
    | 3, .bytes b =>
      if u8At b 0 = 0x80 ∧ (b.getD 3 0).getLsbD 0 then
        (if 0x20 ≤ e.dest then l.requestFailed (u16At b 1)
         else if 15 ≤ u8At b 9 then l.writeUnanswered (u16At b 1) Lane.writeLost else l.pollFailed (u16At b 1))
      else if u8At b 0 = 0x81 ∧ u8At b 3 = 1 then
        (if u8At b 5 % 2 = 1 then l.writeUnanswered ((u8At b 4 * 256 + u8At b 5) / 2) Lane.writeLost
         else l.pollFailed ((u8At b 4 * 256 + u8At b 5) / 2))
      else if u8At b 0 = 0x80 then l.writeLost (u16At b 1)
      else if u8At b 0 = 0x82 then l.controlAgain e.dest b
      else l
    | _, _ => l) l

/-! ### Modbus TCP server (R467) -/

def modbusException (fc code : Nat) : List Byte := [BitVec.ofNat 8 (0x80 + fc % 128), BitVec.ofNat 8 code]

/-- Answer PDU and process image writes of a server request: a register written is a word, or half of one, so that two
requests of a frame may write its halves. Function code 23 reads and writes the WBASE window. -/
def serve (view : Nat → Word) (w : SrvWindow) (operate : Bool) (pdu : List Byte) : List Byte × List (Nat × Word × Word) :=
  let fc := u8At pdu 0
  let a := (be16s pdu 1 1).getD 0 0
  let n := (be16s pdu 3 1).getD 0 0
  let per := if w.wordmode = 0 then 1 else 2
  let rd (base a n : Nat) : List Byte :=
    let ws := (List.range ((a + n + per - 1) / per - a / per)).map fun i => view (base + a / per + i)
    let rs := ((wordsToRegs w.wordmode ws).drop (a % per)).take n
    [BitVec.ofNat 8 (2 * n)] ++ rs.flatMap (beB 2)
  let wr (a : Nat) (rs : List Nat) : List (Nat × Word × Word) := (List.range rs.length).map fun i =>
    let k := a + i
    let high := w.wordmode != 0 && ((w.wordmode == 1) == (k % 2 == 0))
    let v := rs.getD i 0
    (w.wbase + k / per, if w.wordmode = 0 then BitVec.allOnes 32 else if high then 0xFFFF0000 else 0xFFFF, .ofNat 32 (if high then 65536 * v else v))
  let rfit (cnt a n : Nat) : Bool := decide (1 ≤ n) && decide (n ≤ 125) && decide (a + n ≤ per * cnt)
  let wfit (a n : Nat) : Bool := decide (1 ≤ n) && decide (n ≤ 123) && decide (a + n ≤ per * w.wcnt)
  if fc = 3 ∨ fc = 4 then (if rfit w.rcnt a n then ([BitVec.ofNat 8 fc] ++ rd w.rbase a n, []) else (modbusException fc 2, []))
  else if fc = 1 ∨ fc = 2 then
    if n < 1 ∨ 2000 < n ∨ 32 * w.rcnt < a + n then (modbusException fc 2, [])
    else
      let bit (k : Nat) : Bool := (view (w.rbase + k / 32)).getLsbD (k % 32)
      let bs := (List.range ((n + 7) / 8)).map fun i =>
        BitVec.ofNat 8 ((List.range 8).foldl (fun v j => if 8 * i + j < n ∧ bit (a + 8 * i + j) then v + 2 ^ j else v) 0)
      ([BitVec.ofNat 8 fc, BitVec.ofNat 8 bs.length] ++ bs, [])
  else if fc = 6 ∨ fc = 16 ∨ fc = 23 then
    if !operate then (modbusException fc 1, [])
    else if fc = 6 then (if wfit a 1 then (pdu.take 5, wr a [n]) else (modbusException fc 2, []))
    else if fc = 16 then (if wfit a n then (pdu.take 5, wr a (be16s pdu 6 n)) else (modbusException fc 2, []))
    else
      let wa := (be16s pdu 5 1).getD 0 0
      let wn := (be16s pdu 7 1).getD 0 0
      if rfit w.wcnt a n ∧ wfit wa wn then ([23] ++ rd w.wbase a n, wr wa (be16s pdu 10 wn)) else (modbusException fc 2, [])
  else (modbusException fc 1, [])

def Lane.serverAdu (l : Lane) (src conn : Nat) (operate : Bool) (b : List Byte) : Lane :=
  let tid := u8At b 0 * 256 + u8At b 1
  let unit := u8At b 6
  let pdu := b.drop 7
  let r := match l.ports.windows.find? fun w => w.unit == unit with
    | some w => serve l.piView w operate pdu
    | none => (modbusException (u8At pdu 0) 0x0B, [])
  (l.sendAdu src conn 2 (mbap tid unit r.1)).setPorts fun p => { p with srvWrites := p.srvWrites ++ r.2 }

/-! ### IEC 60870-5-104 (R469) -/

def iecBroadcast : Nat := 0xFFFF

def Lane.iecValue (l : Lane) (q : IecPoint) : Word :=
  match q.srck with
  | 0 => l.piView q.addr
  | 1 => .ofNat 32 (bits (l.piView q.addr) 31 q.bit % (if q.typ = 3 ∨ q.typ = 31 then 4 else 2))
  | 2 => .ofNat 32 ((((l.met.mps[q.addr]?).map fun (m : MeasPoint) => (m.reg.getD q.bit 0).toNat).getD 0) % 2 ^ 32)
  | _ => .ofNat 32 ((((l.heat.hps[q.addr]?).map fun (h : HeatPoint) => ([h.heat, h.cool, h.vol, h.volf].getD q.bit 0).toNat).getD 0) % 2 ^ 32)

def Lane.cp56 (l : Lane) : List Byte :=
  let iv : Nat := if l.on R.FRAME.CALVALID then 0 else 0x80
  match decodeReading l.trailer.cal with
  | some (c, h) => leBytes 2 (c.sec * 1000 + h * 10) ++ [BitVec.ofNat 8 (c.min + iv), BitVec.ofNat 8 c.hour, BitVec.ofNat 8 (c.day + 32 * weekday c.days),
      BitVec.ofNat 8 c.mon, BitVec.ofNat 8 (c.year % 100)]
  | none => [0, 0, 0x80, 0, 0, 0, 0]

/-- Information object of a monitored point. -/
def Lane.iecObject (l : Lane) (q : IecPoint) (v : Word) : List Byte :=
  leBytes 3 q.ioa ++ (match q.typ with
    | 1 | 3 | 30 | 31 => [BitVec.ofNat 8 v.toNat]
    | 13 | 36 => leBytes 4 v.toNat ++ [0]
    | _ => leBytes 4 v.toNat ++ [0]) ++ (if 30 ≤ q.typ then l.cp56 else [])

def iecAsdu (typ cot ca : Nat) (objs : List Byte) : List Byte := [BitVec.ofNat 8 typ, 1] ++ leBytes 2 cot ++ leBytes 2 ca ++ objs

def iecMonitor (q : IecPoint) : Bool := decide (q.typ < 45)
def iecCounter (q : IecPoint) : Bool := q.typ == 15 || q.typ == 37

/-- A point has changed: any change of a bit, more than the deadband otherwise. -/
def iecChanged (q : IecPoint) (v : Word) : Bool :=
  match q.last with
  | none => true
  | some o =>
    if q.srck = 1 then o != v
    else if q.typ = 13 ∨ q.typ = 36 then F32.lt q.deadband (F32.abs (F32.sub v o))
    else F32.lt q.deadband (F32.abs (F32.sub (F32.fromNat v.toNat) (F32.fromNat o.toNat)))

def Lane.iecPorts (l : Lane) : List Nat := (List.range 4).filter fun n => ((l.ports.eth[n]?).map fun (e : EthCfg) => e.services.getLsbD 4).getD false

/-- Spontaneous ASDUs of a frame (COT 3). -/
def Lane.iecStep7 (l : Lane) : Lane :=
  match l.iecPorts with
  | [] => l
  | ps =>
    let vs := l.ports.points.map fun q => (q, l.iecValue q)
    let out := vs.filter fun x => iecMonitor x.1 && iecChanged x.1 x.2
    let l := out.foldl (fun (l : Lane) x => ps.foldl (fun (l : Lane) n =>
      l.sendAdu (0x10 + n) iecBroadcast 3 (iecAsdu x.1.typ 3 ((l.ports.eth.getD n {}).ca) (l.iecObject x.1 x.2))) l) l
    let seen (q : IecPoint) : IecPoint :=
      if iecMonitor q && iecChanged q (l.iecValue q) then { q with last := some (l.iecValue q) } else q
    l.setPorts fun p => { p with points := p.points.map seen }

/-- An ASDU of a client (Table PRT-6), for the port's common address or the global one. -/
def Lane.iecAdu (l : Lane) (src conn : Nat) (operate : Bool) (b : List Byte) : Lane :=
  let typ := u8At b 0
  let ca := u16At b 4
  let send (l : Lane) (a : List Byte) : Lane := l.sendAdu src conn 3 a
  let mirror (cot : Nat) : List Byte := b.take 2 ++ leBytes 2 cot ++ b.drop 4
  let own := ((l.ports.eth[src - 0x10]?).map fun (e : EthCfg) => e.ca).getD 0
  let all (cot : Nat) (p : IecPoint → Bool) (l : Lane) : Lane :=
    (l.ports.points.filter p).foldl (fun (l : Lane) q => send l (iecAsdu q.typ cot own (l.iecObject q (l.iecValue q)))) l
  if ca ≠ own ∧ ca ≠ 0xFFFF then send l (mirror (46 + 64))
  else if typ = 100 then send (all 20 (fun q => iecMonitor q && !iecCounter q) (send l (mirror 7))) (mirror 10)
  else if typ = 101 then send (all 37 iecCounter (send l (mirror 7))) (mirror 10)
  else if typ = 103 then send l (mirror (7 + 64))
  else if typ = 45 ∨ typ = 50 then
    match l.ports.points.find? fun q => q.ioa == u24At b 6 && q.typ == typ with
    | some q =>
      let qual := if typ = 45 then u8At b 9 else u8At b 13
      if !operate ∨ 128 ≤ qual then send l (mirror (7 + 64))
      else
        let w : Word × Word := if typ = 45 then
            (if q.srck = 1 then (1#32 <<< q.bit, BitVec.ofNat 32 (qual % 2) <<< q.bit) else (BitVec.allOnes 32, .ofNat 32 (qual % 2)))
          else (BitVec.allOnes 32, wordAt b 9)
        (send l (mirror 7)).setPorts fun p => { p with srvWrites := p.srvWrites ++ [(q.addr, w)] }
    | none => send l (mirror (47 + 64))
  else send l (mirror (44 + 64))

/-! ### Step 7 of E1 (R432, R457, R460, R464, R467, R469) -/

/-- The settings words of a port as KIND 0x82 carries them. -/
def Lane.portControl (l : Lane) (src : Nat) : List Byte :=
  let page := if src ≤ 0x1B then 0x44 + (src - 0x18) else 0x4C + (src - 0x20)
  portHeader 0x82 0 0 ++ wordsLe (if src ≤ 0x1B then [l.reg (page * 0x1000 + 0x40), l.reg (page * 0x1000 + 0x44)] else [l.reg (page * 0x1000 + 0x54)])

/-- Kind of a write that is due: 1 while the station is STALE; 2, which resynchronises, for the first one after its return
and one that follows an undelivered write, unless such a write is outstanding (R247, assumption log 110). -/
def Station.writeKind (s : Station) : Nat :=
  if !s.good then 1
  else if (s.fresh || s.resync || s.undlv) && !s.writes.contains 2 && !(s.cpend.any fun c => c.2.2 == 2) then 2
  else 0

/-- A write is due: while the station is STALE it counts as undelivered at once, though it is sent. -/
def Lane.writeDue (l : Lane) (s : Station) : Lane :=
  let k := s.writeKind
  if k = 1 then l.undelivered s.stn else l.modStation s.stn fun s => { s with fresh := false, resync := s.resync || k == 2 }

/-- A write has been placed and is outstanding. -/
def Lane.writePlaced (l : Lane) (s : Station) : Lane := l.modStation s.stn fun x => { x with
  wfirst := if x.writes = [] then !x.busy else x.wfirst, writes := x.writes ++ [s.writeKind] }

/-- A poll has been placed, behind `pre` units that go before it. -/
def Lane.pollPlaced (l : Lane) (s : Station) (pre : Nat) : Lane := l.modStation s.stn fun x => { x with
  busy := true, wfirst := x.writes != [], pre := x.pre + pre }

/-- Poll and write of a station: the poll in its frame unless a request of it is outstanding, or as a retry; the write of
every frame of its own, one of a Modbus station when the one before has ended (R460; assumption log 127). -/
def Lane.pollStation (l : Lane) (s : Station) : Lane :=
  let due := decide (l.fno % s.period = s.phase)
  let poll := (s.proto == 1 || s.proto == 3) && decide (0 < s.incnt) && !s.busy && (s.tries != 0 || (due && s.writes.isEmpty))
  let l := if !poll then l
    else if s.proto = 1 then (l.pollPlaced s 0).modbusRequest s false (readPdu s)
    else (mbusRequest s).foldl (fun (l : Lane) u => l.sendUnit s.src s.stn true s.tout u) (l.pollPlaced s ((mbusRequest s).length - 1))
  if s.outcnt = 0 ∨ !due ∨ (s.proto = 1 ∧ s.writes ≠ []) then l
  else
    let l := l.writeDue s
    let ws := l.outputs s
    match s.proto with
    | 1 => (l.modbusRequest s true (writePdu s ws)).writePlaced s
    | 2 => (l.sendUnit s.src s.stn false 0 (canFrame s.canid (wordsLe ws))).writePlaced s
    | 4 => l.sendTelegram s s.writeKind
    | _ => l

def Lane.portStep7 (l : Lane) : Lane :=
  let l := l.arrivals.foldl (fun (l : Lane) a => match a.body with
    | .port (.unit _ data) =>
      let l := l.streamIn a.src data
      if a.src ≤ 0x13 ∧ ((l.ports.eth[a.src - 0x10]?).map fun (e : EthCfg) => e.services.getLsbD 1 && e.tgport == udpDport data).getD false then
        l.telegram (a.src - 0x10) data
      else l
    | .adu conn svc op data => if svc = 2 then l.serverAdu a.src conn op data else if svc = 3 then l.iecAdu a.src conn op data else l
    | _ => l) l
  let l := l.ports.srvWrites.foldl (fun (l : Lane) w =>
    if piReadOnly w.1 then l else l.setPi w.1 ((l.pi w.1 &&& ~~~w.2.1) ||| (w.2.2 &&& w.2.1))) l
  let l := l.setPorts fun p => { p with srvWrites := [] }
  let l := if l.fno = l.k0 then
      (l.ports.stations.filter fun s => s.proto == 3).foldl (fun (l : Lane) s =>
        (l.sendUnit s.src s.stn true s.tout (mbusShort 0x40 (if s.secondary then 0xFD else s.addr))).modStation s.stn fun s =>
          { s with pre := s.pre + 1 }) l
    else l
  let l := (l.ports.stations.map fun (s : Station) => s.stn).foldl (fun (l : Lane) n => match l.station n with
    | some s => l.pollStation s
    | none => l) l
  let l := l.iecStep7.streamOut
  let l := l.ports.ctl.foldl (fun (l : Lane) src => l.emit 3 src (.bytes (l.portControl src))) l
  let l := l.ports.ctl.foldl (fun (l : Lane) src =>
    if src ≤ 0x1B then l.put (R.CAN.RECOVER.inst (src - 0x18)) 0 else l.put (R.MB.RESTART.inst (src - 0x20)) 0) l
  l.setPorts fun p => { p with ctl := [] }

/-! ### The PIMG page (Table PRG-11) -/

def Lane.readPimg (l : Lane) (off : Nat) : Nat :=
  let ss := l.ports.stations
  let sel := l.station (l.get R.PIMG.SSEL)
  let sv (f : Station → Nat) : Nat := (sel.map f).getD 0
  let b (x : Bool) : Nat := if x then 1 else 0
  if off = 0x040 then ss.length
  else if off = 0x044 then (ss.countP fun s => !s.good) * 65536 + ss.countP fun s => s.undlv
  else if off = 0x04C then sv fun s => s.src * 256 + s.subst * 16 + b s.resync * 8 + b s.undlv * 4 + (if s.good then 1 else 2)
  else if off = 0x050 then sv fun s => s.incnt * 65536 + s.inbase
  else if off = 0x054 then sv fun s => s.outcnt * 65536 + s.outbase
  else if off = 0x058 then sv (·.drops)
  else if off = 0x05C then sv (·.sundlv)
  else if off = 0x060 then sv fun s => (s.lastAt.getD 0) % 2 ^ 32
  else if off = 0x068 then (l.piView (l.get R.PIMG.WADDR)).toNat
  else if off = 0x06C then (l.pi (l.get R.PIMG.WADDR)).toNat
  else (l.reg (0x1E000 + off)).toNat

end Sys2Proof.Machine
end

