-- ==== Sys2Proof/Machine/Records.lean ====
section
/-! DEFINITION. The records of the non-volatile store as the lanes build and recall them: Table NVS-8,
Table MET-7, Table HTM-4 (14_nv_store.md, 12_electrical_metering.md, 13_heat_metering_pulses.md). -/

namespace Sys2Proof.Machine

/-! ### Records of the SYSTEM partition (Tables NVS-5 and NVS-8) -/

def Lane.shutdownRecord (l : Lane) (state : Nat) : List Byte :=
  leBytes 1 state ++ (if l.trailer.calq then [1] else [0]) ++ [0, 0] ++ leBytes 8 l.trailer.cal.toNat ++ leBytes 8 l.fno

def Lane.doq (l : Lane) : BitVec 16 := .ofNat 16 (l.get R.PIO.DOQ)
def Lane.aoq (l : Lane) : List Nat :=
  (List.range 8).map fun i => l.get ((if i % 2 = 0 then R.PIO.AOQ_L else R.PIO.AOQ_H).idx (i / 2))

def Lane.pioRecord (l : Lane) : List Byte := leBytes 2 l.doq.toNat ++ [0, 0] ++ l.aoq.flatMap (leBytes 2)

def readPio (b : List Byte) : BitVec 16 × List Nat :=
  (.ofNat 16 (u16At b 0), (List.range 8).map fun i => u16At b (4 + 2 * i))

def agesBytes (n : Nat) (l : List Nat) : List Byte := (List.range n).flatMap fun i => leBytes 4 (l.getD i 0)

/-- The health record; the ages are those of R131 as they stand in this frame. -/
def Lane.healthRecord (l : Lane) (t : Touchstone) : List Byte :=
  leBytes 8 (l.get64 R.HLTH.FCOMP_L R.HLTH.FCOMP_H) ++ leBytes 8 (l.get64 R.HLTH.FALONE_L R.HLTH.FALONE_H)
    ++ leBytes 4 (l.get R.HLTH.FGAP) ++ leBytes 8 (l.get64 R.HLTH.FQUN_L R.HLTH.FQUN_H)
    ++ leBytes 8 (l.get64 R.HLTH.FQEX_L R.HLTH.FQEX_H)
    ++ leBytes 4 (l.get R.HLTH.DISAG) ++ leBytes 4 (l.get R.HLTH.INDROP) ++ leBytes 4 (l.get R.HLTH.TXDROP)
    ++ leBytes 4 (l.get R.HLTH.OFOVR) ++ leBytes 1 (l.get R.HLTH.INDSRC) ++ [0]
    ++ leBytes 2 (min 15 t.trAgeA.length + min 15 t.trAgeB.length * 16 + min 2 t.rstAgeA.length * 256 + min 2 t.rstAgeB.length * 1024)
    ++ agesBytes 15 t.trAgeA ++ agesBytes 15 t.trAgeB ++ agesBytes 2 t.rstAgeA ++ agesBytes 2 t.rstAgeB

def Lane.policyRecord (l : Lane) : List Byte :=
  leBytes 2 (l.get R.SYS.MAXOUT) ++ leBytes 1 (l.get R.SYS.RETPOL) ++ [0] ++ leBytes 8 l.cfgFp

def Lane.lifetimeRecord (l : Lane) : List Byte :=
  leBytes 4 (l.get R.SYS.PCYC) ++
    [R.PWR.PFCNT, R.PWR.INLCNT, R.RST.WARMCNT, R.RST.COLDCNT, R.RST.LRSTA, R.RST.LRSTB, R.HLTH.TRTOTA, R.HLTH.TRTOTB].flatMap
      fun f => leBytes 2 (l.get f)

/-- Places the PIO record (R138). -/
def Lane.placePio (l : Lane) : Lane := l.nvPut 0 2 l.pioRecord
/-- Places the restart policy record (R85). -/
def Lane.placePolicy (l : Lane) : Lane := l.nvPut 0 4 l.policyRecord
/-- Places the health record: periodic, at a counted transient or lane reset, and in the final save (R136). -/
def Lane.placeHealth (l : Lane) (t : Touchstone) (prio : Bool) : Lane := l.nvPut 0 3 (l.healthRecord t) prio
def Lane.placeLifetime (l : Lane) (prio : Bool) : Lane := l.nvPut 0 5 l.lifetimeRecord prio
def Lane.placeShutdown (l : Lane) (state : Nat) : Lane := l.nvPut 0 1 (l.shutdownRecord state)

/-! ### The metering partition (Tables MET-7, HTM-4, NVS-8) -/

def saveHead (kind fno : Nat) : List Byte := leBytes 1 kind ++ [0, 0, 0] ++ leBytes 4 fno

def MeasPoint.bytes (p : MeasPoint) : List Byte :=
  p.reg.flatMap (fun r => leBytes 8 r.toNat) ++ p.rem.flatMap fun x => leBytes 12 (ofSigned 96 x)

def Lane.mrRecord (l : Lane) (kind r : Nat) : List Byte :=
  saveHead kind l.fno ++ (l.met.mps.getD (2 * r) {}).bytes ++ (l.met.mps.getD (2 * r + 1) {}).bytes

def Lane.mr8Record (l : Lane) (kind : Nat) : List Byte :=
  saveHead kind l.fno ++ leBytes 4 (l.get R.MET.NOSAMP) ++ leBytes 4 (l.get R.MET.SAVECNT) ++ leBytes 4 (l.get R.MET.SAVEREF)
    ++ leBytes 4 (l.get R.MET.LOSTFR) ++ leBytes 1 (l.get R.MET.LOSTKIND) ++ [0, 0, 0]
    ++ (List.range 16).flatMap fun m => leBytes 8 (l.met.mps.getD m {}).lostbnd.toNat

def HeatPoint.bytes (h : HeatPoint) : List Byte :=
  [h.heat, h.cool, h.vol, h.volf].flatMap (fun r => leBytes 8 r.toNat) ++ leBytes 8 (ofSigned 64 h.re)
    ++ leBytes 8 (ofSigned 64 h.vr) ++ leBytes 4 h.cprev.toNat ++ leBytes 4 h.errsec

def Lane.hrRecord (l : Lane) (kind r : Nat) : List Byte :=
  saveHead kind l.fno ++ (List.range 4).flatMap fun i => (l.heat.hps.getD (4 * r + i) {}).bytes

def PulseOut.bytes (p : PulseOut) : List Byte := leBytes 8 p.last.toNat ++ leBytes 8 p.emit.toNat ++ leBytes 4 p.bklg

def Lane.prRecord (l : Lane) (kind r : Nat) : List Byte :=
  saveHead kind l.fno ++ ((List.range 8).flatMap fun i => (l.heat.pos.getD (8 * r + i) {}).bytes)
    ++ (List.range 8).flatMap fun i => leBytes 8 (l.heat.hps.getD (8 * r + i) {}).lostbnd.toNat

/-- Places the fifteen records of a save of KIND `kind` (R295, R312), with PRIO where it is the final save (R323). -/
def Lane.meterSave (l : Lane) (kind : Nat) (prio reissue : Bool) : Lane :=
  let put (l : Lane) (rid : Nat) (b : List Byte) : Lane := l.nvPut 1 rid b prio reissue
  let l := (List.range 8).foldl (fun (l : Lane) r => put l r (l.mrRecord kind r)) l
  let l := put l 8 (l.mr8Record kind)
  let l := (List.range 4).foldl (fun (l : Lane) r => put l (9 + r) (l.hrRecord kind r)) l
  let l := (List.range 2).foldl (fun (l : Lane) r => put l (13 + r) (l.prRecord kind r)) l
  { l with met := { l.met with savePend := some kind, savePrio := prio } }

/-- The saves of a frame at the end of step 7 (R295, R296): `final` and `shutdown` say that the frame is the
first of reduced mode, or carries the shutdown record; one of KIND 3 in the first reduced-mode frame is the final save too. A save that was not executed is reissued in full
unless one falls due now. -/
def Lane.meterStep7 (l : Lane) (final shutdown : Bool) : Lane :=
  let due := if shutdown then 3 else if final then 2 else if l.fno % 60000 = 20000 then 1 else 0
  if due ≠ 0 then l.meterSave due final false
  else match l.met.savePend with
    | some k => (l.inc R.MET.SAVEREF).meterSave k l.met.savePrio true
    | none => l

/-- Step 1 after a save: it is complete when every record counts as executed, and stays pending otherwise. -/
def Lane.meterStep1 (l : Lane) (o : NvOutcome) : Lane :=
  if l.met.savePend.isNone ∨ o.failed.any fun r => r.op == 1 && r.part == 1 then l
  else { l.inc R.MET.SAVECNT with met := { l.met with savePend := none } }

/-! ### Recall of the blocks (R330, R335) -/

/-- Lifetime counters, health record, restart policy and quench image as the blocks' chapters take them. -/
def Lane.recallSystem (l : Lane) (r : Recalled) : Lane :=
  let l := match r.data 0 5 with
    | none => l
    | some b =>
      let l := l.put R.SYS.PCYC (u32At b 0)
      ([R.PWR.PFCNT, R.PWR.INLCNT, R.RST.WARMCNT, R.RST.COLDCNT, R.RST.LRSTA, R.RST.LRSTB, R.HLTH.TRTOTA, R.HLTH.TRTOTB].zipIdx).foldl
        (fun (l : Lane) (p : Fld × Nat) => l.put p.1 (u16At b (4 + 2 * p.2))) l
  let l := match r.data 0 3 with
    | none => l
    | some b =>
      let l := ((l.put64 R.HLTH.FCOMP_L R.HLTH.FCOMP_H (u64At b 0)).put64 R.HLTH.FALONE_L R.HLTH.FALONE_H (u64At b 8)).put R.HLTH.FGAP (u32At b 16)
      let l := (l.put64 R.HLTH.FQUN_L R.HLTH.FQUN_H (u64At b 20)).put64 R.HLTH.FQEX_L R.HLTH.FQEX_H (u64At b 28)
      let l := ((l.put R.HLTH.DISAG (u32At b 36)).put R.HLTH.INDROP (u32At b 40)).put R.HLTH.TXDROP (u32At b 44)
      (l.put R.HLTH.OFOVR (u32At b 48)).put R.HLTH.INDSRC (u8At b 52)
  match r.data 0 2 with
  | none => (l.put R.PIO.QVALID 0).put R.HLTH.QIMGINV 1
  | some b =>
    let q := readPio b
    let l := (l.put R.PIO.DOQ q.1.toNat).put R.PIO.QVALID 1
    let l := (q.2.zipIdx).foldl (fun (l : Lane) (p : Nat × Nat) =>
      l.put ((if p.2 % 2 = 0 then R.PIO.AOQ_L else R.PIO.AOQ_H).idx (p.2 / 2)) p.1) l
    { l.put R.PIO.QSEQ ((l.recInfo 0 2).seq.getD 0) with qdo := q.1 }

/-- The ages of R131 as the health record holds them. -/
def recallAges (r : Recalled) (t : Touchstone) : Touchstone :=
  match r.data 0 3 with
  | none => { t with trAgeA := [], trAgeB := [], rstAgeA := [], rstAgeB := [] }
  | some b =>
    let n := u16At b 54
    let ages (o k : Nat) : List Nat := (List.range k).map fun i => u32At b (o + 4 * i)
    { t with
        trAgeA := ages 56 (n % 16), trAgeB := ages 116 (n / 16 % 16)
        rstAgeA := ages 176 (min 2 (n / 256 % 4)), rstAgeB := ages 184 (min 2 (n / 1024 % 4)) }

def readPoint (b : List Byte) (o : Nat) (p : MeasPoint) : MeasPoint :=
  { p with
      reg := (List.range 8).map fun i => .ofNat 64 (u64At b (o + 8 * i))
      rem := (List.range 4).map fun i => toSigned 96 (ofLe (sliceB b (o + 64 + 12 * i) 12)) }

def heatOf (b : List Byte) (o : Nat) (h : HeatPoint) : HeatPoint :=
  let reg (i : Nat) : Dword := .ofNat 64 (u64At b (o + 8 * i))
  { h with
      heat := reg 0, cool := reg 1, vol := reg 2, volf := reg 3, re := toSigned 64 (u64At b (o + 32))
      vr := toSigned 64 (u64At b (o + 40)), cprev := wordAt b (o + 48), errsec := u32At b (o + 52) }

/-- Energy, heat and pulse registers (R297, R313); a record that is absent leaves them at zero. -/
def Lane.recallMeters (l : Lane) (r : Recalled) : Lane :=
  let mps := (List.range 16).map fun m => match r.data 1 (m / 2) with
    | some b => readPoint b (8 + 112 * (m % 2)) {}
    | none => {}
  let mps := match r.data 1 8 with
    | some b => mps.mapIdx fun m p => { p with lostbnd := .ofNat 64 (u64At b (28 + 8 * m)) }
    | none => mps
  let hps := (List.range 16).map fun i => match r.data 1 (9 + i / 4) with
    | some b => heatOf b (8 + 56 * (i % 4)) {}
    | none => ({} : HeatPoint)
  let hps := hps.mapIdx fun i h => match r.data 1 (13 + i / 8) with
    | some b => { h with lostbnd := .ofNat 64 (u64At b (168 + 8 * (i % 8))) }
    | none => h
  let pos := (List.range 16).map fun i => match r.data 1 (13 + i / 8) with
    | some b =>
      let o := 8 + 20 * (i % 8)
      { last := .ofNat 64 (u64At b o), emit := .ofNat 64 (u64At b (o + 8)), bklg := u32At b (o + 16) }
    | none => ({} : PulseOut)
  let l := { l with met := { l.met with mps }, heat := { l.heat with hps, pos } }
  match r.data 1 8 with
  | none => l
  | some b => ((l.put R.MET.NOSAMP (u32At b 8)).put R.MET.SAVECNT (u32At b 12)).put R.MET.SAVEREF (u32At b 16)

/-- A pulse whose command was not yet accounted for when a record of saving frame `saved` (low 32 bits) was written: the
lanes do that at step 1 of the frame after the command. -/
def pulseUnsaved (saved cmd : Nat) : Bool :=
  let d := (saved + 2 ^ 32 - cmd % 2 ^ 32) % 2 ^ 32
  d = 0 || 2 ^ 31 ≤ d

/-- A pulse that was being emitted as the restart took over counts as emitted (03_power_clocks_start.md R83; DEDUCED,
assumption log 113). -/
def Lane.recallPulses (l : Lane) (r : Recalled) (pulsing : List (Nat × Nat)) : Lane :=
  let count (pos : List PulseOut) (x : Nat × Nat) : List PulseOut :=
    let p := pos.getD x.1 {}
    if (r.data 1 (13 + x.1 / 8)).all fun b => pulseUnsaved (u32At b 4) x.2 then
      pos.set x.1 { p with bklg := p.bklg - 1, emit := p.emit + 1 }
    else pos
  { l with heat := { l.heat with pos := pulsing.foldl count l.heat.pos } }

/-- Frames of possible loss a record's KIND allows (R297). -/
def kindFrames (b : List Byte) : Nat := if u8At b 0 = 3 then 3 else 60000
def kindOf (b : List Byte) : Nat := if 1 ≤ u8At b 0 ∧ u8At b 0 ≤ 3 then u8At b 0 else 1

def addBound (d : Dword) (n : Nat) : Dword := .ofNat 64 (min (d.toNat + n) (2 ^ 64 - 1))

/-- The loss bounds of R297 and R313 at k0, from the records as recalled and SYS.STARTUP. Windows before k0 are
missing windows (assumption log 17). -/
def Lane.lossAtK0 (l : Lane) (r : Recalled) : Lane :=
  let st := l.get R.SYS.STARTUP
  let recs := (List.range 8).filterMap fun i => r.data 1 i
  let kinds := recs.map kindOf
  let mps := l.met.mps.mapIdx fun m p => match r.data 1 (m / 2) with
    | some b => { p with lostbnd := addBound p.lostbnd (l.met.lossOf m (kindFrames b + st)) }
    | none => p
  let hps := l.heat.hps.mapIdx fun i h => match r.data 1 (9 + i / 4) with
    | some b => { h with lostbnd := addBound h.lostbnd ((l.heat.hpCfg.getD i {}).lossOf (kindFrames b + st)) }
    | none => h
  let l := { l with met := { l.met with mps }, heat := { l.heat with hps } }
  let l := l.inc R.MET.NOSAMP st
  let l := if (List.range 4).any fun i => (r.data 1 (9 + i)).isSome then l.irq R.HEAT.I_LOST else l
  if recs.isEmpty then l
  else
    let k := kinds.foldl min 3
    (((l.put R.MET.LOSTKIND k).put R.MET.LOSTFR (min (2 ^ 32 - 1) ((if k = 3 then 3 else 60000) + st)))).irq R.MET.I_LOST

/-- The calibration ledger (R281): an absent or improper one leaves the defaults and sets CALINV. -/
def readCalib (b : List Byte) : Calib where
  theta := (List.range 7).map fun i => i16At b (2 * i)
  gain := (List.range 640).map fun i => u32At b (16 + 6 * i)
  dly := (List.range 640).map fun i => u16At b (20 + 6 * i)

def Lane.recallCalib (l : Lane) (r : Recalled) : Lane :=
  let good : Option Calib := (r.calib.2.1.filter fun b => b.length == 3856).bind fun b =>
    let k := readCalib b
    if k.ok then some k else none
  match good with
  | some k => ({ l with met := { l.met with calib := k } }).put R.MET.CALINV 0
  | none =>
    let l := { l with met := { l.met with calib := ({} : Metering).calib } }
    (l.put R.MET.CALINV 1).irqIf (!l.on R.MET.CALINV) R.MET.I_CALINV

/-- The life-cycle state of the fuses and the LCS record (17_security.md R375): PROVISIONED and RETIRED stand in the fuses,
FIELD and FIELD_DEBUG in the record, and without the PROVISIONED fuse there is no key root. -/
def FuseBank.lifeCycle (f : FuseBank) (rec : Option Nat) : Nat :=
  if f.retired ∨ rec = some 4 then 4
  else if !f.provisioned then 0
  else if rec = some 2 ∨ rec = some 3 then rec.getD 1
  else 1

/-- Key slots, life cycle and manifest (R379, R380, R340). -/
def Lane.recallSecurity (l : Lane) (r : Recalled) : Lane :=
  let lcs := r.data 5 0
  let l := l.setSec fun s => { s with lcState := l.fuses.lifeCycle (lcs.map fun b => u32At b 0), tokcnt := (lcs.map fun b => u32At b 4).getD s.tokcnt }
  let l := match r.data 5 1 with
    | some b => l.setSec fun s => { s with manifest := readManifest b }
    | none => l
  let l := (List.range 128).foldl (fun (l : Lane) n =>
    match (r.data 4 n).bind fun b => l.readSlot n ((l.recInfo 4 n).seq.getD 0) b with
    | some k => l.setSec fun s => { s with slots := s.slots.set n k }
    | none => l.setSec fun s => { s with slots := s.slots.set n {} }) l
  l.deriveSlots l.derivedSlots

/-- Repair maps (18_assay.md): index lane × 11 + array, ASY RID 16 × lane + array (R413). -/
def Lane.recallAssay (l : Lane) (r : Recalled) : Lane :=
  let maps := (List.range 22).map fun i => ((r.data 6 (if i < 11 then i else i + 5)).map readRepair).getD []
  l.setAsy fun a => { a with maps, own := if l.id = .a then maps.take 11 else maps.drop 11 }

end Sys2Proof.Machine
end

