-- ==== Sys2Proof/Machine/Reads.lean ====
section
/-! DEFINITION. Reading a register (02_register_pages.md R40 to R44, R50, R57): the header, the registers a
block keeps as plain words, and the windows computed from its state; the register space as engines see
it after step 2 (04_frame.md R98), and lane-local fields (R106). -/

namespace Sys2Proof.Machine

/-- The engine that serves a page (01_architecture.md Table ARC-2); E4 and E6 stand for E4 and E5, E6 and E7. -/
def pageEngine (page : Nat) : Nat :=
  if page < 0x10 then 0
  else if page < 0x18 then 3
  else if page < 0x1C then 6
  else if page < 0x20 then 4
  else if page < 0x24 then 2
  else if page < 0x30 then 0
  else if page < 0x34 then 2
  else if page = 0x34 then 0
  else 1

/-- Engine `n` serves the page. -/
def servesPage (n page : Nat) : Bool :=
  pageEngine page == n || (pageEngine page == 4 && n == 5) || (pageEngine page == 6 && n == 7)

/-- A header register or a register of the block's table stands at the offset (R44). -/
def definedReg (page off : Nat) : Bool :=
  match pageRow page with
  | none => false
  | some row => if off < 0x040 then decide (off ≤ 0x020) else row.fields.any fun f => f.covers off

/-- What an access to an address reports before any rule of its register: 0, NOPAGE, NOREG or ALIGN (R42, R44,
R52). -/
def addrStatus (a : Word) : Nat :=
  if a.toNat < 0x40000000 ∨ 0x40100000 ≤ a.toNat then 0xFF01
  else
    let k := a.toNat - 0x40000000
    let p := k / 0x1000
    if k % 4 ≠ 0 then p * 256 + 0x06
    else if (pageRow p).isNone then p * 256 + 0x01
    else if !definedReg p (k % 0x1000) then p * 256 + 0x02
    else 0

/-- Key of the register an address names. -/
def addrKey (a : Word) : Nat := a.toNat - 0x40000000

/-- A status as it is answered: also OK carries the page index in bits [15:8] (R52). -/
def fullStatus (a : Word) (st : Nat) : Nat := if st = 0 then addrKey a / 0x1000 * 256 else st

/-! ### Header registers (Tables REG-2 to REG-7) -/

/-- A multi-frame operation of the block runs (Table REG-5 BUSY). -/
def Lane.busy (l : Lane) (page : Nat) : Bool :=
  if page = 0x11 then l.solveBusy
  else if page = 0x13 then l.opt.job.isSome
  else if page = 0x1B then l.trcRecording
  else if page = 0x29 then l.pat.summary.isSome
  else if page = 0x2B then l.sec.attReq.isSome
  else if page = 0x2C then l.sec.ustate == .verifying || l.sec.ustate == .promoting || l.sec.lcNext.isSome
  else if page = 0x2D then l.asy.cmd.isSome
  else false

/-- The block has completed start-up (Table REG-5 READY); NVS becomes ready with its recall (14_nv_store.md R334). -/
def Lane.ready (l : Lane) (page : Nat) : Bool :=
  if page = 0x28 then l.on R.NVS.RECALLED else l.running

/-- VER: the version of the firmware image in the committed slot, a constant of its digest (R42, assumption log 11). -/
def readVersion (nv : NvStore) (l : Lane) : Word := Config.version (sliceB (nv.nandPage l.committedSlot 0) 32 48)

def readHeader (nv : NvStore) (l : Lane) (page off : Nat) : Word :=
  let k := page * 0x1000
  if off = 0x004 then readVersion nv l
  else if off = 0x00C then
    .ofNat 32 ((if l.ready page then 1 else 0) + (if l.busy page then 2 else 0) + (if l.reg (k + 0x01C) ≠ 0 then 4 else 0))
  else if off = 0x018 then 0
  else if off = 0x020 then (if l.opened.contains page then 0x10000 else 0)
  else l.reg (k + off)

/-! ### The RTC and QMG windows (Tables TIM-6 and QUE-2) -/

def Lane.readRtc (l : Lane) (off : Nat) : Nat :=
  let a := l.time.alarms.getD (l.get R.RTC.ASEL) {}
  if off = 0x068 then a.cfg.toNat
  else if off = 0x06C then a.day.toNat
  else if off = 0x070 then a.next.toNat
  else if off = 0x074 then a.last.toNat
  else if off = 0x078 then
    a.fcnt * 2 ^ 16 + (if a.late then 2 else 0) + (if a.next ≠ 0xFFFFFFFF then 1 else 0)
  else (l.reg (0x30000 + off)).toNat

/-- A word is visible to the queue's reader. -/
def Queue.vis (q : Queue) : Bool := q.items.any QItem.readable

def Lane.readQmg (l : Lane) (off : Nat) : Nat :=
  let n := l.get R.QMG.QSEL
  let q := l.queue n
  let e := l.queueEnds n
  let b (x : Bool) (w : Nat) : Nat := if x then w else 0
  if off = 0x04C then q.cap
  else if off = 0x050 then q.rto * 2 ^ 16 + q.cut
  else if off = 0x054 then e.2 * 16 + e.1
  else if off = 0x058 then q.held
  else if off = 0x05C then b q.orphan 8 + b q.wOpen 4 + b q.full 2 + b q.vis 1
  else if off = 0x060 then q.ign
  else if off = 0x064 then q.ovr
  else if off = 0x068 then q.trunc
  else if off = 0x06C then q.strand
  else if off = 0x070 then q.flushw
  else if off = 0x074 then q.ce
  else (l.reg (0x34000 + off)).toNat

/-- MAXBUSY: the value written, or a larger BUSYUS of a frame since (Table ARC-7). -/
def Lane.maxBusy (l : Lane) (page : Nat) : Nat :=
  let from_ := max l.k0 (kvGet 0 l.busyFrom page)
  (List.range (l.fno - from_)).foldl (fun m i => max m ((Config.engTime page 0x058 (from_ + 1 + i)).toNat % 65536))
    (l.reg (page * 0x1000 + 0x05C)).toNat

/-! ### One read -/

/-- The register at byte offset `off` of `page` as its block holds it now. -/
def readBlock (h : Hub) (nv : NvStore) (l : Lane) (page off : Nat) : Word :=
  let plain : Nat := (l.reg (page * 0x1000 + off)).toNat
  let v : Nat :=
    if page = 0x00 then
      (if off = 0x040 then Config.serial.toNat % 2 ^ 32 else if off = 0x044 then Config.serial.toNat / 2 ^ 32 else plain)
    else if page = 0x02 then (if off = 0x050 then (if l.id = .a then 0 else 1) else if off = 0x04C then 0 else plain)
    else if page = 0x04 then
      (if off = 0x050 then (Config.measFreq (l.get R.CLK.MEASSEL) l.fno).toNat else plain)
    else if 0x08 ≤ page ∧ page ≤ 0x0F ∧ (off = 0x050 ∨ off = 0x054) then (Config.engTime page off l.fno).toNat
    else if 0x08 ≤ page ∧ page ≤ 0x0F ∧ off = 0x058 then (Config.engTime page off l.fno).toNat % 65536
    else if 0x08 ≤ page ∧ page ≤ 0x0F ∧ off = 0x05C then l.maxBusy page
    else if 0x08 ≤ page ∧ page ≤ 0x0A then (if off = 0x040 then plain ||| 0x100 else plain)
    else if page = 0x11 then l.readSol off
    else if page = 0x13 then l.readOpt off
    else if page = 0x19 then l.readLoopw off
    else if page = 0x1A then l.readBurn off
    else if page = 0x1B then l.readTrc off
    else if page = 0x1C then l.readPrg off
    else if page = 0x1D then l.readFrc off
    else if page = 0x1E then l.readPimg off
    else if page = 0x21 then l.readMpt off
    else if page = 0x22 then l.readHeat off
    else if page = 0x23 then l.readPls off
    else if page = 0x28 then
      (if off = 0x080 then (nv.badBlocks.length + (1008 - nv.spares)) * 2 ^ 16 + nv.spares else l.readNvs off)
    else if page = 0x29 then Lane.readPat nv l off
    else if page = 0x2A then l.readHmk off
    else if page = 0x2C then l.readLcs off
    else if page = 0x2D then l.readAsy off
    else if page = 0x30 then l.readRtc off
    else if page = 0x34 then l.readQmg off
    else if page = 0x3C then l.readFab off
    else if 0x38 ≤ page ∧ page ≤ 0x3B ∧ off = 0x040 then
      plain + (if l.on R.PTP.PROFILE && l.get R.PTP.PORT == page - 0x38 && !l.on R.FAB.TSRC then 8 else 0)
    else if 0x38 ≤ page ∧ page ≤ 0x3B ∧ off = 0x054 then
      (if l.role = 3 ∨ l.role = 4 then
        (h.ports.conns.countP fun c => c.port == page - 0x38) * 2 ^ 16 + h.ports.sessions.countP fun x => x.port == page - 0x38
      else 0)
    else if 0x44 ≤ page ∧ page ≤ 0x47 ∧ off = 0x040 then plain - plain / 16 % 2 * 16
    else if (page = 0x4C ∨ page = 0x4D) ∧ off = 0x054 then 0
    else if page = 0x50 then readDsp h l off
    else if page = 0x51 then readPnl h l off
    else plain
  .ofNat 32 v

/-- The register at a key, 0 where none stands (R42, R44). -/
def readKey (h : Hub) (nv : NvStore) (l : Lane) (key : Nat) : Word :=
  let page := key / 0x1000
  let off := key % 0x1000
  if !definedReg page off then 0
  else if off < 0x040 then readHeader nv l page off
  else readBlock h nv l page off

/-- RDATA is read of a partition of size 0 (15_patina_recorder.md Table PAT-7). -/
def Lane.noPart (l : Lane) (key : Nat) : Bool :=
  decide (0x29400 ≤ key) && decide (key < 0x29500) && (l.pat.part (l.get R.PAT.RPART)).size == 0

/-- The status a read reports: that of its address, NOTREADY of the NVS page during recall (R334), and NOPART. -/
def Lane.readStatus (l : Lane) (a : Word) : Nat :=
  let st := addrStatus a
  if st ≠ 0 then st
  else if addrKey a / 0x1000 = 0x28 ∧ !l.on R.NVS.RECALLED then 0x280E
  else if l.noPart (addrKey a) then 0x2941
  else 0

/-- A status of a read is posted like any other (R52); a code of no page posts nowhere. -/
def Lane.postRead (l : Lane) (st : Nat) : Lane :=
  if st = 0 ∨ 0xFF00 ≤ st ∨ (pageRow (st / 256)).isNone then l else l.post st

/-! ### The register space at the end of step 2 (R98) -/

/-- Offsets of the header and of the block registers of a page. -/
def pageOffsets (row : PageRow) : List Nat :=
  ((List.range 9).map fun i => 4 * i) ++
    (row.fields.filter fun f => decide (0x040 ≤ f.off)).flatMap fun f => (List.range f.cnt).map fun i => f.off + i * f.stride

def assignedPages : List Nat := (List.range 256).filter fun p => (pageRow p).isSome

/-- Every register of the lane as a read finds it now. -/
def viewOf (h : Hub) (nv : NvStore) (l : Lane) : RegFile :=
  assignedPages.foldl (fun (r : RegFile) (p : Nat) =>
    (((pageRow p).map pageOffsets).getD []).foldl (fun (r : RegFile) (o : Nat) =>
      kvSetD resetWord r (p * 0x1000 + o) (readKey h nv l (p * 0x1000 + o))) r) []

def Lane.takeView (h : Hub) (nv : NvStore) (l : Lane) : Lane := { l with view := viewOf h nv l }

/-- A register of the view. -/
def Lane.viewReg (l : Lane) (key : Nat) : Word := kvGetD resetWord l.view key

/-! ### Engine reads (R98, R106) -/

/-- The bits of a register that hold lane-local fields; on the TSQ page every field and event is lane-local
(16_time.md Table TIM-8). -/
def llMask (page off : Nat) : Nat :=
  match pageRow page with
  | none => 0
  | some row =>
    if page = 0x32 then
      (if off = 0x010 then 0xFFFFFFFE else if 0x040 ≤ off then 0xFFFFFFFF else 0)
    else row.fields.foldl (fun m f => if f.ll && f.covers off then m ||| ((2 ^ f.width - 1) * 2 ^ f.lo) else m) 0

/-- A read by engine `n`: its own pages as they stand, another engine's as at the end of step 2; E3 to E7 read
lane-local fields as zero, which counts in LLREAD. -/
def Lane.engineRead0 (h : Hub) (nv : NvStore) (l : Lane) (n : Nat) (a : Word) : Word × Nat × Lane :=
  let st := l.readStatus a
  if st ≠ 0 then (0, st, l.postRead st)
  else
    let k := addrKey a
    let page := k / 0x1000
    let w := if servesPage n page then readKey h nv l k else l.viewReg k
    let sh := l.shadow n
    let w := match sh with
      | some x => if k = R.RTC.CALW1.key then x.calw1 else if k = R.RTC.CALSEC.key then x.calsec else w
      | none => w
    let l := if k = R.RTC.CALW0.key then l.freezeShadow n
      else if k = R.RTC.CALW1.key then l.dropShadow n else l
    let m := llMask page (k % 0x1000)
    if 3 ≤ n ∧ m ≠ 0 then
      (w &&& ~~~(BitVec.ofNat 32 m), 0x0140, ((l.inc R.FRAME.LLREAD).irq R.FRAME.I_LLREAD).post 0x0140)
    else (w, 0, l)

/-- An engine's read clears an RC register after returning it (00_scope.md Table SCO-5). -/
def Lane.engineRead (h : Hub) (nv : NvStore) (l : Lane) (n : Nat) (a : Word) : Word × Nat × Lane :=
  let r := Lane.engineRead0 h nv l n a
  if r.2.1 = 0 ∧ addrKey a % 0x1000 = 0x01C then (r.1, 0, r.2.2.setReg (addrKey a) 0) else r

/-! ### Session reads (R57, R58, 17_security.md Table SEC-11) -/

/-- An external read of ERRC: the code, or 0 while a clear of that code is pending (R58). -/
def errcShown (l : Lane) (pend : List (Word × Word)) (a : Word) : Word :=
  let w := l.reg (addrKey a)
  if pend.contains (a, w) then 0 else w

/-- One address of an immediate or frame-consistent read for reader `8 + session`; the third part is the clear
it passes, where it read a code. A refused read of a session reports its status in the answer alone and posts nothing, so
that both lanes stay equal (assumption log 89). -/
def Lane.sessionRead (h : Hub) (nv : NvStore) (l : Lane) (reader : Nat) (pend : List (Word × Word)) (a : Word) :
    Word × Nat × Option (Word × Word) × Lane :=
  let st := l.readStatus a
  if st ≠ 0 then (0, st, none, l)
  else
    let k := addrKey a
    if k % 0x1000 = 0x01C then
      let w := errcShown l pend a
      (w, 0, if w = 0 then none else some (a, w), l)
    else
      let w := readKey h nv l k
      let w := match l.shadow reader with
        | some x => if k = R.RTC.CALW1.key then x.calw1 else if k = R.RTC.CALSEC.key then x.calsec else w
        | none => w
      let l := if k = R.RTC.CALW0.key then l.freezeShadow reader
        else if k = R.RTC.CALW1.key then l.dropShadow reader else l
      (w, 0, none, l)

end Sys2Proof.Machine
end

