-- ==== Sys2Proof/Machine/Writes.lean ====
section
/-! DEFINITION. Writing a register (02_register_pages.md R44 to R51, R59): the checks every write passes, the
header registers, the registers whose write is an operation of their block, SRST, and the held writes of
engines (R49). The rights of sessions are those of 17_security.md Table SEC-11. -/

namespace Sys2Proof.Machine

/-! ### Fields of a register -/

def fieldsAt (page off : Nat) : List Fld :=
  match pageRow page with
  | none => []
  | some row => row.fields.filter fun f => f.covers off

def Access.writable : Access → Bool
  | .ro | .rc => false
  | _ => true

/-- The defined range of a field holds the value (R51). -/
def Fld.takes (f : Fld) (w : Word) : Bool :=
  let v := bits w f.hi f.lo
  match f.rng with
  | .any => true
  | .nat lo hi => decide (lo ≤ v) && decide (v ≤ hi)
  | .int lo hi => decide (lo ≤ toSigned f.width v) && decide (toSigned f.width v ≤ hi)
  | .f32 lo hi => decide (lo ≤ v) && decide (v ≤ hi)
  | .f32pos => f32Pos w
  | .f32nonneg => f32NonNeg w
  | .f32fin => F32.isFin w

/-- The bits of a block register that belong to no field (R51). -/
def reservedMask (page off : Nat) : Nat :=
  2 ^ 32 - 1 - (fieldsAt page off).foldl (fun m f => m ||| ((2 ^ f.width - 1) * 2 ^ f.lo)) 0

/-- NOREG where the value sets a reserved bit (R51): the rest of the register is applied. -/
def reservedSet (page off : Nat) (w : Word) : Bool := decide (w.toNat &&& reservedMask page off ≠ 0)

/-- Field `f` of a register takes its part of the written value by its access kind (00_scope.md Table SCO-5). -/
def storeField (l : Lane) (page off : Nat) (w : Word) (f : Fld) : Lane :=
  let k := page * 0x1000 + off
  let v := bits w f.hi f.lo
  let old := bits (l.reg k) f.hi f.lo
  match f.acc with
  | .rw | .rws | .rwl => l.setReg k (withBits (l.reg k) f.hi f.lo v)
  | .w1c => l.setReg k (withBits (l.reg k) f.hi f.lo (old - (old &&& v)))
  | .w1s => l.setReg k (withBits (l.reg k) f.hi f.lo (old ||| v))
  | _ => l

/-- Every writable field of the register takes its part of the value. -/
def Lane.store (l : Lane) (page off : Nat) (w : Word) : Lane :=
  (fieldsAt page off).foldl (fun (l : Lane) f => storeField l page off w f) l

/-! ### Rights (Table SEC-11, R403; Table SEC-1) -/

/-- OPERATE rights. -/
def operateTarget (page off : Nat) (w : Word) : Bool :=
  off == 0x010 ||
  (page == 0x1C && off == 0x044 && (w.toNat % 4 == 1 || w.toNat % 4 == 2)) ||
  (page == 0x1C && off == 0x048) ||
  (page == 0x19 && (off == 0x070 || off == 0x074)) ||
  (page == 0x13 && (off == 0x07C || off == 0x080)) ||
  (page == 0x30 && (off == 0x050 || off == 0x054 || off == 0x058)) ||
  page == 0x1B || (page == 0x29 && off == 0x054)

/-- Targets of the SECURITY role. -/
def securityTarget (page off : Nat) : Bool :=
  page == 0x2A || page == 0x2B || (page == 0x2C && decide (0x048 ≤ off) && decide (off < 0x0AC))

/-- A session of the role may write the register, in the life-cycle state of the module: a BLANK module gives its
factory session all rights, a PROVISIONED one CLAIM and the commanded tests of
Table ASY-6, a RETIRED one none. -/
def Lane.mayWrite (l : Lane) (role : SessRole) (page off : Nat) (w : Word) : Bool :=
  if l.lifeCycle = 0 then true
  else if l.lifeCycle = 1 then (page == 0x2C && off == 0x048) || (page == 0x2A && decide (0x06C ≤ off)) || (page == 0x2D && off == 0x044)
  else if l.lifeCycle = 4 then false
  else match role with
    | .view => false
    | .operate => operateTarget page off w
    | .engineer => operateTarget page off w || !securityTarget page off
    | .security => operateTarget page off w || securityTarget page off

/-! ### SRST (Table REG-4, R59) -/

/-- The header of the page returns to its reset values; CTRL.EN stays. -/
def Lane.resetHeader (l : Lane) (page : Nat) : Lane :=
  let k := page * 0x1000
  ((l.setReg (k + 0x010) 0).setReg (k + 0x014) 0).setReg (k + 0x01C) 0

/-- The named fields return to their reset values. -/
def Lane.resetFields (l : Lane) (page : Nat) (fs : List Fld) : Lane :=
  fs.foldl (fun (l : Lane) f =>
    (List.range f.cnt).foldl (fun (l : Lane) i =>
      l.setReg (page * 0x1000 + f.off + i * f.stride)
        (withBits (l.reg (page * 0x1000 + f.off + i * f.stride)) f.hi f.lo f.reset)) l) l

/-- The settings of a page: what a write that needs no lock can change. -/
def pageSettings (page : Nat) : List Fld :=
  match pageRow page with
  | none => []
  | some row => row.fields.filter fun f =>
    decide (0x040 ≤ f.off) && (f.acc == .rw || f.acc == .rws)

/-- Counts of the port pages (21_field_ports.md, "Register pages"). -/
def portCounts (page : Nat) : List Fld :=
  if 0x38 ≤ page ∧ page ≤ 0x3B then
    [R.ETH.RXFR, R.ETH.RXDROP, R.ETH.TGOK, R.ETH.TGAUTH, R.ETH.TGREPLAY]
  else if 0x44 ≤ page ∧ page ≤ 0x47 then [R.CAN.BOCNT, R.CAN.OSFAIL, R.CAN.RXCNT]
  else if 0x48 ≤ page ∧ page ≤ 0x4B then [R.SER.RXADU, R.SER.CRCERR, R.SER.TOUT, R.SER.OVRUN]
  else [R.MB.RXTG, R.MB.COLL, R.MB.OVCCNT]

/-- Pages without SRST (Table REG-4). -/
def noSrst (page : Nat) : Bool := [0x00, 0x01, 0x02, 0x06, 0x2A, 0x2C].contains page

/-- The fields that SRST resets on a page whose chapter says that it resets only them, or only the window or the counts:
nothing else of such a page changes (R39, 09_control_loops.md R229, 12_electrical_metering.md R301,
13_heat_metering_pulses.md R318, and the register pages of 13, 14, 20 and 21). -/
def srstOnly (page : Nat) : Option (List Fld) :=
  if 0x08 ≤ page ∧ page ≤ 0x0F then some [R.ENG.MAXBUSY]
  else if page = 0x19 then some [R.LOOPW.LSEL]
  else if page = 0x1A then some [R.BURN.BSEL, R.BURN.WPER, R.BURN.WBASE]
  else if page = 0x21 then some [R.MPT.MPSEL, R.MPT.HORD, R.MPT.HCH]
  else if page = 0x22 then some [R.HEAT.HSEL, R.HEAT.RTDSEL]
  else if page = 0x23 then some [R.PLS.PSEL]
  else if page = 0x28 then some [R.NVS.PSEL, R.NVS.RSEL]
  else if 0x3D ≤ page ∧ page ≤ 0x40 then some [R.FL.DOWNCNT, R.FL.UPCNT, R.FL.RXFR, R.FL.TXFR, R.FL.BLKERR, R.FL.QDROP]
  else if (0x38 ≤ page ∧ page ≤ 0x3B) ∨ (0x44 ≤ page ∧ page ≤ 0x4D) then some (portCounts page)
  else none

/-- A register returns to what the configuration gave it: its last preset, or its reset value. -/
def Lane.toPreset (l : Lane) (key : Nat) : Lane := l.setReg key (((l.presets.filter fun p => p.1 == key).getLast?.map (·.2)).getD (resetWord key))

/-- SRST of the pages whose chapter does not say what it resets: counts, latched bits, queues and settings return to their
reset values, a setting that a configuration gives to the configured value; what shows a condition outside the page or
counts since manufacture stays (DESIGN CHOICE, assumption log 30). -/
def Lane.srstRest (l : Lane) (page : Nat) : Lane :=
  if page = 0x03 then l.toPreset R.PWR.DSPOFF.key
  else if page = 0x04 then l.resetFields page [R.CLK.CLKFLT, R.CLK.MEASSEL]
  else if page = 0x05 then l.resetFields page [R.RST.KIND]
  else if page = 0x12 ∨ page = 0x14 then
    l.resetFields page ((((pageRow page).map (·.fields)).getD []).filter fun f => decide (0x040 ≤ f.off))
  else if page = 0x1E then
    (l.setPorts fun p => { p with stations := p.stations.map fun s => { s with drops := 0, sundlv := 0 } }).resetFields page (pageSettings page)
  else if page = 0x31 then
    let steps := l.get R.PTP.STEPCNT
    let l := (l.ptpNewOwner.resetFields page [R.PTP.OFFSET, R.PTP.MPD, R.PTP.GMID_L, R.PTP.GMID_H, R.PTP.UTCANN, R.PTP.UTCANNV, R.PTP.STEPCNT])
    let l := [R.PTP.PRIO1.key, R.PTP.ANNRTO.key, R.PTP.STEPTHR.key, R.PTP.UNLKTHR.key, R.PTP.KI.key, R.PTP.HOTIME.key].foldl Lane.toPreset l
    { l with time := { l.time with stepBase := l.time.stepBase + steps } }
  else if page = 0x32 then
    (({ l with tsq := [] } : Lane).resetFields page [R.TSQ.OVFCNT, R.TSQ.OVFPORT, R.TSQ.OVFID, R.TSQ.STALECNT]).showTsq
  else if page = 0x50 then
    let l := (l.dispCfg.regs0.filter fun p => p.1 == 0x50060 || p.1 == 0x50064).foldl (fun (l : Lane) p => l.setReg p.1 p.2) l
    { l with panel := { l.panel with dspReset := true } }
  else if page = 0x51 then
    let l := (l.dispCfg.regs0.filter fun p => decide (p.1 = 0x5104C)).foldl (fun (l : Lane) p => l.setReg p.1 p.2) l
    let vcom := (l.dispCfg.regs0.filterMap fun p => if p.1 = R.PNL.VCOM.key then some (bits p.2 31 16) else none).headD (l.get R.PNL.VCOM)
    { (l.put R.PNL.VCOM vcom).resetFields page [R.PNL.GSEL, R.PNL.GIDX] with panel := { l.panel with pnlReset := true } }
  else l.resetFields page (pageSettings page)

/-- MINPER for the settings as they stand (R183). -/
def Lane.putMinPer (l : Lane) : Lane := match l.slv.model with
  | some md => l.put R.SOL.MINPER
      (minPer md (l.get R.SOL.NIT) (l.get R.SOL.NREF) (if l.inDomain then some (l.get R.FAB.LATENCY) else none))
  | none => l

/-- SRST of a page without `srstOnly`, its header being reset: what its chapter names, and the rest of Table REG-4. The
chapter of HMK gives an SRST its effect, but Table REG-4 refuses it there. -/
def Lane.srstBlock (l : Lane) (page : Nat) : Lane :=
  let only (fs : List Fld) : Lane := l.resetFields page fs
  if page = 0x10 then
    ((l.setSlv fun s => { s with plugReset := true }).put R.NET.MRGCNT 0).put R.NET.PLUGHWM (l.get R.NET.PLUGUSE)
  else if page = 0x11 then
    let run := l.solveBusy
    (((l.solveAbort).resetFields page (pageSettings page)).putMinPer).postIf run 0x110B
  else if page = 0x13 then
    let run := l.opt.job.isSome
    let fmode := (l.opt.image.map (·.fmode)).getD 0
    let fixed : List Fld := [R.OPT.PTOL, R.OPT.DTOL, R.OPT.GTOL, R.OPT.SLKTOL, R.OPT.COLDREQ, R.OPT.TKIND, R.OPT.TIDX, R.OPT.RKIND, R.OPT.RSTEP, R.OPT.RIDX]
    let l := (l.dispatchAbort false).resetFields page fixed
    (l.setOpt fun o => { o with tables := tablesReset fmode }).postIf run 0x130B
  else if page = 0x18 then l.loopReset.resetFields page [R.LOOP.LBMAX]
  else if page = 0x1B then
    let run := l.trcRecording
    ((l.resetFields page (pageSettings page)).clearTrc.toTrc .idle).postIf run 0x1B0B
  else if page = 0x1C then
    let l := if l.prg.mode = .stop then l else l.prgToStop
    (l.resetFields page (pageSettings page)).put R.PRG.FAULT 0
  else if page = 0x1D then l.forceReleaseAll.resetFields page (pageSettings page)
  else if page = 0x20 then l.metReset
  else if page = 0x29 then
    let run := l.pat.summary.isSome
    (((only [R.PAT.PATPG, R.PAT.SPART, R.PAT.RPART, R.PAT.RHDR, R.PAT.RSEQ]).put R.PAT.SUMV 0).setPat fun t =>
      { t with summary := none }).postIf run 0x290B
  else if page = 0x2B then
    let run := l.sec.attReq.isSome
    ((l.resetFields page (pageSettings page)).setSec fun s => { s with attReq := none, attDone := none }).postIf run 0x2B0B
  else if page = 0x2D then l.asyReset
  else if page = 0x30 then only [R.RTC.SETW0, R.RTC.SETW1, R.RTC.ASTHR, R.RTC.ASEL]
  else if page = 0x34 then
    ({ l with queues := l.queues.map Queue.clearCounts } : Lane).resetFields page [R.QMG.QSEL, R.QMG.CECNT]
  else if page = 0x3C then l.fabReset
  else l.srstRest page

/-- SRST (Table REG-4, R59); MINPER after one of SOL is computed again (DEDUCED, assumption log 125). -/
def Lane.srst (l : Lane) (page : Nat) : Lane :=
  match srstOnly page with
  | some fs =>
    let l := l.resetFields page fs
    if 0x08 ≤ page ∧ page ≤ 0x0F then { l with busyFrom := kvSet 0 l.busyFrom page l.fno } else l
  | none => (l.resetHeader page).srstBlock page

/-! ### Header registers -/

/-- A write of a header register. A bit of IRQF whose event the page does not define forces nothing and is not
reported (assumption log 92). -/
def Lane.writeHeader (l : Lane) (page off : Nat) (w : Word) : Lane × Nat :=
  let k := page * 0x1000
  let c := page * 256
  if off = 0x008 then
    let fixed := ((pageRow page).map (·.enFixed)).getD true
    let l := if fixed then l else l.setReg (k + 0x008) (if page = 0x10 ∧ !l.on R.NET.LOADED then 0 else w &&& 1)
    let res := if w.toNat / 4 ≠ 0 then c + 0x02 else 0
    if w.getLsbD 1 then (if noSrst page then (l, c + 0x0A) else (l.srst page, res)) else (l, res)
  else if off = 0x010 then
    let m := (2 ^ 32 - 1 - reservedMask page 0x010) ||| 1
    let keep := kvGet 0 l.irqSet page
    (l.setReg (k + 0x010) (l.reg (k + 0x010) &&& ~~~(w &&& ~~~keep)),
      if w.toNat - (w.toNat &&& m) ≠ 0 then c + 0x02 else 0)
  else if off = 0x014 then ((l.setReg (k + 0x014) w).noteRise l page, 0)
  else if off = 0x018 then
    let m := (2 ^ 32 - 1 - reservedMask page 0x010) ||| 1
    ((List.range 32).foldl (fun (l : Lane) b => if w.getLsbD b && m.testBit b then l.irqBit page b else l) l, 0)
  else if off = 0x020 then
    if w.toNat % 65536 = (l.reg k).toNat % 65536 then
      ({ l with opened := page :: l.opened }, if w.toNat / 131072 ≠ 0 then c + 0x02 else 0)
    else (l, c + 0x05)
  else (l, c + 0x03)

/-! ### Registers whose write is an operation -/

/-- A status code with its page: block functions answer the low byte alone (R52). -/
def pageCode (page st : Nat) : Nat := if st = 0 then 0 else if st < 256 then page * 256 + st else st

/-- Runs an operation that posts its own refusal, and reads from ERRC what it posted. -/
def Lane.posting (l : Lane) (page : Nat) (f : Lane → Lane) : Lane × Nat :=
  let k := page * 0x1000 + 0x01C
  let r := f (l.setReg k 0)
  let code := (r.reg k).toNat
  (if code = 0 then r.setReg k (l.reg k) else r, code)

/-- BCD byte in a range, or 0xFF. -/
def bcdOr (b lo hi : Nat) : Bool :=
  b == 0xFF || (match ofBcd b with
    | some v => decide (lo ≤ v) && decide (v ≤ hi)
    | none => false)

/-- The values of R363 an alarm word may hold. -/
def almCfgOk (w : Word) : Bool := bcdOr (bits w 31 24) 0 23 && bcdOr (bits w 23 16) 0 59 && bcdOr (bits w 15 8) 0 59
def almDayOk (dom : Bool) (w : Word) : Bool :=
  bcdOr (bits w 15 8) 1 12 && (if dom then bcdOr (bits w 7 0) 1 31 else bits w 7 7 == 0)

/-- The selection register a window write binds to (R236, R253, R384, R431; alarms by ASEL). -/
def selKey (page : Nat) : Option Nat :=
  if page = 0x19 then some 0x19040
  else if page = 0x1A then some 0x1A040
  else if page = 0x1C then some 0x1C09C
  else if page = 0x1D then some 0x1D044
  else if page = 0x2A then some 0x2A040
  else if page = 0x30 then some 0x30064
  else if page = 0x34 then some 0x34048
  else none

/-- Writes of the solver, dispatch, loop and trace pages. -/
def Lane.writeCompute (l : Lane) (page off : Nat) (w : Word) : Option (Lane × Nat) :=
  if page = 0x11 then
    if off = 0x040 ∧ bits w 4 0 ≤ bits w 19 16 then some (l, 0x1109)
    else if off = 0x040 then
      match l.slv.model with
      | none => none
      | some md =>
        let mp := minPer md (bits w 4 0) (bits w 9 8) (if l.inDomain then some (l.get R.FAB.LATENCY) else none)
        if l.solPeriod < mp then some (l, 0x1140) else some ((l.store page off w).put R.SOL.MINPER mp, 0)
    else if off = 0x06C then
      match l.slv.model with
      | none => none
      | some md =>
        let k := bits w 18 16
        let n := if k ≤ 1 then md.node.length else if k ≤ 4 then md.brch.length else md.meas.length
        if n ≤ bits w 15 0 ∨ (k = 3 ∧ !hasTheta (md.brchAt (bits w 15 0))) then some (l, 0x1109) else none
    else if off = 0x078 ∧ w.getLsbD 0 ∧ !l.enabled 0x11 then some (l, 0x1107)
    else none
  else if page = 0x13 then
    if off = 0x040 then
      match l.slv.model, l.opt.image with
      | some md, some im =>
        if bits w 21 16 * 60000 < l.optPeriod then some (l, 0x1341)
        else some ((l.store page off w).put R.OPT.MINPD
          (minPd md.plnt.length im.stores.length md.netw.length (bits w 7 0)), 0)
      | _, _ => none
    else if off = 0x060 ∧ w.getLsbD 0 ∧ !l.enabled 0x13 then some (l.store page off (w &&& 0xFFFFFFFE), 0x1307)
    else if off = 0x080 then some (l.writeTdata w, 0)
    else if off = 0x084 then
      match l.opt.cur with
      | none => none
      | some r => if (r.item (bits w 18 16) (bits w 15 8) (bits w 7 0)).isNone then some (l, 0x1309) else none
    else none
  else if page = 0x19 ∧ off ≠ 0x040 then some (l.writeLoopw (l.get R.LOOPW.LSEL) off w)
  else if page = 0x1A ∧ off = 0x084 then (if l.wbaseOk (bits w 15 0) then none else some (l, 0x1A09))
  else if page = 0x1A ∧ off ≠ 0x040 ∧ off ≠ 0x080 then
    (if off = 0x074 ∧ !(l.enabled 0x1A && l.enabled 0x18) then some (l, 0x1A07) else some (l.writeBurn (l.get R.BURN.BSEL) off w))
  else if page = 0x1B then
    if off = 0x044 then
      if !(l.enabled 0x1B && l.enabled 0x18) then some (l, 0x1B07)
      else
        let r0 := if w.getLsbD 0 then l.posting 0x1B Lane.trcArm else (l, 0)
        let r1 : Lane := if w.getLsbD 1 then r0.1.trcFire else r0.1
        let r2 : Lane := if w.getLsbD 2 then r1.trcStop else r1
        let r3 := if w.getLsbD 3 then r2.posting 0x1B Lane.trcRoll else (r2, 0)
        some (r3.1, if r3.2 ≠ 0 then r3.2 else r0.2)
    else if off < 0x0C0 ∧ l.trcRecording then some (l, 0x1B40)
    else none
  else none

/-- Writes of the program and force pages (10_cyclic_programs.md R248, R251, R253). -/
def Lane.writeProgram (l : Lane) (ext : Bool) (page off : Nat) (w : Word) : Option (Lane × Nat) :=
  if page = 0x1C then
    if off = 0x044 then
      if !ext then some (l, 0x1C0D)
      else if bits w 1 0 = 1 then some (l.posting 0x1C Lane.cmdRun)
      else if bits w 1 0 = 2 then some (l.posting 0x1C Lane.cmdStop)
      else if bits w 1 0 = 3 then some (l.posting 0x1C Lane.cmdHold)
      else some (l, 0)
    else if off = 0x048 then
      (if !ext then some (l, 0x1C0D) else if w.getLsbD 0 then some (l.posting 0x1C Lane.fltAck) else some (l, 0))
    else if off = 0x0A0 then
      (if !l.enabled 0x1C then some (l, 0x1C07) else some (l.writeVval (l.reg 0x1C09C).toNat w))
    else none
  else if page = 0x1D ∧ off ≠ 0x044 then
    if !ext ∨ !l.forcePermitted then some (l, 0x1D0D)
    else if off ≠ 0x054 ∨ bits w 1 0 = 0 then none
    else if !l.enabled 0x1D then some (l, 0x1D07)
    else if bits w 1 0 = 1 then some (l.forceApply (l.get R.FRC.FSEL))
    else if bits w 1 0 = 2 then some (l.forceRelease (l.get R.FRC.FSEL))
    else some (l.forceReleaseAll, 0)
  else if page = 0x1E ∧ off = 0x048 then
    let l := l.store page off w
    some (l, if (l.station (bits w 10 0)).isSome then 0 else 0x40)
  else none

/-- Writes of the supervisor's pages: restart policy and commands, quench image, security, self-test. -/
def Lane.writeSystem (l : Lane) (ext : Bool) (entropy : List Byte) (page off : Nat) (w : Word) : Option (Lane × Nat) :=
  if page = 0x00 ∧ off = 0x060 then some ((l.store page off w).placePolicy, 0)
  else if 0x08 ≤ page ∧ page ≤ 0x0F ∧ off = 0x05C then
    some ({ l.store page off w with busyFrom := kvSet 0 l.busyFrom page l.fno }, 0)
  else if page = 0x02 ∧ off = 0x04C then
    if !ext then some (l, 0x020D)
    else if !w.getLsbD 0 then some (l, 0)
    else if l.on R.TST.SWAP then some (l, 0x0208)
    else if !l.compared then some (l, 0x0241)
    else some (l.put R.TST.SWAP 1, 0)
  else if page = 0x05 ∧ off = 0x040 then
    if bits w 1 0 = 0 then some (l, 0)
    else if l.restart.isSome then some (l, 0x0508)
    else if l.reduced then some (l, 0x0540)
    else
      let cold := bits w 1 0 == 2
      some ((l.store page off w).askRestart cold (if cold then 4 else 3), 0)
  else if page = 0x24 ∧ (off = 0x048 ∨ (0x05C ≤ off ∧ off < 0x06C)) then some ((l.store page off w).placePio, 0)
  else if page = 0x29 ∧ off = 0x064 ∧ l.on R.PAT.RHDR ∧ 1 < w.toNat then some (l, 0x2909)
  else if page = 0x29 ∧ off = 0x054 then
    let l' := l.store page off w
    if !w.getLsbD 0 then some (l', 0) else if ext then some l'.patSum else some (l, 0x290D)
  else if page = 0x2A ∧ off = 0x060 then some (l.kcmd (bits w 2 0))
  else if page = 0x2B ∧ off = 0x040 then (if w.getLsbD 0 then some l.attest else some (l, 0))
  else if page = 0x2C ∧ off = 0x048 then (if ext then some (l.lcmd (bits w 2 0) entropy) else some (l, 0x2C0D))
  else if page = 0x2C ∧ off = 0x0AC then some (l.ucmd (bits w 2 0))
  else if page = 0x2D ∧ off = 0x044 then
    if !ext then some (l, 0x2D0D)
    else if bits w 2 0 ≠ 0 ∧ bits w 5 4 = 0 then some (l.asyStat 0x2D09)
    else
      let l' := l.store page off w
      if bits w 2 0 = 0 then some (l', 0) else some (l'.asyCommand (bits w 2 0) (bits w 15 8) (bits w 5 4))
  else none

/-- Writes of time, queues, metering outputs, ports, fabric and display. -/
def Lane.writePeriph (l : Lane) (h : Hub) (page off : Nat) (w : Word) : Option (Lane × Nat) :=
  if page = 0x23 ∧ off = 0x040 then (if l.enabled 0x23 then none else some (l, 0x2307))
  else if page = 0x30 then
    let i := l.get R.RTC.ASEL
    let a := l.time.alarms.getD i {}
    if off = 0x058 then
      if !w.getLsbD 0 then some (l, 0)
      else if !l.enabled 0x30 then some (l, 0x3007)
      else some ({ l with time := { l.time with setReq := some (l.getW R.RTC.SETW0, l.getW R.RTC.SETW1) } }, 0)
    else if off = 0x060 then some ({ l.store page off w with time := { l.time with utcDirty := true } }, 0)
    else if off = 0x068 then
      (if almCfgOk w then some (l.writeAlarm i (w &&& 0xFFFFFFC0) a.day, 0) else some (l, 0x3009))
    else if off = 0x06C then
      (if almDayOk (a.cfg.getLsbD 6) w then some (l.writeAlarm i a.cfg (w &&& 0xFFFF), 0) else some (l, 0x3009))
    else none
  else if page = 0x31 then
    if off = 0x044 ∧ !l.enabled (0x38 + bits w 3 2) then some (l, 0x3140)
    else if off = 0x050 ∧ bits w 31 16 ≤ bits w 15 0 then some (l, 0x3109)
    else none
  else if page = 0x34 then
    let q := l.get R.QMG.QSEL
    if off = 0x04C then some (l.writeCap q (bits w 14 0))
    else if off = 0x050 then some (l.writeRtoCut q (bits w 31 16) (bits w 12 0))
    else if off = 0x078 then
      if w.toNat % 4 = 0 then some (l, 0)
      else if !l.enabled 0x34 then some (l, 0x3407)
      else
        let r := if w.getLsbD 0 then l.posting 0x34 fun l => l.flushQueue q else (l, 0)
        some (if w.getLsbD 1 then r.1.flushAll else r.1, r.2)
    else none
  else if page = 0x3C ∧ off = 0x048 then
    let k := bits w 6 0
    let k2 := bits w 14 8
    if l.fabSlotOk k && (k2 == 0 || l.fabSlotOk k2) then none else some (l, 0x3C41)
  else if 0x44 ≤ page ∧ page ≤ 0x47 then
    let n := page - 0x44
    if off = 0x040 then
      let st := l.get (R.CAN.STATE.inst n)
      if (w.getLsbD 4 ∧ st ≠ 2) ∨ (st = 3 ∧ bits w 2 0 ≠ l.get (R.CAN.MODE.inst n)) then some (l, 0x40)
      else if w.getLsbD 4 ∧ !l.enabled page then some (l, 7)
      else some (((l.store page off w).put (R.CAN.RECOVER.inst n) (if w.getLsbD 4 then 1 else 0)).pushCtl (0x18 + n), 0)
    else if off = 0x044 then
      if canNominal (bits w 31 16) && canData (bits w 15 0) then some ((l.store page off w).pushCtl (0x18 + n), 0)
      else some (l, 0x41)
    else none
  else if (page = 0x4C ∨ page = 0x4D) ∧ off = 0x054 then
    let n := page - 0x4C
    if !w.getLsbD 0 then some (l, 0)
    else if l.on (R.MB.BUSON.inst n) then some (l, 0x40)
    else if !l.enabled page then some (l, 7)
    else some ((l.put (R.MB.RESTART.inst n) 1).pushCtl (0x20 + n), 0)
  else if page = 0x51 then
    if off = 0x044 then (if h.disp.on then some (l, 0x5140) else none)
    else if off = 0x048 ∧ h.disp.on ∧ bits w 15 0 ≠ l.get R.PNL.VGL then some (l, 0x5140)
    else if off = 0x04C then some ({ l.store page off w with panel := { l.panel with blen := true } }, 0)
    else if off = 0x05C then some (l.writeGdata (bits w 9 0), 0)
    else if off = 0x060 then
      if w.toNat % 4 = 0 then some (l, 0)
      else if !l.enabled 0x51 then some (l, 0x5107)
      else
        let l := if w.getLsbD 0 then { l with panel := { l.panel with commit := true } } else l
        if !w.getLsbD 1 then some (l, 0)
        else if h.disp.lockout then some ({ l with panel := { l.panel with restart := true } }, 0)
        else some (l, 0x5141)
    else none
  else none

/-- The operation that a write to the page is, none where the write only stores its fields. -/
def Lane.writeOp (l : Lane) (h : Hub) (ext : Bool) (entropy : List Byte) (page off : Nat) (w : Word) : Option (Lane × Nat) :=
  if page = 0x11 ∨ page = 0x13 ∨ (0x18 ≤ page ∧ page ≤ 0x1B) then l.writeCompute page off w
  else if 0x1C ≤ page ∧ page ≤ 0x1E then l.writeProgram ext page off w
  else if page ≤ 0x0F ∨ page = 0x24 ∨ (0x29 ≤ page ∧ page ≤ 0x2D) then l.writeSystem ext entropy page off w
  else l.writePeriph h page off w

/-- The value reaches the register: checks of R48 and R51, then the operation or the fields. -/
def Lane.commit (l : Lane) (h : Hub) (ext isOpen preset : Bool) (entropy : List Byte) (page off : Nat) (w : Word) :
    Lane × Nat :=
  let fs := fieldsAt page off
  let c := page * 256
  if off < 0x040 then l.writeHeader page off w
  else if !preset ∧ !fs.any (fun f => f.acc.writable) then (l, c + 0x03)
  else if page = 0x05 ∧ !ext then (l, c + 0x0D)
  else if !isOpen ∧ !preset ∧ fs.any (fun f => f.acc == .rwl) then (l, c + 0x04)
  else if fs.any fun f => f.acc.writable && !f.takes w then (l, c + 0x09)
  else
    let res := if reservedSet page off w then c + 0x02 else 0
    match l.writeOp h ext entropy page off w with
    | some (l', 0) => (l', res)
    | some (l', st) => (l', pageCode page st)
    | none => (l.store page off w, res)

/-! ### A write, by whom it is made -/

/-- A status other than OK is posted to ERRC of its page (R52); a code of no page posts nowhere. -/
def Lane.postStatus (l : Lane) (st : Nat) : Lane :=
  if st % 256 = 0 ∨ 0xFF00 ≤ st ∨ (pageRow (st / 256)).isNone then l else l.post st

def Lane.closeLock (l : Lane) (page : Nat) : Lane := { l with opened := l.opened.filter fun p => p != page }

/-- A write before its status is posted. An engine's write of an RWS register is held (R49) and consumes an opening when
it takes effect; one that is refused at once consumes it at once (R47). Its RANGE and NOREG are reported when it is made
(assumption log 90). E3 to E7 write only RWS registers of other engines' pages (R99, 11_enesque_instructions.md R274). -/
def Lane.writeCore (l : Lane) (h : Hub) (o : Origin) (entropy : List Byte) (a w : Word) : Lane × Nat :=
  let st := addrStatus a
  let page := addrKey a / 0x1000
  let off := addrKey a % 0x1000
  let c := page * 256
  let shut := l.closeLock page
  let rws := (fieldsAt page off).any fun f => f.acc == .rws
  if 0xFF00 ≤ st ∨ st % 256 = 0x01 then (l, st)
  else if st ≠ 0 then (shut, st)
  else match o with
    | .external role =>
      if !l.mayWrite role page off w then (shut, c + 0x0D)
      else shut.commit h true (l.opened.contains page) false entropy page off w
    | .engine n =>
      if 3 ≤ n.val ∧ !servesPage n.val page ∧ !rws then (shut, c + 0x0D)
      else if rws then
        if (page = 0x2C ∧ off = 0x048) ∨ (page = 0x2D ∧ off = 0x044) ∨ (page = 0x1D ∧ off ≠ 0x044)
            ∨ (page = 0x29 ∧ off = 0x054 ∧ w.getLsbD 0) then (shut, c + 0x0D)
        else if (fieldsAt page off).any fun f => f.acc.writable && !f.takes w then (shut, c + 0x09)
        else
          let sel := match selKey page with
            | some k => (l.reg k).toNat
            | none => 0
          ({ l with held := l.held ++ [⟨n.val, a, w, sel, h.fno⟩] }, if reservedSet page off w then c + 0x02 else 0)
      else shut.commit h false (l.opened.contains page) false entropy page off w

/-- A write with its status posted. -/
def Lane.writeReg (l : Lane) (h : Hub) (o : Origin) (entropy : List Byte) (a w : Word) : Lane × Nat :=
  let r := l.writeCore h o entropy a w
  (r.1.postStatus r.2, r.2)

/-- A held write takes effect at step 2 on the window selected when it was made (R49, R236); a reserved bit it sets has
been reported when it was made. -/
def Lane.applyHeld (l : Lane) (h : Hub) (x : HeldWrite) : Lane :=
  let page := addrKey x.addr / 0x1000
  let off := addrKey x.addr % 0x1000
  let isOpen := l.opened.contains page
  let go (l : Lane) : Lane :=
    let r := (l.closeLock page).commit h false isOpen false [] page off x.value
    if r.2 % 256 = 0x02 then r.1 else r.1.postStatus r.2
  match selKey page with
  | none => go l
  | some k => (go (l.setReg k (.ofNat 32 x.sel))).setReg k (l.reg k)

/-- Held writes of earlier frames in engine order, each engine's in its own order (R49). -/
def Lane.applyAllHeld (l : Lane) (h : Hub) : Lane :=
  let hs := (List.range 8).flatMap fun n => l.held.filter fun x => x.eng == n && decide (x.fno < h.fno)
  hs.foldl (fun (l : Lane) x => l.applyHeld h x) { l with held := l.held.filter fun x => decide (h.fno ≤ x.fno) }

/-- A value SOL.PERIOD may hold (Table SOL-10). -/
def solPeriodOk (w : Word) : Bool := decide (250 ≤ w.toNat ∧ w.toNat ≤ 10000)

/-- A preset write of the configuration at step 2 of k0 (17_security.md R393): exempt from R48, and of PERIOD of SOL
although that is read-only to software; the range of PERIOD holds. -/
def Lane.applyPreset (l : Lane) (h : Hub) (p : Nat × Word) : Lane :=
  let page := p.1 / 0x1000
  let off := p.1 % 0x1000
  if page = 0x11 ∧ off = 0x044 then (if solPeriodOk p.2 then l.setReg p.1 p.2 else l.postStatus 0x1109)
  else
    let r := l.commit h true true true [] page off p.2
    r.1.postStatus r.2

/-- The clear of an RC register's returned value (R58): a code is cleared where it still equals the value. -/
def Lane.applyRcClear (l : Lane) (a w : Word) : Lane :=
  let k := addrKey a
  if l.reg k = w then l.setReg k 0 else l

/-- One entry of a write transaction (R54): its guard reads the register at that point of step 2. An entry whose guard
fails is no write of the page: a LOCK opening stays for the next one (assumption log 91). -/
def Lane.applyEntry (h : Hub) (nv : NvStore) (role : SessRole) (entropy : List Byte) (l : Lane) (e : WriteEntry) :
    Lane × Nat :=
  match e.guard with
  | none => l.writeReg h (.external role) entropy e.addr e.value
  | some (ga, gv) =>
    let v := if addrStatus ga = 0 then readKey h nv l (addrKey ga) else 0
    if v = gv then l.writeReg h (.external role) entropy e.addr e.value
    else
      let st := if 0x40000000 ≤ e.addr.toNat ∧ e.addr.toNat < 0x40100000 then addrKey e.addr / 0x1000 * 256 + 0x0C else 0xFF0C
      (l.postStatus st, st)

/-- The entries of a transaction, in listed order, with nothing in between (R53). -/
def Lane.applyEntries (h : Hub) (nv : NvStore) (role : SessRole) (entropy : List Byte) :
    List WriteEntry → Lane → Lane × List Half
  | [], l => (l, [])
  | e :: es, l =>
    let r := Lane.applyEntry h nv role entropy l e
    let rs := Lane.applyEntries h nv role entropy es r.1
    (rs.1, .ofNat 16 (fullStatus e.addr r.2) :: rs.2)

end Sys2Proof.Machine
end

