-- ==== Sys2Proof/Machine/Install.lean ====
section
/-! DEFINITION. Installation of a configuration in phase 5 (02_register_pages.md R43, 17_security.md R392 to R394): the
sections of Table SEC-8 are checked and loaded; the first that fails refuses the configuration. -/

namespace Sys2Proof.Machine

/-- What refuses a configuration: the code, and for a model the section and record (R152). -/
structure InstErr where
  code : Nat
  net : Option LoadErr := none

abbrev Inst := Except InstErr Lane

def cfgSec (secs : List (Nat × List Byte)) (t : Nat) : Option (List Byte) := (secs.find? fun p => p.1 == t).map (·.2)

/-- A failing section of a chapter without detail registers. -/
def instCode {α : Type} (r : Except Nat α) : Except InstErr α := match r with
  | .ok a => .ok a
  | .error c => .error { code := c }

def instSome {α : Type} (code : Nat) : Option α → Except InstErr α
  | some a => .ok a
  | none => .error { code }

/-- A section that is absent leaves the lane as it is. -/
def withSec (secs : List (Nat × List Byte)) (t : Nat) (l : Lane) (f : List Byte → Inst) : Inst := match cfgSec secs t with
  | some b => f b
  | none => .ok l

/-- P_s: the default of 1 000 frames, or the last preset of SOL.PERIOD within its range, as step 2 of k0 applies them. -/
def presetPs (ps : List (Nat × Word)) : Nat :=
  ps.foldl (fun n p => if p.1 = 0x11044 ∧ solPeriodOk p.2 then p.2.toNat else n) 1000

/-- The periods in force without a model and a dispatch image are the defaults (01_architecture.md Example ARC-1). -/
def Lane.periods (l : Lane) (ps : Nat) : Lane := (l.put R.SOL.PERIOD ps).put R.OPT.PERIOD 60000

def installModel (ps : Nat) (b : List Byte) (l : Lane) : Inst :=
  match netLoad l.modId b with
  | .error e => .error { code := e.code, net := some e }
  | .ok md =>
    let l := netRegsLoad md l.modId l
    let mp := minPer md (l.get R.SOL.NIT) (l.get R.SOL.NREF) (if l.inDomain then some (l.get R.FAB.LATENCY) else none)
    if ps < mp then .error { code := 0x1140 }
    else .ok (((l.put R.SOL.MINPER mp).setEn 0x10 true).setEn 0x11 true |>.setEn 0x12 true)

def installDispatch (ps : Nat) (b : List Byte) (l : Lane) : Inst :=
  match l.slv.model with
  | none => .error { code := 0x1343 }
  | some md =>
    match dispLoad md ps b with
    | .error c => .error { code := c }
    | .ok im =>
      let l := ((l.put R.OPT.PERIOD im.period).put R.OPT.NSTEP im.nstep).put R.OPT.STEP im.step
      let l := ((l.put R.OPT.CO2PR im.co2pr.toNat).put R.OPT.CSCALE im.cscale.toNat).put R.OPT.HOLDMAX im.holdmax
      let l := l.put R.OPT.MINPD (minPd md.plnt.length im.stores.length md.netw.length im.nstep)
      .ok (((l.setOpt fun o => { o with image := some im, tables := tablesReset im.fmode }).setEn 0x13 true).setEn 0x14 true)

def installLoops (prog : Option (List Byte)) (b : List Byte) (l : Lane) : Inst :=
  let own := match prog with
    | some p => (u16At p (u32At p 12), u8At p (u32At p 12 + 2))
    | none => (0, 0)
  match loopLoad own.1 own.2 b with
  | .error c => .error { code := c }
  | .ok ls => .ok ([0x18, 0x19, 0x1A, 0x1B].foldl (fun (l : Lane) p => l.setEn p true) ({ l with loops := ls } : Lane).loopRegs)

/-- Words other writers own: loops with DEST 2, optimiser channels, and the input areas and server write windows
of E1 (R238). -/
def otherWriters (l : Lane) : List Nat × List Nat :=
  let loops := l.loops.filterMap fun p => if p.2.cfg.dest = 2 then some p.2.cfg.daddr else none
  let chans := match l.opt.image with
    | some im => im.chans.filterMap fun c => if c.dkind = 1 then some c.daddr else none
    | none => []
  let area (b n : Nat) : List Nat := (List.range n).map (b + ·)
  let e1 := (l.ports.stations.flatMap fun s => area s.inbase s.incnt) ++ l.ports.windows.flatMap fun w => area w.wbase w.wcnt
  (loops, chans ++ e1)

/-- The program image is checked, and the retained set with it (R255). -/
def installProg (b : List Byte) (l : Lane) : Inst :=
  let w := otherWriters l
  match progLoad w.1 w.2 b with
  | .error c => .error { code := c }
  | .ok p =>
    let l := l.installProgram p
    if 196608 < l.retainLen then .error { code := 0x1C45 } else .ok ([0x1C, 0x1D, 0x1E].foldl (fun (l : Lane) q => l.setEn q true) l)

def Lane.installMetering (l : Lane) (gs : List MetGroupCfg) (ps : List MpCfg) (hen : Nat) : Lane :=
  let l : Lane := { l with met := { l.met with groupCfg := gs, mpCfg := ps } }
  let l := l.put R.MET.HEN hen
  (List.range 4).foldl (fun (l : Lane) g =>
    let c := gs.getD g {}
    (((l.put (R.MET.NOMV.idx g) c.nomv).put (R.MET.WIRING.idx g) c.wiring).put (R.MET.NOMF.idx g) c.nomf).put (R.MET.NLTHR.idx g) c.nlthr) l

/-- Metering without a section (R299). -/
def Lane.defaultMetering (l : Lane) : Lane := l.installMetering (List.replicate 4 {}) ({} : Metering).mpCfg 0

/-- Outputs and points whose source an installation changes (R307, R316), `old` being the heat section of the last start;
none at the first. -/
def Lane.installHeat (l : Lane) (old : Option (List HpCfg × List PoCfg)) (hs : List HpCfg) (ps : List PoCfg) : Lane :=
  let hps := l.heat.hps.mapIdx fun i (h : HeatPoint) =>
    let c := hs.getD i {}
    let same := match old with
      | some o => (o.1.getD i {}).fsrc == c.fsrc && (o.1.getD i {}).faddr == c.faddr
      | none => true
    { h with first := !(c.fsrc == 1 && same) }
  let l : Lane := { l with heat := { l.heat with hpCfg := hs, poCfg := ps, hps } }
  let pos := l.heat.pos.mapIdx fun i (p : PulseOut) =>
    let c := ps.getD i {}
    let same := match old with
      | some o => (o.2.getD i {}).srck == c.srck && (o.2.getD i {}).index == c.index && (o.2.getD i {}).kp == c.kp
      | none => true
    if same then p else { p with last := l.pulseSrc c, bklg := 0 }
  { l with heat := { l.heat with pos } }

def installPatina (nv : NvStore) (b : List Byte) (l : Lane) : Inst := do
  let (ps, cs) ← instCode (patinaSection b)
  let l : Lane := l.setPat fun t => { t with parts := ps, chans := cs }
  let l : Lane := { l with nv := { l.nv with patSize := ps.map (·.size) } }
  .ok (Lane.patRecallAll nv l)

/-- The pages of the ports, the fabric and the display. -/
def installPortSec (b : List Byte) (l : Lane) : Inst := do
  let c ← instCode (portSection b)
  if (List.range 4).all fun i =>
      let n := (c.ports.eth.getD i {}).tgslot
      let telegrams := (c.ports.eth.getD i {}).services.getLsbD 1 || c.ports.stations.any fun s => s.proto == 4 && s.src == 0x10 + i
      !c.ethOn.contains i || !telegrams || l.telegramSlotOk n then
    .ok (l.installPorts c)
  else .error { code := 0x3840 }

def installFabSec (b : List Byte) (l : Lane) : Inst := do
  let c ← instCode (fabricSection b)
  if l.fabSlotOk c.kslot ∧ (c.kslot2 = 0 ∨ l.fabSlotOk c.kslot2) then
    .ok ((List.range 4).foldl (fun (l : Lane) n => l.setEn (0x3D + n) (c.linken.testBit n)) ((l.installFabric c).setEn 0x3C true))
  else .error { code := 0x3C41 }

/-- The sections in the order in which later ones need earlier ones: key slots and ports before programs, the
model before the dispatch. Metering and heat have the defaults of R299 and R317 without their sections. -/
def installSections (nv : NvStore) (cfg : List Byte) (l : Lane) : Inst := do
  let secs ← instCode (configSections cfg)
  let presets ← instCode (match cfgSec secs 12 with
    | some b => presetSection b
    | none => .ok [])
  let l := { l with presets }.periods (presetPs presets)
  let l ← withSec secs 11 l fun b => do
    let r ← instCode (securitySection b)
    .ok (l.setSec fun s => { s with revoked := r.1, secFlags := r.2 })
  let l ← withSec secs 9 l fun b => installFabSec b l
  let l ← withSec secs 1 l fun b => installModel (presetPs presets) b l
  let l ← withSec secs 2 l fun b => installDispatch (presetPs presets) b l
  let l ← withSec secs 8 l fun b => installPortSec b l
  let l ← withSec secs 3 l fun b => installLoops (cfgSec secs 4) b l
  let l ← withSec secs 4 l fun b => installProg b l
  let l ← withSec secs 5 l.defaultMetering fun b => do
    let r ← instSome 0x2040 (meteringSection b)
    .ok (l.installMetering r.1 r.2.1 r.2.2)
  let hs ← match cfgSec secs 6 with
    | some b => instSome 0x2240 (heatSection b)
    | none => .ok (List.replicate 16 {}, List.replicate 16 {})
  let l := (l.installHeat nv.heatRan hs.1 hs.2).setEn 0x23 (cfgSec secs 6).isSome
  let l ← withSec secs 7 l fun b => installPatina nv b l
  let l ← withSec secs 10 l fun b => do
    let d ← instCode (dispSection b)
    .ok (l.installDisplay d)
  .ok l

/-- The configuration of a slot holds a model image, whose load NET.LOADMS times (R162). -/
def NvStore.hasModel (nv : NvStore) (slot : Nat) : Bool := match configSections (nv.configPart slot) with
  | .ok secs => (cfgSec secs 1).isSome
  | .error _ => false

/-- No configuration is started: the slot is the factory's, or the life-cycle state runs none (Table SEC-1). -/
def Lane.noConfig (l : Lane) (nv : NvStore) : Bool := nv.factorySlot l.committedSlot || !l.runsConfig

/-- A lane without a configuration. -/
def Lane.installNone (l : Lane) : Lane :=
  { ((l.put64 R.SYS.CFGFP_L R.SYS.CFGFP_H 0).periods 1000).defaultMetering with sec := { l.sec with cfgfp := 0 } }

/-- The Patina partitions of a RETIRED module stay readable; no channel records (17_security.md R377; DEDUCED, assumption
log 118). -/
def Lane.retiredPatina (l : Lane) (nv : NvStore) : Lane :=
  match configSections (nv.configPart l.committedSlot) with
  | .ok secs => (match (cfgSec secs 7).map (installPatina nv · l) with
    | some (.ok r) => r.setPat fun t => { t with chans := [] }
    | _ => l)
  | .error _ => l

/-- Phase 5 on a lane: the configuration of the committed slot, or none in the factory slot and in a life-cycle state that
runs none (DEDUCED, assumption log 118). A failure is posted, and the lane does not become ready (R153). -/
def Lane.installConfig (l : Lane) (nv : NvStore) (ms : Nat) : Lane × Bool :=
  let slot := l.committedSlot
  if nv.factorySlot slot then (l.installNone, true)
  else if !l.runsConfig then
    let l := l.installNone.setSec fun s => { s with image := nv.imageInfo slot }
    (if l.lifeCycle = 4 then l.retiredPatina nv else l, true)
  else
    let fp := (nv.fingerprint slot).toNat
    let l := (l.put64 R.SYS.CFGFP_L R.SYS.CFGFP_H fp).setSec fun s => { s with
      image := nv.imageInfo slot, cfgfp := (s.manifest.getD slot {}).fp }
    let l := if nv.hasModel slot then l.put R.NET.LOADMS ms else l
    match installSections nv (nv.configPart slot) l with
    | .ok l => (l, true)
    | .error e => (match e.net with
      | some n => (netRegsFail n l, false)
      | none => (l.post e.code, false))

/-- The checks of a staged configuration without installing it (R400): 0, or the first code. -/
def Lane.sectionsCode (l : Lane) (nv : NvStore) (slot : Nat) : Nat :=
  let bare : Lane := { id := l.id, regs := [], sec := l.sec, fuses := l.fuses }
  match installSections nv (nv.configPart slot) bare with
  | .ok _ => 0
  | .error e => e.code

end Sys2Proof.Machine
end

