-- ==== Sys2Proof/Machine/PortHub.lean ====
section
/-! DEFINITION. Ports as the hub runs them (21_field_ports.md R455 to R458, R466 to R473; 04_frame.md R103):
port queues, request timers, CAN controllers, M-Bus masters and TCP connections of the active lane's E1. -/

namespace Sys2Proof.Machine

/-- Payload length of a port or fabric arrival (Tables PRT-1 and FAB-3). -/
def portLen : PortBody → Nat
  | .unit _ d => 4 + d.length
  | .status (.eth _) => 8
  | .status (.can ..) => 16
  | .status (.mbus ..) => 12
  | .outcome _ _ => 4
  | .adu _ _ d => 4 + d.length
  | .fabFrame _ d => 16 + d.length
  | .fabStatus .. => 16
  | .fabStamp _ _ => 24

def Hub.setPorts (h : Hub) (f : HubPorts → HubPorts) : Hub := { h with ports := f h.ports }
def Hub.portArrival (h : Hub) (src : Nat) (t : Int) (b : PortBody) : Hub := h.complete src (portLen b) t (.port b)
def Hub.sent (h : Hub) (x : Sent) : Hub := h.setPorts fun p => { p with sent := p.sent ++ [x] }

/-! ### Request timers (R456) -/

def Hub.timerFor (h : Hub) (src stn : Nat) : Bool := h.ports.timers.any fun t => t.src == src && t.stn == stn
def Hub.stopTimer (h : Hub) (src stn : Nat) : Hub :=
  h.setPorts fun p => { p with timers := p.timers.filter fun t => !(t.src == src && t.stn == stn) }
def Hub.startTimer (h : Hub) (src stn due : Nat) (gen : Nat := 0) (code : Nat := 1) : Hub :=
  (h.stopTimer src stn).setPorts fun p => { p with timers := p.timers ++ [{ src, stn, due, gen, code }] }

/-- Hub time in µs: `t` ns into the frame. -/
def Hub.usAt (h : Hub) (t : Int) : Nat := 1000 * h.upFrames + (t / 1000).toNat

/-- The line of port `src` is free (R103). -/
def Hub.lineFree (h : Hub) (src : Nat) : Nat := kvGet 0 h.ports.line src
def Hub.setLine (h : Hub) (src us : Nat) : Hub := h.setPorts fun p => { p with line := kvSet 0 p.line src us }

/-- The first apply instant at or after a hub time. -/
def applyAt (us : Nat) : Nat := ceilDiv (us - 750) 1000

def serBaud (n : Nat) : Nat := [1200, 2400, 4800, 9600, 19200, 38400, 57600, 115200].getD n 9600
def mbBaud (n : Nat) : Nat := [300, 2400, 9600].getD n 2400

/-- Bits of one character on an RS-485 line. -/
def charBits (line : Nat) : Nat := 9 + (if line % 4 = 0 then 0 else 1) + (if line.testBit 2 then 2 else 1)

/-- Time in µs, rounded up, a unit of `n` bytes occupies its line at the port's settings, and the silence that must follow it:
an RS-485 ADU ends with t3.5 (R468); an Ethernet frame has its header, check sum, preamble and gap (assumption log 128). -/
def Lane.lineTime (l : Lane) (h : Hub) (src n : Nat) : Nat × Nat :=
  if src ≤ 0x13 then (ceilDiv (8 * max 84 (n + 38)) (if h.ports.ethLink.getD (src - 0x10) 0 = 1 then 100 else 1000), 0)
  else if 0x1C ≤ src ∧ src ≤ 0x1F then
    let c := charBits (l.get (R.SER.LINE.inst (src - 0x1C)))
    let baud := serBaud (l.get (R.SER.BAUD.inst (src - 0x1C)))
    (ceilDiv (n * c * 1000000) baud, if 19200 < baud then 1750 else ceilDiv (7 * c * 500000) baud)
  else if 0x20 ≤ src then (ceilDiv (n * 11 * 1000000) (mbBaud (l.get (R.MB.BAUD.inst (src - 0x20)))), 0)
  else (0, 0)

/-! ### Connections (R458, R466, R467, R469) -/

def Hub.conn (h : Hub) (svc num : Nat) : Option TcpConn := h.ports.conns.find? fun c => c.svc == svc && c.num == num
def Hub.modConn (h : Hub) (svc num : Nat) (f : TcpConn → TcpConn) : Hub :=
  h.setPorts fun p => { p with conns := p.conns.map fun c => if c.svc = svc ∧ c.num = num then f c else c }
def Hub.closeConn (h : Hub) (svc num : Nat) : Hub :=
  h.setPorts fun p => { p with conns := p.conns.filter fun c => !(c.svc == svc && c.num == num) }

/-- The owner has changed or Touchstone is lost: its connections and sessions end (R31, R458). -/
def Hub.dropConnections (h : Hub) : Hub := h.setPorts fun p => { p with conns := [], sessions := [], waits := [], rcPend := [] }

/-- An I-format APDU. -/
def iecApdu (vs vr : Nat) (asdu : List Byte) : List Byte :=
  [0x68, BitVec.ofNat 8 (asdu.length + 4)] ++ leBytes 2 (2 * vs) ++ leBytes 2 (2 * vr) ++ asdu

/-- Sends queued ASDUs while fewer than 12 are unacknowledged. -/
def Hub.iecPump (h : Hub) (num : Nat) : Nat → Hub
  | 0 => h
  | fuel + 1 =>
    match h.conn 3 num with
    | none => h
    | some c =>
      match c.queue with
      | [] => h
      | a :: rest =>
        if !c.started ∨ 12 ≤ c.outstanding then h
        else
          let h := (h.modConn 3 num fun c => { c with queue := rest, vs := (c.vs + 1) % 32768, outstanding := c.outstanding + 1, unackRx := 0 }).sent
            (.port (0x10 + c.port) (iecApdu c.vs c.vr a))
          h.iecPump num fuel

/-- An ASDU for a client; beyond 256 waiting the oldest is dropped. -/
def Hub.iecSend (h : Hub) (num : Nat) (a : List Byte) : Hub :=
  (h.modConn 3 num fun c => { c with queue := (c.queue ++ [a]).drop (c.queue.length + 1 - 256) }).iecPump num 12

/-! ### CAN and M-Bus controllers (R470 to R473) -/

def Hub.can (h : Hub) (n : Nat) : CanPort := h.ports.can.getD n {}
def Hub.modCan (h : Hub) (n : Nat) (f : CanPort → CanPort) : Hub := h.setPorts fun p => { p with can := p.can.modify n f }

def canStatus (c : CanPort) : PortBody :=
  .status (.can c.state c.txc c.rxc c.fdSeen c.abLock.isSome ((c.abLock.map (·.1)).getD 0) ((c.abLock.map (·.2)).getD 0))

def Hub.canReport (h : Hub) (n : Nat) (t : Int) : Hub := h.portArrival (0x18 + n) t (canStatus (h.can n))

/-- The frames in the transmit buffers are dropped, each with outcome `code`. -/
def Hub.canDrop (h : Hub) (n : Nat) (t : Int) (code : Nat) : Hub :=
  (h.can n).tx.foldl (fun (h : Hub) stn => h.portArrival (0x18 + n) t (.outcome stn code)) (h.modCan n fun c => { c with tx := [] })

/-- The port is on the bus and may transmit. -/
def CanPort.sends (c : CanPort) : Bool := c.mode == 1 && !c.stopped

def Hub.mb (h : Hub) (n : Nat) : MbusPort := h.ports.mb.getD n {}
def Hub.modMb (h : Hub) (n : Nat) (f : MbusPort → MbusPort) : Hub := h.setPorts fun p => { p with mb := p.mb.modify n f }
def Hub.mbReport (h : Hub) (n : Nat) (t : Int) : Hub :=
  let m := h.mb n
  h.portArrival (0x20 + n) t (.status (.mbus m.on m.ovc m.ibus))

/-- Port control of KIND 0x82 (R457). -/
def Hub.portControl (h : Hub) (src : Nat) (b : List Byte) : Hub :=
  if 0x18 ≤ src ∧ src ≤ 0x1B then
    let n := src - 0x18
    let a := wordAt b 4
    let r := wordAt b 8
    let h := h.modCan n fun c =>
      let mode := bits a 2 0
      let fresh := mode == 3 && c.mode != 3
      { c with mode, oneshot := a.getLsbD 3, nbr := bits r 31 16, dbr := bits r 15 0
               abRate := if fresh then 1000 else c.abRate, abLock := if fresh then none else c.abLock
               abSince := if fresh then h.upFrames else c.abSince, abGood := if fresh then 0 else c.abGood }
    let h := if (h.can n).mode = 1 then h else h.canDrop n 750000 4
    if a.getLsbD 4 ∧ (h.can n).state = 2 then (h.modCan n fun c => { c with state := 3 }).canReport n 750000 else h
  else if 0x20 ≤ src ∧ (wordAt b 4).getLsbD 0 ∧ (h.mb (src - 0x20)).ovc then
    (h.modMb (src - 0x20) fun m => { m with on := true, ovc := false }).mbReport (src - 0x20) 750000
  else h

/-! ### Transmissions (R103) -/

def txConn (b : List Byte) : Nat := if u8At b 0 = 0x81 ∧ u8At b 3 = 1 then u16At b 1 + 1 else 0

/-- The port can take the entry at `now`: its connection has fewer than four requests outstanding, a CAN port has a transmit
buffer free, another port's line begins to send it before the next apply instant and awaits no response. -/
def Hub.canSend (h : Hub) (now src : Nat) (b : List Byte) : Bool :=
  if u8At b 0 = 0x81 ∧ u8At b 3 = 1 then
    match h.conn 1 (u16At b 1) with
    | some c => decide (c.outstanding < 4)
    | none => false
  else if u8At b 0 ≠ 0x80 then true
  else if 0x18 ≤ src ∧ src ≤ 0x1B then !(h.can (src - 0x18)).sends || decide ((h.can (src - 0x18)).tx.length < 32)
  else !(h.ports.timers.any fun t => t.src == src && t.code == 1) && decide (h.lineFree src < now + 1000)

/-- The port sends an entry, from `now` on or as soon as its line is free; `l` is the owner's lane. A remote frame and a
datagram beyond the MTU are dropped (R455, R470). -/
def Hub.sendEntry (h : Hub) (l : Lane) (now src : Nat) (b : List Byte) : Hub :=
  let kind := u8At b 0
  let stn := u16At b 1
  let drop (code : Nat) : Hub := h.portArrival src 750000 (.outcome stn code)
  if 0x18 ≤ src ∧ src ≤ 0x1B then
    let c := h.can (src - 0x18)
    if 2 ≤ c.state then drop 3
    else if !c.sends ∨ (b.getD 12 0).getLsbD 3 then drop 4
    else (h.modCan (src - 0x18) fun c => { c with tx := c.tx ++ [stn] }).sent (.port src b)
  else if kind = 0x81 then
    let conn := u16At b 1
    if u8At b 3 = 3 then
      (h.ports.conns.filter fun c => c.svc == 3 && (c.num == conn || (conn == iecBroadcast && 0x10 + c.port == src))).foldl
        (fun (h : Hub) c => h.iecSend c.num (b.drop 4)) h
    else if u8At b 3 = 2 then (if (h.conn 2 conn).isSome then h.sent (.port src b) else h)
    else
      let tid := u8At b 4 * 256 + u8At b 5
      let tout := ((l.station (tid / 2)).map fun (s : Station) => s.tout).getD 1
      ((h.modConn 1 conn fun c => { c with outstanding := c.outstanding + 1 }).startTimer src tid (applyAt now + tout)
        (((h.conn 1 conn).map fun c => c.gen).getD 0)).sent (.port src b)
  else if src ≤ 0x13 ∧ 1500 < b.length - 8 then drop 4
  else
    let d := l.lineTime h src (b.length - 8)
    let fin := max now (h.lineFree src) + d.1
    let h := ((h.sent (.port src b)).setLine src (fin + d.2)).setPorts fun p => { p with late := p.late.filter (· != src) }
    if (b.getD 3 0).getLsbD 0 then h.startTimer src stn (applyAt fin + u16At b 4)
    else if 0x1C ≤ src ∧ stn ≠ 0xFFFF then h.startTimer src stn (applyAt fin) 0 2
    else h

/-- Sends waiting entries as far as their ports allow, those of one port in entry order (R103): one that its connection
keeps waiting holds the later ones of its port (DEDUCED, assumption log 96). -/
def Hub.pump (h : Hub) (l : Lane) (now : Nat) : Nat → Hub
  | 0 => h
  | fuel + 1 =>
    let q := h.ports.txq
    let first (i : Nat) (w : TxWait) : Bool := !((q.take i).any fun x => x.src == w.src)
    match (List.range q.length).find? fun i => ((q[i]?).map fun w => first i w && h.canSend now w.src w.data).getD false with
    | none => h
    | some i =>
      match q[i]? with
      | none => h
      | some w => ((h.setPorts fun p => { p with txq := p.txq.eraseIdx i }).sendEntry l now w.src w.data).pump l now fuel

/-- One class 0x03 entry at the apply instant: port control acts (R457); a transmission is sent, or queued, and beyond four
frames' worth it is dropped. -/
def Hub.transmit (h : Hub) (l : Lane) (frame src : Nat) (b : List Byte) : Hub :=
  let same := h.ports.txq.filter fun w => w.src == src
  let now := h.usAt 750000
  if u8At b 0 = 0x82 then h.portControl src b
  else if same.isEmpty ∧ h.canSend now src b then h.sendEntry l now src b
  else
    let frames := (same.map fun (w : TxWait) => w.frame).eraseDups
    if 4 ≤ frames.length ∧ !frames.contains frame then
      h.portArrival src 750000 (.outcome (if u8At b 0 = 0x81 then (u8At b 4 * 256 + u8At b 5) / 2 else u16At b 1) 4)
    else h.setPorts fun p => { p with txq := p.txq ++ [⟨src, txConn b, frame, b⟩] }

/-! ### Expiry (R456) -/

/-- The key of a timer is the station, or the transaction identifier of a Modbus TCP request. -/
def timerStn (src key : Nat) : Nat := if src ≤ 0x13 then key / 2 else key

/-- A request has ended: the Modbus TCP connection it went out on has one request less outstanding. -/
def Hub.requestDone (h : Hub) (l : Lane) (t : ReqTimer) : Hub :=
  let h := h.stopTimer t.src t.stn
  if t.src ≤ 0x13 then
    match l.station (t.stn / 2) with
    | some s => h.modConn 1 (l.ports.connOf s) fun c => if c.gen = t.gen then { c with outstanding := c.outstanding - 1 } else c
    | none => h
  else h

/-- Expired timers that `p` names place their outcome, which completes at the apply instant. -/
def Hub.expire (h : Hub) (l : Lane) (p : ReqTimer → Bool) : Hub :=
  (h.ports.timers.filter fun t => decide (t.due ≤ h.upFrames) && p t).foldl (fun (h : Hub) t =>
    ((h.requestDone l t).setPorts fun q => { q with late := if t.code = 1 ∧ 0x1C ≤ t.src then t.src :: q.late else q.late }).portArrival
      t.src 750000 (.outcome (timerStn t.src t.stn) t.code)) h

/-! ### Units received -/

/-- An application data unit the owner's E1 hands over for an open connection. A Modbus TCP response without its
request is discarded. -/
def Hub.aduIn (h : Hub) (l : Lane) (src : Nat) (t : Int) (conn svc : Nat) (data : List Byte) : Hub :=
  match h.conn svc conn with
  | none => h
  | some c =>
    let give (h : Hub) : Hub := h.complete src (4 + data.length) t (.adu conn svc c.operate data)
    if svc = 1 then
      let tid := u8At data 0 * 256 + u8At data 1
      match h.ports.timers.find? fun x => x.src == src && x.stn == tid && x.gen == c.gen with
      | some x => give (h.requestDone l x)
      | none => h
    else give h

/-- A unit on RS-485 or M-Bus: the response to the request that waits, delivered with its STN; the late response to one that
has expired, discarded; or unsolicited (R454, R456; assumption log 128). -/
def Hub.response (h : Hub) (src : Nat) (t : Int) (data : List Byte) : Hub × Bool :=
  match h.ports.timers.find? fun x => x.src == src && x.code == 1 with
  | some x => ((h.stopTimer src x.stn).portArrival src t (.unit x.stn data), false)
  | none =>
    if h.ports.late.contains src then (h.setPorts fun p => { p with late := p.late.filter (· != src) }, true)
    else (h.portArrival src t (.unit 0xFFFF data), false)

/-- The receive filters of a CAN port: its stations, then its receive bindings, 64 in all (R470; assumption log 128). -/
def Lane.canFilters (l : Lane) (src : Nat) : List Station × Bool :=
  let ss := (l.ports.stations.filter fun s => s.proto == 2 && s.src == src).take 64
  (ss, decide (ss.length < 64) && l.ports.bindings.any fun b => b.src == src && b.stream == 0 && decide (b.queue ≤ 23))

/-- An error-free CAN frame: a frame of a filter is an unsolicited arrival; autobaud counts it (R471). -/
def Hub.canReceive (h : Hub) (l : Lane) (src : Nat) (t : Int) (data : List Byte) : Hub :=
  let c := h.can (src - 0x18)
  let ident := u32At data 0
  let f := l.canFilters src
  let ss := f.1.filter fun s => s.addr == ident
  let bound := f.2
  if c.mode = 0 ∨ c.stopped ∨ 2 ≤ c.state then h
  else
    let h := if c.mode = 3 then h.modCan (src - 0x18) fun c => { c with abGood := c.abGood + 1 } else h
    let fd := (data.getD 4 0).getLsbD 0
    let h := if fd ∧ !c.fdSeen then (h.modCan (src - 0x18) fun c => { c with fdSeen := true }).canReport (src - 0x18) t else h
    if ss.isEmpty ∧ !bound then h
    else
      let h := ss.foldl (fun (h : Hub) s => h.startTimer src s.stn (h.upFrames + s.tout)) h
      h.portArrival src t (.unit 0xFFFF data)

/-- Ports at k0: modes of the configuration, CAN receive timers, M-Bus supply, and a report of every port state that
is not the reset state (DESIGN CHOICE, assumption log 36). -/
def Hub.portsAtK0 (h : Hub) (l : Lane) : Hub :=
  let h := (List.range 4).foldl (fun (h : Hub) n =>
    if l.enabled (0x44 + n) then
      h.modCan n fun c => { c with mode := l.get (R.CAN.MODE.inst n), oneshot := l.on (R.CAN.ONESHOT.inst n)
                                   nbr := l.get (R.CAN.NBR.inst n), dbr := l.get (R.CAN.DBR.inst n)
                                   abSince := h.upFrames, abGood := 0 }
    else h) h
  let h := (List.range 2).foldl (fun (h : Hub) n => if l.enabled (0x4C + n) then
      (h.modMb n fun m => { m with on := m.on || !m.ovc }).mbReport n 0 else h) h
  let h := (List.range 4).foldl (fun (h : Hub) n =>
    let v := h.ports.ethLink.getD n 0
    if v = 0 then h else h.portArrival (0x10 + n) 0 (.status (.eth v))) h
  let h := (List.range 4).foldl (fun (h : Hub) n => if (h.can n).state = 0 then h else h.canReport n 0) h
  let h := h.setPorts fun p => { p with links := p.links.map fun (k : HubLink) => { k with told := 0 } }
  (l.ports.stations.filter fun s => s.proto == 2).foldl (fun (h : Hub) s => h.startTimer s.src s.stn (h.upFrames + s.tout)) h

end Sys2Proof.Machine
end

