-- ==== Sys2Proof/Machine/Touchstone.lean ====
section
/-! DEFINITION. Touchstone: heartbeats, comparison, the verdict, resolution, lane resets, transfers and the health
counts (05_touchstone.md R112 to R138, R513). -/

namespace Sys2Proof.Machine

/-! ### Bytes of an output frame (R101, Tables NVS-2 and TIM-2) -/

def NvReq.payload (r : NvReq) : List Byte :=
  [BitVec.ofNat 8 r.op, BitVec.ofNat 8 r.area] ++ leBytes 2 r.rid ++ leBytes 4 r.num ++ leBytes 2 r.chunk ++ leBytes 2 r.nchunk
    ++ leBytes 2 r.data.length ++ [0, 0] ++ r.data

def CalCmd.payload : CalCmd → List Byte
  | .set sec => [1, 0, 0, 0] ++ leBytes 8 (readingOf sec 0 0).toNat
  | .alarm i r => [2, BitVec.ofNat 8 i, 0, 0] ++ r
  | .utc r => [3, 0, 0, 0] ++ r

/-- The layout of the plant output payload is DESIGN CHOICE (assumption log 4). -/
def OutBody.payload : OutBody → List Byte
  | .plant d ao => leBytes 4 d.toNat ++ ao.flatMap (leBytes 2)
  | .pulse w => leBytes 4 w
  | .bytes d => d
  | .nv r => r.payload
  | .cal c => c.payload

def OutEntry.flags (e : OutEntry) : Byte := match e.body with
  | .nv r => if r.prio then 1 else 0
  | _ => 0

def OutEntry.bytes (e : OutEntry) : List Byte :=
  let p := e.body.payload
  [BitVec.ofNat 8 e.cls, e.flags] ++ leBytes 2 e.dest ++ leBytes 4 p.length ++ padded p

def OutFrame.entryBytes (f : OutFrame) : List Byte := f.entries.flatMap OutEntry.bytes

/-- The header of Table FRM-4: FNO, ECNT, OLEN, CFGFP, OCRC. -/
def OutFrame.header (f : OutFrame) : List Byte :=
  leBytes 8 f.fno ++ leBytes 4 f.entries.length ++ leBytes 4 (32 + f.entryBytes.length) ++ leBytes 8 f.fp.toNat
    ++ leBytes 4 (crc32c f.entryBytes).toNat ++ [0, 0, 0, 0]

def OutFrame.bytes (f : OutFrame) : List Byte := f.header ++ f.entryBytes

/-- Touchstone compares the whole frame (R102). -/
def OutFrame.same (f g : OutFrame) : Bool := decide (f.fno = g.fno) && decide (f.fp = g.fp) && decide (f.entries = g.entries)

def firstDiff : List Byte → List Byte → Nat → Nat
  | a :: l, b :: m, n => if a = b then firstDiff l m (n + 1) else n
  | _, _, n => n

/-- Class and destination of the entry that holds byte `o` of the entries. -/
def entryAt : List OutEntry → Nat → Option (Nat × Nat)
  | [], _ => none
  | e :: l, o => if o < e.bytes.length then some (e.cls, e.dest) else entryAt l (o - e.bytes.length)

/-- Offset of the first differing byte with the class and destination of its entry, which one of the two frames may have
alone; the search starts after the
header, whose OCRC differs with every entry (DEDUCED, assumption log 28). -/
def OutFrame.diff (f g : OutFrame) : Nat × Nat × Nat :=
  let o := firstDiff f.entryBytes g.entryBytes 0
  (32 + o, ((entryAt f.entries o).or (entryAt g.entries o)).getD (0, 0))

/-- The plant outputs of a frame. -/
def OutFrame.plant (f : OutFrame) : BitVec 16 × List Nat :=
  (f.entries.findSome? fun e => match e.body with
    | .plant d ao => some (d, ao)
    | _ => none).getD (0, [])

/-- The first plant output that differs, in the order of the payload: DO n as n, AO n as 16 + n. -/
def OutFrame.diffOutput (f g : OutFrame) : Nat :=
  let a := f.plant
  let b := g.plant
  ((List.range 16).find? fun n => a.1.getLsbD n != b.1.getLsbD n).getD
    (16 + ((List.range 8).find? fun n => decide (a.2.getD n 0 ≠ b.2.getD n 0)).getD 0)

/-! ### What Touchstone knows of a lane at +700 µs (R113) -/

structure LaneFacts where
  frame : Option OutFrame
  clean : Bool
  inloss : Bool := false
  ttDone : Bool := false
  ttFail : Bool := false
  /-- an Assay failure of a lane whose repair spares are exhausted (R131) -/
  spent : Bool := false

def Heartbeat.flagged (h : Heartbeat) : Bool := h.laneflt || h.deadline || h.cruoff || h.asyfail || h.lclkflt || h.fpmis

/-- The clocks of a lane's own domains (Table PWR-2). -/
def laneClocks (x : LaneId) : List Nat := if x = .a then [2, 6] else [3, 7]
def Power.laneClkBad (p : Power) (x : LaneId) : Bool := (laneClocks x).any fun n => p.clkFail.getLsbD n

/-- R113; while both lanes run, an absence that neither INLOSS nor NOOUT explains is a failed check of Table TST-9 (DEDUCED,
assumption log 99). -/
def State.facts (s : State) (x : LaneId) : LaneFacts :=
  let pair := s.laneA.running && s.laneB.running
  let l := s.lane x
  let frame := if l.running then l.delivered.filter fun f => f.ok && f.fno == s.hub.fno else none
  match (if l.running then l.hb.filter fun h => h.intact && h.fno == s.hub.fno else none) with
  | none => { frame, clean := false }
  | some h =>
    { frame, clean := !h.flagged && !s.pwr.laneClkBad x && decide (s.ts.pathBad ≠ some x) && (!pair || frame.isSome || h.inloss || h.noout)
      inloss := h.inloss, ttDone := h.ttdone, ttFail := h.ttfail
      spent := (h.asyfail || h.ttfail) && l.asy.sparex x }

/-! ### The decision (R115 to R117, R121, R122, Tables TST-3 and TST-7) -/

/-- A verdict in the making: roles after it, transients counted, the resolution that goes on. -/
structure Draft where
  owner : Owner := .held
  cmp : Cmp := .notCompared
  roleA : Role
  roleB : Role
  restart : Bool := false
  blame : List LaneId := []
  res : Option Resolution := none
  row4 : Bool := false
  started : Bool := false
  tt : Option (BitVec 4) := none

def Draft.role (d : Draft) : LaneId → Role
  | .a => d.roleA
  | .b => d.roleB

def Draft.setRole (d : Draft) (x : LaneId) (r : Role) : Draft := match x with
  | .a => { d with roleA := r }
  | .b => { d with roleB := r }

def ownerOf : LaneId → Owner
  | .a => .laneA
  | .b => .laneB

def cmpOf (fa fb : LaneFacts) : Cmp := match fa.frame, fb.frame with
  | some x, some y => if x.same y then .equal else .differ
  | none, some _ => .absentA
  | some _, none => .absentB
  | none, none => .absentBoth

/-- The lane of Table TST-7 that has no frame leaves frame k + 3 held (assumption log 100). -/
def LaneFacts.drive (f : LaneFacts) (x : LaneId) : Owner := if f.frame.isSome then ownerOf x else .held

/-- The role an unclean lane takes. -/
def LaneFacts.outRole (f : LaneFacts) : Role := if f.spent then .failed else .unfit

/-- Rows 4 to 7 of Table TST-3; within a resolution a row 6 verdict changes no role (R122). -/
def rows47 (k : Nat) (ac s : LaneId) (f : LaneId → LaneFacts) (d : Draft) : Draft :=
  match (f ac).frame, (f s).frame with
  | some x, some y =>
    if x.same y then { (d.setRole ac .active).setRole s .standby with owner := ownerOf ac, row4 := true }
    else if d.res.isSome then d
    else
      let o := x.diff y
      { d with res := some { start := k, ofs := o.1, cls := o.2.1, dest := o.2.2, out := x.diffOutput y }, started := true }
  | none, none => d
  | fa, _ =>
    let p := if fa.isSome then ac else s
    let q := p.other
    let d := { d with owner := ownerOf p }
    if d.res.isSome then d
    else
      let d := { d with blame := [q] }
      if (f q).inloss then (d.setRole q .receive).setRole p .alone else (d.setRole q .standby).setRole p .active

/-- Table TST-7 at +700 µs of frame k + 3; a lane absent with INLOSS in any frame of the resolution has no
result (R122). -/
def outcome (r : Resolution) (ac s : LaneId) (f : LaneId → LaneFacts) (d : Draft) : Draft :=
  let lost : LaneId → Bool
    | .a => r.inlossA
    | .b => r.inlossB
  let pass (x : LaneId) : Bool := !lost x && (f x).ttDone && !(f x).ttFail
  let fail (x : LaneId) : Bool := !lost x && (f x).ttDone && (f x).ttFail
  let two (x : LaneId) : Nat := (if pass x then 1 else 0) + (if fail x then 2 else 0)
  let d := { d with res := none, tt := some (.ofNat 4 (two .a + 4 * two .b)) }
  if pass ac && pass s then
    { (d.setRole ac .alone).setRole s .receive with owner := (f ac).drive ac, blame := [s] }
  else if pass ac then { (d.setRole ac .alone).setRole s (f s).outRole with owner := (f ac).drive ac }
  else if pass s then { (d.setRole s .alone).setRole ac (f ac).outRole with owner := (f s).drive s }
  else { (d.setRole ac (f ac).outRole).setRole s (f s).outRole with owner := .quench, restart := true }

/-- Table TST-3 with active lane `a` and standby lane `s`. -/
def decideTwo (k : Nat) (ac s : LaneId) (f : LaneId → LaneFacts) (d : Draft) : Draft :=
  let d := { d with cmp := cmpOf (f .a) (f .b) }
  if !(f ac).clean && !(f s).clean then
    { (d.setRole ac (f ac).outRole).setRole s (f s).outRole with owner := .quench, restart := true, res := none }
  else if !(f ac).clean then { (d.setRole ac (f ac).outRole).setRole s .alone with owner := (f s).drive s, res := none }
  else if !(f s).clean then { (d.setRole s (f s).outRole).setRole ac .alone with owner := (f ac).drive ac, res := none }
  else
    match d.res with
    | none => rows47 k ac s f d
    | some r =>
      let r := { r with inlossA := r.inlossA || (f .a).inloss, inlossB := r.inlossB || (f .b).inloss }
      if r.start + 3 ≤ k then outcome r ac s f d else rows47 k ac s f { d with res := some r }

/-- One eligible lane (R116); the source of a transfer that becomes unclean leads to the quench image
(R128). -/
def decideOne (e : LaneId) (f : LaneFacts) (source : Bool) (d : Draft) : Draft :=
  if f.clean then { d with owner := f.drive e }
  else
    let d := d.setRole e f.outRole
    if source then { d with owner := .quench, restart := true } else d

/-- Roles before the decision: from phase 4 of a transfer the receiver is compared as STANDBY (Table TST-8). -/
def Touchstone.before (t : Touchstone) : Draft :=
  let d : Draft := { roleA := t.verdict.roleA, roleB := t.verdict.roleB, res := t.res }
  match t.transfer with
  | some x => if 4 ≤ x.phase ∧ d.role x.receiver = .receive then (d.setRole x.receiver .standby).setRole x.receiver.other .active else d
  | none => d

/-- The lane that may drive, and the one compared with it. -/
def Draft.eligible (d : Draft) : List LaneId := [LaneId.a, .b].filter fun x =>
  d.role x == .active || d.role x == .standby || d.role x == .alone

def Draft.judge (d : Draft) (k : Nat) (f : LaneId → LaneFacts) (source : Option LaneId) : Draft :=
  match d.eligible with
  | [x, y] =>
    if d.role y = .active then decideTwo k y x f d else decideTwo k x y f d
  | [x] => decideOne x (f x) (decide (source = some x)) d
  | _ => d

/-! ### Transients and lane resets (R129 to R131) -/

def window : Nat := 86400000
/-- Ages advance by one frame; those beyond the window are dropped. -/
def ageStep (n : Nat) (l : List Nat) : List Nat := ((l.map (· + 1)).filter fun a => decide (a < window)).take n

def Touchstone.ageAll (t : Touchstone) : Touchstone :=
  { t with trAgeA := ageStep 15 t.trAgeA, trAgeB := ageStep 15 t.trAgeB, rstAgeA := ageStep 2 t.rstAgeA, rstAgeB := ageStep 2 t.rstAgeB }

def Touchstone.trAge (t : Touchstone) : LaneId → List Nat
  | .a => t.trAgeA
  | .b => t.trAgeB
def Touchstone.rstAge (t : Touchstone) : LaneId → List Nat
  | .a => t.rstAgeA
  | .b => t.rstAgeB
def Touchstone.rstOff (t : Touchstone) : LaneId → Option Nat
  | .a => t.rstOffA
  | .b => t.rstOffB
def Touchstone.setRstOff (t : Touchstone) (x : LaneId) (n : Option Nat) : Touchstone := match x with
  | .a => { t with rstOffA := n }
  | .b => { t with rstOffB := n }
def Touchstone.sures (t : Touchstone) : LaneId → Nat
  | .a => t.suresA
  | .b => t.suresB
def Touchstone.setSures (t : Touchstone) (x : LaneId) (n : Nat) : Touchstone := match x with
  | .a => { t with suresA := n }
  | .b => { t with suresB := n }
def Touchstone.giveUp (t : Touchstone) : LaneId → Bool
  | .a => t.giveUpA
  | .b => t.giveUpB
def Touchstone.setGiveUp (t : Touchstone) (x : LaneId) (b : Bool) : Touchstone := match x with
  | .a => { t with giveUpA := b }
  | .b => { t with giveUpB := b }

/-- A transient of lane `x` is counted; the lane that reaches TRLIM becomes FAILED (R131). -/
def countTransient (trlim : Nat) (td : Touchstone × Draft) (x : LaneId) : Touchstone × Draft :=
  let t := match x with
    | .a => { td.1 with trAgeA := (0 :: td.1.trAgeA).take 15 }
    | .b => { td.1 with trAgeB := (0 :: td.1.trAgeB).take 15 }
  if trlim ≤ (t.trAge x).length then
    let d := td.2.setRole x .failed
    let d := if d.role x.other = .active ∨ d.role x.other = .standby then d.setRole x.other .alone else d
    (t, if d.owner = ownerOf x then { d with owner := .held } else d)
  else (t, td.2)

/-- A lane that holds UNFIT, OFF or BOOT moves on (Table TST-5): `was` is its role before this verdict. -/
def laneResetStep (s : State) (free : Bool) (was : Draft) (td : Touchstone × Draft) (x : LaneId) : Touchstone × Draft :=
  let (t, d) := td
  match was.role x with
  | .unfit =>
    if d.restart then td
    else if (t.rstAge x).length < 2 then
      let t := match x with
        | .a => { t with rstAgeA := 0 :: t.rstAgeA }
        | .b => { t with rstAgeB := 0 :: t.rstAgeB }
      (((t.setRstOff x (some 0)).setSures x 0).setGiveUp x false, d.setRole x .off)
    else (t, d.setRole x .failed)
  | .off => if (s.lane x).phase ≠ 0 then (t, d.setRole x .boot) else td
  | .boot =>
    if t.giveUp x ∨ t.sures x = 3 then (t.setRstOff x none, d.setRole x .failed)
    else if (s.lane x).phase = 7 ∧ (s.lane x).cfgFp ≠ (s.lane x).sec.cfgfp.toNat then (t.setRstOff x none, d.setRole x .unfit)
    else if (s.lane x).phase = 7 ∧ d.role x.other = .alone ∧ d.owner = ownerOf x.other ∧ free then
      ({ t.setRstOff x none with transfer := some { receiver := x, reset := true } }, d.setRole x .receive)
    else td
  | _ => td

/-! ### State transfers (R126 to R128, R513) -/

/-- Frames the catch-up of phase 5 lasts to (R513): for solves, for dispatches. -/
def Lane.catchUp (l : Lane) (rejoin : Nat) : Nat × Nat :=
  let up (p : Nat) : Nat := if p = 0 then rejoin else (rejoin + p - 1) / p * p
  let ps := l.get R.SOL.PERIOD
  let sol := if l.on R.NET.LOADED then up ps + (if l.on R.NET.DOMAIN then 2 * ps else ps) else rejoin
  let dis := if l.opt.image.isSome then up (l.get R.OPT.PERIOD) + l.get R.OPT.PERIOD else rejoin
  (sol, dis)

/-- The decision for the first epoch after the rejoin is visible on the source lane. -/
def Lane.epochSeen (l : Lane) (rejoin : Nat) : Bool :=
  let ps := l.get R.SOL.PERIOD
  l.on R.NET.DOMAIN && ps != 0 && l.slv.decisions.any fun d => decide (rejoin ≤ d.1 * ps)

def Transfer.step (x : Transfer) (src : Lane) (k : Nat) : Transfer :=
  if x.phase < 4 then x
  else { x with phase := 5, solveDone := x.solveDone || decide ((src.catchUp x.rejoin).1 ≤ k) || src.epochSeen x.rejoin }

def Transfer.ended (x : Transfer) (src : Lane) (k : Nat) : Bool :=
  decide (4 ≤ x.phase) && x.solveDone && decide ((src.catchUp x.rejoin).2 ≤ k)

/-- The cross-lane link is enabled (R127). -/
def Transfer.link (x : Transfer) : Bool := !x.test && !x.failed

/-! ### The verdict of a frame (R114) -/

def Draft.mode (d : Draft) : TsMode :=
  let has (r : Role) : Bool := d.roleA == r || d.roleB == r
  if d.owner = .quench then .quench
  else if d.res.isSome then .resolving
  else if has .receive then .transfer
  else if has .active && has .standby then .compared
  else if has .alone then .single
  else .quench

/-- The path exercise falls due in this row 4 frame (R133). -/
def Touchstone.pathDue (t : Touchstone) (k : Nat) : Bool := decide (30000 ≤ k % 60000) && decide (t.pathDone ≠ some (k / 60000))

/-- Row 4 extras: a kind-2 self-test command (R419), a swap (R125), the path exercise. A kind-2 command ends a resolution
that runs (assumption log 101). -/
def row4Extras (k : Nat) (kind2 : Option LaneId) (td : Touchstone × Draft) : Touchstone × Draft × Bool :=
  let (t, d) := td
  if !d.row4 then (t, d, false)
  else
    let sb : LaneId := if d.roleA = .standby then .a else .b
    if kind2 = some sb then
      ({ t with transfer := some { receiver := sb, test := true } },
        { (d.setRole sb .receive).setRole sb.other .alone with res := none }, false)
    else
      let d := if t.swap then { (d.setRole sb .active).setRole sb.other .standby with owner := ownerOf sb } else d
      let path := t.pathDue k
      (if path then { t with pathDone := some (k / 60000) } else t, d, path)

/-- A fourth held frame in a row becomes the quench image (R117). -/
def holdLimit (t : Touchstone) (d : Draft) : Draft :=
  if d.owner = .held ∧ 3 ≤ t.held then
    let fall (d : Draft) (x : LaneId) : Draft :=
      if d.role x = .active ∨ d.role x = .standby ∨ d.role x = .alone then d.setRole x .unfit else d
    { fall (fall d .a) .b with owner := .quench, restart := true, res := none }
  else d

/-- A disagreement within 1 000 frames of a rejoin is a transient of the lane that was rebuilt, counted when
the resolution ends (R129). -/
def rejoinBlame (t : Touchstone) (d : Draft) : List LaneId :=
  match t.res, d.res, t.rejoined with
  | some r, none, some (x, j) => if j ≤ r.start ∧ r.start ≤ j + 1000 ∧ !d.blame.contains x then [x] else []
  | _, _, _ => []

/-- A transfer in progress at a verdict: it fails, rejoins or completes. -/
def moveTransfer (k : Nat) (src : Lane) (td : Touchstone × Draft) : Touchstone × Draft :=
  let t := td.1
  let d := td.2
  match t.transfer with
  | none => td
  | some x =>
    let x := x.step src k
    let t := if x.phase = 5 ∧ x.rejoin = k then { t with rejoined := some (x.receiver, k) } else t
    if x.failed then
      let out : Role := if x.testBad && src.asy.sparex x.receiver then .failed else .unfit
      ({ t with transfer := none }, if d.role x.receiver = .receive then d.setRole x.receiver out else d)
    else
      let lapsed := decide (4 ≤ x.phase) && !(d.role x.receiver == .standby || d.role x.receiver == .active)
      ({ t with transfer := if x.ended src k ∨ lapsed ∨ d.restart then none else some x }, d)

/-- Row 6 and Table TST-7 order a transfer for the lane that becomes RECEIVE. -/
def newTransfer (was : Draft) (td : Touchstone × Draft) : Touchstone × Draft :=
  match [LaneId.a, LaneId.b].find? fun x => td.2.role x == .receive && was.role x != .receive && td.1.transfer.isNone with
  | some x => ({ td.1 with transfer := some { receiver := x } }, td.2)
  | none => td

/-- The Touchstone side of the verdict: the new Touchstone, the draft and whether the path is exercised. -/
def State.judgeFrame (s : State) : Touchstone × Draft × Bool :=
  let k := s.hub.fno
  let was := s.ts.before
  let source := (s.ts.transfer.filter fun x => decide (x.phase < 4)).map fun x => x.receiver.other
  let src := s.lane (if was.roleA = .active ∨ was.roleA = .alone then .a else .b)
  let kind2 := src.asy.kind2.bind fun p => if p.1 + 1 = k then some p.2 else none
  let r := row4Extras k kind2 (s.ts, was.judge k s.facts source)
  let swapped := s.ts.swap && decide (r.2.1.owner ≠ (was.judge k s.facts source).owner)
  let td := moveTransfer k src (r.1, r.2.1)
  let fails := s.ts.transfer.any fun x => x.failed
  let td := (td.1, holdLimit td.1 td.2)
  let blame := td.2.blame ++ rejoinBlame s.ts td.2
  let td := blame.foldl (countTransient (src.get R.TST.TRLIM)) td
  let td := newTransfer was td
  let td := (td.1, holdLimit td.1 td.2)
  let td := [LaneId.a, LaneId.b].foldl (laneResetStep s (td.1.transfer.isNone && !fails) was) td
  ({ td.1 with verdict := { td.1.verdict with
      trA := blame.contains .a, trB := blame.contains .b, swap := if s.ts.swap then some swapped else none } }, td.2, r.2.2)

/-- A lane holds a swap request (R125). -/
def State.swapAsked (s : State) : Bool := s.laneA.running && s.laneA.on R.TST.SWAP || s.laneB.running && s.laneB.on R.TST.SWAP

/-- The verdict under Touchstone loss, written by the hub (R134, R135); a swap that waits is dropped (R125). -/
def State.lostVerdict (s : State) : State :=
  let k := s.hub.fno
  let good := match s.ts.latched with
    | some x => (s.facts x).clean && (s.facts x).frame.isSome && !s.ts.latchQuench
    | none => false
  let owner := match s.ts.latched with
    | some x => if good then ownerOf x else .quench
    | none => .quench
  let v : Verdict := {
    owner, mode := .tslost, cmp := .notCompared, roleA := s.ts.verdict.roleA, roleB := s.ts.verdict.roleB
    tslost := true, vfno := k }
  let v : Verdict := { v with swap := if s.ts.swap then some false else none }
  { s with
    ts := { s.ts with verdict := v, latchQuench := s.ts.latchQuench || !good, swap := !s.ts.swap && s.swapAsked }
    hub := { s.hub with verdict := v } }

/-- The registers that lanes read of the last disagreement, out of frame (Table TST-10). -/
def Lane.showDiff (l : Lane) (k : Nat) (r : Resolution) : Lane :=
  (((l.put R.TST.DIFFOFS r.ofs).put R.TST.DIFFCLS r.cls).put R.TST.DIFFDST r.dest).put R.TST.DIFFFNO (k % 2 ^ 32)

/-- Before k0 a verdict orders nothing. -/
def State.startVerdict (s : State) : State :=
  let v : Verdict := {
    owner := .quench, mode := .start, cmp := .notCompared, roleA := s.ts.verdict.roleA, roleB := s.ts.verdict.roleB, vfno := s.hub.fno }
  { s with ts := { s.ts with verdict := v }, hub := { s.hub with verdict := v } }

/-- +700 µs of a frame in which lanes run. -/
def State.runVerdict (s : State) : State :=
  let k := s.hub.fno
  let (t, d, path) := s.judgeFrame
  let v : Verdict := {
    owner := d.owner, mode := d.mode, cmp := d.cmp, roleA := d.roleA, roleB := d.roleB
    gap := d.owner == .held, pathtest := path, xfer := t.transfer.any Transfer.link, vfno := k
    trA := t.verdict.trA, trB := t.verdict.trB, swap := t.verdict.swap }
  let pend := decide (t.verdict.swap = none) && s.swapAsked
  let t := { t with
    verdict := v, mode := d.mode, res := d.res, held := if d.owner = .held then t.held + 1 else 0, swap := pend
    ttRes := d.tt.getD t.ttRes, pathBad := none, order8 := d.restart }
  let show_ (l : Lane) : Lane :=
    let l := match d.tt with
      | some b => { l.put R.TST.TTRES b.toNat with asy := { l.asy with targeted := none } }
      | none => if s.ts.res.isSome && d.res.isNone then { l with asy := { l.asy with targeted := none } } else l
    match d.started, d.res with
    | true, some r => (l.showDiff k r).startTargeted r.cls r.dest r.out
    | _, _ => l
  onLanes show_ { s with ts := t, hub := { s.hub with verdict := v } }

/-- +700 µs: the verdict of frame k (R114). A second comparison in a frame changes nothing. -/
def State.compare (s : State) : State :=
  if !s.hub.running ∨ (s.ts.verdict.vfno = s.hub.fno ∧ s.hub.fno ≠ 0) then s
  else if s.ts.lost then s.lostVerdict
  else if s.startup.isSome then s.startVerdict
  else s.runVerdict

/-- Touchstone is lost (R134, R135): a transfer in progress is abandoned and ownership is latched. From phase 3 of a start-up
on, no lane has been ACTIVE or ALONE, so none is latched and no k0 is named (DEDUCED, assumption log 104). -/
def State.touchstoneLoss (s : State) : State :=
  if (s.startup.any fun u => decide (u.phase < 3)) ∨ s.ts.lost ∨ !s.hub.running then s
  else
    let v := s.ts.verdict
    let latched := if s.startup.isSome then none
      else if v.roleA = .active ∨ v.roleA = .alone then some LaneId.a
      else if v.roleB = .active ∨ v.roleB = .alone then some .b
      else none
    let v := match s.ts.transfer with
      | some x => if 4 ≤ x.phase ∧ (match x.receiver with | .a => v.roleA | .b => v.roleB) = .receive then
          (match x.receiver with
            | .a => { v with roleA := .standby, roleB := .active }
            | .b => { v with roleB := .standby, roleA := .active })
        else v
      | none => v
    let t := { s.ts with
      lost := true, latched := latched, res := none, transfer := none, rstOffA := none, rstOffB := none, order8 := false
      verdict := v, mode := .tslost }
    { s with ts := t, hub := s.hub.dropConnections, startup := s.startup.map fun u => { u with k0 := none } }

/-! ### The verdict on a lane (R119, R136, R132, Tables TST-10, TST-12 and TST-13) -/

/-- Sets an alarm bit of HLTH; IRQS bit n + 1 is set where bit n rises. -/
def Lane.alarmBit (l : Lane) (f : Fld) (b : Bool) : Lane :=
  let l := if b && !l.on f then l.irqBit f.page (f.lo + 1) else l
  l.putB f b

/-- The TST page and its events. -/
def Lane.loadTst (l : Lane) (v : Verdict) : Lane :=
  let was := l.get R.TST.OWNER
  let l := l.irqIf (v.tslost && !l.on R.TST.TSLOST) R.TST.I_TSLOST
  let l := l.irqIf (decide (v.mode.code ≠ l.mode)) R.TST.I_MODECHG
  let l := l.irqIf (v.cmp == .differ) R.TST.I_DISAG
  let l := l.irqIf v.gap R.TST.I_GAP
  let l := l.irqIf (decide ((was = 1 ∧ v.owner = .laneB) ∨ (was = 2 ∧ v.owner = .laneA))) R.TST.I_OWNCHG
  let l := ((l.put R.TST.OWNER v.owner.code).put R.TST.MODE v.mode.code).put R.TST.CMP v.cmp.code
  let l := ((l.put R.TST.ROLEA v.roleA.code).put R.TST.ROLEB v.roleB.code).putB R.TST.GAP v.gap
  let l := ((l.putB R.TST.TSLOST v.tslost).putB R.TST.PATHTEST v.pathtest).putB R.TST.XFER v.xfer
  l.put R.TST.VFNO (v.vfno % 2 ^ 32)

/-- The counts of R136 and R131; `t` gives the ages. A verdict of MODE START counts nothing: its frame is in SYS.STARTUP
(assumption log 102). -/
def Lane.loadHealth (l : Lane) (t : Touchstone) (v : Verdict) : Lane :=
  let driven := v.owner == .laneA || v.owner == .laneB
  let disag := v.cmp == .differ && v.mode == .resolving && l.mode != 2
  let rstA := v.roleA == .off && l.get R.TST.ROLEA == 6
  let rstB := v.roleB == .off && l.get R.TST.ROLEB == 6
  let l := if v.mode = .start then l
    else if driven ∧ v.mode = .compared then l.inc64 R.HLTH.FCOMP_L R.HLTH.FCOMP_H
    else if driven then l.inc64 R.HLTH.FALONE_L R.HLTH.FALONE_H
    else if v.owner = .quench then l.inc64 R.HLTH.FQUN_L R.HLTH.FQUN_H
    else l
  let l := if v.gap then l.inc R.HLTH.FGAP else l
  let l := if disag then l.inc R.HLTH.DISAG else l
  let l := if v.trA then l.inc R.HLTH.TRTOTA else l
  let l := if v.trB then l.inc R.HLTH.TRTOTB else l
  let l := if rstA then l.inc R.RST.LRSTA else l
  let l := if rstB then l.inc R.RST.LRSTB else l
  let l := (l.put R.HLTH.TRWINA (min 15 t.trAgeA.length)).put R.HLTH.TRWINB (min 15 t.trAgeB.length)
  let fa := v.roleA == .failed
  let fb := v.roleB == .failed
  let l := ((l.alarmBit R.HLTH.FAILA fa).alarmBit R.HLTH.FAILB fb).alarmBit R.HLTH.TSLOST v.tslost
  let l := l.alarmBit R.HLTH.REPLACE (l.on R.HLTH.REPLACE || fa || fb || v.tslost)
  let l := (l.alarmBit R.HLTH.PATHA (l.on R.HLTH.PATHA || t.pathBad == some .a)).alarmBit R.HLTH.PATHB (l.on R.HLTH.PATHB || t.pathBad == some .b)
  l.alarmBit R.HLTH.SINGLE (v.mode == .single || v.mode == .transfer || v.mode == .tslost)

/-- Without a configuration the outputs are the quench image (R4). -/
def Lane.configured (l : Lane) : Bool := decide (l.cfgFp ≠ 0)

/-- DOAPP, QACT and HWOFF of the last apply instant; an image without a valid copy is the hardware-off state
(R82). A module without a configuration stays at the quench image (R4). -/
def Lane.loadPio (l : Lane) (v : Verdict) : Lane :=
  let q := v.owner == .quench || !l.configured
  let valid := l.on R.PIO.QVALID
  let l := l.irqIf (q && valid && !l.on R.PIO.QACT) R.PIO.I_QACT
  let l := (l.putB R.PIO.QACT (q && valid)).putB R.PIO.HWOFF (q && !valid)
  if q then l.put R.PIO.DOAPP (if valid then l.qdo.toNat else 0)
  else if v.owner = .held then l
  else match l.lastOut.head? with
    | some ⟨1, _, .plant d _⟩ => l.put R.PIO.DOAPP d.toNat
    | _ => l

/-- A pending swap ends with the verdict that decided it (R125). -/
def Lane.swapStep1 (l : Lane) (v : Verdict) : Lane :=
  match v.swap with
  | none => l
  | some done => (l.put R.TST.SWAP 0).postIf (!done) 0x0240

/-- The verdict begins a lane reset: UNFIT becomes OFF (R130). -/
def Lane.resetSeen (l : Lane) (v : Verdict) : Bool :=
  (v.roleA == .off && l.get R.TST.ROLEA == 6) || (v.roleB == .off && l.get R.TST.ROLEB == 6)

/-- Step 1 of frame k + 1 with the verdict of frame k: what counts on the pages, and whether a transient or a
lane reset was counted. -/
def Lane.loadVerdict (l : Lane) (t : Touchstone) (v : Verdict) : Lane × Bool :=
  let rst := l.resetSeen v
  let l := ((l.loadHealth t v).loadTst v).loadPio v
  (l.swapStep1 v, rst || v.trA || v.trB)

/-- Gaps in SEQ are arrivals discarded under R24 (R137). -/
def Lane.countDrops (l : Lane) (arr : List Arrival) : Lane :=
  arr.foldl (fun (l : Lane) a =>
    let l := match l.lastSeq.find? fun p => p.1 == a.src with
      | some (_, q) =>
        let n := (a.seq + 65535 - q) % 65536
        if n = 0 then l else (l.inc R.HLTH.INDROP n).put R.HLTH.INDSRC a.src
      | none => l
    { l with lastSeq := (a.src, a.seq) :: l.lastSeq.filter fun p => p.1 != a.src }) l

/-! ### Heartbeat and delivery (R112, R90) -/

def Lane.heartbeat (l : Lane) (p : Power) (noout intact : Bool) : Heartbeat :=
  let cru := p.dom.getLsbD (if l.id = .a then 4 else 5)
  let tt := l.asy.targeted.filter fun t => decide (t.start + 3 ≤ l.fno)
  { fno := l.fno
    inloss := l.inloss
    noout
    laneflt := l.laneflt
    deadline := l.deadlineFlt
    cruoff := !cru && !l.reduced && l.redEnd != some l.fno
    asyfail := l.asyfail
    lclkflt := p.laneClkBad l.id
    fpmis := decide (l.cfgFp ≠ l.sec.cfgfp.toNat)
    ttdone := tt.any fun t => t.left == 0
    ttfail := tt.any fun t => t.left == 0 && t.failed
    intact }

end Sys2Proof.Machine
end

