-- ==== Sys2Proof/Machine/Startup.lean ====
section
/-! DEFINITION. Restarts and the start-up sequence: Tables PWR-4 to PWR-6, recall, the decision between warm and cold,
secure boot, lane alignment, the start frame and the work at k0 (03_power_clocks_start.md R74 to R85). -/

namespace Sys2Proof.Machine

/-! ### Power domains (Table PWR-1) -/

/-- Bit of PWR.DOMSTAT. -/
def domBit : Domain → Nat
  | .bkp => 0 | .ts => 1 | .la => 2 | .lb => 3 | .cra => 4 | .crb => 5 | .met => 6 | .io => 7 | .nv => 8 | .dsp => 9

def laneDom : LaneId → Nat
  | .a => 2
  | .b => 3
def craDom : LaneId → Nat
  | .a => 4
  | .b => 5

def Power.isOn (p : Power) (n : Nat) : Bool := p.dom.getLsbD n

/-- Clocks that are supplied in a domain (Table PWR-2). -/
def domClocks (n : Nat) : BitVec 19 :=
  [0, 0x2, 0x44, 0x88, 0x10, 0x20, 0x200, 0, 0x40000, 0x20000].getD n 0

/-- A domain goes on, which clears its fault and the failures of its clocks, or off. -/
def Power.setDom (p : Power) (n : Nat) (on : Bool) : Power :=
  let m : BitVec 10 := 1#10 <<< n
  if on then { p with dom := p.dom ||| m, fault := p.fault &&& ~~~m, clkFail := p.clkFail &&& ~~~(domClocks n) }
  else { p with dom := p.dom &&& ~~~m }

def Power.setDoms (p : Power) (ns : List Nat) (on : Bool) : Power := ns.foldl (fun (p : Power) n => p.setDom n on) p

def State.setPwr (s : State) (f : Power → Power) : State := { s with pwr := f s.pwr }
def State.setHub (s : State) (f : Hub → Hub) : State := { s with hub := f s.hub }
def State.setTs (s : State) (f : Touchstone → Touchstone) : State := { s with ts := f s.ts }

/-! ### Lanes without their memory -/

/-- A lane whose domain has been off; its fuses stay. -/
def Lane.fresh (l : Lane) : Lane := { id := l.id, fuses := l.fuses }

/-- A lane at a restart that leaves it powered (R111). A cold restart drops LLREAD later. -/
def Lane.restarted (l : Lane) : Lane :=
  (((l.fresh.put R.FRAME.LATECNT (l.get R.FRAME.LATECNT)).put R.FRAME.SLACKMIN (l.get R.FRAME.SLACKMIN)).put R.FRAME.LLREAD
    (l.get R.FRAME.LLREAD)).asyAborted l

/-- The lane is off: domains, memory and its place in the frame. -/
def State.laneOff (s : State) (x : LaneId) : State :=
  { s.setLane x (s.lane x).fresh with pwr := (s.pwr.setDom (laneDom x) false).setDom (craDom x) false }

/-- The lane is powered and begins phase 3. -/
def State.laneOn (s : State) (x : LaneId) : State :=
  let s := s.setPwr fun p => p.setDom (laneDom x) true
  s.setLane x { s.lane x with phase := 3 }

/-! ### Frames begin (R88, R366) -/

/-- The cages are powered with the hub; which modules sit in them is the plant's. -/
def HubPorts.started (p : HubPorts) : HubPorts := { links := p.links.map fun k => { k with pwr := true, told := 0 } }

/-- Presets of a slot's configuration. -/
def NvStore.presetsOf (nv : NvStore) (slot : Nat) : List (Nat × Word) :=
  if nv.factorySlot slot then []
  else match configSections (nv.configPart slot) with
    | .ok secs => (match (cfgSec secs 12).map presetSection with
      | some (.ok ps) => ps
      | _ => [])
    | .error _ => []

/-- LOCOFS as the configuration of the committed slot presets it: no lane has its registers yet (assumption log 32). -/
def State.startLocofs (s : State) : Int :=
  let r := s.nv.recall
  let l := (s.laneA.fresh.nvRecall r 0).recallSecurity r
  match ((if l.runsConfig then s.nv.presetsOf l.committedSlot else []).filter fun p => p.1 == 0x3005C).getLast? with
  | some p => toSigned 16 (bits p.2 31 16)
  | none => 0

/-- The hub starts frames once the backup domain has unlocked its interface, or 20 ms after VBUS came (R366). -/
def State.mayStart (s : State) : Bool := !s.cal.locked || s.startup.any fun u => decide (20 ≤ u.waited)

/-- The hub starts frames: PD_IO is on, the count is at 0, the local clock is set from the calendar. The states of the
digital inputs are the plant's. -/
def State.startFrames (s : State) : State :=
  let cal := s.cal.readAt20
  let locofs := if cal.calq then s.startLocofs else 0
  { s with
    cal
    pwr := s.pwr.setDom 7 true
    hub := { running := true, upFrames := s.hub.upFrames, rnfno := s.hub.rnfno, di := s.hub.di, clk := { ns := clockStart cal locofs }, ports := s.hub.ports.started } }

/-! ### A restart begins (R74, R79, R84) -/

/-- Touchstone at a module restart: roles BOOT; the ages of R131 and the one restart of R416 are kept. -/
def Touchstone.restarted (t : Touchstone) : Touchstone :=
  { trAgeA := t.trAgeA, trAgeB := t.trAgeB, rstAgeA := t.rstAgeA, rstAgeB := t.rstAgeB, trig8 := t.trig8, pathDone := t.pathDone
    mode := .start, roleA := .boot, roleB := .boot, verdict := { roleA := .boot, roleB := .boot, vfno := t.verdict.vfno } }

def Lane.replacing (l : Lane) : Bool := l.running && (l.sec.ustate == .verifying || l.sec.ustate == .promoting)

/-- The pulse outputs that hold a pulse, with FRAME_NO of its command. -/
def Outputs.pulsing (o : Outputs) : List (Nat × Nat) :=
  (List.range 16).filterMap fun n => if o.pulses.getD n 0 = 0 then none else some (n, o.pulseFno.getD n 0)

/-- A manifest record that executed in the last frame has not counted as executed when the lanes go: the next start finds the
old manifest (14_nv_store.md R340). -/
def State.keepManifest (s : State) : State :=
  let sent (l : Lane) : Bool := l.nv.sent.any fun r => r.op == 1 && r.part == 5 && r.rid == 1
  if s.hub.applied && (sent s.laneA || sent s.laneB) then { s with nv := s.nv.oldManifest } else s

/-- A module restart with trigger `trig`: TRIG 0x7 enters at phase 1, the others at phase 3. -/
def State.beginRestart (s : State) (trig : Nat) : State :=
  let full := trig == 7
  let upd := (s.laneA.replacing || s.laneB.replacing) && trig != 5
  let s := s.keepManifest
  let p := if s.laneA.on R.NVS.UNAVAIL ∨ s.laneB.on R.NVS.UNAVAIL then s.pwr.setDom 8 true else s.pwr
  let p := p.setDoms [4, 5] false
  let s := { s with
    pwr := p
    ts := s.ts.restarted
    hub := { s.hub.dropConnections with clk := { s.hub.clk with steps := 0 } }
    startup := some { phase := if full then 1 else 3, since := s.hub.upFrames, full, trig, upd, pulsing := if full then [] else s.hub.outs.pulsing }
    laneA := s.laneA.restarted, laneB := s.laneB.restarted }
  if full then s else (s.laneOn .a).laneOn .b

/-- The restart a running lane has accepted in the frame before, or that Touchstone has ordered. -/
def State.restartAsked (s : State) : Option RestartReq :=
  match s.laneA.running, s.laneA.restart with
  | true, some r => some r
  | _, _ => match s.laneB.running, s.laneB.restart with
    | true, some r => some r
    | _, _ => if s.ts.order8 then some { cold := false, trig := 8 } else none

/-! ### Phase 3: secure boot (17_security.md R395, R396) -/

/-- The boot ROM on one lane; `seen` is a failure found by a check the model does not make itself, the self-check. -/
def Lane.boot (l : Lane) (nv : NvStore) (seen : Nat) : Lane :=
  let r := nv.recall
  let l := l.readIrk nv
  let code := if seen ≠ 0 then seen else ((l.nvRecall r 0).recallSecurity r).bootCode nv
  if code ≠ 0 then { l.put R.LCS.BOOTERR code with phase := 0 } else { l with phase := 4 }

/-! ### Phase 4: recall and the kind of restart (R76 to R78) -/

/-- The fingerprint of the slot a lane starts. -/
def Lane.slotFp (l : Lane) (nv : NvStore) : Nat :=
  if l.noConfig nv then 0 else (nv.fingerprint l.committedSlot).toNat

/-- The restart policy record is in force for the slot being started (R85). -/
def Lane.policyHeld (l : Lane) (nv : NvStore) (r : Recalled) : Option (List Byte) :=
  (r.data 0 4).filter fun b => decide (u64At b 4 = l.slotFp nv)

/-- SYS.RSTPOL: the record, or the preset, or 0. -/
def Lane.policyWord (l : Lane) (nv : NvStore) (r : Recalled) : Word :=
  match l.policyHeld nv r with
  | some b => .ofNat 32 (u16At b 0 * 2 ^ 16 + u8At b 2 % 2)
  | none => match (if l.runsConfig then nv.presetsOf l.committedSlot else []).find? fun p => p.1 == 0x60 with
    | some p => p.2
    | none => 0

/-- Hundredths of a second from the calendar reading in a record to the reading at recall, where both are valid. -/
def outage (start : Dword) (valid : Bool) (cal : Calendar) : Option Int :=
  if !valid ∨ !cal.calq then none
  else match decodeReading start, decodeReading cal.reading with
    | some (a, x), some (b, y) => some ((b.secs * 100 + y : Nat) - (a.secs * 100 + x : Nat) : Int)
    | _, _ => none

/-- The outage of R76. -/
def Recalled.outage (r : Recalled) (trig : Nat) (cal : Calendar) : Option Int :=
  if trig = 1 then (r.data 0 1).bind fun b => Machine.outage (.ofNat 64 (u64At b 4)) ((b.getD 1 0).getLsbD 0) cal
  else (r.data 0 0).bind fun b => Machine.outage (.ofNat 64 (u64At b 8)) ((b.getD 16 0).getLsbD 0) cal

/-- The trigger of a power return (14_nv_store.md Table NVS-5). -/
def Recalled.powerTrig (r : Recalled) : Nat := if (r.data 0 1).any fun b => u8At b 0 == 1 then 1 else 2

/-- REASON of a warm restart that is requested: 0 where it is taken. An absent header is a changed fingerprint, and an
unknown length refuses whatever MAXOUT is (DEDUCED, assumption log 33); a calendar that has gone back makes no outage too
long (assumption log 97). -/
def Lane.refusal (l : Lane) (nv : NvStore) (r : Recalled) (trig : Nat) (cal : Calendar) : Nat :=
  if l.noConfig nv then 1
  else if !(r.data 0 0).any fun b => u64At b 0 == l.slotFp nv then 2
  else if !l.nv.retain.present then 3
  else if trig ≠ 1 ∧ trig ≠ 2 then 0
  else match r.outage trig cal with
    | none => 5
    | some d =>
      let m := bits (l.policyWord nv r) 31 16
      if m ≠ 0 ∧ (m * 6000 : Int) < d then 4 else 0

/-- Phase 4 on one lane. -/
def Lane.recallAll (l : Lane) (nv : NvStore) (cal : Calendar) (su : Startup) (ms : Nat) : Lane :=
  let r := nv.recall
  let trig := if su.trig = 1 ∨ su.trig = 2 then r.powerTrig else su.trig
  let l := ((l.nvRecall r ms).recallSystem r).recallSecurity r
  let l : Lane := { l with sec := l.sec.restarted }
  let l := ((((l.recallMeters r).recallPulses r su.pulsing).recallCalib r).recallAssay r).setAsy Assay.restarted
  let l := l.setReg 0x60 (l.policyWord nv r)
  let cold := trig == 4 || ((trig == 1 || trig == 2) && l.on R.SYS.RETPOL)
  let reason := if cold then 0 else l.refusal nv r trig cal
  let warm := !cold && reason == 0
  let l := (((l.put R.SYS.TRIG trig).put R.SYS.TYPE (if warm then 1 else 2)).put R.SYS.REASON reason).putB R.SYS.ROLLBACK (warm && r.retain.2.2)
  let l := (l.putB R.SYS.CALINV (!cal.calq)).putB R.SYS.UPDINT su.upd
  let l := if trig = 1 ∨ trig = 2 then l.inc R.SYS.PCYC else l
  let l := if warm then l else l.put R.FRAME.LLREAD 0
  { l with phase := 5 }

/-! ### Phase 5: configuration (R43, R152) -/

/-- Phase 5 on one lane; a configuration that is refused leaves the lane not ready (R153). -/
def Lane.installPhase (l : Lane) (nv : NvStore) (ms : Nat) : Lane :=
  let r := l.installConfig nv ms
  if r.2 then
    let held := (l.policyHeld nv nv.recall).isSome
    { r.1 with phase := 6, presets := if held then r.1.presets.filter fun p => p.1 != 0x60 else r.1.presets }
  else { r.1 with phase := 0 }

/-! ### Phase 6: start-up test and alignment (18_assay.md R415, R416) -/

/-- The lane ends phase 6: its test result goes to Touchstone; a pass that is ready waits for k0. -/
def State.testPhase (s : State) (x : LaneId) (e : LaneStart) : State :=
  let r := (s.lane x).startTest e.test
  let l := r.1
  let t := s.ts.setSures x r.2
  if r.2 = 3 then
    let s := { s.setLane x { l with phase := 0 } with ts := t.setGiveUp x true }
    { s with startup := s.startup.map fun u => match x with
      | .a => { u with failA := some s.hub.fno }
      | .b => { u with failB := some s.hub.fno } }
  else if e.ready then
    let s := { s.setLane x { l with phase := 7 } with ts := t }
    { s with startup := s.startup.map fun u => match x with
      | .a => { u with readyA := some s.hub.fno }
      | .b => { u with readyB := some s.hub.fno } }
  else { s.setLane x l with ts := t }

/-- The phase a lane is in ends for it. -/
def State.lanePhase (s : State) (x : LaneId) (e : LaneStart) : State :=
  let l := s.lane x
  let su := s.startup.getD { phase := 3, trig := 8 }
  if l.phase = 3 then s.setLane x (l.boot s.nv e.boot.toNat)
  else if l.phase = 4 then s.setLane x (l.recallAll s.nv s.cal su e.ms)
  else if l.phase = 5 then
    let l := l.installPhase s.nv e.ms
    let s := s.setLane x l
    if l.phase = 6 then s.setPwr fun p => p.setDom (craDom x) true else s
  else if l.phase = 6 then s.testPhase x e
  else s

/-! ### The sequence (R79, R82, R93) -/

/-- The hub loads the quench image of the PIO record (R82). -/
def State.loadQuench (s : State) : State :=
  s.setHub fun h => match s.nv.recall.data 0 2 with
    | some b => { h with outs := { h.outs with qdo := (readPio b).1, qao := (readPio b).2, qvalid := true } }
    | none => { h with outs := { h.outs with qvalid := false } }

/-- PD_DSP is first switched on at the end of phase 5, unless a preset keeps it off (22_display.md R477). -/
def State.firstDsp (s : State) : State :=
  let keep := [s.laneA, s.laneB].any fun l => l.phase == 6 && l.presets.any fun p => p.1 == 0x3058 && p.2.getLsbD 0
  if (s.laneA.phase = 6 ∨ s.laneB.phase = 6) ∧ !keep then s.setPwr fun p => p.setDom 9 true else s

/-- Renumbering at the start of phase 6 (R93): the next frame's number makes MSOFS 0. -/
def Hub.renumber (h : Hub) : Hub :=
  if h.clk.sync = .locked ∨ h.clk.sync = .holdover then
    let t := h.clk.at h.flen
    let n := ((t - phaseOf t) / 1000000).toNat
    { h with fno := n - 1, rnfno := n }
  else h

/-- Neither lane has passed its start-up test (R416): one restart with TRIG 0x8 in a power session, then the
module stays off, with the lane-failure alarm (R132). -/
def State.noLane (s : State) : State :=
  let dead (x : LaneId) : Bool := (s.lane x).phase == 0
  if s.startup.isSome && dead .a && dead .b && (s.ts.suresA == 3 || s.ts.suresB == 3) then
    if s.ts.trig8 then
      let s := (s.laneOff .a).laneOff .b
      let alarm (l : Lane) : Lane := l.putB R.HLTH.REPLACE true
      { s with laneA := alarm s.laneA, laneB := alarm s.laneB, startup := s.startup.map fun u => { u with stopped := true } }
    else (s.beginRestart 8).setTs fun t => { t with trig8 := true }
  else s

/-- Both lanes, where they are in the module's phase. -/
def State.bothPhases (s : State) (n : Nat) (a b : LaneStart) : State :=
  let s := if s.laneA.phase = n then s.lanePhase .a a else s
  if s.laneB.phase = n then s.lanePhase .b b else s

def State.nextPhase (s : State) (n : Nat) : State := { s with startup := s.startup.map fun u => { u with phase := n } }

/-- The module's phase ends. -/
def State.modulePhase (s : State) (u : Startup) (tsOk : Bool) (a b : LaneStart) : State :=
  if u.stopped then s
  else if u.phase = 1 ∧ !s.hub.running ∧ !s.mayStart then s
  else if u.phase = 1 then
    let s := if s.hub.running then s else s.startFrames
    ((s.setPwr fun p => p.setDoms (if u.trig = 7 then [7] else [0, 6, 7, 8]) true).setHub fun h => { h with lamp := some (h.upFrames + 500) }).nextPhase 2
  else if u.phase = 2 then
    if !tsOk then { s with startup := some { u with stopped := true } }
    else
      let s := (if u.trig = 7 then s else s.setPwr fun p => p.setDom 1 true).setTs fun t => { t.restarted with pathDone := none }
      ((s.laneOn .a).laneOn .b).nextPhase 3
  else if u.phase = 3 then (s.bothPhases 3 a b).nextPhase 4
  else if u.phase = 4 then
    let booted := s.laneA.phase = 4 ∨ s.laneB.phase = 4
    let s := if booted then s.setTs fun t => recallAges s.nv.recall t else s
    let s := s.bothPhases 4 a b
    (if booted then s.loadQuench else s).nextPhase 5
  else if u.phase = 5 then
    let s := (s.bothPhases 5 a b).firstDsp
    (if u.full then s.setHub Hub.renumber else s).nextPhase 6
  else (s.bothPhases 6 a b).noLane

/-- STARTUP_PHASE_END: of the module, or of one lane that runs its phases alone (R130, R81). -/
def State.phaseEnd (s : State) (lane : Option LaneId) (tsOk : Bool) (a b : LaneStart) : State :=
  match lane with
  | some x => if (s.lane x).running then s else (s.lanePhase x (if x = .a then a else b)).noLane
  | none => match s.startup with
    | some u => s.modulePhase u tsOk a b
    | none => s

/-! ### The start frame (R80, R81, R124) -/

/-- The lanes that start: equal fingerprints start both; otherwise a lane starts where its fingerprint is that of
the slot manifest. -/
def State.starters (s : State) : List LaneId :=
  let ready := [LaneId.a, .b].filter fun x => (s.lane x).phase == 7
  let good (x : LaneId) : Bool := (s.lane x).cfgFp == (s.lane x).sec.cfgfp.toNat
  if ready.length = 2 ∧ s.laneA.cfgFp = s.laneB.cfgFp then ready else ready.filter good

/-- k0 as R80 and R81 name it at this moment, `late` being the frame in which the wait for the other lane ended: its third
frame follows (assumption log 98). -/
def Startup.nameK0 (u : Startup) (late : Option Nat) : Option Nat :=
  match u.readyA, u.readyB with
  | some a, some b => some (max a b + 3)
  | some a, none => (match u.failB with
    | some f => some (max a f + 3)
    | none => late.map (· + 3))
  | none, some b => (match u.failA with
    | some f => some (max b f + 3)
    | none => late.map (· + 3))
  | none, none => none

/-- Differing decisions of R76 make both restarts cold (R78). -/
def State.agreeKind (s : State) : State :=
  let kind (l : Lane) : Nat × Nat := (l.get R.SYS.TYPE, l.get R.SYS.REASON)
  if s.laneA.phase = 7 ∧ s.laneB.phase = 7 ∧ kind s.laneA ≠ kind s.laneB then
    let cold (l : Lane) : Lane := ((l.put R.SYS.TYPE 2).put R.SYS.REASON 3).putB R.SYS.ROLLBACK false
    { s with laneA := cold s.laneA, laneB := cold s.laneB }
  else s

/-- Touchstone names k0 once a lane is ready and the other is ready, has failed, or is given up. -/
def State.startFrame (s : State) : State :=
  match s.startup with
  | none => s
  | some u =>
    let late := if s.ts.giveUpA ∨ s.ts.giveUpB then some s.hub.fno else none
    if u.stopped ∨ u.k0.isSome ∨ u.phase < 6 ∨ s.ts.lost then s
    else match u.nameK0 late with
      | none => s
      | some k =>
        if s.starters.isEmpty then { s with startup := some { u with stopped := true } }
        else { s.agreeKind with startup := some { u with k0 := some (max k (s.hub.fno + 1)) } }

/-- R81: 10 s after the other lane, a lane is given up. In a lane reset the lane becomes FAILED (Table TST-5). -/
def State.readyTimeout (s : State) : State :=
  match s.startup with
  | some u =>
    (match u.readyA, u.readyB with
      | some a, none => if u.failB.isNone ∧ a + 10000 ≤ s.hub.fno then (s.setTs fun t => t.setGiveUp .b true).startFrame else s
      | none, some b => if u.failA.isNone ∧ b + 10000 ≤ s.hub.fno then (s.setTs fun t => t.setGiveUp .a true).startFrame else s
      | _, _ => s)
  | none =>
    [LaneId.a, .b].foldl (fun (s : State) x =>
      match s.ts.rstOff x with
      | some n => if 10010 ≤ n ∧ (s.lane x).phase ≠ 7 ∧ s.ts.verdict.xfer = false then s.setTs fun t => t.setGiveUp x true else s
      | none => s) s

/-- Role of a lane at k0 (R124, Table TST-5). -/
def State.roleAtK0 (s : State) (st : List LaneId) (x : LaneId) : Role :=
  if st.contains x then (if st.length = 2 then (if x = .a then .active else .standby) else .alone)
  else if (s.lane x).phase = 7 then .unfit
  else .failed

/-- A starting lane at the start of k0: what it takes from Touchstone and the hub. -/
def Lane.enterK0 (l : Lane) (s : State) (u : Startup) : Lane :=
  let trig := l.get R.SYS.TRIG
  let st := s.hub.upFrames - u.since
  let partner := (s.lane l.id.other).cfgFp
  let l := l.put R.SYS.STARTUP st
  let l := if (s.lane l.id.other).phase = 7 then l.put64 R.SYS.PARTFP_L R.SYS.PARTFP_H partner else l
  let l := if 3 ≤ trig ∧ trig ≤ 6 then l.inc64 R.HLTH.FQEX_L R.HLTH.FQEX_H st else l.inc64 R.HLTH.FQUN_L R.HLTH.FQUN_H st
  let l := l.inc (if l.get R.SYS.TYPE = 1 then R.RST.WARMCNT else R.RST.COLDCNT)
  let l := (l.put R.ASY.SURESA s.ts.suresA).put R.ASY.SURESB s.ts.suresB
  let l := l.put64 R.FRAME.RNFNO_L R.FRAME.RNFNO_H s.hub.rnfno
  let l := (List.range 8).foldl (fun (l : Lane) n => l.put (R.ENG.STATE.inst n) 1) l
  { l with running := true, phase := 0, k0 := s.hub.fno }

/-- FRAME_START of k0: the lanes run, and the start-up is over. -/
def State.atK0 (s : State) (u : Startup) : State :=
  let st := s.starters
  let v : Verdict := { owner := .quench, mode := .start, cmp := .notCompared, roleA := s.roleAtK0 st .a, roleB := s.roleAtK0 st .b, vfno := s.hub.fno - 1 }
  let enter (x : LaneId) : Lane := if st.contains x then (s.lane x).enterK0 s u else { s.lane x with phase := 0 }
  let out (s : State) (x : LaneId) (r : Role) : State := if r = .failed then s.laneOff x else s
  let owner := s.lane (st.headD .a)
  let s := { s with
    laneA := enter .a, laneB := enter .b, startup := none
    nv := if owner.cfgFp = 0 then s.nv else { s.nv with heatRan := some (owner.heat.hpCfg, owner.heat.poCfg) }
    ts := { s.ts with mode := .start, verdict := v, giveUpA := false, giveUpB := false }
    hub := { s.hub.portsAtK0 owner with verdict := v, lamp := none } }
  let s := s.setHub fun h => h.setDisp fun d => d.atK0 owner.dispCfg
  out (out s .a v.roleA) .b v.roleB

/-! ### The first frame of a lane -/

/-- Step 1 of k0, after the frame registers: program data and mode (Table PRG-8), loss bounds (R297, R313), alarms
(R365), fuses (R397) and the records of k0 (Table NVS-5). -/
def Lane.k0Work (l : Lane) (nv : NvStore) (sram : List (Nat × List Byte)) : Lane :=
  let r := nv.recall
  let warm := l.get R.SYS.TYPE == 1
  let stream := if warm then r.retain.2.1 else none
  let lr : Lane × Bool := match stream with
    | some b => l.restoreRetained b
    | none => (l, false)
  let l := lr.1
  let run := l.hasProgram && (if warm then lr.2 else l.on R.PRG.AUTORUN)
  let l := if run then l.enterRun (if warm then 1 else 2) else l.markTimers
  let l := l.put R.PRG.RETGEN r.retain.1.gen
  let l := ((l.lossAtK0 r).alarmsAtK0 sram).utcAtK0 sram
  let l : Lane := { l with fuses := { l.fuses with svn := max l.fuses.svn l.sec.image.fwsvn } }
  let l := (l.placeShutdown 2).placeLifetime false
  match r.data 5 1 with
  | some b => if readManifest b = l.sec.manifest then l else l.putManifest l.sec.manifest
  | none => l

end Sys2Proof.Machine
end

