-- ==== Sys2Proof/Machine/Power.lean ====
section
/-! DEFINITION. Supply inputs, hold-up, domains, clocks, shutdown and power return (03_power_clocks_start.md R60 to
R73, 16_time.md R361). The commands of this file are what the hardware monitors report; a monitor that cannot report
in the state at hand changes nothing. -/

namespace Sys2Proof.Machine

/-! ### Inputs and converters (R60, R61, R512) -/

def Power.input (p : Power) : InputId → SupplyInput
  | .in1 => p.in1
  | .in2 => p.in2

def Power.modInput (p : Power) (x : InputId) (f : SupplyInput → SupplyInput) : Power := match x with
  | .in1 => { p with in1 := f p.in1 }
  | .in2 => { p with in2 := f p.in2 }

def Power.anyGood (p : Power) : Bool := p.in1.good || p.in2.good

/-- The boost converter takes over VBUS where no input is left, unless the module is off; a power fail that has been
declared stays, whatever the other input shows (R60, R63). -/
def Power.takeOver (p : Power) : Power := { p with boost := p.boost || (!p.anyGood && !p.off) }

def Power.inputLost (p : Power) (x : InputId) : Power := (p.modInput x fun i => { i with good := false }).takeOver

/-- A good input carries VBUS again: the boost converter is released, and PFAIL clears (R63). -/
def Power.inputGood (p : Power) (x : InputId) : Power :=
  if (p.input x).fault then p else { p.modInput x fun i => { i with good := true } with boost := false, pfail := false }

def Power.converterFault (p : Power) (x : InputId) : Power :=
  (p.modInput x fun i => { i with good := false, fault := true }).takeOver

/-- A retry that fails is remembered for an hour; the third latches the fault. -/
def SupplyInput.retry (i : SupplyInput) (now : Nat) (ok : Bool) : SupplyInput :=
  if !i.fault ∨ i.latched then i
  else if ok then { i with fault := false }
  else
    let ts := now :: i.failed.filter fun t => decide (now < t + 3600000)
    { i with failed := ts, latched := decide (3 ≤ ts.length) }

def Power.converterRetry (p : Power) (x : InputId) (now : Nat) (ok : Bool) : Power := p.modInput x fun i => i.retry now ok

/-- The input has been removed for 1 s and restored. -/
def Power.converterUnlatch (p : Power) (x : InputId) : Power :=
  p.modInput x fun i => if i.latched then { i with latched := false, fault := false, failed := [] } else i

/-- The boost converter has carried VBUS for 20 µs: where the command comes, no input holds VBUS (R60, R63). -/
def Power.powerFail (p : Power) : Power := if p.off then p else { p with boost := true, pfail := true }

/-! ### The status block (R62, R67, R70, R73, Table PWR-3) -/

/-- HOLDMS from BANKV in 10 mV (R62). -/
def holdMs (v : Nat) : Nat := if v ≤ 1000 then 0 else (v * v - 1000000) * 15625 / 38000000

/-- The monitors' values at +0 µs; HOLDRDY and BANKLOW follow the measured bank voltage. -/
def Power.sample (p : Power) (m : SupplyMeas) : Power :=
  { p with meas := m, holdRdy := decide (2600 ≤ m.bankv), bankLow := p.bankLow || (p.boost && decide (m.bankv < 1100)) }

/-- Clocks that are monitored (R70): those of a domain while it is on, a recovered clock while its link is up. -/
def clkMonitored (dom : Nat) (links : Nat → Bool) : BitVec 19 :=
  let on (d : Nat) (m : BitVec 19) : BitVec 19 := if dom.testBit d then m else 0
  let eth : BitVec 19 := (List.range 4).foldl (fun (b : BitVec 19) n => if links n then b ||| (1#19 <<< (11 + n)) else b) 0
  0x58703 ||| on 2 0x44 ||| on 3 0x88 ||| on 4 0x10 ||| on 5 0x20 ||| on 9 0x20000 ||| eth

def Hub.linkUp (h : Hub) (n : Nat) : Bool := decide (h.ports.ethLink.getD n 0 ≠ 0)

def Power.block (p : Power) (h : Hub) : List Word :=
  let b (x : Bool) (n : Nat) : Nat := if x then 2 ^ n else 0
  let m := p.meas
  let sup := b p.bankFlt 8 + b p.holdRdy 7 + b p.bankLow 6 + b p.pfail 4 + b m.in2ac 3 + b m.in1ac 2 + b p.in2.good 1 + b p.in1.good 0
  let clk := clkMonitored p.dom.toNat h.linkUp &&& ~~~p.clkFail
  [sup, m.in1v.toNat + m.in1f.toNat * 65536, m.in2v.toNat + m.in2f.toNat * 65536, m.bankv % 65536 + holdMs m.bankv % 65536 * 65536,
    m.pin.toNat, p.dom.toNat + p.fault.toNat * 65536, clk.toNat + b p.refFall 19].map (.ofNat 32 ·)

/-- BANKLOW in the block of this frame starts the shutdown (R67). -/
def Power.shutdownAt (p : Power) (fno : Nat) : Power :=
  if p.bankLow ∧ p.shutdown = none then { p with shutdown := some fno } else p

/-! ### The block on a lane (Tables PWR-8 to PWR-10) -/

def blockBit (b : List Word) (w n : Nat) : Bool := (b.getD w 0).getLsbD n

/-- PWR and CLK registers marked "from block". -/
def Lane.loadBlockRegs (l : Lane) (b : List Word) : Lane :=
  let w (n : Nat) : Word := b.getD n 0
  let l := (((l.putB R.PWR.BANKFLT (blockBit b 0 8)).putB R.PWR.HOLDRDY (blockBit b 0 7)).putB R.PWR.BANKLOW (blockBit b 0 6)).putB R.PWR.PFAIL (blockBit b 0 4)
  let l := (((l.putB R.PWR.IN2AC (blockBit b 0 3)).putB R.PWR.IN1AC (blockBit b 0 2)).putB R.PWR.IN2GOOD (blockBit b 0 1)).putB R.PWR.IN1GOOD (blockBit b 0 0)
  let l := (((l.setReg R.PWR.IN1V.key (w 1)).setReg R.PWR.IN2V.key (w 2)).setReg R.PWR.BANKV.key (w 3)).setReg R.PWR.PIN.key (w 4)
  let l := (l.put R.PWR.ON (bits (w 5) 9 0)).put R.PWR.FAULT (bits (w 5) 25 16)
  (l.put R.CLK.CLKOK (bits (w 6) 18 0)).putB R.CLK.REFFALL (blockBit b 6 19)

/-- Failed clocks of a block: monitored and out of limit, or declared failed with the fall of their bit, where the
failure took the domain away (DEDUCED, assumption log 34). -/
def blockClkBad (b : List Word) (prev : Option (List Word)) (links : Nat → Bool) (declared : BitVec 19) : BitVec 19 :=
  let ok : BitVec 19 := .ofNat 19 (b.getD 6 0).toNat
  let was : BitVec 19 := match prev with
    | some p => .ofNat 19 (p.getD 6 0).toNat
    | none => 0
  (clkMonitored (b.getD 5 0).toNat links &&& ~~~ok) ||| (was &&& ~~~ok &&& declared)

/-- Events compare with the block of the previous frame; the block of k0 is the baseline (R73). PD_NV faults are
counted by NVS (14_nv_store.md R336). -/
def Lane.blockEvents (l : Lane) (p b : List Word) : Lane :=
  let rose (w n : Nat) : Bool := blockBit b w n && !blockBit p w n
  let fell (w n : Nat) : Bool := blockBit p w n && !blockBit b w n
  let l := ((l.irqIf (rose 0 7) R.PWR.I_HOLDRDY).irqIf (rose 0 6) R.PWR.I_BANKLOW).irqIf (rose 0 4) R.PWR.I_PFAIL
  let l := ((l.irqIf (fell 0 4) R.PWR.I_PFCLR).irqIf (rose 0 0 || rose 0 1) R.PWR.I_INRET).irqIf (fell 0 0 || fell 0 1) R.PWR.I_INLOST
  let l := l.irqIf ((List.range 10).any fun n => rose 5 (16 + n)) R.PWR.I_DOMFLT
  let l := l.irqIf (rose 6 19) R.CLK.I_REFFALL
  let lost := (if fell 0 0 && blockBit b 0 1 then 1 else 0) + (if fell 0 1 && blockBit b 0 0 then 1 else 0)
  let l := if lost = 0 then l else l.inc R.PWR.INLCNT lost
  let l := if rose 0 4 then l.inc R.PWR.PFCNT else l
  l.nvFault (rose 5 24)

/-- The link was up before the frame and no status arrival of the frame says that it went down: its clock was monitored
when the block was sampled, as far as the lane can know (R70). -/
def Lane.linkHeld (l : Lane) (f : InputFrame) (n : Nat) : Bool :=
  l.on (R.ETH.LINK.inst n) && !f.arrivals.any fun a => a.src == 0x10 + n && match a.body with
    | .port (.status (.eth v)) => v % 4 == 0
    | _ => false

def Lane.loadBlock (l : Lane) (f : InputFrame) (b : List Word) (declared : BitVec 19) : Lane :=
  let bad := blockClkBad b l.prevBlock (l.linkHeld f) declared
  let l := l.loadBlockRegs b
  let old := l.get R.CLK.CLKFLT
  let new : Nat := (BitVec.ofNat 19 old ||| bad).toNat
  let l := l.put R.CLK.CLKFLT new
  let l := match l.prevBlock with
    | none => l
    | some p => (l.irqIf (decide (new ≠ old)) R.CLK.I_CLKFLT).blockEvents p b
  { l with prevBlock := some b }

/-- Computations in progress are abandoned, in reduced mode with their period (R64, R207). -/
def Lane.abandonWork (l : Lane) (reduced : Bool) : Lane :=
  let l := l.irqIf (l.solveBusy || l.slv.ready.isSome) R.SOL.I_SKIP
  let l := l.irqIf (l.opt.job.isSome || l.opt.ready.isSome) R.OPT.I_SKIP
  l.solveAbort.dispatchAbort reduced

/-- Reduced mode begins (R64). -/
def Lane.enterReduced (l : Lane) : Lane := { l.abandonWork true with reduced := true }

/-- Without its array a lane stops publishing (R68). -/
def Lane.arrayStep1 (l : Lane) : Lane := if l.arrayFault then l.abandonWork false else l

/-- Reduced mode follows PFAIL of the visible block (R64, R66). -/
def Lane.reducedStep1 (l : Lane) (pfail : Bool) : Lane :=
  let l := l.arrayStep1
  let l := if pfail && !l.reduced then l.enterReduced
    else if !pfail && l.reduced then { l with reduced := false, redEnd := some l.fno }
    else l
  l.putB R.PWR.REDMODE l.reduced

/-! ### A lane loses power by a fault (R68, R70) -/

/-- A transfer into a lane that is gone fails (R128). -/
def State.transferLost (s : State) (x : LaneId) : State :=
  s.setTs fun t => { t with transfer := t.transfer.map fun (r : Transfer) => if r.receiver = x then { r with failed := true } else r }

def State.laneDomFault (s : State) (x : LaneId) : State := (s.laneOff x).transferLost x

/-- Every port link of the hub that depends on a clock goes down (Table PWR-2); a status arrival tells the lanes. -/
def Hub.ethDown (h : Hub) (n : Nat) : Hub :=
  if h.ports.ethLink.getD n 0 = 0 then h
  else
    let h := h.setPorts fun p => { p with ethLink := p.ethLink.set n 0, conns := p.conns.filter fun c => c.port != n
                                          sessions := p.sessions.filter fun x => x.port != n }
    h.portArrival (0x10 + n) 0 (.status (.eth 0))

/-- CK_CAN has failed: the port takes no part on the bus, whatever its settings become. -/
def Hub.canStop (h : Hub) (n : Nat) : Hub :=
  let was := h.can n
  let h := (h.modCan n fun c => { c with stopped := true }).canDrop n 0 4
  if was.mode = 0 then h else h.canReport n 0

def eachOf (n : Nat) (f : Hub → Nat → Hub) (h : Hub) : Hub := (List.range n).foldl f h

/-- The store has lost its supply at a moment the command does not say: a write sequence that stood at this apply instant
stops at a step that is drawn, or has ended (14_nv_store.md R324, R325; assumption log 138). -/
def State.tearStore (s : State) : State :=
  if s.hub.applied && !s.nv.seq.isEmpty then
    let d := s.draw
    { d.2 with nv := s.nv.tear ((Config.freeWord d.1).toNat % (s.nv.seq.length * pageSteps + 1)) }
  else s

/-- PD_IO is gone: the hub is reset, the outputs are in the hardware-off state, and the module restarts with
TRIG 0x7 (R68, R69). -/
def State.ioFault (s : State) : State :=
  let s := s.keepManifest
  let s := { s with hub := { upFrames := s.hub.upFrames, rnfno := s.hub.rnfno, di := s.hub.di, ports := { links := s.hub.ports.links } } }
  s.beginRestart 7

/-- The supervisor switches the domain off (Table PWR-1). PD_BKP is never switched: its fault leaves it on
(assumption log 34). -/
def State.domOff (s : State) (d : Domain) : State :=
  let n := domBit d
  s.setPwr fun p => { p with dom := if d = .bkp then p.dom else p.dom &&& ~~~(1#10 <<< n), fault := p.fault ||| (1#10 <<< n) }

def State.domainFault (s : State) (d : Domain) : State :=
  if s.pwr.off ∨ !s.pwr.isOn (domBit d) then s
  else match d with
    | .bkp => { s.domOff d with cal := { s.cal with osf := true } }
    | .ts => (s.domOff d).touchstoneLoss
    | .la => (s.laneDomFault .a).domOff d
    | .lb => (s.laneDomFault .b).domOff d
    | .cra => s.domOff d
    | .crb => s.domOff d
    | .met => s.domOff d
    | .io => (s.domOff d).ioFault
    | .nv => (s.domOff d).tearStore
    | .dsp =>
      let s := dispPowerOff (s.domOff d)
      let s := if s.hub.disp.rflt then s else dispIrq R.PNL.I_RFLT s
      s.setHub fun h => h.setDisp fun d => { d with rflt := true, faultAt := h.upFrames }

/-- A lane holds the store for unavailable: a second fault within 10 s, until the next start-up (14_nv_store.md R336). -/
def State.nvUnavail (s : State) : Bool := s.laneA.on R.NVS.UNAVAIL || s.laneB.on R.NVS.UNAVAIL

/-- PD_MET is re-powered at most three times in any hour, PD_NV unless the store is unavailable; nothing else
re-powers a faulted domain here. -/
def State.domainRepower (s : State) (d : Domain) : State :=
  let n := domBit d
  let now := s.hub.upFrames
  if s.pwr.off ∨ s.pwr.isOn n ∨ !s.pwr.fault.getLsbD n then s
  else match d with
    | .met =>
      let ts := s.pwr.metRepower.filter fun t => decide (now < t + 3600000)
      if 3 ≤ ts.length then s else s.setPwr fun p => { p.setDom n true with metRepower := now :: ts }
    | .nv => if s.nvUnavail then s else s.setPwr fun p => p.setDom n true
    | _ => s

/-! ### Clock failures (R70, R71) -/

def State.clkMon (s : State) (n : Nat) : Bool := (clkMonitored s.pwr.dom.toNat s.hub.linkUp).getLsbD n

def State.clkAction (s : State) (n : Nat) : State :=
  if n = 0 then { s with cal := { s.cal with osf := true } }
  else if n = 1 then s.touchstoneLoss
  else if n = 4 then s.domainFault .cra
  else if n = 5 then s.domainFault .crb
  else if n = 8 then s.setPwr fun p => { p with refFall := true }
  else if n = 10 then s.setHub (eachOf 4 Hub.ethDown)
  else if 11 ≤ n ∧ n ≤ 14 then s.setHub fun h => h.ethDown (n - 11)
  else if n = 16 then s.setHub (eachOf 4 Hub.canStop)
  else if n = 17 then s.setHub fun h => h.setDisp fun d => { d with blanked := true, backlight := false }
  else if n = 18 then s.domainFault .nv
  else s

/-- A monitored clock is declared failed; `n` = 19 stands for the case of R71 in which neither oscillator can be
blamed: both stay in use. -/
def State.clockFailure (s : State) (n : Nat) : State :=
  if s.pwr.off then s
  else if n = 19 then s.setPwr fun p => { p with clkFail := p.clkFail ||| 0x102 }
  else if 18 < n ∨ !s.clkMon n ∨ s.pwr.clkFail.getLsbD n then s
  else (s.setPwr fun p => { p with clkFail := p.clkFail ||| (1#19 <<< n) }).clkAction n

/-! ### Shutdown and power return (R67, R79, R361) -/

/-- The backup domain changes over to the coin cell: its interface is locked and a HALT is cancelled. -/
def Calendar.toCell (c : Calendar) : Calendar := { c.cancelHalt with locked := true, onCell := true }

/-- The power sequencer has switched every domain off but PD_BKP, which runs from the coin cell. -/
def State.powerDown (s : State) : State :=
  let s := s.keepManifest
  { s with
    pwr := { in1 := s.pwr.in1, in2 := s.pwr.in2, meas := s.pwr.meas, dom := s.pwr.dom &&& 1, fault := s.pwr.fault &&& 1
             bankFlt := s.pwr.bankFlt, off := true }
    laneA := s.laneA.fresh, laneB := s.laneB.fresh
    hub := { di := s.hub.di, ports := { links := s.hub.ports.links } }
    ts := {}
    startup := none
    nv := { s.nv with nandLock := 0 }
    cal := s.cal.toCell }

/-- BACKUP_SWITCH_TO_CELL: with no good input this is a loss of VBUS that the bank cannot bridge, and the module
loses power without a shutdown (R361). -/
def State.switchToCell (s : State) : State :=
  if s.pwr.off ∨ s.pwr.anyGood then { s with cal := s.cal.toCell } else s.tearStore.powerDown

def State.switchToVdd (s : State) : State := if s.pwr.off then s else { s with cal := { s.cal with onCell := false } }
def State.unlockBackup (s : State) : State := if s.cal.onCell then s else { s with cal := { s.cal with locked := false } }

/-- Converter latches go with a power return (R512); power returns through at least one input (assumption log 35). -/
def Power.returned (p : Power) : Power :=
  let keep (i : SupplyInput) : SupplyInput := { good := i.good }
  { in1 := if p.anyGood then keep p.in1 else { good := true }, in2 := keep p.in2, dom := p.dom ||| 1, bankFlt := p.bankFlt, off := false }

/-- Power returns: phase 1 begins. How long the module was off is the environment's: a free value advances the
calendar (assumption log 35). -/
def State.powerReturn (s : State) : State :=
  if !s.pwr.off then s
  else
    let away := (Config.freeWord s.free).toNat * 32768 + (Config.freeWord (s.free + 1)).toNat % 32768
    { s with
      pwr := s.pwr.returned
      laneA := s.laneA.fresh, laneB := s.laneB.fresh
      hub := { di := s.hub.di, ports := { links := s.hub.ports.links } }
      ts := {}
      startup := some { phase := 1 }
      cal := s.cal.run away
      free := s.free + 2 }

end Sys2Proof.Machine
end

