-- ==== Sys2Proof/Machine/FrameIn.lean ====
section
/-! DEFINITION. The hub's side of a frame up to its close: frame start, digital and pulse inputs, arrivals and the
closed input frame (01_architecture.md R21 to R26, 04_frame.md R86 to R97, R509, 20_rogon_fabric.md R434). -/

namespace Sys2Proof.Machine

/-! ### The output frame of a lane (R28, R102) -/

def entryLt (a b : OutEntry) : Bool := decide (a.cls < b.cls) || (a.cls == b.cls && decide (a.dest < b.dest))

/-- Entry order: class, destination, production order. -/
def outInsert (e : OutEntry) : List OutEntry → List OutEntry
  | [] => [e]
  | b :: l => if entryLt e b then e :: b :: l else b :: outInsert e l

def outSort (es : List OutEntry) : List OutEntry := es.foldl (fun l e => outInsert e l) []

/-- Entries that fit 1 048 576 bytes with the header, and those left out with what follows them to the same class and
destination. -/
def outFit : List OutEntry → Nat → List (Nat × Nat) → List OutEntry × List OutEntry
  | [], _, _ => ([], [])
  | e :: l, n, shut =>
    if shut.contains (e.cls, e.dest) ∨ 1048576 < n + e.size then
      let r := outFit l n ((e.cls, e.dest) :: shut)
      (r.1, e :: r.2)
    else
      let r := outFit l (n + e.size) shut
      (e :: r.1, r.2)

def assembleOut (es : List OutEntry) : List OutEntry × List OutEntry := outFit (outSort es) 32 []

/-- The output frame of the lane is assembled; what is placed from now on belongs to the next one. -/
def Lane.closeOut (l : Lane) : Lane :=
  let r := assembleOut l.out
  { l with lastOut := r.1, leftOut := r.2, out := [], nv := { l.nv with sent := outReqs l.out, placed := [] } }

/-- The end of a lane's frame: page openings close (R47), and the record of events set in it ends (R46). A lane that ran
the frame and answered for it in no way has assembled its output frame all the same. -/
def Lane.frameOver (l : Lane) : Lane :=
  let l : Lane := { l with irqSet := [], opened := [] }
  if l.ranFrame && l.hb.isNone && !l.inloss then l.closeOut else l

/-! ### The timebase (R86, R88, R91) -/

/-- Length of the frame that starts now. -/
def State.frameLength (s : State) : Nat :=
  match s.active with
  | some l => frameLen s.hub.clk.sync (l.get R.FRAME.SLEW) (phaseOf s.hub.clk.ns)
  | none => frameLen s.hub.clk.sync 500 (phaseOf s.hub.clk.ns)

/-- The local clock over the frame that ends; without an owner it runs free at its rate. -/
def State.tickClock (s : State) : LocalClock :=
  let c := s.hub.clk
  match s.active with
  | some l => c.tick (servoCfg l) s.hub.flen
  | none => c.advance s.hub.flen

/-- Cycles of CK_BKP in the frame that ends, 32 768 in 1 000 frames. -/
def bkpCycles (u : Nat) : Nat := 32768 * (u + 1) / 1000 - 32768 * u / 1000

/-- The next frame of a running hub: its number, its clock, and the calendar, which loads a staged set (R358). -/
def State.nextFrame (s : State) : State :=
  let clk := s.tickClock
  let s := { s with
    cal := (s.cal.run (bkpCycles s.hub.upFrames)).load
    hub := { s.hub with fno := s.hub.fno + 1, upFrames := s.hub.upFrames + 1, tb := s.hub.tb + s.hub.flen, flenPrev := s.hub.flen, clk } }
  { s with hub := { s.hub with flen := s.frameLength } }

/-! ### What happens with the frame (R81, R130, R131) -/

/-- Frames a lane of a lane reset has been OFF; it is re-powered after ten (Table TST-5). -/
def State.laneRepower (s : State) (x : LaneId) : State :=
  match s.ts.rstOff x with
  | some n => if 10 ≤ n ∧ !s.pwr.isOn (laneDom x) ∧ s.ts.role x = .off ∧ !s.ts.lost then s.laneOn x else s
  | none => s

/-- Touchstone's counts of frames: ages advance in every frame from k0 on (R131). -/
def State.tsFrame (s : State) : State :=
  let up (n : Option Nat) : Option Nat := n.map (· + 1)
  let t := if s.startup.all fun u => u.k0 == some s.hub.fno then s.ts.ageAll else s.ts
  let s := { s with ts := { t with rstOffA := up t.rstOffA, rstOffB := up t.rstOffB } }
  (s.laneRepower .a).laneRepower .b

/-- Start-up: k0 is named, and begins. -/
def State.startupFrame (s : State) : State :=
  let s := if s.pwr.isOn 1 then s.startFrame.readyTimeout else s
  match s.startup with
  | some u => if u.k0 = some s.hub.fno then s.atK0 u else s
  | none => s

/-! ### State transfer (R126 to R128) -/

/-- Lane-local registers stay with their lane (R126). -/
def Lane.keepLocal (src own : Lane) : Lane :=
  own.regs.foldl (fun (l : Lane) (p : Nat × Word) =>
    let m : Word := .ofNat 32 (llMask (p.1 / 0x1000) (p.1 % 0x1000))
    l.setReg p.1 ((l.reg p.1 &&& ~~~m) ||| (p.2 &&& m)))
    (src.regs.foldl (fun (l : Lane) (p : Nat × Word) =>
      let m : Word := .ofNat 32 (llMask (p.1 / 0x1000) (p.1 % 0x1000))
      l.setReg p.1 ((l.reg p.1 &&& ~~~m) ||| (resetWord p.1 &&& m))) src)

/-- The receiving lane with the state set of its source; fuses, its self-test's progress, its debug writes and the
lane-local registers are its own. -/
def Lane.received (src own : Lane) : Lane :=
  let l := src.keepLocal own
  let l := (List.range 8).foldl (fun (l : Lane) n => l.put (R.ENG.STATE.inst n) 1) l
  { l with
    id := own.id, fuses := own.fuses, mem := own.mem, running := true, phase := 0
    asy := { src.asy with unit := own.asy.unit, seg := own.asy.seg, errs := own.asy.errs, retest := own.asy.retest, targeted := none }
    delivered := none, hb := none, laneflt := false, deadlineFlt := false, asyfail := false, inloss := false, restart := src.restart
    slv := { src.slv with job := none }, opt := { src.opt with job := none } }

/-- The final pass of the frame before ends: the receiver runs this frame. -/
def State.rejoin (s : State) : State :=
  match s.ts.transfer with
  | some x =>
    if x.phase = 3 ∧ x.final ∧ x.rejoin = s.hub.fno ∧ !x.failed then
      let src := s.lane x.receiver.other
      let s := s.setLane x.receiver (src.received (s.lane x.receiver))
      s.setTs fun t => { t with transfer := some { x with phase := 4 } }
    else s
  | none => s

/-- Phases 1 to 3 exceed 10 s (R128). -/
def State.transferTimeout (s : State) : State :=
  s.setTs fun t => { t with transfer := t.transfer.map fun (x : Transfer) =>
    if 1 ≤ x.phase ∧ x.phase ≤ 3 ∧ x.started + 10000 ≤ s.hub.fno then { x with failed := true } else x }

/-! ### Samples at +0 µs -/

/-- Link n is enabled; without an active lane the switch keeps what it was (R445; DEDUCED, assumption log 120). -/
def State.linkEn (s : State) (n : Nat) : Bool := match s.active with
  | some l => l.fab.linken.getLsbD n && l.enabled (0x3D + n)
  | none => s.hub.ports.linkEn.getLsbD n

/-- State of link n (R433). -/
def State.linkBits (s : State) (n : Nat) : BitVec 4 :=
  let k := s.hub.ports.links.getD n {}
  let en := s.linkEn n
  let up := en && k.sfp && k.pwr && k.block && !s.pwr.clkFail.getLsbD 15
  (if k.pwr then 1#4 else 0) ||| (if k.sfp then 2#4 else 0) ||| (if k.block then 4#4 else 0) ||| (if up then 8#4 else 0)

/-- A changed link places a status arrival (R434). Until k0 no lane takes it, and the first sample after k0 tells it. -/
def State.sampleLink (s : State) (n : Nat) : State :=
  let b := if s.startup.isSome then 0 else s.linkBits n
  if b = (s.hub.ports.links.getD n {}).told then s
  else s.setHub fun h =>
    let h := h.setPorts fun p => { p with links := p.links.modify n fun k => { k with told := b } }
    h.portArrival (0x14 + n) 0 (.fabStatus (b.getLsbD 0) (b.getLsbD 1) (b.getLsbD 2) (b.getLsbD 3))

/-- Analog inputs, the status block and the verdict of the frame before (Table ARC-3, R73, R114). A current above
24 mA reads 24 000 µA (23_physical.md R496). -/
def State.analogArrival (s : State) (m : SupplyMeas) : State :=
  let ai := (List.range 8).map fun i => min (m.ai.getD i 0) 24000
  s.setHub fun h => h.complete 0x01 52 35000 (.analog ai (s.pwr.block s.hub) s.hub.verdict)

/-- The status of the supplies and clocks as the hub latches it. -/
def State.samplePower (s : State) (m : SupplyMeas) : State := s.setPwr fun p => (p.sample m).shutdownAt s.hub.fno

/-- The hub's part at the start of a frame, its number being set. -/
def State.frameBegin (s : State) (m : SupplyMeas) : State :=
  let s := s.setHub fun h => { h with closed := none, applied := false, ports := { h.ports with sent := [] } }
  let s := { s with laneA := s.laneA.frameOver, laneB := s.laneB.frameOver }
  let s := (s.samplePower m).tsFrame.rejoin.transferTimeout
  let s := s.startupFrame
  let s := (List.range 4).foldl State.sampleLink s
  let s := onLanes (fun l => (l.showClock s.hub.clk).showTsq) s
  let fresh (l : Lane) : Lane := { l with ranFrame := false, delivered := none, hb := none }
  { s with laneA := fresh s.laneA, laneB := fresh s.laneB }.analogArrival m

/-- FRAME_START. A restart accepted in the frame before begins first; in phase 1 the first frame starts the hub, and while
it waits for the unlock a ms passes (R366, assumption log 136). -/
def State.frameStart (s : State) (m : SupplyMeas) : State :=
  if s.pwr.off then s
  else
    let s := match s.restartAsked with
      | some r => s.beginRestart r.trig
      | none => s
    if s.hub.running then s.nextFrame.frameBegin m
    else if !s.startup.any fun u => u.phase == 1 && !u.stopped then s
    else if s.mayStart then s.startFrames.frameBegin m
    else { s with startup := s.startup.map fun u => { u with waited := u.waited + 1 } }

/-! ### Digital and pulse inputs (R509, Table TIM-3) -/

/-- Edges of one arrival and of the queue behind it. -/
def edgeRoom : Nat := 21 + 84

/-- Order of entry; edges of one CK_PTP cycle in ascending DIN. -/
def edgeInsert (e : DiEdge) : List DiEdge → List DiEdge
  | [] => [e]
  | b :: l => if e.ns < b.ns ∨ (e.ns = b.ns ∧ e.din < b.din) then e :: b :: l else b :: edgeInsert e l

/-- An edge enters `t` ns after the frame start; its stamp gives the time at the connector. -/
def Hub.diEdge (h : Hub) (din : Nat) (level : Bool) (t : Int) : Hub :=
  if 32 ≤ din then h
  else
    let h := { h with di := withBits h.di din din (if level then 1 else 0) }
    if !h.running then h
    else if edgeRoom ≤ h.edges.length then { h with edrop := min 65535 (h.edrop + 1) }
    else { h with edges := edgeInsert { din, level, ns := h.tb + ptpCycle t - 20000 } h.edges }

def Hub.pulseCount (h : Hub) (n : Nat) : Hub :=
  if h.running then { h with pcnt := h.pcnt.modify n (· + 1) } else h

/-- +35 µs: the source 0x02 arrival, one in a frame. -/
def Hub.closeDigital (h : Hub) : Hub :=
  if !h.running ∨ h.closed.isSome ∨ (h.waiting.any fun a => a.src == 0x02) then h
  else
    let es := (h.edges.take 21).map fun e => { e with ns := e.ns - h.tb }
    let h' := { h with edges := h.edges.drop 21, edrop := 0 }
    h'.complete 0x02 (72 + 8 * es.length) 35000 (.digital h.di h.pcnt es h.edrop)

/-! ### Other arrivals (R23, R31, R414, R440, R465) -/

def reportLen : LaneReport → Nat
  | .salt v => v.length
  | .tsalt v => v.length
  | .page _ _ _ d => 4 + d.length
  | .verification _ _ => 116
  | .assay _ => 16

/-- The salts of a start-up, which the active lane's E1 hands over by itself (R440, R465). -/
def saltReport : LaneReport → Bool
  | .salt _ => true
  | .tsalt _ => true
  | _ => false

/-- A lane's report reaches E1 of the active lane, which hands it over; both lanes act at step 2 of its frame. A repair takes
effect in its lane whether or not Touchstone forwards the report (R414). -/
def State.assayReported (s : State) (t : Int) (r : AssayReport) : State :=
  let s := if r.typ = 1 then onRunningLane r.lane (fun l => l.ownRepair r.array (r.addr / arrayRow r.array)) s else s
  if s.ts.lost ∨ s.activeId.isNone ∨ !s.hub.running then s else s.setHub fun h => h.handOver 16 t (.lane (.assay r))

/-- The verification report of lane `x` (17_security.md R400): what its E0 finds, and what a failing unit makes of it. -/
def State.verReport (s : State) (x : LaneId) (f : VerFault) : VerReport :=
  let l := s.lane x
  let r := l.verReport s.nv (s.ts.role x == .standby) (l.sectionsCode s.nv l.sec.utgt)
  { r with code := if r.code = 0 then f.code else r.code, digest := (r.digest.zip (sliceB f.upset 0 48)).map fun p => p.1 ^^^ p.2 }

/-- Touchstone passes both reports of a verification to the active lane's E1, which hands them over (17_security.md R400);
both lanes decide at step 2 of the arrival's frame. -/
def State.verReported (s : State) (t : Int) (a b : VerFault) : State :=
  if s.ts.lost ∨ s.activeId.isNone ∨ !s.hub.running ∨ !s.laneA.running ∨ !s.laneB.running ∨ s.laneA.sec.ustate ≠ .verifying
      ∨ s.laneB.sec.ustate ≠ .verifying then s
  else s.setHub fun h => h.handOver 116 t (.lane (.verification (s.verReport .a a) (s.verReport .b b)))

/-- The window as the front end sends it: RTD results in that of WNO mod 100 = 99 alone (R302), and not valid where its clock
has failed (03_power_clocks_start.md Table PWR-2). -/
def Power.window (p : Power) (w : MetWindow) : MetWindow :=
  { w with rtd := rtdResults w, valid := w.valid && !p.clkFail.getLsbD 9 }

/-- Payload of a metering window (Table MET-2). -/
def windowLen (w : MetWindow) : Nat := 20 + 80 * 128 + (if w.rtd.isSome then 128 else 0)

/-- Page of the port a source belongs to. -/
def portPage (src : Nat) : Nat := if src ≤ 0x13 then 0x38 + (src - 0x10) else if src ≤ 0x17 then 0x3D + (src - 0x14) else if src ≤ 0x1B then 0x44 + (src - 0x18)
  else if src ≤ 0x1F then 0x48 + (src - 0x1C) else 0x4C + (src - 0x20)

/-- The data rate of autobaud is that of the first FD frame with BRS after the lock: which of the listed rates it has, the
command does not say, and it is drawn (R471; assumption log 121). -/
def State.canDataRate (s : State) (n : Nat) (data : List Byte) : State :=
  let c := s.hub.can n
  match c.abLock with
  | some (nbr, 0) =>
    if c.mode = 3 ∧ u8At data 4 % 4 = 3 then
      let d := s.draw
      let rate := [1000, 2000, 4000, 5000].getD ((Config.freeWord d.1).toNat % 4) 1000
      d.2.setHub fun h => (h.modCan n fun c => { c with abLock := some (nbr, rate) }).canReport n 0
    else s
  | _ => s

/-- A frame the hub discards on Ethernet port `n` (R455). -/
def State.rxDrop (s : State) (n : Nat) : State := onLanes (fun l => l.inc (R.ETH.RXDROP.inst n)) s

/-- A UDP datagram, with its IPv4 and UDP headers, that becomes an arrival: for the port's own address, within the MTU, to
TGPORT of the telegram service or a port of a queue binding (R455). -/
def Lane.udpTakes (l : Lane) (n : Nat) (b : List Byte) : Bool :=
  (l.ports.eth[n]?).any (fun e => u32At b 16 == e.ip.toNat) && decide (b.length ≤ 1500) && u8At b 0 / 16 == 4
    && ((l.ports.eth[n]?).any (fun e => e.services.getLsbD 1 && e.tgport == udpDport b)
      || l.ports.bindings.any fun q => q.src == 0x10 + n && q.stream == 3 && q.port == udpDport b)

/-- What waits in the port queues is sent as far as its ports allow. -/
def State.pumpAt (s : State) (t : Int) : State := match s.active with
  | some l => s.setHub fun h => h.pump l (h.usAt t) 64
  | none => s

/-- A unit completes at port `src`: a CAN filter, a request's timer, or the port itself takes it. A late response is
discarded and counted in the port's TOUT count (R456); a collision on an M-Bus is discarded and counted (R473). -/
def State.portUnitIn (s : State) (src : Nat) (t : Int) (data : List Byte) : State :=
  match s.active with
  | none => s
  | some l =>
    if !l.enabled (portPage src) then s
    else if 0x18 ≤ src ∧ src ≤ 0x1B then (s.canDataRate (src - 0x18) data).setHub fun h => h.canReceive l src t data
    else if 0x20 ≤ src ∧ !mbusAnswer data then
      onLanes (fun l => (l.inc (R.MB.COLL.inst (src - 0x20))).irq (R.MB.I_COLL.inst (src - 0x20))) s
    else if 0x1C ≤ src then
      let r := s.hub.response src t data
      let s := { s with hub := r.1 }
      if r.2 ∧ src ≤ 0x1F then onLanes (fun l => (l.inc (R.SER.TOUT.inst (src - 0x1C))).irq (R.SER.I_TOUT.inst (src - 0x1C))) s else s
    else if 0x13 < src then s
    else if l.udpTakes (src - 0x10) data then s.setHub fun h => h.portArrival src t (.unit 0xFFFF data) else s.rxDrop (src - 0x10)

/-- A status arrival says what the port has become, a growing receive error count that a frame had an error; an outcome frees
the frame's transmit buffer. -/
def Hub.notePort (h : Hub) (src : Nat) (b : PortBody) : Hub := match b with
  | .status (.eth v) => if 0x10 ≤ src ∧ src ≤ 0x13 then h.setPorts fun p => { p with ethLink := p.ethLink.set (src - 0x10) (v % 4) } else h
  | .status (.can st tec rec_ fd ab nb db) =>
    if 0x18 ≤ src ∧ src ≤ 0x1B then
      h.modCan (src - 0x18) fun c => { c with
        state := st % 4, txc := tec, rxc := rec_, fdSeen := fd, abLock := if ab then some (nb, db) else none
        abGood := if c.rxc < rec_ then 0 else c.abGood }
    else h
  | .outcome stn _ => if 0x18 ≤ src ∧ src ≤ 0x1B then h.modCan (src - 0x18) fun c => { c with tx := c.tx.erase stn } else h
  | .status (.mbus on ovc ibus) => if 0x20 ≤ src then h.modMb (src - 0x20) fun m => { m with on, ovc, ibus } else h
  | .fabStatus pwr sfp block up =>
    if 0x14 ≤ src ∧ src ≤ 0x17 then
      let told : BitVec 4 := (if pwr then 1#4 else 0) ||| (if sfp then 2#4 else 0) ||| (if block then 4#4 else 0) ||| (if up then 8#4 else 0)
      h.setPorts fun p => { p with links := p.links.modify (src - 0x14) fun k => { k with pwr, sfp, block, told } }
    else h
  | _ => h

def State.arrivalComplete (s : State) (src : Nat) (t : Int) (c : ArrContent) : State :=
  if !s.hub.running then s
  else match c with
    | .met w =>
      if src ≠ 0x03 ∨ !s.pwr.isOn 6 then s
      else s.setHub fun h => h.complete 0x03 (windowLen (s.pwr.window w)) t (.metering (s.pwr.window w))
    | .lane r =>
      if src ≠ 0x04 then s
      else match r with
        | .assay r => s.assayReported t r
        | .verification _ _ => s.verReported t {} {}
        | r => if s.activeId.isNone ∨ saltReport r then s else s.setHub fun h => h.handOver (reportLen r) t (.lane r)
    | .port b =>
      if src < 0x10 ∨ 0x21 < src then s
      else match b with
        | .unit _ data => (s.portUnitIn src t data).pumpAt t
        | .adu conn svc data => s.active.elim s fun l => s.setHub fun h => h.aduIn l src t conn svc data
        | b => (s.setHub fun h => (h.notePort src b).portArrival src t b).pumpAt t

/-! ### The close (R21, R22, R96, R356) -/

def State.closeFrame (s : State) : State :=
  if !s.hub.running ∨ s.hub.closed.isSome ∨ s.hub.applied then s
  else
    let cal := s.cal.readAt20
    let r := assign s.hub.waiting [] []
    let h := s.hub
    let as := r.1.map fun a => a.inFrame h.tb
    let tr : Trailer := { fno := h.fno, acnt := as.length, nt := h.clk.ns, sync := h.clk.sync, calq := cal.calq, cal := cal.reading, flen := h.flen, acrc := arrivalCrc as }
    { s with cal, hub := { h with waiting := r.2, closed := some { trailer := tr.sealed, arrivals := as } } }

/-- CALENDAR_READING: the hub's reading of the calendar at +20 µs (R356). -/
def State.readCalendar (s : State) : State := if s.hub.running then { s with cal := s.cal.readAt20 } else s

end Sys2Proof.Machine
end

