-- ==== Sys2Proof/Machine/Sessions.lean ====
section
/-! DEFINITION. Vangilo Link sessions: opening, register transactions, subscriptions and their end, and the debug
function (02_register_pages.md R53 to R58, 17_security.md R402 to R405, 21_field_ports.md R461, R462). Sessions are
terminated by E1 of the active lane. -/

namespace Sys2Proof.Machine

/-! ### Sessions -/

/-- The lane whose E1 terminates sessions: the active lane while it runs frames. -/
def State.server (s : State) : Option Lane := s.active.filter fun l => l.running

/-- What a transaction names its session by until it is answered: its number, 0 to 7, and which opening it is (R56). -/
def Session.key (t : Session) : Nat := t.ident + 8 * t.gen

def Hub.session (h : Hub) (x : Nat) : Option Session := h.ports.sessions.find? fun t => t.ident == x
def Hub.modSession (h : Hub) (x : Nat) (f : Session → Session) : Hub :=
  h.setPorts fun p => { p with sessions := p.sessions.map fun t => if t.ident = x then f t else t }

/-- A message of the session has arrived. -/
def Hub.heard (h : Hub) (x : Nat) : Hub := h.modSession x fun t => { t with lastAt := h.upFrames }

/-- The calendar shadow of a reader goes with it (16_time.md R357). -/
def State.dropShadows (s : State) (reader : Nat) : State :=
  { s with laneA := s.laneA.dropShadow reader, laneB := s.laneB.dropShadow reader }

/-- The session ends. -/
def State.closeSession (s : State) (x : Nat) : State :=
  if (s.hub.session x).isNone then s
  else (s.dropShadows (8 + x)).setHub fun h => h.setPorts fun p =>
    { p with sessions := p.sessions.filter (fun t => t.ident != x), waits := p.waits.filter fun w => w.session != x }

/-! ### Opening (R402, Table SEC-1) -/

def portService : Nat := 4

/-- The certificate is within its validity, as far as the module has a calendar, and no serial is revoked. -/
def Lane.certFresh (l : Lane) (c : ClientCert) : Bool :=
  (!l.on R.FRAME.CALVALID || (decide (c.notBefore ≤ l.get R.RTC.CALSEC) && decide (l.get R.RTC.CALSEC ≤ c.notAfter)))
    && !c.serials.any fun n => l.sec.revoked.contains n

/-- TLS_AES_256_GCM_SHA384, secp384r1 and ecdsa_secp384r1_sha384 of TLS 1.3, with no pre-shared key, early data or
resumption. -/
def tlsOk (o : TlsOffer) : Bool :=
  o.version == 0x0304 && o.suite == 0x1302 && o.group == 0x0018 && o.scheme == 0x0503 && !o.psk && !o.early

/-- A chain of at most one intermediate that ends at slot 5. -/
def Lane.ownerCert (l : Lane) (c : ClientCert) : Bool :=
  c.present && c.ownerSigned && decide (1 ≤ c.chain) && decide (c.chain ≤ 2) && l.certFresh c

/-- The role a handshake on `port` yields, none where it fails. A factory session of a BLANK module has all
rights. -/
def Lane.handshake (l : Lane) (port : Nat) (c : ClientCert) : Option SessRole :=
  let serv := port == portService
  if !tlsOk c.offer then none
  else if l.lifeCycle = 0 then (if serv then some .security else none)
  else if l.lifeCycle = 1 then (if serv && c.present && c.selfSigned && l.certFresh c then some .view else none)
  else if l.lifeCycle = 4 then (if serv && l.ownerCert c then some .view else none)
  else if serv && l.lifeCycle == 2 && l.sec.secFlags.getLsbD 2 then none
  else if l.ownerCert c then some c.role
  else none

/-- Vangilo Link is served on the port. -/
def Lane.linkPort (l : Lane) (h : Hub) (port : Nat) : Bool :=
  if port = portService then !h.ports.sessions.any fun t => t.port == portService
  else decide (port < 4) && l.enabled (0x38 + port) && h.linkUp port
    && (l.ports.eth[port]?).any fun e => e.services.getLsbD 0

/-- The certificate the module presents for slot 2, none before PROVISION gives it a key: the factory's records LCS 2 to 5,
or in FIELD_DEBUG the test identity's (R378, R382). -/
def Lane.deviceCert (l : Lane) (nv : NvStore) : Option (List Byte) :=
  if l.lifeCycle = 0 then none
  else if l.lifeCycle = 3 then some Config.testCert
  else some ([2, 3, 4, 5].flatMap fun r => ((nv.record 5 r).data).getD [])

/-- At most eight sessions are open: their numbers are 0 to 7. -/
def State.openSession (s : State) (x port : Nat) (c : ClientCert) : State :=
  match s.server with
  | none => s
  | some l =>
    if 8 ≤ x ∨ (s.hub.session x).isSome ∨ !l.linkPort s.hub port then s
    else match l.handshake port c with
      | none => s
      | some role => (s.dropShadows (8 + x)).setHub fun h => h.setPorts fun p =>
        { p with opens := p.opens + 1, sessions := p.sessions ++ [{ ident := x, port, role, lastAt := h.upFrames, gen := p.opens }]
                 sent := p.sent ++ ((l.deviceCert s.nv).map fun c => Sent.serverCert x c).toList }

/-! ### Transactions -/

/-- The message of an open session reaches the E1 that serves it; anything else is no event of the block. -/
def State.onSession (s : State) (x : Nat) (f : Lane → Session → State → State) : State :=
  match s.server, s.hub.session x with
  | some l, some t => f l t (s.setHub fun h => h.heard x)
  | _, _ => s

def State.refuse (s : State) (x tag code : Nat) : State := s.setHub fun h => h.sent (.refuse x tag (.ofNat 16 code))

/-- Checks of every transaction: 1 to 256 entries, and at most four unanswered (R53, R57, R462). -/
def transCode (t : Session) (n : Nat) : Nat := if 4 ≤ t.open_.length then 0xFF08 else if n = 0 ∨ 256 < n then 0xFF09 else 0

/-- Room for an arrival of source 0x04 with `len` bytes of payload (R55). -/
def Hub.room04 (h : Hub) (len : Nat) : Bool := decide (sizeOfSrc 0x04 h.waiting + (12 + pad4 len) ≤ 4 * srcQuota 0x04)

def Hub.openTag (h : Hub) (x tag : Nat) : Hub := h.modSession x fun t => { t with open_ := t.open_ ++ [tag] }

/-- Payload of the arrival of a write transaction: with its 12-byte header it is 16 + 12 × n bytes, and 8 for each guard
(R53). -/
def writeLen (es : List WriteEntry) : Nat := 4 + 12 * es.length + 8 * (es.countP fun e => e.guard.isSome)

def State.writeTrans (s : State) (x tag : Nat) (t : Int) (es : List WriteEntry) (entropy : List Byte) : State :=
  s.onSession x fun _ ss s =>
    let code := transCode ss es.length
    if code ≠ 0 then s.refuse x tag code
    else if !s.hub.room04 (writeLen es) then s.refuse x tag 0xFF0F
    else s.setHub fun h => (h.handOver (writeLen es) t (.write ss.key tag ss.role es entropy)).openTag x tag

/-- A value an external read of ERRC returned: E1 passes its clear behind what it handed over before (R58). -/
def Hub.passClear (h : Hub) (a w : Word) : Hub :=
  if h.room04 8 then (h.handOver 8 0 (.rcClear a w)).setPorts fun p => { p with rcPend := p.rcPend ++ [(a, w)] } else h

/-- One address of a read transaction, answered from the active lane `o`. A VIEW session's read of an RC register clears
nothing and reports DENIED, whatever value it returns (R403). -/
def State.readOne (s : State) (o : LaneId) (x : Nat) (role : SessRole) (a : Word) : State × (Word × Half) :=
  let r := Lane.sessionRead s.hub s.nv (s.lane o) (8 + x) s.hub.ports.rcPend a
  let s := s.setLane o r.2.2.2
  if role = .view ∧ r.2.1 = 0 ∧ addrKey a % 0x1000 = 0x01C then (s, r.1, .ofNat 16 (addrKey a / 0x1000 * 256 + 0x0D))
  else match r.2.2.1 with
    | none => (s, r.1, .ofNat 16 (fullStatus a r.2.1))
    | some (c, w) => (s.setHub fun h => h.passClear c w, r.1, .ofNat 16 (fullStatus a r.2.1))

def State.readAll (s : State) (o : LaneId) (x : Nat) (role : SessRole) : List Word → State × List (Word × Half)
  | [] => (s, [])
  | a :: l =>
    let r := s.readOne o x role a
    let q := State.readAll r.1 o x role l
    (q.1, r.2 :: q.2)

def State.answerRead (s : State) (o : LaneId) (x tag fno : Nat) (role : SessRole) (addrs : List Word) : State :=
  let r := s.readAll o x role addrs
  r.1.setHub fun h => h.sent (.readAnswer x tag fno r.2)

def State.readTrans (s : State) (x tag : Nat) (addrs : List Word) : State :=
  s.onSession x fun l ss s =>
    let code := transCode ss addrs.length
    if code ≠ 0 then s.refuse x tag code else s.answerRead l.id x tag 0 ss.role addrs

/-- It waits for the apply instant of the first frame that starts after it (R57). -/
def State.readFrame (s : State) (x tag : Nat) (addrs : List Word) : State :=
  s.onSession x fun _ ss s =>
    let code := transCode ss addrs.length
    if code ≠ 0 then s.refuse x tag code
    else s.setHub fun h => (h.openTag x tag).setPorts fun p => { p with waits := p.waits ++ [⟨x, tag, ss.role, addrs, h.fno + 1⟩] }

/-- The transaction is answered. -/
def Hub.closeTag (h : Hub) (x tag : Nat) : Hub := h.modSession x fun t => { t with open_ := t.open_.erase tag }

/-- The waiting reads of this frame (R57). -/
def State.answerWaits (s : State) (o : LaneId) : State :=
  let due := s.hub.ports.waits.filter fun w => decide (w.fno ≤ s.hub.fno)
  let s := s.setHub fun h => h.setPorts fun p => { p with waits := p.waits.filter fun w => decide (h.fno < w.fno) }
  due.foldl (fun (s : State) w => (s.answerRead o w.session w.tag s.hub.fno w.role w.addrs).setHub fun h => h.closeTag w.session w.tag) s

/-! ### Image pages (17_security.md R399, R403) -/

/-- Table SEC-11 gives image pages to ENGINEER. -/
def pageRole (l : Lane) (r : SessRole) : Bool := l.lifeCycle == 0 || r == .engineer

def State.pageTrans (s : State) (x tag idx : Nat) (data : List Byte) : State :=
  if data.length ≠ 2048 then (if s.server.isNone then s else s.closeSession x)
  else s.onSession x fun l ss s =>
    let code := transCode ss 1
    if code ≠ 0 then s.refuse x tag code
    else if !pageRole l ss.role then s.setHub fun h => h.sent (.answer x tag h.fno [0x2C0D])
    else if !s.hub.room04 2052 then s.refuse x tag 0xFF0F
    else s.setHub fun h => (h.handOver 2052 0 (.lane (.page ss.key tag idx data))).openTag x tag

/-- No lane boots: the boot ROM offers recovery on the service port (R396). -/
def State.recovery (s : State) : Bool :=
  let dead (l : Lane) : Bool := !l.running && l.phase == 0 && l.on R.LCS.BOOTERR
  s.startup.isSome && dead s.laneA && dead s.laneB && s.pwr.isOn 8

/-- The slot that recovery writes. -/
def State.recoverySlot (s : State) : Nat :=
  let m := match s.nv.recall.data 5 1 with
    | some b => readManifest b
    | none => [{ state := .committed }, {}]
  if (m.getD 0 {}).state = .committed then 1 else 0

def State.recoveryPage (s : State) (idx : Nat) (data : List Byte) : State :=
  if data.length = 2048 ∧ idx ≤ 229375 then { s with nv := s.nv.writeNand s.recoverySlot idx data } else s

/-- PAGE. -/
def State.imagePage (s : State) (x tag idx : Nat) (data : List Byte) : State :=
  if s.recovery then s.recoveryPage idx data else s.pageTrans x tag idx data

/-- PROMOTE in recovery: the staged image must pass steps 3 and 4 of Table SEC-9; the manifest then names it. -/
def State.recoveryPromote (s : State) : State :=
  let l := s.laneA.recallSecurity s.nv.recall
  let t := s.recoverySlot
  if l.imageCode s.nv t ≠ 0 ∨ s.nv.factorySlot t then s
  else
    let h := s.nv.nandPage t 0
    let old : SlotInfo := l.sec.manifest.getD (1 - t) {}
    let new : SlotInfo := { state := .committed, digest := imageDigest h, fp := s.nv.fingerprint t }
    let m := if t = 0 then [new, { old with state := .previous }] else [{ old with state := .previous }, new]
    let next := match (s.nv.record 5 1).info.seq with
      | some n => (n + 1) % 2 ^ 32
      | none => 0
    { s with nv := s.nv.execute [] { part := 5, op := 1, rid := 1, num := next, data := manifestRecord m } }

/-! ### The other messages -/

def State.subscribe (s : State) (x : Nat) (mask : BitVec 256) : State :=
  s.onSession x fun _ _ s => s.setHub fun h => h.modSession x fun t => { t with subs := mask }

def State.keepalive (s : State) (x : Nat) : State := s.onSession x fun _ _ s => s

/-- A session with no message for 60 s. -/
def State.idleTimeout (s : State) (x : Nat) : State :=
  match s.hub.session x with
  | some t => if t.lastAt + 60000 ≤ s.hub.upFrames then s.closeSession x else s
  | none => s

/-- Events of subscribed pages: the page's request has risen (R45, R462). The lanes begin a new list of rises. -/
def State.sendEvents (s : State) (l : Lane) : State :=
  let s := s.setHub fun h => h.ports.sessions.foldl (fun (h : Hub) t =>
    (l.rose.filter fun p => t.subs.getLsbD p).foldl (fun (h : Hub) p =>
      h.sent (.event t.ident p (l.reg (p * 0x1000 + 0x010)) l.fno)) h) h
  onLanes (fun m => { m with rose := [] }) s

/-- Answers of the transactions the frame applied; a session that has gone gets none, nor does one opened since under its
number (R56). -/
def State.sendAnswers (s : State) (l : Lane) : State :=
  l.answers.foldl (fun (s : State) a =>
    if (s.hub.session (a.1 % 8)).any fun t => t.key == a.1 then
      s.setHub fun h => (h.sent (.answer (a.1 % 8) a.2.1 a.2.2.1 a.2.2.2)).closeTag (a.1 % 8) a.2.1
    else s) s

/-! ### Messages as bytes (R461, Table PRT-3) -/

/-- Vangilo Link's port on ETH0 to ETH3 (R461). -/
def linkTcpPort : Nat := 7410

/-- A message: TYPE, FLAGS, TAG, LEN and body. -/
def linkMessage (typ flags tag : Nat) (body : List Byte) : List Byte :=
  [BitVec.ofNat 8 typ, BitVec.ofNat 8 flags] ++ leBytes 2 tag ++ leBytes 4 body.length ++ body

/-- The bytes of what E1 sends on a session, none for other traffic. -/
def Sent.link : Sent → Option (List Byte)
  | .answer _ tag fno codes =>
    some (linkMessage 0x02 0 tag (leBytes 8 fno ++ leBytes 2 codes.length ++ codes.flatMap fun c => leBytes 2 c.toNat))
  | .readAnswer _ tag fno vals =>
    some (linkMessage 0x04 0 tag (leBytes 8 fno ++ vals.flatMap fun v => leBytes 4 v.1.toNat ++ leBytes 2 v.2.toNat ++ [0, 0]))
  | .event _ page irqs fno => some (linkMessage 0x06 0 0 ([BitVec.ofNat 8 page, 0, 0, 0] ++ leBytes 4 irqs.toNat ++ leBytes 8 fno))
  | .refuse _ tag code => some (linkMessage 0x08 0 tag (leBytes 2 code.toNat))
  | .port .. | .serverCert .. | .debugByte .. | .reply .. | .ptp .. => none

/-- Entries of a WRITE body, none where the body does not hold exactly `n` of them. -/
def linkEntries : Nat → List Byte → Option (List WriteEntry)
  | 0, b => if b.isEmpty then some [] else none
  | n + 1, b =>
    if b.length < 12 then none
    else if !(b.getD 8 0).getLsbD 0 then
      (linkEntries n (b.drop 12)).map fun es => { addr := wordAt b 0, value := wordAt b 4 } :: es
    else if b.length < 20 then none
    else (linkEntries n (b.drop 20)).map fun es => { addr := wordAt b 0, value := wordAt b 4, guard := some (wordAt b 12, wordAt b 16) } :: es

/-- A message of session `x`, `t` ns into the frame. One of unknown TYPE, or whose LEN does not match its body, closes the
session (R462). The bytes PROVISION needs are drawn from the free values. -/
def State.linkMessage (s : State) (x : Nat) (t : Int) (b : List Byte) : State :=
  let typ := u8At b 0
  let tag := u16At b 2
  let body := b.drop 8
  if b.length < 8 ∨ u32At b 4 ≠ body.length then s.closeSession x
  else if typ = 0x01 then
    match linkEntries (u16At body 0) (body.drop 4) with
    | some es =>
      let d := s.drawWords 12
      if body.length < 4 then s.closeSession x else d.2.writeTrans x tag t es d.1
    | none => s.closeSession x
  else if typ = 0x03 then
    let n := u16At body 0
    if body.length ≠ 4 + 4 * n then s.closeSession x
    else
      let as := (List.range n).map fun i => wordAt body (4 + 4 * i)
      if (b.getD 1 0).getLsbD 0 then s.readFrame x tag as else s.readTrans x tag as
  else if typ = 0x05 then
    (if body.isEmpty then s.subscribe x 0 else if body.length = 32 then s.subscribe x (.ofNat 256 (ofLe body)) else s.closeSession x)
  else if typ = 0x07 then
    (if body.length = 2052 then s.imagePage x tag (u32At body 0) (body.drop 4) else s.closeSession x)
  else if typ = 0x09 ∧ body.isEmpty then s.keepalive x
  else s.closeSession x

/-! ### Calendar shadows as commands (16_time.md R357) -/

/-- A reader's read of CALW0 or CALW1: engines read on both lanes, a session on the lane that serves it. -/
def State.onReader (s : State) (reader : Nat) (f : Lane → Lane) : State :=
  if reader < 8 then onLanes f s
  else match s.server, s.hub.session (reader - 8) with
    | some l, some _ => onLane l.id f s
    | _, _ => s

def Lane.shadowTimeout (l : Lane) (reader : Nat) : Lane :=
  if (l.shadow reader).any fun x => decide (1000 ≤ x.age) then l.dropShadow reader else l

/-! ### The debug function (R405) -/

/-- Usable lane memory, 3.5 GiB (R19). -/
def laneMemory : Nat := 3758096384

/-- A byte of lane memory that debug writes: every written byte is listed, in rising order. -/
def Lane.pokeByte (l : Lane) (a : Nat) (b : Byte) : Lane := { l with mem := kvInsert l.mem a b }

def Lane.debug (l : Lane) (op : DebugOp) : Lane := match op with
  | .halt n => if n < 8 ∧ l.get (R.ENG.STATE.inst n) = 1 then l.put (R.ENG.STATE.inst n) 2 else l
  | .step _ | .read _ => l
  | .write a b => if a < laneMemory then l.pokeByte a b else l

/-- What the client of the debug function is handed: the byte a read names. -/
def Lane.debugRead (l : Lane) (op : DebugOp) : Option (Nat × Byte) := match op with
  | .read a => if a < laneMemory then some (a, kvGet 0 l.mem a) else none
  | .halt _ | .step _ | .write _ _ => none

/-- The debug function is the service port's, with its session, in FIELD_DEBUG (R405). A step of a halted engine executes one
firmware instruction, which changes nothing this model holds (assumption log 72). -/
def State.debugAccess (s : State) (x : LaneId) (op : DebugOp) : State :=
  if (s.lane x).lifeCycle = 3 ∧ (s.lane x).running ∧ s.hub.ports.sessions.any (fun t => t.port == portService) then
    (onLane x (fun l => l.debug op) s).setHub fun h => (((s.lane x).debugRead op).map fun r => h.sent (.debugByte x r.1 r.2)).getD h
  else s

end Sys2Proof.Machine
end

