-- ==== Sys2Proof/Machine/Operands.lean ====
section
/-! DEFINITION. The operand areas of the Enesque instructions in their word, bit and byte forms
(11_enesque_instructions.md R261 to R263, Table ENQ-4), over the context of the task an executor runs. A
fault code of Table ENQ-6 is the error of every form. -/

namespace Sys2Proof.Machine

/-- Fault codes of Table ENQ-6. -/
def fIllop : Nat := 0x01
def fIllfmt : Nat := 0x02
def fStkovf : Nat := 0x03
def fStkunf : Nat := 0x04
def fStkkind : Nat := 0x05
def fDivzero : Nat := 0x06
def fAddr : Nat := 0x07
def fWprot : Nat := 0x08
def fPirange : Nat := 0x09
def fCoderange : Nat := 0x0A
def fNestopen : Nat := 0x0B
def fLooparg : Nat := 0x10
def fResarg : Nat := 0x11
def fQaccess : Nat := 0x12
def fEvtarg : Nat := 0x13
def fRegaddr : Nat := 0x14
def fDlstlen : Nat := 0x15

/-- The stage of Table PRG-3 an instruction executes in; `cmd` is an instruction given by itself. -/
inductive EnqStage where
  | feed | a | b | cmd
  deriving DecidableEq, Repr

/-- Where an instruction executes: executor, task, stage, and what lies outside the lane. -/
structure EnqEnv where
  hub : Hub
  nv : NvStore
  exe : Nat
  task : Nat
  stage : EnqStage
  deriving DecidableEq, Repr

/-! ### Context -/

def Lane.enqCtx (l : Lane) (n : Nat) : EnqCtx := (l.task n).ctx
def Lane.modCtx (l : Lane) (n : Nat) (f : EnqCtx → EnqCtx) : Lane := l.setTask n { l.task n with ctx := f (l.task n).ctx }
def Lane.setBa (l : Lane) (n : Nat) (b : Bool) : Lane := l.modCtx n fun c => { c with ba := b }
def Lane.setWa (l : Lane) (n : Nat) (w : Word) : Lane := l.modCtx n fun c => { c with wa := w }
def Lane.setXr (l : Lane) (n : Nat) (w : Word) : Lane := l.modCtx n fun c => { c with xr := w }

/-- A push onto the nesting stack of 16 entries (R260). -/
def Lane.enqPush (l : Lane) (n : Nat) (x : StkEntry) : Except Nat Lane :=
  if 16 ≤ (l.enqCtx n).stk.length then .error fStkovf else .ok (l.modCtx n fun c => { c with stk := x :: c.stk })

/-! ### Addresses -/

/-- ADDR sign-extended from bit 19. -/
def signExt20 (addr : Nat) : Word := .ofInt 32 (toSigned 20 addr)

/-- The effective word address of an area: ADDR, plus XR modulo 2^32 where the area is indexed. -/
def EnqEnv.effective (v : EnqEnv) (l : Lane) (area addr : Nat) : Nat :=
  if area = 0x9 ∨ area = 0xA ∨ area = 0xB then (addr + (l.enqCtx v.task).xr.toNat) % 2 ^ 32 else addr

/-- An indexed area adds one counted cycle (R264). -/
def indexCost (area : Nat) : Nat := if area = 0x9 ∨ area = 0xA ∨ area = 0xB then 1 else 0

/-! ### Variables, constants and the task image -/

/-- A variable word as instructions read it: forced where a force is active (R252). -/
def Lane.varWord (l : Lane) (exe i : Nat) : Word := forcedVar l.prg.forces exe (4 * i) (kvGet 0 (l.exe exe).vars i)

def Lane.setVarWord (l : Lane) (exe i : Nat) (w : Word) : Lane :=
  l.setExe exe { l.exe exe with vars := kvSet 0 (l.exe exe).vars i w }

/-- A read of the task's image (R263): the word must lie in an IN or OUT range. -/
def Lane.imageRead (l : Lane) (n a : Nat) : Except Nat Word :=
  let t := l.task n
  if 0x10000 ≤ a then .error fAddr
  else if inRanges t.cfg.inR a || inRanges t.cfg.outR a then .ok (kvGet 0 t.img a)
  else .error fPirange

/-- A write of the task's image: the word must lie in an OUT range. -/
def Lane.imageWrite (l : Lane) (n a : Nat) (w : Word) : Except Nat Lane :=
  let t := l.task n
  if 0x10000 ≤ a then .error fAddr
  else if inRanges t.cfg.outR a then .ok (l.setTask n { t with img := kvSet 0 t.img a w })
  else .error fWprot

/-- Q of a counter (R268). -/
def Counter.q (c : Counter) : Bool := if c.down then decide (c.cv ≤ 0) else decide (c.pv ≤ c.cv)

def EnqEnv.timer (v : EnqEnv) (l : Lane) (i : Nat) : Timer := (l.exe v.exe).timer l.prg.runSince i
def EnqEnv.counter (v : EnqEnv) (l : Lane) (i : Nat) : Counter := (l.exe v.exe).counter i

/-! ### Word form -/

/-- The word at effective address `a` of an area. -/
def EnqEnv.wordAt (v : EnqEnv) (l : Lane) (area a : Nat) : Except Nat Word :=
  let e := l.exe v.exe
  match area with
  | 0x0 => .ok (signExt20 a)
  | 0x1 => l.imageRead v.task a
  | 0xA => l.imageRead v.task a
  | 0x4 => if 4 * a < e.decl.vsize then .ok (l.varWord v.exe a) else .error fAddr
  | 0x9 => if 4 * a < e.decl.vsize then .ok (l.varWord v.exe a) else .error fAddr
  | 0x6 => if 4 * a < e.decl.ksize then .ok (kvGet 0 e.konst a) else .error fAddr
  | 0xB => if 4 * a < e.decl.ksize then .ok (kvGet 0 e.konst a) else .error fAddr
  | 0x7 => if a < 4096 then .ok (.ofNat 32 (v.timer l a).et) else .error fAddr
  | 0x8 => if a < 4096 then .ok (.ofInt 32 (v.counter l a).cv) else .error fAddr
  | _ => .error fIllfmt

/-- The word operand. -/
def EnqEnv.readWord (v : EnqEnv) (l : Lane) (area addr : Nat) : Except Nat Word :=
  if area = 0x1 ∧ 0x10000 ≤ addr then .error fIllfmt else v.wordAt l area (v.effective l area addr)

/-- A write of the word operand. -/
def EnqEnv.writeWord (v : EnqEnv) (l : Lane) (area addr : Nat) (w : Word) : Except Nat Lane :=
  let a := v.effective l area addr
  match area with
  | 0x1 => if 0x10000 ≤ addr then .error fIllfmt else l.imageWrite v.task a w
  | 0xA => l.imageWrite v.task a w
  | 0x4 => if 4 * a < (l.exe v.exe).decl.vsize then .ok (l.setVarWord v.exe a w) else .error fAddr
  | 0x9 => if 4 * a < (l.exe v.exe).decl.vsize then .ok (l.setVarWord v.exe a w) else .error fAddr
  | 0x0 => .error fWprot
  | 0x6 => .error fWprot
  | 0xB => .error fWprot
  | 0x7 => .error fWprot
  | 0x8 => .error fWprot
  | _ => .error fIllfmt

/-! ### Bit form -/

/-- Process image word of a PIL or PIH bit. -/
def pilWord (addr : Nat) : Nat := addr / 32
def pihWord (addr : Nat) : Nat := 0x8000 + addr / 32

/-- The bit operand. -/
def EnqEnv.readBit (v : EnqEnv) (l : Lane) (area addr : Nat) : Except Nat Bool :=
  let b (w : Word) : Bool := w.getLsbD (addr % 32)
  match area with
  | 0x0 => if addr < 2 then .ok (decide (addr = 1)) else .error fIllfmt
  | 0x2 => (l.imageRead v.task (pilWord addr)).map b
  | 0x3 => (l.imageRead v.task (pihWord addr)).map b
  | 0x5 => if 4 * (addr / 32) < (l.exe v.exe).decl.vsize then .ok (b (l.varWord v.exe (addr / 32))) else .error fAddr
  | 0x7 => if addr < 4096 then .ok (v.timer l addr).q else .error fAddr
  | 0x8 => if addr < 4096 then .ok (v.counter l addr).q else .error fAddr
  | _ => .error fIllfmt

/-- A word with one bit replaced. -/
def putBit (w : Word) (n : Nat) (x : Bool) : Word := if x then w ||| (1#32 <<< n) else w &&& ~~~(1#32 <<< n)

/-- A write of the bit operand: the other bits of the word stay. -/
def EnqEnv.writeBit (v : EnqEnv) (l : Lane) (area addr : Nat) (x : Bool) : Except Nat Lane :=
  let image (a : Nat) : Except Nat Lane := l.imageWrite v.task a (putBit (kvGet 0 (l.task v.task).img a) (addr % 32) x)
  match area with
  | 0x2 => image (pilWord addr)
  | 0x3 => image (pihWord addr)
  | 0x5 =>
    let i := addr / 32
    if 4 * i < (l.exe v.exe).decl.vsize then
      .ok (l.setVarWord v.exe i (putBit (kvGet 0 (l.exe v.exe).vars i) (addr % 32) x))
    else .error fAddr
  | 0x0 => .error fWprot
  | 0x7 => .error fWprot
  | 0x8 => .error fWprot
  | _ => .error fIllfmt

/-- A bit operand that the instruction writes must be writable, whether or not it changes. -/
def EnqEnv.bitTarget (v : EnqEnv) (l : Lane) (area addr : Nat) : Except Nat Bool :=
  match v.writeBit l area addr false with
  | .error c => .error c
  | .ok _ => v.readBit l area addr

/-! ### Byte form (LDB and STB) -/

/-- Byte `a` of a word area given word by word. -/
def byteIn (w : Word) (a : Nat) : Word := .ofNat 32 (bits w (8 * (a % 4) + 7) (8 * (a % 4)))

def EnqEnv.readByte (v : EnqEnv) (l : Lane) (area addr : Nat) : Except Nat Word :=
  let e := l.exe v.exe
  let a := v.effective l area addr
  match area with
  | 0x4 => if a < e.decl.vsize then .ok (byteIn (l.varWord v.exe (a / 4)) a) else .error fAddr
  | 0x9 => if a < e.decl.vsize then .ok (byteIn (l.varWord v.exe (a / 4)) a) else .error fAddr
  | 0x6 => if a < e.decl.ksize then .ok (byteIn (kvGet 0 e.konst (a / 4)) a) else .error fAddr
  | 0xB => if a < e.decl.ksize then .ok (byteIn (kvGet 0 e.konst (a / 4)) a) else .error fAddr
  | _ => .error fIllfmt

def EnqEnv.writeByte (v : EnqEnv) (l : Lane) (area addr : Nat) (x : Nat) : Except Nat Lane :=
  let e := l.exe v.exe
  let a := v.effective l area addr
  match area with
  | 0x4 => if a < e.decl.vsize then .ok (l.setExe v.exe { e with vars := writeArea e.vars a 1 x }) else .error fAddr
  | 0x9 => if a < e.decl.vsize then .ok (l.setExe v.exe { e with vars := writeArea e.vars a 1 x }) else .error fAddr
  | 0x0 => .error fWprot
  | 0x6 => .error fWprot
  | 0xB => .error fWprot
  | 0x7 => .error fWprot
  | 0x8 => .error fWprot
  | _ => .error fIllfmt

/-! ### Operands of the other kinds (R261) -/

/-- No operand: AREA and ADDR zero. -/
def noOperand (area addr : Nat) : Except Nat Unit := if area = 0 ∧ addr = 0 then .ok () else .error fIllfmt

/-- An immediate or selector: AREA 0. -/
def selOperand (area addr : Nat) : Except Nat Nat := if area = 0 then .ok addr else .error fIllfmt

/-- A timer or counter operand of its own instructions. -/
def timerOperand (area addr : Nat) : Except Nat Nat :=
  if area ≠ 0x7 then .error fIllfmt else if addr < 4096 then .ok addr else .error fAddr
def counterOperand (area addr : Nat) : Except Nat Nat :=
  if area ≠ 0x8 then .error fIllfmt else if addr < 4096 then .ok addr else .error fAddr

/-- A variable word that the instruction names (R272, R275): its index. -/
def EnqEnv.varOperand (v : EnqEnv) (l : Lane) (area addr : Nat) : Except Nat Nat :=
  if area ≠ 0x4 ∧ area ≠ 0x9 then .error fIllfmt
  else
    let a := v.effective l area addr
    if 4 * a < (l.exe v.exe).decl.vsize then .ok a else .error fAddr

end Sys2Proof.Machine
end

