-- ==== Sys2Proof/Machine/Enesque.lean ====
section
/-! DEFINITION. The Enesque instructions (11_enesque_instructions.md R264 to R276, Table ENQ-5): one definition
per opcode, its result with the counted cycles it costs, and the execution of one instruction. An
instruction that faults changes nothing; the program fault follows (R276). -/

namespace Sys2Proof.Machine

/-- The meaning of an opcode: from the lane with PC already past the instruction to the lane after it and the
cycles of Table ENQ-5, or a fault code. -/
abbrev EnqSem := EnqEnv → Nat → Nat → Lane → Except Nat (Lane × Nat)

/-! ### Shapes -/

/-- BA from BA and the bit operand. -/
def bitOp (f : Bool → Bool → Bool) : EnqSem := fun v area addr l => do
  let b ← v.readBit l area addr
  pure (l.setBa v.task (f (l.enqCtx v.task).ba b), 2)

/-- The bit operand from BA and itself, with BA after. -/
def bitWrite (f : Bool → Bool → Bool × Bool) : EnqSem := fun v area addr l => do
  let b ← v.bitTarget l area addr
  let r := f (l.enqCtx v.task).ba b
  let l ← v.writeBit l area addr r.1
  pure (l.setBa v.task r.2, 3)

/-- The bit operand becomes `x` where BA is 1; where BA is 0 nothing is written, so a forced bit keeps its underlying
value. -/
def bitPut (x : Bool) : EnqSem := fun v area addr l => do
  let m ← v.writeBit l area addr x
  pure (if (l.enqCtx v.task).ba then m else l, 3)

/-- AND( and its kin: the pending operation with BA, then BA from the operand. -/
def bitOpen (op : Nat) : EnqSem := fun v area addr l => do
  let b ← v.readBit l area addr
  let l ← l.enqPush v.task (.bit op (l.enqCtx v.task).ba)
  pure (l.setBa v.task b, 3)

/-- WA from WA and the word operand. -/
def wordOp (cost : Nat) (f : Word → Word → Except Nat Word) : EnqSem := fun v area addr l => do
  let w ← v.readWord l area addr
  let r ← f (l.enqCtx v.task).wa w
  pure (l.setWa v.task r, cost)

/-- WA from WA alone. -/
def wordUnary (cost : Nat) (f : Word → Word) : EnqSem := fun v area addr l => do
  noOperand area addr
  pure (l.setWa v.task (f (l.enqCtx v.task).wa), cost)

/-- BA from a comparison of WA with the word operand. -/
def wordCmp (cost : Nat) (f : Word → Word → Bool) : EnqSem := fun v area addr l => do
  let w ← v.readWord l area addr
  pure (l.setBa v.task (f (l.enqCtx v.task).wa w), cost)

/-! ### Arithmetic -/

def pureOp (f : Word → Word → Word) (a b : Word) : Except Nat Word := .ok (f a b)

/-- Division truncated toward zero, modulo 2^32. -/
def divTrunc (a b : Word) : Word := .ofInt 32 (a.toInt.tdiv b.toInt)
def divOp (a b : Word) : Except Nat Word := if b = 0 then .error fDivzero else .ok (divTrunc a b)
def modOp (a b : Word) : Except Nat Word := if b = 0 then .error fDivzero else .ok (a - divTrunc a b * b)

/-- Shifts by a count taken as u32; 32 or more gives 0, or the sign. -/
def shlOp (a b : Word) : Word := if 32 ≤ b.toNat then 0 else a <<< b.toNat
def shrOp (a b : Word) : Word := if 32 ≤ b.toNat then 0 else a >>> b.toNat
def sarOp (a b : Word) : Word := a.sshiftRight (min b.toNat 31)

/-- Round half even in binary32; infinities and zeros stay. -/
def roundEven (a : F32) : F32 :=
  match F32.rneI a with
  | some 0 => if F32.isNeg a then 0x80000000 else 0
  | some i => F32.ofInt i
  | none => if F32.isNan a then F32.nan else a

/-- i32 of a binary32 rounded half even, saturated; NaN gives 0. -/
def f2i (a : F32) : Word :=
  match F32.rneI a with
  | some i => .ofInt 32 (max (-2147483648) (min 2147483647 i))
  | none => if F32.isNan a then 0 else if F32.isNeg a then 0x80000000 else 0x7FFFFFFF

/-- FMIN(FMAX(a, lo), hi). -/
def flim (a lo hi : F32) : F32 := F32.min (F32.max a lo) hi

/-- The operation POPW names by its opcode, with its cycles. -/
def popOp (op : Nat) : Option (Nat × (Word → Word → Except Nat Word)) :=
  match op with
  | 0x28 => some (2, pureOp (· + ·))
  | 0x29 => some (2, pureOp (· - ·))
  | 0x2A => some (3, pureOp (· * ·))
  | 0x2B => some (20, divOp)
  | 0x2C => some (20, modOp)
  | 0x2D => some (2, pureOp (· &&& ·))
  | 0x2E => some (2, pureOp (· ||| ·))
  | 0x2F => some (2, pureOp (· ^^^ ·))
  | 0x30 => some (2, pureOp shlOp)
  | 0x31 => some (2, pureOp shrOp)
  | 0x32 => some (2, pureOp sarOp)
  | 0x40 => some (4, pureOp F32.add)
  | 0x41 => some (4, pureOp F32.sub)
  | 0x42 => some (4, pureOp F32.mul)
  | 0x43 => some (16, pureOp F32.div)
  | 0x44 => some (4, pureOp F32.min)
  | 0x45 => some (4, pureOp F32.max)
  | _ => none

/-! ### Bits: 0x01 to 0x14 -/

def enqLd : EnqSem := bitOp fun _ b => b
def enqLdn : EnqSem := bitOp fun _ b => !b
def enqAnd : EnqSem := bitOp fun a b => a && b
def enqAndn : EnqSem := bitOp fun a b => a && !b
def enqOr : EnqSem := bitOp fun a b => a || b
def enqOrn : EnqSem := bitOp fun a b => a || !b
def enqXor : EnqSem := bitOp fun a b => Bool.xor a b
def enqSt : EnqSem := bitWrite fun a _ => (a, a)
def enqStn : EnqSem := bitWrite fun a _ => (!a, a)
def enqSet : EnqSem := bitPut true
def enqRst : EnqSem := bitPut false
def enqNot : EnqSem := fun v area addr l => do
  noOperand area addr
  pure (l.setBa v.task (!(l.enqCtx v.task).ba), 1)
def enqRe : EnqSem := bitWrite fun a b => (a, a && !b)
def enqFe : EnqSem := bitWrite fun a b => (a, !a && b)
def enqAndOpen : EnqSem := bitOpen 0x10
def enqOrOpen : EnqSem := bitOpen 0x11
def enqXorOpen : EnqSem := bitOpen 0x12
def enqAndnOpen : EnqSem := bitOpen 0x13

/-- v op BA of the entry that opcode `op` pushed. -/
def closeOp (op : Nat) (v ba : Bool) : Bool :=
  if op = 0x10 then v && ba else if op = 0x11 then v || ba else if op = 0x12 then Bool.xor v ba else v && !ba

def enqCloseParen : EnqSem := fun v area addr l => do
  noOperand area addr
  match (l.enqCtx v.task).stk with
  | [] => .error fStkunf
  | .bit op x :: rest =>
    pure (l.modCtx v.task fun c => { c with stk := rest, ba := closeOp op x c.ba }, 3)
  | _ :: _ => .error fStkkind

/-! ### Words: 0x15 to 0x3B -/

def enqPushw : EnqSem := fun v area addr l => do
  noOperand area addr
  let l ← l.enqPush v.task (.word (l.enqCtx v.task).wa)
  pure (l, 3)

def enqPopw : EnqSem := fun v area addr l => do
  let sel ← selOperand area addr
  match popOp sel with
  | none => .error fIllfmt
  | some (cost, f) => match (l.enqCtx v.task).stk with
    | [] => .error fStkunf
    | .word x :: rest =>
      let r ← f x (l.enqCtx v.task).wa
      pure (l.modCtx v.task fun c => { c with stk := rest, wa := r }, cost + 2)
    | _ :: _ => .error fStkkind

def enqLdw : EnqSem := wordOp 2 fun _ w => .ok w
def enqStw : EnqSem := fun v area addr l => do
  let l ← v.writeWord l area addr (l.enqCtx v.task).wa
  pure (l, 2)
def enqLdhi : EnqSem := fun v area addr l => do
  let x ← selOperand area addr
  if 0x10000 ≤ x then .error fIllfmt else pure (l.setWa v.task (.ofNat 32 (x * 65536)), 1)
def enqLdb : EnqSem := fun v area addr l => do
  let w ← v.readByte l area addr
  pure (l.setWa v.task w, 2)
def enqStb : EnqSem := fun v area addr l => do
  let l ← v.writeByte l area addr ((l.enqCtx v.task).wa.toNat % 256)
  pure (l, 3)
def enqLdx : EnqSem := fun v area addr l => do
  let w ← v.readWord l area addr
  pure (l.setXr v.task w, 2)
def enqStx : EnqSem := fun v area addr l => do
  let l ← v.writeWord l area addr (l.enqCtx v.task).xr
  pure (l, 2)
def enqAdx : EnqSem := fun v area addr l => do
  let x ← selOperand area addr
  pure (l.setXr v.task ((l.enqCtx v.task).xr + signExt20 x), 1)
def enqAdd : EnqSem := wordOp 2 (pureOp (· + ·))
def enqSub : EnqSem := wordOp 2 (pureOp (· - ·))
def enqMul : EnqSem := wordOp 3 (pureOp (· * ·))
def enqDiv : EnqSem := wordOp 20 divOp
def enqMod : EnqSem := wordOp 20 modOp
def enqWand : EnqSem := wordOp 2 (pureOp (· &&& ·))
def enqWor : EnqSem := wordOp 2 (pureOp (· ||| ·))
def enqWxor : EnqSem := wordOp 2 (pureOp (· ^^^ ·))
def enqShl : EnqSem := wordOp 2 (pureOp shlOp)
def enqShr : EnqSem := wordOp 2 (pureOp shrOp)
def enqSar : EnqSem := wordOp 2 (pureOp sarOp)
def enqNeg : EnqSem := wordUnary 1 fun a => 0 - a
def enqEq : EnqSem := wordCmp 2 fun a b => a == b
def enqNe : EnqSem := wordCmp 2 fun a b => a != b
def enqLt : EnqSem := wordCmp 2 fun a b => a.slt b
def enqLe : EnqSem := wordCmp 2 fun a b => a.sle b
def enqGt : EnqSem := wordCmp 2 fun a b => b.slt a
def enqGe : EnqSem := wordCmp 2 fun a b => b.sle a
def enqLtu : EnqSem := wordCmp 2 fun a b => decide (a.toNat < b.toNat)
def enqGtu : EnqSem := wordCmp 2 fun a b => decide (b.toNat < a.toNat)

/-! ### Binary32: 0x40 to 0x52 -/

def enqFadd : EnqSem := wordOp 4 (pureOp F32.add)
def enqFsub : EnqSem := wordOp 4 (pureOp F32.sub)
def enqFmul : EnqSem := wordOp 4 (pureOp F32.mul)
def enqFdiv : EnqSem := wordOp 16 (pureOp F32.div)
def enqFmin : EnqSem := wordOp 4 (pureOp F32.min)
def enqFmax : EnqSem := wordOp 4 (pureOp F32.max)
def enqFabs : EnqSem := wordUnary 1 fun a => a &&& 0x7FFFFFFF
def enqFneg : EnqSem := wordUnary 1 fun a => a ^^^ 0x80000000
def enqFsqrt : EnqSem := wordUnary 20 F32.sqrt

/-- FLIM takes the word after its operand in the same area as the upper limit. -/
def enqFlim : EnqSem := fun v area addr l => do
  let lo ← v.readWord l area addr
  if area = 0 then .error fIllfmt
  else
    let hi ← v.wordAt l area (v.effective l area addr + 1)
    pure (l.setWa v.task (flim (l.enqCtx v.task).wa lo hi), 6)

def enqFeq : EnqSem := wordCmp 4 F32.eq
def enqFlt : EnqSem := wordCmp 4 F32.lt
def enqFle : EnqSem := wordCmp 4 F32.le
def enqFgt : EnqSem := wordCmp 4 fun a b => F32.lt b a
def enqFge : EnqSem := wordCmp 4 fun a b => F32.le b a

/-- The elementary function of an FFUN selector. -/
def ffun (sel : Nat) : Option (F32 → F32) :=
  match sel with
  | 0 => some F32.exp
  | 1 => some F32.ln
  | 2 => some F32.log10
  | 3 => some F32.sin
  | 4 => some F32.cos
  | 5 => some F32.tan
  | 6 => some F32.atan
  | 7 => some F32.floor
  | 8 => some roundEven
  | _ => none

def enqFfun : EnqSem := fun v area addr l => do
  let sel ← selOperand area addr
  match ffun sel with
  | none => .error fIllfmt
  | some f => pure (l.setWa v.task (f (l.enqCtx v.task).wa), 60)

def enqI2f : EnqSem := wordUnary 4 fun a => F32.ofInt a.toInt
def enqF2i : EnqSem := wordUnary 4 f2i
def enqU2f : EnqSem := wordUnary 4 fun a => F32.fromNat a.toNat

/-! ### Control: 0x58 to 0x68 -/

def enqSel : EnqSem := fun v area addr l => do
  let w ← v.readWord l area addr
  pure (if (l.enqCtx v.task).ba then l.setWa v.task w else l, 2)

/-- A taken jump: the target must lie below NCODE. -/
def Lane.enqJump (l : Lane) (exe n a : Nat) : Except Nat Lane :=
  if a < (l.exe exe).decl.ncode then .ok (l.modCtx n fun c => { c with pc := a }) else .error fCoderange

/-- A jump taken where `cond` holds of BA. -/
def jumpIf (cond : Bool → Bool) : EnqSem := fun v area addr l => do
  let a ← selOperand area addr
  if cond (l.enqCtx v.task).ba then
    let l ← l.enqJump v.exe v.task a
    pure (l, 3)
  else pure (l, 3)

/-- A call taken where `cond` holds of BA. -/
def callIf (cond : Bool → Bool) : EnqSem := fun v area addr l => do
  let a ← selOperand area addr
  if cond (l.enqCtx v.task).ba then
    let l ← l.enqPush v.task (.ret (l.enqCtx v.task).pc)
    let l ← l.enqJump v.exe v.task a
    pure (l, 4)
  else pure (l, 4)

def enqJmp : EnqSem := jumpIf fun _ => true
def enqJmpc : EnqSem := jumpIf fun b => b
def enqJmpn : EnqSem := jumpIf fun b => !b
def enqCall : EnqSem := callIf fun _ => true
def enqCallc : EnqSem := callIf fun b => b

def enqRet : EnqSem := fun v area addr l => do
  noOperand area addr
  match (l.enqCtx v.task).stk with
  | [] => .error fStkunf
  | .ret a :: rest => pure (l.modCtx v.task fun c => { c with stk := rest, pc := a }, 4)
  | _ :: _ => .error fStkkind

/-- Items that a task of the executor holds open are closed with its section (R272). -/
def Lane.closeItems (l : Lane) (exe n : Nat) : Lane :=
  (List.range 48).foldl (fun (l : Lane) i =>
    if (l.queueEnds (8 + i)).1 = exe ∧ (l.queue (8 + i)).wOpen ∧ (l.queue (8 + i)).wTask = n then l.queueClose (8 + i) else l) l

/-- END completes the feed section or the cycle, with its copy-out (R239). -/
def enqEnd : EnqSem := fun v area addr l => do
  noOperand area addr
  if (l.enqCtx v.task).stk ≠ [] then .error fNestopen
  else
    let l := ((l.closeItems v.exe v.task).charge v.exe v.task 2).copyOut v.task
    let l := l.setExe v.exe { l.exe v.exe with cur := none }
    if (l.task v.task).ph = .feed then pure (l.setTask v.task { l.task v.task with ph := .feedDone }, 0)
    else pure (l.endCycle v.task, 0)

def enqNop : EnqSem := fun _ area addr l => do
  noOperand area addr
  pure (l, 1)

def enqEvt : EnqSem := fun v area addr l => do
  let w ← v.readWord l area addr
  let t := l.task w.toNat
  if 40 ≤ w.toNat ∨ t.cfg.kind ≠ 2 ∨ t.cfg.evsrc ≠ 0 then .error fEvtarg
  else pure (if (l.enqCtx v.task).ba then l.setTask w.toNat { t with evt := true } else l, 6)

/-! ### Timers and counters: 0x70 to 0x78 (R266 to R268) -/

/-- ET and Q of the three timer instructions from IN, INPREV and d. -/
def tonStep (t : Timer) (i : Bool) (d : Nat) : Nat × Bool :=
  let et := if !i || !t.inprev then 0 else min (t.et + d) t.pt
  (et, i && decide (t.pt ≤ et))
def tofStep (t : Timer) (i : Bool) (d : Nat) : Nat × Bool :=
  if i then (0, true)
  else if t.inprev then (0, if t.pt = 0 then false else t.q)
  else if t.q then
    let et := min (t.et + d) t.pt
    (et, !decide (t.pt ≤ et))
  else (t.et, t.q)
def tpStep (t : Timer) (i : Bool) (d : Nat) : Nat × Bool :=
  let r : Nat × Bool :=
    if t.q then (min (t.et + d) t.pt, true)
    else if i && !t.inprev then (0, true)
    else if !i then (0, false)
    else (t.et, false)
  (r.1, r.2 && !decide (t.pt ≤ r.1))

def timerOp (f : Timer → Bool → Nat → Nat × Bool) : EnqSem := fun v area addr l => do
  let i ← timerOperand area addr
  let t := v.timer l i
  let inp := (l.enqCtx v.task).ba
  let r := f t inp (min (l.fno - t.lastf) (2 ^ 32 - 1))
  let e := l.exe v.exe
  let t' : Timer := { t with et := r.1, q := r.2, inprev := inp, lastf := l.fno }
  pure ((l.setExe v.exe { e with timers := kvInsert e.timers i t' }).setBa v.task r.2, 10)

def enqTon : EnqSem := timerOp tonStep
def enqTof : EnqSem := timerOp tofStep
def enqTp : EnqSem := timerOp tpStep
def enqTpt : EnqSem := fun v area addr l => do
  let i ← timerOperand area addr
  let e := l.exe v.exe
  let t' : Timer := { v.timer l i with pt := (l.enqCtx v.task).wa.toNat }
  pure (l.setExe v.exe { e with timers := kvInsert e.timers i t' }, 4)

/-- A counter record after `f`, with BA. -/
def counterOp (cost : Nat) (f : Counter → EnqCtx → Counter × Bool) : EnqSem := fun v area addr l => do
  let i ← counterOperand area addr
  let r := f (v.counter l i) (l.enqCtx v.task)
  let e := l.exe v.exe
  pure ((l.setExe v.exe { e with counters := kvInsert e.counters i r.1 }).setBa v.task r.2, cost)

def ctuStep (c : Counter) (x : EnqCtx) : Counter × Bool :=
  let c : Counter := { c with
    cv := if x.ba && !c.cprev then min (c.cv + 1) 2147483647 else c.cv, down := false, cprev := x.ba }
  (c, c.q)
def ctdStep (c : Counter) (x : EnqCtx) : Counter × Bool :=
  let c : Counter := { c with
    cv := if x.ba && !c.cprev then max (c.cv - 1) (-2147483648) else c.cv, down := true, cprev := x.ba }
  (c, c.q)

def enqCtu : EnqSem := counterOp 6 ctuStep
def enqCtd : EnqSem := counterOp 6 ctdStep
def enqCld : EnqSem := counterOp 4 fun c x => (if x.ba then { c with cv := c.pv } else c, x.ba)
def enqCrst : EnqSem := counterOp 4 fun c x => (if x.ba then { c with cv := 0 } else c, x.ba)
def enqCpv : EnqSem := counterOp 4 fun c x => ({ c with pv := x.wa.toInt }, x.ba)

/-! ### Loops: 0x80 to 0x8A (R269) -/

/-- The loop a loop instruction names. -/
def EnqEnv.loopArg (v : EnqEnv) (l : Lane) (area addr : Nat) : Except Nat Nat := do
  let w ← v.readWord l area addr
  if 511 < w.toNat ∨ !l.hasLoop w.toNat then .error fLooparg else pure w.toNat

def loopRead (f : LoopState → Word) : EnqSem := fun v area addr l => do
  let n ← v.loopArg l area addr
  pure (l.setWa v.task (f (l.loop n).st), 8)

def enqLpv : EnqSem := loopRead (·.pv)
def enqLsp : EnqSem := loopRead (·.sp)
def enqLeLoop : EnqSem := loopRead (·.e)
def enqLuc : EnqSem := loopRead (·.uc)
def enqLud : EnqSem := loopRead (·.ud)
def enqLi : EnqSem := loopRead (·.i)
def enqLst : EnqSem := loopRead fun s => .ofNat 32 (s.flags.toNat + s.mode * 2 ^ 16)

/-- What engine `exe` leaves for the next PB. -/
def LoopState.onPend (s : LoopState) (exe : Nat) (f : LoopPend → LoopPend) : LoopState :=
  if exe = 4 then { s with pend4 := f s.pend4 } else { s with pend5 := f s.pend5 }

/-- A write that PB takes up (R215, R226). -/
def loopWrite (ok : Word → Bool) (f : LoopPend → Word → LoopPend) : EnqSem := fun v area addr l => do
  let n ← v.loopArg l area addr
  let w := (l.enqCtx v.task).wa
  if !ok w then .error fLooparg
  else pure (l.setLoop n { l.loop n with st := (l.loop n).st.onPend v.exe fun s => f s w }, 8)

def enqLpsp : EnqSem := loopWrite F32.isFin fun s w => { s with psp := some w }
def enqLman : EnqSem := loopWrite F32.isFin fun s w => { s with man := some w }
def enqLmode : EnqSem := loopWrite (fun w => decide (w.toNat ≤ 2)) fun s w => { s with mode := some w.toNat }

/-! ### Results: 0x90 to 0x95 (R270) -/

/-- The answer of a result window while nothing has been published. -/
def noResult (v : EnqEnv) (l : Lane) : Lane × Nat := ((l.setWa v.task F32.nan).setBa v.task false, 24)

def solveWindow (f : Word × Nat → Word) : EnqSem := fun v area addr l => do
  let w ← v.readWord l area addr
  let kind := (l.enqCtx v.task).xr.toNat % 8
  if kind = 7 then .error fResarg
  else match l.slv.model, l.slv.seen with
    | some md, some r => match r.item md kind w.toNat with
      | some x => pure ((l.setWa v.task (f x)).setBa v.task true, 24)
      | none => .error fResarg
    | _, _ => pure (noResult v l)

def enqSrd : EnqSem := solveWindow (·.1)
def enqSrq : EnqSem := solveWindow fun x => .ofNat 32 x.2

/-- A register named by a selector of SRN or ORN, as it stood at the end of step 2. -/
def resultReg (keys : List Nat) : EnqSem := fun v area addr l => do
  let sel ← selOperand area addr
  match keys[sel]? with
  | some k => pure ((l.setWa v.task (l.viewReg k)).setBa v.task true, 24)
  | none => .error fResarg

def enqSrn : EnqSem := resultReg [R.SOL.SOLNO_L.key, R.SOL.SOLNO_H.key, 0x1105C]
def enqOrd : EnqSem := fun v area addr l => do
  let w ← v.readWord l area addr
  let x := (l.enqCtx v.task).xr
  match l.opt.seen with
  | some r => match r.item (bits x 2 0) (bits x 15 8) w.toNat with
    | some y => pure ((l.setWa v.task y).setBa v.task true, 24)
    | none => .error fResarg
  | none => pure (noResult v l)

/-- Opcode 0x95, ORN of the result registers. -/
def enqOrnResult : EnqSem := resultReg [R.OPT.DISPNO_L.key, R.OPT.DISPNO_H.key, 0x13064, R.OPT.OBJ.key]

/-! ### Queues, time, registers, display: 0xA0 to 0xB8 (R272 to R275) -/

/-- The queue XR names, where the executor has the access. -/
def EnqEnv.queueArg (v : EnqEnv) (l : Lane) (reads : Bool) : Except Nat Nat :=
  let x := (l.enqCtx v.task).xr.toNat
  if 64 ≤ x then .error fQaccess
  else
    let e := l.queueEnds x
    if x < 8 ∨ 56 ≤ x ∨ (if reads then e.2 else e.1) ≠ v.exe then .error fQaccess else .ok x

/-- Index of the first of two variable words. -/
def EnqEnv.pairOperand (v : EnqEnv) (l : Lane) (area addr : Nat) : Except Nat Nat := do
  let a ← v.varOperand l area addr
  if 4 * (a + 1) < (l.exe v.exe).decl.vsize then pure a else .error fAddr

def enqQget : EnqSem := fun v area addr l => do
  let a ← v.pairOperand l area addr
  let q ← v.queueArg l true
  match l.queueTake q with
  | (none, l) => pure ((l.setWa v.task 0).setBa v.task false, 12)
  | (some (d, last), l) =>
    let l := (l.setVarWord v.exe a (d.setWidth 32)).setVarWord v.exe (a + 1) (.ofNat 32 (d.toNat / 2 ^ 32))
    pure ((l.setWa v.task (if last then 2 else 1)).setBa v.task true, 12)

/-- A word written by a task: an item it opens is its own, with half its PRIO as priority (19_queues.md R422). -/
def Lane.taskPut (l : Lane) (n q : Nat) (d : Dword) : Lane × Bool :=
  let l := if (l.queue q).wOpen then l else l.setQueue q { l.queue q with wTask := n }
  l.queuePut q ((l.task n).cfg.prio / 2) d

def enqQput : EnqSem := fun v area addr l => do
  let a ← v.pairOperand l area addr
  let q ← v.queueArg l false
  let d : Dword := .ofNat 64 ((l.varWord v.exe a).toNat + (l.varWord v.exe (a + 1)).toNat * 2 ^ 32)
  let r := l.taskPut v.task q d
  pure (r.1.setBa v.task r.2, 12)

def enqQend : EnqSem := fun v area addr l => do
  noOperand area addr
  let q ← v.queueArg l false
  pure (l.queueClose q, 6)

/-- One word of frame time (R273). -/
def timeWord (l : Lane) (sel : Nat) : Option Word :=
  let t := l.trailer
  let ns := t.nt.toNat % 1000000000
  let sec := t.nt.toNat / 1000000000
  match sel with
  | 0 => some (.ofNat 32 t.fno)
  | 1 => some (.ofNat 32 (t.fno / 2 ^ 32))
  | 2 => some (.ofNat 32 ns)
  | 3 => some (.ofNat 32 sec)
  | 4 => some (.ofNat 32 (sec / 2 ^ 32 % 65536))
  | 5 => some (.ofNat 32 t.flen)
  | 6 => some (t.cal.setWidth 32)
  | 7 => some (.ofNat 32 (t.cal.toNat / 2 ^ 32))
  | 8 => some (.ofNat 32 ((if t.calq then 1 else 0) + 2 * t.sync.code))
  | _ => none

def enqTime : EnqSem := fun v area addr l => do
  let sel ← selOperand area addr
  match timeWord l sel with
  | some w => pure (l.setWa v.task w, 4)
  | none => .error fIllfmt

/-- The register address in XR. -/
def EnqEnv.regArg (v : EnqEnv) (l : Lane) : Except Nat Word :=
  let a := (l.enqCtx v.task).xr
  if a.toNat % 4 ≠ 0 ∨ a.toNat < 0x40000000 ∨ 0x40100000 ≤ a.toNat then .error fRegaddr else .ok a

def enqRrd : EnqSem := fun v area addr l => do
  noOperand area addr
  let a ← v.regArg l
  let r := Lane.engineRead v.hub v.nv l v.exe a
  pure ((r.2.2.setWa v.task r.1).setBa v.task (decide (r.2.1 = 0)), 30)

def enqRwr : EnqSem := fun v area addr l => do
  noOperand area addr
  let a ← v.regArg l
  let r := l.writeReg v.hub (.engine (.ofNat 8 v.exe)) [] a (l.enqCtx v.task).wa
  pure ((r.1.setWa v.task (.ofNat 32 (fullStatus a r.2))).setBa v.task (decide (r.2 = 0)), 30)

/-- The list is copied at the hand-off (R275). -/
def enqDlst : EnqSem := fun v area addr l => do
  let a ← v.varOperand l area addr
  let n := (l.varWord v.exe a).toNat
  let e := l.exe v.exe
  if n = 0 ∨ 16383 < n ∨ e.decl.vsize ≤ 4 * (a + n) then .error fDlstlen
  else pure ((l.setExe v.exe { e with dlist := some (a, n) }).setBa v.task true, 40 + (n + 15) / 16)

/-- Every opcode without a row in Table ENQ-5. -/
def enqIllop : EnqSem := fun _ _ _ _ => .error fIllop

/-! ### The opcode table -/

/-- Table ENQ-5: opcode and meaning. -/
def enqTable : List (Nat × EnqSem) := [
  (0x01, enqLd), (0x02, enqLdn), (0x03, enqAnd), (0x04, enqAndn), (0x05, enqOr), (0x06, enqOrn), (0x07, enqXor),
  (0x08, enqSt), (0x09, enqStn), (0x0A, enqSet), (0x0B, enqRst), (0x0C, enqNot), (0x0D, enqRe), (0x0E, enqFe),
  (0x10, enqAndOpen), (0x11, enqOrOpen), (0x12, enqXorOpen), (0x13, enqAndnOpen), (0x14, enqCloseParen),
  (0x15, enqPushw), (0x16, enqPopw), (0x20, enqLdw), (0x21, enqStw), (0x22, enqLdhi), (0x23, enqLdb), (0x24, enqStb),
  (0x25, enqLdx), (0x26, enqStx), (0x27, enqAdx), (0x28, enqAdd), (0x29, enqSub), (0x2A, enqMul), (0x2B, enqDiv),
  (0x2C, enqMod), (0x2D, enqWand), (0x2E, enqWor), (0x2F, enqWxor), (0x30, enqShl), (0x31, enqShr), (0x32, enqSar),
  (0x33, enqNeg), (0x34, enqEq), (0x35, enqNe), (0x36, enqLt), (0x37, enqLe), (0x38, enqGt), (0x39, enqGe),
  (0x3A, enqLtu), (0x3B, enqGtu)] ++ [
  (0x40, enqFadd), (0x41, enqFsub), (0x42, enqFmul), (0x43, enqFdiv), (0x44, enqFmin), (0x45, enqFmax),
  (0x46, enqFabs), (0x47, enqFneg), (0x48, enqFsqrt), (0x49, enqFlim), (0x4A, enqFeq), (0x4B, enqFlt), (0x4C, enqFle),
  (0x4D, enqFgt), (0x4E, enqFge), (0x4F, enqFfun), (0x50, enqI2f), (0x51, enqF2i), (0x52, enqU2f), (0x58, enqSel),
  (0x60, enqJmp), (0x61, enqJmpc), (0x62, enqJmpn), (0x63, enqCall), (0x64, enqCallc), (0x65, enqRet), (0x66, enqEnd),
  (0x67, enqNop), (0x68, enqEvt), (0x70, enqTon), (0x71, enqTof), (0x72, enqTp), (0x73, enqTpt), (0x74, enqCtu),
  (0x75, enqCtd), (0x76, enqCld), (0x77, enqCrst), (0x78, enqCpv)] ++ [
  (0x80, enqLpv), (0x81, enqLsp), (0x82, enqLeLoop), (0x83, enqLuc), (0x84, enqLud), (0x85, enqLi), (0x86, enqLst),
  (0x88, enqLpsp), (0x89, enqLman), (0x8A, enqLmode), (0x90, enqSrd), (0x91, enqSrq), (0x92, enqSrn), (0x94, enqOrd),
  (0x95, enqOrnResult), (0xA0, enqQget), (0xA1, enqQput), (0xA2, enqQend), (0xB0, enqTime), (0xB4, enqRrd),
  (0xB5, enqRwr), (0xB8, enqDlst)]

def enqSem (op : Nat) : EnqSem :=
  match enqTable.find? fun r => r.1 == op with
  | some r => r.2
  | none => enqIllop

/-- The loop reads that park a task in stage A (R240, R269). -/
def isLoopRead (op : Nat) : Bool := decide (0x80 ≤ op) && decide (op ≤ 0x86)

/-! ### Execution of one instruction -/

/-- An instruction executes in the running task: PC moves past it, its cycles are counted, and a fault leaves
everything as it was and is recorded (R250, R264, R276); a feed section that exceeds WCFEED faults (R242). -/
def EnqEnv.run (v : EnqEnv) (l : Lane) (sem : EnqSem) (area addr : Nat) : Lane :=
  let pc := (l.enqCtx v.task).pc
  let t := l.task v.task
  match sem v area addr (l.modCtx v.task fun c => { c with pc := c.pc + 1 }) with
  | .error c => l.prgFault v.exe v.task c pc
  | .ok (l', cost) =>
    let l' := l'.charge v.exe v.task (cost + indexCost area)
    if t.ph = .feed ∧ t.cfg.wcfeed < (l'.task v.task).feedCyc then l.prgFault v.exe v.task 0x41 pc else l'

/-- An instruction given to an executor by itself: it executes in the executor's running task in RUN. -/
def Lane.enqCommand (l : Lane) (h : Hub) (nv : NvStore) (exe : Nat) (sem : EnqSem) (area addr : Nat) : Lane :=
  match (l.exe exe).cur with
  | none => l
  | some n =>
    if l.prg.mode ≠ .run ∨ (l.exe exe).faulted then l
    else EnqEnv.run { hub := h, nv := nv, exe := exe, task := n, stage := .cmd } l sem area addr

end Sys2Proof.Machine
end

