-- ==== Sys2Proof/Machine/PrgRun.lean ====
section
/-! DEFINITION. The stages of step 7 on E4 and E5 (10_cyclic_programs.md R239 to R242, Table PRG-3): tasks run in
priority order until their section ends, they fault, they reach a loop read in stage A, or the stage's
counted allowance is spent. -/

namespace Sys2Proof.Machine

/-- Allowance of stages F and A together, and of stage B. -/
def allowanceA : Nat := 216000
def allowanceB : Nat := 108000

/-- One fetch: the word at PC, or CODERANGE (R261). -/
def EnqEnv.stepTask (v : EnqEnv) (l : Lane) : Lane :=
  let pc := (l.enqCtx v.task).pc
  let e := l.exe v.exe
  if e.decl.ncode ≤ pc then l.prgFault v.exe v.task fCoderange pc
  else
    let w := e.code.getD pc 0
    v.run l (enqSem (bits w 31 24)) (bits w 23 20) (bits w 19 0)

/-- The opcode PC stands at. -/
def EnqEnv.nextOp (v : EnqEnv) (l : Lane) : Nat := bits ((l.exe v.exe).code.getD (l.enqCtx v.task).pc 0) 31 24

/-- Instructions of one task until its section ends, it faults, it parks, or the count reaches `limit`. The
fuel is more than the instructions a stage's allowance can hold, since each costs at least one cycle. -/
def EnqEnv.runTask (v : EnqEnv) (limit : Nat) : Nat → Lane → Lane
  | 0, l => l
  | fuel + 1, l =>
    let e := l.exe v.exe
    if e.faulted ∨ e.cur ≠ some v.task ∨ limit ≤ e.used then l
    else if v.stage = .a ∧ isLoopRead (v.nextOp l) then l.setTask v.task { l.task v.task with parked := true }
    else EnqEnv.runTask v limit fuel (v.stepTask l)

/-- Tasks of an executor in ascending PRIO, the lower number first. -/
def Lane.taskOrder (l : Lane) (exe : Nat) : List Nat :=
  let mine := (List.range 40).filter fun n => (l.task n).cfg.kind != 0 && (l.task n).cfg.exe == exe
  (List.range 256).flatMap fun p => mine.filter fun n => (l.task n).cfg.prio == p

def Lane.setCur (l : Lane) (exe n : Nat) : Lane := l.setExe exe { l.exe exe with cur := some n }

/-- Copy-in and start of a cycle at its feed section. -/
def Lane.startFeed (l : Lane) (n : Nat) : Lane :=
  let l := l.copyIn n
  l.setTask n { (l.task n).startAt (l.task n).cfg.feed with ph := .feed }

/-- The main section starts; a task without a feed section copies in here. -/
def Lane.startMain (l : Lane) (n : Nat) : Lane :=
  let l := if (l.task n).ph = .released then l.copyIn n else l
  l.setTask n { (l.task n).startAt (l.task n).cfg.main with ph := .main }

/-- Stage F: copy-in and feed section of every task that starts a cycle and has one. -/
def Lane.stageF (h : Hub) (nv : NvStore) (exe : Nat) (l : Lane) : Lane :=
  (l.taskOrder exe).foldl (fun (l : Lane) n =>
    let e := l.exe exe
    if e.faulted ∨ allowanceA ≤ e.used ∨ (l.task n).ph ≠ .released ∨ !(l.task n).cfg.hasFeed then l
    else
      let v : EnqEnv := { hub := h, nv := nv, exe := exe, task := n, stage := .feed }
      v.runTask allowanceA (allowanceA + 1) ((l.startFeed n).setCur exe n)) l

/-- Work of a task in stages A and B. -/
def Task.hasWork (t : Task) (stage : EnqStage) : Bool :=
  match t.ph with
  | .idle => false
  | .released => !t.cfg.hasFeed
  | .feed => true
  | .feedDone => true
  | .main => !(stage == .a && t.parked)

/-- Tasks with work, the first of the order each time, until none is left or the stage ends. -/
def Lane.runStage (h : Hub) (nv : NvStore) (exe : Nat) (stage : EnqStage) (limit : Nat) : Nat → Lane → Lane
  | 0, l => l
  | fuel + 1, l =>
    let e := l.exe exe
    if e.faulted ∨ limit ≤ e.used then l
    else match (l.taskOrder exe).find? fun n => (l.task n).hasWork stage with
      | none => l
      | some n =>
        let v : EnqEnv := { hub := h, nv := nv, exe := exe, task := n, stage := stage }
        let l := if (l.task n).ph = .released ∨ (l.task n).ph = .feedDone then l.startMain n else l
        Lane.runStage h nv exe stage limit fuel (v.runTask limit (limit + 1) (l.setCur exe n))

def Lane.stageA (h : Hub) (nv : NvStore) (exe : Nat) (l : Lane) : Lane :=
  Lane.runStage h nv exe .a allowanceA (allowanceA + 1) l

/-- LB: parked tasks have work again. -/
def Lane.passLb (l : Lane) : Lane :=
  { l with prg := { l.prg with tasks := l.prg.tasks.map fun (t : Task) => { t with parked := false } } }

def Lane.stageB (h : Hub) (nv : NvStore) (exe : Nat) (l : Lane) : Lane :=
  let limit := (l.exe exe).used + allowanceB
  Lane.runStage h nv exe .b limit (allowanceB + 1) l

/-- The counts of a frame start at zero, and no task is parked yet. -/
def Lane.prgFrameStart (l : Lane) : Lane :=
  let f (e : Executor) : Executor := { e with used := 0 }
  { l with prg := { l.prg with
      e4 := f l.prg.e4, e5 := f l.prg.e5, tasks := l.prg.tasks.map fun (t : Task) => { t with parked := false } } }

/-- A stage of both executors, E4 first, in RUN. -/
def Lane.bothStages (l : Lane) (f : Nat → Lane → Lane) : Lane := if l.prg.mode = .run then f 5 (f 4 l) else l

/-- The display list of an executor, as its words stand. -/
def Lane.listOf (l : Lane) (exe : Nat) : Option (List Word) :=
  (l.exe exe).dlist.map fun (a, n) => (List.range n).map fun i => l.varWord exe (a + 1 + i)

/-- The display list goes to E1 with the hand-off; E5's stands where both gave one (R275). -/
def Lane.handList (l : Lane) : Lane :=
  if l.prg.mode ≠ .run then l
  else
    { l with
        dlist := (l.listOf 5).orElse fun _ => l.listOf 4
        prg := { l.prg with e4 := { l.prg.e4 with dlist := none }, e5 := { l.prg.e5 with dlist := none } } }

end Sys2Proof.Machine
end

