-- ==== Sys2Proof/Machine/Steps.lean ====
section
/-! DEFINITION. What one lane does at its input instant: the steps of Table ARC-5 (01_architecture.md R37) over one
visible input frame. -/

namespace Sys2Proof.Machine

/-! ### Step 1 -/

/-- What every lane is given for one frame. -/
structure FrameGiven where
  frame : InputFrame
  nv : NvStore
  hub : Hub
  ts : Touchstone
  cal : Calendar
  /-- clocks declared failed -/
  declared : BitVec 19

/-- What a lane's steps find out on their way. -/
structure FrameFacts where
  final : Bool := false
  shutdown : Bool := false
  stations : List Nat := []
  lifetime : List Byte := []

structure AnalogIn where
  ai : List Nat
  block : List Word
  v : Verdict

def InputFrame.analog (f : InputFrame) : Option AnalogIn := f.arrivals.findSome? fun a => match a.body with
  | .analog ai block v => some ⟨ai, block, v⟩
  | _ => none

/-- The frame's own marks start afresh. -/
def Lane.clearFrame (l : Lane) : Lane :=
  { l with answers := [], dlist := none, ranFrame := true, inloss := false }

def Verdict.driven (v : Verdict) : Bool := v.owner == .laneA || v.owner == .laneB

/-- PD_NV is on, not faulted, and its clock runs, as the block shows it (R325). -/
def blockNvUp (b : List Word) : Bool := blockBit b 5 8 && !blockBit b 5 24 && blockBit b 6 18

/-- The quench image record written in the frame before is in use (R138). -/
def Lane.pioStep1 (l : Lane) (o : NvOutcome) : Lane :=
  match o.done.find? fun r => r.op == 1 && r.part == 0 && r.rid == 2 with
  | some r =>
    let l := (((l.put R.PIO.QVALID 1).put R.PIO.QSEQ ((l.recInfo 0 2).seq.getD 0)).irq R.PIO.I_QCHG).put R.HLTH.QIMGINV 0
    { l with qdo := (readPio r.data).1 }
  | none => l

/-- The outcome of the output frame before. -/
def Lane.outcomeStep1 (l : Lane) (v : Verdict) (up : Bool) : Lane :=
  let r := l.nvStep1 v.driven up
  let l := ((r.1.meterStep1 r.2).retainStep1 r.2).patDone r.2
  let l := ((l.slotsStep1 r.2).replaceStep1 r.2).lifeCycleStep1
  let l := ((l.pioStep1 r.2).timeStep1 v).pulseStep1 (v.driven && l.configured)
  let l := l.portsLost v.driven
  if l.leftOut.isEmpty then l else l.inc R.HLTH.OFOVR

/-- Plant inputs on the PIO page and in the process image (Tables TST-13 and PRG-5). -/
def Lane.analogStep1 (l : Lane) (ai : List Nat) : Lane :=
  (List.range 8).foldl (fun (l : Lane) i =>
    let v := ai.getD i 0
    (l.put ((if i % 2 = 0 then R.PIO.AI_L else R.PIO.AI_H).idx (i / 2)) v).setPi (4 + i) (.ofNat 32 v)) l

def edgeWord (es : List DiEdge) (level : Bool) : Word :=
  es.foldl (fun (w : Word) e => if e.level = level then w ||| (1#32 <<< e.din) else w) 0

def Lane.digitalStep1 (l : Lane) : Lane :=
  let l := (l.setPi 1 0).setPi 2 0
  l.arrivals.foldl (fun (l : Lane) a => match a.body with
    | .digital di pcnt es _ =>
      let l := (((l.setReg R.PIO.DI.key di).setPi 0 di).setPi 1 (edgeWord es true)).setPi 2 (edgeWord es false)
      (List.range 16).foldl (fun (l : Lane) i => l.setPi (0x10 + i) (pcnt.getD i 0)) l
    | _ => l) l

/-- A frame of the fabric: link `n` unless it was looped back, as an own exchange or vote is; decisions come from source
0x05 (R438). -/
def Lane.fabricArrival (l : Lane) (src : Nat) (stamp : Int) (data : List Byte) : Lane :=
  let f := Machine.readFab data
  let n := if src = 0x05 ∨ (src = 0x14 ∧ 4 ≤ f.typ ∧ f.src = l.modId) then none else some (src - 0x14)
  let r := l.fabFrame n stamp data
  match r.body with
  | some (f, p) => r.lane.domainFrame f p (src == 0x05)
  | none => r.lane

/-- One arrival at step 1. -/
def Lane.arrivalStep1 (l : Lane) (a : Arrival) : Lane := match a.body with
  | .port (.fabFrame stamp data) => l.fabricArrival a.src stamp data
  | .port (.fabStatus p s b u) => l.linkStatus (a.src - 0x14) p s b u
  | .port (.fabStamp stamp seq) => l.timeStamp (a.src - 0x14) seq stamp
  | .port b => l.portStep1 a.src b
  | .adu _ svc _ data => if svc = 1 then l.clientAdu data else l
  | _ => l

def Lane.goodStations (l : Lane) : List Nat := (l.ports.stations.filter fun s => s.good).map (·.stn)

/-- Step 1: input frame k becomes visible. -/
def Lane.step1 (g : FrameGiven) (l : Lane) : Lane × FrameFacts :=
  let t := g.frame.trailer
  let first := t.fno == l.k0
  let an := g.frame.analog.getD ⟨[], l.prevBlock.getD [], g.hub.verdict⟩
  let good := l.goodStations
  let wasLow := l.prevBlock.any fun b => blockBit b 0 6
  let wasReduced := l.reduced
  let facts : FrameFacts := { lifetime := l.lifetimeRecord }
  let l : Lane := { l.clearFrame with frame := some g.frame }
  let l := ((l.loadFrameRegs t).loadTimeRegs t).countDrops g.frame.arrivals
  let l := (l.loadBlock g.frame an.block g.declared).reducedStep1 (blockBit an.block 0 4)
  let rst := l.resetSeen an.v
  let r := l.loadVerdict g.ts an.v
  let l := r.1.outcomeStep1 an.v (blockNvUp an.block)
  let l := (l.analogStep1 an.ai).digitalStep1.fabKeyStep
  let l := g.frame.arrivals.foldl Lane.arrivalStep1 l
  let l := (l.telegramStep1.queueSnapshot.kind2Step1.asyRoles rst).prgStep1.patStep1
  let l := if first then l.k0Work g.nv g.cal.sram else l
  let l := if r.2 then l.placeHealth g.ts false else l
  let now := l.goodStations
  (l, { facts with
    final := l.reduced && !wasReduced
    shutdown := blockBit an.block 0 6 && !wasLow
    stations := (good.filter fun n => !now.contains n) ++ now.filter fun n => !good.contains n })

/-! ### Step 2 -/

/-- One arrival of source 0x04 at step 2. -/
def Lane.arrivalStep2 (g : FrameGiven) (l : Lane) (a : Arrival) : Lane :=
  let note (l : Lane) (x tag : Nat) (codes : List Half) : Lane := { l with answers := l.answers ++ [(x, tag, l.fno, codes)] }
  match a.body with
  | .write x tag role es entropy =>
    let r := Lane.applyEntries g.hub g.nv role entropy es l
    note r.1 x tag r.2
  | .rcClear addr w => l.applyRcClear addr w
  | .lane (.salt v) => l.loadSalt v
  | .lane (.tsalt v) => l.setPorts fun p => { p with tsalt := some (sliceB v 0 5) }
  | .lane (.page x tag i data) =>
    let r := l.imagePage i data
    note r.1 x tag [.ofNat 16 (if r.2 = 0 then 0x2C00 else r.2)]
  | .lane (.verification a b) => l.verification a b
  | .lane (.assay r) => l.assayReport r
  | _ => l

/-- Step 2: presets at k0, held writes in engine order, then the arrivals; what follows acts at its end. -/
def Lane.step2 (g : FrameGiven) (l : Lane) : Lane :=
  let l := if l.fno = l.k0 then (l.presets.foldl (fun (l : Lane) p => l.applyPreset g.hub p) l) else l
  let l := l.applyAllHeld g.hub
  let l := g.frame.arrivals.foldl (Lane.arrivalStep2 g) l
  let l := l.attStep2.prgStep2.forceTimeouts.stagingExpiry.metStep2
  let l := (l.setSlv fun s => { s with seen := s.cur }).setOpt fun s => { s with seen := s.cur }
  l.viewPi.takeView g.hub g.nv

/-! ### Steps 3 to 7 -/

def Lane.onEngine (l : Lane) (n : Nat) (f : Lane → Lane) : Lane := if l.engineRuns n then f l else l

/-- Steps 3 to 6. -/
def Lane.steps36 (l : Lane) : Lane × Bool × Bool :=
  let no (l : Lane) : Option Nat := l.slv.cur.map (·.n)
  let dn (l : Lane) : Option Nat := l.opt.cur.map fun r => r.job.n
  let l3 := l.onEngine 3 Lane.solveStep3
  let l4 := l3.onEngine 3 Lane.dispatchStep4
  let l6 := (l4.onEngine 3 Lane.solveStep5).onEngine 3 Lane.dispatchStep6
  (l6, no l3 != no l, dn l4 != dn l3)

/-- E4 to E7 at step 7 (Table PRG-3, 09_control_loops.md R219). -/
def Lane.programStep7 (g : FrameGiven) (ev : EventFacts) (at2 l : Lane) : Lane :=
  let stage (f : Nat → Lane → Lane) (l : Lane) : Lane := l.bothStages fun n l => l.onEngine n (f n)
  let l := l.prgFrameStart.releaseTasks ev
  let l := (stage (Lane.stageF g.hub g.nv) l).passPb
  let l := { l.loopPass at2 with loopsLate := !(l.engineRuns 6 && l.engineRuns 7) }.traceStep
  let l := stage (Lane.stageB g.hub g.nv) (stage (Lane.stageA g.hub g.nv) l).passLb
  l.handOff.handList

/-- Records placed by the frame itself (Table NVS-5): the final save with its two records, health every 60 s, and
lifetime counters that changed. -/
def Lane.recordsStep7 (l : Lane) (ts : Touchstone) (f : FrameFacts) : Lane :=
  let l := l.meterStep7 f.final f.shutdown
  let l := if f.shutdown then l.placeShutdown 1 else l
  if f.final then (l.placeHealth ts true).placeLifetime true
  else
    let l := if l.fno % 60000 = 50000 then l.placeHealth ts false else l
    if l.lifetimeRecord = f.lifetime then l else l.placeLifetime false

/-- E0 to E2 and the hand-offs of step 7, and the entries that wait for it. -/
def Lane.serviceStep7 (g : FrameGiven) (f : FrameFacts) (at2 l : Lane) : Lane :=
  let l := l.emit 1 0 (.plant l.plantOut.1 l.plantOut.2)
  let l := l.onEngine 2 fun l => l.pulseStep7.timeStep7
  let l := (l.onEngine 3 Lane.domainStep7).onEngine 1 Lane.portStep7
  let l := l.onEngine 0 fun l => ((((l.patStep7 at2).kcmdStep7).attStep7).pageStep7)
  let l := l.fabKeyStep.onEngine 1 Lane.fabStep7
  let l := l.onEngine 0 fun l => if l.pat.summary.isSome then l.summaryStep g.nv l.identity else l
  let l := (l.recordsStep7 g.ts f).retainStep7.reissue
  let l := l.onEngine 1 Lane.fabSeal
  if l.prg.mode = .hold then { l with prg := { l.prg with heldFor := l.prg.heldFor + 1 } } else l

/-- Step 7. -/
def Lane.step7 (g : FrameGiven) (f : FrameFacts) (pub : Bool × Bool) (at2 l : Lane) : Lane :=
  let l := l.onEngine 2 fun l => (l.metStep7 g.hub.flenPrev).heatStep7
  let l := l.programStep7 g { solPub := pub.1, optPub := pub.2, stations := f.stations } at2
  l.serviceStep7 g f at2

/-- Steps 3 to 7. -/
def Lane.steps37 (g : FrameGiven) (f : FrameFacts) (l : Lane) : Lane :=
  let r := l.steps36
  r.1.step7 g f r.2 l

/-- A lane that lost its input frame does nothing but report it (R26). What became of its output frame before it has not
learnt: where both lanes lost the frame and go on, the verdict of the lost frame, which drove nothing, stands for that one's
too (assumption log 132). -/
def Lane.inputLost (l : Lane) : Lane :=
  { l with answers := [], dlist := none, ranFrame := true, inloss := true }

end Sys2Proof.Machine
end

