-- ==== Sys2Proof/Machine/FrameOut.lean ====
section
/-! DEFINITION. The input instant on both lanes, the delivery of output frames, and the apply instant
(01_architecture.md R27 to R37, 04_frame.md R90, R103, 05_touchstone.md R118, R123 to R135, 20_rogon_fabric.md R436
to R445). -/

namespace Sys2Proof.Machine

/-! ### Roles and transfers at step 1 (R123, R127) -/

/-- A lane in RECEIVE stops its engines but E0 (Table TST-8). -/
def Lane.stopEngines (l : Lane) : Lane :=
  let l := (List.range 7).foldl (fun (l : Lane) n => l.put (R.ENG.STATE.inst (n + 1)) 4) l
  { l with running := false, phase := 0 }

/-- A lane takes the role of the verdict. -/
def State.takeRole (s : State) (x : LaneId) (r : Role) : State :=
  if s.ts.role x = r then s
  else match r with
    | .receive => onLane x Lane.stopEngines s
    | .unfit => onLane x (fun l => { l with running := false, phase := 0 }) s
    | .off => s.laneOff x
    | .failed => s.laneOff x
    | _ => s

/-- Roles and mode of the verdict are in force; sessions and connections end where the owner changes (R31). -/
def State.takeRoles (s : State) (v : Verdict) : State :=
  let was := s.activeId
  let s := (s.takeRole .a v.roleA).takeRole .b v.roleB
  let s := s.setTs fun t => { t with roleA := v.roleA, roleB := v.roleB, mode := v.mode }
  if s.activeId = was then s
  else
    let s := s.setHub fun h => h.dropConnections.setDisp Display.newOwner
    { s with laneA := s.laneA.ptpNewOwner, laneB := s.laneB.ptpNewOwner }

/-- Phases 1 and 2 begin with their frames (Table TST-8). -/
def Transfer.frame (x : Transfer) (k : Nat) : Transfer :=
  if x.test || x.failed then x
  else if x.phase = 0 then { x with phase := 1, started := k }
  else if x.phase = 1 ∧ x.started < k then { x with phase := 2, passes := 1 }
  else x

/-- The report of a commanded start-up test opens the transfer that brings the lane back (18_assay.md R419), or
fails it. -/
def Transfer.tested (x : Transfer) (r : AssayReport) : Transfer :=
  if x.test ∧ r.typ = 3 ∧ r.lane = x.receiver then
    (if r.res = 1 then { x with test := false } else { x with test := false, failed := true, testBad := true })
  else x

/-- Reports of the frame as Touchstone knows them. -/
def Touchstone.reported (t : Touchstone) (r : AssayReport) : Touchstone :=
  { t with transfer := t.transfer.map fun (x : Transfer) => x.tested r }

def Touchstone.reports (t : Touchstone) (f : InputFrame) : Touchstone :=
  f.arrivals.foldl (fun (t : Touchstone) a => match a.body with
    | .lane (.assay r) => t.reported r
    | _ => t) t

/-- Catch-up: a computation whose snapshot lies before the rejoin frame is the source lane's (Table TST-8 phase 5). -/
def Solver.older (v : Solver) (k : Nat) : Bool :=
  (v.job.any fun j => decide (j.fno < k)) || (v.ready.any fun r => decide (r.fno < k)) || (v.epochs.any fun j => decide (j.fno < k)) || v.waiting.any fun r => decide (r.fno < k)

def Optimiser.older (v : Optimiser) (k : Nat) : Bool :=
  (v.job.any fun j => decide (j.fno < k)) || v.ready.any fun r => decide (r.job.fno < k)

def State.catchUp (s : State) : State :=
  match s.ts.transfer with
  | none => s
  | some x =>
    let src := s.lane x.receiver.other
    if x.phase < 4 ∨ !src.running ∨ src.inloss then s
    else onRunningLane x.receiver (fun l =>
      if l.inloss then l
      else { l with
        slv := if src.slv.older x.rejoin then src.slv else l.slv
        opt := if src.opt.older x.rejoin then src.opt else l.opt }) s

/-! ### The input instant -/

/-- Steps 1 and 2 on one lane, or the loss of the frame (R26). -/
def Lane.steps12 (l : Lane) (g : FrameGiven) (loss : Bool) : Lane × FrameFacts :=
  if !l.running then (l, {})
  else if loss then (l.inputLost, {})
  else
    let r := l.step1 g
    (r.1.step2 g, r.2)

def Lane.rest (l : Lane) (g : FrameGiven) (f : FrameFacts) : Lane := if l.running && !l.inloss then l.steps37 g f else l

/-- Clears of RC registers that the frame has applied (R58). -/
def HubPorts.cleared (p : HubPorts) (f : InputFrame) : HubPorts :=
  { p with rcPend := f.arrivals.foldl (fun (l : List (Word × Word)) a => match a.body with
      | .rcClear addr w => l.erase (addr, w)
      | _ => l) p.rcPend }

/-- A servo sample of the fabric's time goes to the hub's clock (20_rogon_fabric.md R448). -/
def State.fabServo (s : State) : State :=
  match s.active with
  | none => s
  | some l =>
    let g := servoCfg l
    let c := s.hub.clk
    let c := if l.fab.gmChange then c.gmChange else c
    let c := match l.fab.sample with
      | some th => c.sample g true th
      | none => c
    let drop (l : Lane) : Lane := l.setFab fun t => { t with sample := none, gmChange := false }
    { s with hub := { s.hub with clk := c }, laneA := drop s.laneA, laneB := drop s.laneB }

/-- In the first frame after k0 E1 hands the hub the module's SALT and the telegrams' TSALT from its random generator,
whose output is free (20_rogon_fabric.md R440, 21_field_ports.md R465; assumption log 120). -/
def State.handSalts (s : State) (l : Lane) : State :=
  if l.fno ≠ l.k0 + 1 ∨ !l.engineRuns 1 then s
  else
    let a := s.drawWords 4
    let b := a.2.drawWords 2
    b.2.setHub fun h => (h.handOver 16 60000 (.lane (.salt a.1))).handOver 5 60000 (.lane (.tsalt (b.1.take 5)))

/-! ### Fabric frames on their way (20_rogon_fabric.md R436) -/

/-- Hub time in ns. -/
def Hub.nsAt (h : Hub) (t : Int) : Nat := 1000000 * h.upFrames + t.toNat

/-- A frame leaves on link `n`, `t` ns into the frame; the stamp of a TIME frame is a free value. -/
def State.putOut (s : State) (n : Nat) (t : Int) (b : List Byte) : State :=
  let s := s.setHub fun h => h.sent (.port (0x14 + n) b)
  let f := Machine.readFab b
  if f.typ = 3 ∧ f.src = ((s.active.map Lane.modId).getD 0) then
    let d := s.draw
    d.2.setHub fun h => h.portArrival (0x14 + n) t (.fabStamp (h.clk.at t + (Config.freeWord d.1).toNat) f.seq)
  else s

/-- Frames queued for a link that is down are discarded (R436). -/
def State.egDown (s : State) : State :=
  let down (e : EgFrame) : Bool := !(s.linkBits e.link).getLsbD 3
  (s.hub.ports.egr.filter down).foldl (fun (s : State) e => onLanes (fun l => l.inc (R.FL.QDROP.inst e.link)) s)
    (s.setHub fun h => h.setPorts fun p => { p with egr := p.egr.filter fun e => !down e })

/-- The next frame of link `n`: of the lowest class number, the one that came first. -/
def Hub.nextOut (h : Hub) (n : Nat) : Option EgFrame :=
  (h.ports.egr.filter fun e => e.link == n).foldl (fun best e => match best with
    | none => some e
    | some b => if e.tc < b.tc then some e else some b) none

/-- Link `n` sends what it can begin by `t` ns into the frame: 0.8 ns a byte, a frame at a time, in strict class order. -/
def State.drainLink (s : State) (n : Nat) (t : Int) : Nat → State
  | 0 => s
  | fuel + 1 => match s.hub.nextOut n with
    | none => s
    | some e =>
      if s.hub.nsAt t < kvGet 0 s.hub.ports.egLine n then s
      else
        let s := s.setHub fun h => h.setPorts fun p =>
          { p with egr := p.egr.erase e, egLine := kvSet 0 p.egLine n (max (kvGet 0 p.egLine n) e.since + ceilDiv (8 * e.data.length) 10) }
        (s.putOut n t e.data).drainLink n t fuel

/-- All links go on sending. -/
def State.drainFab (s : State) (t : Int) : State :=
  (List.range 4).foldl (fun (s : State) n => s.drainLink n t (s.hub.ports.egr.length + 1)) s.egDown

/-- A frame for link `n`: it joins the 64 KiB queue of its class, unless the link is down or it does not fit (R436). -/
def State.egress (s : State) (n : Nat) (t : Int) (b : List Byte) : State :=
  let s := s.drainFab t
  let tc := u8At b 1 % 4
  let used := ((s.hub.ports.egr.filter fun e => e.link == n && e.tc == tc).map fun e => e.data.length).sum
  if !(s.linkBits n).getLsbD 3 ∨ 65536 < used + b.length then onLanes (fun l => l.inc (R.FL.QDROP.inst n)) s
  else (s.setHub fun h => h.setPorts fun p => { p with egr := p.egr ++ [⟨n, tc, h.nsAt t, b⟩] }).drainFab t

/-- What the active lane's E1 does with the frame beside the compared output. -/
def State.afterSteps (s : State) (f : InputFrame) : State :=
  let s := (panelRequests s).drainFab 40000
  let s := s.setHub fun h => h.setPorts fun p => p.cleared f
  match s.active with
  | none => s
  | some l =>
    if !l.running ∨ l.inloss then s
    else
      let s := s.setHub fun h => h.setDisp fun d => ((l.dlist.elim d d.take).again h.upFrames)
      (((s.fabServo).sendAnswers l).sendEvents l).handSalts l

/-- INPUT_INSTANT: once in a frame that has closed and is not yet applied; a lane that loses the frame is named. -/
def State.inputInstant (s : State) (lossA lossB : Bool) : State :=
  match s.hub.closed with
  | none => s
  | some f =>
    if s.startup.isSome ∨ s.hub.applied ∨ f.trailer.fno ≠ s.hub.fno ∨ s.laneA.ranFrame ∨ s.laneB.ranFrame then s
    else
      let v := (f.analog.map fun (a : AnalogIn) => a.v).getD s.hub.verdict
      let s := s.takeRoles v
      let s := s.setTs fun t => { t with transfer := t.transfer.map fun (x : Transfer) => x.frame s.hub.fno }
      let g : FrameGiven := { frame := f, nv := s.nv, hub := s.hub, ts := s.ts, cal := s.cal, declared := s.pwr.clkFail }
      let a := s.laneA.steps12 g lossA
      let b := s.laneB.steps12 g lossB
      let s := { s with laneA := a.1, laneB := b.1 }.catchUp
      let s := { s with laneA := s.laneA.rest g a.2, laneB := s.laneB.rest g b.2 }
      (s.setTs fun t => t.reports f).afterSteps f

/-! ### +600 µs (R27, R90) -/

/-- The lane has run the frame and has not answered for it. Without its E0 it sends neither frame nor heartbeat (R39,
R112). -/
def State.mayDeliver (s : State) (x : LaneId) : Bool :=
  let l := s.lane x
  l.running && l.ranFrame && l.hb.isNone && !s.hub.applied && l.engineRuns 0

/-- An upset shows in the plant outputs. -/
def upsetEntry (u : Option (BitVec 16 × List Nat)) (e : OutEntry) : OutEntry := match u, e.body with
  | some (d, ao), .plant _ _ => { e with body := .plant d ao }
  | _, _ => e

/-- Lane faults told in this frame's heartbeat end with it. -/
def Lane.faultsTold (l : Lane) : Lane := { l with laneflt := false, deadlineFlt := false, asyfail := false }

/-- The frame and the heartbeat leave the lane; its Assay window follows. -/
def Lane.deliver (l : Lane) (p : Power) (d : Delivery) : Lane :=
  let l := if l.get R.FRAME.SLACKMIN ≤ d.margin then l else l.put R.FRAME.SLACKMIN (min d.margin 65535)
  let l := d.finds.foldl Lane.takeFinding ({ l with asyfail := l.asyfail || d.asyFail } : Lane)
  let l := (l.noteTargeted d.ttFail).closeOut
  let es := l.lastOut.map (upsetEntry d.upset)
  let l : Lane := { l with
    delivered := some { fno := l.fno, fp := .ofNat 64 l.cfgFp, entries := es, ok := d.intact }
    hb := some (l.heartbeat p false d.hbIntact) }
  (l.assayWindow d.margin).faultsTold

/-- The final pass of a transfer is taken in a frame that its source delivers (R127). -/
def Transfer.delivered (x : Transfer) (k : Nat) : Transfer :=
  if x.phase = 3 ∧ !x.final ∧ !x.failed then { x with final := true, rejoin := k + 1 } else x

/-- Where the source does not deliver, a further pass copies the lines. -/
def Transfer.missed (x : Transfer) : Transfer :=
  if x.phase = 3 ∧ !x.final ∧ !x.failed then
    (if 16 ≤ x.passes then { x with failed := true } else { x with phase := 2, passes := x.passes + 1 })
  else x

def State.onSource (s : State) (x : LaneId) (f : Transfer → Transfer) : State :=
  s.setTs fun t => { t with transfer := t.transfer.map fun (r : Transfer) => if r.receiver.other = x then f r else r }

/-- A lane that misses the deadline counts the miss and reports NOOUT. A frame withheld because of LD counts in LDMISS
too (09_control_loops.md R219); a pass that is not complete by +40 µs of the next frame is a lane fault told then. -/
def Lane.late (l : Lane) (p : Power) (fno : Nat) (why : Lateness) (ttFail : Bool) : Lane :=
  let l := l.noteTargeted ttFail
  let l := (l.inc R.FRAME.LATECNT).irq R.FRAME.I_LATE
  let l := if why = .frame then l else l.loopLate
  let l := if l.inloss then l else l.closeOut
  let l := ({ l with hb := some { l.heartbeat p true true with fno } } : Lane).faultsTold
  if why = .passes then { l with laneflt := true } else l

/-- A lane without its input frame has no output frame: it sends the heartbeat alone. So does one whose loop engines
have not handed off, since they do not run. -/
def State.outputFrameDelivery (s : State) (x : LaneId) (d : Delivery) : State :=
  if !s.mayDeliver x then s
  else if (s.lane x).inloss then
    (onLane x (fun l => { l with hb := some { (l.noteTargeted d.ttFail).heartbeat s.pwr true d.hbIntact with fno := s.hub.fno } }) s).onSource x
      Transfer.missed
  else if (s.lane x).loopsLate then (onLane x (fun l => l.late s.pwr s.hub.fno .passes d.ttFail) s).onSource x Transfer.missed
  else (onLane x (fun l => l.deliver s.pwr d) s).onSource x fun r => r.delivered s.hub.fno

def State.deadlineMiss (s : State) (x : LaneId) (why : Lateness) (ttFail : Bool) : State :=
  if !s.mayDeliver x then s else (onLane x (fun l => l.late s.pwr s.hub.fno why ttFail) s).onSource x Transfer.missed

/-! ### Transfers and the pre-copy (R127, R128) -/

/-- A pre-copy pass ends with `lines` bytes written since it began: the final pass follows at 256 KiB or less, else a
further pass; a seventeenth fails the transfer. -/
def Transfer.passEnd (x : Transfer) (lines : Nat) : Transfer :=
  if x.phase ≠ 2 ∨ x.failed then x
  else if lines ≤ 262144 then { x with phase := 3, lines }
  else if 16 ≤ x.passes then { x with failed := true, lines }
  else { x with passes := x.passes + 1, lines }

/-! ### What the hub drives (R29, R69, R82, R118, R135) -/

/-- The quench image, or the hardware-off state where no valid image is loaded. -/
def Outputs.quenched (o : Outputs) : Outputs :=
  if o.qvalid then { o with dout := o.qdo, ao := o.qao, hwoff := false, quench := true }
  else { o with dout := 0, ao := List.replicate 8 0, hwoff := true, quench := false, pulses := List.replicate 16 0 }

/-- A written PIO record is in use from the apply instant after its write (R138). -/
def Outputs.loadImage (o : Outputs) : Outputs := match o.qnext with
  | some (d, ao) => { o with qdo := d, qao := ao, qvalid := true, qnext := none }
  | none => o

/-- A frame of every pulse has passed (13_heat_metering_pulses.md R315). -/
def Outputs.pulseFrame (o : Outputs) : Outputs := { o with pulses := o.pulses.map (· - 1) }

/-- Plant outputs and pulse commands of a driven frame. -/
def Outputs.entry (fno : Nat) (o : Outputs) (e : OutEntry) : Outputs := match e.body with
  | .plant d ao => { o with dout := d, ao, hwoff := false, quench := false }
  | .pulse w => { o with pulses := o.pulses.set e.dest w, pulseFno := o.pulseFno.set e.dest fno }
  | _ => o

/-- The frame the apply instant drives: none holds, quench when `quench`. -/
structure Drive where
  quench : Bool := false
  lane : Option LaneId := none
  deriving DecidableEq, Repr

def State.drive (s : State) : Drive :=
  if s.startup.isSome ∨ (s.pwr.shutdown.any fun k => decide (k + 1 ≤ s.hub.fno)) then { quench := true }
  else match s.ts.verdict.owner with
    | .laneA => if s.laneA.delivered.isSome then { lane := some .a } else {}
    | .laneB => if s.laneB.delivered.isSome then { lane := some .b } else {}
    | .held => {}
    | .quench => { quench := true }

/-! ### Entries of the fabric (20_rogon_fabric.md R437, R438) -/

/-- A frame delivered to this module (R438). -/
def Hub.fabLocal (h : Hub) (link : Option Nat) (t stamp : Int) (b : List Byte) : Hub :=
  let src := if (Machine.readFab b).typ = 6 then 0x05 else 0x14 + link.getD 0
  h.portArrival src t (.fabFrame stamp b)

/-- By the route table (R445). -/
def State.route (s : State) (dst : Nat) (t : Int) (b : List Byte) : State :=
  match s.hub.ports.routes.find? fun q => q.dst == dst with
  | some q => s.egress q.link t b
  | none => onLanes (fun l => l.inc R.FAB.NOROUTE) s

/-- Entries in strict class order, TC0 first (R436). -/
def byClass (es : List OutEntry) : List OutEntry :=
  let tc (e : OutEntry) : Nat := match e.body with
    | .bytes b => u8At b 1
    | _ => 0
  (List.range 4).flatMap fun c => es.filter fun e => min 3 (tc e) == c

/-- A class 0x04 entry (R437). -/
def State.fabEntry (own : Nat) (s : State) (e : OutEntry) : State :=
  match e.body with
  | .bytes b =>
    if 0xFF0 ≤ e.dest ∧ e.dest ≤ 0xFF3 then s.egress (e.dest - 0xFF0) 750000 b
    else if e.dest = own then s.setHub fun h => h.fabLocal none 750000 (h.clk.at 750000) b
    else s.route e.dest 750000 b
  | _ => s

/-! ### The store and the calendar after the apply instant (R33, R138, 16_time.md R358) -/

def State.nvReady (s : State) : Bool := s.pwr.isOn 8 && !s.pwr.clkFail.getLsbD 18

/-- The PIO record among the executed requests. -/
def pioWritten (j : List (NvReq × Nat)) : Option (BitVec 16 × List Nat) :=
  (j.find? fun p => p.2 == 0 && p.1.op == 1 && p.1.part == 0 && p.1.rid == 2).map fun p => readPio p.1.data

/-- The program or erase of an executed NAND request fails where `Config.nandFails` says so (14_nv_store.md R339, assumption
log 131): the block is marked, and the page holds free values. -/
def State.nandResult (s : State) (j : List (NvReq × Nat)) : State :=
  match j.find? fun p => p.2 == 0 && p.1.op == 4 with
  | none => s
  | some p =>
    let d := s.draw
    if Config.nandFails d.1 then
      let w := d.2.drawWords 512
      onLanes (fun l => l.irq R.NVS.I_NANDBAD) { w.2 with nv := s.nv.nandFail (p.1.part - 0x20) p.1.num w.1 }
    else d.2

def State.runStore (s : State) (l : Lane) (es : List OutEntry) : State :=
  if !s.nvReady ∨ l.on R.NVS.UNAVAIL then { s with nv := { s.nv with nandLock := s.nv.nandLock - 1, seq := [] } }
  else
    let j := judge l.nv.patSize l.lifeCycle l.committedSlot s.nv.nandLock (outReqs es)
    let s := { s with nv := s.nv.run l.nv.patSize l.lifeCycle l.committedSlot es }.nandResult j
    match pioWritten j with
    | some q => s.setHub fun h => { h with outs := { h.outs with qnext := some q } }
    | none => s

def Calendar.entry (c : Calendar) (e : OutEntry) : Calendar := match e.body with
  | .cal x => c.command x
  | _ => c

/-! ### The apply instant -/

/-- The traffic of the frame of lane `l` (Table ARC-4); without a configuration the outputs stay at the quench image (R4). -/
def State.driveFrame (s : State) (l : Lane) (f : OutFrame) : State :=
  let s := s.setHub fun h => { h with outs := if f.fp = 0 then h.outs.quenched else f.entries.foldl (Outputs.entry f.fno) h.outs }
  let s := s.setHub fun h => f.entries.foldl (fun (h : Hub) e => match e.cls, e.body with
    | 3, .bytes b => h.transmit l f.fno e.dest b
    | _, _ => h) h
  let s := (byClass (f.entries.filter fun e => e.cls == 4)).foldl (State.fabEntry l.modId) s
  let s := s.runStore l f.entries
  { s with cal := f.entries.foldl Calendar.entry s.cal }

/-- Outputs and traffic of this apply instant. -/
def State.driveOutputs (s : State) : State :=
  let d := s.drive
  let s := s.setHub fun h => { h with outs := h.outs.loadImage.pulseFrame }
  let s := match d.lane.bind fun x => (s.lane x).delivered.map fun f => (x, f) with
    | some (x, f) => s.driveFrame (s.lane x) f
    | none => s.runStore {id := .a} []
  if d.quench then s.setHub fun h => { h with outs := h.outs.quenched } else s

/-- Reduced mode as the block of this frame shows it (R64). -/
def State.frameReduced (s : State) : Bool :=
  s.startup.isNone && (s.hub.closed.bind InputFrame.analog).any fun (a : AnalogIn) => blockBit a.block 0 4

def HubPorts.cages (p : HubPorts) (on : Bool) : HubPorts := { p with links := p.links.map fun (k : HubLink) => { k with pwr := on, trip := none } }

/-- Switches PD_DSP. -/
def State.switchDsp (s : State) (on : Bool) : State :=
  if on = s.pwr.isOn 9 ∨ (on ∧ s.pwr.fault.getLsbD 9) then s
  else if on then s.setPwr fun p => p.setDom 9 true
  else dispPowerOff (s.setPwr fun p => p.setDom 9 false)

/-- The Crucible domain of a powered lane, at the end of reduced mode. -/
def State.craBack (s : State) (x : LaneId) : State :=
  if s.pwr.isOn (laneDom x) ∧ !s.pwr.fault.getLsbD (craDom x) then s.setPwr fun p => p.setDom (craDom x) true else s

/-- Domains and cages follow reduced mode (R64, R66); PD_DSP follows DSPOFF (22_display.md R477). -/
def State.applyPower (s : State) : State :=
  if s.startup.isSome then s
  else if s.frameReduced then
    ((s.switchDsp false).setPwr fun p => { p.setDoms [4, 5] false with redOff := true }).setHub fun h => h.setPorts fun p => p.cages false
  else
    let s := if s.pwr.redOff then
        (((s.craBack .a).craBack .b).setPwr fun p => { p with redOff := false }).setHub fun h => h.setPorts fun p => p.cages true
      else s
    match s.active with
    | some l => s.switchDsp !(l.on R.PWR.DSPOFF)
    | none => s

/-- The hub has no verdict of this frame (R134); before k0 it needs none, since it drives the quench image (R82; assumption
log 104). -/
def State.needVerdict (s : State) : State :=
  if s.startup.isSome ∨ s.ts.verdict.vfno = s.hub.fno then s
  else
    let t := s.touchstoneLoss
    if t.ts.lost then t.lostVerdict else t

/-- The path exercise found the standby lane's copy wrong (R133). -/
def State.pathExercise (s : State) (ok : Bool) : State :=
  if s.ts.verdict.pathtest ∧ !ok then
    s.setTs fun t => { t with pathBad := some (if t.verdict.roleA = .standby then .a else .b) }
  else s

/-- Enabled links of a lane. -/
def Lane.linkMask (l : Lane) : BitVec 4 :=
  (List.range 4).foldl (fun (m : BitVec 4) n => if l.fab.linken.getLsbD n && l.enabled (0x3D + n) then m ||| (1#4 <<< n) else m) 0

/-- The owner lane's E1 loads a table it has computed into the switch; in a frame without an owner, as in the quench image,
the switch keeps what it has, and so it does from a restart until the routes are computed again (R444, R445). -/
def State.loadSwitch (s : State) : State := match s.drive.lane with
  | some x =>
    let l := s.lane x
    let s := s.setHub fun h => h.setPorts fun p =>
      { p with routes := if l.fab.routed then l.fab.routes else p.routes, modid := l.modId, linkEn := l.linkMask }
    onLanes (fun l => l.setFab fun t => { t with routed := false }) s
  | none => s

/-- Port queues and timers of the owner, its routes, and the reads that wait for this instant. -/
def State.applyPorts (s : State) : State :=
  match s.active with
  | none => s
  | some l => ((s.setHub fun h => h.expire l fun _ => true).pumpAt 750000).loadSwitch

/-- The reads that wait for this instant: a page of the write sequence that begins now reads as `mram` has it, before the
sequence (14_nv_store.md R327). -/
def State.applyReads (s : State) (mram : List Host.Cell) : State :=
  s.server.elim s fun l => { { s with nv := { s.nv with mram } }.answerWaits l.id with nv := s.nv }

/-- APPLY_INSTANT, once in a frame. -/
def State.applyInstant (s : State) (pathOk : Bool) : State :=
  if !s.hub.running ∨ s.hub.applied then s
  else
    let s := ((s.needVerdict.setHub fun h => { h with applied := true }).pathExercise pathOk).drainFab 750000
    let s := (s.applyPorts.driveOutputs.applyPower).applyReads s.nv.mram
    let s := panelDown (panelUp s)
    if s.pwr.shutdown.any fun k => decide (k + 2 ≤ s.hub.fno) then s.powerDown else s

end Sys2Proof.Machine
end

