-- ==== Sys2Proof/Machine/FrameRows.lean ====
section
/-! DEFINITION. Meanings of the commands of a frame: arrivals, the instants of Table FRM-1, deliveries, verdicts,
transfers, engine faults, restarts and start-up phases (01_architecture.md, 03_power_clocks_start.md, 04_frame.md,
05_touchstone.md). -/

namespace Sys2Proof.Machine

/-! ### The instants of a frame -/

/-- FRAME_START (04_frame.md R86). -/
def execFrameStart (m : SupplyMeas) (s : State) : Host.Outcome State Fault Refusal := .next (s.frameStart m)

/-- DI_EDGE (04_frame.md R509). -/
def execDiEdge (din : Nat) (level : Bool) (t : Int) (s : State) : Host.Outcome State Fault Refusal :=
  .next (s.setHub fun h => h.diEdge din level t)

/-- PULSE_INPUT_COUNT (04_frame.md R509). -/
def execPulseInputCount (n : Nat) (s : State) : Host.Outcome State Fault Refusal := .next (s.setHub fun h => h.pulseCount n)

/-- DI_ARRIVAL_CLOSE (04_frame.md R509). -/
def execDiArrivalClose (s : State) : Host.Outcome State Fault Refusal := .next (s.setHub Hub.closeDigital)

/-- ARRIVAL_COMPLETE (01_architecture.md R23). -/
def execArrivalComplete (src : Nat) (t : Int) (c : ArrContent) (s : State) : Host.Outcome State Fault Refusal :=
  .next (s.arrivalComplete src t c)

/-- INPUT_FRAME_CLOSE (01_architecture.md R21). -/
def execInputFrameClose (s : State) : Host.Outcome State Fault Refusal := .next s.closeFrame

/-- INPUT_INSTANT (01_architecture.md R37). -/
def execInputInstant (lossA lossB : Bool) (s : State) : Host.Outcome State Fault Refusal := .next (s.inputInstant lossA lossB)

/-- OUTPUT_FRAME_DELIVERY (01_architecture.md R27). -/
def execOutputFrameDelivery (lane : LaneId) (d : Delivery) (s : State) : Host.Outcome State Fault Refusal :=
  .next (s.outputFrameDelivery lane d)

/-- DEADLINE_MISS (04_frame.md R90). -/
def execDeadlineMiss (late : LateLane) (s : State) : Host.Outcome State Fault Refusal :=
  .next (s.deadlineMiss late.lane late.why late.ttFail)

/-- The comparison is Touchstone's: without it, or where it is lost, there is none at +700 µs but the hub's own
verdict (R134). -/
def execCompare (s : State) : Host.Outcome State Fault Refusal :=
  .next (if s.ts.lost || s.pwr.isOn 1 then s.compare else s)

/-- TOUCHSTONE_LOSS (05_touchstone.md R134). -/
def execTouchstoneLoss (s : State) : Host.Outcome State Fault Refusal := .next s.touchstoneLoss

/-- APPLY_INSTANT (01_architecture.md R29). -/
def execApplyInstant (pathOk : Bool) (s : State) : Host.Outcome State Fault Refusal := .next (s.applyInstant pathOk)

/-- The pulse of output `n` in its last frame ends. -/
def Outputs.pulseEnd (o : Outputs) (n : Nat) : Outputs :=
  if o.pulses.getD n 0 = 1 then { o with pulses := o.pulses.set n 0 } else o

/-- PULSE_END (13_heat_metering_pulses.md R315): the output opens in the frame its width ends with. The apply instant
counts the frames; where it has already ended the pulse, this changes nothing. -/
def execPulseEnd (n : Nat) (s : State) : Host.Outcome State Fault Refusal :=
  .next (if s.hub.running && !s.hub.applied then s.setHub fun h => { h with outs := h.outs.pulseEnd n } else s)

/-! ### Reports of the lanes -/

/-- ASSAY_REPORT (18_assay.md R414): the report becomes an arrival of source 0x04, which both lanes take at step 2 of its
frame, and Touchstone the result of a commanded start-up test (R419). Without Touchstone none is forwarded. -/
def execAssayReport (r : AssayReport) (s : State) : Host.Outcome State Fault Refusal := .next (s.assayReported 0 r)

/-- VERIFICATION_REPORT (17_security.md R400). -/
def execVerificationReport (a b : VerFault) (s : State) : Host.Outcome State Fault Refusal := .next (s.verReported 0 a b)

/-! ### Transfers and lane resets (05_touchstone.md R127, R128, R130) -/

/-- PRECOPY_PASS_END (05_touchstone.md R127). -/
def execPrecopyPassEnd (lines : Nat) (s : State) : Host.Outcome State Fault Refusal :=
  .next (s.setTs fun t => { t with transfer := t.transfer.map fun (x : Transfer) => x.passEnd lines })

/-- TRANSFER_TIMEOUT (05_touchstone.md R128). -/
def execTransferTimeout (s : State) : Host.Outcome State Fault Refusal := .next s.transferTimeout

/-- LANE_REPOWER (05_touchstone.md R130). -/
def execLaneRepower (lane : LaneId) (s : State) : Host.Outcome State Fault Refusal := .next (s.laneRepower lane)

/-! ### Engine faults (01_architecture.md R19, R39) -/

/-- UNCORRECTABLE_ERROR (01_architecture.md R19). -/
def execUncorrectableError (lane : LaneId) (s : State) : Host.Outcome State Fault Refusal :=
  .next (onRunningLane lane (fun l => { l with laneflt := true }) s)

/-- ENGINE_TRAP (01_architecture.md R39): codes 1 to 3 of Table ARC-7. -/
def execEngineTrap (lane : LaneId) (eng code : Nat) (pc : Word) (s : State) : Host.Outcome State Fault Refusal :=
  .next (if 1 ≤ code ∧ code ≤ 3 then
    onRunningLane lane (fun l => if l.engineRuns eng && decide (eng < 8) then
        (l.engineStops eng 3 code).put (R.ENG.TRAPPC.inst eng) pc.toNat
      else l) s
  else s)

/-- WATCHDOG_EXPIRY (01_architecture.md R39): TRAPC 4. -/
def execWatchdogExpiry (lane : LaneId) (eng : Nat) (s : State) : Host.Outcome State Fault Refusal :=
  .next (onRunningLane lane (fun l => l.engineStops eng 5 4) s)

/-! ### Start-up (03_power_clocks_start.md R79 to R82, 23_physical.md R508) -/

/-- STARTUP_PHASE_END (03_power_clocks_start.md R79). -/
def execStartupPhaseEnd (lane : Option LaneId) (tsOk : Bool) (a b : LaneStart) (s : State) : Host.Outcome State Fault Refusal :=
  .next (s.phaseEnd lane tsOk a b)

/-- LAMP_TEST_END (23_physical.md R508): a lamp test that runs ends now. -/
def execLampTestEnd (s : State) : Host.Outcome State Fault Refusal :=
  .next (s.setHub fun h => { h with lamp := h.lamp.map fun t => min t h.upFrames })

/-- LANE_READY_TIMEOUT (03_power_clocks_start.md R81). -/
def execLaneReadyTimeout (s : State) : Host.Outcome State Fault Refusal := .next s.readyTimeout

/-- START_FRAME (03_power_clocks_start.md R80). -/
def execStartFrame (s : State) : Host.Outcome State Fault Refusal := .next s.startFrame

end Sys2Proof.Machine
end

