-- ==== Sys2Proof/Machine/ComputeRows.lean ====
section
/-! DEFINITION. Meanings of the commands that end a computation or a wait of the lanes: solves, dispatches, epochs,
stale inputs, queue tails, summaries, adjacencies and the timeouts of programs, forces, keys and replacement. The frame
work of a lane (Table ARC-5) makes the same checks at its own steps; a command that comes before its time changes
nothing. -/

namespace Sys2Proof.Machine

/-! ### Computations of E3 (07_crucible_solver.md R179, 08_dispatch_optimiser.md R205) -/

/-- E3 of a lane computes: the lane runs frames, its Crucible domain is on and E3 is not stopped. -/
def State.computes (s : State) (x : LaneId) : Bool := (s.lane x).running && s.pwr.isOn (craDom x) && (s.lane x).engineRuns 3

/-- SOLVE_COMPUTATION_END (07_crucible_solver.md R179). -/
def execSolveComputationEnd (lane : LaneId) (us : Nat) (s : State) : Host.Outcome State Fault Refusal :=
  .next (if s.computes lane then onLane lane (fun l => l.solveEnd us) s else s)

/-- DISPATCH_COMPUTATION_END (08_dispatch_optimiser.md R205). -/
def execDispatchComputationEnd (lane : LaneId) (us : Nat) (s : State) : Host.Outcome State Fault Refusal :=
  .next (if s.computes lane then onLane lane (fun l => l.dispatchEnd us) s else s)

/-! ### Epochs of a computation domain (04_frame.md R109, 07_crucible_solver.md R186, 20_rogon_fabric.md R451) -/

/-- An epoch of a lane's domain with its model. -/
def Lane.onEpoch (l : Lane) (n : Nat) (f : NetModel → SolveJob → Lane) : Lane := match l.slv.model, l.epochOf n with
  | some md, some j => if l.inDomain then f md j else l
  | _, _ => l

/-- BOUNDARY_EXCHANGE_RESEND (20_rogon_fabric.md R451). -/
def execBoundaryExchangeResend (epoch : Nat) (s : State) : Host.Outcome State Fault Refusal :=
  .next (onLanes (fun l => l.onEpoch epoch fun _ j => l.resendEpoch j) s)

/-- EPOCH_STOP (07_crucible_solver.md R186). -/
def execEpochStop (epoch : Nat) (s : State) : Host.Outcome State Fault Refusal :=
  .next (onLanes (fun l => l.onEpoch epoch l.epochStop) s)

/-- DECISION_DEADLINE (04_frame.md R109). -/
def execDecisionDeadline (epoch : Nat) (s : State) : Host.Outcome State Fault Refusal :=
  .next (onLanes (fun l => l.onEpoch epoch l.decideEpoch) s)

/-! ### Stale inputs (13_heat_metering_pulses.md R303, 21_field_ports.md R464) -/

/-- RTD_STALE (13_heat_metering_pulses.md R303). -/
def execRtdStale (s : State) : Host.Outcome State Fault Refusal := .next (onLanes Lane.rtdStale s)

/-- TELEGRAM_STATION_STALE (21_field_ports.md R464). -/
def execTelegramStationStale (stn : Nat) (s : State) : Host.Outcome State Fault Refusal :=
  .next (onLanes (fun l => l.telegramStale stn) s)

/-! ### Queues (19_queues.md R429) -/

/-- An open item of the queue that has gained no word over RTO snapshots is closed, with its last word. -/
def Queue.closeTail (q : Queue) : Queue × Bool :=
  let due (i : QItem) : Bool := i.isOpen && decide (q.rto ≤ i.idle)
  let hit := q.items.any due
  (if hit then
    { q with
        items := q.items.map fun (i : QItem) => if due i then { i with isOpen := false } else i
        strand := satAdd 32 q.strand 1
        orphan := q.orphan || q.wOpen }
  else q, hit)

def Lane.closeTail (l : Lane) (n : Nat) : Lane :=
  let r := (l.queues.getD n {}).closeTail
  ({ l with queues := l.queues.set n r.1 } : Lane).irqIf r.2 R.QMG.I_STRAND

/-- QUEUE_STRANDED_TAIL (19_queues.md R429). -/
def execQueueStrandedTail (q : Nat) (s : State) : Host.Outcome State Fault Refusal := .next (onLanes (fun l => l.closeTail q) s)

/-! ### Patina (15_patina_recorder.md R352) -/

/-- SUMMARY_COMPLETE (15_patina_recorder.md R352). -/
def execSummaryComplete (s : State) : Host.Outcome State Fault Refusal :=
  .next (onLanes (fun l => l.onEngine 0 fun l => l.summaryComplete l.identity) s)

/-! ### The fabric (20_rogon_fabric.md R442, R443) -/

/-- ADJACENCY_TIMEOUT (20_rogon_fabric.md R442). -/
def execAdjacencyTimeout (link : Nat) (s : State) : Host.Outcome State Fault Refusal :=
  .next (if link < 4 then onLanes (fun l => l.adjTimeout link) s else s)

/-- LSA_AGE_OUT (20_rogon_fabric.md R443). -/
def execLsaAgeOut (s : State) : Host.Outcome State Fault Refusal := .next (onLanes Lane.lsaAgeOut s)

/-! ### Programs, keys and replacement (10_cyclic_programs.md R248, R252, 17_security.md R385, R398) -/

/-- HOLD_TIMEOUT (10_cyclic_programs.md R248). -/
def execHoldTimeout (s : State) : Host.Outcome State Fault Refusal := .next (onLanes Lane.holdTimeout s)

/-- FORCE_TIMEOUT (10_cyclic_programs.md R252). -/
def execForceTimeout (s : State) : Host.Outcome State Fault Refusal := .next (onLanes Lane.forceTimeouts s)

/-- STAGING_EXPIRY (17_security.md R385). -/
def execStagingExpiry (s : State) : Host.Outcome State Fault Refusal := .next (onLanes Lane.stagingExpiry s)

/-- VERIFICATION_TIMEOUT (17_security.md R398). -/
def execVerificationTimeout (s : State) : Host.Outcome State Fault Refusal := .next (onLanes Lane.verificationTimeout s)

/-- PROMOTION_ABANDON (17_security.md R398). -/
def execPromotionAbandon (s : State) : Host.Outcome State Fault Refusal := .next (onLanes Lane.promotionAbandon s)

end Sys2Proof.Machine
end

