-- ==== Sys2Proof/Machine/PowerRows.lean ====
section
/-! DEFINITION. Meanings of the commands of the supplies, domains and clocks, and of the calendar's backup domain
(03_power_clocks_start.md R60 to R79, 16_time.md R355 to R361). The environment is the judge of times and voltages that
these commands stand for; a command that cannot occur in the state at hand changes nothing. -/

namespace Sys2Proof.Machine

/-! ### Inputs and converters (R61, R512) -/

/-- INPUT_LOST (03_power_clocks_start.md R61). -/
def execInputLost (inp : InputId) (s : State) : Host.Outcome State Fault Refusal := .next (s.setPwr fun p => p.inputLost inp)

/-- INPUT_GOOD (03_power_clocks_start.md R61). -/
def execInputGood (inp : InputId) (s : State) : Host.Outcome State Fault Refusal := .next (s.setPwr fun p => p.inputGood inp)

/-- CONVERTER_FAULT (03_power_clocks_start.md R512). -/
def execConverterFault (inp : InputId) (s : State) : Host.Outcome State Fault Refusal :=
  .next (s.setPwr fun p => p.converterFault inp)

/-- CONVERTER_RETRY (03_power_clocks_start.md R512). -/
def execConverterRetry (inp : InputId) (ok : Bool) (s : State) : Host.Outcome State Fault Refusal :=
  .next (s.setPwr fun p => p.converterRetry inp s.hub.upFrames ok)

/-- CONVERTER_FAULT_UNLATCH (03_power_clocks_start.md R512). -/
def execConverterFaultUnlatch (inp : InputId) (s : State) : Host.Outcome State Fault Refusal :=
  .next (s.setPwr fun p => p.converterUnlatch inp)

/-! ### Hold-up (R62, R63, R67) -/

/-- PFAIL (03_power_clocks_start.md R63). -/
def execPfail (s : State) : Host.Outcome State Fault Refusal := .next (s.setPwr Power.powerFail)

/-- BANKLOW is evaluated only while the boost converter carries VBUS. -/
def Power.bankFalls (p : Power) : Power := if p.boost then { p with bankLow := true } else p

/-- BANK_LOW (03_power_clocks_start.md R67): the shutdown starts with the first frame that carries BANKLOW. -/
def execBankLow (s : State) : Host.Outcome State Fault Refusal := .next (s.setPwr Power.bankFalls)

/-- HOLD_READY (03_power_clocks_start.md R62): the bank of a module that is supplied has reached 26.0 V. -/
def execHoldReady (s : State) : Host.Outcome State Fault Refusal :=
  .next (s.setPwr fun p => if p.off then p else { p with holdRdy := true })

/-- BANK_FAULT (03_power_clocks_start.md R62): nothing clears BANKFLT (DEDUCED, assumption log 37). -/
def execBankFault (s : State) : Host.Outcome State Fault Refusal := .next (s.setPwr fun p => { p with bankFlt := true })

/-! ### Domains and clocks (R68, R70) -/

/-- DOMAIN_FAULT (03_power_clocks_start.md R68). -/
def execDomainFault (d : Domain) (s : State) : Host.Outcome State Fault Refusal := .next (s.domainFault d)

/-- DOMAIN_REPOWER (03_power_clocks_start.md R68). -/
def execDomainRepower (d : Domain) (s : State) : Host.Outcome State Fault Refusal := .next (s.domainRepower d)

/-- CLOCK_FAILURE (03_power_clocks_start.md R70). -/
def execClockFailure (clk : Nat) (s : State) : Host.Outcome State Fault Refusal := .next (s.clockFailure clk)

/-- POWER_RETURN (03_power_clocks_start.md R79). -/
def execPowerReturn (s : State) : Host.Outcome State Fault Refusal := .next s.powerReturn

/-! ### The backup domain (16_time.md R355, R358, R361) -/

/-- BACKUP_SWITCH_TO_CELL (16_time.md R361). -/
def execBackupSwitchToCell (s : State) : Host.Outcome State Fault Refusal := .next s.switchToCell

/-- BACKUP_SWITCH_TO_VDD (16_time.md R361). -/
def execBackupSwitchToVdd (s : State) : Host.Outcome State Fault Refusal := .next s.switchToVdd

/-- BACKUP_UNLOCK (16_time.md R361). -/
def execBackupUnlock (s : State) : Host.Outcome State Fault Refusal := .next s.unlockBackup

def State.setCal (s : State) (f : Calendar → Calendar) : State := { s with cal := f s.cal }

/-- OSF (16_time.md R355). -/
def execOsf (s : State) : Host.Outcome State Fault Refusal := .next (s.setCal fun c => { c with osf := true })

/-- BATLOW_TEST (16_time.md R355): BATLOW is what the last test found (DEDUCED, assumption log 15). -/
def execBatlowTest (low : Bool) (s : State) : Host.Outcome State Fault Refusal := .next (s.setCal fun c => { c with batlow := low })

/-- HALT_TIMEOUT (16_time.md R358). -/
def execHaltTimeout (s : State) : Host.Outcome State Fault Refusal := .next (s.setCal Calendar.cancelHalt)

end Sys2Proof.Machine
end

