-- ==== Sys2Proof/Machine/RegRows.lean ====
section
/-! DEFINITION. Meanings of the commands that write one register: generic writes, the header registers, and the
registers whose write is a row of its own. Each is a write by its origin, with all checks of R47 to R52, on both lanes
(02_register_pages.md R45, R49). -/

namespace Sys2Proof.Machine

/-- A write of `w` to the register at byte offset `key` of the register space. -/
def Lane.writeKey (l : Lane) (h : Hub) (o : Origin) (entropy : List Byte) (key : Nat) (w : Word) : Lane × Nat :=
  l.writeReg h o entropy (.ofNat 32 (0x40000000 + key)) w

/-- The write on both lanes. -/
def writeRow (o : Origin) (key w : Nat) (s : State) : State :=
  onLanes (fun l => (l.writeKey s.hub o [] key (.ofNat 32 w)).1) s

/-- A write whose value keeps other fields of the register as they are. -/
def writeRowOf (o : Origin) (key : Nat) (f : Lane → Word) (s : State) : State :=
  onLanes (fun l => (l.writeKey s.hub o [] key (f l)).1) s

/-- A register with half `hi` replaced by `v`. -/
def Lane.withHalf (l : Lane) (key : Nat) (hi : Bool) (v : Nat) : Word :=
  if hi then withBits (l.reg key) 31 16 v else withBits (l.reg key) 15 0 v

/-- A write whose work is left for step 7 is done at once (assumption log 38). -/
def writeThen (o : Origin) (key w : Nat) (work : Lane → Lane) (s : State) : State :=
  onLanes (fun l =>
    let r := l.writeKey s.hub o [] key (.ofNat 32 w)
    match o with
    | .external _ => if r.2 = 0 then work r.1 else r.1
    | .engine _ => r.1) s

/-! ### The register space (R44, R47, R49, R59) -/

/-- REG_WRITE (02_register_pages.md R49). -/
def execRegWrite (o : Origin) (addr value : Word) (s : State) : Host.Outcome State Fault Refusal :=
  .next (onLanes (fun l => (l.writeReg s.hub o [] addr value).1) s)

/-- LOCK_WRITE (02_register_pages.md R47). -/
def execLockWrite (o : Origin) (page : Nat) (value : Word) (s : State) : Host.Outcome State Fault Refusal :=
  .next (writeRow o (page * 0x1000 + 0x020) value.toNat s)

/-- CTRL_SRST (02_register_pages.md R59): CTRL.EN keeps its value. -/
def execCtrlSrst (o : Origin) (page : Nat) (s : State) : Host.Outcome State Fault Refusal :=
  .next (writeRowOf o (page * 0x1000 + 0x008) (fun l => if (l.reg (page * 0x1000 + 0x008)).getLsbD 0 then 3 else 2) s)

/-- IRQF_FORCE (02_register_pages.md R44). -/
def execIrqfForce (o : Origin) (page : Nat) (value : Word) (s : State) : Host.Outcome State Fault Refusal :=
  .next (writeRow o (page * 0x1000 + 0x018) value.toNat s)

/-! ### Restarts (03_power_clocks_start.md R84, R85) -/

/-- RST_WARM (03_power_clocks_start.md R84). -/
def execRstWarm (o : Origin) (s : State) : Host.Outcome State Fault Refusal := .next (writeRow o 0x05040 1 s)

/-- RST_COLD (03_power_clocks_start.md R84). -/
def execRstCold (o : Origin) (s : State) : Host.Outcome State Fault Refusal := .next (writeRow o 0x05040 2 s)

/-- RSTPOL_WRITE (03_power_clocks_start.md R85). -/
def execRstpolWrite (o : Origin) (value : Word) (s : State) : Host.Outcome State Fault Refusal :=
  .next (writeRow o 0x00060 value.toNat s)

/-! ### Plant outputs and Touchstone (05_touchstone.md R125, R138) -/

/-- QUENCH_IMAGE_WRITE (05_touchstone.md R138): DOQ for 0, AOQ of output n − 1 for 1 to 8. -/
def execQuenchImageWrite (o : Origin) (n : Nat) (value : Word) (s : State) : Host.Outcome State Fault Refusal :=
  .next (if n = 0 then writeRow o 0x24048 value.toNat s
    else if n ≤ 8 then
      let key := 0x2405C + 4 * ((n - 1) / 2)
      writeRowOf o key (fun l => l.withHalf key (decide (n % 2 = 0)) value.toNat) s
    else s)

/-- SWAP (05_touchstone.md R125). -/
def execSwap (o : Origin) (s : State) : Host.Outcome State Fault Refusal := .next (writeRow o 0x0204C 1 s)

/-! ### Dispatch targets, loops and traces (08_dispatch_optimiser.md R210, 09_control_loops.md R232, R234) -/

/-- TDATA_WRITE (08_dispatch_optimiser.md R210). -/
def execTdataWrite (o : Origin) (value : Word) (s : State) : Host.Outcome State Fault Refusal :=
  .next (writeRow o 0x13080 value.toNat s)

/-- BURN_CLR (09_control_loops.md R232): `which` is the value written to CLR. -/
def execBurnClr (o : Origin) (which : Word) (s : State) : Host.Outcome State Fault Refusal :=
  .next (writeRow o 0x1A074 which.toNat s)

/-- TRACE_ARM (09_control_loops.md R234). -/
def execTraceArm (o : Origin) (s : State) : Host.Outcome State Fault Refusal := .next (writeRow o 0x1B044 1 s)

/-- TRACE_FIRE (09_control_loops.md R234). -/
def execTraceFire (o : Origin) (s : State) : Host.Outcome State Fault Refusal := .next (writeRow o 0x1B044 2 s)

/-- TRACE_STOP (09_control_loops.md R234). -/
def execTraceStop (o : Origin) (s : State) : Host.Outcome State Fault Refusal := .next (writeRow o 0x1B044 4 s)

/-- TRACE_ROLL (09_control_loops.md R234). -/
def execTraceRoll (o : Origin) (s : State) : Host.Outcome State Fault Refusal := .next (writeRow o 0x1B044 8 s)

/-! ### Programs and forces (10_cyclic_programs.md R248, R251, R253) -/

/-- PRG_RUN (10_cyclic_programs.md R248). -/
def execPrgRun (o : Origin) (s : State) : Host.Outcome State Fault Refusal := .next (writeRow o 0x1C044 1 s)

/-- PRG_STOP (10_cyclic_programs.md R248). -/
def execPrgStop (o : Origin) (s : State) : Host.Outcome State Fault Refusal := .next (writeRow o 0x1C044 2 s)

/-- PRG_HOLD (10_cyclic_programs.md R248). -/
def execPrgHold (o : Origin) (s : State) : Host.Outcome State Fault Refusal := .next (writeRow o 0x1C044 3 s)

/-- FLTACK (10_cyclic_programs.md R248). -/
def execFltack (o : Origin) (s : State) : Host.Outcome State Fault Refusal := .next (writeRow o 0x1C048 1 s)

/-- VVAL_WRITE (10_cyclic_programs.md R253). -/
def execVvalWrite (o : Origin) (value : Word) (s : State) : Host.Outcome State Fault Refusal :=
  .next (writeRow o 0x1C0A0 value.toNat s)

/-- FORCE_APPLY (10_cyclic_programs.md R251). -/
def execForceApply (o : Origin) (s : State) : Host.Outcome State Fault Refusal := .next (writeRow o 0x1D054 1 s)

/-- FORCE_RELEASE (10_cyclic_programs.md R251). -/
def execForceRelease (o : Origin) (s : State) : Host.Outcome State Fault Refusal := .next (writeRow o 0x1D054 2 s)

/-- FORCE_RELEASE_ALL (10_cyclic_programs.md R251). -/
def execForceReleaseAll (o : Origin) (s : State) : Host.Outcome State Fault Refusal := .next (writeRow o 0x1D054 3 s)

/-! ### Queues and Patina (19_queues.md R424, R431, 15_patina_recorder.md R352) -/

/-- FLUSH (19_queues.md R431). -/
def execFlush (o : Origin) (s : State) : Host.Outcome State Fault Refusal := .next (writeRow o 0x34078 1 s)

/-- FLUSHALL (19_queues.md R431). -/
def execFlushall (o : Origin) (s : State) : Host.Outcome State Fault Refusal := .next (writeRow o 0x34078 2 s)

/-- CAP_WRITE (19_queues.md R424). -/
def execCapWrite (o : Origin) (value : Word) (s : State) : Host.Outcome State Fault Refusal :=
  .next (writeRow o 0x3404C value.toNat s)

/-- PATINA_SUM (15_patina_recorder.md R352): of the partition that SPART selects. -/
def execPatinaSum (o : Origin) (s : State) : Host.Outcome State Fault Refusal :=
  .next (writeRowOf o 0x29054 (fun l => (l.reg 0x29054 &&& 0xE) ||| 1) s)

/-! ### The calendar (16_time.md R359, R363) -/

/-- CALENDAR_SET (16_time.md R359). -/
def execCalendarSet (o : Origin) (s : State) : Host.Outcome State Fault Refusal :=
  .next (writeThen o 0x30058 1 (fun l => if l.time.setReq.isSome then l.calSetStep else l) s)

/-- ALARM_WRITE (16_time.md R363): ALMDAY where `day`, else ALMCFG, of the alarm that ASEL selects. -/
def execAlarmWrite (o : Origin) (day : Bool) (value : Word) (s : State) : Host.Outcome State Fault Refusal :=
  .next (writeRow o (if day then 0x3006C else 0x30068) value.toNat s)

/-! ### Life cycle, keys, attestation and replacement (17_security.md R376 to R398) -/

/-- LCMD_PROVISION (17_security.md R376): `entropy` is what the random generator gave. -/
def execLcmdProvision (o : Origin) (entropy : List Byte) (s : State) : Host.Outcome State Fault Refusal :=
  .next (onLanes (fun l => (l.writeKey s.hub o entropy 0x2C048 1).1) s)

/-- LCMD_CLAIM (17_security.md R376). -/
def execLcmdClaim (o : Origin) (s : State) : Host.Outcome State Fault Refusal := .next (writeRow o 0x2C048 2 s)

/-- LCMD_DEBUGON (17_security.md R376). -/
def execLcmdDebugon (o : Origin) (s : State) : Host.Outcome State Fault Refusal := .next (writeRow o 0x2C048 3 s)

/-- LCMD_DEBUGOFF (17_security.md R376). -/
def execLcmdDebugoff (o : Origin) (s : State) : Host.Outcome State Fault Refusal := .next (writeRow o 0x2C048 4 s)

/-- LCMD_RETIRE (17_security.md R376). -/
def execLcmdRetire (o : Origin) (s : State) : Host.Outcome State Fault Refusal := .next (writeRow o 0x2C048 5 s)

/-- KCMD_DERIVE (17_security.md R389), on the slot that SSEL selects. -/
def execKcmdDerive (o : Origin) (s : State) : Host.Outcome State Fault Refusal :=
  .next (writeThen o 0x2A060 1 Lane.kcmdStep7 s)

/-- KCMD_INVALIDATE (17_security.md R388), on the slot that SSEL selects. -/
def execKcmdInvalidate (o : Origin) (s : State) : Host.Outcome State Fault Refusal :=
  .next (writeThen o 0x2A060 2 Lane.kcmdStep7 s)

/-- KCMD_STAGE (17_security.md R385), on the slot that SSEL selects. -/
def execKcmdStage (o : Origin) (s : State) : Host.Outcome State Fault Refusal :=
  .next (writeThen o 0x2A060 3 Lane.kcmdStep7 s)

/-- KCMD_VERIFY (17_security.md R385), on the slot that SSEL selects. -/
def execKcmdVerify (o : Origin) (s : State) : Host.Outcome State Fault Refusal :=
  .next (writeThen o 0x2A060 4 Lane.kcmdStep7 s)

/-- KCMD_COMMIT (17_security.md R385), on the slot that SSEL selects. -/
def execKcmdCommit (o : Origin) (s : State) : Host.Outcome State Fault Refusal :=
  .next (writeThen o 0x2A060 5 Lane.kcmdStep7 s)

/-- KCMD_ABORT (17_security.md R385), on the slot that SSEL selects. -/
def execKcmdAbort (o : Origin) (s : State) : Host.Outcome State Fault Refusal :=
  .next (writeThen o 0x2A060 6 Lane.kcmdStep7 s)

/-- ATT (17_security.md R390). -/
def execAtt (o : Origin) (s : State) : Host.Outcome State Fault Refusal := .next (writeRow o 0x2B040 1 s)

/-- UCMD_START (17_security.md R398). -/
def execUcmdStart (o : Origin) (s : State) : Host.Outcome State Fault Refusal := .next (writeRow o 0x2C0AC 1 s)

/-- UCMD_VERIFY (17_security.md R398). -/
def execUcmdVerify (o : Origin) (s : State) : Host.Outcome State Fault Refusal := .next (writeRow o 0x2C0AC 2 s)

/-- UCMD_PROMOTE (17_security.md R398); without a lane that boots, the recovery image is promoted (R396). -/
def execUcmdPromote (o : Origin) (s : State) : Host.Outcome State Fault Refusal :=
  .next (if s.recovery then s.recoveryPromote else writeRow o 0x2C0AC 3 s)

/-- UCMD_ABORT (17_security.md R398). -/
def execUcmdAbort (o : Origin) (s : State) : Host.Outcome State Fault Refusal := .next (writeRow o 0x2C0AC 4 s)

/-! ### Assay (18_assay.md R418, R419) -/

/-- ASY_KIND_BACKGROUND (18_assay.md R418). -/
def execAsyKindBackground (o : Origin) (unit tlane : Nat) (s : State) : Host.Outcome State Fault Refusal :=
  .next (writeRow o 0x2D044 (1 + tlane % 4 * 16 + unit % 256 * 256) s)

/-- ASY_KIND_STARTUP (18_assay.md R419). -/
def execAsyKindStartup (o : Origin) (unit tlane : Nat) (s : State) : Host.Outcome State Fault Refusal :=
  .next (writeRow o 0x2D044 (2 + tlane % 4 * 16 + unit % 256 * 256) s)

/-- ASY_KIND_INJECT (18_assay.md R418). -/
def execAsyKindInject (o : Origin) (unit tlane : Nat) (s : State) : Host.Outcome State Fault Refusal :=
  .next (writeRow o 0x2D044 (3 + tlane % 4 * 16 + unit % 256 * 256) s)

/-! ### Ports (21_field_ports.md R472, R473) -/

/-- CAN_RECOVER (21_field_ports.md R472): MODE and ONESHOT keep their values. -/
def execCanRecover (o : Origin) (port : Nat) (s : State) : Host.Outcome State Fault Refusal :=
  .next (if port < 4 then writeRowOf o (0x44040 + port * 0x1000) (fun l => (l.reg (0x44040 + port * 0x1000) &&& 0xF) ||| 0x10) s else s)

/-- MBUS_RESTART (21_field_ports.md R473). -/
def execMbusRestart (o : Origin) (port : Nat) (s : State) : Host.Outcome State Fault Refusal :=
  .next (if port < 2 then writeRow o (0x4C054 + port * 0x1000) 1 s else s)

/-! ### The panel (22_display.md R479, R480, R482) -/

/-- GCOMMIT (22_display.md R482). -/
def execGcommit (o : Origin) (s : State) : Host.Outcome State Fault Refusal := .next (writeRow o 0x51060 1 s)

/-- GDATA_WRITE (22_display.md R482). -/
def execGdataWrite (o : Origin) (value : Word) (s : State) : Host.Outcome State Fault Refusal :=
  .next (writeRow o 0x5105C value.toNat s)

/-- PNL_RESTART (22_display.md R479). -/
def execPnlRestart (o : Origin) (s : State) : Host.Outcome State Fault Refusal := .next (writeRow o 0x51060 2 s)

/-- RAIL_WRITE (22_display.md R480): AVDD, VGH, VGL and VCOM for 0 to 3. -/
def execRailWrite (o : Origin) (n : Nat) (value : Word) (s : State) : Host.Outcome State Fault Refusal :=
  .next (if n ≤ 3 then
      let key := if n ≤ 1 then 0x51044 else 0x51048
      writeRowOf o key (fun l => l.withHalf key (decide (n % 2 = 1)) value.toNat) s
    else s)

end Sys2Proof.Machine
end

