-- ==== Sys2Proof/Machine/SessionRows.lean ====
section
/-! DEFINITION. Meanings of the commands of Vangilo Link sessions, of image pages and of the debug function
(02_register_pages.md R53 to R58, 17_security.md R399 to R405, 21_field_ports.md R461, R462). -/

namespace Sys2Proof.Machine

/-- ERRC_READ (02_register_pages.md R58): an immediate read of the page's ERRC, outside any transaction's count. -/
def execErrcRead (session page : Nat) (s : State) : Host.Outcome State Fault Refusal :=
  .next (s.onSession session fun l ss s =>
    s.answerRead l.id session 0 0 ss.role [.ofNat 32 (0x40000000 + page % 256 * 0x1000 + 0x01C)])

/-- WRITE_TRANSACTION (02_register_pages.md R53). -/
def execWriteTransaction (session tag : Nat) (t : Int) (entries : List WriteEntry) (entropy : List Byte) (s : State) :
    Host.Outcome State Fault Refusal := .next (s.writeTrans session tag t entries entropy)

/-- READ_TRANSACTION (02_register_pages.md R57). -/
def execReadTransaction (session tag : Nat) (addrs : List Word) (s : State) : Host.Outcome State Fault Refusal :=
  .next (s.readTrans session tag addrs)

/-- FRAME_CONSISTENT_READ (02_register_pages.md R57). -/
def execFrameConsistentRead (session tag : Nat) (addrs : List Word) (s : State) : Host.Outcome State Fault Refusal :=
  .next (s.readFrame session tag addrs)

/-- SUBSCRIBE (21_field_ports.md R461). -/
def execSubscribe (session : Nat) (mask : BitVec 256) (s : State) : Host.Outcome State Fault Refusal :=
  .next (s.subscribe session mask)

/-- KEEPALIVE (21_field_ports.md R461). -/
def execKeepalive (session : Nat) (s : State) : Host.Outcome State Fault Refusal := .next (s.keepalive session)

/-- SESSION_OPEN (17_security.md R402). -/
def execSessionOpen (session port : Nat) (cert : ClientCert) (s : State) : Host.Outcome State Fault Refusal :=
  .next (s.openSession session port cert)

/-- SESSION_IDLE_TIMEOUT (21_field_ports.md R462). -/
def execSessionIdleTimeout (session : Nat) (s : State) : Host.Outcome State Fault Refusal := .next (s.idleTimeout session)

/-- SESSION_PROTOCOL_ERROR (21_field_ports.md R462): the session is closed. -/
def execSessionProtocolError (session : Nat) (s : State) : Host.Outcome State Fault Refusal := .next (s.closeSession session)

/-- SESSION_CLOSE (16_time.md R357). -/
def execSessionClose (session : Nat) (s : State) : Host.Outcome State Fault Refusal := .next (s.closeSession session)

/-- PAGE (17_security.md R399). -/
def execPage (session tag idx : Nat) (data : List Byte) (s : State) : Host.Outcome State Fault Refusal :=
  .next (s.imagePage session tag idx data)

/-- DEBUG_ACCESS (17_security.md R405). -/
def execDebugAccess (lane : LaneId) (op : DebugOp) (s : State) : Host.Outcome State Fault Refusal := .next (s.debugAccess lane op)

end Sys2Proof.Machine
end

