-- ==== Sys2Proof/Machine/PortRows.lean ====
section
/-! DEFINITION. Meanings of the commands of the field ports, their connections, and the fabric links (21_field_ports.md
R454 to R473, 20_rogon_fabric.md R433 to R438, 23_physical.md R499). -/

namespace Sys2Proof.Machine

/-! ### Ethernet (R454, R455) -/

/-- Frames `r` − 1 and before have been acknowledged by the client (IEC 60870-5-104, PRESUMED, assumption log 26). -/
def TcpConn.acked (c : TcpConn) (r : Nat) : TcpConn := { c with outstanding := min c.outstanding ((c.vs + 32768 - r) % 32768) }

/-- A U-format or S-format APDU of four control octets. -/
def iecControl (c : Nat) (r : Nat) : List Byte := [0x68, 4, BitVec.ofNat 8 c, 0] ++ leBytes 2 (2 * r)

/-- An acknowledgement of what has been received. -/
def Hub.iecAck (h : Hub) (num : Nat) : Hub := match h.conn 3 num with
  | some c => (h.modConn 3 num fun c => { c with unackRx := 0 }).sent (.port (0x10 + c.port) (iecControl 1 c.vr))
  | none => h

/-- An APDU of an IEC 104 client: control functions are answered here, the ASDU of an I-format frame becomes an arrival;
the eighth unacknowledged frame is acknowledged (w = 8). -/
def Hub.iecIn (h : Hub) (l : Lane) (src : Nat) (t : Int) (num : Nat) (b : List Byte) : Hub :=
  let c1 := u8At b 2
  let out (h : Hub) (c : Nat) : Hub := h.sent (.port src (iecControl c 0))
  if c1 % 4 = 3 then
    if c1 = 0x07 then (out (h.modConn 3 num fun c => { c with started := true }) 0x0B).iecPump num 12
    else if c1 = 0x13 then out (h.modConn 3 num fun c => { c with started := false }) 0x23
    else if c1 = 0x43 then out h 0x83
    else if c1 = 0x83 then h.modConn 3 num fun c => { c with testSent := false }
    else h
  else
    let h := h.modConn 3 num fun c => c.acked (u16At b 4 / 2)
    if c1 % 4 = 1 then h.iecPump num 12
    else
      let h := h.modConn 3 num fun c => { c with vr := (c.vr + 1) % 32768, unackRx := c.unackRx + 1 }
      let h := h.aduIn l src t num 3 (b.drop 6)
      let h := if (h.conn 3 num).any fun c => decide (8 ≤ c.unackRx) then h.iecAck num else h
      h.iecPump num 12

/-- A received frame on port `n`, which is up and enabled; `l` is the owner's lane. -/
def State.ethIn (s : State) (l : Lane) (n : Nat) (t : Int) (f : EthFrame) : State :=
  let here (svc c : Nat) : Bool :=
    if svc = 4 then (s.hub.session c).any fun x => x.port == n else (s.hub.conn svc c).any fun x => x.port == n
  match f with
  | .arp => s.setHub fun h => h.sent (.reply n false)
  | .icmpEcho => s.setHub fun h => h.sent (.reply n true)
  | .ptp => if l.get R.PTP.PORT = n ∧ l.on R.PTP.PROFILE then s else s.rxDrop n
  | .tcp svc c data =>
    if !here svc c then s.rxDrop n
    else if svc = 4 then s.linkMessage c t data
    else if svc = 3 then s.setHub fun h => h.iecIn l (0x10 + n) t c data
    else (s.setHub fun h => h.aduIn l (0x10 + n) t c svc data).pumpAt t
  | .tcpClose svc c =>
    if !here svc c then s else if svc = 4 then s.closeSession c else s.setHub fun h => h.closeConn svc c
  | .udp data => if l.udpTakes n data then s.setHub fun h => h.portArrival (0x10 + n) t (.unit 0xFFFF data) else s.rxDrop n
  | .other => s.rxDrop n

/-- ETHERNET_FRAME_RECEIVE (21_field_ports.md R455): a PTP message itself is the command PTP_MESSAGE. -/
def execEthernetFrameReceive (port : Nat) (t : Int) (f : EthFrame) (s : State) : Host.Outcome State Fault Refusal :=
  .next (match s.server with
    | some l => if port < 4 && l.enabled (0x38 + port) && s.hub.linkUp port then s.ethIn l port t f else s
    | none => s)

/-- A link comes up or goes down; its recovered clock is monitored while it is up (03_power_clocks_start.md R70). -/
def State.ethLink (s : State) (n speed : Nat) : State :=
  if 4 ≤ n ∨ !s.hub.running ∨ 2 < speed then s
  else if speed = 0 then s.setHub fun h => h.ethDown n
  else if s.pwr.clkFail.getLsbD 10 ∨ s.hub.ports.ethLink.getD n 0 = speed then s
  else
    let s := s.setPwr fun p => { p with clkFail := p.clkFail &&& ~~~(1#19 <<< (11 + n)) }
    s.setHub fun h => (h.setPorts fun p => { p with ethLink := p.ethLink.set n speed }).portArrival (0x10 + n) 0 (.status (.eth speed))

/-- ETHERNET_LINK_CHANGE (21_field_ports.md R454): SPEED of Table PRT-7, 0 for a link that goes down. -/
def execEthernetLinkChange (port speed : Nat) (s : State) : Host.Outcome State Fault Refusal := .next (s.ethLink port speed)

/-! ### Request timers (R456, R460) -/

/-- Timers of station `stn` on source `src` that are due expire; what waited for them is sent. -/
def State.timerDue (s : State) (src stn : Nat) : State :=
  s.active.elim s fun l => (s.setHub fun h => h.expire l fun t => t.src == src && timerStn t.src t.stn == stn).pumpAt 750000

/-- PORT_REQUEST_TIMEOUT (21_field_ports.md R456). -/
def execPortRequestTimeout (src stn : Nat) (s : State) : Host.Outcome State Fault Refusal := .next (s.timerDue src stn)

/-- CAN_RECEIVE_TIMEOUT (21_field_ports.md R460). -/
def execCanReceiveTimeout (port stn : Nat) (s : State) : Host.Outcome State Fault Refusal :=
  .next (if port < 4 then s.timerDue (0x18 + port) stn else s)

/-! ### RS-485 (R468) -/

/-- An ADU ended by a silence of t3.5, with its CRC-16. -/
def State.rs485In (s : State) (n : Nat) (t : Int) (b : List Byte) : State :=
  match s.active with
  | none => s
  | some l =>
    if 4 ≤ n ∨ !s.hub.running ∨ !l.enabled (0x48 + n) then s
    else if 256 < b.length then onLanes (fun l => l.inc (R.SER.OVRUN.inst n)) s
    else if b.length < 2 ∨ u16At b (b.length - 2) ≠ crc16Modbus (b.take (b.length - 2)) then onLanes (fun l => l.inc (R.SER.CRCERR.inst n)) s
    else (s.portUnitIn (0x1C + n) t b).pumpAt t

/-- RS485_ADU_END (21_field_ports.md R468). -/
def execRs485AduEnd (port : Nat) (t : Int) (data : List Byte) (s : State) : Host.Outcome State Fault Refusal :=
  .next (s.rs485In port t data)

/-! ### Connections (R458, R466, R467, R469) -/

/-- The Modbus TCP station of connection `num`. -/
def Lane.tcpStation (l : Lane) (num : Nat) : Option Station :=
  l.ports.stations.find? fun s => s.proto == 1 && decide (s.src ≤ 0x13) && l.ports.connOf s == num

/-- TCP port of a Modbus server (R466). -/
def connPort (s : Station) : Nat := if s.tls then 802 else 502

/-- A request waits for the connection, at most 64 are open, and the last attempt is 5 s ago. -/
def Hub.mayConnect (h : Hub) (num : Nat) (s : Station) : Bool :=
  (h.conn 1 num).isNone && h.linkUp (s.src - 0x10)
    && (h.ports.txq.any fun w => decide (w.src ≤ 0x13) && w.conn == num + 1)
    && decide (h.ports.conns.countP (fun c => c.svc == 1) < 64)
    && !h.ports.tried.any fun x => x.1 == s.addr && x.2.1 == connPort s && decide (h.upFrames < x.2.2 + 5000)

/-- An attempt: with TLS, the server's certificate must end at slot 5 and be good (R404). -/
def Hub.connect (h : Hub) (l : Lane) (num : Nat) (s : Station) (r : ConnectReply) : Hub :=
  let h := h.setPorts fun p => { p with
    tried := (s.addr, connPort s, h.upFrames) :: p.tried.filter fun x => !(x.1 == s.addr && x.2.1 == connPort s) }
  if !r.up || (s.tls && !(r.cert.offer.version == 0x0304 && l.ownerCert r.cert)) then h
  else
    let c : TcpConn := { num, svc := 1, port := s.src - 0x10, addr := s.addr, tls := s.tls, gen := h.ports.opens }
    (h.setPorts fun p => { p with conns := p.conns ++ [c], opens := p.opens + 1 }).pump l (h.usAt (if h.applied then 750000 else 0)) 64

/-- MODBUS_CONNECT (21_field_ports.md R458, R466). -/
def execModbusConnect (conn : Nat) (reply : ConnectReply) (s : State) : Host.Outcome State Fault Refusal :=
  .next (match s.server.bind fun l => (l.tcpStation conn).map fun x => (l, x) with
    | some (l, x) => if s.hub.mayConnect conn x then s.setHub fun h => h.connect l conn x reply else s
    | none => s)

/-- The service is offered on the port, plain only with the flag of R406. -/
def Lane.serves (l : Lane) (n svc : Nat) (tls : Bool) : Bool :=
  match l.ports.eth[n]? with
  | none => false
  | some e =>
    if svc = 2 then (if tls then e.services.getLsbD 2 else e.services.getLsbD 3 && l.sec.secFlags.getLsbD 0)
    else svc == 3 && e.services.getLsbD 4 && (tls || l.sec.secFlags.getLsbD 1)

/-- At most 8 connections to the Modbus TCP server and 4 to the IEC 104 service. With TLS 1.3 the client's certificate must
end at slot 5, and its role gives the right to write; a plain connection has none (R403, R404). -/
def State.acceptConn (s : State) (num svc port : Nat) (tls : Bool) (cert : ClientCert) : State :=
  match s.server with
  | none => s
  | some l =>
    let open_ := s.hub.ports.conns.countP fun c => c.svc == svc
    if port < 4 && decide (num < iecBroadcast) && l.enabled (0x38 + port) && s.hub.linkUp port && l.serves port svc tls
        && (!tls || (cert.offer.version == 0x0304 && l.ownerCert cert)) && (s.hub.conn svc num).isNone && decide (open_ < (if svc = 2 then 8 else 4)) then
      s.setHub fun h => h.setPorts fun p => { p with conns := p.conns ++ [{ num, svc, port, addr := 0, tls, operate := tls && cert.role != .view }] }
    else s

/-- SERVER_CONNECTION_ACCEPT (21_field_ports.md R467, R469). -/
def execServerConnectionAccept (conn svc port : Nat) (tls : Bool) (cert : ClientCert) (s : State) : Host.Outcome State Fault Refusal :=
  .next (s.acceptConn conn svc port tls cert)

/-- t1: no acknowledgement, the connection closes; t2: received frames are acknowledged; t3: a test frame. -/
def Hub.iecTimer (h : Hub) (num timer : Nat) : Hub :=
  match h.conn 3 num with
  | none => h
  | some c =>
    if timer = 1 then (if 0 < c.outstanding ∨ c.testSent then h.closeConn 3 num else h)
    else if timer = 2 then (if 0 < c.unackRx then h.iecAck num else h)
    else if timer = 3 then (h.modConn 3 num fun c => { c with testSent := true }).sent (.port (0x10 + c.port) (iecControl 0x43 0))
    else h

/-- IEC104_TIMER_EXPIRY (21_field_ports.md R469). -/
def execIec104TimerExpiry (conn timer : Nat) (s : State) : Host.Outcome State Fault Refusal :=
  .next (s.setHub fun h => h.iecTimer conn timer)

/-! ### CAN (R471, R472) -/

/-- A CAN port of a running hub whose CTRL.EN the owner has set. -/
def State.onCan (s : State) (n : Nat) (f : CanPort → CanPort) (report : Bool) : State :=
  if n < 4 && s.hub.running && s.active.any (fun l => l.enabled (0x44 + n)) && decide (f (s.hub.can n) ≠ s.hub.can n) then
    s.setHub fun h =>
      let h := h.modCan n f
      if report then h.canReport n 0 else h
  else s

/-- CAN_BUS_OFF (21_field_ports.md R472): the frames in the transmit buffers are dropped with outcome 3. -/
def execCanBusOff (port : Nat) (s : State) : Host.Outcome State Fault Refusal :=
  .next (let t := s.onCan port (fun c => if c.mode = 0 ∨ c.stopped ∨ 2 ≤ c.state then c else { c with state := 2, txc := 256 }) true
    if (t.hub.can port).state = 2 then t.setHub fun h => h.canDrop port 0 3 else t)

/-- CAN_RECOVERY_COMPLETE (21_field_ports.md R472). -/
def execCanRecoveryComplete (port : Nat) (s : State) : Host.Outcome State Fault Refusal :=
  .next (s.onCan port (fun c => if c.state = 3 then { c with state := 0, txc := 0, rxc := 0 } else c) true)

/-- The next nominal rate of autobaud. -/
def nextRate (r : Nat) : Nat := if r = 1000 then 500 else if r = 500 then 250 else if r = 250 then 125 else 1000

/-- AUTOBAUD_RATE_SWITCH (21_field_ports.md R471): after 200 frames at a rate (assumption log 128). -/
def execAutobaudRateSwitch (port : Nat) (s : State) : Host.Outcome State Fault Refusal :=
  .next (s.onCan port (fun c => if c.mode = 3 ∧ c.abLock.isNone ∧ c.abSince + 200 ≤ s.hub.upFrames then
    { c with abRate := nextRate c.abRate, abSince := s.hub.upFrames, abGood := 0 } else c) false)

/-- AUTOBAUD_LOCK (21_field_ports.md R471): two error-free frames in a row; no data rate is known yet. -/
def execAutobaudLock (port : Nat) (s : State) : Host.Outcome State Fault Refusal :=
  .next (s.onCan port (fun c => if c.mode = 3 ∧ c.abLock.isNone ∧ 2 ≤ c.abGood then { c with abLock := some (c.abRate, 0) } else c) true)

/-! ### M-Bus (R473) -/

def State.onMb (s : State) (n : Nat) (f : MbusPort → MbusPort) : State :=
  if n < 2 && s.hub.running && s.active.any (fun l => l.enabled (0x4C + n)) && decide (f (s.hub.mb n) ≠ s.hub.mb n) then
    s.setHub fun h => (h.modMb n f).mbReport n 0
  else s

/-- MBUS_OVERCURRENT (21_field_ports.md R473). -/
def execMbusOvercurrent (port ibus : Nat) (s : State) : Host.Outcome State Fault Refusal :=
  .next (s.onMb port fun m => if m.on then { m with on := false, ovc := true, ibus := min ibus 65535, trip := s.hub.upFrames } else m)

/-- 10 s after the trip, at most three times in an hour. -/
def MbusPort.back (m : MbusPort) (now : Nat) : MbusPort :=
  let ts := m.repower.filter fun t => decide (now < t + 3600000)
  if m.ovc ∧ !m.on ∧ m.trip + 10000 ≤ now ∧ ts.length < 3 then { m with on := true, ovc := false, repower := now :: ts } else m

/-- MBUS_REPOWER (21_field_ports.md R473). -/
def execMbusRepower (port : Nat) (s : State) : Host.Outcome State Fault Refusal :=
  .next (s.onMb port fun m => m.back s.hub.upFrames)

/-! ### The fabric links (20_rogon_fabric.md R433, R438, 23_physical.md R499) -/

/-- What a link becomes: the cage switch trips, a module is or is not in the cage, with its block lock. -/
def HubLink.become (k : HubLink) (now : Nat) (trip sfp block : Bool) : HubLink :=
  let k := { k with sfp, block := block && sfp }
  if trip && k.pwr then { k with pwr := false, block := false, trip := some now } else k

/-- LINK_STATE_CHANGE (20_rogon_fabric.md R433, 23_physical.md R499): the cage switch, the module in the cage and its block
lock after its 10 ms; the lanes learn of it by the sample of the next frame (R434; assumption logs 120 and 123). -/
def execLinkStateChange (link : Nat) (cage : CageState) (block : Bool) (s : State) : Host.Outcome State Fault Refusal :=
  .next (s.setHub fun h => h.setPorts fun p =>
    { p with links := p.links.modify link fun k => k.become h.upFrames cage.trip cage.sfp block }).egDown

/-- A cage whose switch tripped 1 s ago is powered again. -/
def HubLink.retry (k : HubLink) (now : Nat) : HubLink :=
  if k.trip.any fun t => decide (t + 1000 ≤ now) then { k with pwr := true, trip := none } else k

/-- Cages are off in reduced mode (03_power_clocks_start.md R64). -/
def State.cageOn (s : State) (n : Nat) : State :=
  if s.hub.running && !s.active.any (·.reduced) then
    s.setHub fun h => h.setPorts fun p => { p with links := p.links.modify n fun k => k.retry h.upFrames }
  else s

/-- SFP_CAGE_RETRY (23_physical.md R499). -/
def execSfpCageRetry (link : Nat) (s : State) : Host.Outcome State Fault Refusal := .next (s.cageOn link)

/-- A frame that is forwarded has one hop less and a new hop check. -/
def nextHop (b : List Byte) : List Byte :=
  let body := b.take (b.length - 4)
  withFcrc (body.take 2 ++ [BitVec.ofNat 8 (u8At body 2 - 1)] ++ body.drop 3)

/-- A frame received on link `n` (R435, R438). -/
def State.fabIn (s : State) (own n : Nat) (stamp : Int) (b : List Byte) : State :=
  if !hopOk b then onLanes (fun l => l.inc (R.FL.BLKERR.inst n)) s
  else
    let f := readFab b
    if f.dst = own ∨ 0xFF0 ≤ f.dst then s.setHub fun h => h.fabLocal (some n) (stamp - h.clk.at 0) stamp b
    else if u8At b 2 ≤ 1 then onLanes (fun l => l.inc R.FAB.HOPDROP) s
    else
      let s := if s.hub.ports.routes.any fun q => q.dst == f.dst then onLanes (fun l => l.inc R.FAB.FWDCNT) s else s
      s.route f.dst (stamp - s.hub.clk.at 0) (nextHop b)

/-- FABRIC_FRAME_RECEIVE (20_rogon_fabric.md R438), on a link that is UP. During a commanded restart the switch forwards
with the identifier and the table it loaded last (R445). -/
def execFabricFrameReceive (link : Nat) (stamp : Int) (data : List Byte) (s : State) : Host.Outcome State Fault Refusal :=
  .next (if s.hub.running && link < 4 && (s.linkBits link).getLsbD 3 then
    s.fabIn ((s.active.map Lane.modId).getD s.hub.ports.modid) link stamp data
  else s)

end Sys2Proof.Machine
end

