-- ==== Sys2Proof/Machine/TimeRows.lean ====
section
/-! DEFINITION. Meanings of the commands of time: the calendar's reading and shadows, PTP, the servo's timers and
transmit stamps (16_time.md R356, R357, R369 to R373). The PTP port runs on E2 of the owner; no PTP message enters an
input frame. -/

namespace Sys2Proof.Machine

/-! ### The calendar (R356, R357) -/

/-- CALENDAR_READING (16_time.md R356). -/
def execCalendarReading (s : State) : Host.Outcome State Fault Refusal := .next s.readCalendar

/-- CALENDAR_SHADOW_FREEZE (16_time.md R357). -/
def execCalendarShadowFreeze (reader : Nat) (s : State) : Host.Outcome State Fault Refusal :=
  .next (s.onReader reader fun l => l.freezeShadow reader)

/-- CALENDAR_SHADOW_RELEASE (16_time.md R357). -/
def execCalendarShadowRelease (reader : Nat) (s : State) : Host.Outcome State Fault Refusal :=
  .next (s.onReader reader fun l => l.dropShadow reader)

/-- CALENDAR_SHADOW_TIMEOUT (16_time.md R357): 1 000 frames for an engine, and as many ms for a session. -/
def execCalendarShadowTimeout (reader : Nat) (s : State) : Host.Outcome State Fault Refusal :=
  .next { s with laneA := s.laneA.shadowTimeout reader, laneB := s.laneB.shadowTimeout reader }

/-! ### The PTP port (R369 to R371) -/

/-- The lane whose E2 runs the PTP port: the owner, with a profile, its port enabled and up, and no fabric time source
(20_rogon_fabric.md R448). -/
def State.ptpLane (s : State) : Option Lane :=
  s.server.filter fun l =>
    let n := l.get R.PTP.PORT
    l.on R.PTP.PROFILE && !l.on R.FAB.TSRC && l.enabled (0x38 + n) && s.hub.linkUp n && l.engineRuns 2

/-- Messages of the profile on the PTP port: its port, transport, domain and delay mechanism; all others are ignored (Table
TIM-4). -/
def Lane.ptpTakes (l : Lane) (m : PtpMsg) : Bool :=
  let peer := l.get R.PTP.PROFILE == 3
  m.port == l.get R.PTP.PORT && m.l2 == l.ptpL2 && m.domain == l.get R.PTP.DOMAIN && match m.body with
    | .delayReq .. | .delayResp .. => !peer
    | .pdelayReq .. | .pdelayResp .. | .pdelayRespFollowUp .. => peer
    | .other => false
    | _ => true

/-- Requests the port answers: Delay_Resp of a master, Pdelay_Resp of a peer, the latter an event message. Each carries the
request's receive stamp and correction field (assumption log 16). -/
def Lane.ptpReply (l : Lane) (m : PtpMsg) (rx : Int) : Lane × Option PtpOut := match m.body with
  | .delayReq seq corr => (l, if l.ptp.state = .master then
      some { l.ptpOut 9 seq with time := rx, corr, dest := m.sender, interval := l.getI R.PTP.LOGDLY } else none)
  | .pdelayReq seq corr => (l.ptpEvent 3 seq m.sender, some { l.ptpOut 3 seq with time := rx, corr, dest := m.sender })
  | _ => (l, none)

def Hub.sendPtp (h : Hub) (x : Option PtpOut) : Hub := match x with
  | some y => h.sent (.ptp y)
  | none => h

/-- The receive stamp of a PTP message that enters `t` ns after the frame start (Table TIM-3). -/
def Hub.ptpRx (h : Hub) (port : Nat) (t : Int) : Int :=
  h.clk.at t - (if h.ports.ethLink.getD port 0 = 1 then 348 else 212)

/-- The transmit stamp of a PTP message that leaves the MAC `t` ns after the frame start (Table TIM-3). -/
def Hub.ptpTx (h : Hub) (port : Nat) (t : Int) : Int :=
  h.clk.at t + (if h.ports.ethLink.getD port 0 = 1 then 296 else 168)

/-- The servo takes a change of grandmaster, then a sample (R373). -/
def LocalClock.take (c : LocalClock) (g : ServoCfg) (tracking gm : Bool) (theta : Option Int) : LocalClock :=
  let c := if gm then c.gmChange else c
  match theta with
  | some th => c.sample g tracking th
  | none => c

def State.ptpMessage (s : State) (m : PtpMsg) : State :=
  match s.ptpLane with
  | none => s
  | some l =>
    if !l.ptpTakes m then s
    else
      let rx := s.hub.ptpRx m.port m.enters
      let r := l.ptpMessage m rx
      let q := r.1.ptpReply m rx
      let s := s.setLane l.id q.1
      s.setHub fun h => { h.sendPtp q.2 with clk := h.clk.take (servoCfg l) l.ptp.tracking r.2.2 r.2.1 }

/-- PTP_MESSAGE (16_time.md R371). -/
def execPtpMessage (m : PtpMsg) (s : State) : Host.Outcome State Fault Refusal := .next (s.ptpMessage m)

def State.ptpInterval (s : State) (k : PtpKind) : State :=
  match s.ptpLane with
  | none => s
  | some l =>
    if !l.ptpMaySend k then s
    else
      let r := l.ptpSend k
      (s.setLane l.id r.1).setHub fun h => h.sent (.ptp r.2)

/-- PTP_MESSAGE_INTERVAL (16_time.md R370). -/
def execPtpMessageInterval (k : PtpKind) (s : State) : Host.Outcome State Fault Refusal := .next (s.ptpInterval k)

/-- Without a master in sight the port is its own, where it may be one. -/
def Lane.announceTimeout (l : Lane) : Lane :=
  let l : Lane := { l with ptp := { l.ptp with best := none } }
  l.ptpState (if l.masterCapable then .master else .listening)

/-- ANNOUNCE_RECEIPT_TIMEOUT (16_time.md R370). -/
def execAnnounceReceiptTimeout (s : State) : Host.Outcome State Fault Refusal :=
  .next (s.ptpLane.elim s fun l => s.setLane l.id l.announceTimeout)

/-- A stamp enters the queue of the owner; its E2, where it runs, takes the entry (R369). -/
def State.txStamp (s : State) (e : TsEntry) : State :=
  match s.server with
  | none => s
  | some l =>
    let q := l.pushStamp e
    if !l.engineRuns 2 ∨ !q.tsq.contains e then s.setLane l.id q.showTsq
    else (s.setLane l.id (q.takeStamp e).showTsq).setHub fun h => h.sendPtp (l.ptpFollow e)

/-- TX_TIMESTAMP (16_time.md R369): the message leaves the MAC `ns` ns after the frame start, and the hub stamps it (R368). -/
def execTxTimestamp (port ident : Nat) (ns : Int) (s : State) : Host.Outcome State Fault Refusal :=
  .next (s.txStamp { port := port % 4, ident := ident % 256, ns := s.hub.ptpTx (port % 4) ns })

/-! ### The servo's timers (R373) -/

def State.servoTimer (s : State) (f : LocalClock → ServoCfg → LocalClock) : State :=
  s.active.elim s fun l => s.setHub fun h => { h with clk := f h.clk (servoCfg l) }

/-- SAMPLE_TIMEOUT (16_time.md R373). -/
def execSampleTimeout (s : State) : Host.Outcome State Fault Refusal := .next (s.servoTimer LocalClock.sampleTimeout)

/-- HOLDOVER_TIMEOUT (16_time.md R373). -/
def execHoldoverTimeout (s : State) : Host.Outcome State Fault Refusal := .next (s.servoTimer LocalClock.holdoverTimeout)

end Sys2Proof.Machine
end

