-- ==== Sys2Proof/Machine/DispRows.lean ====
section
/-! DEFINITION. Meanings of the commands of the operator display (22_display.md R477 to R488). -/

namespace Sys2Proof.Machine

/-- RENDER_COMPLETE (22_display.md R485). -/
def execRenderComplete (s : State) : Host.Outcome State Fault Refusal := .next (renderComplete s)

/-- VERTICAL_BLANK (22_display.md R485). -/
def execVerticalBlank (s : State) : Host.Outcome State Fault Refusal := .next (verticalBlank s)

/-- REFRESH_CRC_CHECK (22_display.md R487). -/
def execRefreshCrcCheck (crc : Word) (s : State) : Host.Outcome State Fault Refusal := .next (refreshCheck crc s)

/-- DISPLAY_STALE (22_display.md R488). -/
def execDisplayStale (s : State) : Host.Outcome State Fault Refusal := .next (displayStale s)

/-- PANEL_POWER_UP (22_display.md R477). -/
def execPanelPowerUp (s : State) : Host.Outcome State Fault Refusal := .next (panelUp s)

/-- PANEL_POWER_DOWN (22_display.md R477). -/
def execPanelPowerDown (s : State) : Host.Outcome State Fault Refusal := .next (panelDown s)

/-- RAIL_FAULT (22_display.md R479). -/
def execRailFault (rail : Nat) (s : State) : Host.Outcome State Fault Refusal := .next (railFault rail s)

/-- RAIL_RETRY (22_display.md R479). -/
def execRailRetry (s : State) : Host.Outcome State Fault Refusal := .next (railRetry s)

/-- BACKLIGHT_STRING_FAULT (22_display.md R481). -/
def execBacklightStringFault (n : Nat) (short : Bool) (s : State) : Host.Outcome State Fault Refusal :=
  .next (stringFault n short s)

end Sys2Proof.Machine
end

