-- ==== Sys2Proof/Machine/EnqRows.lean ====
section
/-! DEFINITION. The Enesque instructions (11_enesque_instructions.md): a command executes one instruction of the
task that runs on the executor, on both lanes, with the operand named by the area and the 20-bit address. -/

namespace Sys2Proof.Machine

/-- One instruction on an executor: the lanes' own task executes it where the program runs, and its executor does
(R264, R39); without a running task there is no instruction to execute. -/
def enqRow (e : Exec45) (sem : EnqSem) (area : BitVec 4) (addr : BitVec 20) (s : State) : State :=
  let exe := match e with
    | .e4 => 4
    | .e5 => 5
  onLanes (fun l => l.onEngine exe fun l => l.enqCommand s.hub s.nv exe sem area.toNat addr.toNat) s

/-- ENQ_LD (R265): LD loads the bit operand into BA. -/
def execEnqLd (e : Exec45) (area : BitVec 4) (addr : BitVec 20) (s : State) : Host.Outcome State Fault Refusal :=
  .next (enqRow e enqLd area addr s)

/-- ENQ_LDN (R265): LDN loads the inverted bit operand into BA. -/
def execEnqLdn (e : Exec45) (area : BitVec 4) (addr : BitVec 20) (s : State) : Host.Outcome State Fault Refusal :=
  .next (enqRow e enqLdn area addr s)

/-- ENQ_AND (R265): AND combines BA with the bit operand. -/
def execEnqAnd (e : Exec45) (area : BitVec 4) (addr : BitVec 20) (s : State) : Host.Outcome State Fault Refusal :=
  .next (enqRow e enqAnd area addr s)

/-- ENQ_ANDN (R265): ANDN combines BA with the inverted bit operand. -/
def execEnqAndn (e : Exec45) (area : BitVec 4) (addr : BitVec 20) (s : State) : Host.Outcome State Fault Refusal :=
  .next (enqRow e enqAndn area addr s)

/-- ENQ_OR (R265): OR combines BA with the bit operand. -/
def execEnqOr (e : Exec45) (area : BitVec 4) (addr : BitVec 20) (s : State) : Host.Outcome State Fault Refusal :=
  .next (enqRow e enqOr area addr s)

/-- ENQ_ORN (R265): ORN combines BA with the inverted bit operand. -/
def execEnqOrn (e : Exec45) (area : BitVec 4) (addr : BitVec 20) (s : State) : Host.Outcome State Fault Refusal :=
  .next (enqRow e enqOrn area addr s)

/-- ENQ_XOR (R265): XOR combines BA with the bit operand. -/
def execEnqXor (e : Exec45) (area : BitVec 4) (addr : BitVec 20) (s : State) : Host.Outcome State Fault Refusal :=
  .next (enqRow e enqXor area addr s)

/-- ENQ_ST (R265): ST writes BA to the bit operand. -/
def execEnqSt (e : Exec45) (area : BitVec 4) (addr : BitVec 20) (s : State) : Host.Outcome State Fault Refusal :=
  .next (enqRow e enqSt area addr s)

/-- ENQ_STN (R265): STN writes the inverse of BA to the bit operand. -/
def execEnqStn (e : Exec45) (area : BitVec 4) (addr : BitVec 20) (s : State) : Host.Outcome State Fault Refusal :=
  .next (enqRow e enqStn area addr s)

/-- ENQ_SET (R265): SET sets the bit operand when BA = 1. -/
def execEnqSet (e : Exec45) (area : BitVec 4) (addr : BitVec 20) (s : State) : Host.Outcome State Fault Refusal :=
  .next (enqRow e enqSet area addr s)

/-- ENQ_RST (R265): RST clears the bit operand when BA = 1. -/
def execEnqRst (e : Exec45) (area : BitVec 4) (addr : BitVec 20) (s : State) : Host.Outcome State Fault Refusal :=
  .next (enqRow e enqRst area addr s)

/-- ENQ_NOT (R265): NOT inverts BA. -/
def execEnqNot (e : Exec45) (area : BitVec 4) (addr : BitVec 20) (s : State) : Host.Outcome State Fault Refusal :=
  .next (enqRow e enqNot area addr s)

/-- ENQ_RE (R265): RE detects a rising edge using the bit operand as memory. -/
def execEnqRe (e : Exec45) (area : BitVec 4) (addr : BitVec 20) (s : State) : Host.Outcome State Fault Refusal :=
  .next (enqRow e enqRe area addr s)

/-- ENQ_FE (R265): FE detects a falling edge using the bit operand as memory. -/
def execEnqFe (e : Exec45) (area : BitVec 4) (addr : BitVec 20) (s : State) : Host.Outcome State Fault Refusal :=
  .next (enqRow e enqFe area addr s)

/-- ENQ_AND_OPEN (R265): AND( pushes a pending AND with BA and loads the operand. -/
def execEnqAndOpen (e : Exec45) (area : BitVec 4) (addr : BitVec 20) (s : State) : Host.Outcome State Fault Refusal :=
  .next (enqRow e enqAndOpen area addr s)

/-- ENQ_OR_OPEN (R265): OR( pushes a pending OR with BA and loads the operand. -/
def execEnqOrOpen (e : Exec45) (area : BitVec 4) (addr : BitVec 20) (s : State) : Host.Outcome State Fault Refusal :=
  .next (enqRow e enqOrOpen area addr s)

/-- ENQ_XOR_OPEN (R265): XOR( pushes a pending XOR with BA and loads the operand. -/
def execEnqXorOpen (e : Exec45) (area : BitVec 4) (addr : BitVec 20) (s : State) : Host.Outcome State Fault Refusal :=
  .next (enqRow e enqXorOpen area addr s)

/-- ENQ_ANDN_OPEN (R265): ANDN( pushes a pending ANDN with BA and loads the operand. -/
def execEnqAndnOpen (e : Exec45) (area : BitVec 4) (addr : BitVec 20) (s : State) : Host.Outcome State Fault Refusal :=
  .next (enqRow e enqAndnOpen area addr s)

/-- ENQ_CLOSE_PAREN (R265): ) pops a BIT entry and combines it with BA. -/
def execEnqCloseParen (e : Exec45) (area : BitVec 4) (addr : BitVec 20) (s : State) : Host.Outcome State Fault Refusal :=
  .next (enqRow e enqCloseParen area addr s)

/-- ENQ_PUSHW (R265): PUSHW pushes WA as a WORD entry. -/
def execEnqPushw (e : Exec45) (area : BitVec 4) (addr : BitVec 20) (s : State) : Host.Outcome State Fault Refusal :=
  .next (enqRow e enqPushw area addr s)

/-- ENQ_POPW (R265): POPW pops a WORD entry and combines it with WA by the selected operation. -/
def execEnqPopw (e : Exec45) (area : BitVec 4) (addr : BitVec 20) (s : State) : Host.Outcome State Fault Refusal :=
  .next (enqRow e enqPopw area addr s)

/-- ENQ_LDW (R265): LDW loads the word operand into WA. -/
def execEnqLdw (e : Exec45) (area : BitVec 4) (addr : BitVec 20) (s : State) : Host.Outcome State Fault Refusal :=
  .next (enqRow e enqLdw area addr s)

/-- ENQ_STW (R265): STW writes WA to the word operand. -/
def execEnqStw (e : Exec45) (area : BitVec 4) (addr : BitVec 20) (s : State) : Host.Outcome State Fault Refusal :=
  .next (enqRow e enqStw area addr s)

/-- ENQ_LDHI (R265): LDHI loads the immediate into the high half of WA. -/
def execEnqLdhi (e : Exec45) (area : BitVec 4) (addr : BitVec 20) (s : State) : Host.Outcome State Fault Refusal :=
  .next (enqRow e enqLdhi area addr s)

/-- ENQ_LDB (R265): LDB loads a byte, zero-extended, into WA. -/
def execEnqLdb (e : Exec45) (area : BitVec 4) (addr : BitVec 20) (s : State) : Host.Outcome State Fault Refusal :=
  .next (enqRow e enqLdb area addr s)

/-- ENQ_STB (R265): STB writes WA[7:0] to a byte. -/
def execEnqStb (e : Exec45) (area : BitVec 4) (addr : BitVec 20) (s : State) : Host.Outcome State Fault Refusal :=
  .next (enqRow e enqStb area addr s)

/-- ENQ_LDX (R265): LDX loads XR from the word operand. -/
def execEnqLdx (e : Exec45) (area : BitVec 4) (addr : BitVec 20) (s : State) : Host.Outcome State Fault Refusal :=
  .next (enqRow e enqLdx area addr s)

/-- ENQ_STX (R265): STX writes XR to the word operand. -/
def execEnqStx (e : Exec45) (area : BitVec 4) (addr : BitVec 20) (s : State) : Host.Outcome State Fault Refusal :=
  .next (enqRow e enqStx area addr s)

/-- ENQ_ADX (R265): ADX adds a sign-extended immediate to XR. -/
def execEnqAdx (e : Exec45) (area : BitVec 4) (addr : BitVec 20) (s : State) : Host.Outcome State Fault Refusal :=
  .next (enqRow e enqAdx area addr s)

/-- ENQ_ADD (R265): ADD adds the operand to WA modulo 2^32. -/
def execEnqAdd (e : Exec45) (area : BitVec 4) (addr : BitVec 20) (s : State) : Host.Outcome State Fault Refusal :=
  .next (enqRow e enqAdd area addr s)

/-- ENQ_SUB (R265): SUB subtracts the operand from WA. -/
def execEnqSub (e : Exec45) (area : BitVec 4) (addr : BitVec 20) (s : State) : Host.Outcome State Fault Refusal :=
  .next (enqRow e enqSub area addr s)

/-- ENQ_MUL (R265): MUL sets WA to the low 32 bits of the product. -/
def execEnqMul (e : Exec45) (area : BitVec 4) (addr : BitVec 20) (s : State) : Host.Outcome State Fault Refusal :=
  .next (enqRow e enqMul area addr s)

/-- ENQ_DIV (R265): DIV divides WA, truncating, and faults on zero. -/
def execEnqDiv (e : Exec45) (area : BitVec 4) (addr : BitVec 20) (s : State) : Host.Outcome State Fault Refusal :=
  .next (enqRow e enqDiv area addr s)

/-- ENQ_MOD (R265): MOD sets WA to the remainder, and faults on zero. -/
def execEnqMod (e : Exec45) (area : BitVec 4) (addr : BitVec 20) (s : State) : Host.Outcome State Fault Refusal :=
  .next (enqRow e enqMod area addr s)

/-- ENQ_WAND (R265): WAND performs a bitwise AND into WA. -/
def execEnqWand (e : Exec45) (area : BitVec 4) (addr : BitVec 20) (s : State) : Host.Outcome State Fault Refusal :=
  .next (enqRow e enqWand area addr s)

/-- ENQ_WOR (R265): WOR performs a bitwise OR into WA. -/
def execEnqWor (e : Exec45) (area : BitVec 4) (addr : BitVec 20) (s : State) : Host.Outcome State Fault Refusal :=
  .next (enqRow e enqWor area addr s)

/-- ENQ_WXOR (R265): WXOR performs a bitwise XOR into WA. -/
def execEnqWxor (e : Exec45) (area : BitVec 4) (addr : BitVec 20) (s : State) : Host.Outcome State Fault Refusal :=
  .next (enqRow e enqWxor area addr s)

/-- ENQ_SHL (R265): SHL shifts WA left. -/
def execEnqShl (e : Exec45) (area : BitVec 4) (addr : BitVec 20) (s : State) : Host.Outcome State Fault Refusal :=
  .next (enqRow e enqShl area addr s)

/-- ENQ_SHR (R265): SHR shifts WA right logically. -/
def execEnqShr (e : Exec45) (area : BitVec 4) (addr : BitVec 20) (s : State) : Host.Outcome State Fault Refusal :=
  .next (enqRow e enqShr area addr s)

/-- ENQ_SAR (R265): SAR shifts WA right arithmetically. -/
def execEnqSar (e : Exec45) (area : BitVec 4) (addr : BitVec 20) (s : State) : Host.Outcome State Fault Refusal :=
  .next (enqRow e enqSar area addr s)

/-- ENQ_NEG (R265): NEG negates WA. -/
def execEnqNeg (e : Exec45) (area : BitVec 4) (addr : BitVec 20) (s : State) : Host.Outcome State Fault Refusal :=
  .next (enqRow e enqNeg area addr s)

/-- ENQ_EQ (R265): EQ sets BA to WA = operand. -/
def execEnqEq (e : Exec45) (area : BitVec 4) (addr : BitVec 20) (s : State) : Host.Outcome State Fault Refusal :=
  .next (enqRow e enqEq area addr s)

/-- ENQ_NE (R265): NE sets BA to WA ≠ operand. -/
def execEnqNe (e : Exec45) (area : BitVec 4) (addr : BitVec 20) (s : State) : Host.Outcome State Fault Refusal :=
  .next (enqRow e enqNe area addr s)

/-- ENQ_LT (R265): LT sets BA to the signed WA < operand. -/
def execEnqLt (e : Exec45) (area : BitVec 4) (addr : BitVec 20) (s : State) : Host.Outcome State Fault Refusal :=
  .next (enqRow e enqLt area addr s)

/-- ENQ_LE (R265): LE sets BA to the signed WA ≤ operand. -/
def execEnqLe (e : Exec45) (area : BitVec 4) (addr : BitVec 20) (s : State) : Host.Outcome State Fault Refusal :=
  .next (enqRow e enqLe area addr s)

/-- ENQ_GT (R265): GT sets BA to the signed WA > operand. -/
def execEnqGt (e : Exec45) (area : BitVec 4) (addr : BitVec 20) (s : State) : Host.Outcome State Fault Refusal :=
  .next (enqRow e enqGt area addr s)

/-- ENQ_GE (R265): GE sets BA to the signed WA ≥ operand. -/
def execEnqGe (e : Exec45) (area : BitVec 4) (addr : BitVec 20) (s : State) : Host.Outcome State Fault Refusal :=
  .next (enqRow e enqGe area addr s)

/-- ENQ_LTU (R265): LTU sets BA to the unsigned WA < operand. -/
def execEnqLtu (e : Exec45) (area : BitVec 4) (addr : BitVec 20) (s : State) : Host.Outcome State Fault Refusal :=
  .next (enqRow e enqLtu area addr s)

/-- ENQ_GTU (R265): GTU sets BA to the unsigned WA > operand. -/
def execEnqGtu (e : Exec45) (area : BitVec 4) (addr : BitVec 20) (s : State) : Host.Outcome State Fault Refusal :=
  .next (enqRow e enqGtu area addr s)

/-- ENQ_FADD (R265): FADD adds the operand to WA in binary32. -/
def execEnqFadd (e : Exec45) (area : BitVec 4) (addr : BitVec 20) (s : State) : Host.Outcome State Fault Refusal :=
  .next (enqRow e enqFadd area addr s)

/-- ENQ_FSUB (R265): FSUB subtracts the operand from WA in binary32. -/
def execEnqFsub (e : Exec45) (area : BitVec 4) (addr : BitVec 20) (s : State) : Host.Outcome State Fault Refusal :=
  .next (enqRow e enqFsub area addr s)

/-- ENQ_FMUL (R265): FMUL multiplies WA by the operand in binary32. -/
def execEnqFmul (e : Exec45) (area : BitVec 4) (addr : BitVec 20) (s : State) : Host.Outcome State Fault Refusal :=
  .next (enqRow e enqFmul area addr s)

/-- ENQ_FDIV (R265): FDIV divides WA by the operand in binary32. -/
def execEnqFdiv (e : Exec45) (area : BitVec 4) (addr : BitVec 20) (s : State) : Host.Outcome State Fault Refusal :=
  .next (enqRow e enqFdiv area addr s)

/-- ENQ_FMIN (R265): FMIN sets WA to the smaller value. -/
def execEnqFmin (e : Exec45) (area : BitVec 4) (addr : BitVec 20) (s : State) : Host.Outcome State Fault Refusal :=
  .next (enqRow e enqFmin area addr s)

/-- ENQ_FMAX (R265): FMAX sets WA to the larger value. -/
def execEnqFmax (e : Exec45) (area : BitVec 4) (addr : BitVec 20) (s : State) : Host.Outcome State Fault Refusal :=
  .next (enqRow e enqFmax area addr s)

/-- ENQ_FABS (R265): FABS clears bit 31 of WA. -/
def execEnqFabs (e : Exec45) (area : BitVec 4) (addr : BitVec 20) (s : State) : Host.Outcome State Fault Refusal :=
  .next (enqRow e enqFabs area addr s)

/-- ENQ_FNEG (R265): FNEG inverts bit 31 of WA. -/
def execEnqFneg (e : Exec45) (area : BitVec 4) (addr : BitVec 20) (s : State) : Host.Outcome State Fault Refusal :=
  .next (enqRow e enqFneg area addr s)

/-- ENQ_FSQRT (R265): FSQRT sets WA to its square root. -/
def execEnqFsqrt (e : Exec45) (area : BitVec 4) (addr : BitVec 20) (s : State) : Host.Outcome State Fault Refusal :=
  .next (enqRow e enqFsqrt area addr s)

/-- ENQ_FLIM (R265): FLIM clamps WA between the operand and the next word. -/
def execEnqFlim (e : Exec45) (area : BitVec 4) (addr : BitVec 20) (s : State) : Host.Outcome State Fault Refusal :=
  .next (enqRow e enqFlim area addr s)

/-- ENQ_FEQ (R265): FEQ sets BA to the floating-point equality. -/
def execEnqFeq (e : Exec45) (area : BitVec 4) (addr : BitVec 20) (s : State) : Host.Outcome State Fault Refusal :=
  .next (enqRow e enqFeq area addr s)

/-- ENQ_FLT (R265): FLT sets BA to the floating-point WA < operand. -/
def execEnqFlt (e : Exec45) (area : BitVec 4) (addr : BitVec 20) (s : State) : Host.Outcome State Fault Refusal :=
  .next (enqRow e enqFlt area addr s)

/-- ENQ_FLE (R265): FLE sets BA to the floating-point WA ≤ operand. -/
def execEnqFle (e : Exec45) (area : BitVec 4) (addr : BitVec 20) (s : State) : Host.Outcome State Fault Refusal :=
  .next (enqRow e enqFle area addr s)

/-- ENQ_FGT (R265): FGT sets BA to the floating-point WA > operand. -/
def execEnqFgt (e : Exec45) (area : BitVec 4) (addr : BitVec 20) (s : State) : Host.Outcome State Fault Refusal :=
  .next (enqRow e enqFgt area addr s)

/-- ENQ_FGE (R265): FGE sets BA to the floating-point WA ≥ operand. -/
def execEnqFge (e : Exec45) (area : BitVec 4) (addr : BitVec 20) (s : State) : Host.Outcome State Fault Refusal :=
  .next (enqRow e enqFge area addr s)

/-- ENQ_FFUN (R265): FFUN applies the selected elementary function to WA. -/
def execEnqFfun (e : Exec45) (area : BitVec 4) (addr : BitVec 20) (s : State) : Host.Outcome State Fault Refusal :=
  .next (enqRow e enqFfun area addr s)

/-- ENQ_I2F (R265): I2F converts WA from i32 to binary32. -/
def execEnqI2f (e : Exec45) (area : BitVec 4) (addr : BitVec 20) (s : State) : Host.Outcome State Fault Refusal :=
  .next (enqRow e enqI2f area addr s)

/-- ENQ_F2I (R265): F2I converts WA to i32, rounded half even and saturated. -/
def execEnqF2i (e : Exec45) (area : BitVec 4) (addr : BitVec 20) (s : State) : Host.Outcome State Fault Refusal :=
  .next (enqRow e enqF2i area addr s)

/-- ENQ_U2F (R265): U2F converts WA from u32 to binary32. -/
def execEnqU2f (e : Exec45) (area : BitVec 4) (addr : BitVec 20) (s : State) : Host.Outcome State Fault Refusal :=
  .next (enqRow e enqU2f area addr s)

/-- ENQ_SEL (R265): SEL loads the operand into WA when BA = 1. -/
def execEnqSel (e : Exec45) (area : BitVec 4) (addr : BitVec 20) (s : State) : Host.Outcome State Fault Refusal :=
  .next (enqRow e enqSel area addr s)

/-- ENQ_JMP (R265): JMP jumps unconditionally. -/
def execEnqJmp (e : Exec45) (area : BitVec 4) (addr : BitVec 20) (s : State) : Host.Outcome State Fault Refusal :=
  .next (enqRow e enqJmp area addr s)

/-- ENQ_JMPC (R265): JMPC jumps when BA = 1. -/
def execEnqJmpc (e : Exec45) (area : BitVec 4) (addr : BitVec 20) (s : State) : Host.Outcome State Fault Refusal :=
  .next (enqRow e enqJmpc area addr s)

/-- ENQ_JMPN (R265): JMPN jumps when BA = 0. -/
def execEnqJmpn (e : Exec45) (area : BitVec 4) (addr : BitVec 20) (s : State) : Host.Outcome State Fault Refusal :=
  .next (enqRow e enqJmpn area addr s)

/-- ENQ_CALL (R265): CALL pushes the return address and jumps. -/
def execEnqCall (e : Exec45) (area : BitVec 4) (addr : BitVec 20) (s : State) : Host.Outcome State Fault Refusal :=
  .next (enqRow e enqCall area addr s)

/-- ENQ_CALLC (R265): CALLC calls when BA = 1. -/
def execEnqCallc (e : Exec45) (area : BitVec 4) (addr : BitVec 20) (s : State) : Host.Outcome State Fault Refusal :=
  .next (enqRow e enqCallc area addr s)

/-- ENQ_RET (R265): RET pops a return address into PC. -/
def execEnqRet (e : Exec45) (area : BitVec 4) (addr : BitVec 20) (s : State) : Host.Outcome State Fault Refusal :=
  .next (enqRow e enqRet area addr s)

/-- ENQ_END (R265): END ends the feed or main section and triggers its copy-out. -/
def execEnqEnd (e : Exec45) (area : BitVec 4) (addr : BitVec 20) (s : State) : Host.Outcome State Fault Refusal :=
  .next (enqRow e enqEnd area addr s)

/-- ENQ_NOP (R265): NOP does nothing. -/
def execEnqNop (e : Exec45) (area : BitVec 4) (addr : BitVec 20) (s : State) : Host.Outcome State Fault Refusal :=
  .next (enqRow e enqNop area addr s)

/-- ENQ_EVT (R271): EVT triggers an event task of EVSRC 0 when BA = 1. -/
def execEnqEvt (e : Exec45) (area : BitVec 4) (addr : BitVec 20) (s : State) : Host.Outcome State Fault Refusal :=
  .next (enqRow e enqEvt area addr s)

/-- ENQ_TON (R267): TON runs an on-delay timer. -/
def execEnqTon (e : Exec45) (area : BitVec 4) (addr : BitVec 20) (s : State) : Host.Outcome State Fault Refusal :=
  .next (enqRow e enqTon area addr s)

/-- ENQ_TOF (R267): TOF runs an off-delay timer. -/
def execEnqTof (e : Exec45) (area : BitVec 4) (addr : BitVec 20) (s : State) : Host.Outcome State Fault Refusal :=
  .next (enqRow e enqTof area addr s)

/-- ENQ_TP (R267): TP runs a pulse timer. -/
def execEnqTp (e : Exec45) (area : BitVec 4) (addr : BitVec 20) (s : State) : Host.Outcome State Fault Refusal :=
  .next (enqRow e enqTp area addr s)

/-- ENQ_TPT (R265): TPT sets a timer's preset from WA. -/
def execEnqTpt (e : Exec45) (area : BitVec 4) (addr : BitVec 20) (s : State) : Host.Outcome State Fault Refusal :=
  .next (enqRow e enqTpt area addr s)

/-- ENQ_CTU (R268): CTU counts up on a rising BA. -/
def execEnqCtu (e : Exec45) (area : BitVec 4) (addr : BitVec 20) (s : State) : Host.Outcome State Fault Refusal :=
  .next (enqRow e enqCtu area addr s)

/-- ENQ_CTD (R268): CTD counts down on a rising BA. -/
def execEnqCtd (e : Exec45) (area : BitVec 4) (addr : BitVec 20) (s : State) : Host.Outcome State Fault Refusal :=
  .next (enqRow e enqCtd area addr s)

/-- ENQ_CLD (R265): CLD loads CV from PV when BA = 1. -/
def execEnqCld (e : Exec45) (area : BitVec 4) (addr : BitVec 20) (s : State) : Host.Outcome State Fault Refusal :=
  .next (enqRow e enqCld area addr s)

/-- ENQ_CRST (R265): CRST clears CV when BA = 1. -/
def execEnqCrst (e : Exec45) (area : BitVec 4) (addr : BitVec 20) (s : State) : Host.Outcome State Fault Refusal :=
  .next (enqRow e enqCrst area addr s)

/-- ENQ_CPV (R265): CPV sets a counter's preset from WA. -/
def execEnqCpv (e : Exec45) (area : BitVec 4) (addr : BitVec 20) (s : State) : Host.Outcome State Fault Refusal :=
  .next (enqRow e enqCpv area addr s)

/-- ENQ_LPV (R269): LPV reads a loop's PV. -/
def execEnqLpv (e : Exec45) (area : BitVec 4) (addr : BitVec 20) (s : State) : Host.Outcome State Fault Refusal :=
  .next (enqRow e enqLpv area addr s)

/-- ENQ_LSP (R269): LSP reads a loop's SP. -/
def execEnqLsp (e : Exec45) (area : BitVec 4) (addr : BitVec 20) (s : State) : Host.Outcome State Fault Refusal :=
  .next (enqRow e enqLsp area addr s)

/-- ENQ_LE_LOOP (R269): LE reads a loop's error E. -/
def execEnqLeLoop (e : Exec45) (area : BitVec 4) (addr : BitVec 20) (s : State) : Host.Outcome State Fault Refusal :=
  .next (enqRow e enqLeLoop area addr s)

/-- ENQ_LUC (R269): LUC reads a loop's UC. -/
def execEnqLuc (e : Exec45) (area : BitVec 4) (addr : BitVec 20) (s : State) : Host.Outcome State Fault Refusal :=
  .next (enqRow e enqLuc area addr s)

/-- ENQ_LUD (R269): LUD reads a loop's UD. -/
def execEnqLud (e : Exec45) (area : BitVec 4) (addr : BitVec 20) (s : State) : Host.Outcome State Fault Refusal :=
  .next (enqRow e enqLud area addr s)

/-- ENQ_LI (R269): LI reads a loop's integrator. -/
def execEnqLi (e : Exec45) (area : BitVec 4) (addr : BitVec 20) (s : State) : Host.Outcome State Fault Refusal :=
  .next (enqRow e enqLi area addr s)

/-- ENQ_LST (R269): LST reads a loop's flags and mode. -/
def execEnqLst (e : Exec45) (area : BitVec 4) (addr : BitVec 20) (s : State) : Host.Outcome State Fault Refusal :=
  .next (enqRow e enqLst area addr s)

/-- ENQ_LPSP (R269): LPSP writes a loop's program setpoint. -/
def execEnqLpsp (e : Exec45) (area : BitVec 4) (addr : BitVec 20) (s : State) : Host.Outcome State Fault Refusal :=
  .next (enqRow e enqLpsp area addr s)

/-- ENQ_LMAN (R269): LMAN writes a loop's MANOUT. -/
def execEnqLman (e : Exec45) (area : BitVec 4) (addr : BitVec 20) (s : State) : Host.Outcome State Fault Refusal :=
  .next (enqRow e enqLman area addr s)

/-- ENQ_LMODE (R269): LMODE writes a loop's MODE. -/
def execEnqLmode (e : Exec45) (area : BitVec 4) (addr : BitVec 20) (s : State) : Host.Outcome State Fault Refusal :=
  .next (enqRow e enqLmode area addr s)

/-- ENQ_SRD (R270): SRD reads a solve result window value. -/
def execEnqSrd (e : Exec45) (area : BitVec 4) (addr : BitVec 20) (s : State) : Host.Outcome State Fault Refusal :=
  .next (enqRow e enqSrd area addr s)

/-- ENQ_SRQ (R270): SRQ reads a solve result window quality. -/
def execEnqSrq (e : Exec45) (area : BitVec 4) (addr : BitVec 20) (s : State) : Host.Outcome State Fault Refusal :=
  .next (enqRow e enqSrq area addr s)

/-- ENQ_SRN (R270): SRN reads the solve number or status word. -/
def execEnqSrn (e : Exec45) (area : BitVec 4) (addr : BitVec 20) (s : State) : Host.Outcome State Fault Refusal :=
  .next (enqRow e enqSrn area addr s)

/-- ENQ_ORD (R270): ORD reads a dispatch result window value. -/
def execEnqOrd (e : Exec45) (area : BitVec 4) (addr : BitVec 20) (s : State) : Host.Outcome State Fault Refusal :=
  .next (enqRow e enqOrd area addr s)

/-- ENQ_QGET (R272): QGET takes the next visible data word of the current queue item. -/
def execEnqQget (e : Exec45) (area : BitVec 4) (addr : BitVec 20) (s : State) : Host.Outcome State Fault Refusal :=
  .next (enqRow e enqQget area addr s)

/-- ENQ_QPUT (R272): QPUT appends a data word to the open item, or is ignored when the queue is full. -/
def execEnqQput (e : Exec45) (area : BitVec 4) (addr : BitVec 20) (s : State) : Host.Outcome State Fault Refusal :=
  .next (enqRow e enqQput area addr s)

/-- ENQ_QEND (R272): QEND closes the open item. -/
def execEnqQend (e : Exec45) (area : BitVec 4) (addr : BitVec 20) (s : State) : Host.Outcome State Fault Refusal :=
  .next (enqRow e enqQend area addr s)

/-- ENQ_TIME (R273): TIME reads one word of frame time. -/
def execEnqTime (e : Exec45) (area : BitVec 4) (addr : BitVec 20) (s : State) : Host.Outcome State Fault Refusal :=
  .next (enqRow e enqTime area addr s)

/-- ENQ_RRD (R274): RRD performs an engine register read at XR. -/
def execEnqRrd (e : Exec45) (area : BitVec 4) (addr : BitVec 20) (s : State) : Host.Outcome State Fault Refusal :=
  .next (enqRow e enqRrd area addr s)

/-- ENQ_RWR (R274): RWR performs an engine register write at XR. -/
def execEnqRwr (e : Exec45) (area : BitVec 4) (addr : BitVec 20) (s : State) : Host.Outcome State Fault Refusal :=
  .next (enqRow e enqRwr area addr s)

/-- ENQ_DLST (R275): DLST hands a display list to E1. -/
def execEnqDlst (e : Exec45) (area : BitVec 4) (addr : BitVec 20) (s : State) : Host.Outcome State Fault Refusal :=
  .next (enqRow e enqDlst area addr s)

/-- ENQ_ILLOP (R265): Executing a word whose opcode is undefined faults with 0x01 ILLOP and leads to the program fault; an opcode of Table ENQ-4 has its own meaning. -/
def execEnqIllop (e : Exec45) (opcode : BitVec 8) (area : BitVec 4) (addr : BitVec 20) (s : State) : Host.Outcome State Fault Refusal :=
  .next (enqRow e (enqSem opcode.toNat) area addr s)

end Sys2Proof.Machine
end

