-- ==== Sys2Proof/Machine/Dispatch.lean ====
section
/-! DEFINITION. One arm for each command: a direct call of its meaning. -/

namespace Sys2Proof.Machine

def exec (i : Instr) (s : State) : Host.Outcome State Fault Refusal :=
  match i with
  | .frameStart m => Sys2Proof.Machine.execFrameStart m s
  | .diEdge din level t => Sys2Proof.Machine.execDiEdge din level t s
  | .pulseInputCount n => Sys2Proof.Machine.execPulseInputCount n s
  | .diArrivalClose => Sys2Proof.Machine.execDiArrivalClose s
  | .arrivalComplete src t c => Sys2Proof.Machine.execArrivalComplete src t c s
  | .inputFrameClose => Sys2Proof.Machine.execInputFrameClose s
  | .inputInstant lossA lossB => Sys2Proof.Machine.execInputInstant lossA lossB s
  | .solveComputationEnd lane us => Sys2Proof.Machine.execSolveComputationEnd lane us s
  | .dispatchComputationEnd lane us => Sys2Proof.Machine.execDispatchComputationEnd lane us s
  | .boundaryExchangeResend epoch => Sys2Proof.Machine.execBoundaryExchangeResend epoch s
  | .epochStop epoch => Sys2Proof.Machine.execEpochStop epoch s
  | .decisionDeadline epoch => Sys2Proof.Machine.execDecisionDeadline epoch s
  | .rtdStale => Sys2Proof.Machine.execRtdStale s
  | .pulseEnd n => Sys2Proof.Machine.execPulseEnd n s
  | .telegramStationStale stn => Sys2Proof.Machine.execTelegramStationStale stn s
  | .queueStrandedTail q => Sys2Proof.Machine.execQueueStrandedTail q s
  | .summaryComplete => Sys2Proof.Machine.execSummaryComplete s
  | .adjacencyTimeout link => Sys2Proof.Machine.execAdjacencyTimeout link s
  | .lsaAgeOut => Sys2Proof.Machine.execLsaAgeOut s
  | .precopyPassEnd lines => Sys2Proof.Machine.execPrecopyPassEnd lines s
  | .transferTimeout => Sys2Proof.Machine.execTransferTimeout s
  | .outputFrameDelivery lane d => Sys2Proof.Machine.execOutputFrameDelivery lane d s
  | .deadlineMiss late => Sys2Proof.Machine.execDeadlineMiss late s
  | .assayReport r => Sys2Proof.Machine.execAssayReport r s
  | .compare => Sys2Proof.Machine.execCompare s
  | .touchstoneLoss => Sys2Proof.Machine.execTouchstoneLoss s
  | .applyInstant pathOk => Sys2Proof.Machine.execApplyInstant pathOk s
  | .inputLost inp => Sys2Proof.Machine.execInputLost inp s
  | .inputGood inp => Sys2Proof.Machine.execInputGood inp s
  | .converterFault inp => Sys2Proof.Machine.execConverterFault inp s
  | .converterRetry inp ok => Sys2Proof.Machine.execConverterRetry inp ok s
  | .pfail => Sys2Proof.Machine.execPfail s
  | .bankLow => Sys2Proof.Machine.execBankLow s
  | .holdReady => Sys2Proof.Machine.execHoldReady s
  | .domainFault d => Sys2Proof.Machine.execDomainFault d s
  | .domainRepower d => Sys2Proof.Machine.execDomainRepower d s
  | .clockFailure clk => Sys2Proof.Machine.execClockFailure clk s
  | .uncorrectableError lane => Sys2Proof.Machine.execUncorrectableError lane s
  | .engineTrap lane eng code pc => Sys2Proof.Machine.execEngineTrap lane eng code pc s
  | .watchdogExpiry lane eng => Sys2Proof.Machine.execWatchdogExpiry lane eng s
  | .powerReturn => Sys2Proof.Machine.execPowerReturn s
  | .startupPhaseEnd lane tsOk a b => Sys2Proof.Machine.execStartupPhaseEnd lane tsOk a b s
  | .lampTestEnd => Sys2Proof.Machine.execLampTestEnd s
  | .laneReadyTimeout => Sys2Proof.Machine.execLaneReadyTimeout s
  | .startFrame => Sys2Proof.Machine.execStartFrame s
  | .regWrite o addr value => Sys2Proof.Machine.execRegWrite o addr value s
  | .lockWrite o page value => Sys2Proof.Machine.execLockWrite o page value s
  | .ctrlSrst o page => Sys2Proof.Machine.execCtrlSrst o page s
  | .irqfForce o page value => Sys2Proof.Machine.execIrqfForce o page value s
  | .errcRead session page => Sys2Proof.Machine.execErrcRead session page s
  | .writeTransaction session tag t entries entropy => Sys2Proof.Machine.execWriteTransaction session tag t entries entropy s
  | .readTransaction session tag addrs => Sys2Proof.Machine.execReadTransaction session tag addrs s
  | .frameConsistentRead session tag addrs => Sys2Proof.Machine.execFrameConsistentRead session tag addrs s
  | .subscribe session mask => Sys2Proof.Machine.execSubscribe session mask s
  | .keepalive session => Sys2Proof.Machine.execKeepalive session s
  | .sessionOpen session port cert => Sys2Proof.Machine.execSessionOpen session port cert s
  | .sessionIdleTimeout session => Sys2Proof.Machine.execSessionIdleTimeout session s
  | .sessionProtocolError session => Sys2Proof.Machine.execSessionProtocolError session s
  | .rstWarm o => Sys2Proof.Machine.execRstWarm o s
  | .rstCold o => Sys2Proof.Machine.execRstCold o s
  | .rstpolWrite o value => Sys2Proof.Machine.execRstpolWrite o value s
  | .quenchImageWrite o n value => Sys2Proof.Machine.execQuenchImageWrite o n value s
  | .swap o => Sys2Proof.Machine.execSwap o s
  | .tdataWrite o value => Sys2Proof.Machine.execTdataWrite o value s
  | .burnClr o which => Sys2Proof.Machine.execBurnClr o which s
  | .traceArm o => Sys2Proof.Machine.execTraceArm o s
  | .traceFire o => Sys2Proof.Machine.execTraceFire o s
  | .traceStop o => Sys2Proof.Machine.execTraceStop o s
  | .traceRoll o => Sys2Proof.Machine.execTraceRoll o s
  | .prgRun o => Sys2Proof.Machine.execPrgRun o s
  | .prgStop o => Sys2Proof.Machine.execPrgStop o s
  | .prgHold o => Sys2Proof.Machine.execPrgHold o s
  | .fltack o => Sys2Proof.Machine.execFltack o s
  | .holdTimeout => Sys2Proof.Machine.execHoldTimeout s
  | .vvalWrite o value => Sys2Proof.Machine.execVvalWrite o value s
  | .forceApply o => Sys2Proof.Machine.execForceApply o s
  | .forceRelease o => Sys2Proof.Machine.execForceRelease o s
  | .forceReleaseAll o => Sys2Proof.Machine.execForceReleaseAll o s
  | .forceTimeout => Sys2Proof.Machine.execForceTimeout s
  | .flush o => Sys2Proof.Machine.execFlush o s
  | .flushall o => Sys2Proof.Machine.execFlushall o s
  | .capWrite o value => Sys2Proof.Machine.execCapWrite o value s
  | .patinaSum o => Sys2Proof.Machine.execPatinaSum o s
  | .calendarSet o => Sys2Proof.Machine.execCalendarSet o s
  | .alarmWrite o day value => Sys2Proof.Machine.execAlarmWrite o day value s
  | .haltTimeout => Sys2Proof.Machine.execHaltTimeout s
  | .calendarShadowFreeze reader => Sys2Proof.Machine.execCalendarShadowFreeze reader s
  | .calendarShadowRelease reader => Sys2Proof.Machine.execCalendarShadowRelease reader s
  | .calendarShadowTimeout reader => Sys2Proof.Machine.execCalendarShadowTimeout reader s
  | .osf => Sys2Proof.Machine.execOsf s
  | .batlowTest low => Sys2Proof.Machine.execBatlowTest low s
  | .backupSwitchToCell => Sys2Proof.Machine.execBackupSwitchToCell s
  | .backupSwitchToVdd => Sys2Proof.Machine.execBackupSwitchToVdd s
  | .backupUnlock => Sys2Proof.Machine.execBackupUnlock s
  | .ptpMessage m => Sys2Proof.Machine.execPtpMessage m s
  | .sampleTimeout => Sys2Proof.Machine.execSampleTimeout s
  | .holdoverTimeout => Sys2Proof.Machine.execHoldoverTimeout s
  | .txTimestamp port ident ns => Sys2Proof.Machine.execTxTimestamp port ident ns s
  | .lcmdProvision o entropy => Sys2Proof.Machine.execLcmdProvision o entropy s
  | .lcmdClaim o => Sys2Proof.Machine.execLcmdClaim o s
  | .lcmdDebugon o => Sys2Proof.Machine.execLcmdDebugon o s
  | .lcmdDebugoff o => Sys2Proof.Machine.execLcmdDebugoff o s
  | .lcmdRetire o => Sys2Proof.Machine.execLcmdRetire o s
  | .kcmdDerive o => Sys2Proof.Machine.execKcmdDerive o s
  | .kcmdInvalidate o => Sys2Proof.Machine.execKcmdInvalidate o s
  | .kcmdStage o => Sys2Proof.Machine.execKcmdStage o s
  | .kcmdVerify o => Sys2Proof.Machine.execKcmdVerify o s
  | .kcmdCommit o => Sys2Proof.Machine.execKcmdCommit o s
  | .kcmdAbort o => Sys2Proof.Machine.execKcmdAbort o s
  | .stagingExpiry => Sys2Proof.Machine.execStagingExpiry s
  | .att o => Sys2Proof.Machine.execAtt o s
  | .ucmdStart o => Sys2Proof.Machine.execUcmdStart o s
  | .ucmdVerify o => Sys2Proof.Machine.execUcmdVerify o s
  | .ucmdPromote o => Sys2Proof.Machine.execUcmdPromote o s
  | .ucmdAbort o => Sys2Proof.Machine.execUcmdAbort o s
  | .page session tag idx data => Sys2Proof.Machine.execPage session tag idx data s
  | .verificationReport a b => Sys2Proof.Machine.execVerificationReport a b s
  | .verificationTimeout => Sys2Proof.Machine.execVerificationTimeout s
  | .promotionAbandon => Sys2Proof.Machine.execPromotionAbandon s
  | .asyKindBackground o unit tlane => Sys2Proof.Machine.execAsyKindBackground o unit tlane s
  | .asyKindStartup o unit tlane => Sys2Proof.Machine.execAsyKindStartup o unit tlane s
  | .asyKindInject o unit tlane => Sys2Proof.Machine.execAsyKindInject o unit tlane s
  | .linkStateChange link cage block => Sys2Proof.Machine.execLinkStateChange link cage block s
  | .fabricFrameReceive link stamp data => Sys2Proof.Machine.execFabricFrameReceive link stamp data s
  | .portRequestTimeout src stn => Sys2Proof.Machine.execPortRequestTimeout src stn s
  | .rs485AduEnd port t data => Sys2Proof.Machine.execRs485AduEnd port t data s
  | .modbusConnect conn reply => Sys2Proof.Machine.execModbusConnect conn reply s
  | .canBusOff port => Sys2Proof.Machine.execCanBusOff port s
  | .canRecover o port => Sys2Proof.Machine.execCanRecover o port s
  | .canRecoveryComplete port => Sys2Proof.Machine.execCanRecoveryComplete port s
  | .autobaudRateSwitch port => Sys2Proof.Machine.execAutobaudRateSwitch port s
  | .autobaudLock port => Sys2Proof.Machine.execAutobaudLock port s
  | .mbusOvercurrent port ibus => Sys2Proof.Machine.execMbusOvercurrent port ibus s
  | .mbusRepower port => Sys2Proof.Machine.execMbusRepower port s
  | .mbusRestart o port => Sys2Proof.Machine.execMbusRestart o port s
  | .renderComplete => Sys2Proof.Machine.execRenderComplete s
  | .verticalBlank => Sys2Proof.Machine.execVerticalBlank s
  | .refreshCrcCheck crc => Sys2Proof.Machine.execRefreshCrcCheck crc s
  | .displayStale => Sys2Proof.Machine.execDisplayStale s
  | .panelPowerUp => Sys2Proof.Machine.execPanelPowerUp s
  | .panelPowerDown => Sys2Proof.Machine.execPanelPowerDown s
  | .railFault rail => Sys2Proof.Machine.execRailFault rail s
  | .railRetry => Sys2Proof.Machine.execRailRetry s
  | .backlightStringFault n short => Sys2Proof.Machine.execBacklightStringFault n short s
  | .gcommit o => Sys2Proof.Machine.execGcommit o s
  | .gdataWrite o value => Sys2Proof.Machine.execGdataWrite o value s
  | .pnlRestart o => Sys2Proof.Machine.execPnlRestart o s
  | .railWrite o n value => Sys2Proof.Machine.execRailWrite o n value s
  | .enqLd e area addr => Sys2Proof.Machine.execEnqLd e area addr s
  | .enqLdn e area addr => Sys2Proof.Machine.execEnqLdn e area addr s
  | .enqAnd e area addr => Sys2Proof.Machine.execEnqAnd e area addr s
  | .enqAndn e area addr => Sys2Proof.Machine.execEnqAndn e area addr s
  | .enqOr e area addr => Sys2Proof.Machine.execEnqOr e area addr s
  | .enqOrn e area addr => Sys2Proof.Machine.execEnqOrn e area addr s
  | .enqXor e area addr => Sys2Proof.Machine.execEnqXor e area addr s
  | .enqSt e area addr => Sys2Proof.Machine.execEnqSt e area addr s
  | .enqStn e area addr => Sys2Proof.Machine.execEnqStn e area addr s
  | .enqSet e area addr => Sys2Proof.Machine.execEnqSet e area addr s
  | .enqRst e area addr => Sys2Proof.Machine.execEnqRst e area addr s
  | .enqNot e area addr => Sys2Proof.Machine.execEnqNot e area addr s
  | .enqRe e area addr => Sys2Proof.Machine.execEnqRe e area addr s
  | .enqFe e area addr => Sys2Proof.Machine.execEnqFe e area addr s
  | .enqAndOpen e area addr => Sys2Proof.Machine.execEnqAndOpen e area addr s
  | .enqOrOpen e area addr => Sys2Proof.Machine.execEnqOrOpen e area addr s
  | .enqXorOpen e area addr => Sys2Proof.Machine.execEnqXorOpen e area addr s
  | .enqAndnOpen e area addr => Sys2Proof.Machine.execEnqAndnOpen e area addr s
  | .enqCloseParen e area addr => Sys2Proof.Machine.execEnqCloseParen e area addr s
  | .enqPushw e area addr => Sys2Proof.Machine.execEnqPushw e area addr s
  | .enqPopw e area addr => Sys2Proof.Machine.execEnqPopw e area addr s
  | .enqLdw e area addr => Sys2Proof.Machine.execEnqLdw e area addr s
  | .enqStw e area addr => Sys2Proof.Machine.execEnqStw e area addr s
  | .enqLdhi e area addr => Sys2Proof.Machine.execEnqLdhi e area addr s
  | .enqLdb e area addr => Sys2Proof.Machine.execEnqLdb e area addr s
  | .enqStb e area addr => Sys2Proof.Machine.execEnqStb e area addr s
  | .enqLdx e area addr => Sys2Proof.Machine.execEnqLdx e area addr s
  | .enqStx e area addr => Sys2Proof.Machine.execEnqStx e area addr s
  | .enqAdx e area addr => Sys2Proof.Machine.execEnqAdx e area addr s
  | .enqAdd e area addr => Sys2Proof.Machine.execEnqAdd e area addr s
  | .enqSub e area addr => Sys2Proof.Machine.execEnqSub e area addr s
  | .enqMul e area addr => Sys2Proof.Machine.execEnqMul e area addr s
  | .enqDiv e area addr => Sys2Proof.Machine.execEnqDiv e area addr s
  | .enqMod e area addr => Sys2Proof.Machine.execEnqMod e area addr s
  | .enqWand e area addr => Sys2Proof.Machine.execEnqWand e area addr s
  | .enqWor e area addr => Sys2Proof.Machine.execEnqWor e area addr s
  | .enqWxor e area addr => Sys2Proof.Machine.execEnqWxor e area addr s
  | .enqShl e area addr => Sys2Proof.Machine.execEnqShl e area addr s
  | .enqShr e area addr => Sys2Proof.Machine.execEnqShr e area addr s
  | .enqSar e area addr => Sys2Proof.Machine.execEnqSar e area addr s
  | .enqNeg e area addr => Sys2Proof.Machine.execEnqNeg e area addr s
  | .enqEq e area addr => Sys2Proof.Machine.execEnqEq e area addr s
  | .enqNe e area addr => Sys2Proof.Machine.execEnqNe e area addr s
  | .enqLt e area addr => Sys2Proof.Machine.execEnqLt e area addr s
  | .enqLe e area addr => Sys2Proof.Machine.execEnqLe e area addr s
  | .enqGt e area addr => Sys2Proof.Machine.execEnqGt e area addr s
  | .enqGe e area addr => Sys2Proof.Machine.execEnqGe e area addr s
  | .enqLtu e area addr => Sys2Proof.Machine.execEnqLtu e area addr s
  | .enqGtu e area addr => Sys2Proof.Machine.execEnqGtu e area addr s
  | .enqFadd e area addr => Sys2Proof.Machine.execEnqFadd e area addr s
  | .enqFsub e area addr => Sys2Proof.Machine.execEnqFsub e area addr s
  | .enqFmul e area addr => Sys2Proof.Machine.execEnqFmul e area addr s
  | .enqFdiv e area addr => Sys2Proof.Machine.execEnqFdiv e area addr s
  | .enqFmin e area addr => Sys2Proof.Machine.execEnqFmin e area addr s
  | .enqFmax e area addr => Sys2Proof.Machine.execEnqFmax e area addr s
  | .enqFabs e area addr => Sys2Proof.Machine.execEnqFabs e area addr s
  | .enqFneg e area addr => Sys2Proof.Machine.execEnqFneg e area addr s
  | .enqFsqrt e area addr => Sys2Proof.Machine.execEnqFsqrt e area addr s
  | .enqFlim e area addr => Sys2Proof.Machine.execEnqFlim e area addr s
  | .enqFeq e area addr => Sys2Proof.Machine.execEnqFeq e area addr s
  | .enqFlt e area addr => Sys2Proof.Machine.execEnqFlt e area addr s
  | .enqFle e area addr => Sys2Proof.Machine.execEnqFle e area addr s
  | .enqFgt e area addr => Sys2Proof.Machine.execEnqFgt e area addr s
  | .enqFge e area addr => Sys2Proof.Machine.execEnqFge e area addr s
  | .enqFfun e area addr => Sys2Proof.Machine.execEnqFfun e area addr s
  | .enqI2f e area addr => Sys2Proof.Machine.execEnqI2f e area addr s
  | .enqF2i e area addr => Sys2Proof.Machine.execEnqF2i e area addr s
  | .enqU2f e area addr => Sys2Proof.Machine.execEnqU2f e area addr s
  | .enqSel e area addr => Sys2Proof.Machine.execEnqSel e area addr s
  | .enqJmp e area addr => Sys2Proof.Machine.execEnqJmp e area addr s
  | .enqJmpc e area addr => Sys2Proof.Machine.execEnqJmpc e area addr s
  | .enqJmpn e area addr => Sys2Proof.Machine.execEnqJmpn e area addr s
  | .enqCall e area addr => Sys2Proof.Machine.execEnqCall e area addr s
  | .enqCallc e area addr => Sys2Proof.Machine.execEnqCallc e area addr s
  | .enqRet e area addr => Sys2Proof.Machine.execEnqRet e area addr s
  | .enqEnd e area addr => Sys2Proof.Machine.execEnqEnd e area addr s
  | .enqNop e area addr => Sys2Proof.Machine.execEnqNop e area addr s
  | .enqEvt e area addr => Sys2Proof.Machine.execEnqEvt e area addr s
  | .enqTon e area addr => Sys2Proof.Machine.execEnqTon e area addr s
  | .enqTof e area addr => Sys2Proof.Machine.execEnqTof e area addr s
  | .enqTp e area addr => Sys2Proof.Machine.execEnqTp e area addr s
  | .enqTpt e area addr => Sys2Proof.Machine.execEnqTpt e area addr s
  | .enqCtu e area addr => Sys2Proof.Machine.execEnqCtu e area addr s
  | .enqCtd e area addr => Sys2Proof.Machine.execEnqCtd e area addr s
  | .enqCld e area addr => Sys2Proof.Machine.execEnqCld e area addr s
  | .enqCrst e area addr => Sys2Proof.Machine.execEnqCrst e area addr s
  | .enqCpv e area addr => Sys2Proof.Machine.execEnqCpv e area addr s
  | .enqLpv e area addr => Sys2Proof.Machine.execEnqLpv e area addr s
  | .enqLsp e area addr => Sys2Proof.Machine.execEnqLsp e area addr s
  | .enqLeLoop e area addr => Sys2Proof.Machine.execEnqLeLoop e area addr s
  | .enqLuc e area addr => Sys2Proof.Machine.execEnqLuc e area addr s
  | .enqLud e area addr => Sys2Proof.Machine.execEnqLud e area addr s
  | .enqLi e area addr => Sys2Proof.Machine.execEnqLi e area addr s
  | .enqLst e area addr => Sys2Proof.Machine.execEnqLst e area addr s
  | .enqLpsp e area addr => Sys2Proof.Machine.execEnqLpsp e area addr s
  | .enqLman e area addr => Sys2Proof.Machine.execEnqLman e area addr s
  | .enqLmode e area addr => Sys2Proof.Machine.execEnqLmode e area addr s
  | .enqSrd e area addr => Sys2Proof.Machine.execEnqSrd e area addr s
  | .enqSrq e area addr => Sys2Proof.Machine.execEnqSrq e area addr s
  | .enqSrn e area addr => Sys2Proof.Machine.execEnqSrn e area addr s
  | .enqOrd e area addr => Sys2Proof.Machine.execEnqOrd e area addr s
  | .enqQget e area addr => Sys2Proof.Machine.execEnqQget e area addr s
  | .enqQput e area addr => Sys2Proof.Machine.execEnqQput e area addr s
  | .enqQend e area addr => Sys2Proof.Machine.execEnqQend e area addr s
  | .enqTime e area addr => Sys2Proof.Machine.execEnqTime e area addr s
  | .enqRrd e area addr => Sys2Proof.Machine.execEnqRrd e area addr s
  | .enqRwr e area addr => Sys2Proof.Machine.execEnqRwr e area addr s
  | .enqDlst e area addr => Sys2Proof.Machine.execEnqDlst e area addr s
  | .enqIllop e opcode area addr => Sys2Proof.Machine.execEnqIllop e opcode area addr s
  | .calendarReading => Sys2Proof.Machine.execCalendarReading s
  | .laneRepower lane => Sys2Proof.Machine.execLaneRepower lane s
  | .debugAccess lane op => Sys2Proof.Machine.execDebugAccess lane op s
  | .sessionClose session => Sys2Proof.Machine.execSessionClose session s
  | .ethernetFrameReceive port t f => Sys2Proof.Machine.execEthernetFrameReceive port t f s
  | .ethernetLinkChange port speed => Sys2Proof.Machine.execEthernetLinkChange port speed s
  | .sfpCageRetry link => Sys2Proof.Machine.execSfpCageRetry link s
  | .canReceiveTimeout port stn => Sys2Proof.Machine.execCanReceiveTimeout port stn s
  | .converterFaultUnlatch inp => Sys2Proof.Machine.execConverterFaultUnlatch inp s
  | .bankFault => Sys2Proof.Machine.execBankFault s
  | .ptpMessageInterval k => Sys2Proof.Machine.execPtpMessageInterval k s
  | .announceReceiptTimeout => Sys2Proof.Machine.execAnnounceReceiptTimeout s
  | .serverConnectionAccept conn svc port tls cert => Sys2Proof.Machine.execServerConnectionAccept conn svc port tls cert s
  | .iec104TimerExpiry conn timer => Sys2Proof.Machine.execIec104TimerExpiry conn timer s

end Sys2Proof.Machine
end

