-- ==== Sys2Proof/WellFormed.lean ====
section
/-! DEFINITION. Which operands a command of the environment can carry: a port, link, lane or register page that exists,
a payload of its length. The meanings are total on all operands; this check says which commands the spec knows. -/

namespace Sys2Proof

/-- Opcodes with a row in Table ENQ-5 (11_enesque_instructions.md). -/
def definedOpcodes : List Nat := [
  0x01, 0x02, 0x03, 0x04, 0x05, 0x06, 0x07, 0x08, 0x09, 0x0A, 0x0B, 0x0C, 0x0D, 0x0E, 0x10, 0x11, 0x12, 0x13,
  0x14, 0x15, 0x16, 0x20, 0x21, 0x22, 0x23, 0x24, 0x25, 0x26, 0x27, 0x28, 0x29, 0x2A, 0x2B, 0x2C, 0x2D, 0x2E,
  0x2F, 0x30, 0x31, 0x32, 0x33, 0x34, 0x35, 0x36, 0x37, 0x38, 0x39, 0x3A, 0x3B, 0x40, 0x41, 0x42, 0x43, 0x44,
  0x45, 0x46, 0x47, 0x48, 0x49, 0x4A, 0x4B, 0x4C, 0x4D, 0x4E, 0x4F, 0x50, 0x51, 0x52, 0x58, 0x60, 0x61, 0x62,
  0x63, 0x64, 0x65, 0x66, 0x67, 0x68, 0x70, 0x71, 0x72, 0x73, 0x74, 0x75, 0x76, 0x77, 0x78, 0x80, 0x81, 0x82,
  0x83, 0x84, 0x85, 0x86, 0x88, 0x89, 0x8A, 0x90, 0x91, 0x92, 0x94, 0x95, 0xA0, 0xA1, 0xA2, 0xB0, 0xB4, 0xB5,
  0xB8]

def pageOk (page : Nat) : Bool := decide (page < 256)
def sessionOk (x : Nat) : Bool := decide (x < 8)

/-- Port and fabric arrivals by source (01_architecture.md Table ARC-3, 21_field_ports.md Table PRT-1). -/
def portBodyOk (src : Nat) : PortBody → Bool
  | .unit stn _ => (decide (0x10 ≤ src) && decide (src ≤ 0x13) || decide (0x18 ≤ src) && decide (src ≤ 0x21)) && decide (stn < 65536)
  | .status (.eth speed) => decide (0x10 ≤ src) && decide (src ≤ 0x13) && decide (speed ≤ 2)
  | .status (.can state _ _ _ _ _ _) => decide (0x18 ≤ src) && decide (src ≤ 0x1B) && decide (state < 4)
  | .status (.mbus _ _ ibus) => decide (0x20 ≤ src) && decide (src ≤ 0x21) && decide (ibus < 65536)
  | .outcome stn code => decide (0x10 ≤ src) && decide (src ≤ 0x21) && decide (stn < 65536) && decide (1 ≤ code) && decide (code ≤ 4)
  | .adu _ svc _ => decide (0x10 ≤ src) && decide (src ≤ 0x13) && decide (1 ≤ svc) && decide (svc ≤ 3)
  | .fabFrame .. => decide (0x14 ≤ src) && decide (src ≤ 0x17)
  | .fabStatus .. => decide (0x14 ≤ src) && decide (src ≤ 0x17)
  | .fabStamp .. => decide (0x14 ≤ src) && decide (src ≤ 0x17)

/-- Table MET-2: 80 channels of 32 signed 24-bit samples, and 32 RTD words in the window of WNO mod 100 = 99 alone (R302). -/
def windowOk (w : MetWindow) : Bool :=
  decide (w.samples.length = 80)
    && w.samples.all (fun c => decide (c.length = 32) && c.all fun x => decide (-8388608 ≤ x) && decide (x < 8388608))
    && (w.rtd.all fun r => decide (r.length = 32)) && w.rtd.isSome == decide (w.wno.toNat % 100 = 99)

def reportOk (r : AssayReport) : Bool := decide (1 ≤ r.typ) && decide (r.typ ≤ 3) && decide (r.unit < 256)

def laneReportOk : LaneReport → Bool
  | .salt v => decide (v.length = 16)
  | .tsalt v => decide (v.length = 5)
  | .page session _ idx data => sessionOk session && decide (idx < 229376) && decide (data.length = 2048)
  | .verification .. => true
  | .assay r => reportOk r

def contentOk (src : Nat) : ArrContent → Bool
  | .met w => src == 0x03 && windowOk w
  | .lane r => src == 0x04 && laneReportOk r
  | .port b => portBodyOk src b

/-- Operands the spec gives the command. -/
def Instr.wellFormed : Instr → Bool
  | .frameStart m => decide (m.ai.length = 8)
  | .diEdge din _ _ => decide (din < 32)
  | .pulseInputCount n => decide (n < 16)
  | .arrivalComplete src _ c => contentOk src c
  | .pulseEnd n => decide (n < 16)
  | .telegramStationStale stn => decide (stn < 2048)
  | .queueStrandedTail q => decide (q < 64)
  | .adjacencyTimeout link => decide (link < 4)
  | .assayReport r => reportOk r
  | .clockFailure clk => decide (clk ≤ 19)
  | .engineTrap _ eng code _ => decide (eng < 8) && decide (1 ≤ code) && decide (code ≤ 3)
  | .watchdogExpiry _ eng => decide (eng < 8)
  | .lockWrite _ pg _ => pageOk pg
  | .ctrlSrst _ pg => pageOk pg
  | .irqfForce _ pg _ => pageOk pg
  | .errcRead session pg => sessionOk session && pageOk pg
  | .writeTransaction session _ _ entries _ => sessionOk session && decide (1 ≤ entries.length) && decide (entries.length ≤ 256)
  | .readTransaction session _ addrs => sessionOk session && decide (1 ≤ addrs.length) && decide (addrs.length ≤ 256)
  | .frameConsistentRead session _ addrs => sessionOk session && decide (1 ≤ addrs.length) && decide (addrs.length ≤ 256)
  | .subscribe session _ => sessionOk session
  | .keepalive session => sessionOk session
  | .sessionOpen session port _ => sessionOk session && decide (port ≤ 4)
  | .sessionIdleTimeout session => sessionOk session
  | .sessionProtocolError session => sessionOk session
  | .quenchImageWrite _ n _ => decide (n ≤ 8)
  | .calendarShadowFreeze reader => decide (reader < 16)
  | .calendarShadowRelease reader => decide (reader < 16)
  | .calendarShadowTimeout reader => decide (reader < 16)
  | .txTimestamp port ident _ => decide (port < 4) && decide (ident < 256)
  | .page session _ idx data => sessionOk session && decide (idx < 229376) && decide (data.length = 2048)
  | .asyKindBackground _ unit tlane => decide (unit < 256) && decide (tlane < 4)
  | .asyKindStartup _ unit tlane => decide (unit < 256) && decide (tlane < 4)
  | .asyKindInject _ unit tlane => decide (unit < 256) && decide (tlane < 4)
  | .linkStateChange link _ _ => decide (link < 4)
  | .fabricFrameReceive link _ _ => decide (link < 4)
  | .portRequestTimeout src stn => decide (0x10 ≤ src) && decide (src ≤ 0x21) && decide (stn < 65536)
  | .rs485AduEnd port _ _ => decide (port < 4)
  | .modbusConnect conn _ => decide (conn < 65536)
  | .canBusOff port => decide (port < 4)
  | .canRecover _ port => decide (port < 4)
  | .canRecoveryComplete port => decide (port < 4)
  | .autobaudRateSwitch port => decide (port < 4)
  | .autobaudLock port => decide (port < 4)
  | .mbusOvercurrent port ibus => decide (port < 2) && decide (ibus < 65536)
  | .mbusRepower port => decide (port < 2)
  | .mbusRestart _ port => decide (port < 2)
  | .railFault rail => decide (rail ≤ 3)
  | .backlightStringFault n _ => decide (n < 4)
  | .railWrite _ n _ => decide (n ≤ 3)
  | .enqIllop _ opcode _ _ => !definedOpcodes.contains opcode.toNat
  | .sessionClose session => sessionOk session
  | .ethernetFrameReceive port _ _ => decide (port < 4)
  | .ethernetLinkChange port speed => decide (port < 4) && decide (speed ≤ 2)
  | .sfpCageRetry link => decide (link < 4)
  | .canReceiveTimeout port stn => decide (port < 4) && decide (stn < 2048)
  | .serverConnectionAccept conn svc port _ _ => decide (conn < 65535) && (svc == 2 || svc == 3) && decide (port < 4)
  | .iec104TimerExpiry _ timer => decide (1 ≤ timer) && decide (timer ≤ 3)
  | .diArrivalClose | .inputFrameClose | .inputInstant .. | .solveComputationEnd .. | .dispatchComputationEnd .. => true
  | .boundaryExchangeResend .. | .epochStop .. | .decisionDeadline .. | .rtdStale | .summaryComplete => true
  | .lsaAgeOut | .precopyPassEnd .. | .transferTimeout | .outputFrameDelivery .. | .deadlineMiss .. => true
  | .compare | .touchstoneLoss | .applyInstant .. | .inputLost .. | .inputGood .. => true
  | .converterFault .. | .converterRetry .. | .pfail | .bankLow | .holdReady => true
  | .domainFault .. | .domainRepower .. | .uncorrectableError .. | .powerReturn | .startupPhaseEnd .. => true
  | .lampTestEnd | .laneReadyTimeout | .startFrame | .regWrite .. | .rstWarm .. => true
  | .rstCold .. | .rstpolWrite .. | .swap .. | .tdataWrite .. | .burnClr .. => true
  | .traceArm .. | .traceFire .. | .traceStop .. | .traceRoll .. | .prgRun .. => true
  | .prgStop .. | .prgHold .. | .fltack .. | .holdTimeout | .vvalWrite .. => true
  | .forceApply .. | .forceRelease .. | .forceReleaseAll .. | .forceTimeout | .flush .. => true
  | .flushall .. | .capWrite .. | .patinaSum .. | .calendarSet .. | .alarmWrite .. => true
  | .haltTimeout | .osf | .batlowTest .. | .backupSwitchToCell | .backupSwitchToVdd => true
  | .backupUnlock | .ptpMessage .. | .sampleTimeout | .holdoverTimeout | .lcmdProvision .. => true
  | .lcmdClaim .. | .lcmdDebugon .. | .lcmdDebugoff .. | .lcmdRetire .. | .kcmdDerive .. => true
  | .kcmdInvalidate .. | .kcmdStage .. | .kcmdVerify .. | .kcmdCommit .. | .kcmdAbort .. => true
  | .stagingExpiry | .att .. | .ucmdStart .. | .ucmdVerify .. | .ucmdPromote .. => true
  | .ucmdAbort .. | .verificationReport .. | .verificationTimeout | .promotionAbandon | .renderComplete => true
  | .verticalBlank | .refreshCrcCheck .. | .displayStale | .panelPowerUp | .panelPowerDown => true
  | .railRetry | .gcommit .. | .gdataWrite .. | .pnlRestart .. | .enqLd .. => true
  | .enqLdn .. | .enqAnd .. | .enqAndn .. | .enqOr .. | .enqOrn .. => true
  | .enqXor .. | .enqSt .. | .enqStn .. | .enqSet .. | .enqRst .. => true
  | .enqNot .. | .enqRe .. | .enqFe .. | .enqAndOpen .. | .enqOrOpen .. => true
  | .enqXorOpen .. | .enqAndnOpen .. | .enqCloseParen .. | .enqPushw .. | .enqPopw .. => true
  | .enqLdw .. | .enqStw .. | .enqLdhi .. | .enqLdb .. | .enqStb .. => true
  | .enqLdx .. | .enqStx .. | .enqAdx .. | .enqAdd .. | .enqSub .. => true
  | .enqMul .. | .enqDiv .. | .enqMod .. | .enqWand .. | .enqWor .. => true
  | .enqWxor .. | .enqShl .. | .enqShr .. | .enqSar .. | .enqNeg .. => true
  | .enqEq .. | .enqNe .. | .enqLt .. | .enqLe .. | .enqGt .. => true
  | .enqGe .. | .enqLtu .. | .enqGtu .. | .enqFadd .. | .enqFsub .. => true
  | .enqFmul .. | .enqFdiv .. | .enqFmin .. | .enqFmax .. | .enqFabs .. => true
  | .enqFneg .. | .enqFsqrt .. | .enqFlim .. | .enqFeq .. | .enqFlt .. => true
  | .enqFle .. | .enqFgt .. | .enqFge .. | .enqFfun .. | .enqI2f .. => true
  | .enqF2i .. | .enqU2f .. | .enqSel .. | .enqJmp .. | .enqJmpc .. => true
  | .enqJmpn .. | .enqCall .. | .enqCallc .. | .enqRet .. | .enqEnd .. => true
  | .enqNop .. | .enqEvt .. | .enqTon .. | .enqTof .. | .enqTp .. => true
  | .enqTpt .. | .enqCtu .. | .enqCtd .. | .enqCld .. | .enqCrst .. => true
  | .enqCpv .. | .enqLpv .. | .enqLsp .. | .enqLeLoop .. | .enqLuc .. => true
  | .enqLud .. | .enqLi .. | .enqLst .. | .enqLpsp .. | .enqLman .. => true
  | .enqLmode .. | .enqSrd .. | .enqSrq .. | .enqSrn .. | .enqOrd .. => true
  | .enqQget .. | .enqQput .. | .enqQend .. | .enqTime .. | .enqRrd .. => true
  | .enqRwr .. | .enqDlst .. | .calendarReading | .laneRepower .. | .debugAccess .. => true
  | .converterFaultUnlatch .. | .bankFault | .ptpMessageInterval .. | .announceReceiptTimeout => true

end Sys2Proof
end

