-- ==== Sys2Proof/Safety.lean ====
section
/-! DEFINITION. What claims say of steps and of what a command leaves as it was: completion, runs, the frame of a
command, an instruction in a running task, and a write that the access checks let through. -/

namespace Sys2Proof.Machine

/-! ### Steps -/

/-- The step answers a next state, which is `t`. -/
def Completes (s t : State) : Prop := step s = .next t

/-- `t` is reached from `s` by steps. -/
inductive Reaches : State → State → Prop where
  | here (s : State) : Reaches s s
  | more {s t u : State} : Reaches s t → Completes t u → Reaches s u

/-! ### Frames: what a command leaves as it was -/

/-- Nothing but the lanes differs. -/
def LanesOnly (s t : State) : Prop := t = { s with laneA := t.laneA, laneB := t.laneB }

/-- Nothing but the hub differs. -/
def HubOnly (s t : State) : Prop := t = { s with hub := t.hub }

/-- Nothing but the lanes and the hub differs. -/
def LanesAndHub (s t : State) : Prop := t = { s with laneA := t.laneA, laneB := t.laneB, hub := t.hub }

/-- Every register of the lane but those at the keys `ks` reads as before. -/
def RegsBut (ks : List Nat) (l m : Lane) : Prop := ∀ k, k ∉ ks → m.reg k = l.reg k

/-! ### An Enesque instruction in a running task (11_enesque_instructions.md R264) -/

def exeNo : Exec45 → Nat
  | .e4 => 4
  | .e5 => 5

/-- Task `n` is the one that executes on executor `e` of lane `x`. -/
structure Executes (s : State) (x : LaneId) (e : Exec45) (n : Nat) : Prop where
  runs : (s.lane x).running = true
  engine : (s.lane x).engineRuns (exeNo e) = true
  task : ((s.lane x).exe (exeNo e)).cur = some n
  known : n < (s.lane x).prg.tasks.length
  mode : (s.lane x).prg.mode = .run
  sound : ((s.lane x).exe (exeNo e)).faulted = false

/-- Where an instruction that is given by itself executes. -/
def enqEnv (s : State) (e : Exec45) (n : Nat) : EnqEnv :=
  { hub := s.hub, nv := s.nv, exe := exeNo e, task := n, stage := .cmd }

/-- The context of the task before the instruction. -/
def State.ctxOf (s : State) (x : LaneId) (n : Nat) : EnqCtx := (s.lane x).enqCtx n

/-- The lane with PC past the instruction. -/
def State.pcOn (s : State) (x : LaneId) (n : Nat) : Lane := (s.lane x).modCtx n fun c => { c with pc := c.pc + 1 }

/-- Lane `l` with `cost` counted cycles; where they take a feed section beyond WCFEED, the instruction has changed
nothing and the program has faulted with 0x41 (10_cyclic_programs.md R242). -/
def State.charged (s : State) (x : LaneId) (e : Exec45) (n cost : Nat) (l : Lane) : Lane :=
  let m := l.charge (exeNo e) n cost
  if ((s.lane x).task n).ph = .feed ∧ ((s.lane x).task n).cfg.wcfeed < (m.task n).feedCyc then
    (s.lane x).prgFault (exeNo e) n 0x41 (s.ctxOf x n).pc
  else m

/-- The command completes: lane `x` is `l` with `cost` counted cycles, and nothing outside the lanes differs. -/
def EnqGives (c : Instr) (s : State) (x : LaneId) (e : Exec45) (n cost : Nat) (l : Lane) : Prop :=
  ∃ t, exec c s = .next t ∧ t.lane x = s.charged x e n cost l ∧ LanesOnly s t

/-- The command completes and changes nothing of lane `x` but the context of the task, which becomes `f` of the
context with PC past the instruction, and the counts of cycles. -/
def EnqSets (c : Instr) (s : State) (x : LaneId) (e : Exec45) (n cost : Nat) (f : EnqCtx → EnqCtx) : Prop :=
  EnqGives c s x e n cost ((s.pcOn x n).modCtx n f)

/-- The command completes with the program fault `code`, the instruction having changed nothing. -/
def EnqFaults (c : Instr) (s : State) (x : LaneId) (e : Exec45) (n code : Nat) : Prop :=
  ∃ t, exec c s = .next t ∧ t.lane x = (s.lane x).prgFault (exeNo e) n code (s.ctxOf x n).pc ∧ LanesOnly s t

/-! ### A write of a register (02_register_pages.md R47, R48, R49, R51, 17_security.md R403) -/

/-- An external write of `w` at byte offset `key` passes every check that belongs to no block: the session may write the
register, a locked register was opened before, no writable field refuses its part and no reserved bit is set. -/
structure Accepts (l : Lane) (role : SessRole) (key : Nat) (w : Word) : Prop where
  right : l.mayWrite role (key / 0x1000) (key % 0x1000) w = true
  opened : ((fieldsAt (key / 0x1000) (key % 0x1000)).any fun f => f.acc == .rwl) = true → key / 0x1000 ∈ l.opened
  range : ((fieldsAt (key / 0x1000) (key % 0x1000)).any fun f => f.acc.writable && !f.takes w) = false
  clean : reservedSet (key / 0x1000) (key % 0x1000) w = false

/-- The command completes: lane `x` becomes `l`, and nothing outside the lanes differs. -/
def RegGives (c : Instr) (s : State) (x : LaneId) (l : Lane) : Prop :=
  ∃ t, exec c s = .next t ∧ t.lane x = l ∧ LanesOnly s t

/-- The command writes `w` at `key`: given by any session whose write the checks let through, it completes with lane `x`
as `f` makes it of the lane whose page the write has closed (R47). -/
def WriteGives (c : Origin → Instr) (key : Nat) (w : Lane → Word) (s : State) (x : LaneId) (f : Lane → Lane) : Prop :=
  ∀ role, (s.lane x).running = true → Accepts (s.lane x) role key (w (s.lane x)) →
    RegGives (c (.external role)) s x (f ((s.lane x).closeLock (key / 0x1000)))

/-- As `WriteGives`, for an operation that passes ERRC: every register reads as `f` gives it. -/
def WriteRuns (c : Origin → Instr) (key : Nat) (w : Lane → Word) (s : State) (x : LaneId) (f : Lane → Lane) : Prop :=
  ∀ role, (s.lane x).running = true → Accepts (s.lane x) role key (w (s.lane x)) →
    ∃ t l, exec (c (.external role)) s = .next t ∧ LanesOnly s t ∧ l = f ((s.lane x).closeLock (key / 0x1000)) ∧
      t.lane x = { l with regs := (t.lane x).regs } ∧ RegsBut [] l (t.lane x)

end Sys2Proof.Machine
end

