-- ==== Sys2Proof/Certificates/Slice0/Obligations.lean ====
section
/-! DEFINITION. The statements for the provers, from the numbered rules of the spec. A docstring names the rules; what a
statement says of a value or behaviour the model chose, it says by the number of its log entry. -/

open Sys2Proof Sys2Proof.Machine

/-! ### The block -/

/-- A step with command `c` in front of its queue is `exec c` on the state with the queue's rest. -/
def Obligations.StepRunsFrontCommand : Prop :=
  ∀ (c : Instr) (rest : List Instr) (s : State), step { s with pending := c :: rest } = exec c { s with pending := rest }

/-- 00_scope.md R3, 03_power_clocks_start.md R60, 05_touchstone.md R118: right after reset no supply holds VBUS, no lane
runs, the outputs stand in the hardware-off state and the queue is empty. Registers whose reset value the spec does not
give stand as assumption log 1 says. -/
def Obligations.ResetIsUnpowered : Prop :=
  State.reset.pwr.off = true ∧ State.reset.laneA.running = false ∧ State.reset.laneB.running = false ∧
  State.reset.hub.running = false ∧ State.reset.hub.outs.hwoff = true ∧ State.reset.hub.outs.dout = 0 ∧
  State.reset.startup = none ∧ State.reset.pending = [] ∧ State.reset.nv.mram = [] ∧ State.reset.nv.nand = [] ∧
  ∀ (x : LaneId) (k : Nat), (State.reset.lane x).reg k = resetWord k

/-- The non-volatile memory of the state after reset stands in canonical form. -/
def Obligations.ResetStoreIsCanonical : Prop := State.reset.nv.wf

/-- The memory of the NV store keeps its canonical form in every step: addresses rise, and no cell is listed that reads as
an unlisted one. -/
def Obligations.StepKeepsStoreCanonical : Prop :=
  ∀ s t : State, s.nv.wf → step s = .next t → t.nv.wf

/-- 01_architecture.md R33, 17_security.md R396, 14_nv_store.md R324, R340: the contents of the non-volatile memories change
only at an apply instant, which executes the requests of the driven frame, where the boot ROM offers recovery, and after
an apply instant in the pages that this frame writes, where the sequence is cut off or does not count as executed. -/
def Obligations.StoreChangesOnlyAtApply : Prop :=
  ∀ (c : Instr) (s t : State), exec c s = .next t → t.nv.mram ≠ s.nv.mram ∨ t.nv.nand ≠ s.nv.nand →
    (∃ ok, c = .applyInstant ok) ∨ (s.recovery = true ∧ ((∃ x tag i b, c = .page x tag i b) ∨ ∃ o, c = .ucmdPromote o)) ∨
    (s.hub.applied = true ∧ t.nv.nand = s.nv.nand ∧ ∀ n, (∀ p ∈ s.nv.seq, p.1 ≠ n) → t.nv.page n = s.nv.page n)

/-- No command touches the queue of the commands that wait. -/
def Obligations.CommandsLeaveQueueAlone : Prop :=
  ∀ (c : Instr) (s t : State), exec c s = .next t → t.pending = s.pending

/-- 02_register_pages.md R46: in one frame an event that sets an IRQS bit prevails over a W1C write of that bit, whichever
comes first. -/
def Obligations.EventPrevailsOverClear : Prop :=
  ∀ (l : Lane) (page b : Nat) (w : Word), b < 32 → page < 256 →
    (((l.irqBit page b).writeHeader page 0x010 w).1.reg (page * 0x1000 + 0x010)).getLsbD b = true ∧
    (((l.writeHeader page 0x010 w).1.irqBit page b).reg (page * 0x1000 + 0x010)).getLsbD b = true

/-! ### Writes of registers (02_register_pages.md) -/

/-- R44, R49, R51, R403: a write that a session may make to a register whose write is no operation of its block, given
as REG_WRITE: every RW, RWS and RWL field takes its part of the value, a W1C field loses the bits written 1, every other
register reads as before, and nothing else of the lane changes but the page's opening (R47). Outside the pages listed,
no write but that of an engine's MAXBUSY is such an operation. -/
def Obligations.RegisterWriteStoresFields : Prop :=
  ∀ (s : State) (x : LaneId) (role : SessRole) (a w : Word),
    let page := addrKey a / 0x1000
    let off := addrKey a % 0x1000
    let l := (s.lane x).closeLock page
    (page ∉ [0x00, 0x02, 0x05, 0x11, 0x13, 0x19, 0x1A, 0x1B, 0x1C, 0x1D, 0x1E, 0x23, 0x24, 0x29, 0x2A, 0x2B, 0x2C, 0x2D, 0x30,
        0x31, 0x34, 0x3C, 0x44, 0x45, 0x46, 0x47, 0x4C, 0x4D, 0x51] →
      ¬(0x08 ≤ page ∧ page ≤ 0x0F ∧ off = 0x05C) → l.writeOp s.hub true [] page off w = none) ∧
    ((s.lane x).running = true → addrStatus a = 0 → 0x040 ≤ off → l.writeOp s.hub true [] page off w = none →
      Accepts (s.lane x) role (addrKey a) w → ((fieldsAt page off).any fun f => f.acc.writable) = true →
      ∃ t, exec (.regWrite (.external role) a w) s = .next t ∧ LanesOnly s t ∧
        t.lane x = { l with regs := (t.lane x).regs } ∧
        RegsBut [addrKey a] (s.lane x) (t.lane x) ∧
        ∀ f ∈ fieldsAt page off,
          bits ((t.lane x).reg (addrKey a)) f.hi f.lo =
            if f.acc = .rw ∨ f.acc = .rws ∨ f.acc = .rwl then bits w f.hi f.lo
            else if f.acc = .w1c then
              bits ((s.lane x).reg (addrKey a)) f.hi f.lo - (bits ((s.lane x).reg (addrKey a)) f.hi f.lo &&& bits w f.hi f.lo)
            else if f.acc = .w1s then bits ((s.lane x).reg (addrKey a)) f.hi f.lo ||| bits w f.hi f.lo
            else bits ((s.lane x).reg (addrKey a)) f.hi f.lo)

/-- R44 to R47, R59, the header of an assigned page, written by a session that may: LOCK opens the page where the key fits
and posts BADKEY where it does not; IRQF sets the defined bits of IRQS; IRQE takes the value; of both, a request that
rises is noted (R45); IRQS loses the bits written 1 that this frame has not set; CTRL.SRST, written beside EN as it stands,
leaves EN. On a page without SRST it posts NOTSUP and changes nothing else; on a page whose chapter says that it resets
certain fields only (R39), it gives them their reset values and leaves every other register of the header and outside the
page; on the others it clears IRQE and leaves ERRC clear or with ABORTED. That undefined bits of IRQF are ignored is the
model's choice (assumption log 92). -/
def Obligations.HeaderRegistersTakeWrites : Prop :=
  ∀ (s : State) (x : LaneId) (role : SessRole) (page : Nat) (v : Word),
    (s.lane x).running = true → (pageRow page).isSome = true → page < 256 →
      let l := (s.lane x).closeLock page
      let k := page * 0x1000
      let bit (b : Nat) : Bool := ((2 ^ 32 - 1 - reservedMask page 0x010) ||| 1).testBit b
      let risen (now : Word) : List Nat := if l.irqLine page = 0 ∧ now ≠ 0 ∧ page ∉ l.rose then l.rose ++ [page] else l.rose
      (l.mayWrite role page 0x020 v = true → v.toNat < 0x20000 →
        (v.toNat % 65536 = (l.reg k).toNat % 65536 →
          RegGives (.lockWrite (.external role) page v) s x { l with opened := page :: l.opened }) ∧
        (v.toNat % 65536 ≠ (l.reg k).toNat % 65536 →
          RegGives (.lockWrite (.external role) page v) s x (l.post (page * 256 + 0x05)))) ∧
      (l.mayWrite role page 0x018 v = true →
        ∃ t, exec (.irqfForce (.external role) page v) s = .next t ∧ LanesOnly s t ∧
          t.lane x = { l with regs := (t.lane x).regs, irqSet := (t.lane x).irqSet, rose := risen ((t.lane x).irqLine page) } ∧
          RegsBut [k + 0x010] l (t.lane x) ∧
          ∀ b < 32, ((t.lane x).reg (k + 0x010)).getLsbD b = ((l.reg (k + 0x010)).getLsbD b || (v.getLsbD b && bit b))) ∧
      (l.mayWrite role page 0x014 v = true →
        RegGives (.regWrite (.external role) (.ofNat 32 (0x40000000 + k + 0x014)) v) s x
          { l.setReg (k + 0x014) v with rose := risen (l.reg (k + 0x010) &&& v) }) ∧
      (l.mayWrite role page 0x010 v = true → (∀ b < 32, v.getLsbD b = true → bit b = true) →
        RegGives (.regWrite (.external role) (.ofNat 32 (0x40000000 + k + 0x010)) v) s x
          (l.setReg (k + 0x010) (l.reg (k + 0x010) &&& ~~~(v &&& ~~~(kvGet 0 l.irqSet page))))) ∧
      (l.mayWrite role page 0x008 (if (l.reg (k + 0x008)).getLsbD 0 then 3 else 2) = true →
        (noSrst page = true → RegGives (.ctrlSrst (.external role) page) s x (l.post (page * 256 + 0x0A))) ∧
        (∀ fs, srstOnly page = some fs →
          ∃ t, exec (.ctrlSrst (.external role) page) s = .next t ∧ LanesOnly s t ∧ (t.lane x).enabled page = l.enabled page ∧
            t.lane x = { l with regs := (t.lane x).regs, busyFrom := (t.lane x).busyFrom } ∧
            (∀ key, key / 0x1000 ≠ page ∨ (key % 0x1000 < 0x040 ∧ key % 0x1000 ≠ 0x008) → (t.lane x).reg key = l.reg key) ∧
            ∀ f ∈ fs, ∀ i < f.cnt, bits ((t.lane x).reg (k + f.off + i * f.stride)) f.hi f.lo = f.reset) ∧
        (noSrst page = false → srstOnly page = none →
          ∃ t, exec (.ctrlSrst (.external role) page) s = .next t ∧ LanesOnly s t ∧ (t.lane x).enabled page = l.enabled page ∧
            (t.lane x).reg (k + 0x014) = 0 ∧
            ((t.lane x).reg (k + 0x01C) = 0 ∨ (t.lane x).reg (k + 0x01C) = .ofNat 32 (page * 256 + 0x0B))))

/-- R50: what a register reads as does not depend on the held values; a write by an engine to an RWS register is held, and
every register of the lane still reads as before. -/
def Obligations.HeldWriteLeavesValueInEffect : Prop :=
  (∀ (h : Hub) (nv : NvStore) (l : Lane) (hs : List HeldWrite) (k : Nat), readKey h nv { l with held := hs } k = readKey h nv l k) ∧
  ∀ (s : State) (x : LaneId) (n : Fin 8) (a w : Word),
    (s.lane x).running = true → addrStatus a = 0 →
    let page := addrKey a / 0x1000
    let off := addrKey a % 0x1000
    ((fieldsAt page off).any fun f => f.acc == .rws) = true →
    ((fieldsAt page off).any fun f => f.acc.writable && !f.takes w) = false → reservedSet page off w = false →
    ¬(page = 0x2C ∧ off = 0x048) → ¬(page = 0x2D ∧ off = 0x044) → ¬(page = 0x1D ∧ off ≠ 0x044) →
    ¬(page = 0x29 ∧ off = 0x054 ∧ w.getLsbD 0 = true) →
      ∃ t, exec (.regWrite (.engine n) a w) s = .next t ∧ LanesOnly s t ∧
        (∃ h : HeldWrite, h.eng = n.val ∧ h.addr = a ∧ h.value = w ∧ h.fno = s.hub.fno ∧
          t.lane x = { s.lane x with held := (s.lane x).held ++ [h] }) ∧
        ∀ k, readKey s.hub s.nv (t.lane x) k = readKey s.hub s.nv (s.lane x) k

/-- R47, R48, R403: a write without the right posts DENIED, a write to an RWL register of a closed page posts LOCKED, and
neither changes anything else but the page's opening. -/
def Obligations.RefusedWritesChangeNothing : Prop :=
  ∀ (s : State) (x : LaneId) (role : SessRole) (a w : Word),
    (s.lane x).running = true → addrStatus a = 0 →
      let page := addrKey a / 0x1000
      let off := addrKey a % 0x1000
      let l := (s.lane x).closeLock page
      ((s.lane x).mayWrite role page off w = false →
        RegGives (.regWrite (.external role) a w) s x (l.post (page * 256 + 0x0D))) ∧
      ((s.lane x).mayWrite role page off w = true → 0x040 ≤ off → ((fieldsAt page off).any fun f => f.acc == .rwl) = true →
        page ∉ (s.lane x).opened → RegGives (.regWrite (.external role) a w) s x (l.post (page * 256 + 0x04)))

/-- 03_power_clocks_start.md R84, R85: RST.KIND asks for a warm restart with TRIG 3 or a cold one with TRIG 4, where none
is asked for and the module is not in reduced mode; RSTPOL and, 05_touchstone.md R138, the quench image are stored and
placed as records of the SYSTEM partition. -/
def Obligations.RestartAndQuenchWrites : Prop :=
  ∀ (s : State) (x : LaneId),
    ((s.lane x).restart = none → (s.lane x).reduced = false →
      WriteGives .rstWarm 0x05040 (fun _ => 1) s x (fun l =>
        { l.store 0x05 0x040 1 with restart := some { cold := false, trig := 3, reason := 0 } }) ∧
      WriteGives .rstCold 0x05040 (fun _ => 2) s x (fun l =>
        { l.store 0x05 0x040 2 with restart := some { cold := true, trig := 4, reason := 0 } })) ∧
    (∀ v : Word, WriteGives (fun o => .rstpolWrite o v) 0x00060 (fun _ => v) s x (fun l =>
      let m := l.store 0x00 0x060 v
      m.nvPut 0 4 m.policyRecord)) ∧
    (∀ v : Word, WriteGives (fun o => .quenchImageWrite o 0 v) 0x24048 (fun _ => v) s x (fun l =>
      let m := l.store 0x24 0x048 v
      m.nvPut 0 2 m.pioRecord)) ∧
    ∀ (n : Nat) (v : Word), 1 ≤ n → n ≤ 8 →
      let off := 0x05C + 4 * ((n - 1) / 2)
      let w (l : Lane) : Word := if n % 2 = 0 then withBits (l.reg (0x24000 + off)) 31 16 v.toNat else withBits (l.reg (0x24000 + off)) 15 0 v.toNat
      WriteGives (fun o => .quenchImageWrite o n v) (0x24000 + off) w s x (fun l =>
        let m := l.store 0x24 off (w l)
        m.nvPut 0 2 m.pioRecord)

/-- 05_touchstone.md R125: TST.SWAP becomes 1 where the lanes are compared and no swap is pending, and reports BUSY or
0x0241 else; 08_dispatch_optimiser.md R210: TDATA stores at TKIND and TIDX and steps TIDX; 09_control_loops.md R232:
CLR clears the memory of the Burnish branches named. -/
def Obligations.SwapTargetsAndBurnish : Prop :=
  ∀ (s : State) (x : LaneId) (v : Word),
    ((s.lane x).on R.TST.SWAP = false → (s.lane x).compared = true →
      WriteGives .swap 0x0204C (fun _ => 1) s x (fun l => l.put R.TST.SWAP 1)) ∧
    ((s.lane x).on R.TST.SWAP = true → WriteGives .swap 0x0204C (fun _ => 1) s x (fun l => l.post 0x0208)) ∧
    ((s.lane x).on R.TST.SWAP = false → (s.lane x).compared = false →
      WriteGives .swap 0x0204C (fun _ => 1) s x (fun l => l.post 0x0241)) ∧
    (let k := (s.lane x).get R.OPT.TKIND
      let i := (s.lane x).get R.OPT.TIDX
      WriteGives (fun o => .tdataWrite o v) 0x13080 (fun _ => v) s x (fun l =>
        ({ l with opt := { l.opt with tables := l.opt.tabs.modify k fun t => t.set i v } }).put R.OPT.TIDX
          (if i = 191 then 0 else i + 1))) ∧
    ∀ b, (s.lane x).enabled 0x1A = true → (s.lane x).enabled 0x18 = true → ((s.lane x).loop ((s.lane x).get R.BURN.BSEL)).burn = some b →
      WriteGives (fun o => .burnClr o v) 0x1A074 (fun _ => v) s x (fun l =>
        l.setBurn (l.get R.BURN.BSEL) { b with memA := if v.getLsbD 0 then [] else b.memA, memB := if v.getLsbD 1 then [] else b.memB })

/-- 09_control_loops.md R212, R234, 19_queues.md R431, R424: with LOOP and TRC enabled, ARM and ROLL clear the trace and
start it where none records, and report BUSY else; FIRE marks a trace that waits for its trigger; STOP marks one that
records and ends a rolling one at once; FLUSH and FLUSHALL empty queues with the words counted and the writer's item
orphaned; CAP sets the capacity of an empty queue: the free space follows at the next snapshot, but a capacity of 0
makes the queue full at once. -/
def Obligations.TraceAndQueueCommands : Prop :=
  ∀ (s : State) (x : LaneId) (v : Word),
    let q := (s.lane x).get R.QMG.QSEL
    ((s.lane x).enabled 0x1B = true → (s.lane x).enabled 0x18 = true →
      ((s.lane x).trcRecording = false →
        WriteRuns .traceArm 0x1B044 (fun _ => 1) s x (fun l =>
          l.clearTrc.toTrc (if l.get R.TRC.PRE = 0 then .armed else .fill)) ∧
        WriteRuns .traceRoll 0x1B044 (fun _ => 8) s x (fun l => l.clearTrc.toTrc .roll)) ∧
      ((s.lane x).trcState = 1 ∨ (s.lane x).trcState = 2 →
        WriteGives .traceFire 0x1B044 (fun _ => 2) s x (fun l => { l with trc := { l.trc with fire := true } })) ∧
      ((s.lane x).trcRecording = true →
        WriteRuns .traceArm 0x1B044 (fun _ => 1) s x (fun l => l.post 0x1B08) ∧
        WriteRuns .traceRoll 0x1B044 (fun _ => 8) s x (fun l => l.post 0x1B08)) ∧
      ((s.lane x).trcRecording = true → (s.lane x).trcState ≠ 5 →
        WriteGives .traceStop 0x1B044 (fun _ => 4) s x (fun l => { l with trc := { l.trc with stop := true } })) ∧
      ((s.lane x).trcState = 5 →
        WriteGives .traceStop 0x1B044 (fun _ => 4) s x (fun l => (l.put R.TRC.TPOS 0x1FFFF).toTrc .done))) ∧
    ((s.lane x).enabled 0x34 = true →
      (8 ≤ q → q ≤ 55 →
        WriteRuns .flush 0x34078 (fun _ => 1) s x (fun l => { l with queues := l.queues.set q (l.queue q).flush })) ∧
      ∀ role, (s.lane x).running = true → Accepts (s.lane x) role 0x34078 2 →
        ∃ t, exec (.flushall (.external role)) s = .next t ∧ LanesOnly s t ∧
          t.lane x = { (s.lane x).closeLock 0x34 with queues := (t.lane x).queues } ∧
          ∀ k, (t.lane x).queue k = if 8 ≤ k ∧ k ≤ 55 then ((s.lane x).queue k).flush else (s.lane x).queue k) ∧
    (8 ≤ q → q ≤ 55 → bits v 14 0 ≠ 1 → bits v 14 0 ≤ 16384 → ((s.lane x).queue q).held = 0 → ((s.lane x).queue q).items = [] →
      (((s.lane x).queues.drop 8).take 48).foldl (fun n u => n + u.cap) 0 - ((s.lane x).queue q).cap + bits v 14 0 ≤ 49152 →
        (bits v 14 0 ≠ 0 → WriteGives (fun o => .capWrite o v) 0x3404C (fun _ => v) s x (fun l =>
          { l with queues := l.queues.set q { l.queue q with cap := bits v 14 0 } })) ∧
        (bits v 14 0 = 0 → WriteGives (fun o => .capWrite o v) 0x3404C (fun _ => v) s x (fun l =>
          let m : Lane := { l with queues := l.queues.set q { l.queue q with cap := 0, free := 0, full := true } }
          if (l.queue q).full then m else m.irq R.QMG.I_FULL)))

/-- 10_cyclic_programs.md R248, Table PRG-6: RUN enters RUN from STOP with a program and no fault, and from HOLD; STOP
abandons the cycles; HOLD is entered with HOLDEN; FLTACK clears FAULT in STOP. -/
def Obligations.ProgramModeCommands : Prop :=
  ∀ (s : State) (x : LaneId), (s.lane x).enabled 0x1C = true →
    ((s.lane x).prg.mode = .stop → (s.lane x).on R.PRG.FAULT = false → (s.lane x).on R.PRG.PRESENT = true →
      WriteRuns .prgRun 0x1C044 (fun _ => 1) s x (fun l => l.enterRun 3)) ∧
    ((s.lane x).prg.mode = .hold → WriteRuns .prgRun 0x1C044 (fun _ => 1) s x (fun l => l.enterRun 3)) ∧
    ((s.lane x).prg.mode ≠ .stop → WriteRuns .prgStop 0x1C044 (fun _ => 2) s x (fun l => l.prgToStop)) ∧
    ((s.lane x).prg.mode = .run → (s.lane x).on R.PRG.HOLDEN = true ∨ (s.lane x).lifeCycle = 3 →
      WriteRuns .prgHold 0x1C044 (fun _ => 3) s x (fun l =>
        let m := l.setPrgMode .hold
        { m with prg := { m.prg with heldFor := 0 } })) ∧
    ((s.lane x).prg.mode = .stop → WriteRuns .fltack 0x1C048 (fun _ => 1) s x (fun l => l.put R.PRG.FAULT 0))

/-- 10_cyclic_programs.md R251, R253: a write of VVAL stores in the variable or constant area of the executor selected,
with an overlay entry for a constant; FCMD applies, releases or releases all entries of the force table. -/
def Obligations.VariableWritesAndForces : Prop :=
  ∀ (s : State) (x : LaneId) (v : Word),
    let sel := ((s.lane x).reg 0x1C09C).toNat
    let n := 2 ^ (sel / 2 ^ 22 % 4)
    let exe := 4 + sel / 2 ^ 21 % 2
    let off := sel % 2 ^ 20
    let e := (s.lane x).exe exe
    let entry : Overlay := ⟨exe, sel / 2 ^ 22 % 4, off⟩
    ((s.lane x).enabled 0x1C = true → off % n = 0 → v.toNat < 2 ^ (8 * n) →
      (sel / 2 ^ 24 % 2 = 0 → off + n ≤ e.decl.vsize →
        WriteGives (fun o => .vvalWrite o v) 0x1C0A0 (fun _ => v) s x (fun l =>
          ((l.setExe exe { e with vars := writeArea e.vars off n v.toNat }).inc R.PRG.ONLCNT).irq R.PRG.I_ONLCHG)) ∧
      (sel / 2 ^ 24 % 2 = 1 → off + n ≤ e.decl.ksize → entry ∈ (s.lane x).prg.overlay ∨ (s.lane x).retainLen + 12 ≤ 196608 →
        WriteGives (fun o => .vvalWrite o v) 0x1C0A0 (fun _ => v) s x (fun l =>
          let m := l.setExe exe { e with konst := writeArea e.konst off n v.toNat }
          (({ m with prg := { m.prg with
              overlay := if entry ∈ m.prg.overlay then m.prg.overlay else m.prg.overlay ++ [entry] } }).inc R.PRG.ONLCNT).irq R.PRG.I_ONLCHG))) ∧
    ((s.lane x).enabled 0x1D = true → (s.lane x).forcePermitted = true →
      let fs := (s.lane x).prg.forces
      let i := (s.lane x).get R.FRC.FSEL
      let f : Force := ⟨(s.lane x).get R.FRC.FKIND, (s.lane x).get R.FRC.FBIT, (s.lane x).get R.FRC.FADDR,
        (s.lane x).getW R.FRC.FVAL, (s.lane x).fno⟩
      (f.kind ≠ 0 → (s.lane x).forceTargetOk f = true →
        (∀ p ∈ fs, p.1 = i ∨ (p.2.sameTarget f = false ∧
          ¬(p.2.addr = f.addr ∧ (p.2.kind = 1 ∧ f.kind = 2 ∨ p.2.kind = 2 ∧ f.kind = 1)))) →
        (∀ p ∈ fs, p.1 = i → p.2.sameTarget f = true) →
          WriteGives .forceApply 0x1D054 (fun _ => 1) s x (fun l => l.forceChanged (kvInsert fs i f) 1)) ∧
      ((∃ p ∈ fs, p.1 = i) →
        WriteGives .forceRelease 0x1D054 (fun _ => 2) s x (fun l => l.forceChanged (kvErase fs i) 1)) ∧
      WriteGives .forceReleaseAll 0x1D054 (fun _ => 3) s x (fun l => l.forceChanged [] fs.length))

/-- 15_patina_recorder.md R352: SUM asks for a summary of the selected partition; 16_time.md R359, R363: SET places a
set of the calendar to a value that is a time, in place of one placed before in the frame; a write of ALMCFG or ALMDAY rearms the alarm from CALSEC. That
CALENDAR_SET places the set at once is the model's choice (assumption log 38). -/
def Obligations.SummaryCalendarAndAlarms : Prop :=
  ∀ (s : State) (x : LaneId) (v : Word),
    (∀ i, i = bits (((s.lane x).reg 0x29054 &&& 0xE) ||| 1) 3 1 →
      (s.lane x).enabled 0x29 = true → (s.lane x).lifeCycle ≠ 0 → ((s.lane x).pat.part i).size ≠ 0 → (s.lane x).pat.summary = none →
        ∀ role, (s.lane x).running = true → Accepts (s.lane x) role 0x29054 (((s.lane x).reg 0x29054 &&& 0xE) ||| 1) →
          ∃ t q, exec (.patinaSum (.external role)) s = .next t ∧ LanesOnly s t ∧ (t.lane x).pat.summary = some q ∧
            q.part = i ∧ q.reqFno = (s.lane x).fno ∧
            t.lane x = { (s.lane x).closeLock 0x29 with regs := (t.lane x).regs, pat := { (s.lane x).pat with summary := some q } } ∧
            RegsBut [0x29054] (s.lane x) (t.lane x)) ∧
    (∀ sec, (s.lane x).enabled 0x30 = true → (s.lane x).time.setReq = none →
      setValue ((s.lane x).getW R.RTC.SETW0) ((s.lane x).getW R.RTC.SETW1) = some sec →
        WriteGives .calendarSet 0x30058 (fun _ => 1) s x (fun l =>
          (({ l with out := l.out.filter fun y => !y.isSet } : Lane).placeCal (.set sec)).put R.RTC.SETPEND 1)) ∧
    (∀ i a now, i = (s.lane x).get R.RTC.ASEL → a = (s.lane x).time.alarms.getD i {} → now = (s.lane x).get R.RTC.CALSEC →
      (almCfgOk v = true →
        WriteGives (fun o => .alarmWrite o false v) 0x30068 (fun _ => v) s x (fun l =>
          { l with time := { l.time with alarms := l.time.alarms.set i (({ a with cfg := v &&& 0xFFFFFFC0 } : Alarm).arm now) } })) ∧
      (almDayOk (a.cfg.getLsbD 6) v = true →
        WriteGives (fun o => .alarmWrite o true v) 0x3006C (fun _ => v) s x (fun l =>
          { l with time := { l.time with alarms := l.time.alarms.set i (({ a with day := v &&& 0xFFFF } : Alarm).arm now) } })))

/-- 17_security.md R376, Table SEC-2: from its state, with no replacement, staging or command in progress, each
life-cycle command places the record of the new state, CLAIM where BLOB holds a point of the curve (0x2C46 else),
DEBUGON and RETIRE where the token verifies with the owner key (0x2C45 else, or the refusal of that key's use), the use
counted; CLAIM and DEBUGOFF in another state are refused with 0x2C46.
The byte order in the derivation of the secret is the model's choice (assumption log 54). -/
def Obligations.LifeCycleCommands : Prop :=
  ∀ (s : State) (x : LaneId) (entropy : List Byte),
    (s.lane x).sec.ustate = .idle → (s.lane x).sec.staging = none → (s.lane x).sec.lcNext = none →
      let st := (s.lane x).lifeCycle
      let tok := (s.lane x).sec.tokcnt
      (st = 0 → WriteGives (fun o => .lcmdProvision o entropy) 0x2C048 (fun _ => 1) s x (fun l =>
        (l.toLifeCycle 1 tok).setSec fun t => { t with
          drsNext := some ((Crypto.kdf (sliceB entropy 0 48) (asciiBytes "ROOT0000") (serialBytes ++ leBytes 2 0) 256).take 32) })) ∧
      (st = 1 → WriteGives .lcmdClaim 0x2C048 (fun _ => 2) s x (fun l =>
        let key := (s.lane x).blobBytes.take 96
        if (Crypto.pointOf key).isSome then
          (l.putSlot 5 { typ := 5, state := 1, origin := 3, dest := 3, usage := 4, kcv := kcvOf 5 key, kgen := (l.slot 5).kgen + 1, key }).toLifeCycle 2 tok
        else l.post 0x2C46)) ∧
      (st = 2 → WriteGives .lcmdDebugon 0x2C048 (fun _ => 3) s x (fun l =>
        let used := (s.lane x).ownerUse
        match used with
        | .ok _ => if (s.lane x).tokenOk 3 then (l.tallyUse used).toLifeCycle 3 (tok + 1) else (l.tallyUse used).post 0x2C45
        | .error c => (l.tallyUse used).post c)) ∧
      (st = 3 → WriteGives .lcmdDebugoff 0x2C048 (fun _ => 4) s x (fun l => l.toLifeCycle 2 tok)) ∧
      (st = 2 ∨ st = 3 → WriteGives .lcmdRetire 0x2C048 (fun _ => 5) s x (fun l =>
        let used := (s.lane x).ownerUse
        match used with
        | .ok _ =>
          if (s.lane x).tokenOk 5 then
            ((List.range 128).filter fun n => decide (8 ≤ n) && (l.slot n).state != 0).foldl (fun (m : Lane) n => m.putSlot n {})
              (l.tallyUse used) |>.toLifeCycle 4 (tok + 1)
          else (l.tallyUse used).post 0x2C45
        | .error c => (l.tallyUse used).post c)) ∧
      (st ≠ 1 → WriteGives .lcmdClaim 0x2C048 (fun _ => 2) s x (fun l => l.post 0x2C46)) ∧
      (st ≠ 3 → WriteGives .lcmdDebugoff 0x2C048 (fun _ => 4) s x (fun l => l.post 0x2C46))

/-- 17_security.md R384, R385, R388, R389, the key commands on the slot `n` that SSEL selects, with no other command
waiting. They act on a slot that is not fixed and whose record is not in flight: DERIVE gives a slot to be derived, whose
parent is valid, not locked and may be used to derive, the key derived from the parent's; INVALIDATE makes a slot
invalid; STAGE stages the key that BLOB holds; VERIFY checks its KCV; COMMIT places it; ABORT ends a staging. What is not
so is refused with its code and changes nothing else. That the rows do their step-7 work at once is the model's choice (assumption log
38); so are the order of these checks and the codes of DERIVE's and INVALIDATE's refusals (assumption log 117). -/
def Obligations.KeyCommands : Prop :=
  ∀ (s : State) (x : LaneId),
    let n := (s.lane x).get R.HMK.SSEL
    let k := (s.lane x).slot n
    let p := (s.lane x).slot k.parent
    let gives (c : Origin → Instr) (cmd : Word) (f : Lane → Lane) : Prop := WriteGives c 0x2A060 (fun _ => cmd) s x f
    (s.lane x).sec.kcmds = [] →
    (fixedSlot n = true →
      gives .kcmdDerive 1 (fun l => l.post 0x2A43) ∧ gives .kcmdInvalidate 2 (fun l => l.post 0x2A43) ∧
      gives .kcmdStage 3 (fun l => l.post 0x2A43) ∧ gives .kcmdVerify 4 (fun l => l.post 0x2A43) ∧
      gives .kcmdCommit 5 (fun l => l.post 0x2A43) ∧ gives .kcmdAbort 6 (fun l => l.post 0x2A43)) ∧
    (n = 5 → gives .kcmdDerive 1 (fun l => l.post 0x2A43) ∧ gives .kcmdInvalidate 2 (fun l => l.post 0x2A43)) ∧
    (fixedSlot n = false → (s.lane x).slotPend n = true →
      (n ≠ 5 → gives .kcmdDerive 1 (fun l => l.post 0x2A08) ∧ gives .kcmdInvalidate 2 (fun l => l.post 0x2A08)) ∧
      gives .kcmdStage 3 (fun l => l.post 0x2A08) ∧ gives .kcmdVerify 4 (fun l => l.post 0x2A08) ∧
      gives .kcmdCommit 5 (fun l => l.post 0x2A08) ∧ gives .kcmdAbort 6 (fun l => l.post 0x2A08)) ∧
    (fixedSlot n = false → (s.lane x).slotPend n = false →
      gives .kcmdAbort 6 (fun l => l.clearStaging) ∧
      (n ≠ 5 → k.state ≠ 0 → k.origin = 2 → k.parent < 128 →
        let ps := (s.lane x).slotState k.parent
        (ps = 1 → p.key ≠ [] → p.usage.getLsbD 0 = false → gives .kcmdDerive 1 (fun l => l.post 0x2A46)) ∧
        (ps = 4 ∨ (ps = 1 ∧ p.key = []) → gives .kcmdDerive 1 (fun l => l.post 0x2A47)) ∧
        (ps ≠ 1 → ps ≠ 4 → gives .kcmdDerive 1 (fun l => l.post 0x2A45))) ∧
      (n ≠ 5 → k.state = 0 → gives .kcmdDerive 1 (fun l => l.post 0x2A4A)) ∧
      (n ≠ 5 → k.state ≠ 0 → k.origin = 2 → k.parent < 128 → (s.lane x).slotState k.parent = 1 → p.key ≠ [] →
        p.usage.getLsbD 0 = true → gives .kcmdDerive 1 (fun l =>
          let key := deriveKey p.key k.label n k.typ
          l.putSlot n { k with state := 1, kgen := (k.kgen + 1) % 2 ^ 32, key, kcv := kcvOf k.typ key })) ∧
      (n ≠ 5 → k.state ≠ 0 → k.origin ≠ 2 → gives .kcmdDerive 1 (fun l => l.post 0x2A45)) ∧
      (n ≠ 5 → k.state ≠ 0 → gives .kcmdInvalidate 2 (fun l => l.putSlot n { k with state := 3 })) ∧
      (n ≠ 5 → k.state = 0 → gives .kcmdInvalidate 2 (fun l => l.post 0x2A4A)) ∧
      ((s.lane x).sec.staging = none →
        (∀ key, (s.lane x).unwrap n (s.lane x).blob = some key →
          gives .kcmdStage 3 (fun l =>
            (((l.setSec fun t => { t with staging := some { slot := n, key, fno := l.fno } }).put R.HMK.STG 1).put R.HMK.STGSLOT n).put
              R.HMK.STGFNO (l.fno % 2 ^ 32))) ∧
        ((s.lane x).unwrap n (s.lane x).blob = none → gives .kcmdStage 3 (fun l => l.post 0x2A42)) ∧
        gives .kcmdVerify 4 (fun l => l.post 0x2A48) ∧ gives .kcmdCommit 5 (fun l => l.post 0x2A48)) ∧
      (∀ st, (s.lane x).sec.staging = some st →
        gives .kcmdStage 3 (fun l => l.post 0x2A08) ∧
        ((s.lane x).get R.HMK.EKCV = st.key.kcv →
          gives .kcmdVerify 4 (fun l => (l.setSec fun t => { t with staging := some { st with verified := true } }).put R.HMK.STG 2)) ∧
        ((s.lane x).get R.HMK.EKCV ≠ st.key.kcv → gives .kcmdVerify 4 (fun l => l.clearStaging.post 0x2A41)) ∧
        ((s.lane x).get R.HMK.STG = 2 → st.slot = n →
          gives .kcmdCommit 5 (fun l => (l.putSlot n { st.key with kgen := (k.kgen + 1) % 2 ^ 32 }).clearStaging)) ∧
        ((s.lane x).get R.HMK.STG ≠ 2 ∨ st.slot ≠ n → gives .kcmdCommit 5 (fun l => l.post 0x2A48))))

/-- 17_security.md R390, R398, Table SEC-10: ATT latches the nonce; START, VERIFY, PROMOTE and ABORT move the
replacement of the firmware. -/
def Obligations.AttestationAndReplacement : Prop :=
  ∀ (s : State) (x : LaneId), s.recovery = false →
    let u := (s.lane x).sec.ustate
    let t := (s.lane x).sec.utgt
    ((s.lane x).enabled 0x2B = true → WriteGives .att 0x2B040 (fun _ => 1) s x (fun l =>
      (l.setSec fun c => { c with attReq := some ((List.range 8).flatMap fun i => leBytes 4 (l.get (R.CRY.NONCE.idx i))) }).put R.CRY.ATTV 0)) ∧
    (u = .idle → WriteGives .ucmdStart 0x2C0AC (fun _ => 1) s x (fun l =>
      let g := 1 - min 1 l.committedSlot
      (l.setSec fun c => { c with ustate := .staging, utgt := g, nextpg := 0, npages := 0, page := none }).setSlotState g .staging)) ∧
    (u = .staging → (s.lane x).compared = true → (s.lane x).sec.npages ≠ 0 → (s.lane x).sec.nextpg = (s.lane x).sec.npages →
      WriteGives .ucmdVerify 0x2C0AC (fun _ => 2) s x (fun l => l.setSec fun c => { c with ustate := .verifying, since := l.fno })) ∧
    (u = .verified → (s.lane x).compared = true →
      WriteGives .ucmdPromote 0x2C0AC (fun _ => 3) s x (fun l =>
        (l.nvPut 5 1 (manifestRecord ((l.sec.manifest.modify t fun i => { i with state := .committed }).modify (1 - t)
          fun i => { i with state := .previous }))).setSec fun c => { c with ustate := .promoting, since := l.fno })) ∧
    (u = .staging ∨ u = .verifying ∨ u = .verified →
      WriteGives .ucmdAbort 0x2C0AC (fun _ => 4) s x (fun l =>
        (l.setSec fun c => { c with ustate := .idle, page := none }).setSlotState t .empty)) ∧
    (u ≠ .idle → WriteGives .ucmdStart 0x2C0AC (fun _ => 1) s x (fun l => l.post 0x2C08))

/-- 18_assay.md R418, R419: an Assay command of a unit, with no command running, sets CBUSY, clears the results and is
remembered; a start-up test also waits for Touchstone; an injection with DOUBLE is a lane fault of the lane named and
stops the engine whose memory it hits (01_architecture.md R39), else a corrected error there. -/
def Obligations.AssayCommands : Prop :=
  ∀ (s : State) (x : LaneId) (unit tlane : Nat), tlane < 4 → 1 ≤ tlane → unit < 256 →
    (s.lane x).enabled 0x2D = true → (s.lane x).asy.cmd = none → unitOk unit = true → (s.lane x).mode ≠ 5 →
      let word (kind : Nat) : Word := .ofNat 32 (kind + tlane * 16 + unit * 256)
      let begun (kind slices : Nat) (two : Option (Nat × LaneId)) (l : Lane) : Lane :=
        (((((l.store 0x2D 0x044 (word kind)).put R.ASY.CSTAT 0).put R.ASY.CBUSY 1).put R.ASY.RESA 0).put R.ASY.RESB 0).setAsy fun a =>
          { a with cmd := some (kind, unit, tlane, slices), kind2 := two }
      ((s.lane x).lifeCycle ≤ 3 →
        WriteGives (fun o => .asyKindBackground o unit tlane) 0x2D044 (fun _ => word 1) s x (begun 1 (unitSlices unit) none)) ∧
      (unit = 0 → (s.lane x).lifeCycle = 2 ∨ (s.lane x).lifeCycle = 3 → (s.lane x).compared = true →
        (tlane = 1 ∧ (s.lane x).get R.TST.ROLEA = 2 ∨ tlane = 2 ∧ (s.lane x).get R.TST.ROLEB = 2) →
          WriteGives (fun o => .asyKindStartup o unit tlane) 0x2D044 (fun _ => word 2) s x
            (begun 2 0 (some ((s.lane x).fno, if tlane = 1 then .a else .b)))) ∧
      (unitBytes unit ≠ 0 → (s.lane x).lifeCycle = 0 ∨ (s.lane x).lifeCycle = 3 →
        (s.lane x).get R.ASY.INJADDR < unitBytes unit → (s.lane x).get R.ASY.INJADDR % 8 = 0 →
          let mine : Bool := if (s.lane x).id = .a then tlane % 2 == 1 else tlane / 2 % 2 == 1
          let at_ := (s.lane x).get R.ASY.INJADDR / arrayRow (unitArray unit)
          WriteGives (fun o => .asyKindInject o unit tlane) 0x2D044 (fun _ => word 3) s x (fun l =>
            if !mine then begun 3 0 none l
            else if l.on R.ASY.DOUBLE then ({ begun 3 0 none l with laneflt := true } : Lane).engineStops (unitArray unit) 3 3
            else (begun 3 0 none l).correctedError (unitArray unit) at_))

/-- 21_field_ports.md R472, R473, 22_display.md R479, R480, R482: RECOVER on a bus-off port and RESTART of an M-Bus port
that is off are handed to the hub; COMMIT and GDATA prepare a gamma table; RESTART asks for the panel's restart after a
lockout; a rail voltage is stored while the panel is off. -/
def Obligations.PortAndPanelWrites : Prop :=
  ∀ (s : State) (x : LaneId) (v : Word),
    (∀ n < 4, let key := 0x44040 + n * 0x1000
      let w (l : Lane) : Word := (l.reg key &&& 0xF) ||| 0x10
      (s.lane x).get (R.CAN.STATE.inst n) = 2 → (s.lane x).enabled (0x44 + n) = true →
        WriteGives (fun o => .canRecover o n) key w s x (fun l =>
          ((l.store (0x44 + n) 0x040 (w l)).put (R.CAN.RECOVER.inst n) 1).setPorts fun p =>
            { p with ctl := if 0x18 + n ∈ p.ctl then p.ctl else p.ctl ++ [0x18 + n] })) ∧
    (∀ n < 2, (s.lane x).on (R.MB.BUSON.inst n) = false → (s.lane x).enabled (0x4C + n) = true →
      WriteGives (fun o => .mbusRestart o n) (0x4C054 + n * 0x1000) (fun _ => 1) s x (fun l =>
        (l.put (R.MB.RESTART.inst n) 1).setPorts fun p =>
          { p with ctl := if 0x20 + n ∈ p.ctl then p.ctl else p.ctl ++ [0x20 + n] })) ∧
    ((s.lane x).enabled 0x51 = true →
      WriteGives .gcommit 0x51060 (fun _ => 1) s x (fun l => { l with panel := { l.panel with commit := true } }) ∧
      (s.hub.disp.lockout = true →
        WriteGives .pnlRestart 0x51060 (fun _ => 2) s x (fun l => { l with panel := { l.panel with restart := true } })) ∧
      (s.hub.disp.lockout = false → WriteGives .pnlRestart 0x51060 (fun _ => 2) s x (fun l => l.post 0x5141))) ∧
    (WriteGives (fun o => .gdataWrite o v) 0x5105C (fun _ => v) s x (fun l =>
      ({ l with panel := { l.panel with gdata := l.panel.gdata ++ [(256 * l.get R.PNL.GSEL + l.get R.PNL.GIDX, v.toNat % 1024)] } }).put
        R.PNL.GIDX ((l.get R.PNL.GIDX + 1) % 256))) ∧
    ∀ n ≤ 3, s.hub.disp.on = false →
      let off := if n ≤ 1 then 0x044 else 0x048
      let w (l : Lane) : Word := if n % 2 = 1 then withBits (l.reg (0x51000 + off)) 31 16 v.toNat else withBits (l.reg (0x51000 + off)) 15 0 v.toNat
      WriteGives (fun o => .railWrite o n v) (0x51000 + off) w s x (fun l => l.store 0x51 off (w l))

/-! ### Sessions (02_register_pages.md R53 to R58, 17_security.md R399 to R405, 21_field_ports.md R461, R462) -/

/-- R402, R461, R462, 16_time.md R357: SESSION_OPEN adds the session with the role of its certificate where a number is
free, the port serves Vangilo Link, the TLS offer holds what the module takes and the certificate is good, and presents the
module's own certificate; SESSION_CLOSE, SESSION_PROTOCOL_ERROR and 60 s without a
message remove it with its shadows and waiting reads; SUBSCRIBE and KEEPALIVE note the message. -/
def Obligations.SessionsOpenAndEnd : Prop :=
  ∀ (s : State) (x : Nat),
    (∀ (l : Lane) (port : Nat) (cert : ClientCert), s.server = some l → x < 8 → s.hub.session x = none →
      l.linkPort s.hub port = true → tlsOk cert.offer = true → l.ownerCert cert = true →
      (l.lifeCycle = 2 ∧ ¬(port = 4 ∧ l.sec.secFlags.getLsbD 2 = true) ∨ l.lifeCycle = 3) →
        exec (.sessionOpen x port cert) s = .next { s with
          laneA := s.laneA.dropShadow (8 + x), laneB := s.laneB.dropShadow (8 + x)
          hub := { s.hub with ports := { s.hub.ports with
            opens := s.hub.ports.opens + 1
            sessions := s.hub.ports.sessions ++
              [{ ident := x, port, role := cert.role, lastAt := s.hub.upFrames, gen := s.hub.ports.opens }]
            sent := s.hub.ports.sent ++ ((l.deviceCert s.nv).map fun c => Sent.serverCert x c).toList } } }) ∧
    (∀ (l : Lane) (port : Nat) (cert : ClientCert), s.server = some l →
      tlsOk cert.offer = false ∨ (l.ownerCert cert = false ∧ (l.lifeCycle = 2 ∨ l.lifeCycle = 3)) →
        exec (.sessionOpen x port cert) s = .next s) ∧
    (∀ ss, s.hub.session x = some ss →
      let gone : State := { s with
        laneA := s.laneA.dropShadow (8 + x), laneB := s.laneB.dropShadow (8 + x)
        hub := { s.hub with ports := { s.hub.ports with
          sessions := s.hub.ports.sessions.filter fun y => y.ident != x
          waits := s.hub.ports.waits.filter fun w => w.session != x } } }
      exec (.sessionClose x) s = .next gone ∧ exec (.sessionProtocolError x) s = .next gone ∧
      (ss.lastAt + 60000 ≤ s.hub.upFrames → exec (.sessionIdleTimeout x) s = .next gone) ∧
      (s.hub.upFrames < ss.lastAt + 60000 → exec (.sessionIdleTimeout x) s = .next s)) ∧
    ∀ (l : Lane) (ss : Session) (mask : BitVec 256), s.server = some l → s.hub.session x = some ss →
      let noted (f : Session → Session) : State := { s with hub := { s.hub with ports := { s.hub.ports with
        sessions := s.hub.ports.sessions.map fun y => if y.ident = x then f y else y } } }
      exec (.keepalive x) s = .next (noted fun y => { y with lastAt := s.hub.upFrames }) ∧
      exec (.subscribe x mask) s = .next (noted fun y => { y with lastAt := s.hub.upFrames, subs := mask })

/-- R52 to R58, R462: a write transaction of 1 to 256 entries becomes one arrival of source 0x04 of 16 + 12 n bytes with
its header of 12, 8 more for each guard, and its tag is open; a fifth open transaction is refused with 0xFF08, an empty
or longer one with 0xFF09; a frame-consistent read waits for the next frame's apply instant; a read of a register
outside the RTC page and other than ERRC answers the active lane's value with status OK of its page and changes no lane,
a refused read answers 0 with its status; a read of ERRC passes its clear behind what was handed over before, and reports
DENIED to a VIEW session (17_security.md R403). The row ERRC_READ carries no tag and is
answered with tag 0, and a refused read posts nothing, the model's choices (assumption logs 82 and 89). -/
def Obligations.TransactionsAndReads : Prop :=
  ∀ (s : State) (l : Lane) (ss : Session) (x tag : Nat) (tm : Int) (es : List WriteEntry) (as : List Word) (ent : List Byte),
    s.server = some l → s.hub.session x = some ss →
      let h := s.hub.heard x
      let refused (code : Half) : State := { s with hub := h.sent (.refuse x tag code) }
      (ss.open_.length < 4 → 1 ≤ es.length → es.length ≤ 256 → h.room04 (writeLen es) = true →
        12 + writeLen es = 16 + 12 * es.length + 8 * (es.countP fun e => e.guard.isSome) ∧
        exec (.writeTransaction x tag tm es ent) s = .next { s with
          hub := (h.handOver (writeLen es) tm (.write ss.key tag ss.role es ent)).modSession x fun y => { y with open_ := y.open_ ++ [tag] } }) ∧
      (ss.open_.length < 4 → 1 ≤ es.length → es.length ≤ 256 → h.room04 (writeLen es) = false →
        exec (.writeTransaction x tag tm es ent) s = .next (refused 0xFF0F)) ∧
      (4 ≤ ss.open_.length →
        exec (.writeTransaction x tag tm es ent) s = .next (refused 0xFF08) ∧
        exec (.readTransaction x tag as) s = .next (refused 0xFF08)) ∧
      (ss.open_.length < 4 → as.length = 0 ∨ 256 < as.length →
        exec (.readTransaction x tag as) s = .next (refused 0xFF09) ∧
        exec (.frameConsistentRead x tag as) s = .next (refused 0xFF09)) ∧
      (ss.open_.length < 4 → 1 ≤ as.length → as.length ≤ 256 →
        exec (.frameConsistentRead x tag as) s = .next { s with
          hub := (h.modSession x fun y => { y with open_ := y.open_ ++ [tag] }).setPorts fun p =>
            { p with waits := p.waits ++ [⟨x, tag, ss.role, as, s.hub.fno + 1⟩] } }) ∧
      (∀ a, ss.open_.length < 4 → (s.lane l.id).readStatus a = 0 → addrKey a % 0x1000 ≠ 0x01C → addrKey a / 0x1000 ≠ 0x30 →
        exec (.readTransaction x tag [a]) s = .next { s with
          hub := h.sent (.readAnswer x tag 0
            [(readKey h s.nv (s.lane l.id) (addrKey a), .ofNat 16 (addrKey a / 0x1000 * 256))]) }) ∧
      (∀ a st, ss.open_.length < 4 → (s.lane l.id).readStatus a = st → st ≠ 0 →
        exec (.readTransaction x tag [a]) s = .next { s with hub := h.sent (.readAnswer x tag 0 [(0, .ofNat 16 st)]) }) ∧
      ∀ page a, page < 256 → a = .ofNat 32 (0x40000000 + page * 0x1000 + 0x01C) → (s.lane l.id).readStatus a = 0 →
        let w := errcShown (s.lane l.id) s.hub.ports.rcPend a
        let ok : Half := .ofNat 16 (page * 256)
        (ss.role ≠ .view → w = 0 ∨ h.room04 8 = false →
          exec (.errcRead x page) s = .next { s with hub := h.sent (.readAnswer x 0 0 [(w, ok)]) }) ∧
        (w ≠ 0 → ss.role ≠ .view → h.room04 8 = true →
          exec (.errcRead x page) s = .next { s with
            hub := ((h.handOver 8 0 (.rcClear a w)).setPorts fun p => { p with rcPend := p.rcPend ++ [(a, w)] }).sent
              (.readAnswer x 0 0 [(w, ok)]) }) ∧
        (ss.role = .view →
          exec (.errcRead x page) s = .next { s with
            hub := h.sent (.readAnswer x 0 0 [(w, .ofNat 16 (page * 256 + 0x0D))]) })

/-- R396, R399, R405: an image page of 2 048 bytes given by an ENGINEER becomes an arrival, in recovery it is written to
the slot that recovery fills, and a page of another length ends the session; the debug function of a lane in FIELD_DEBUG,
with a session on the service port, halts an engine, and writes and hands out a byte of the 3.5 GiB of usable lane memory
(01_architecture.md R19). That a step leaves the lane as it is, and that a byte nothing has written reads 0, are the
model's choices (assumption log 72). -/
def Obligations.ImagePagesAndDebug : Prop :=
  ∀ (s : State) (x tag idx : Nat) (data : List Byte),
    (s.recovery = true → data.length = 2048 → idx ≤ 229375 →
      exec (.page x tag idx data) s = .next { s with nv := s.nv.writeNand s.recoverySlot idx data }) ∧
    (∀ (l : Lane) (ss : Session), s.recovery = false → s.server = some l → s.hub.session x = some ss →
      let h := s.hub.heard x
      (data.length = 2048 → ss.open_.length < 4 → ss.role = .engineer → h.room04 2052 = true →
        exec (.page x tag idx data) s = .next { s with
          hub := (h.handOver 2052 0 (.lane (.page ss.key tag idx data))).modSession x fun y => { y with open_ := y.open_ ++ [tag] } }) ∧
      (data.length = 2048 → ss.open_.length < 4 → ss.role ≠ .engineer → l.lifeCycle ≠ 0 →
        exec (.page x tag idx data) s = .next { s with hub := h.sent (.answer x tag h.fno [0x2C0D]) }) ∧
      (data.length ≠ 2048 → exec (.page x tag idx data) s = exec (.sessionProtocolError x) s)) ∧
    ∀ (y : LaneId) (n a : Nat) (b : Byte), (s.lane y).lifeCycle = 3 → (s.lane y).running = true →
      ((∀ ss ∈ s.hub.ports.sessions, ss.port ≠ 4) → ∀ op, exec (.debugAccess y op) s = .next s) ∧
      ((∃ ss ∈ s.hub.ports.sessions, ss.port = 4) →
      (n < 8 → (s.lane y).get (R.ENG.STATE.inst n) = 1 →
        exec (.debugAccess y (.halt n)) s = .next (s.setLane y ((s.lane y).put (R.ENG.STATE.inst n) 2))) ∧
      (a < 917504 * 4096 →
        exec (.debugAccess y (.write a b)) s = .next (s.setLane y { s.lane y with mem := kvInsert (s.lane y).mem a b }) ∧
        kvGet 0 (kvInsert (s.lane y).mem a b) a = b) ∧
      (917504 * 4096 ≤ a → exec (.debugAccess y (.write a b)) s = .next s) ∧
      exec (.debugAccess y (.step n)) s = .next s ∧
      (a < 917504 * 4096 →
        exec (.debugAccess y (.read a)) s = .next { s with hub := s.hub.sent (.debugByte y a (kvGet 0 (s.lane y).mem a)) }) ∧
      (917504 * 4096 ≤ a → exec (.debugAccess y (.read a)) s = .next s))

/-! ### Supplies, domains and the backup domain (03_power_clocks_start.md, 16_time.md R355 to R361) -/

/-- R60 to R63, R67, R512: an input is lost, a converter fails, is retried and unlatched; the boost converter takes VBUS
over where no input is left, and a good input ends boost and power fail; PFAIL, BANKLOW, HOLDRDY and BANKFLT are set;
nothing else changes. -/
def Obligations.SupplyInputsAndHoldUp : Prop :=
  ∀ (s : State) (inp : InputId),
    let i := s.pwr.input inp
    let fed (p : Power) : Power := { p with boost := p.boost || (!p.in1.good && !p.in2.good && !p.off) }
    let put (j : SupplyInput) : Power := match inp with
      | .in1 => { s.pwr with in1 := j }
      | .in2 => { s.pwr with in2 := j }
    exec (.inputLost inp) s = .next { s with pwr := fed (put { i with good := false }) } ∧
    (i.fault = false →
      exec (.inputGood inp) s = .next { s with pwr := { put { i with good := true } with boost := false, pfail := false } }) ∧
    exec (.converterFault inp) s = .next { s with pwr := fed (put { i with good := false, fault := true }) } ∧
    (i.fault = true → i.latched = false →
      exec (.converterRetry inp true) s = .next { s with pwr := put { i with fault := false } } ∧
      let ts := s.hub.upFrames :: i.failed.filter fun n => decide (s.hub.upFrames < n + 3600000)
      exec (.converterRetry inp false) s = .next { s with pwr := put { i with failed := ts, latched := decide (3 ≤ ts.length) } }) ∧
    (i.latched = true →
      exec (.converterFaultUnlatch inp) s = .next { s with pwr := put { i with latched := false, fault := false, failed := [] } }) ∧
    (s.pwr.off = false → exec .pfail s = .next { s with pwr := { s.pwr with boost := true, pfail := true } }) ∧
    (s.pwr.boost = true → exec .bankLow s = .next { s with pwr := { s.pwr with bankLow := true } }) ∧
    (s.pwr.off = false → exec .holdReady s = .next { s with pwr := { s.pwr with holdRdy := true } }) ∧
    exec .bankFault s = .next { s with pwr := { s.pwr with bankFlt := true } }

/-- R68, R70, Table PWR-1, 14_nv_store.md R324, R336: a fault of a domain that is on takes it off and marks it; a lane whose
domain fails loses its state and its Crucible domain; a fault of PD_NV cuts off the sequence that the store writes, at a
step that is free (assumption log 138); PD_MET and PD_NV are re-powered, PD_NV not while a lane holds the store for
unavailable; a monitored clock that fails is marked, once. That PD_BKP stays on is the model's choice (assumption log 34). -/
def Obligations.DomainsAndClocksFail : Prop :=
  ∀ (s : State), s.pwr.off = false →
    (∀ d : Domain, s.pwr.isOn (domBit d) = true → d = .cra ∨ d = .crb ∨ d = .met →
      exec (.domainFault d) s = .next { s with pwr := { s.pwr with
        dom := s.pwr.dom &&& ~~~(1#10 <<< domBit d), fault := s.pwr.fault ||| (1#10 <<< domBit d) } }) ∧
    (∀ x : LaneId, s.pwr.isOn (laneDom x) = true →
      ∃ t, exec (.domainFault (if x = .a then .la else .lb)) s = .next t ∧ t.lane x = (s.lane x).fresh ∧
        t.lane x.other = s.lane x.other ∧ t.pwr.isOn (laneDom x) = false ∧ t.pwr.isOn (craDom x) = false ∧
        t.pwr.fault.getLsbD (laneDom x) = true ∧ t.hub = s.hub ∧ t.nv = s.nv ∧ t.cal = s.cal) ∧
    (s.pwr.isOn 8 = true →
      let off : Power := { s.pwr with dom := s.pwr.dom &&& ~~~(1#10 <<< 8), fault := s.pwr.fault ||| (1#10 <<< 8) }
      (s.hub.applied = false ∨ s.nv.seq = [] → exec (.domainFault .nv) s = .next { s with pwr := off }) ∧
      (s.hub.applied = true → s.nv.seq ≠ [] →
        ∃ n k, k ≤ s.nv.seq.length * pageSteps ∧
          exec (.domainFault .nv) s = .next { s with pwr := off, nv := s.nv.tear k, free := n })) ∧
    (s.pwr.isOn 0 = true → ∃ t, exec (.domainFault .bkp) s = .next t ∧ t.cal.osf = true ∧ t.pwr.isOn 0 = true) ∧
    (s.pwr.isOn 6 = false → s.pwr.fault.getLsbD 6 = true →
      (s.pwr.metRepower.filter fun n => decide (s.hub.upFrames < n + 3600000)).length < 3 →
        ∃ t, exec (.domainRepower .met) s = .next t ∧ t = { s with pwr := t.pwr } ∧ t.pwr.isOn 6 = true ∧ t.pwr.fault.getLsbD 6 = false) ∧
    (s.pwr.isOn 8 = false → s.pwr.fault.getLsbD 8 = true →
      (s.nvUnavail = false → ∃ t, exec (.domainRepower .nv) s = .next t ∧ t = { s with pwr := t.pwr } ∧ t.pwr.isOn 8 = true) ∧
      (s.nvUnavail = true → exec (.domainRepower .nv) s = .next s)) ∧
    (∀ n, n ∈ [2, 3, 6, 7, 9, 15] → (clkMonitored s.pwr.dom.toNat s.hub.linkUp).getLsbD n = true → s.pwr.clkFail.getLsbD n = false →
      exec (.clockFailure n) s = .next { s with pwr := { s.pwr with clkFail := s.pwr.clkFail ||| (1#19 <<< n) } }) ∧
    (∀ n < 19, s.pwr.clkFail.getLsbD n = true → exec (.clockFailure n) s = .next s)

/-- R79, 16_time.md R355, R358, R361: at a power return phase 1 begins with empty lanes and the calendar advanced by a
free number of cycles; the change to the coin cell locks the interface and cancels a HALT, the change back and the
unlock undo it; OSF, BATLOW and the end of a HALT. The free time and the change to the cell without a good input are
the model's choices (assumption logs 35 and 42). -/
def Obligations.PowerReturnAndBackup : Prop :=
  ∀ (s : State) (low : Bool),
    (s.pwr.off = true → ∃ t, exec .powerReturn s = .next t ∧ t.pwr.off = false ∧ t.pwr.pfail = false ∧
      t.startup = some { phase := 1 } ∧ t.laneA = s.laneA.fresh ∧ t.laneB = s.laneB.fresh ∧ t.ts = {} ∧ t.hub.running = false ∧
      t.nv = s.nv ∧ (∃ n, t.cal = s.cal.run n) ∧ t.pending = s.pending) ∧
    (s.pwr.off = false → exec .powerReturn s = .next s) ∧
    (s.pwr.off = true ∨ s.pwr.in1.good = true ∨ s.pwr.in2.good = true →
      exec .backupSwitchToCell s = .next { s with cal := { s.cal with
        halt := none, setabt := s.cal.setabt || s.cal.halt.isSome, locked := true, onCell := true } }) ∧
    (s.pwr.off = false → exec .backupSwitchToVdd s = .next { s with cal := { s.cal with onCell := false } }) ∧
    (s.cal.onCell = false → exec .backupUnlock s = .next { s with cal := { s.cal with locked := false } }) ∧
    exec .osf s = .next { s with cal := { s.cal with osf := true } } ∧
    exec (.batlowTest low) s = .next { s with cal := { s.cal with batlow := low } } ∧
    (∀ n, s.cal.halt = some n → exec .haltTimeout s = .next { s with cal := { s.cal with halt := none, setabt := true } })

/-! ### The frame (01_architecture.md, 04_frame.md, 05_touchstone.md) -/

/-- 01_architecture.md R23, R24: an arrival that is inserted keeps the list in order of completion time, then source;
assigning to a frame reorders nothing within a source, keeps each source within its quota and loses nothing. -/
def Obligations.ArrivalsKeepOrderAndQuota : Prop :=
  (∀ (a : Arrival) (l : List Arrival), l.Pairwise (fun x y => x.tcmp < y.tcmp ∨ (x.tcmp = y.tcmp ∧ x.src ≤ y.src)) →
    (arrInsert a l).Pairwise fun x y => x.tcmp < y.tcmp ∨ (x.tcmp = y.tcmp ∧ x.src ≤ y.src)) ∧
  ∀ l : List Arrival,
    (assign l [] []).1.Sublist l ∧
    (∀ c, sizeOfSrc c (assign l [] []).1 ≤ srcQuota c) ∧
    ∀ c, ∃ k, ((assign l [] []).1.filter fun a => a.src == c) = (l.filter fun a => a.src == c).take k ∧
      ((assign l [] []).2.filter fun a => a.src == c) = ((l.filter fun a => a.src == c).drop k).map fun a => { a with deferred := true }

/-- 01_architecture.md R28, 04_frame.md R102: the output frame holds at most 1 048 576 bytes, its entries stand by class,
then destination, then in production order, and of a class and destination only a tail is left out; nothing is left out
of entries that fit. -/
def Obligations.OutputFrameOrderAndCapacity : Prop :=
  ∀ es : List OutEntry,
    let r := assembleOut es
    r.1.Pairwise (fun x y => x.cls < y.cls ∨ (x.cls = y.cls ∧ x.dest ≤ y.dest)) ∧
    32 + (r.1.map OutEntry.size).sum ≤ 1048576 ∧
    (∀ c d, (r.1.filter fun e => e.cls == c && e.dest == d) ++ (r.2.filter fun e => e.cls == c && e.dest == d) =
      es.filter fun e => e.cls == c && e.dest == d) ∧
    (32 + (es.map OutEntry.size).sum ≤ 1048576 → r.2 = [])

/-- 04_frame.md R509, 01_architecture.md R22, R23: an edge is stamped with its time at the connector, in cycles of 4
ns, stands by that time and then by its input, and counts as lost beyond 105; a pulse counts; at +35 µs the source 0x02
arrival completes with up to 21 edges; reports of a lane, a repair taking effect in its lane (18_assay.md R414), and
metering windows complete as arrivals of their sources, RTD results in those of WNO mod 100 = 99 alone
(13_heat_metering_pulses.md R302). -/
def Obligations.DigitalInputsAndArrivals : Prop :=
  ∀ (s : State) (n : Nat) (level : Bool) (tm : Int), s.hub.running = true →
    let di (h : Hub) : Hub := { h with di := withBits h.di n n (if level then 1 else 0) }
    (n < 32 → s.hub.edges.length < 105 → exec (.diEdge n level tm) s =
      .next { s with hub := { di s.hub with edges := edgeInsert { din := n, level, ns := s.hub.tb + (tm - tm % 4) - 20000 } s.hub.edges } }) ∧
    (∀ e : DiEdge, s.hub.edges.Pairwise (fun a b => a.ns < b.ns ∨ (a.ns = b.ns ∧ a.din ≤ b.din)) →
      (edgeInsert e s.hub.edges).Pairwise (fun a b => a.ns < b.ns ∨ (a.ns = b.ns ∧ a.din ≤ b.din)) ∧
      (edgeInsert e s.hub.edges).Perm (e :: s.hub.edges)) ∧
    (n < 32 → 105 ≤ s.hub.edges.length → exec (.diEdge n level tm) s =
      .next { s with hub := { di s.hub with edrop := min 65535 (s.hub.edrop + 1) } }) ∧
    exec (.pulseInputCount n) s = .next { s with hub := { s.hub with pcnt := s.hub.pcnt.modify n (· + 1) } } ∧
    (s.hub.closed = none → (∀ a ∈ s.hub.waiting, a.src ≠ 0x02) →
      let es := (s.hub.edges.take 21).map fun e => { e with ns := e.ns - s.hub.tb }
      exec .diArrivalClose s = .next { s with
        hub := ({ s.hub with edges := s.hub.edges.drop 21, edrop := 0 } : Hub).complete 0x02 (72 + 8 * es.length) 35000
          (.digital s.hub.di s.hub.pcnt es s.hub.edrop) }) ∧
    (∀ r : AssayReport, s.activeId.isSome = true → s.ts.lost = false →
      (r.typ ≠ 1 → exec (.arrivalComplete 0x04 tm (.lane (.assay r))) s =
        .next { s with hub := s.hub.handOver 16 tm (.lane (.assay r)) }) ∧
      (r.typ = 1 → (s.lane r.lane).running = true → exec (.arrivalComplete 0x04 tm (.lane (.assay r))) s =
        .next { s.setLane r.lane ((s.lane r.lane).ownRepair r.array (r.addr / arrayRow r.array)) with
          hub := s.hub.handOver 16 tm (.lane (.assay r)) })) ∧
    (∀ w : MetWindow, s.pwr.isOn 6 = true →
      let v : MetWindow := { w with
        rtd := if w.wno.toNat % 100 = 99 then w.rtd else none
        valid := w.valid && !s.pwr.clkFail.getLsbD 9 }
      exec (.arrivalComplete 0x03 tm (.met w)) s = .next { s with hub := s.hub.complete 0x03 (windowLen v) tm (.metering v) }) ∧
    ∀ (h : Hub) (src len : Nat) (b : ArrBody), sizeOfSrc src h.waiting + (12 + (len + 3) / 4 * 4) ≤ 4 * srcQuota src →
      ∃ a : Arrival, (h.complete src len tm b).waiting = arrInsert a h.waiting ∧ a.src = src ∧ a.len = len ∧
        a.tcmp = h.tb + (tm - tm % 4) ∧ a.body = b ∧ a.seq = kvGet 0 h.seqs src ∧ a.deferred = false

/-- 04_frame.md R86, R88, R95, R96, 01_architecture.md R21, R22, 16_time.md R356: FRAME_START counts the frame, which
starts one frame length after the last, takes the measurements and opens a frame in which nothing has been closed, run,
delivered or applied, the first in phase 1 once the backup domain has unlocked its interface or 20 ms have gone
(16_time.md R366); INPUT_FRAME_CLOSE assigns the arrivals, their TCMP now relative to the frame, and adds the trailer
with its two checksums, once. The calendar's cycles per frame, the first frame of phase 1 and that a FRAME_START it waits through is a
ms are the model's choices (assumption logs 43, 68 and 136). -/
def Obligations.FramesStartAndClose : Prop :=
  ∀ (s : State) (m : SupplyMeas),
    (s.pwr.off = false → s.hub.running = true → s.restartAsked = none → s.startup = none →
      ∃ t, exec (.frameStart m) s = .next t ∧ t.hub.fno = s.hub.fno + 1 ∧ t.hub.upFrames = s.hub.upFrames + 1 ∧
        t.hub.tb = s.hub.tb + s.hub.flen ∧ t.hub.flenPrev = s.hub.flen ∧
        t.hub.closed = none ∧ t.hub.applied = false ∧ t.hub.ports.sent = [] ∧ t.pwr.meas = m ∧
        t.pwr.holdRdy = decide (2600 ≤ m.bankv) ∧ t.cal = (s.cal.run (bkpCycles s.hub.upFrames)).load ∧ t.nv = s.nv ∧
        t.pending = s.pending ∧ t.startup = none ∧
        ∀ x, (t.lane x).ranFrame = false ∧ (t.lane x).delivered = none ∧ (t.lane x).hb = none) ∧
    (∀ u, s.pwr.off = false → s.hub.running = false → s.restartAsked = none → s.startup = some u → u.phase = 1 →
      u.stopped = false → u.k0 = none → s.pwr.isOn 1 = false →
      (s.cal.locked = true → u.waited < 20 →
        exec (.frameStart m) s = .next { s with startup := some { u with waited := u.waited + 1 } }) ∧
      (s.cal.locked = false ∨ 20 ≤ u.waited →
        ∃ t, exec (.frameStart m) s = .next t ∧ t.hub.running = true ∧ t.hub.fno = 0 ∧ t.pwr.isOn 7 = true)) ∧
    (s.pwr.off = true → exec (.frameStart m) s = .next s) ∧
    (s.hub.running = true → s.hub.closed = none → s.hub.applied = false →
      let r := assign s.hub.waiting [] []
      let cal := s.cal.readAt20
      let as := r.1.map fun a => a.inFrame s.hub.tb
      let tr : Trailer := { fno := s.hub.fno, acnt := as.length, nt := s.hub.clk.ns, sync := s.hub.clk.sync
                            calq := cal.calq, cal := cal.reading, flen := s.hub.flen, acrc := crc32c (as.flatMap Arrival.bytes) }
      exec .inputFrameClose s = .next { s with
        cal
        hub := { s.hub with
          waiting := r.2
          closed := some { trailer := { tr with tcrc := crc32c tr.body }, arrivals := as } } }) ∧
    (s.hub.running = true → s.hub.closed.isSome = true ∨ s.hub.applied = true → exec .inputFrameClose s = .next s) ∧
    (s.hub.running = true → exec .calendarReading s = .next { s with cal := s.cal.readAt20 })

/-- 01_architecture.md R22, R26, R37: at the input instant of the frame that has closed, with the roles of its verdict
in force and no transfer, a running lane whose frame is lost reports INLOSS and does nothing, and a running lane that has
it runs steps 1 to 7 of Table ARC-5 in order on it; each lane is given the same frame. Only the event of a panel that the
frame restarts and the counts of frames that a fabric link drops (20_rogon_fabric.md R436) come after it. -/
def Obligations.InputInstantRunsLanes : Prop :=
  ∀ (s : State) (f : InputFrame) (lossA lossB : Bool) (x : LaneId),
    s.hub.closed = some f → s.startup = none → s.hub.applied = false → f.trailer.fno = s.hub.fno →
    s.laneA.ranFrame = false → s.laneB.ranFrame = false → s.ts.transfer = none →
    (∀ v, v = (f.analog.map (·.v)).getD s.hub.verdict → v.roleA = s.ts.roleA ∧ v.roleB = s.ts.roleB ∧ v.mode = s.ts.mode) →
    (s.lane x).running = true →
      let lost := if x = .a then lossA else lossB
      let g : FrameGiven := { frame := f, nv := s.nv, hub := s.hub, ts := s.ts, cal := s.cal, declared := s.pwr.clkFail }
      let after : List Nat := 0x51010 :: (List.range 4).map fun n => (R.FL.QDROP.inst n).key
      ∃ t, exec (.inputInstant lossA lossB) s = .next t ∧ t.hub.fno = s.hub.fno ∧ t.nv = s.nv ∧
        (lost = true → (t.lane x).inloss = true ∧ (t.lane x).ranFrame = true ∧ RegsBut after (s.lane x) (t.lane x)) ∧
        (lost = false → ∀ l1 facts l2, (s.lane x).step1 g = (l1, facts) → l1.step2 g = l2 →
          l2.running = true → l2.inloss = false → ∀ l6 pub l7, l2.steps36 = (l6, pub) → l6.step7 g facts pub l2 = l7 →
            RegsBut after l7 (t.lane x) ∧ t.lane x = { l7 with
              panel := (t.lane x).panel
              regs := (t.lane x).regs
              irqSet := (t.lane x).irqSet
              rose := (t.lane x).rose
              fab := { l7.fab with sample := (t.lane x).fab.sample, gmChange := (t.lane x).fab.gmChange } })

/-- 01_architecture.md R19, R27, 04_frame.md R90, 05_touchstone.md R112, 09_control_loops.md R219, 18_assay.md R408: a lane
that ran the frame and delivers hands on the assembled output frame with its heartbeat, which tells its lane faults, an
uncorrectable error and a failed restore among them; one that misses the deadline counts it, hands on none
and reports NOOUT, and counts LDMISS too where its loop contributions are missing; a pass still running at +40 µs of
the next frame is a lane fault told then; a lane whose loop engines do not run misses so; one that has answered already
does neither. -/
def Obligations.DeliveriesAndDeadlines : Prop :=
  ∀ (s : State) (x : LaneId) (d : Delivery),
    (s.mayDeliver x = false → exec (.outputFrameDelivery x d) s = .next s ∧ ∀ why bad, exec (.deadlineMiss ⟨x, why, bad⟩) s = .next s) ∧
    (s.mayDeliver x = true → (s.lane x).inloss = false → s.ts.transfer = none →
      ((s.lane x).loopsLate = true → exec (.outputFrameDelivery x d) s = exec (.deadlineMiss ⟨x, .passes, d.ttFail⟩) s) ∧
      (d.upset = none → (s.lane x).loopsLate = false → ∃ t h, exec (.outputFrameDelivery x d) s = .next t ∧ t = s.setLane x (t.lane x) ∧
        (t.lane x).delivered = some { fno := (s.lane x).fno, fp := .ofNat 64 (s.lane x).cfgFp
                                      entries := (assembleOut (s.lane x).out).1, ok := d.intact } ∧
        (t.lane x).hb = some h ∧ h.fno = (s.lane x).fno ∧ h.noout = false ∧ h.inloss = false ∧ h.intact = d.hbIntact ∧
        h.laneflt = ((s.lane x).laneflt || d.finds.any fun y => y == .uncorrectable || y == .restoreBad) ∧
        (t.lane x).laneflt = false) ∧
      ∀ (why : Lateness) (bad : Bool), ∃ t h, exec (.deadlineMiss ⟨x, why, bad⟩) s = .next t ∧ t = s.setLane x (t.lane x) ∧
        (t.lane x).get R.FRAME.LATECNT = satAdd R.FRAME.LATECNT.width ((s.lane x).get R.FRAME.LATECNT) 1 ∧
        (t.lane x).get R.LOOP.LDMISS = (if why = .frame then (s.lane x).get R.LOOP.LDMISS
          else satAdd R.LOOP.LDMISS.width ((s.lane x).get R.LOOP.LDMISS) 1) ∧
        (t.lane x).delivered = (s.lane x).delivered ∧ (t.lane x).hb = some h ∧ h.noout = true ∧ h.fno = s.hub.fno ∧
        (t.lane x).laneflt = decide (why = .passes)) ∧
    (s.mayDeliver x = true → (s.lane x).inloss = true → s.ts.transfer = none →
      ∃ t h, exec (.outputFrameDelivery x d) s = .next t ∧ (t.lane x).delivered = (s.lane x).delivered ∧
        (t.lane x).hb = some h ∧ h.noout = true ∧ h.fno = s.hub.fno)

/-- 05_touchstone.md Table TST-3, R115 to R117, R125, R134, in COMPARED with active lane `ac` and no order pending: equal
frames of clean lanes keep everything and `ac` owns; differing ones hold the outputs and open a resolution; an unclean
standby lane becomes UNFIT and `ac` drives alone; two unclean lanes lead to the quench image and a restart with
TRIG 0x8. Touchstone loss latches the owner and drops what the hub holds for it; under it the latched lane owns while it is
clean and present, else the outputs are quenched from then on, and a swap that waits ends. -/
def Obligations.VerdictsAndTouchstoneLoss : Prop :=
  ∀ (s : State) (ac : LaneId), s.hub.running = true → s.startup = none → s.ts.verdict.vfno ≠ s.hub.fno →
    let role (v : Verdict) (x : LaneId) : Role := if x = .a then v.roleA else v.roleB
    (s.ts.lost = false → s.pwr.isOn 1 = true → role s.ts.verdict ac = .active → role s.ts.verdict ac.other = .standby →
      s.ts.res = none → s.ts.transfer = none → s.ts.swap = false → (s.lane ac).asy.kind2 = none → s.ts.pathDue s.hub.fno = false →
      s.ts.held < 3 →
        (∀ f g, (s.facts ac).clean = true → (s.facts ac.other).clean = true →
          (s.facts ac).frame = some f → (s.facts ac.other).frame = some g →
            (f.same g = true → ∃ t, exec .compare s = .next t ∧ t.hub.verdict = t.ts.verdict ∧ t.ts.verdict.owner = ownerOf ac ∧
              t.ts.verdict.mode = .compared ∧ t.ts.verdict.cmp = .equal ∧ role t.ts.verdict ac = .active ∧
              role t.ts.verdict ac.other = .standby ∧ t.ts.verdict.vfno = s.hub.fno ∧ t.ts.held = 0 ∧ t.ts.res = none) ∧
            (f.same g = false → g.same f = false → ∃ t r, exec .compare s = .next t ∧ t.hub.verdict = t.ts.verdict ∧ t.ts.verdict.owner = .held ∧
              t.ts.verdict.mode = .resolving ∧ t.ts.verdict.cmp = .differ ∧ role t.ts.verdict ac = .active ∧
              role t.ts.verdict ac.other = .standby ∧ t.ts.held = s.ts.held + 1 ∧ t.ts.res = some r ∧ r.start = s.hub.fno)) ∧
        (∀ f, (s.facts ac).clean = true → (s.facts ac.other).clean = false → (s.facts ac).frame = some f →
          ∃ t, exec .compare s = .next t ∧ t.ts.verdict.owner = ownerOf ac ∧ t.ts.verdict.mode = .single ∧ role t.ts.verdict ac = .alone ∧
            role t.ts.verdict ac.other = if (s.facts ac.other).spent then .failed else .unfit) ∧
        ((s.facts ac).clean = false → (s.facts ac.other).clean = false → s.laneA.restart = none → s.laneB.restart = none →
          ∃ t, exec .compare s = .next t ∧ t.ts.verdict.owner = .quench ∧ t.ts.verdict.mode = .quench ∧ t.ts.order8 = true ∧
            t.restartAsked.map (·.trig) = some 8)) ∧
    (s.ts.lost = true → ∃ t, exec .compare s = .next t ∧ t.ts.verdict.tslost = true ∧ t.hub.verdict = t.ts.verdict ∧
      t.ts.verdict.swap = (if s.ts.swap then some false else none)) ∧
    (s.ts.lost = true → s.ts.latched = some ac → s.ts.latchQuench = false → (s.facts ac).clean = true →
      (s.facts ac).frame.isSome = true → ∃ t, exec .compare s = .next t ∧ t.ts.verdict.owner = ownerOf ac ∧ t.ts.latchQuench = false) ∧
    (s.ts.lost = true → s.ts.latchQuench = true → ∃ t, exec .compare s = .next t ∧ t.ts.verdict.owner = .quench ∧ t.ts.latchQuench = true) ∧
    (s.ts.lost = false → s.ts.transfer = none → role s.ts.verdict ac = .active → role s.ts.verdict ac.other ≠ .active →
      role s.ts.verdict ac.other ≠ .alone →
        ∃ t, exec .touchstoneLoss s = .next t ∧ t.ts.lost = true ∧ t.ts.latched = some ac ∧ t.ts.mode = .tslost ∧
          t.laneA = s.laneA ∧ t.laneB = s.laneB ∧ t.pwr = s.pwr ∧
          t.hub = { s.hub with ports := { s.hub.ports with conns := [], sessions := [], waits := [], rcPend := [] } }) ∧
    (s.ts.lost = true → exec .touchstoneLoss s = .next s)

/-- 00_scope.md R4, 01_architecture.md R29, 03_power_clocks_start.md R69, 05_touchstone.md R118, R138,
13_heat_metering_pulses.md R315: at the apply instant with a verdict of this frame the hub drives the plant outputs of
the owner's frame, holds them where no lane owns it and drives the loaded quench image where it is ordered or where the
frame is that of no configuration; without a loaded image every output, the pulses too, is inactive there; the owner's
requests go to the store while it is there (14_nv_store.md R323, R336), where one that programs a NAND page may fail and
mark its block (R339; when it fails is free, assumption log 131); a second apply instant does nothing; a pulse in its last
frame ends. -/
def Obligations.ApplyInstantDrives : Prop :=
  ∀ (s : State) (ok : Bool),
    (s.hub.applied = true → exec (.applyInstant ok) s = .next s) ∧
    (s.hub.running = true → s.hub.applied = false → s.startup = none → s.ts.verdict.vfno = s.hub.fno → s.pwr.shutdown = none →
      (∀ (x : LaneId) (f : OutFrame) (pre post : List OutEntry) (e : OutEntry) (d : BitVec 16) (ao : List Nat),
        s.ts.verdict.owner = ownerOf x → (s.lane x).delivered = some f → f.fp ≠ 0 → f.entries = pre ++ e :: post →
        e.body = .plant d ao → (∀ y ∈ post, ∀ d' a', y.body ≠ .plant d' a') →
          ∃ t, exec (.applyInstant ok) s = .next t ∧ t.hub.applied = true ∧ t.hub.outs.dout = d ∧ t.hub.outs.ao = ao ∧
            t.hub.outs.quench = false ∧ t.hub.outs.hwoff = false ∧
            (let l := s.lane x
             let stored := s.nv.run l.nv.patSize l.lifeCycle l.committedSlot f.entries
             (s.nvReady = true → l.on R.NVS.UNAVAIL = false → t.nv = stored ∨
               ∃ r ws, (r, 0) ∈ judge l.nv.patSize l.lifeCycle l.committedSlot s.nv.nandLock (outReqs f.entries) ∧ r.op = 4 ∧
                 t.nv = stored.nandFail (r.part - 0x20) r.num ws) ∧
             (s.nvReady = false ∨ l.on R.NVS.UNAVAIL = true →
               t.nv = { s.nv with nandLock := s.nv.nandLock - 1, seq := [] }))) ∧
      (s.ts.verdict.owner = .held → ∃ t, exec (.applyInstant ok) s = .next t ∧ t.hub.applied = true ∧
        t.hub.outs.dout = s.hub.outs.dout ∧ t.hub.outs.ao = s.hub.outs.ao ∧ t.hub.outs.hwoff = s.hub.outs.hwoff) ∧
      (s.ts.verdict.owner = .quench ∨
          (∃ x f, s.ts.verdict.owner = ownerOf x ∧ (s.lane x).delivered = some f ∧ f.fp = 0 ∧ f.entries = []) →
        (∀ q : BitVec 16 × List Nat, s.hub.outs.qnext = some q ∨
            (s.hub.outs.qnext = none ∧ s.hub.outs.qvalid = true ∧ q = (s.hub.outs.qdo, s.hub.outs.qao)) →
          ∃ t, exec (.applyInstant ok) s = .next t ∧ t.hub.applied = true ∧ t.hub.outs.dout = q.1 ∧ t.hub.outs.ao = q.2 ∧
            t.hub.outs.quench = true ∧ t.hub.outs.hwoff = false) ∧
        (s.hub.outs.qnext = none → s.hub.outs.qvalid = false →
          ∃ t, exec (.applyInstant ok) s = .next t ∧ t.hub.applied = true ∧ t.hub.outs.hwoff = true ∧ t.hub.outs.dout = 0 ∧
            t.hub.outs.ao = List.replicate 8 0 ∧ t.hub.outs.pulses = List.replicate 16 0))) ∧
    ∀ n, s.hub.running = true → s.hub.applied = false → s.hub.outs.pulses.getD n 0 = 1 →
      exec (.pulseEnd n) s = .next { s with hub := { s.hub with outs := { s.hub.outs with pulses := s.hub.outs.pulses.set n 0 } } }

/-- 18_assay.md R414, 17_security.md R400, 05_touchstone.md R127 to R130, 01_architecture.md R19, R39: the report of a lane
and the two reports of a verification become arrivals, a repair taking effect in its lane; at step 2 of their frame both
lanes show what a unit failed with, and decide on the image, which the standby lane has checked; a pre-copy pass of at most 256 KiB leads to the final pass, a seventeenth or 10 s fails the transfer; a
lane OFF for ten frames is re-powered; an uncorrectable error, a trap and a watchdog expiry are lane faults, the last
two with the engine's STATE and TRAPC. That the report rows complete at the frame's start, and that WATCHDOG_EXPIRY is the
miss that reaches WDFR, are the model's choices (assumption logs 58 and 94). -/
def Obligations.ReportsTransfersAndEngineFaults : Prop :=
  ∀ (s : State) (x : LaneId),
    (∀ r : AssayReport, s.ts.lost = false → s.activeId.isSome = true → s.hub.running = true →
      let handed : Hub := s.hub.handOver 16 0 (.lane (.assay r))
      (r.typ ≠ 1 → exec (.assayReport r) s = .next { s with hub := handed }) ∧
      (r.typ = 1 → (s.lane r.lane).running = true → exec (.assayReport r) s =
        .next { s.setLane r.lane ((s.lane r.lane).ownRepair r.array (r.addr / arrayRow r.array)) with hub := handed }) ∧
      ∀ (g : FrameGiven) (y : Arrival), y.body = .lane (.assay r) → r.typ = 2 → r.bit < 128 → r.addr < 2 ^ 32 → r.unit < 256 →
        let m := Lane.arrivalStep2 g (s.lane x) y
        m.get R.ASY.FUNIT = r.unit ∧ m.get R.ASY.FADDR = r.addr ∧ m.get R.ASY.FBIT = r.bit ∧ m.on R.ASY.I_FAIL = true) ∧
    (∀ a b : VerFault, s.ts.lost = false → s.activeId.isSome = true → s.hub.running = true →
      s.laneA.running = true → s.laneB.running = true → s.laneA.sec.ustate = .verifying → s.laneB.sec.ustate = .verifying →
        exec (.verificationReport a b) s = .next { s with
          hub := s.hub.handOver 116 0 (.lane (.verification (s.verReport .a a) (s.verReport .b b))) }) ∧
    (let t := (s.lane x).sec.utgt
     (s.ts.role x ≠ .standby → (s.verReport x {}).code = 0) ∧
     (s.ts.role x = .standby → s.nv.slotBad t (imagePages (s.nv.nandPage t 0)) = true → (s.verReport x {}).code = 0x2C4B)) ∧
    (∀ (g : FrameGiven) (y : Arrival) (a b : VerReport), y.body = .lane (.verification a b) → (s.lane x).sec.ustate = .verifying →
      let m := Lane.arrivalStep2 g (s.lane x) y
      (a.code = 0 → b.code = 0 → a.digest = b.digest → m.sec.ustate = .verified) ∧
      (a.code = 0 → b.code = 0 → a.digest ≠ b.digest → m.sec.ustate = .staging ∧ m.get R.LCS.UPDERR = 0x2C4D) ∧
      (a.code ≠ 0 → m.sec.ustate = .staging ∧ m.get R.LCS.UPDERR = a.code.toNat)) ∧
    (∀ (r : Transfer) (n : Nat), s.ts.transfer = some r → r.phase = 2 → r.failed = false →
      let moved (q : Transfer) : State := { s with ts := { s.ts with transfer := some { q with lines := n } } }
      (n ≤ 262144 → exec (.precopyPassEnd n) s = .next (moved { r with phase := 3 })) ∧
      (262144 < n → r.passes < 16 → exec (.precopyPassEnd n) s = .next (moved { r with passes := r.passes + 1 })) ∧
      (262144 < n → 16 ≤ r.passes → exec (.precopyPassEnd n) s = .next (moved { r with failed := true }))) ∧
    (∀ r : Transfer, s.ts.transfer = some r → 1 ≤ r.phase → r.phase ≤ 3 → r.started + 10000 ≤ s.hub.fno →
      exec .transferTimeout s = .next { s with ts := { s.ts with transfer := some { r with failed := true } } }) ∧
    (∀ n, s.ts.rstOff x = some n → 10 ≤ n → s.pwr.isOn (laneDom x) = false → s.ts.role x = .off → s.ts.lost = false →
      ∃ t, exec (.laneRepower x) s = .next t ∧ t.pwr.isOn (laneDom x) = true ∧ t.lane x = { s.lane x with phase := 3 } ∧
        t.lane x.other = s.lane x.other) ∧
    ((s.lane x).running = true → exec (.uncorrectableError x) s = .next (s.setLane x { s.lane x with laneflt := true })) ∧
    ∀ eng < 8, (s.lane x).running = true → (s.lane x).get (R.ENG.STATE.inst eng) = 1 →
      (∀ (code : Nat) (pc : Word), 1 ≤ code → code ≤ 3 → ∃ t, exec (.engineTrap x eng code pc) s = .next t ∧ t = s.setLane x (t.lane x) ∧
        (t.lane x).laneflt = true ∧ (t.lane x).get (R.ENG.STATE.inst eng) = 3 ∧ (t.lane x).get (R.ENG.TRAPC.inst eng) = code ∧
        (t.lane x).get (R.ENG.TRAPPC.inst eng) = pc.toNat ∧ (t.lane x).on (R.ENG.I_TRAP.inst eng) = true) ∧
      ∃ t, exec (.watchdogExpiry x eng) s = .next t ∧ t = s.setLane x (t.lane x) ∧ (t.lane x).laneflt = true ∧
        (t.lane x).get (R.ENG.STATE.inst eng) = 5 ∧ (t.lane x).get (R.ENG.TRAPC.inst eng) = 4

/-- 03_power_clocks_start.md R79 to R81, 17_security.md R395, 23_physical.md R508: the phases of the module's start-up
end in their order; a lane whose boot ROM finds a fault stays in BOOTERR; k0 is named three frames after both lanes are
ready; a lane not ready 10 s after the other is given up; the lamp test ends. -/
def Obligations.StartUpRuns : Prop :=
  ∀ (s : State) (u : Startup) (tsOk : Bool) (a b : LaneStart),
    (s.startup = some u → u.stopped = false →
      (u.phase = 1 → s.hub.running = true → ∃ t, exec (.startupPhaseEnd none tsOk a b) s = .next t ∧
        t.startup = some { u with phase := 2 } ∧ t.pwr.isOn 7 = true ∧
        (u.trig ≠ 7 → t.pwr.isOn 0 = true ∧ t.pwr.isOn 6 = true ∧ t.pwr.isOn 8 = true) ∧
        (u.trig = 7 → t.pwr = s.pwr.setDom 7 true) ∧ t.hub.lamp = some (s.hub.upFrames + 500)) ∧
      (u.phase = 2 → tsOk = false → exec (.startupPhaseEnd none tsOk a b) s = .next { s with startup := some { u with stopped := true } }) ∧
      (u.phase = 2 → tsOk = true → ∃ t, exec (.startupPhaseEnd none tsOk a b) s = .next t ∧ t.startup = some { u with phase := 3 } ∧
        (u.trig ≠ 7 → t.pwr.isOn 1 = true) ∧ t.pwr.isOn 2 = true ∧ t.pwr.isOn 3 = true ∧ t.laneA.phase = 3 ∧ t.laneB.phase = 3) ∧
      (u.phase = 3 → s.laneA.phase = 3 → a.boot ≠ 0 → a.boot.toNat < 2 ^ R.LCS.BOOTERR.width →
        ∃ t, exec (.startupPhaseEnd none tsOk a b) s = .next t ∧ t.startup = some { u with phase := 4 } ∧ t.laneA.phase = 0 ∧
          t.laneA.get R.LCS.BOOTERR = a.boot.toNat)) ∧
    (∀ i j, s.startup = some u → u.stopped = false → s.ts.lost = false → u.k0 = none → u.phase = 6 → u.readyA = some i → u.readyB = some j →
      s.starters ≠ [] → ∃ t, exec .startFrame s = .next t ∧ t.startup = some { u with k0 := some (max (max i j + 3) (s.hub.fno + 1)) } ∧
        t.hub = s.hub ∧ t.pwr = s.pwr) ∧
    (∀ i, s.startup = some u → u.readyA = some i → u.readyB = none → u.failB = none →
      (i + 10000 ≤ s.hub.fno → ∃ t, exec .laneReadyTimeout s = .next t ∧ t.ts.giveUpB = true) ∧
      (s.hub.fno < i + 10000 → exec .laneReadyTimeout s = .next s)) ∧
    exec .lampTestEnd s = .next { s with hub := { s.hub with lamp := s.hub.lamp.map fun n => min n s.hub.upFrames } }

/-! ### Computations, waits, time, ports and the display -/

/-- 07_crucible_solver.md R179, R186, 08_dispatch_optimiser.md R205, 04_frame.md R109, 20_rogon_fabric.md R451: a solve or
dispatch that computes ends with its result ready and its duration in the registers, once; an epoch resends its unanswered
exchanges, stops with the vote ABSENT when its stop frame has come, and is decided by the coordinator. -/
def Obligations.ComputationsEnd : Prop :=
  ∀ (s : State) (x : LaneId) (us : Nat),
    (∀ md j, s.computes x = true → (s.lane x).slv.model = some md → (s.lane x).slv.job = some j →
      ((s.lane x).slv.ready = none → ∃ t r, exec (.solveComputationEnd x us) s = .next t ∧ t = s.setLane x (t.lane x) ∧
        (t.lane x).slv = { (s.lane x).slv with ready := some r } ∧ r.n = j.n ∧ r.fno = j.fno ∧ r.cold = j.cold ∧
        (t.lane x).get R.SOLD.DURUS = min us (2 ^ 32 - 1) ∧
        (t.lane x).get R.SOLD.MAXDUR = max (min us (2 ^ 32 - 1)) ((s.lane x).get R.SOLD.MAXDUR)) ∧
      ((s.lane x).slv.ready.isSome = true → exec (.solveComputationEnd x us) s = .next s)) ∧
    (∀ j, s.computes x = true → (s.lane x).opt.job = some j → (s.lane x).opt.ready = none →
      ∃ t, exec (.dispatchComputationEnd x us) s = .next t ∧ t = s.setLane x (t.lane x) ∧
        (t.lane x).opt = { (s.lane x).opt with ready := some (finishDispatch j) } ∧
        (t.lane x).get R.OPTD.DURUS = min us (2 ^ 32 - 1)) ∧
    (s.computes x = false → exec (.solveComputationEnd x us) s = .next s ∧ exec (.dispatchComputationEnd x us) s = .next s) ∧
    ∀ n md j, (s.lane x).running = true → (s.lane x).slv.model = some md → (s.lane x).epochOf n = some j → (s.lane x).inDomain = true →
      (∀ nbr f e, j.voted = none → j.sent = [(nbr, f, e)] → j.got nbr (e.iter + 1) = none →
        f + (2 * (s.lane x).get R.FAB.LATENCY + 2) ≤ (s.lane x).fno →
          ∃ t k, exec (.boundaryExchangeResend n) s = .next t ∧ LanesOnly s t ∧ (t.lane x).epochOf n = some k ∧
            k.sent = [(nbr, (s.lane x).fno, e)] ∧
            (t.lane x).get R.FAB.RESEND = satAdd R.FAB.RESEND.width ((s.lane x).get R.FAB.RESEND) 1) ∧
      (j.voted = none → (s.lane x).stopFrame j ≤ (s.lane x).fno →
        ∃ t k, exec (.epochStop n) s = .next t ∧ LanesOnly s t ∧ (t.lane x).epochOf n = some k ∧ k.voted = some ((s.lane x).fno, 3)) ∧
      (j.voted.isSome = true → RegGives (.epochStop n) s x (s.lane x)) ∧
      (∀ c, (s.lane x).isCoordinator md = true → j.n ∉ (s.lane x).slv.decided → (s.lane x).verdictOf md j = some c →
        ∃ t, exec (.decisionDeadline n) s = .next t ∧ LanesOnly s t ∧ j.n ∈ (t.lane x).slv.decided ∧
          ∀ v ∈ (t.lane x).slv.votes, v.epoch ≠ j.n)

/-- 13_heat_metering_pulses.md R303, 21_field_ports.md R464, 19_queues.md R429, 10_cyclic_programs.md R248, R252,
15_patina_recorder.md R352, 17_security.md R385, R398, 20_rogon_fabric.md R442, R443: each wait of a running lane that
ends in this command has its effect when its time has passed. -/
def Obligations.WaitsEnd : Prop :=
  ∀ (s : State) (x : LaneId), (s.lane x).running = true →
    let l := s.lane x
    (300 ≤ l.heat.sinceRtd → ∃ t, exec .rtdStale s = .next t ∧ LanesOnly s t ∧
      ∀ i, i < l.heat.hps.length → (l.heat.hpCfg.getD i {}).on = true → ((t.lane x).heat.hps.getD i {}).tstale = true) ∧
    (l.heat.sinceRtd < 300 → RegGives .rtdStale s x l) ∧
    (∀ n st, l.station n = some st → st.proto = 4 → st.good = true → (∀ f, st.lastAt = some f → f + st.tout < l.fno) →
      ∃ t st', exec (.telegramStationStale n) s = .next t ∧ LanesOnly s t ∧ (t.lane x).station n = some st' ∧ st'.good = false) ∧
    (∀ n, (∃ i ∈ (l.queue n).items, i.isOpen = true ∧ (l.queue n).rto ≤ i.idle) →
      ∃ t, exec (.queueStrandedTail n) s = .next t ∧ LanesOnly s t ∧
        (n < l.queues.length → ((t.lane x).queue n).strand = satAdd 32 (l.queue n).strand 1 ∧
          ∀ i ∈ ((t.lane x).queue n).items, ¬(i.isOpen = true ∧ (l.queue n).rto ≤ i.idle)) ∧ (t.lane x).on R.QMG.I_STRAND = true) ∧
    (l.prg.mode = .hold → l.get R.PRG.HOLDTO * 1000 ≤ l.prg.heldFor →
      RegGives .holdTimeout s x (l.prgToStop.irq R.PRG.I_HOLDTO)) ∧
    (0 < l.get R.FRC.FTO → (∃ p ∈ l.prg.forces, p.2.fno + l.get R.FRC.FTO * 60000 ≤ l.fno) →
      ∃ t, exec .forceTimeout s = .next t ∧ LanesOnly s t ∧
        (t.lane x).prg.forces = l.prg.forces.filter fun p => !decide (p.2.fno + l.get R.FRC.FTO * 60000 ≤ l.fno)) ∧
    (∀ q, l.pat.summary = some q → q.count ≤ q.taken → l.engineRuns 0 = true →
      ∃ t, exec .summaryComplete s = .next t ∧ LanesOnly s t ∧ (t.lane x).pat.summary = none ∧ (t.lane x).on R.PAT.SUMV = true ∧
        (t.lane x).get R.PAT.SUMFNO = l.fno % 2 ^ 32 ∧ (t.lane x).on R.PAT.I_SUMDONE = true) ∧
    (∀ st, l.sec.staging = some st → st.fno + 600000 ≤ l.fno →
      RegGives .stagingExpiry s x ((l.clearStaging.post 0x2A49).irq R.HMK.I_STGEXP)) ∧
    (l.sec.ustate = .verifying → l.sec.since + 60000 ≤ l.fno →
      ∃ t, exec .verificationTimeout s = .next t ∧ LanesOnly s t ∧ (t.lane x).sec.ustate = .staging ∧
        (t.lane x).get R.LCS.UPDERR = 0x2C44) ∧
    (l.sec.ustate = .promoting → l.sec.since + 1000 ≤ l.fno ∨ l.on R.NVS.UNAVAIL = true → l.restart = none →
      ∃ t, exec .promotionAbandon s = .next t ∧ LanesOnly s t ∧ (t.lane x).sec.ustate = .promoting ∧
        (t.lane x).restart = some { cold := false, trig := 6, reason := 0 }) ∧
    (∀ n f, n < 4 → n < l.fab.links.length → (l.link n).adj = true → (l.link n).helloAt = some f → f + 400 ≤ l.fno →
      ∃ t, exec (.adjacencyTimeout n) s = .next t ∧ LanesOnly s t ∧ ((t.lane x).link n).adj = false ∧
        (t.lane x).on R.FAB.I_ADJCHG = true ∧ (t.lane x).fab.lsaDue = true) ∧
    (∃ t, exec .lsaAgeOut s = .next t ∧ LanesOnly s t ∧
      (t.lane x).fab.db = l.fab.db.filter fun e => decide (l.fno < e.refreshed + 120000))

/-- 16_time.md R357, R368 to R373: calendar shadows of engines are frozen, released and time out on both lanes; on the
owner's E2 a message of another port, transport, domain or mechanism is ignored, a two-step Sync of the selected master
waits for its Follow_Up with its receive stamp less the delay of Table TIM-3, a master sends Sync with the next sequence
number, a lost master leaves the port MASTER or LISTENING, a transmit stamp completes its message, that of a Sync with its
Follow_Up; the servo's timers move SYNC. The PTP protocol is presumed from its standard and E2 takes stamps at once, the
model's choices (assumption logs 16 and 78). -/
def Obligations.TimeServiceEvents : Prop :=
  ∀ (s : State),
    (∀ (x : LaneId) (n : Nat), n < 8 → (s.lane x).running = true →
      (let fresh : CalShadow := { reader := n, calw1 := (s.lane x).getW R.RTC.CALW1, calsec := (s.lane x).getW R.RTC.CALSEC }
       let others := (s.lane x).time.shadows.filter fun y => y.reader != n
       RegGives (.calendarShadowFreeze n) s x { s.lane x with time := { (s.lane x).time with shadows := others ++ [fresh] } } ∧
       RegGives (.calendarShadowRelease n) s x { s.lane x with time := { (s.lane x).time with shadows := others } } ∧
       ∀ sh, (s.lane x).shadow n = some sh → 1000 ≤ sh.age →
         RegGives (.calendarShadowTimeout n) s x { s.lane x with time := { (s.lane x).time with shadows := others } })) ∧
    (∀ l, s.ptpLane = some l →
      (∀ m : PtpMsg, m.port ≠ l.get R.PTP.PORT ∨ m.l2 ≠ (l.get R.PTP.PROFILE != 1) ∨ m.domain ≠ l.get R.PTP.DOMAIN →
        exec (.ptpMessage m) s = .next s) ∧
      (∀ m seq origin corr, l.ptpTakes m = true → m.body = .sync seq true origin corr →
        let rx : Int := s.hub.clk.at m.enters - (if s.hub.ports.ethLink.getD m.port 0 = 1 then 348 else 212)
        ((∃ ds, l.ptp.best = some (m.sender, ds)) → exec (.ptpMessage m) s =
          .next (s.setLane l.id { l with ptp := { l.ptp with sync := seq, t2 := some (rx - corr), t1 := none } })) ∧
        ((∀ ds, l.ptp.best ≠ some (m.sender, ds)) → exec (.ptpMessage m) s = .next (s.setLane l.id l))) ∧
      (l.ptp.state = .master →
        let n := (l.ptp.seqSync + 1) % 65536
        exec (.ptpMessageInterval .sync) s = .next (((s.setLane l.id { l with ptp := { l.ptp with
          seqSync := n, nextId := (l.ptp.nextId + 1) % 256
          pending := l.ptp.pending ++ [(l.ptp.nextId, 0, n, 0)] } })).setHub fun h =>
            h.sent (.ptp { l.ptpOut 0 n with interval := l.getI R.PTP.LOGSYNC }))) ∧
      (l.ptp.state ≠ .master → exec (.ptpMessageInterval .sync) s = .next s) ∧
      ∃ t, exec .announceReceiptTimeout s = .next t ∧ (t.lane l.id).ptp.best = none ∧ t.hub = s.hub ∧
        (t.lane l.id).ptp.state = if l.masterCapable then .master else .listening) ∧
    (∀ l port ident ns, s.server = some l → port < 4 → ident < 256 → l.engineRuns 2 = true → l.tsq = [] →
      (∀ kind seq dest, l.ptp.pending = [(ident, kind, seq, dest)] →
        let stamp : Int := s.hub.clk.at ns + (if s.hub.ports.ethLink.getD port 0 = 1 then 296 else 168)
        ∃ t, exec (.txTimestamp port ident ns) s = .next t ∧ (t.lane l.id).tsq = [] ∧ (t.lane l.id).ptp.pending = [] ∧
          (kind = 0 → t.hub = s.hub.sent (.ptp { l.ptpOut 8 seq with time := stamp, interval := l.getI R.PTP.LOGSYNC }))) ∧
      (l.ptp.pending = [] → ∃ t, exec (.txTimestamp port ident ns) s = .next t ∧ (t.lane l.id).tsq = [] ∧
        (t.lane l.id).get R.TSQ.STALECNT = satAdd R.TSQ.STALECNT.width (l.get R.TSQ.STALECNT) 1)) ∧
    ∀ l, s.active = some l →
      let c := s.hub.clk
      ((servoCfg l).smpTo ≤ c.sinceSample →
        (c.sync = .locked → ∃ t, exec .sampleTimeout s = .next t ∧ t.hub.clk.sync = .holdover ∧ t.hub.clk.ns = c.ns ∧ HubOnly s t) ∧
        (c.sync = .acquire → ∃ t, exec .sampleTimeout s = .next t ∧ t.hub.clk.sync = .free ∧ t.hub.clk.ns = c.ns ∧ HubOnly s t)) ∧
      (c.sync = .holdover → (servoCfg l).hoTime * 1000 ≤ c.holdFor →
        exec .holdoverTimeout s = .next { s with hub := { s.hub with clk := { c with sync := .free, holdFor := 0 } } })

/-- 21_field_ports.md R454 to R458, R466 to R469, 17_security.md R404: ETH ports answer ARP and echo requests, take a
datagram to their own address within the MTU for a service, drop what belongs to none and follow their links; request
timers that are due end with their outcome; RS-485 ADUs are checked, and are the response awaited, a late one, which counts,
or unsolicited; connections are opened and accepted, with TLS only where the peer's certificate is good, and closed, and the
IEC 104 timers act. Units the spec names by standard alone and the instant of a
request timer are the model's choices (assumption logs 26 and 75). -/
def Obligations.PortEvents : Prop :=
  ∀ (s : State) (l : Lane) (n : Nat) (tm : Int),
    (s.server = some l → n < 4 → l.enabled (0x38 + n) = true → s.hub.linkUp n = true →
      exec (.ethernetFrameReceive n tm .arp) s = .next (s.setHub fun h => h.sent (.reply n false)) ∧
      exec (.ethernetFrameReceive n tm .icmpEcho) s = .next (s.setHub fun h => h.sent (.reply n true)) ∧
      exec (.ethernetFrameReceive n tm .other) s = .next (onLanes (fun m => m.inc (R.ETH.RXDROP.inst n)) s) ∧
      (∀ data, l.udpTakes n data = true →
        exec (.ethernetFrameReceive n tm (.udp data)) s = .next (s.setHub fun h => h.portArrival (0x10 + n) tm (.unit 0xFFFF data))) ∧
      (∀ data, 1500 < data.length ∨ (∀ e, l.ports.eth[n]? = some e → u32At data 16 ≠ e.ip.toNat) ∨ l.udpTakes n data = false →
        exec (.ethernetFrameReceive n tm (.udp data)) s = .next (onLanes (fun m => m.inc (R.ETH.RXDROP.inst n)) s)) ∧
      (∀ num ss, s.hub.session num = some ss → ss.port = n →
        exec (.ethernetFrameReceive n tm (.tcpClose 4 num)) s = exec (.sessionClose num) s) ∧
      ∀ svc num c, svc ≠ 4 → s.hub.conn svc num = some c → c.port = n →
        exec (.ethernetFrameReceive n tm (.tcpClose svc num)) s = .next (s.setHub fun h => h.setPorts fun p =>
          { p with conns := p.conns.filter fun y => !(y.svc == svc && y.num == num) })) ∧
    (n < 4 → s.hub.running = true →
      (∀ speed, 1 ≤ speed → speed ≤ 2 → s.pwr.clkFail.getLsbD 10 = false → s.hub.ports.ethLink.getD n 0 ≠ speed →
        n < s.hub.ports.ethLink.length →
          ∃ t, exec (.ethernetLinkChange n speed) s = .next t ∧ t.hub.ports.ethLink.getD n 0 = speed ∧ t.pwr.clkFail.getLsbD (11 + n) = false) ∧
      (s.hub.linkUp n = true → ∃ t, exec (.ethernetLinkChange n 0) s = .next t ∧ t.hub.linkUp n = false ∧
        (∀ c ∈ t.hub.ports.conns, c.port ≠ n) ∧ ∀ c ∈ t.hub.ports.sessions, c.port ≠ n)) ∧
    (∀ q : ReqTimer, s.active = some l → n < 4 → q.due ≤ s.hub.upFrames → s.hub.ports.txq = [] → s.hub.ports.timers = [q] →
      (q.src = 0x1C + n → q.code = 1 →
        exec (.portRequestTimeout (0x1C + n) q.stn) s = .next (s.setHub fun h =>
          (h.setPorts fun p => { p with timers := [], late := (0x1C + n) :: p.late }).portArrival (0x1C + n) 750000 (.outcome q.stn 1))) ∧
      (q.src = 0x1C + n → q.code ≠ 1 →
        exec (.portRequestTimeout (0x1C + n) q.stn) s = .next (s.setHub fun h =>
          (h.setPorts fun p => { p with timers := [] }).portArrival (0x1C + n) 750000 (.outcome q.stn q.code))) ∧
      (q.src = 0x18 + n →
        exec (.canReceiveTimeout n q.stn) s = .next (s.setHub fun h =>
          (h.setPorts fun p => { p with timers := [] }).portArrival (0x18 + n) 750000 (.outcome q.stn q.code)))) ∧
    (∀ data, s.active = some l → n < 4 → s.hub.running = true → l.enabled (0x48 + n) = true →
      (256 < data.length → exec (.rs485AduEnd n tm data) s = .next (onLanes (fun m => m.inc (R.SER.OVRUN.inst n)) s)) ∧
      (2 ≤ data.length → data.length ≤ 256 → u16At data (data.length - 2) ≠ crc16Modbus (data.take (data.length - 2)) →
        exec (.rs485AduEnd n tm data) s = .next (onLanes (fun m => m.inc (R.SER.CRCERR.inst n)) s)) ∧
      (2 ≤ data.length → data.length ≤ 256 → u16At data (data.length - 2) = crc16Modbus (data.take (data.length - 2)) →
        s.hub.ports.txq = [] →
          (∀ q, s.hub.ports.timers = [q] → q.src = 0x1C + n → q.code = 1 → exec (.rs485AduEnd n tm data) s =
            .next (s.setHub fun h => (h.setPorts fun p => { p with timers := [] }).portArrival (0x1C + n) tm (.unit q.stn data))) ∧
          ((∀ q ∈ s.hub.ports.timers, ¬(q.src = 0x1C + n ∧ q.code = 1)) →
            (0x1C + n ∈ s.hub.ports.late → exec (.rs485AduEnd n tm data) s =
              .next (onLanes (fun m => (m.inc (R.SER.TOUT.inst n)).irq (R.SER.I_TOUT.inst n)) (s.setHub fun h =>
                h.setPorts fun p => { p with late := p.late.filter (· != 0x1C + n) }))) ∧
            (0x1C + n ∉ s.hub.ports.late → exec (.rs485AduEnd n tm data) s =
              .next (s.setHub fun h => h.portArrival (0x1C + n) tm (.unit 0xFFFF data)))))) ∧
    (∀ num st reply, s.server = some l → l.tcpStation num = some st → s.hub.mayConnect num st = true →
      ∃ t, exec (.modbusConnect num reply) s = .next t ∧ HubOnly s t ∧
        (t.hub.conn 1 num).isSome =
          (reply.up && (!st.tls || (reply.cert.offer.version == 0x0304 && l.ownerCert reply.cert))) ∧
        (st.addr, connPort st, s.hub.upFrames) ∈ t.hub.ports.tried) ∧
    (∀ num svc tls cert, s.server = some l → n < 4 → num < iecBroadcast → l.enabled (0x38 + n) = true → s.hub.linkUp n = true →
      l.serves n svc tls = true → s.hub.conn svc num = none →
      s.hub.ports.conns.countP (fun c => c.svc == svc) < (if svc = 2 then 8 else 4) →
        (tls = false ∨ (cert.offer.version = 0x0304 ∧ l.ownerCert cert = true) →
          exec (.serverConnectionAccept num svc n tls cert) s = .next (s.setHub fun h => h.setPorts fun p =>
            { p with conns := p.conns ++ [{ num, svc, port := n, addr := 0, tls, operate := tls && cert.role != .view }] })) ∧
        (tls = true → cert.offer.version ≠ 0x0304 ∨ l.ownerCert cert = false →
          exec (.serverConnectionAccept num svc n tls cert) s = .next s)) ∧
    ∀ num c, s.hub.conn 3 num = some c →
      (0 < c.outstanding → exec (.iec104TimerExpiry num 1) s = .next (s.setHub fun h => h.setPorts fun p =>
        { p with conns := p.conns.filter fun y => !(y.svc == 3 && y.num == num) })) ∧
      (c.outstanding = 0 → c.testSent = false → exec (.iec104TimerExpiry num 1) s = .next s) ∧
      ∃ t, exec (.iec104TimerExpiry num 3) s = .next t ∧ HubOnly s t ∧ (t.hub.conn 3 num).map (·.testSent) = some true

/-- 21_field_ports.md R471 to R473, 20_rogon_fabric.md R433, R436, R438, R445, 23_physical.md R499: bus-off, which drops the
frames in the transmit buffers, and its recovery, autobaud with its 200 frames a rate and its two error-free frames,
overcurrent, re-power and collisions of M-Bus, modules and cages of the fabric links, and the frames these receive and
forward. What shows a collision is the model's choice (assumption log 83). -/
def Obligations.CanMbusAndFabricLinks : Prop :=
  ∀ (s : State) (l : Lane) (n : Nat), s.hub.running = true → s.active = some l →
    (n < 4 → n < s.hub.ports.can.length → l.enabled (0x44 + n) = true →
      let c := s.hub.can n
      let becomes (d : CanPort) : State := s.setHub fun h =>
        (h.setPorts fun p => { p with can := p.can.set n d }).portArrival (0x18 + n) 0 (canStatus d)
      (c.mode ≠ 0 → c.stopped = false → c.state < 2 →
        let off : State := becomes { c with state := 2, txc := 256 }
        exec (.canBusOff n) s = .next (off.setHub fun h =>
          c.tx.foldl (fun (h : Hub) stn => h.portArrival (0x18 + n) 0 (.outcome stn 3))
            (h.setPorts fun p => { p with can := p.can.set n { c with state := 2, txc := 256, tx := [] } }))) ∧
      (c.state = 3 → exec (.canRecoveryComplete n) s = .next (becomes { c with state := 0, txc := 0, rxc := 0 })) ∧
      (c.mode = 3 → c.abLock = none →
        (2 ≤ c.abGood → exec (.autobaudLock n) s = .next (becomes { c with abLock := some (c.abRate, 0) })) ∧
        (c.abGood < 2 → exec (.autobaudLock n) s = .next s) ∧
        (c.abSince + 200 ≤ s.hub.upFrames →
          exec (.autobaudRateSwitch n) s = .next (s.setHub fun h => h.setPorts fun p => { p with can := p.can.set n { c with
            abSince := s.hub.upFrames, abGood := 0
            abRate := if c.abRate = 1000 then 500 else if c.abRate = 500 then 250 else if c.abRate = 250 then 125 else 1000 } })) ∧
        (s.hub.upFrames < c.abSince + 200 → exec (.autobaudRateSwitch n) s = .next s))) ∧
    (n < 2 → n < s.hub.ports.mb.length → l.enabled (0x4C + n) = true →
      let m := s.hub.mb n
      let becomes (d : MbusPort) : State := s.setHub fun h =>
        (h.setPorts fun p => { p with mb := p.mb.set n d }).portArrival (0x20 + n) 0 (.status (.mbus d.on d.ovc d.ibus))
      (∀ i, m.on = true → exec (.mbusOvercurrent n i) s =
        .next (becomes { m with on := false, ovc := true, ibus := min i 65535, trip := s.hub.upFrames })) ∧
      (let ts := m.repower.filter fun t => decide (s.hub.upFrames < t + 3600000)
       m.ovc = true → m.on = false → m.trip + 10000 ≤ s.hub.upFrames → ts.length < 3 →
         exec (.mbusRepower n) s = .next (becomes { m with on := true, ovc := false, repower := s.hub.upFrames :: ts })) ∧
      ∀ stn data, mbusAnswer data = false → exec (.arrivalComplete (0x20 + n) 0 (.port (.unit stn data))) s =
        .next ((onLanes (fun k => (k.inc (R.MB.COLL.inst n)).irq (R.MB.I_COLL.inst n)) s).pumpAt 0)) ∧
    (n < s.hub.ports.links.length →
      let k := s.hub.ports.links.getD n {}
      let becomes (j : HubLink) : State := s.setHub fun h => h.setPorts fun p => { p with links := p.links.set n j }
      (∀ trip sfp block, trip = false ∨ k.pwr = false →
        exec (.linkStateChange n ⟨trip, sfp⟩ block) s = .next (becomes { k with sfp, block := block && sfp }).egDown) ∧
      (∀ sfp block, k.pwr = true → exec (.linkStateChange n ⟨true, sfp⟩ block) s =
        .next (becomes { k with sfp, block := false, pwr := false, trip := some s.hub.upFrames }).egDown) ∧
      ∀ at_, k.trip = some at_ → l.reduced = false →
        (at_ + 1000 ≤ s.hub.upFrames → exec (.sfpCageRetry n) s = .next (becomes { k with pwr := true, trip := none })) ∧
        (s.hub.upFrames < at_ + 1000 → exec (.sfpCageRetry n) s = .next s)) ∧
    ∀ (stamp : Int) (data : List Byte), n < 4 → (s.linkBits n).getLsbD 3 = true →
      let hop : Prop := 52 ≤ data.length ∧ u32At data (data.length - 4) = (crc32c (data.take (data.length - 4))).toNat
      (¬hop → exec (.fabricFrameReceive n stamp data) s = .next (onLanes (fun m => m.inc (R.FL.BLKERR.inst n)) s)) ∧
      (hop →
        ((readFab data).dst = l.modId ∨ 0xFF0 ≤ (readFab data).dst → exec (.fabricFrameReceive n stamp data) s =
          .next (s.setHub fun h => h.portArrival (if (readFab data).typ = 6 then 0x05 else 0x14 + n) (stamp - h.clk.at 0) (.fabFrame stamp data))) ∧
        ((readFab data).dst ≠ l.modId → (readFab data).dst < 0xFF0 →
          (u8At data 2 ≤ 1 → exec (.fabricFrameReceive n stamp data) s = .next (onLanes (fun m => m.inc R.FAB.HOPDROP) s)) ∧
          (1 < u8At data 2 → (∀ q ∈ s.hub.ports.routes, q.dst ≠ (readFab data).dst) →
            exec (.fabricFrameReceive n stamp data) s = .next (onLanes (fun m => m.inc R.FAB.NOROUTE) s)) ∧
          (∀ q, 1 < u8At data 2 → (s.hub.ports.routes.find? fun q => q.dst == (readFab data).dst) = some q →
            exec (.fabricFrameReceive n stamp data) s = .next
              ((onLanes (fun m => m.inc R.FAB.FWDCNT) s).egress q.link (stamp - s.hub.clk.at 0) (nextHop data)))))

/-- 22_display.md R477 to R488: a finished render waits for the vertical blank, which shows it; a refresh with the
right CRC clears the alarm, none where the pixel clock has failed (03_power_clocks_start.md R70); a picture too old is stale; the panel follows its enables; a rail fault takes it down and
locks it out at the third; a retry powers it again after 1 s; a string fault is marked. Pixels of unpainted memory,
glyphs and lines are free values, and the controller keeps its settings, the model's choices (assumption logs 9 and
122). -/
def Obligations.PanelAndDisplay : Prop :=
  ∀ (s : State) (l : Lane) (x : LaneId), s.active = some l → s.activeId = some x →
    let d := s.hub.disp
    (∀ ws v, d.render = some ws → parseList ws.length 0 ws = .ok v →
      exec .renderComplete s = .next { s with hub := { s.hub with disp := { d with
        render := none, back := paintWords d.back ws, ready := some (imageCrc l.dispCfg (paintWords d.back ws)), dlbad := false
        last := some (ws, s.hub.upFrames), cfg := l.dispCfg } } }) ∧
    (∀ ws o, d.render = some ws → parseList ws.length 0 ws = .error o → ∃ t, exec .renderComplete s = .next t ∧
      t.hub.disp.dlbad = true ∧ t.hub.disp.dlrej = satAdd 16 d.dlrej 1 ∧ t.hub.disp.back = d.back ∧ t.hub.disp.ready = d.ready) ∧
    (∀ c, d.on = true → d.ready = some c → ∃ t, exec .verticalBlank s = .next t ∧ HubOnly s t ∧ t.hub.disp.front = d.back ∧
      t.hub.disp.frontCrc = some c ∧ t.hub.disp.ready = none ∧ t.hub.disp.swaps = satAdd 32 d.swaps 1 ∧ t.hub.disp.stale = false) ∧
    (d.on = false → exec .verticalBlank s = .next s) ∧
    (∀ crc, d.on = false ∨ s.pwr.clkFail.getLsbD 17 = true → exec (.refreshCrcCheck crc) s = .next s) ∧
    (∀ crc, d.on = true → d.frontCrc = some crc → s.pwr.clkFail.getLsbD 17 = false →
      ∃ t, exec (.refreshCrcCheck crc) s = .next t ∧ HubOnly s t ∧
      t.hub.disp.lastCrc = crc ∧ t.hub.disp.crcErrRun = 0 ∧ t.hub.disp.crcalm = false ∧ t.hub.disp.blanked = false) ∧
    (∀ crc e, d.on = true → d.frontCrc = some e → crc ≠ e → s.pwr.clkFail.getLsbD 17 = false → ∃ t, exec (.refreshCrcCheck crc) s = .next t ∧
      t.hub.disp.crcErrRun = d.crcErrRun + 1 ∧ t.hub.disp.crcErr = satAdd 32 d.crcErr 1 ∧
      (d.set.crcmax ≤ d.crcErrRun + 1 → t.hub.disp.crcalm = true)) ∧
    (d.on = true → d.stale = false → d.swapAt + d.set.stalems ≤ s.hub.upFrames →
      exec .displayStale s = .next (onLanes (fun m => m.irq R.DSP.I_STALE) { s with hub := { s.hub with disp := { d with stale := true } } })) ∧
    (panelWanted s = true → d.on = false → ∃ t, exec .panelPowerUp s = .next t ∧ t.hub.disp.on = true ∧
      t.hub.disp.backlight = (!d.blanked) ∧ t.hub.disp.vcom = d.set.vcom) ∧
    (panelWanted s = false → d.on = true → ∃ t, exec .panelPowerDown s = .next t ∧ t.hub.disp.on = false ∧
      t.hub.disp.backlight = false ∧ t.hub.disp.vcom = 0) ∧
    (∀ rail, d.on = true → rail ≤ 3 → ∃ t, exec (.railFault rail) s = .next t ∧ t.hub.disp.on = false ∧ t.hub.disp.rflt = true ∧
      t.hub.disp.rfrail = rail ∧ t.hub.disp.lockout = decide (3 ≤ d.tries.countP fun n => decide (s.hub.upFrames < n + 3600000))) ∧
    (d.rflt = true → d.lockout = false → d.faultAt + 1000 ≤ s.hub.upFrames →
      (d.tries.countP fun n => decide (s.hub.upFrames < n + 3600000)) < 3 →
        ∃ t, exec .railRetry s = .next t ∧ t.hub.disp.rflt = false ∧ t.hub.disp.tries = s.hub.upFrames :: d.tries.take 3) ∧
    (d.rflt = true → d.lockout = true → exec .railRetry s = .next s) ∧
    ∀ n, n ≤ 3 → d.lit s.hub.upFrames = true → d.set.blen.testBit n = true → (d.blopen ||| d.blshort).getLsbD n = false →
      (∃ t, exec (.backlightStringFault n true) s = .next t ∧ t.hub.disp.blshort.getLsbD n = true ∧ t.hub.disp.blopen = d.blopen) ∧
      ∃ t, exec (.backlightStringFault n false) s = .next t ∧ t.hub.disp.blopen.getLsbD n = true ∧ t.hub.disp.blshort = d.blshort

/-! ### Enesque instructions (11_enesque_instructions.md)

That a row executes in the executor's running task, in mode RUN, is the model's choice (assumption log 51). -/

/-- R265, LD to XOR and NOT: BA from BA and the bit operand `b`; nothing else of the task but PC changes. -/
def Obligations.EnqBitLogicSetsBa : Prop :=
  ∀ (s : State) (x : LaneId) (e : Exec45) (n : Nat) (area : BitVec 4) (addr : BitVec 20) (b : Bool),
    Executes s x e n → (enqEnv s e n).readBit (s.lane x) area.toNat addr.toNat = .ok b →
      EnqSets (.enqLd e area addr) s x e n 2 (fun c => { c with ba := b }) ∧
      EnqSets (.enqLdn e area addr) s x e n 2 (fun c => { c with ba := !b }) ∧
      EnqSets (.enqAnd e area addr) s x e n 2 (fun c => { c with ba := c.ba && b }) ∧
      EnqSets (.enqAndn e area addr) s x e n 2 (fun c => { c with ba := c.ba && !b }) ∧
      EnqSets (.enqOr e area addr) s x e n 2 (fun c => { c with ba := c.ba || b }) ∧
      EnqSets (.enqOrn e area addr) s x e n 2 (fun c => { c with ba := c.ba || !b }) ∧
      EnqSets (.enqXor e area addr) s x e n 2 (fun c => { c with ba := c.ba != b }) ∧
      EnqSets (.enqNot e 0 0) s x e n 1 (fun c => { c with ba := !c.ba })

/-- R265, ST, STN, SET, RST, RE and FE: `l` is the lane with the bit operand written as the instruction says; BA
follows. `b` is the operand before. SET and RST write only where BA is 1. -/
def Obligations.EnqBitStoresWriteOperand : Prop :=
  ∀ (s : State) (x : LaneId) (e : Exec45) (n : Nat) (area : BitVec 4) (addr : BitVec 20) (a b : Bool) (l : Lane),
    Executes s x e n → (s.ctxOf x n).ba = a →
    (enqEnv s e n).readBit (s.lane x) area.toNat addr.toNat = .ok b →
      let written (v : Bool) : Prop := (enqEnv s e n).writeBit (s.pcOn x n) area.toNat addr.toNat v = .ok l
      (written a → EnqGives (.enqSt e area addr) s x e n 3 (l.setBa n a)) ∧
      (written (!a) → EnqGives (.enqStn e area addr) s x e n 3 (l.setBa n a)) ∧
      (written true → EnqGives (.enqSet e area addr) s x e n 3 (if a then l else s.pcOn x n)) ∧
      (written false → EnqGives (.enqRst e area addr) s x e n 3 (if a then l else s.pcOn x n)) ∧
      (written a → EnqGives (.enqRe e area addr) s x e n 3 (l.setBa n (a && !b))) ∧
      (written a → EnqGives (.enqFe e area addr) s x e n 3 (l.setBa n (!a && b)))

/-- R260, R265, the nesting stack: AND( and its kin push the pending operation with BA; PUSHW pushes WA; a closing
parenthesis and POPW pop and combine; CALL pushes the return address and RET takes it back. -/
def Obligations.EnqStackPushesAndPops : Prop :=
  ∀ (s : State) (x : LaneId) (e : Exec45) (n : Nat), Executes s x e n →
    (∀ (area : BitVec 4) (addr : BitVec 20) (b : Bool), (s.ctxOf x n).stk.length < 16 →
      (enqEnv s e n).readBit (s.lane x) area.toNat addr.toNat = .ok b →
        EnqSets (.enqAndOpen e area addr) s x e n 3 (fun c => { c with stk := .bit 0x10 c.ba :: c.stk, ba := b }) ∧
        EnqSets (.enqOrOpen e area addr) s x e n 3 (fun c => { c with stk := .bit 0x11 c.ba :: c.stk, ba := b }) ∧
        EnqSets (.enqXorOpen e area addr) s x e n 3 (fun c => { c with stk := .bit 0x12 c.ba :: c.stk, ba := b }) ∧
        EnqSets (.enqAndnOpen e area addr) s x e n 3 (fun c => { c with stk := .bit 0x13 c.ba :: c.stk, ba := b })) ∧
    (∀ (op : Nat) (v : Bool) (rest : List StkEntry), (s.ctxOf x n).stk = .bit op v :: rest →
      EnqSets (.enqCloseParen e 0 0) s x e n 3 (fun c => { c with
        stk := rest
        ba := if op = 0x10 then v && c.ba else if op = 0x11 then v || c.ba else if op = 0x12 then v != c.ba else v && !c.ba })) ∧
    ((s.ctxOf x n).stk.length < 16 →
      EnqSets (.enqPushw e 0 0) s x e n 3 (fun c => { c with stk := .word c.wa :: c.stk })) ∧
    (∀ (w r : Word) (rest : List StkEntry) (op : BitVec 20) (cost : Nat) (f : Word → Word → Except Nat Word),
      (s.ctxOf x n).stk = .word w :: rest → popOp op.toNat = some (cost, f) → f w (s.ctxOf x n).wa = .ok r →
        EnqSets (.enqPopw e 0 op) s x e n (cost + 2) (fun c => { c with stk := rest, wa := r })) ∧
    (∀ (a : Nat) (rest : List StkEntry), (s.ctxOf x n).stk = .ret a :: rest →
      EnqSets (.enqRet e 0 0) s x e n 4 (fun c => { c with stk := rest, pc := a }))

/-- R265, the moves of words and bytes: LDW, LDHI, LDB, LDX, ADX and SEL set WA or XR and nothing else; STW, STB and
STX write their operand, `l` being the lane with it written. An indexed operand costs one more cycle (R264). -/
def Obligations.EnqMovesCarryWords : Prop :=
  ∀ (s : State) (x : LaneId) (e : Exec45) (n : Nat) (area : BitVec 4) (addr : BitVec 20) (w : Word) (l : Lane),
    Executes s x e n →
      ((enqEnv s e n).readWord (s.lane x) area.toNat addr.toNat = .ok w →
        EnqSets (.enqLdw e area addr) s x e n (2 + indexCost area.toNat) (fun c => { c with wa := w }) ∧
        EnqSets (.enqLdx e area addr) s x e n (2 + indexCost area.toNat) (fun c => { c with xr := w }) ∧
        EnqSets (.enqSel e area addr) s x e n (2 + indexCost area.toNat) (fun c => { c with wa := if c.ba then w else c.wa })) ∧
      ((enqEnv s e n).readByte (s.lane x) area.toNat addr.toNat = .ok w →
        EnqSets (.enqLdb e area addr) s x e n (2 + indexCost area.toNat) (fun c => { c with wa := w })) ∧
      ((enqEnv s e n).writeWord (s.pcOn x n) area.toNat addr.toNat (s.ctxOf x n).wa = .ok l →
        EnqGives (.enqStw e area addr) s x e n (2 + indexCost area.toNat) l) ∧
      ((enqEnv s e n).writeWord (s.pcOn x n) area.toNat addr.toNat (s.ctxOf x n).xr = .ok l →
        EnqGives (.enqStx e area addr) s x e n (2 + indexCost area.toNat) l) ∧
      ((enqEnv s e n).writeByte (s.pcOn x n) area.toNat addr.toNat ((s.ctxOf x n).wa.toNat % 256) = .ok l →
        EnqGives (.enqStb e area addr) s x e n (3 + indexCost area.toNat) l) ∧
      (addr.toNat < 0x10000 →
        EnqSets (.enqLdhi e 0 addr) s x e n 1 (fun c => { c with wa := .ofNat 32 (addr.toNat * 65536) })) ∧
      EnqSets (.enqAdx e 0 addr) s x e n 1 (fun c => { c with xr := c.xr + addr.signExtend 32 })

/-- R265, integer arithmetic on WA and the word operand `w`: modulo 2^32; division truncated toward zero for a divisor
that is not zero; a shift by 32 or more gives 0, or the sign. EQ to GE compare signed values, LTU and GTU unsigned ones, and
write BA alone. -/
def Obligations.EnqIntegerArithmetic : Prop :=
  ∀ (s : State) (x : LaneId) (e : Exec45) (n : Nat) (area : BitVec 4) (addr : BitVec 20) (w : Word),
    Executes s x e n → (enqEnv s e n).readWord (s.lane x) area.toNat addr.toNat = .ok w →
      let i := indexCost area.toNat
      EnqSets (.enqAdd e area addr) s x e n (2 + i) (fun c => { c with wa := c.wa + w }) ∧
      EnqSets (.enqSub e area addr) s x e n (2 + i) (fun c => { c with wa := c.wa - w }) ∧
      EnqSets (.enqMul e area addr) s x e n (3 + i) (fun c => { c with wa := .ofInt 32 (c.wa.toInt * w.toInt) }) ∧
      (w ≠ 0 → EnqSets (.enqDiv e area addr) s x e n (20 + i) (fun c => { c with wa := .ofInt 32 (c.wa.toInt.tdiv w.toInt) })) ∧
      (w ≠ 0 → EnqSets (.enqMod e area addr) s x e n (20 + i) (fun c => { c with wa := .ofInt 32 (c.wa.toInt.tmod w.toInt) })) ∧
      EnqSets (.enqWand e area addr) s x e n (2 + i) (fun c => { c with wa := c.wa &&& w }) ∧
      EnqSets (.enqWor e area addr) s x e n (2 + i) (fun c => { c with wa := c.wa ||| w }) ∧
      EnqSets (.enqWxor e area addr) s x e n (2 + i) (fun c => { c with wa := c.wa ^^^ w }) ∧
      EnqSets (.enqShl e area addr) s x e n (2 + i) (fun c => { c with wa := .ofNat 32 (c.wa.toNat * 2 ^ w.toNat) }) ∧
      EnqSets (.enqShr e area addr) s x e n (2 + i) (fun c => { c with wa := .ofNat 32 (c.wa.toNat / 2 ^ w.toNat) }) ∧
      EnqSets (.enqSar e area addr) s x e n (2 + i) (fun c => { c with wa := .ofInt 32 (c.wa.toInt / 2 ^ w.toNat) }) ∧
      EnqSets (.enqNeg e 0 0) s x e n 1 (fun c => { c with wa := .ofInt 32 (-c.wa.toInt) }) ∧
      EnqSets (.enqEq e area addr) s x e n (2 + i) (fun c => { c with ba := decide (c.wa = w) }) ∧
      EnqSets (.enqNe e area addr) s x e n (2 + i) (fun c => { c with ba := decide (c.wa ≠ w) }) ∧
      EnqSets (.enqLt e area addr) s x e n (2 + i) (fun c => { c with ba := decide (c.wa.toInt < w.toInt) }) ∧
      EnqSets (.enqLe e area addr) s x e n (2 + i) (fun c => { c with ba := decide (c.wa.toInt ≤ w.toInt) }) ∧
      EnqSets (.enqGt e area addr) s x e n (2 + i) (fun c => { c with ba := decide (w.toInt < c.wa.toInt) }) ∧
      EnqSets (.enqGe e area addr) s x e n (2 + i) (fun c => { c with ba := decide (w.toInt ≤ c.wa.toInt) }) ∧
      EnqSets (.enqLtu e area addr) s x e n (2 + i) (fun c => { c with ba := decide (c.wa.toNat < w.toNat) }) ∧
      EnqSets (.enqGtu e area addr) s x e n (2 + i) (fun c => { c with ba := decide (w.toNat < c.wa.toNat) })

/-- R265, binary32: arithmetic and comparisons with the word operand `w` by the operations of 00_scope.md R12; FABS and
FNEG act on bit 31 alone; FLIM clamps between the operand and the word after it. -/
def Obligations.EnqFloatingPoint : Prop :=
  ∀ (s : State) (x : LaneId) (e : Exec45) (n : Nat) (area : BitVec 4) (addr : BitVec 20) (w hi : Word),
    Executes s x e n → (enqEnv s e n).readWord (s.lane x) area.toNat addr.toNat = .ok w →
      let i := indexCost area.toNat
      EnqSets (.enqFadd e area addr) s x e n (4 + i) (fun c => { c with wa := F32.add c.wa w }) ∧
      EnqSets (.enqFsub e area addr) s x e n (4 + i) (fun c => { c with wa := F32.sub c.wa w }) ∧
      EnqSets (.enqFmul e area addr) s x e n (4 + i) (fun c => { c with wa := F32.mul c.wa w }) ∧
      EnqSets (.enqFdiv e area addr) s x e n (16 + i) (fun c => { c with wa := F32.div c.wa w }) ∧
      EnqSets (.enqFmin e area addr) s x e n (4 + i) (fun c => { c with wa := F32.min c.wa w }) ∧
      EnqSets (.enqFmax e area addr) s x e n (4 + i) (fun c => { c with wa := F32.max c.wa w }) ∧
      (area.toNat ≠ 0 → (enqEnv s e n).wordAt (s.lane x) area.toNat ((enqEnv s e n).effective (s.lane x) area.toNat addr.toNat + 1) = .ok hi →
        EnqSets (.enqFlim e area addr) s x e n (6 + i) (fun c => { c with wa := F32.min (F32.max c.wa w) hi })) ∧
      EnqSets (.enqFeq e area addr) s x e n (4 + i) (fun c => { c with ba := F32.eq c.wa w }) ∧
      EnqSets (.enqFlt e area addr) s x e n (4 + i) (fun c => { c with ba := F32.lt c.wa w }) ∧
      EnqSets (.enqFle e area addr) s x e n (4 + i) (fun c => { c with ba := F32.le c.wa w }) ∧
      EnqSets (.enqFgt e area addr) s x e n (4 + i) (fun c => { c with ba := F32.lt w c.wa }) ∧
      EnqSets (.enqFge e area addr) s x e n (4 + i) (fun c => { c with ba := F32.le w c.wa }) ∧
      EnqSets (.enqFabs e 0 0) s x e n 1 (fun c => { c with wa := c.wa.setWidth 31 |>.setWidth 32 }) ∧
      EnqSets (.enqFneg e 0 0) s x e n 1 (fun c => { c with wa := c.wa ^^^ 0x80000000 }) ∧
      EnqSets (.enqFsqrt e 0 0) s x e n 20 (fun c => { c with wa := F32.sqrt c.wa })

/-- R265, conversions and elementary functions: I2F, U2F and F2I on WA, F2I rounding half to even, saturated, with 0
for a NaN; FFUN by its selector. -/
def Obligations.EnqConversions : Prop :=
  ∀ (s : State) (x : LaneId) (e : Exec45) (n : Nat), Executes s x e n →
    EnqSets (.enqI2f e 0 0) s x e n 4 (fun c => { c with wa := F32.ofInt c.wa.toInt }) ∧
    EnqSets (.enqU2f e 0 0) s x e n 4 (fun c => { c with wa := F32.ofInt c.wa.toNat }) ∧
    EnqSets (.enqF2i e 0 0) s x e n 4 (fun c => { c with
      wa := match F32.rneI c.wa with
        | some i => .ofInt 32 (max (-(2 ^ 31)) (min (2 ^ 31 - 1) i))
        | none => if F32.isNan c.wa then 0 else if F32.isNeg c.wa then .ofInt 32 (-(2 ^ 31)) else .ofInt 32 (2 ^ 31 - 1) }) ∧
    ∀ (sel : BitVec 20) (f : F32 → F32),
      [F32.exp, F32.ln, F32.log10, F32.sin, F32.cos, F32.tan, F32.atan, F32.floor, roundEven][sel.toNat]? = some f →
        EnqSets (.enqFfun e 0 sel) s x e n 60 (fun c => { c with wa := f c.wa })

/-- R265, control: JMP, JMPC and JMPN go to ADDR where their condition holds; CALL and CALLC also push the address of
the next instruction; NOP does nothing; EVT marks the event task `k` of EVSRC 0 where BA = 1 (R271). -/
def Obligations.EnqControlMovesPc : Prop :=
  ∀ (s : State) (x : LaneId) (e : Exec45) (n : Nat) (addr : BitVec 20), Executes s x e n →
    (addr.toNat < ((s.lane x).exe (exeNo e)).decl.ncode →
      EnqSets (.enqJmp e 0 addr) s x e n 3 (fun c => { c with pc := addr.toNat }) ∧
      EnqSets (.enqJmpc e 0 addr) s x e n 3 (fun c => { c with pc := if c.ba then addr.toNat else c.pc }) ∧
      EnqSets (.enqJmpn e 0 addr) s x e n 3 (fun c => { c with pc := if c.ba then c.pc else addr.toNat }) ∧
      ((s.ctxOf x n).stk.length < 16 →
        EnqSets (.enqCall e 0 addr) s x e n 4 (fun c => { c with stk := .ret c.pc :: c.stk, pc := addr.toNat }) ∧
        EnqSets (.enqCallc e 0 addr) s x e n 4 (fun c =>
          if c.ba then { c with stk := .ret c.pc :: c.stk, pc := addr.toNat } else c))) ∧
    EnqSets (.enqNop e 0 0) s x e n 1 id ∧
    ∀ (area : BitVec 4) (a : BitVec 20) (k : Word), (enqEnv s e n).readWord (s.lane x) area.toNat a.toNat = .ok k →
      k.toNat < 40 → ((s.lane x).task k.toNat).cfg.kind = 2 → ((s.lane x).task k.toNat).cfg.evsrc = 0 →
        EnqGives (.enqEvt e area a) s x e n (6 + indexCost area.toNat)
          (if (s.ctxOf x n).ba then (s.pcOn x n).setTask k.toNat { (s.pcOn x n).task k.toNat with evt := true } else s.pcOn x n)

/-- R239, R265, R272, END with an empty nesting stack: the open items of the executor are closed, the section is charged
2 cycles and copied out, and the executor runs no task; a feed section is then done, a cycle is over. -/
def Obligations.EnqEndClosesSection : Prop :=
  ∀ (s : State) (x : LaneId) (e : Exec45) (n : Nat) (l m : Lane), Executes s x e n → (s.ctxOf x n).stk = [] →
    l = (((s.pcOn x n).closeItems (exeNo e) n).charge (exeNo e) n 2).copyOut n →
    m = l.setExe (exeNo e) { l.exe (exeNo e) with cur := none } →
      EnqGives (.enqEnd e 0 0) s x e n 0
        (if (m.task n).ph = .feed then m.setTask n { m.task n with ph := .feedDone } else m.endCycle n)

/-- R267, the timers: with d frames since its last execution, TON, TOF and TP set ET and Q of timer `addr` from BA and
the input of the last execution, BA becomes Q; TPT sets the preset from WA. -/
def Obligations.EnqTimersRun : Prop :=
  ∀ (s : State) (x : LaneId) (e : Exec45) (n : Nat) (addr : BitVec 20), Executes s x e n →
    addr.toNat < 4096 →
      let l := s.pcOn x n
      let i := (s.ctxOf x n).ba
      let t := (enqEnv s e n).timer l addr.toNat
      let d := min (l.fno - t.lastf) (2 ^ 32 - 1)
      let ran (et : Nat) (q : Bool) : Lane :=
        (l.setExe (exeNo e) { l.exe (exeNo e) with
          timers := kvInsert (l.exe (exeNo e)).timers addr.toNat { t with et, q, inprev := i, lastf := l.fno } }).setBa n q
      (∃ et q, EnqGives (.enqTon e 7 addr) s x e n 10 (ran et q) ∧
        et = (if i && t.inprev then min (t.et + d) t.pt else 0) ∧ q = (i && decide (t.pt ≤ et))) ∧
      (∃ et q, EnqGives (.enqTof e 7 addr) s x e n 10 (ran et q) ∧
        (i = true → et = 0 ∧ q = true) ∧
        (i = false → t.inprev = true → et = 0 ∧ q = (t.q && decide (t.pt ≠ 0))) ∧
        (i = false → t.inprev = false → t.q = true → et = min (t.et + d) t.pt ∧ q = decide (et < t.pt)) ∧
        (i = false → t.inprev = false → t.q = false → et = t.et ∧ q = false)) ∧
      (∃ et q, EnqGives (.enqTp e 7 addr) s x e n 10 (ran et q) ∧
        (t.q = true → et = min (t.et + d) t.pt ∧ q = decide (et < t.pt)) ∧
        (t.q = false → i = true → t.inprev = false → et = 0 ∧ q = decide (0 < t.pt)) ∧
        (t.q = false → i = false → et = 0 ∧ q = false) ∧
        (t.q = false → i = true → t.inprev = true → et = t.et ∧ q = false)) ∧
      EnqGives (.enqTpt e 7 addr) s x e n 4 (l.setExe (exeNo e) { l.exe (exeNo e) with
        timers := kvInsert (l.exe (exeNo e)).timers addr.toNat { t with pt := (s.ctxOf x n).wa.toNat } })

/-- R268, the counters: CTU and CTD count a rise of BA within the range of i32 and give Q in BA; CLD, CRST and CPV load,
clear and preset counter `addr`, with BA as it was. -/
def Obligations.EnqCountersCount : Prop :=
  ∀ (s : State) (x : LaneId) (e : Exec45) (n : Nat) (addr : BitVec 20), Executes s x e n →
    addr.toNat < 4096 →
      let l := s.pcOn x n
      let a := (s.ctxOf x n).ba
      let c := (enqEnv s e n).counter l addr.toNat
      let rise := a && !c.cprev
      let up : Int := if rise then min (c.cv + 1) (2 ^ 31 - 1) else c.cv
      let dn : Int := if rise then max (c.cv - 1) (-(2 ^ 31)) else c.cv
      let holds (r : Counter) (q : Bool) : Lane :=
        (l.setExe (exeNo e) { l.exe (exeNo e) with counters := kvInsert (l.exe (exeNo e)).counters addr.toNat r }).setBa n q
      EnqGives (.enqCtu e 8 addr) s x e n 6 (holds { c with cv := up, down := false, cprev := a } (decide (c.pv ≤ up))) ∧
      EnqGives (.enqCtd e 8 addr) s x e n 6 (holds { c with cv := dn, down := true, cprev := a } (decide (dn ≤ 0))) ∧
      EnqGives (.enqCld e 8 addr) s x e n 4 (holds { c with cv := if a then c.pv else c.cv } a) ∧
      EnqGives (.enqCrst e 8 addr) s x e n 4 (holds { c with cv := if a then 0 else c.cv } a) ∧
      EnqGives (.enqCpv e 8 addr) s x e n 4 (holds { c with pv := (s.ctxOf x n).wa.toInt } a)

/-- R269, the loop instructions on an installed loop `k`: LPV to LST read its state into WA; LPSP, LMAN and LMODE leave
what PB takes up, each executor its own (R226). -/
def Obligations.EnqLoopAccess : Prop :=
  ∀ (s : State) (x : LaneId) (e : Exec45) (n : Nat) (area : BitVec 4) (addr : BitVec 20) (k : Word),
    Executes s x e n → (enqEnv s e n).readWord (s.lane x) area.toNat addr.toNat = .ok k →
    k.toNat ≤ 511 → (s.lane x).hasLoop k.toNat = true →
      let i := 8 + indexCost area.toNat
      let p := (s.lane x).loop k.toNat
      let w := (s.ctxOf x n).wa
      let leaves (f : LoopPend → LoopPend) : Lane := (s.pcOn x n).setLoop k.toNat { p with st := match e with
        | .e4 => { p.st with pend4 := f p.st.pend4 }
        | .e5 => { p.st with pend5 := f p.st.pend5 } }
      EnqSets (.enqLpv e area addr) s x e n i (fun c => { c with wa := p.st.pv }) ∧
      EnqSets (.enqLsp e area addr) s x e n i (fun c => { c with wa := p.st.sp }) ∧
      EnqSets (.enqLeLoop e area addr) s x e n i (fun c => { c with wa := p.st.e }) ∧
      EnqSets (.enqLuc e area addr) s x e n i (fun c => { c with wa := p.st.uc }) ∧
      EnqSets (.enqLud e area addr) s x e n i (fun c => { c with wa := p.st.ud }) ∧
      EnqSets (.enqLi e area addr) s x e n i (fun c => { c with wa := p.st.i }) ∧
      EnqSets (.enqLst e area addr) s x e n i (fun c => { c with wa := .ofNat 32 (p.st.flags.toNat + p.st.mode * 2 ^ 16) }) ∧
      (F32.isFin w = true →
        EnqGives (.enqLpsp e area addr) s x e n i (leaves fun d => { d with psp := some w }) ∧
        EnqGives (.enqLman e area addr) s x e n i (leaves fun d => { d with man := some w })) ∧
      (w.toNat ≤ 2 → EnqGives (.enqLmode e area addr) s x e n i (leaves fun d => { d with mode := some w.toNat }))

/-- R270, the result windows: SRD and SRQ give value and quality of the item that XR and the operand select, with BA 1;
before the first publication WA is a quiet NaN and BA 0. SRN gives a register of the solver's page as it stood at the
end of step 2; ORD reads the dispatch window. -/
def Obligations.EnqResultWindows : Prop :=
  ∀ (s : State) (x : LaneId) (e : Exec45) (n : Nat) (area : BitVec 4) (addr : BitVec 20) (k : Word),
    Executes s x e n → (enqEnv s e n).readWord (s.lane x) area.toNat addr.toNat = .ok k →
      let i := 24 + indexCost area.toNat
      let r := (s.ctxOf x n).xr
      (∀ md p y, (s.lane x).slv.model = some md → (s.lane x).slv.seen = some p → r.toNat % 8 ≠ 7 →
        p.item md (r.toNat % 8) k.toNat = some y →
          EnqSets (.enqSrd e area addr) s x e n i (fun c => { c with wa := y.1, ba := true }) ∧
          EnqSets (.enqSrq e area addr) s x e n i (fun c => { c with wa := .ofNat 32 y.2, ba := true })) ∧
      ((s.lane x).slv.seen = none → r.toNat % 8 ≠ 7 →
        EnqSets (.enqSrd e area addr) s x e n i (fun c => { c with wa := F32.nan, ba := false }) ∧
        EnqSets (.enqSrq e area addr) s x e n i (fun c => { c with wa := F32.nan, ba := false })) ∧
      (∀ p y, (s.lane x).opt.seen = some p → p.item (bits r 2 0) (bits r 15 8) k.toNat = some y →
        EnqSets (.enqOrd e area addr) s x e n i (fun c => { c with wa := y, ba := true })) ∧
      ((s.lane x).opt.seen = none → EnqSets (.enqOrd e area addr) s x e n i (fun c => { c with wa := F32.nan, ba := false })) ∧
      ∀ (sel : BitVec 20) (key : Nat), [R.SOL.SOLNO_L.key, R.SOL.SOLNO_H.key, 0x1105C][sel.toNat]? = some key →
        EnqSets (.enqSrn e 0 sel) s x e n 24 (fun c => { c with wa := (s.lane x).viewReg key, ba := true })

/-- R272 to R275: QGET of the reader and QPUT and QEND of the writer act on the queue XR names; TIME reads one word of
frame time; RRD and RWR go through the engine's register access at the address in XR; DLST hands on a list. -/
def Obligations.EnqQueuesRegistersAndTime : Prop :=
  ∀ (s : State) (x : LaneId) (e : Exec45) (n : Nat), Executes s x e n →
    let l := s.pcOn x n
    let q := (s.ctxOf x n).xr.toNat
    (∀ (a : BitVec 20), 4 * (a.toNat + 1) < (l.exe (exeNo e)).decl.vsize → 8 ≤ q → q < 56 →
      ((l.queueEnds q).2 = exeNo e →
        (∀ m, l.queueTake q = (none, m) → EnqGives (.enqQget e 4 a) s x e n 12 ((m.setWa n 0).setBa n false)) ∧
        ∀ (d : Dword) (last : Bool) (m : Lane), l.queueTake q = (some (d, last), m) →
          EnqGives (.enqQget e 4 a) s x e n 12
            ((((m.setVarWord (exeNo e) a.toNat (d.setWidth 32)).setVarWord (exeNo e) (a.toNat + 1) (.ofNat 32 (d.toNat / 2 ^ 32))).setWa n
              (if last then 2 else 1)).setBa n true)) ∧
      ((l.queueEnds q).1 = exeNo e →
        ∀ (m : Lane) (ok : Bool),
          l.taskPut n q (.ofNat 64 ((l.varWord (exeNo e) a.toNat).toNat + (l.varWord (exeNo e) (a.toNat + 1)).toNat * 2 ^ 32)) = (m, ok) →
          EnqGives (.enqQput e 4 a) s x e n 12 (m.setBa n ok))) ∧
    (8 ≤ q → q < 56 → (l.queueEnds q).1 = exeNo e → EnqGives (.enqQend e 0 0) s x e n 6 (l.queueClose q)) ∧
    (∀ (sel : BitVec 20) (w : Word), timeWord l sel.toNat = some w → EnqSets (.enqTime e 0 sel) s x e n 4 (fun c => { c with wa := w })) ∧
    (0x40000000 ≤ q → q < 0x40100000 → q % 4 = 0 →
      (∀ (w : Word) (st : Nat) (m : Lane), Lane.engineRead s.hub s.nv l (exeNo e) (.ofNat 32 q) = (w, st, m) →
        EnqGives (.enqRrd e 0 0) s x e n 30 ((m.setWa n w).setBa n (decide (st = 0)))) ∧
      ∀ (m : Lane) (st : Nat), l.writeReg s.hub (.engine (.ofNat 8 (exeNo e))) [] (.ofNat 32 q) (s.ctxOf x n).wa = (m, st) →
        EnqGives (.enqRwr e 0 0) s x e n 30
          ((m.setWa n (.ofNat 32 (if st = 0 then q % 2 ^ 20 / 0x1000 * 256 else st))).setBa n (decide (st = 0)))) ∧
    ∀ (a : BitVec 20) (k : Nat), (l.varWord (exeNo e) a.toNat).toNat = k → 1 ≤ k → k ≤ 16383 →
      4 * (a.toNat + k) < (l.exe (exeNo e)).decl.vsize →
        EnqGives (.enqDlst e 4 a) s x e n (40 + (k + 15) / 16)
          ((l.setExe (exeNo e) { l.exe (exeNo e) with
            dlist := some (a.toNat, k) }).setBa n true)

/-- R273: TIME sets WA to the word of the executing frame's frame time that its selector names; a selector of 9 or above
faults with 0x02. -/
def Obligations.EnqTimeReadsFrameTime : Prop :=
  ∀ (s : State) (x : LaneId) (e : Exec45) (n : Nat) (f : InputFrame), Executes s x e n → (s.lane x).frame = some f →
    let t := f.trailer
    let gives (sel : BitVec 20) (w : Word) : Prop := EnqSets (.enqTime e 0 sel) s x e n 4 fun c => { c with wa := w }
    let sec := t.nt.toNat / 10 ^ 9
    gives 0 (.ofNat 32 t.fno) ∧ gives 1 (.ofNat 32 (t.fno / 2 ^ 32)) ∧
    gives 2 (.ofNat 32 (t.nt.toNat % 10 ^ 9)) ∧ gives 3 (.ofNat 32 sec) ∧ gives 4 (.ofNat 32 (sec / 2 ^ 32 % 2 ^ 16)) ∧
    gives 5 (.ofNat 32 t.flen) ∧ gives 6 (t.cal.setWidth 32) ∧ gives 7 (.ofNat 32 (t.cal.toNat / 2 ^ 32)) ∧
    gives 8 (.ofNat 32 ((if t.calq then 1 else 0) + 2 * t.sync.code)) ∧
    ∀ sel : BitVec 20, 9 ≤ sel.toNat → EnqFaults (.enqTime e 0 sel) s x e n 0x02

/-- R265, R276: an instruction that faults changes nothing and leads to the program fault with its code: an undefined
opcode (0x01), an operand form the instruction has not (0x02), a stack overflow, underflow or entry of another kind
(0x03 to 0x05), a division by zero (0x06), a write of a constant (0x08), a jump beyond the code (0x0A), END with an open
nesting (0x0B). -/
def Obligations.EnqInstructionFaults : Prop :=
  ∀ (s : State) (x : LaneId) (e : Exec45) (n : Nat) (area : BitVec 4) (addr : BitVec 20), Executes s x e n →
    (∀ op : BitVec 8, (Instr.enqIllop e op area addr).wellFormed = true → EnqFaults (.enqIllop e op area addr) s x e n 0x01) ∧
    (area.toNat ≠ 0 → EnqFaults (.enqNot e area addr) s x e n 0x02) ∧
    (area.toNat ≠ 0 → EnqFaults (.enqJmp e area addr) s x e n 0x02) ∧
    (16 ≤ (s.ctxOf x n).stk.length → EnqFaults (.enqPushw e 0 0) s x e n 0x03) ∧
    ((s.ctxOf x n).stk = [] → EnqFaults (.enqCloseParen e 0 0) s x e n 0x04 ∧ EnqFaults (.enqRet e 0 0) s x e n 0x04) ∧
    (∀ w rest, (s.ctxOf x n).stk = .word w :: rest → EnqFaults (.enqCloseParen e 0 0) s x e n 0x05) ∧
    ((enqEnv s e n).readWord (s.lane x) area.toNat addr.toNat = .ok 0 →
      EnqFaults (.enqDiv e area addr) s x e n 0x06 ∧ EnqFaults (.enqMod e area addr) s x e n 0x06) ∧
    EnqFaults (.enqStw e 0 addr) s x e n 0x08 ∧
    EnqFaults (.enqSt e 0 addr) s x e n 0x08 ∧
    EnqFaults (.enqStb e 0 addr) s x e n 0x08 ∧ EnqFaults (.enqStb e 7 addr) s x e n 0x08 ∧ EnqFaults (.enqStb e 8 addr) s x e n 0x08 ∧
    (((s.lane x).exe (exeNo e)).decl.ncode ≤ addr.toNat → EnqFaults (.enqJmp e 0 addr) s x e n 0x0A) ∧
    ((s.ctxOf x n).stk ≠ [] → EnqFaults (.enqEnd e 0 0) s x e n 0x0B)
end

