-- ==== Sys2Proof/Laws/Memory.lean ====
section
/-! SUPPORT. Lists of numbered data and the two non-volatile memories: reading after a write, and the canonical form
that every memory operation keeps. -/

namespace Sys2Proof.Machine

variable {α : Type}

/-! ### Keys of a list -/

theorem kvInsert_keys (l : List (Nat × α)) (k j : Nat) (x : α) :
    (∃ y, (j, y) ∈ kvInsert l k x) → j = k ∨ ∃ y, (j, y) ∈ l := by
  induction l with
  | nil => rintro ⟨y, hy⟩; simp [kvInsert] at hy; exact .inl hy.1
  | cons p l ih =>
    obtain ⟨i, z⟩ := p
    rintro ⟨y, hy⟩
    unfold kvInsert at hy
    split_ifs at hy with h1 h2
    · simp only [List.mem_cons, Prod.mk.injEq] at hy
      rcases hy with h | h | h
      · exact .inl h.1
      · exact .inr ⟨z, by simp [h.1]⟩
      · exact .inr ⟨y, by simp [h]⟩
    · simp only [List.mem_cons, Prod.mk.injEq] at hy
      rcases hy with h | h
      · exact .inl h.1
      · exact .inr ⟨y, by simp [h]⟩
    · simp only [List.mem_cons, Prod.mk.injEq] at hy
      rcases hy with h | h
      · exact .inr ⟨z, by simp [h.1]⟩
      · rcases ih ⟨y, h⟩ with h | ⟨w, h⟩
        · exact .inl h
        · exact .inr ⟨w, by simp [h]⟩

theorem kvErase_sub (l : List (Nat × α)) (k : Nat) : ∀ p ∈ kvErase l k, p ∈ l := by
  induction l with
  | nil => simp [kvErase]
  | cons q l ih =>
    obtain ⟨i, z⟩ := q
    intro p hp
    unfold kvErase at hp
    split_ifs at hp with h
    · exact List.mem_cons_of_mem _ (ih p hp)
    · rcases List.mem_cons.1 hp with h | h
      · simp [h]
      · exact List.mem_cons_of_mem _ (ih p h)

/-! ### The canonical form -/

variable [DecidableEq α]

theorem kvWf_cons (d : Nat → α) (k : Nat) (x : α) (l : List (Nat × α)) :
    kvWf d ((k, x) :: l) = true ↔ x ≠ d k ∧ (∀ p ∈ l, k < p.1) ∧ kvWf d l = true := by
  simp [kvWf, and_assoc]

theorem kvErase_wf (d : Nat → α) (l : List (Nat × α)) (k : Nat) (h : kvWf d l = true) : kvWf d (kvErase l k) = true := by
  induction l with
  | nil => simp [kvErase, kvWf]
  | cons p l ih =>
    obtain ⟨i, z⟩ := p
    rw [kvWf_cons] at h
    unfold kvErase
    split_ifs with hk
    · exact ih h.2.2
    · rw [kvWf_cons]
      exact ⟨h.1, fun p hp => h.2.1 p (kvErase_sub l k p hp), ih h.2.2⟩

theorem kvInsert_wf (d : Nat → α) (l : List (Nat × α)) (k : Nat) (x : α) (hx : x ≠ d k) (h : kvWf d l = true) :
    kvWf d (kvInsert l k x) = true := by
  induction l with
  | nil => simp [kvInsert, kvWf, hx]
  | cons p l ih =>
    obtain ⟨i, z⟩ := p
    have h0 := h
    rw [kvWf_cons] at h
    unfold kvInsert
    split_ifs with h1 h2
    · rw [kvWf_cons]
      refine ⟨hx, fun p hp => ?_, h0⟩
      rcases List.mem_cons.1 hp with e | e
      · simp [e, h1]
      · exact h1.trans (h.2.1 p e)
    · subst h2
      rw [kvWf_cons]
      exact ⟨hx, h.2.1, h.2.2⟩
    · rw [kvWf_cons]
      refine ⟨h.1, fun p hp => ?_, ih h.2.2⟩
      rcases kvInsert_keys l k p.1 x ⟨p.2, hp⟩ with e | ⟨y, hy⟩
      · omega
      · exact h.2.1 (p.1, y) hy

/-- A write keeps the canonical form. -/
theorem kvSetD_wf (d : Nat → α) (l : List (Nat × α)) (k : Nat) (x : α) (h : kvWf d l = true) :
    kvWf d (kvSetD d l k x) = true := by
  unfold kvSetD
  split_ifs with hx
  · exact kvErase_wf d l k h
  · exact kvInsert_wf d l k x hx h

theorem kvWf_filter (d : Nat → α) (l : List (Nat × α)) (f : Nat × α → Bool) (h : kvWf d l = true) :
    kvWf d (l.filter f) = true := by
  induction l with
  | nil => simp [kvWf]
  | cons p l ih =>
    obtain ⟨i, z⟩ := p
    rw [kvWf_cons] at h
    rw [List.filter_cons]
    split_ifs with hf
    · rw [kvWf_cons]
      exact ⟨h.1, fun p hp => h.2.1 p (List.mem_filter.1 hp).1, ih h.2.2⟩
    · exact ih h.2.2

/-! ### Reading after a write -/

omit [DecidableEq α] in
theorem kvGetD_insert (d : Nat → α) (l : List (Nat × α)) (k j : Nat) (x : α) :
    kvGetD d (kvInsert l k x) j = if j = k then x else kvGetD d l j := by
  induction l with
  | nil => simp only [kvInsert, kvGetD]; grind
  | cons p l ih =>
    obtain ⟨i, z⟩ := p
    unfold kvInsert
    split_ifs with h1 h2 <;> simp only [kvGetD] <;> grind

omit [DecidableEq α] in
theorem kvGetD_erase (d : Nat → α) (l : List (Nat × α)) (k j : Nat) :
    kvGetD d (kvErase l k) j = if j = k then d j else kvGetD d l j := by
  induction l with
  | nil => simp [kvErase, kvGetD]
  | cons p l ih =>
    obtain ⟨i, z⟩ := p
    simp only [kvErase, kvGetD]
    split_ifs with h1 <;> simp_all only [kvGetD] <;> grind

/-- A read after a write: the value at the place written, the old value at every other. -/
theorem kvGetD_set (d : Nat → α) (l : List (Nat × α)) (k j : Nat) (x : α) :
    kvGetD d (kvSetD d l k x) j = if j = k then x else kvGetD d l j := by
  unfold kvSetD
  split_ifs with h1 h2 h2
  · subst h2; rw [kvGetD_erase, if_pos rfl, h1]
  · rw [kvGetD_erase, if_neg h2]
  · subst h2; rw [kvGetD_insert, if_pos rfl]
  · rw [kvGetD_insert, if_neg h2]

omit [DecidableEq α] in
/-- The two reads of such lists agree where the default does not depend on the place. -/
theorem kvGet_eq (d : α) (l : List (Nat × α)) (k : Nat) : kvGet d l k = kvGetD (fun _ => d) l k := by
  induction l with
  | nil => rfl
  | cons p l ih => obtain ⟨i, z⟩ := p; simp only [kvGet, kvGetD, ih]

theorem kvGet_set (d : α) (l : List (Nat × α)) (k j : Nat) (x : α) :
    kvGet d (kvSet d l k x) j = if j = k then x else kvGet d l j := by
  have h : kvSet d l k x = kvSetD (fun _ => d) l k x := rfl
  rw [kvGet_eq, kvGet_eq, h, kvGetD_set]

/-! ### MRAM and NAND (14_nv_store.md R323, R338, R339) -/

theorem writeCells_wf (d : Nat → Byte) (bs : List Byte) : ∀ (m : List Host.Cell) (a : Nat), kvWf d m = true →
    kvWf d (writeCells d m a bs) = true := by
  induction bs with
  | nil => intro m a h; exact h
  | cons b bs ih => intro m a h; exact ih _ _ (kvSetD_wf d m a b h)

/-- Reading a byte after bytes are written from `a` on. -/
theorem writeCells_read (d : Nat → Byte) (bs : List Byte) : ∀ (m : List Host.Cell) (a j : Nat),
    kvGetD d (writeCells d m a bs) j = if a ≤ j ∧ j < a + bs.length then bs.getD (j - a) 0 else kvGetD d m j := by
  induction bs with
  | nil => intro m a j; simp [writeCells]
  | cons b bs ih =>
    intro m a j
    rw [writeCells, ih, kvGetD_set]
    simp only [List.length_cons]
    by_cases h1 : a + 1 ≤ j ∧ j < a + 1 + bs.length
    · rw [if_pos h1, if_pos (by omega)]
      have : j - a = (j - (a + 1)) + 1 := by omega
      rw [this, List.getD_cons_succ]
    · rw [if_neg h1]
      by_cases h2 : j = a
      · subst h2; rw [if_pos rfl, if_pos (by omega)]; simp
      · rw [if_neg h2, if_neg (by omega)]

theorem NvStore.wf_iff (s : NvStore) : s.wf = true ↔ kvWf mramFactory s.mram = true ∧ kvWf nandErased s.nand = true := by
  simp [NvStore.wf]

theorem NvStore.writePage_wf (s : NvStore) (n : Nat) (data : List Byte) (h : s.wf = true) : (s.writePage n data).wf = true := by
  rw [NvStore.wf_iff] at h ⊢
  exact ⟨writeCells_wf _ _ _ _ h.1, h.2⟩

theorem NvStore.writeNand_wf (s : NvStore) (slot p : Nat) (data : List Byte) (h : s.wf = true) :
    (s.writeNand slot p data).wf = true := by
  rw [NvStore.wf_iff] at h ⊢
  refine ⟨h.1, ?_⟩
  unfold NvStore.writeNand
  refine writeCells_wf _ _ _ _ ?_
  split_ifs
  · exact kvWf_filter _ _ _ h.2
  · exact h.2

theorem NvStore.execute_wf (sizes : List Nat) (s : NvStore) (r : NvReq) (h : s.wf = true) : (s.execute sizes r).wf = true := by
  unfold NvStore.execute
  split_ifs
  · exact s.writeNand_wf _ _ _ h
  · exact s.writePage_wf _ _ h

theorem NvStore.executeAll_wf (sizes : List Nat) (rs : List (NvReq × Nat)) : ∀ s : NvStore, s.wf = true →
    (rs.foldl (fun (s : NvStore) p => s.execute sizes p.1) s).wf = true := by
  induction rs with
  | nil => intro s h; exact h
  | cons r rs ih => intro s h; exact ih _ (s.execute_wf sizes r.1 h)

/-- What the store's controller does in a frame keeps the canonical form. -/
theorem NvStore.run_wf (sizes : List Nat) (lc committed : Nat) (es : List OutEntry) (s : NvStore) (h : s.wf = true) :
    (s.run sizes lc committed es).wf = true :=
  (NvStore.executeAll_wf sizes _ s h : _)

theorem NvStore.fresh_wf : ({} : NvStore).wf = true := rfl

/-! ### Lane memory as a debug access writes it (17_security.md R405) -/

theorem kvInsert_read (l : List Host.Cell) (k j : Nat) (x : Byte) :
    kvGet 0 (kvInsert l k x) j = if j = k then x else kvGet 0 l j := by
  induction l with
  | nil => simp only [kvInsert, kvGet]; grind
  | cons p l ih =>
    obtain ⟨i, z⟩ := p
    unfold kvInsert
    split_ifs with h1 h2 <;> simp only [kvGet] <;> grind

end Sys2Proof.Machine
end

