-- ==== Sys2Proof/Laws/Registers.lean ====
section
/-! SUPPORT. Registers and their fields: reading a register or a field after it is written. -/

namespace Sys2Proof.Machine

/-! ### Bit fields of a word -/

/-- A number below 2^32 in three parts: above a field, the field, below it. -/
theorem field_parts (n lo k : Nat) : n = n / 2 ^ (lo + k) * 2 ^ (lo + k) + (n / 2 ^ lo % 2 ^ k) * 2 ^ lo + n % 2 ^ lo := by
  have h1 := Nat.div_add_mod n (2 ^ lo)
  have h2 := Nat.div_add_mod (n / 2 ^ lo) (2 ^ k)
  rw [Nat.div_div_eq_div_mul, ← Nat.pow_add] at h2
  calc n = 2 ^ lo * (n / 2 ^ lo) + n % 2 ^ lo := h1.symm
    _ = 2 ^ lo * (2 ^ k * (n / 2 ^ (lo + k)) + n / 2 ^ lo % 2 ^ k) + n % 2 ^ lo := by rw [h2]
    _ = _ := by rw [Nat.pow_add]; ring

theorem bits_lt (w : Word) (hi lo : Nat) : bits w hi lo < 2 ^ (hi + 1 - lo) := Nat.mod_lt _ (Nat.two_pow_pos _)

/-- What a word holds after a field is written. -/
theorem withBits_toNat (w : Word) (hi lo v : Nat) (h1 : lo ≤ hi) (h2 : hi < 32) :
    (withBits w hi lo v).toNat =
      w.toNat / 2 ^ (hi + 1) * 2 ^ (hi + 1) + (v % 2 ^ (hi + 1 - lo)) * 2 ^ lo + w.toNat % 2 ^ lo := by
  have hk : lo + (hi + 1 - lo) = hi + 1 := by omega
  have hp := field_parts w.toNat lo (hi + 1 - lo)
  rw [hk] at hp
  unfold withBits bits
  have e : w.toNat - w.toNat / 2 ^ lo % 2 ^ (hi + 1 - lo) * 2 ^ lo + v % 2 ^ (hi + 1 - lo) * 2 ^ lo =
      w.toNat / 2 ^ (hi + 1) * 2 ^ (hi + 1) + (v % 2 ^ (hi + 1 - lo)) * 2 ^ lo + w.toNat % 2 ^ lo := by omega
  rw [e, BitVec.toNat_ofNat]
  apply Nat.mod_eq_of_lt
  have hv : v % 2 ^ (hi + 1 - lo) + 1 ≤ 2 ^ (hi + 1 - lo) := Nat.mod_lt _ (Nat.two_pow_pos _)
  have hl : w.toNat % 2 ^ lo < 2 ^ lo := Nat.mod_lt _ (Nat.two_pow_pos _)
  have hm : v % 2 ^ (hi + 1 - lo) * 2 ^ lo + 2 ^ lo ≤ 2 ^ (hi + 1) := by
    calc v % 2 ^ (hi + 1 - lo) * 2 ^ lo + 2 ^ lo = (v % 2 ^ (hi + 1 - lo) + 1) * 2 ^ lo := by ring
      _ ≤ 2 ^ (hi + 1 - lo) * 2 ^ lo := Nat.mul_le_mul_right _ hv
      _ = 2 ^ (hi + 1) := by rw [← Nat.pow_add]; congr 1; omega
  have hw : w.toNat / 2 ^ (hi + 1) + 1 ≤ 2 ^ (32 - (hi + 1)) := by
    have : w.toNat / 2 ^ (hi + 1) < 2 ^ (32 - (hi + 1)) := by
      apply Nat.div_lt_of_lt_mul
      rw [← Nat.pow_add]
      have : hi + 1 + (32 - (hi + 1)) = 32 := by omega
      rw [this]; exact w.isLt
    omega
  have hh : w.toNat / 2 ^ (hi + 1) * 2 ^ (hi + 1) + 2 ^ (hi + 1) ≤ 2 ^ 32 := by
    calc w.toNat / 2 ^ (hi + 1) * 2 ^ (hi + 1) + 2 ^ (hi + 1) = (w.toNat / 2 ^ (hi + 1) + 1) * 2 ^ (hi + 1) := by ring
      _ ≤ 2 ^ (32 - (hi + 1)) * 2 ^ (hi + 1) := Nat.mul_le_mul_right _ hw
      _ = 2 ^ 32 := by rw [← Nat.pow_add]; congr 1; omega
  omega

/-- Bit `i` of a number whose bits are laid out in three parts. -/
theorem parts_testBit (a b c lo k i : Nat) (hb : b < 2 ^ k) (hc : c < 2 ^ lo) :
    (a * 2 ^ (lo + k) + b * 2 ^ lo + c).testBit i =
      if i < lo then c.testBit i else if i < lo + k then b.testBit (i - lo) else a.testBit (i - (lo + k)) := by
  have e : a * 2 ^ (lo + k) + b * 2 ^ lo + c = 2 ^ lo * (2 ^ k * a + b) + c := by rw [Nat.pow_add]; ring
  rw [e, Nat.testBit_two_pow_mul_add _ hc]
  split_ifs with h1 h2
  · rfl
  · rw [Nat.testBit_two_pow_mul_add _ hb, if_pos (by omega)]
  · rw [Nat.testBit_two_pow_mul_add _ hb, if_neg (by omega)]; congr 1; omega

theorem withBits_testBit (w : Word) (hi lo v i : Nat) (h1 : lo ≤ hi) (h2 : hi < 32) :
    (withBits w hi lo v).toNat.testBit i = if lo ≤ i ∧ i ≤ hi then v.testBit (i - lo) else w.toNat.testBit i := by
  have hk : lo + (hi + 1 - lo) = hi + 1 := by omega
  have hp := parts_testBit (w.toNat / 2 ^ (hi + 1)) (v % 2 ^ (hi + 1 - lo)) (w.toNat % 2 ^ lo) lo (hi + 1 - lo) i
    (Nat.mod_lt _ (Nat.two_pow_pos _)) (Nat.mod_lt _ (Nat.two_pow_pos _))
  rw [hk] at hp
  rw [withBits_toNat w hi lo v h1 h2, hp]
  split_ifs with a b c d
  · omega
  · rw [Nat.testBit_mod_two_pow]; simp [a]
  · rw [Nat.testBit_mod_two_pow]; simp; omega
  · omega
  · omega
  · rw [Nat.testBit_div_two_pow]; congr 1; omega

theorem bits_testBit (w : Word) (hi lo i : Nat) : (bits w hi lo).testBit i = (decide (i < hi + 1 - lo) && w.toNat.testBit (lo + i)) := by
  unfold bits
  rw [Nat.testBit_mod_two_pow, Nat.testBit_div_two_pow, Nat.add_comm i lo]

/-- A field that has just been written reads the value, as far as it fits. -/
theorem bits_withBits (w : Word) (hi lo v : Nat) (h1 : lo ≤ hi) (h2 : hi < 32) :
    bits (withBits w hi lo v) hi lo = v % 2 ^ (hi + 1 - lo) := by
  apply Nat.eq_of_testBit_eq
  intro i
  rw [bits_testBit, withBits_testBit w hi lo v _ h1 h2, Nat.testBit_mod_two_pow]
  by_cases h : i < hi + 1 - lo
  · rw [if_pos (by omega)]; simp
  · simp [h]

/-- Fields beside the one written keep their value. -/
theorem bits_withBits_ne (w : Word) (hi lo v hi' lo' : Nat) (h1 : lo ≤ hi) (h2 : hi < 32) (h3 : hi < lo' ∨ hi' < lo) :
    bits (withBits w hi lo v) hi' lo' = bits w hi' lo' := by
  apply Nat.eq_of_testBit_eq
  intro i
  rw [bits_testBit, bits_testBit, withBits_testBit w hi lo v _ h1 h2]
  by_cases h : i < hi' + 1 - lo'
  · rw [if_neg (by omega)]
  · simp [h]

/-! ### Registers of a lane -/

theorem Lane.reg_setReg (l : Lane) (k j : Nat) (w : Word) : (l.setReg k w).reg j = if j = k then w else l.reg j :=
  kvGetD_set resetWord l.regs k j w

@[simp] theorem Lane.reg_setReg_self (l : Lane) (k : Nat) (w : Word) : (l.setReg k w).reg k = w := by
  rw [Lane.reg_setReg, if_pos rfl]

theorem Lane.reg_setReg_ne (l : Lane) (k j : Nat) (w : Word) (h : j ≠ k) : (l.setReg k w).reg j = l.reg j := by
  rw [Lane.reg_setReg, if_neg h]

/-- A field reads what was put into it. -/
theorem Lane.get_put (l : Lane) (f : Fld) (v : Nat) (h1 : f.lo ≤ f.hi) (h2 : f.hi < 32) :
    (l.put f v).get f = v % 2 ^ (f.hi + 1 - f.lo) := by
  unfold Lane.put Lane.get
  rw [Lane.reg_setReg_self, bits_withBits _ _ _ _ h1 h2]

/-- A field of another register, or one beside the field written, keeps its value. -/
theorem Lane.get_put_ne (l : Lane) (f g : Fld) (v : Nat) (h1 : f.lo ≤ f.hi) (h2 : f.hi < 32)
    (h : g.key ≠ f.key ∨ f.hi < g.lo ∨ g.hi < f.lo) : (l.put f v).get g = l.get g := by
  unfold Lane.put Lane.get
  by_cases hk : g.key = f.key
  · rw [hk, Lane.reg_setReg_self, bits_withBits_ne _ _ _ _ _ _ h1 h2 (h.resolve_left (fun x => x hk))]
  · rw [Lane.reg_setReg_ne _ _ _ _ hk]

theorem Lane.reg_put_ne (l : Lane) (f : Fld) (v k : Nat) (h : k ≠ f.key) : (l.put f v).reg k = l.reg k :=
  Lane.reg_setReg_ne _ _ _ _ h

theorem Lane.get_setReg_ne (l : Lane) (g : Fld) (k : Nat) (w : Word) (h : g.key ≠ k) : (l.setReg k w).get g = l.get g := by
  unfold Lane.get
  rw [Lane.reg_setReg_ne _ _ _ _ h]

/-! ### Interrupt bits and status codes (02_register_pages.md R44, R52) -/

/-- IRQS of the page holds the bit; nothing else of the registers changes. -/
theorem Lane.irqBit_reg (l : Lane) (p b k : Nat) :
    (l.irqBit p b).reg k = if k = p * 0x1000 + 0x010 then l.reg k ||| (1 <<< b) else l.reg k := by
  show (l.setReg (p * 0x1000 + 0x010) (l.reg (p * 0x1000 + 0x010) ||| (1 <<< b))).reg k = _
  rw [Lane.reg_setReg]
  split_ifs with h
  · rw [h]
  · rfl

theorem Lane.irqBit_reg_ne (l : Lane) (p b k : Nat) (h : k ≠ p * 0x1000 + 0x010) : (l.irqBit p b).reg k = l.reg k := by
  rw [Lane.irqBit_reg, if_neg h]

/-- A posted code stands in ERRC of its page. -/
theorem Lane.post_errc (l : Lane) (c : Nat) (h : c % 256 ≠ 0) : (l.post c).reg (c / 256 * 0x1000 + 0x01C) = .ofNat 32 c := by
  unfold Lane.post
  rw [if_neg h, Lane.irqBit_reg_ne _ _ _ _ (by omega), Lane.reg_setReg_self]

theorem Lane.post_reg (l : Lane) (c k : Nat) (h1 : k ≠ c / 256 * 0x1000 + 0x01C) (h2 : k ≠ c / 256 * 0x1000 + 0x010) :
    (l.post c).reg k = l.reg k := by
  unfold Lane.post
  split_ifs
  · rfl
  · rw [Lane.irqBit_reg_ne _ _ _ _ h2, Lane.reg_setReg_ne _ _ _ _ h1]

end Sys2Proof.Machine
end

