-- ==== Sys2Proof/Laws/State.lean ====
section
/-! SUPPORT. What each update of the block and of a lane leaves as it was, one field a lemma. -/

namespace Sys2Proof.Machine

/-! ### The block -/

@[simp] theorem State.setLane_hub (s : State) (x : LaneId) (l : Lane) : (s.setLane x l).hub = s.hub := by cases x <;> rfl
@[simp] theorem State.setLane_ts (s : State) (x : LaneId) (l : Lane) : (s.setLane x l).ts = s.ts := by cases x <;> rfl
@[simp] theorem State.setLane_pwr (s : State) (x : LaneId) (l : Lane) : (s.setLane x l).pwr = s.pwr := by cases x <;> rfl
@[simp] theorem State.setLane_startup (s : State) (x : LaneId) (l : Lane) : (s.setLane x l).startup = s.startup := by cases x <;> rfl
@[simp] theorem State.setLane_nv (s : State) (x : LaneId) (l : Lane) : (s.setLane x l).nv = s.nv := by cases x <;> rfl
@[simp] theorem State.setLane_cal (s : State) (x : LaneId) (l : Lane) : (s.setLane x l).cal = s.cal := by cases x <;> rfl
@[simp] theorem State.setLane_free (s : State) (x : LaneId) (l : Lane) : (s.setLane x l).free = s.free := by cases x <;> rfl
@[simp] theorem State.setLane_pending (s : State) (x : LaneId) (l : Lane) : (s.setLane x l).pending = s.pending := by cases x <;> rfl
@[simp] theorem onLane_hub (x : LaneId) (f : Lane → Lane) (s : State) : (onLane x f s).hub = s.hub := by cases x <;> rfl
@[simp] theorem onLane_ts (x : LaneId) (f : Lane → Lane) (s : State) : (onLane x f s).ts = s.ts := by cases x <;> rfl
@[simp] theorem onLane_pwr (x : LaneId) (f : Lane → Lane) (s : State) : (onLane x f s).pwr = s.pwr := by cases x <;> rfl
@[simp] theorem onLane_startup (x : LaneId) (f : Lane → Lane) (s : State) : (onLane x f s).startup = s.startup := by cases x <;> rfl
@[simp] theorem onLane_nv (x : LaneId) (f : Lane → Lane) (s : State) : (onLane x f s).nv = s.nv := by cases x <;> rfl
@[simp] theorem onLane_cal (x : LaneId) (f : Lane → Lane) (s : State) : (onLane x f s).cal = s.cal := by cases x <;> rfl
@[simp] theorem onLane_free (x : LaneId) (f : Lane → Lane) (s : State) : (onLane x f s).free = s.free := by cases x <;> rfl
@[simp] theorem onLane_pending (x : LaneId) (f : Lane → Lane) (s : State) : (onLane x f s).pending = s.pending := by cases x <;> rfl
@[simp] theorem onRunningLane_hub (x : LaneId) (f : Lane → Lane) (s : State) : (onRunningLane x f s).hub = s.hub := by unfold onRunningLane; split <;> simp
@[simp] theorem onRunningLane_ts (x : LaneId) (f : Lane → Lane) (s : State) : (onRunningLane x f s).ts = s.ts := by unfold onRunningLane; split <;> simp
@[simp] theorem onRunningLane_pwr (x : LaneId) (f : Lane → Lane) (s : State) : (onRunningLane x f s).pwr = s.pwr := by unfold onRunningLane; split <;> simp
@[simp] theorem onRunningLane_startup (x : LaneId) (f : Lane → Lane) (s : State) : (onRunningLane x f s).startup = s.startup := by unfold onRunningLane; split <;> simp
@[simp] theorem onRunningLane_nv (x : LaneId) (f : Lane → Lane) (s : State) : (onRunningLane x f s).nv = s.nv := by unfold onRunningLane; split <;> simp
@[simp] theorem onRunningLane_cal (x : LaneId) (f : Lane → Lane) (s : State) : (onRunningLane x f s).cal = s.cal := by unfold onRunningLane; split <;> simp
@[simp] theorem onRunningLane_free (x : LaneId) (f : Lane → Lane) (s : State) : (onRunningLane x f s).free = s.free := by unfold onRunningLane; split <;> simp
@[simp] theorem onRunningLane_pending (x : LaneId) (f : Lane → Lane) (s : State) : (onRunningLane x f s).pending = s.pending := by unfold onRunningLane; split <;> simp
@[simp] theorem onLanes_hub (f : Lane → Lane) (s : State) : (onLanes f s).hub = s.hub := rfl
@[simp] theorem onLanes_ts (f : Lane → Lane) (s : State) : (onLanes f s).ts = s.ts := rfl
@[simp] theorem onLanes_pwr (f : Lane → Lane) (s : State) : (onLanes f s).pwr = s.pwr := rfl
@[simp] theorem onLanes_startup (f : Lane → Lane) (s : State) : (onLanes f s).startup = s.startup := rfl
@[simp] theorem onLanes_nv (f : Lane → Lane) (s : State) : (onLanes f s).nv = s.nv := rfl
@[simp] theorem onLanes_cal (f : Lane → Lane) (s : State) : (onLanes f s).cal = s.cal := rfl
@[simp] theorem onLanes_free (f : Lane → Lane) (s : State) : (onLanes f s).free = s.free := rfl
@[simp] theorem onLanes_pending (f : Lane → Lane) (s : State) : (onLanes f s).pending = s.pending := rfl
@[simp] theorem State.setHub_laneA (s : State) (f : Hub → Hub) : (s.setHub f).laneA = s.laneA := rfl
@[simp] theorem State.setHub_laneB (s : State) (f : Hub → Hub) : (s.setHub f).laneB = s.laneB := rfl
@[simp] theorem State.setHub_hub (s : State) (f : Hub → Hub) : (s.setHub f).hub = f s.hub := rfl
@[simp] theorem State.setHub_ts (s : State) (f : Hub → Hub) : (s.setHub f).ts = s.ts := rfl
@[simp] theorem State.setHub_pwr (s : State) (f : Hub → Hub) : (s.setHub f).pwr = s.pwr := rfl
@[simp] theorem State.setHub_startup (s : State) (f : Hub → Hub) : (s.setHub f).startup = s.startup := rfl
@[simp] theorem State.setHub_nv (s : State) (f : Hub → Hub) : (s.setHub f).nv = s.nv := rfl
@[simp] theorem State.setHub_cal (s : State) (f : Hub → Hub) : (s.setHub f).cal = s.cal := rfl
@[simp] theorem State.setHub_free (s : State) (f : Hub → Hub) : (s.setHub f).free = s.free := rfl
@[simp] theorem State.setHub_pending (s : State) (f : Hub → Hub) : (s.setHub f).pending = s.pending := rfl
@[simp] theorem State.setTs_laneA (s : State) (f : Touchstone → Touchstone) : (s.setTs f).laneA = s.laneA := rfl
@[simp] theorem State.setTs_laneB (s : State) (f : Touchstone → Touchstone) : (s.setTs f).laneB = s.laneB := rfl
@[simp] theorem State.setTs_hub (s : State) (f : Touchstone → Touchstone) : (s.setTs f).hub = s.hub := rfl
@[simp] theorem State.setTs_ts (s : State) (f : Touchstone → Touchstone) : (s.setTs f).ts = f s.ts := rfl
@[simp] theorem State.setTs_pwr (s : State) (f : Touchstone → Touchstone) : (s.setTs f).pwr = s.pwr := rfl
@[simp] theorem State.setTs_startup (s : State) (f : Touchstone → Touchstone) : (s.setTs f).startup = s.startup := rfl
@[simp] theorem State.setTs_nv (s : State) (f : Touchstone → Touchstone) : (s.setTs f).nv = s.nv := rfl
@[simp] theorem State.setTs_cal (s : State) (f : Touchstone → Touchstone) : (s.setTs f).cal = s.cal := rfl
@[simp] theorem State.setTs_free (s : State) (f : Touchstone → Touchstone) : (s.setTs f).free = s.free := rfl
@[simp] theorem State.setTs_pending (s : State) (f : Touchstone → Touchstone) : (s.setTs f).pending = s.pending := rfl
@[simp] theorem State.setPwr_laneA (s : State) (f : Power → Power) : (s.setPwr f).laneA = s.laneA := rfl
@[simp] theorem State.setPwr_laneB (s : State) (f : Power → Power) : (s.setPwr f).laneB = s.laneB := rfl
@[simp] theorem State.setPwr_hub (s : State) (f : Power → Power) : (s.setPwr f).hub = s.hub := rfl
@[simp] theorem State.setPwr_ts (s : State) (f : Power → Power) : (s.setPwr f).ts = s.ts := rfl
@[simp] theorem State.setPwr_pwr (s : State) (f : Power → Power) : (s.setPwr f).pwr = f s.pwr := rfl
@[simp] theorem State.setPwr_startup (s : State) (f : Power → Power) : (s.setPwr f).startup = s.startup := rfl
@[simp] theorem State.setPwr_nv (s : State) (f : Power → Power) : (s.setPwr f).nv = s.nv := rfl
@[simp] theorem State.setPwr_cal (s : State) (f : Power → Power) : (s.setPwr f).cal = s.cal := rfl
@[simp] theorem State.setPwr_free (s : State) (f : Power → Power) : (s.setPwr f).free = s.free := rfl
@[simp] theorem State.setPwr_pending (s : State) (f : Power → Power) : (s.setPwr f).pending = s.pending := rfl
@[simp] theorem State.setCal_laneA (s : State) (f : Calendar → Calendar) : (s.setCal f).laneA = s.laneA := rfl
@[simp] theorem State.setCal_laneB (s : State) (f : Calendar → Calendar) : (s.setCal f).laneB = s.laneB := rfl
@[simp] theorem State.setCal_hub (s : State) (f : Calendar → Calendar) : (s.setCal f).hub = s.hub := rfl
@[simp] theorem State.setCal_ts (s : State) (f : Calendar → Calendar) : (s.setCal f).ts = s.ts := rfl
@[simp] theorem State.setCal_pwr (s : State) (f : Calendar → Calendar) : (s.setCal f).pwr = s.pwr := rfl
@[simp] theorem State.setCal_startup (s : State) (f : Calendar → Calendar) : (s.setCal f).startup = s.startup := rfl
@[simp] theorem State.setCal_nv (s : State) (f : Calendar → Calendar) : (s.setCal f).nv = s.nv := rfl
@[simp] theorem State.setCal_cal (s : State) (f : Calendar → Calendar) : (s.setCal f).cal = f s.cal := rfl
@[simp] theorem State.setCal_free (s : State) (f : Calendar → Calendar) : (s.setCal f).free = s.free := rfl
@[simp] theorem State.setCal_pending (s : State) (f : Calendar → Calendar) : (s.setCal f).pending = s.pending := rfl

/-! ### The lanes of the block -/

@[simp] theorem State.setLane_lane (s : State) (x : LaneId) (l : Lane) : (s.setLane x l).lane x = l := by cases x <;> rfl
theorem State.setLane_lane_ne (s : State) (x y : LaneId) (l : Lane) (h : y ≠ x) : (s.setLane x l).lane y = s.lane y := by
  cases x <;> cases y <;> first | rfl | exact absurd rfl h
@[simp] theorem onLane_lane (x : LaneId) (f : Lane → Lane) (s : State) : (onLane x f s).lane x = f (s.lane x) := by
  cases x <;> rfl
theorem onLane_lane_ne (x y : LaneId) (f : Lane → Lane) (s : State) (h : y ≠ x) : (onLane x f s).lane y = s.lane y :=
  State.setLane_lane_ne s x y _ h
@[simp] theorem onLanes_lane (f : Lane → Lane) (s : State) (x : LaneId) : (onLanes f s).lane x = runIf f (s.lane x) := by
  cases x <;> rfl
theorem runIf_running (f : Lane → Lane) (l : Lane) (h : l.running = true) : runIf f l = f l := by simp [runIf, h]
theorem runIf_not (f : Lane → Lane) (l : Lane) (h : l.running = false) : runIf f l = l := by simp [runIf, h]
/-- A running lane takes `f`. -/
theorem onLanes_running (f : Lane → Lane) (s : State) (x : LaneId) (h : (s.lane x).running = true) :
    (onLanes f s).lane x = f (s.lane x) := by rw [onLanes_lane, runIf_running f _ h]
/-- Everything but the lanes stays. -/
theorem onLanes_rest (f : Lane → Lane) (s : State) :
    onLanes f s = { s with laneA := (onLanes f s).laneA, laneB := (onLanes f s).laneB } := rfl

@[simp] theorem State.setHub_lane (s : State) (f : Hub → Hub) (x : LaneId) : (s.setHub f).lane x = s.lane x := by cases x <;> rfl
@[simp] theorem State.setTs_lane (s : State) (f : Touchstone → Touchstone) (x : LaneId) : (s.setTs f).lane x = s.lane x := by cases x <;> rfl
@[simp] theorem State.setPwr_lane (s : State) (f : Power → Power) (x : LaneId) : (s.setPwr f).lane x = s.lane x := by cases x <;> rfl
@[simp] theorem State.setCal_lane (s : State) (f : Calendar → Calendar) (x : LaneId) : (s.setCal f).lane x = s.lane x := by cases x <;> rfl

/-! ### A lane -/

@[simp] theorem Lane.setReg_id (l : Lane) (k : Nat) (w : Word) : (l.setReg k w).id = l.id := rfl
@[simp] theorem Lane.setReg_running (l : Lane) (k : Nat) (w : Word) : (l.setReg k w).running = l.running := rfl
@[simp] theorem Lane.setReg_phase (l : Lane) (k : Nat) (w : Word) : (l.setReg k w).phase = l.phase := rfl
@[simp] theorem Lane.setReg_view (l : Lane) (k : Nat) (w : Word) : (l.setReg k w).view = l.view := rfl
@[simp] theorem Lane.setReg_held (l : Lane) (k : Nat) (w : Word) : (l.setReg k w).held = l.held := rfl
@[simp] theorem Lane.setReg_opened (l : Lane) (k : Nat) (w : Word) : (l.setReg k w).opened = l.opened := rfl
@[simp] theorem Lane.setReg_irqSet (l : Lane) (k : Nat) (w : Word) : (l.setReg k w).irqSet = l.irqSet := rfl
@[simp] theorem Lane.setReg_rose (l : Lane) (k : Nat) (w : Word) : (l.setReg k w).rose = l.rose := rfl
@[simp] theorem Lane.setReg_presets (l : Lane) (k : Nat) (w : Word) : (l.setReg k w).presets = l.presets := rfl
@[simp] theorem Lane.setReg_frame (l : Lane) (k : Nat) (w : Word) : (l.setReg k w).frame = l.frame := rfl
@[simp] theorem Lane.setReg_inloss (l : Lane) (k : Nat) (w : Word) : (l.setReg k w).inloss = l.inloss := rfl
@[simp] theorem Lane.setReg_lastSeq (l : Lane) (k : Nat) (w : Word) : (l.setReg k w).lastSeq = l.lastSeq := rfl
@[simp] theorem Lane.setReg_laneflt (l : Lane) (k : Nat) (w : Word) : (l.setReg k w).laneflt = l.laneflt := rfl
@[simp] theorem Lane.setReg_deadlineFlt (l : Lane) (k : Nat) (w : Word) : (l.setReg k w).deadlineFlt = l.deadlineFlt := rfl
@[simp] theorem Lane.setReg_loopsLate (l : Lane) (k : Nat) (w : Word) : (l.setReg k w).loopsLate = l.loopsLate := rfl
@[simp] theorem Lane.setReg_asyfail (l : Lane) (k : Nat) (w : Word) : (l.setReg k w).asyfail = l.asyfail := rfl
@[simp] theorem Lane.setReg_ranFrame (l : Lane) (k : Nat) (w : Word) : (l.setReg k w).ranFrame = l.ranFrame := rfl
@[simp] theorem Lane.setReg_k0 (l : Lane) (k : Nat) (w : Word) : (l.setReg k w).k0 = l.k0 := rfl
@[simp] theorem Lane.setReg_reduced (l : Lane) (k : Nat) (w : Word) : (l.setReg k w).reduced = l.reduced := rfl
@[simp] theorem Lane.setReg_redEnd (l : Lane) (k : Nat) (w : Word) : (l.setReg k w).redEnd = l.redEnd := rfl
@[simp] theorem Lane.setReg_restart (l : Lane) (k : Nat) (w : Word) : (l.setReg k w).restart = l.restart := rfl
@[simp] theorem Lane.setReg_out (l : Lane) (k : Nat) (w : Word) : (l.setReg k w).out = l.out := rfl
@[simp] theorem Lane.setReg_lastOut (l : Lane) (k : Nat) (w : Word) : (l.setReg k w).lastOut = l.lastOut := rfl
@[simp] theorem Lane.setReg_leftOut (l : Lane) (k : Nat) (w : Word) : (l.setReg k w).leftOut = l.leftOut := rfl
@[simp] theorem Lane.setReg_delivered (l : Lane) (k : Nat) (w : Word) : (l.setReg k w).delivered = l.delivered := rfl
@[simp] theorem Lane.setReg_hb (l : Lane) (k : Nat) (w : Word) : (l.setReg k w).hb = l.hb := rfl
@[simp] theorem Lane.setReg_prevBlock (l : Lane) (k : Nat) (w : Word) : (l.setReg k w).prevBlock = l.prevBlock := rfl
@[simp] theorem Lane.setReg_met (l : Lane) (k : Nat) (w : Word) : (l.setReg k w).met = l.met := rfl
@[simp] theorem Lane.setReg_heat (l : Lane) (k : Nat) (w : Word) : (l.setReg k w).heat = l.heat := rfl
@[simp] theorem Lane.setReg_nv (l : Lane) (k : Nat) (w : Word) : (l.setReg k w).nv = l.nv := rfl
@[simp] theorem Lane.setReg_time (l : Lane) (k : Nat) (w : Word) : (l.setReg k w).time = l.time := rfl
@[simp] theorem Lane.setReg_ptp (l : Lane) (k : Nat) (w : Word) : (l.setReg k w).ptp = l.ptp := rfl
@[simp] theorem Lane.setReg_tsq (l : Lane) (k : Nat) (w : Word) : (l.setReg k w).tsq = l.tsq := rfl
@[simp] theorem Lane.setReg_queues (l : Lane) (k : Nat) (w : Word) : (l.setReg k w).queues = l.queues := rfl
@[simp] theorem Lane.setReg_pat (l : Lane) (k : Nat) (w : Word) : (l.setReg k w).pat = l.pat := rfl
@[simp] theorem Lane.setReg_loops (l : Lane) (k : Nat) (w : Word) : (l.setReg k w).loops = l.loops := rfl
@[simp] theorem Lane.setReg_trc (l : Lane) (k : Nat) (w : Word) : (l.setReg k w).trc = l.trc := rfl
@[simp] theorem Lane.setReg_prg (l : Lane) (k : Nat) (w : Word) : (l.setReg k w).prg = l.prg := rfl
@[simp] theorem Lane.setReg_slv (l : Lane) (k : Nat) (w : Word) : (l.setReg k w).slv = l.slv := rfl
@[simp] theorem Lane.setReg_opt (l : Lane) (k : Nat) (w : Word) : (l.setReg k w).opt = l.opt := rfl
@[simp] theorem Lane.setReg_sec (l : Lane) (k : Nat) (w : Word) : (l.setReg k w).sec = l.sec := rfl
@[simp] theorem Lane.setReg_fuses (l : Lane) (k : Nat) (w : Word) : (l.setReg k w).fuses = l.fuses := rfl
@[simp] theorem Lane.setReg_asy (l : Lane) (k : Nat) (w : Word) : (l.setReg k w).asy = l.asy := rfl
@[simp] theorem Lane.setReg_fab (l : Lane) (k : Nat) (w : Word) : (l.setReg k w).fab = l.fab := rfl
@[simp] theorem Lane.setReg_ports (l : Lane) (k : Nat) (w : Word) : (l.setReg k w).ports = l.ports := rfl
@[simp] theorem Lane.setReg_dlist (l : Lane) (k : Nat) (w : Word) : (l.setReg k w).dlist = l.dlist := rfl
@[simp] theorem Lane.setReg_panel (l : Lane) (k : Nat) (w : Word) : (l.setReg k w).panel = l.panel := rfl
@[simp] theorem Lane.setReg_qdo (l : Lane) (k : Nat) (w : Word) : (l.setReg k w).qdo = l.qdo := rfl
@[simp] theorem Lane.setReg_dispCfg (l : Lane) (k : Nat) (w : Word) : (l.setReg k w).dispCfg = l.dispCfg := rfl
@[simp] theorem Lane.setReg_busyFrom (l : Lane) (k : Nat) (w : Word) : (l.setReg k w).busyFrom = l.busyFrom := rfl
@[simp] theorem Lane.setReg_mem (l : Lane) (k : Nat) (w : Word) : (l.setReg k w).mem = l.mem := rfl
@[simp] theorem Lane.setReg_answers (l : Lane) (k : Nat) (w : Word) : (l.setReg k w).answers = l.answers := rfl
@[simp] theorem Lane.put_id (l : Lane) (x : Fld) (v : Nat) : (l.put x v).id = l.id := rfl
@[simp] theorem Lane.put_running (l : Lane) (x : Fld) (v : Nat) : (l.put x v).running = l.running := rfl
@[simp] theorem Lane.put_phase (l : Lane) (x : Fld) (v : Nat) : (l.put x v).phase = l.phase := rfl
@[simp] theorem Lane.put_view (l : Lane) (x : Fld) (v : Nat) : (l.put x v).view = l.view := rfl
@[simp] theorem Lane.put_held (l : Lane) (x : Fld) (v : Nat) : (l.put x v).held = l.held := rfl
@[simp] theorem Lane.put_opened (l : Lane) (x : Fld) (v : Nat) : (l.put x v).opened = l.opened := rfl
@[simp] theorem Lane.put_irqSet (l : Lane) (x : Fld) (v : Nat) : (l.put x v).irqSet = l.irqSet := rfl
@[simp] theorem Lane.put_rose (l : Lane) (x : Fld) (v : Nat) : (l.put x v).rose = l.rose := rfl
@[simp] theorem Lane.put_presets (l : Lane) (x : Fld) (v : Nat) : (l.put x v).presets = l.presets := rfl
@[simp] theorem Lane.put_frame (l : Lane) (x : Fld) (v : Nat) : (l.put x v).frame = l.frame := rfl
@[simp] theorem Lane.put_inloss (l : Lane) (x : Fld) (v : Nat) : (l.put x v).inloss = l.inloss := rfl
@[simp] theorem Lane.put_lastSeq (l : Lane) (x : Fld) (v : Nat) : (l.put x v).lastSeq = l.lastSeq := rfl
@[simp] theorem Lane.put_laneflt (l : Lane) (x : Fld) (v : Nat) : (l.put x v).laneflt = l.laneflt := rfl
@[simp] theorem Lane.put_deadlineFlt (l : Lane) (x : Fld) (v : Nat) : (l.put x v).deadlineFlt = l.deadlineFlt := rfl
@[simp] theorem Lane.put_loopsLate (l : Lane) (x : Fld) (v : Nat) : (l.put x v).loopsLate = l.loopsLate := rfl
@[simp] theorem Lane.put_asyfail (l : Lane) (x : Fld) (v : Nat) : (l.put x v).asyfail = l.asyfail := rfl
@[simp] theorem Lane.put_ranFrame (l : Lane) (x : Fld) (v : Nat) : (l.put x v).ranFrame = l.ranFrame := rfl
@[simp] theorem Lane.put_k0 (l : Lane) (x : Fld) (v : Nat) : (l.put x v).k0 = l.k0 := rfl
@[simp] theorem Lane.put_reduced (l : Lane) (x : Fld) (v : Nat) : (l.put x v).reduced = l.reduced := rfl
@[simp] theorem Lane.put_redEnd (l : Lane) (x : Fld) (v : Nat) : (l.put x v).redEnd = l.redEnd := rfl
@[simp] theorem Lane.put_restart (l : Lane) (x : Fld) (v : Nat) : (l.put x v).restart = l.restart := rfl
@[simp] theorem Lane.put_out (l : Lane) (x : Fld) (v : Nat) : (l.put x v).out = l.out := rfl
@[simp] theorem Lane.put_lastOut (l : Lane) (x : Fld) (v : Nat) : (l.put x v).lastOut = l.lastOut := rfl
@[simp] theorem Lane.put_leftOut (l : Lane) (x : Fld) (v : Nat) : (l.put x v).leftOut = l.leftOut := rfl
@[simp] theorem Lane.put_delivered (l : Lane) (x : Fld) (v : Nat) : (l.put x v).delivered = l.delivered := rfl
@[simp] theorem Lane.put_hb (l : Lane) (x : Fld) (v : Nat) : (l.put x v).hb = l.hb := rfl
@[simp] theorem Lane.put_prevBlock (l : Lane) (x : Fld) (v : Nat) : (l.put x v).prevBlock = l.prevBlock := rfl
@[simp] theorem Lane.put_met (l : Lane) (x : Fld) (v : Nat) : (l.put x v).met = l.met := rfl
@[simp] theorem Lane.put_heat (l : Lane) (x : Fld) (v : Nat) : (l.put x v).heat = l.heat := rfl
@[simp] theorem Lane.put_nv (l : Lane) (x : Fld) (v : Nat) : (l.put x v).nv = l.nv := rfl
@[simp] theorem Lane.put_time (l : Lane) (x : Fld) (v : Nat) : (l.put x v).time = l.time := rfl
@[simp] theorem Lane.put_ptp (l : Lane) (x : Fld) (v : Nat) : (l.put x v).ptp = l.ptp := rfl
@[simp] theorem Lane.put_tsq (l : Lane) (x : Fld) (v : Nat) : (l.put x v).tsq = l.tsq := rfl
@[simp] theorem Lane.put_queues (l : Lane) (x : Fld) (v : Nat) : (l.put x v).queues = l.queues := rfl
@[simp] theorem Lane.put_pat (l : Lane) (x : Fld) (v : Nat) : (l.put x v).pat = l.pat := rfl
@[simp] theorem Lane.put_loops (l : Lane) (x : Fld) (v : Nat) : (l.put x v).loops = l.loops := rfl
@[simp] theorem Lane.put_trc (l : Lane) (x : Fld) (v : Nat) : (l.put x v).trc = l.trc := rfl
@[simp] theorem Lane.put_prg (l : Lane) (x : Fld) (v : Nat) : (l.put x v).prg = l.prg := rfl
@[simp] theorem Lane.put_slv (l : Lane) (x : Fld) (v : Nat) : (l.put x v).slv = l.slv := rfl
@[simp] theorem Lane.put_opt (l : Lane) (x : Fld) (v : Nat) : (l.put x v).opt = l.opt := rfl
@[simp] theorem Lane.put_sec (l : Lane) (x : Fld) (v : Nat) : (l.put x v).sec = l.sec := rfl
@[simp] theorem Lane.put_fuses (l : Lane) (x : Fld) (v : Nat) : (l.put x v).fuses = l.fuses := rfl
@[simp] theorem Lane.put_asy (l : Lane) (x : Fld) (v : Nat) : (l.put x v).asy = l.asy := rfl
@[simp] theorem Lane.put_fab (l : Lane) (x : Fld) (v : Nat) : (l.put x v).fab = l.fab := rfl
@[simp] theorem Lane.put_ports (l : Lane) (x : Fld) (v : Nat) : (l.put x v).ports = l.ports := rfl
@[simp] theorem Lane.put_dlist (l : Lane) (x : Fld) (v : Nat) : (l.put x v).dlist = l.dlist := rfl
@[simp] theorem Lane.put_panel (l : Lane) (x : Fld) (v : Nat) : (l.put x v).panel = l.panel := rfl
@[simp] theorem Lane.put_qdo (l : Lane) (x : Fld) (v : Nat) : (l.put x v).qdo = l.qdo := rfl
@[simp] theorem Lane.put_dispCfg (l : Lane) (x : Fld) (v : Nat) : (l.put x v).dispCfg = l.dispCfg := rfl
@[simp] theorem Lane.put_busyFrom (l : Lane) (x : Fld) (v : Nat) : (l.put x v).busyFrom = l.busyFrom := rfl
@[simp] theorem Lane.put_mem (l : Lane) (x : Fld) (v : Nat) : (l.put x v).mem = l.mem := rfl
@[simp] theorem Lane.put_answers (l : Lane) (x : Fld) (v : Nat) : (l.put x v).answers = l.answers := rfl
@[simp] theorem Lane.putB_id (l : Lane) (x : Fld) (b : Bool) : (l.putB x b).id = l.id := rfl
@[simp] theorem Lane.putB_running (l : Lane) (x : Fld) (b : Bool) : (l.putB x b).running = l.running := rfl
@[simp] theorem Lane.putB_phase (l : Lane) (x : Fld) (b : Bool) : (l.putB x b).phase = l.phase := rfl
@[simp] theorem Lane.putB_view (l : Lane) (x : Fld) (b : Bool) : (l.putB x b).view = l.view := rfl
@[simp] theorem Lane.putB_held (l : Lane) (x : Fld) (b : Bool) : (l.putB x b).held = l.held := rfl
@[simp] theorem Lane.putB_opened (l : Lane) (x : Fld) (b : Bool) : (l.putB x b).opened = l.opened := rfl
@[simp] theorem Lane.putB_irqSet (l : Lane) (x : Fld) (b : Bool) : (l.putB x b).irqSet = l.irqSet := rfl
@[simp] theorem Lane.putB_rose (l : Lane) (x : Fld) (b : Bool) : (l.putB x b).rose = l.rose := rfl
@[simp] theorem Lane.putB_presets (l : Lane) (x : Fld) (b : Bool) : (l.putB x b).presets = l.presets := rfl
@[simp] theorem Lane.putB_frame (l : Lane) (x : Fld) (b : Bool) : (l.putB x b).frame = l.frame := rfl
@[simp] theorem Lane.putB_inloss (l : Lane) (x : Fld) (b : Bool) : (l.putB x b).inloss = l.inloss := rfl
@[simp] theorem Lane.putB_lastSeq (l : Lane) (x : Fld) (b : Bool) : (l.putB x b).lastSeq = l.lastSeq := rfl
@[simp] theorem Lane.putB_laneflt (l : Lane) (x : Fld) (b : Bool) : (l.putB x b).laneflt = l.laneflt := rfl
@[simp] theorem Lane.putB_deadlineFlt (l : Lane) (x : Fld) (b : Bool) : (l.putB x b).deadlineFlt = l.deadlineFlt := rfl
@[simp] theorem Lane.putB_loopsLate (l : Lane) (x : Fld) (b : Bool) : (l.putB x b).loopsLate = l.loopsLate := rfl
@[simp] theorem Lane.putB_asyfail (l : Lane) (x : Fld) (b : Bool) : (l.putB x b).asyfail = l.asyfail := rfl
@[simp] theorem Lane.putB_ranFrame (l : Lane) (x : Fld) (b : Bool) : (l.putB x b).ranFrame = l.ranFrame := rfl
@[simp] theorem Lane.putB_k0 (l : Lane) (x : Fld) (b : Bool) : (l.putB x b).k0 = l.k0 := rfl
@[simp] theorem Lane.putB_reduced (l : Lane) (x : Fld) (b : Bool) : (l.putB x b).reduced = l.reduced := rfl
@[simp] theorem Lane.putB_redEnd (l : Lane) (x : Fld) (b : Bool) : (l.putB x b).redEnd = l.redEnd := rfl
@[simp] theorem Lane.putB_restart (l : Lane) (x : Fld) (b : Bool) : (l.putB x b).restart = l.restart := rfl
@[simp] theorem Lane.putB_out (l : Lane) (x : Fld) (b : Bool) : (l.putB x b).out = l.out := rfl
@[simp] theorem Lane.putB_lastOut (l : Lane) (x : Fld) (b : Bool) : (l.putB x b).lastOut = l.lastOut := rfl
@[simp] theorem Lane.putB_leftOut (l : Lane) (x : Fld) (b : Bool) : (l.putB x b).leftOut = l.leftOut := rfl
@[simp] theorem Lane.putB_delivered (l : Lane) (x : Fld) (b : Bool) : (l.putB x b).delivered = l.delivered := rfl
@[simp] theorem Lane.putB_hb (l : Lane) (x : Fld) (b : Bool) : (l.putB x b).hb = l.hb := rfl
@[simp] theorem Lane.putB_prevBlock (l : Lane) (x : Fld) (b : Bool) : (l.putB x b).prevBlock = l.prevBlock := rfl
@[simp] theorem Lane.putB_met (l : Lane) (x : Fld) (b : Bool) : (l.putB x b).met = l.met := rfl
@[simp] theorem Lane.putB_heat (l : Lane) (x : Fld) (b : Bool) : (l.putB x b).heat = l.heat := rfl
@[simp] theorem Lane.putB_nv (l : Lane) (x : Fld) (b : Bool) : (l.putB x b).nv = l.nv := rfl
@[simp] theorem Lane.putB_time (l : Lane) (x : Fld) (b : Bool) : (l.putB x b).time = l.time := rfl
@[simp] theorem Lane.putB_ptp (l : Lane) (x : Fld) (b : Bool) : (l.putB x b).ptp = l.ptp := rfl
@[simp] theorem Lane.putB_tsq (l : Lane) (x : Fld) (b : Bool) : (l.putB x b).tsq = l.tsq := rfl
@[simp] theorem Lane.putB_queues (l : Lane) (x : Fld) (b : Bool) : (l.putB x b).queues = l.queues := rfl
@[simp] theorem Lane.putB_pat (l : Lane) (x : Fld) (b : Bool) : (l.putB x b).pat = l.pat := rfl
@[simp] theorem Lane.putB_loops (l : Lane) (x : Fld) (b : Bool) : (l.putB x b).loops = l.loops := rfl
@[simp] theorem Lane.putB_trc (l : Lane) (x : Fld) (b : Bool) : (l.putB x b).trc = l.trc := rfl
@[simp] theorem Lane.putB_prg (l : Lane) (x : Fld) (b : Bool) : (l.putB x b).prg = l.prg := rfl
@[simp] theorem Lane.putB_slv (l : Lane) (x : Fld) (b : Bool) : (l.putB x b).slv = l.slv := rfl
@[simp] theorem Lane.putB_opt (l : Lane) (x : Fld) (b : Bool) : (l.putB x b).opt = l.opt := rfl
@[simp] theorem Lane.putB_sec (l : Lane) (x : Fld) (b : Bool) : (l.putB x b).sec = l.sec := rfl
@[simp] theorem Lane.putB_fuses (l : Lane) (x : Fld) (b : Bool) : (l.putB x b).fuses = l.fuses := rfl
@[simp] theorem Lane.putB_asy (l : Lane) (x : Fld) (b : Bool) : (l.putB x b).asy = l.asy := rfl
@[simp] theorem Lane.putB_fab (l : Lane) (x : Fld) (b : Bool) : (l.putB x b).fab = l.fab := rfl
@[simp] theorem Lane.putB_ports (l : Lane) (x : Fld) (b : Bool) : (l.putB x b).ports = l.ports := rfl
@[simp] theorem Lane.putB_dlist (l : Lane) (x : Fld) (b : Bool) : (l.putB x b).dlist = l.dlist := rfl
@[simp] theorem Lane.putB_panel (l : Lane) (x : Fld) (b : Bool) : (l.putB x b).panel = l.panel := rfl
@[simp] theorem Lane.putB_qdo (l : Lane) (x : Fld) (b : Bool) : (l.putB x b).qdo = l.qdo := rfl
@[simp] theorem Lane.putB_dispCfg (l : Lane) (x : Fld) (b : Bool) : (l.putB x b).dispCfg = l.dispCfg := rfl
@[simp] theorem Lane.putB_busyFrom (l : Lane) (x : Fld) (b : Bool) : (l.putB x b).busyFrom = l.busyFrom := rfl
@[simp] theorem Lane.putB_mem (l : Lane) (x : Fld) (b : Bool) : (l.putB x b).mem = l.mem := rfl
@[simp] theorem Lane.putB_answers (l : Lane) (x : Fld) (b : Bool) : (l.putB x b).answers = l.answers := rfl
@[simp] theorem Lane.inc_id (l : Lane) (x : Fld) (n : Nat) : (l.inc x n).id = l.id := rfl
@[simp] theorem Lane.inc_running (l : Lane) (x : Fld) (n : Nat) : (l.inc x n).running = l.running := rfl
@[simp] theorem Lane.inc_phase (l : Lane) (x : Fld) (n : Nat) : (l.inc x n).phase = l.phase := rfl
@[simp] theorem Lane.inc_view (l : Lane) (x : Fld) (n : Nat) : (l.inc x n).view = l.view := rfl
@[simp] theorem Lane.inc_held (l : Lane) (x : Fld) (n : Nat) : (l.inc x n).held = l.held := rfl
@[simp] theorem Lane.inc_opened (l : Lane) (x : Fld) (n : Nat) : (l.inc x n).opened = l.opened := rfl
@[simp] theorem Lane.inc_irqSet (l : Lane) (x : Fld) (n : Nat) : (l.inc x n).irqSet = l.irqSet := rfl
@[simp] theorem Lane.inc_rose (l : Lane) (x : Fld) (n : Nat) : (l.inc x n).rose = l.rose := rfl
@[simp] theorem Lane.inc_presets (l : Lane) (x : Fld) (n : Nat) : (l.inc x n).presets = l.presets := rfl
@[simp] theorem Lane.inc_frame (l : Lane) (x : Fld) (n : Nat) : (l.inc x n).frame = l.frame := rfl
@[simp] theorem Lane.inc_inloss (l : Lane) (x : Fld) (n : Nat) : (l.inc x n).inloss = l.inloss := rfl
@[simp] theorem Lane.inc_lastSeq (l : Lane) (x : Fld) (n : Nat) : (l.inc x n).lastSeq = l.lastSeq := rfl
@[simp] theorem Lane.inc_laneflt (l : Lane) (x : Fld) (n : Nat) : (l.inc x n).laneflt = l.laneflt := rfl
@[simp] theorem Lane.inc_deadlineFlt (l : Lane) (x : Fld) (n : Nat) : (l.inc x n).deadlineFlt = l.deadlineFlt := rfl
@[simp] theorem Lane.inc_loopsLate (l : Lane) (x : Fld) (n : Nat) : (l.inc x n).loopsLate = l.loopsLate := rfl
@[simp] theorem Lane.inc_asyfail (l : Lane) (x : Fld) (n : Nat) : (l.inc x n).asyfail = l.asyfail := rfl
@[simp] theorem Lane.inc_ranFrame (l : Lane) (x : Fld) (n : Nat) : (l.inc x n).ranFrame = l.ranFrame := rfl
@[simp] theorem Lane.inc_k0 (l : Lane) (x : Fld) (n : Nat) : (l.inc x n).k0 = l.k0 := rfl
@[simp] theorem Lane.inc_reduced (l : Lane) (x : Fld) (n : Nat) : (l.inc x n).reduced = l.reduced := rfl
@[simp] theorem Lane.inc_redEnd (l : Lane) (x : Fld) (n : Nat) : (l.inc x n).redEnd = l.redEnd := rfl
@[simp] theorem Lane.inc_restart (l : Lane) (x : Fld) (n : Nat) : (l.inc x n).restart = l.restart := rfl
@[simp] theorem Lane.inc_out (l : Lane) (x : Fld) (n : Nat) : (l.inc x n).out = l.out := rfl
@[simp] theorem Lane.inc_lastOut (l : Lane) (x : Fld) (n : Nat) : (l.inc x n).lastOut = l.lastOut := rfl
@[simp] theorem Lane.inc_leftOut (l : Lane) (x : Fld) (n : Nat) : (l.inc x n).leftOut = l.leftOut := rfl
@[simp] theorem Lane.inc_delivered (l : Lane) (x : Fld) (n : Nat) : (l.inc x n).delivered = l.delivered := rfl
@[simp] theorem Lane.inc_hb (l : Lane) (x : Fld) (n : Nat) : (l.inc x n).hb = l.hb := rfl
@[simp] theorem Lane.inc_prevBlock (l : Lane) (x : Fld) (n : Nat) : (l.inc x n).prevBlock = l.prevBlock := rfl
@[simp] theorem Lane.inc_met (l : Lane) (x : Fld) (n : Nat) : (l.inc x n).met = l.met := rfl
@[simp] theorem Lane.inc_heat (l : Lane) (x : Fld) (n : Nat) : (l.inc x n).heat = l.heat := rfl
@[simp] theorem Lane.inc_nv (l : Lane) (x : Fld) (n : Nat) : (l.inc x n).nv = l.nv := rfl
@[simp] theorem Lane.inc_time (l : Lane) (x : Fld) (n : Nat) : (l.inc x n).time = l.time := rfl
@[simp] theorem Lane.inc_ptp (l : Lane) (x : Fld) (n : Nat) : (l.inc x n).ptp = l.ptp := rfl
@[simp] theorem Lane.inc_tsq (l : Lane) (x : Fld) (n : Nat) : (l.inc x n).tsq = l.tsq := rfl
@[simp] theorem Lane.inc_queues (l : Lane) (x : Fld) (n : Nat) : (l.inc x n).queues = l.queues := rfl
@[simp] theorem Lane.inc_pat (l : Lane) (x : Fld) (n : Nat) : (l.inc x n).pat = l.pat := rfl
@[simp] theorem Lane.inc_loops (l : Lane) (x : Fld) (n : Nat) : (l.inc x n).loops = l.loops := rfl
@[simp] theorem Lane.inc_trc (l : Lane) (x : Fld) (n : Nat) : (l.inc x n).trc = l.trc := rfl
@[simp] theorem Lane.inc_prg (l : Lane) (x : Fld) (n : Nat) : (l.inc x n).prg = l.prg := rfl
@[simp] theorem Lane.inc_slv (l : Lane) (x : Fld) (n : Nat) : (l.inc x n).slv = l.slv := rfl
@[simp] theorem Lane.inc_opt (l : Lane) (x : Fld) (n : Nat) : (l.inc x n).opt = l.opt := rfl
@[simp] theorem Lane.inc_sec (l : Lane) (x : Fld) (n : Nat) : (l.inc x n).sec = l.sec := rfl
@[simp] theorem Lane.inc_fuses (l : Lane) (x : Fld) (n : Nat) : (l.inc x n).fuses = l.fuses := rfl
@[simp] theorem Lane.inc_asy (l : Lane) (x : Fld) (n : Nat) : (l.inc x n).asy = l.asy := rfl
@[simp] theorem Lane.inc_fab (l : Lane) (x : Fld) (n : Nat) : (l.inc x n).fab = l.fab := rfl
@[simp] theorem Lane.inc_ports (l : Lane) (x : Fld) (n : Nat) : (l.inc x n).ports = l.ports := rfl
@[simp] theorem Lane.inc_dlist (l : Lane) (x : Fld) (n : Nat) : (l.inc x n).dlist = l.dlist := rfl
@[simp] theorem Lane.inc_panel (l : Lane) (x : Fld) (n : Nat) : (l.inc x n).panel = l.panel := rfl
@[simp] theorem Lane.inc_qdo (l : Lane) (x : Fld) (n : Nat) : (l.inc x n).qdo = l.qdo := rfl
@[simp] theorem Lane.inc_dispCfg (l : Lane) (x : Fld) (n : Nat) : (l.inc x n).dispCfg = l.dispCfg := rfl
@[simp] theorem Lane.inc_busyFrom (l : Lane) (x : Fld) (n : Nat) : (l.inc x n).busyFrom = l.busyFrom := rfl
@[simp] theorem Lane.inc_mem (l : Lane) (x : Fld) (n : Nat) : (l.inc x n).mem = l.mem := rfl
@[simp] theorem Lane.inc_answers (l : Lane) (x : Fld) (n : Nat) : (l.inc x n).answers = l.answers := rfl
@[simp] theorem Lane.irqBit_id (l : Lane) (p b : Nat) : (l.irqBit p b).id = l.id := rfl
@[simp] theorem Lane.irqBit_running (l : Lane) (p b : Nat) : (l.irqBit p b).running = l.running := rfl
@[simp] theorem Lane.irqBit_phase (l : Lane) (p b : Nat) : (l.irqBit p b).phase = l.phase := rfl
@[simp] theorem Lane.irqBit_view (l : Lane) (p b : Nat) : (l.irqBit p b).view = l.view := rfl
@[simp] theorem Lane.irqBit_held (l : Lane) (p b : Nat) : (l.irqBit p b).held = l.held := rfl
@[simp] theorem Lane.irqBit_opened (l : Lane) (p b : Nat) : (l.irqBit p b).opened = l.opened := rfl
@[simp] theorem Lane.irqBit_presets (l : Lane) (p b : Nat) : (l.irqBit p b).presets = l.presets := rfl
@[simp] theorem Lane.irqBit_frame (l : Lane) (p b : Nat) : (l.irqBit p b).frame = l.frame := rfl
@[simp] theorem Lane.irqBit_inloss (l : Lane) (p b : Nat) : (l.irqBit p b).inloss = l.inloss := rfl
@[simp] theorem Lane.irqBit_lastSeq (l : Lane) (p b : Nat) : (l.irqBit p b).lastSeq = l.lastSeq := rfl
@[simp] theorem Lane.irqBit_laneflt (l : Lane) (p b : Nat) : (l.irqBit p b).laneflt = l.laneflt := rfl
@[simp] theorem Lane.irqBit_deadlineFlt (l : Lane) (p b : Nat) : (l.irqBit p b).deadlineFlt = l.deadlineFlt := rfl
@[simp] theorem Lane.irqBit_loopsLate (l : Lane) (p b : Nat) : (l.irqBit p b).loopsLate = l.loopsLate := rfl
@[simp] theorem Lane.irqBit_asyfail (l : Lane) (p b : Nat) : (l.irqBit p b).asyfail = l.asyfail := rfl
@[simp] theorem Lane.irqBit_ranFrame (l : Lane) (p b : Nat) : (l.irqBit p b).ranFrame = l.ranFrame := rfl
@[simp] theorem Lane.irqBit_k0 (l : Lane) (p b : Nat) : (l.irqBit p b).k0 = l.k0 := rfl
@[simp] theorem Lane.irqBit_reduced (l : Lane) (p b : Nat) : (l.irqBit p b).reduced = l.reduced := rfl
@[simp] theorem Lane.irqBit_redEnd (l : Lane) (p b : Nat) : (l.irqBit p b).redEnd = l.redEnd := rfl
@[simp] theorem Lane.irqBit_restart (l : Lane) (p b : Nat) : (l.irqBit p b).restart = l.restart := rfl
@[simp] theorem Lane.irqBit_out (l : Lane) (p b : Nat) : (l.irqBit p b).out = l.out := rfl
@[simp] theorem Lane.irqBit_lastOut (l : Lane) (p b : Nat) : (l.irqBit p b).lastOut = l.lastOut := rfl
@[simp] theorem Lane.irqBit_leftOut (l : Lane) (p b : Nat) : (l.irqBit p b).leftOut = l.leftOut := rfl
@[simp] theorem Lane.irqBit_delivered (l : Lane) (p b : Nat) : (l.irqBit p b).delivered = l.delivered := rfl
@[simp] theorem Lane.irqBit_hb (l : Lane) (p b : Nat) : (l.irqBit p b).hb = l.hb := rfl
@[simp] theorem Lane.irqBit_prevBlock (l : Lane) (p b : Nat) : (l.irqBit p b).prevBlock = l.prevBlock := rfl
@[simp] theorem Lane.irqBit_met (l : Lane) (p b : Nat) : (l.irqBit p b).met = l.met := rfl
@[simp] theorem Lane.irqBit_heat (l : Lane) (p b : Nat) : (l.irqBit p b).heat = l.heat := rfl
@[simp] theorem Lane.irqBit_nv (l : Lane) (p b : Nat) : (l.irqBit p b).nv = l.nv := rfl
@[simp] theorem Lane.irqBit_time (l : Lane) (p b : Nat) : (l.irqBit p b).time = l.time := rfl
@[simp] theorem Lane.irqBit_ptp (l : Lane) (p b : Nat) : (l.irqBit p b).ptp = l.ptp := rfl
@[simp] theorem Lane.irqBit_tsq (l : Lane) (p b : Nat) : (l.irqBit p b).tsq = l.tsq := rfl
@[simp] theorem Lane.irqBit_queues (l : Lane) (p b : Nat) : (l.irqBit p b).queues = l.queues := rfl
@[simp] theorem Lane.irqBit_pat (l : Lane) (p b : Nat) : (l.irqBit p b).pat = l.pat := rfl
@[simp] theorem Lane.irqBit_loops (l : Lane) (p b : Nat) : (l.irqBit p b).loops = l.loops := rfl
@[simp] theorem Lane.irqBit_trc (l : Lane) (p b : Nat) : (l.irqBit p b).trc = l.trc := rfl
@[simp] theorem Lane.irqBit_prg (l : Lane) (p b : Nat) : (l.irqBit p b).prg = l.prg := rfl
@[simp] theorem Lane.irqBit_slv (l : Lane) (p b : Nat) : (l.irqBit p b).slv = l.slv := rfl
@[simp] theorem Lane.irqBit_opt (l : Lane) (p b : Nat) : (l.irqBit p b).opt = l.opt := rfl
@[simp] theorem Lane.irqBit_sec (l : Lane) (p b : Nat) : (l.irqBit p b).sec = l.sec := rfl
@[simp] theorem Lane.irqBit_fuses (l : Lane) (p b : Nat) : (l.irqBit p b).fuses = l.fuses := rfl
@[simp] theorem Lane.irqBit_asy (l : Lane) (p b : Nat) : (l.irqBit p b).asy = l.asy := rfl
@[simp] theorem Lane.irqBit_fab (l : Lane) (p b : Nat) : (l.irqBit p b).fab = l.fab := rfl
@[simp] theorem Lane.irqBit_ports (l : Lane) (p b : Nat) : (l.irqBit p b).ports = l.ports := rfl
@[simp] theorem Lane.irqBit_dlist (l : Lane) (p b : Nat) : (l.irqBit p b).dlist = l.dlist := rfl
@[simp] theorem Lane.irqBit_panel (l : Lane) (p b : Nat) : (l.irqBit p b).panel = l.panel := rfl
@[simp] theorem Lane.irqBit_qdo (l : Lane) (p b : Nat) : (l.irqBit p b).qdo = l.qdo := rfl
@[simp] theorem Lane.irqBit_dispCfg (l : Lane) (p b : Nat) : (l.irqBit p b).dispCfg = l.dispCfg := rfl
@[simp] theorem Lane.irqBit_busyFrom (l : Lane) (p b : Nat) : (l.irqBit p b).busyFrom = l.busyFrom := rfl
@[simp] theorem Lane.irqBit_mem (l : Lane) (p b : Nat) : (l.irqBit p b).mem = l.mem := rfl
@[simp] theorem Lane.irqBit_answers (l : Lane) (p b : Nat) : (l.irqBit p b).answers = l.answers := rfl
@[simp] theorem Lane.irq_id (l : Lane) (x : Fld) : (l.irq x).id = l.id := rfl
@[simp] theorem Lane.irq_running (l : Lane) (x : Fld) : (l.irq x).running = l.running := rfl
@[simp] theorem Lane.irq_phase (l : Lane) (x : Fld) : (l.irq x).phase = l.phase := rfl
@[simp] theorem Lane.irq_view (l : Lane) (x : Fld) : (l.irq x).view = l.view := rfl
@[simp] theorem Lane.irq_held (l : Lane) (x : Fld) : (l.irq x).held = l.held := rfl
@[simp] theorem Lane.irq_opened (l : Lane) (x : Fld) : (l.irq x).opened = l.opened := rfl
@[simp] theorem Lane.irq_presets (l : Lane) (x : Fld) : (l.irq x).presets = l.presets := rfl
@[simp] theorem Lane.irq_frame (l : Lane) (x : Fld) : (l.irq x).frame = l.frame := rfl
@[simp] theorem Lane.irq_inloss (l : Lane) (x : Fld) : (l.irq x).inloss = l.inloss := rfl
@[simp] theorem Lane.irq_lastSeq (l : Lane) (x : Fld) : (l.irq x).lastSeq = l.lastSeq := rfl
@[simp] theorem Lane.irq_laneflt (l : Lane) (x : Fld) : (l.irq x).laneflt = l.laneflt := rfl
@[simp] theorem Lane.irq_deadlineFlt (l : Lane) (x : Fld) : (l.irq x).deadlineFlt = l.deadlineFlt := rfl
@[simp] theorem Lane.irq_loopsLate (l : Lane) (x : Fld) : (l.irq x).loopsLate = l.loopsLate := rfl
@[simp] theorem Lane.irq_asyfail (l : Lane) (x : Fld) : (l.irq x).asyfail = l.asyfail := rfl
@[simp] theorem Lane.irq_ranFrame (l : Lane) (x : Fld) : (l.irq x).ranFrame = l.ranFrame := rfl
@[simp] theorem Lane.irq_k0 (l : Lane) (x : Fld) : (l.irq x).k0 = l.k0 := rfl
@[simp] theorem Lane.irq_reduced (l : Lane) (x : Fld) : (l.irq x).reduced = l.reduced := rfl
@[simp] theorem Lane.irq_redEnd (l : Lane) (x : Fld) : (l.irq x).redEnd = l.redEnd := rfl
@[simp] theorem Lane.irq_restart (l : Lane) (x : Fld) : (l.irq x).restart = l.restart := rfl
@[simp] theorem Lane.irq_out (l : Lane) (x : Fld) : (l.irq x).out = l.out := rfl
@[simp] theorem Lane.irq_lastOut (l : Lane) (x : Fld) : (l.irq x).lastOut = l.lastOut := rfl
@[simp] theorem Lane.irq_leftOut (l : Lane) (x : Fld) : (l.irq x).leftOut = l.leftOut := rfl
@[simp] theorem Lane.irq_delivered (l : Lane) (x : Fld) : (l.irq x).delivered = l.delivered := rfl
@[simp] theorem Lane.irq_hb (l : Lane) (x : Fld) : (l.irq x).hb = l.hb := rfl
@[simp] theorem Lane.irq_prevBlock (l : Lane) (x : Fld) : (l.irq x).prevBlock = l.prevBlock := rfl
@[simp] theorem Lane.irq_met (l : Lane) (x : Fld) : (l.irq x).met = l.met := rfl
@[simp] theorem Lane.irq_heat (l : Lane) (x : Fld) : (l.irq x).heat = l.heat := rfl
@[simp] theorem Lane.irq_nv (l : Lane) (x : Fld) : (l.irq x).nv = l.nv := rfl
@[simp] theorem Lane.irq_time (l : Lane) (x : Fld) : (l.irq x).time = l.time := rfl
@[simp] theorem Lane.irq_ptp (l : Lane) (x : Fld) : (l.irq x).ptp = l.ptp := rfl
@[simp] theorem Lane.irq_tsq (l : Lane) (x : Fld) : (l.irq x).tsq = l.tsq := rfl
@[simp] theorem Lane.irq_queues (l : Lane) (x : Fld) : (l.irq x).queues = l.queues := rfl
@[simp] theorem Lane.irq_pat (l : Lane) (x : Fld) : (l.irq x).pat = l.pat := rfl
@[simp] theorem Lane.irq_loops (l : Lane) (x : Fld) : (l.irq x).loops = l.loops := rfl
@[simp] theorem Lane.irq_trc (l : Lane) (x : Fld) : (l.irq x).trc = l.trc := rfl
@[simp] theorem Lane.irq_prg (l : Lane) (x : Fld) : (l.irq x).prg = l.prg := rfl
@[simp] theorem Lane.irq_slv (l : Lane) (x : Fld) : (l.irq x).slv = l.slv := rfl
@[simp] theorem Lane.irq_opt (l : Lane) (x : Fld) : (l.irq x).opt = l.opt := rfl
@[simp] theorem Lane.irq_sec (l : Lane) (x : Fld) : (l.irq x).sec = l.sec := rfl
@[simp] theorem Lane.irq_fuses (l : Lane) (x : Fld) : (l.irq x).fuses = l.fuses := rfl
@[simp] theorem Lane.irq_asy (l : Lane) (x : Fld) : (l.irq x).asy = l.asy := rfl
@[simp] theorem Lane.irq_fab (l : Lane) (x : Fld) : (l.irq x).fab = l.fab := rfl
@[simp] theorem Lane.irq_ports (l : Lane) (x : Fld) : (l.irq x).ports = l.ports := rfl
@[simp] theorem Lane.irq_dlist (l : Lane) (x : Fld) : (l.irq x).dlist = l.dlist := rfl
@[simp] theorem Lane.irq_panel (l : Lane) (x : Fld) : (l.irq x).panel = l.panel := rfl
@[simp] theorem Lane.irq_qdo (l : Lane) (x : Fld) : (l.irq x).qdo = l.qdo := rfl
@[simp] theorem Lane.irq_dispCfg (l : Lane) (x : Fld) : (l.irq x).dispCfg = l.dispCfg := rfl
@[simp] theorem Lane.irq_busyFrom (l : Lane) (x : Fld) : (l.irq x).busyFrom = l.busyFrom := rfl
@[simp] theorem Lane.irq_mem (l : Lane) (x : Fld) : (l.irq x).mem = l.mem := rfl
@[simp] theorem Lane.irq_answers (l : Lane) (x : Fld) : (l.irq x).answers = l.answers := rfl
@[simp] theorem Lane.irqIf_id (l : Lane) (c : Bool) (x : Fld) : (l.irqIf c x).id = l.id := by cases c <;> rfl
@[simp] theorem Lane.irqIf_running (l : Lane) (c : Bool) (x : Fld) : (l.irqIf c x).running = l.running := by cases c <;> rfl
@[simp] theorem Lane.irqIf_phase (l : Lane) (c : Bool) (x : Fld) : (l.irqIf c x).phase = l.phase := by cases c <;> rfl
@[simp] theorem Lane.irqIf_view (l : Lane) (c : Bool) (x : Fld) : (l.irqIf c x).view = l.view := by cases c <;> rfl
@[simp] theorem Lane.irqIf_held (l : Lane) (c : Bool) (x : Fld) : (l.irqIf c x).held = l.held := by cases c <;> rfl
@[simp] theorem Lane.irqIf_opened (l : Lane) (c : Bool) (x : Fld) : (l.irqIf c x).opened = l.opened := by cases c <;> rfl
@[simp] theorem Lane.irqIf_presets (l : Lane) (c : Bool) (x : Fld) : (l.irqIf c x).presets = l.presets := by cases c <;> rfl
@[simp] theorem Lane.irqIf_frame (l : Lane) (c : Bool) (x : Fld) : (l.irqIf c x).frame = l.frame := by cases c <;> rfl
@[simp] theorem Lane.irqIf_inloss (l : Lane) (c : Bool) (x : Fld) : (l.irqIf c x).inloss = l.inloss := by cases c <;> rfl
@[simp] theorem Lane.irqIf_lastSeq (l : Lane) (c : Bool) (x : Fld) : (l.irqIf c x).lastSeq = l.lastSeq := by cases c <;> rfl
@[simp] theorem Lane.irqIf_laneflt (l : Lane) (c : Bool) (x : Fld) : (l.irqIf c x).laneflt = l.laneflt := by cases c <;> rfl
@[simp] theorem Lane.irqIf_deadlineFlt (l : Lane) (c : Bool) (x : Fld) : (l.irqIf c x).deadlineFlt = l.deadlineFlt := by cases c <;> rfl
@[simp] theorem Lane.irqIf_loopsLate (l : Lane) (c : Bool) (x : Fld) : (l.irqIf c x).loopsLate = l.loopsLate := by cases c <;> rfl
@[simp] theorem Lane.irqIf_asyfail (l : Lane) (c : Bool) (x : Fld) : (l.irqIf c x).asyfail = l.asyfail := by cases c <;> rfl
@[simp] theorem Lane.irqIf_ranFrame (l : Lane) (c : Bool) (x : Fld) : (l.irqIf c x).ranFrame = l.ranFrame := by cases c <;> rfl
@[simp] theorem Lane.irqIf_k0 (l : Lane) (c : Bool) (x : Fld) : (l.irqIf c x).k0 = l.k0 := by cases c <;> rfl
@[simp] theorem Lane.irqIf_reduced (l : Lane) (c : Bool) (x : Fld) : (l.irqIf c x).reduced = l.reduced := by cases c <;> rfl
@[simp] theorem Lane.irqIf_redEnd (l : Lane) (c : Bool) (x : Fld) : (l.irqIf c x).redEnd = l.redEnd := by cases c <;> rfl
@[simp] theorem Lane.irqIf_restart (l : Lane) (c : Bool) (x : Fld) : (l.irqIf c x).restart = l.restart := by cases c <;> rfl
@[simp] theorem Lane.irqIf_out (l : Lane) (c : Bool) (x : Fld) : (l.irqIf c x).out = l.out := by cases c <;> rfl
@[simp] theorem Lane.irqIf_lastOut (l : Lane) (c : Bool) (x : Fld) : (l.irqIf c x).lastOut = l.lastOut := by cases c <;> rfl
@[simp] theorem Lane.irqIf_leftOut (l : Lane) (c : Bool) (x : Fld) : (l.irqIf c x).leftOut = l.leftOut := by cases c <;> rfl
@[simp] theorem Lane.irqIf_delivered (l : Lane) (c : Bool) (x : Fld) : (l.irqIf c x).delivered = l.delivered := by cases c <;> rfl
@[simp] theorem Lane.irqIf_hb (l : Lane) (c : Bool) (x : Fld) : (l.irqIf c x).hb = l.hb := by cases c <;> rfl
@[simp] theorem Lane.irqIf_prevBlock (l : Lane) (c : Bool) (x : Fld) : (l.irqIf c x).prevBlock = l.prevBlock := by cases c <;> rfl
@[simp] theorem Lane.irqIf_met (l : Lane) (c : Bool) (x : Fld) : (l.irqIf c x).met = l.met := by cases c <;> rfl
@[simp] theorem Lane.irqIf_heat (l : Lane) (c : Bool) (x : Fld) : (l.irqIf c x).heat = l.heat := by cases c <;> rfl
@[simp] theorem Lane.irqIf_nv (l : Lane) (c : Bool) (x : Fld) : (l.irqIf c x).nv = l.nv := by cases c <;> rfl
@[simp] theorem Lane.irqIf_time (l : Lane) (c : Bool) (x : Fld) : (l.irqIf c x).time = l.time := by cases c <;> rfl
@[simp] theorem Lane.irqIf_ptp (l : Lane) (c : Bool) (x : Fld) : (l.irqIf c x).ptp = l.ptp := by cases c <;> rfl
@[simp] theorem Lane.irqIf_tsq (l : Lane) (c : Bool) (x : Fld) : (l.irqIf c x).tsq = l.tsq := by cases c <;> rfl
@[simp] theorem Lane.irqIf_queues (l : Lane) (c : Bool) (x : Fld) : (l.irqIf c x).queues = l.queues := by cases c <;> rfl
@[simp] theorem Lane.irqIf_pat (l : Lane) (c : Bool) (x : Fld) : (l.irqIf c x).pat = l.pat := by cases c <;> rfl
@[simp] theorem Lane.irqIf_loops (l : Lane) (c : Bool) (x : Fld) : (l.irqIf c x).loops = l.loops := by cases c <;> rfl
@[simp] theorem Lane.irqIf_trc (l : Lane) (c : Bool) (x : Fld) : (l.irqIf c x).trc = l.trc := by cases c <;> rfl
@[simp] theorem Lane.irqIf_prg (l : Lane) (c : Bool) (x : Fld) : (l.irqIf c x).prg = l.prg := by cases c <;> rfl
@[simp] theorem Lane.irqIf_slv (l : Lane) (c : Bool) (x : Fld) : (l.irqIf c x).slv = l.slv := by cases c <;> rfl
@[simp] theorem Lane.irqIf_opt (l : Lane) (c : Bool) (x : Fld) : (l.irqIf c x).opt = l.opt := by cases c <;> rfl
@[simp] theorem Lane.irqIf_sec (l : Lane) (c : Bool) (x : Fld) : (l.irqIf c x).sec = l.sec := by cases c <;> rfl
@[simp] theorem Lane.irqIf_fuses (l : Lane) (c : Bool) (x : Fld) : (l.irqIf c x).fuses = l.fuses := by cases c <;> rfl
@[simp] theorem Lane.irqIf_asy (l : Lane) (c : Bool) (x : Fld) : (l.irqIf c x).asy = l.asy := by cases c <;> rfl
@[simp] theorem Lane.irqIf_fab (l : Lane) (c : Bool) (x : Fld) : (l.irqIf c x).fab = l.fab := by cases c <;> rfl
@[simp] theorem Lane.irqIf_ports (l : Lane) (c : Bool) (x : Fld) : (l.irqIf c x).ports = l.ports := by cases c <;> rfl
@[simp] theorem Lane.irqIf_dlist (l : Lane) (c : Bool) (x : Fld) : (l.irqIf c x).dlist = l.dlist := by cases c <;> rfl
@[simp] theorem Lane.irqIf_panel (l : Lane) (c : Bool) (x : Fld) : (l.irqIf c x).panel = l.panel := by cases c <;> rfl
@[simp] theorem Lane.irqIf_qdo (l : Lane) (c : Bool) (x : Fld) : (l.irqIf c x).qdo = l.qdo := by cases c <;> rfl
@[simp] theorem Lane.irqIf_dispCfg (l : Lane) (c : Bool) (x : Fld) : (l.irqIf c x).dispCfg = l.dispCfg := by cases c <;> rfl
@[simp] theorem Lane.irqIf_busyFrom (l : Lane) (c : Bool) (x : Fld) : (l.irqIf c x).busyFrom = l.busyFrom := by cases c <;> rfl
@[simp] theorem Lane.irqIf_mem (l : Lane) (c : Bool) (x : Fld) : (l.irqIf c x).mem = l.mem := by cases c <;> rfl
@[simp] theorem Lane.irqIf_answers (l : Lane) (c : Bool) (x : Fld) : (l.irqIf c x).answers = l.answers := by cases c <;> rfl
@[simp] theorem Lane.post_id (l : Lane) (c : Nat) : (l.post c).id = l.id := by unfold Lane.post; split <;> rfl
@[simp] theorem Lane.post_running (l : Lane) (c : Nat) : (l.post c).running = l.running := by unfold Lane.post; split <;> rfl
@[simp] theorem Lane.post_phase (l : Lane) (c : Nat) : (l.post c).phase = l.phase := by unfold Lane.post; split <;> rfl
@[simp] theorem Lane.post_view (l : Lane) (c : Nat) : (l.post c).view = l.view := by unfold Lane.post; split <;> rfl
@[simp] theorem Lane.post_held (l : Lane) (c : Nat) : (l.post c).held = l.held := by unfold Lane.post; split <;> rfl
@[simp] theorem Lane.post_opened (l : Lane) (c : Nat) : (l.post c).opened = l.opened := by unfold Lane.post; split <;> rfl
@[simp] theorem Lane.post_presets (l : Lane) (c : Nat) : (l.post c).presets = l.presets := by unfold Lane.post; split <;> rfl
@[simp] theorem Lane.post_frame (l : Lane) (c : Nat) : (l.post c).frame = l.frame := by unfold Lane.post; split <;> rfl
@[simp] theorem Lane.post_inloss (l : Lane) (c : Nat) : (l.post c).inloss = l.inloss := by unfold Lane.post; split <;> rfl
@[simp] theorem Lane.post_lastSeq (l : Lane) (c : Nat) : (l.post c).lastSeq = l.lastSeq := by unfold Lane.post; split <;> rfl
@[simp] theorem Lane.post_laneflt (l : Lane) (c : Nat) : (l.post c).laneflt = l.laneflt := by unfold Lane.post; split <;> rfl
@[simp] theorem Lane.post_deadlineFlt (l : Lane) (c : Nat) : (l.post c).deadlineFlt = l.deadlineFlt := by unfold Lane.post; split <;> rfl
@[simp] theorem Lane.post_loopsLate (l : Lane) (c : Nat) : (l.post c).loopsLate = l.loopsLate := by unfold Lane.post; split <;> rfl
@[simp] theorem Lane.post_asyfail (l : Lane) (c : Nat) : (l.post c).asyfail = l.asyfail := by unfold Lane.post; split <;> rfl
@[simp] theorem Lane.post_ranFrame (l : Lane) (c : Nat) : (l.post c).ranFrame = l.ranFrame := by unfold Lane.post; split <;> rfl
@[simp] theorem Lane.post_k0 (l : Lane) (c : Nat) : (l.post c).k0 = l.k0 := by unfold Lane.post; split <;> rfl
@[simp] theorem Lane.post_reduced (l : Lane) (c : Nat) : (l.post c).reduced = l.reduced := by unfold Lane.post; split <;> rfl
@[simp] theorem Lane.post_redEnd (l : Lane) (c : Nat) : (l.post c).redEnd = l.redEnd := by unfold Lane.post; split <;> rfl
@[simp] theorem Lane.post_restart (l : Lane) (c : Nat) : (l.post c).restart = l.restart := by unfold Lane.post; split <;> rfl
@[simp] theorem Lane.post_out (l : Lane) (c : Nat) : (l.post c).out = l.out := by unfold Lane.post; split <;> rfl
@[simp] theorem Lane.post_lastOut (l : Lane) (c : Nat) : (l.post c).lastOut = l.lastOut := by unfold Lane.post; split <;> rfl
@[simp] theorem Lane.post_leftOut (l : Lane) (c : Nat) : (l.post c).leftOut = l.leftOut := by unfold Lane.post; split <;> rfl
@[simp] theorem Lane.post_delivered (l : Lane) (c : Nat) : (l.post c).delivered = l.delivered := by unfold Lane.post; split <;> rfl
@[simp] theorem Lane.post_hb (l : Lane) (c : Nat) : (l.post c).hb = l.hb := by unfold Lane.post; split <;> rfl
@[simp] theorem Lane.post_prevBlock (l : Lane) (c : Nat) : (l.post c).prevBlock = l.prevBlock := by unfold Lane.post; split <;> rfl
@[simp] theorem Lane.post_met (l : Lane) (c : Nat) : (l.post c).met = l.met := by unfold Lane.post; split <;> rfl
@[simp] theorem Lane.post_heat (l : Lane) (c : Nat) : (l.post c).heat = l.heat := by unfold Lane.post; split <;> rfl
@[simp] theorem Lane.post_nv (l : Lane) (c : Nat) : (l.post c).nv = l.nv := by unfold Lane.post; split <;> rfl
@[simp] theorem Lane.post_time (l : Lane) (c : Nat) : (l.post c).time = l.time := by unfold Lane.post; split <;> rfl
@[simp] theorem Lane.post_ptp (l : Lane) (c : Nat) : (l.post c).ptp = l.ptp := by unfold Lane.post; split <;> rfl
@[simp] theorem Lane.post_tsq (l : Lane) (c : Nat) : (l.post c).tsq = l.tsq := by unfold Lane.post; split <;> rfl
@[simp] theorem Lane.post_queues (l : Lane) (c : Nat) : (l.post c).queues = l.queues := by unfold Lane.post; split <;> rfl
@[simp] theorem Lane.post_pat (l : Lane) (c : Nat) : (l.post c).pat = l.pat := by unfold Lane.post; split <;> rfl
@[simp] theorem Lane.post_loops (l : Lane) (c : Nat) : (l.post c).loops = l.loops := by unfold Lane.post; split <;> rfl
@[simp] theorem Lane.post_trc (l : Lane) (c : Nat) : (l.post c).trc = l.trc := by unfold Lane.post; split <;> rfl
@[simp] theorem Lane.post_prg (l : Lane) (c : Nat) : (l.post c).prg = l.prg := by unfold Lane.post; split <;> rfl
@[simp] theorem Lane.post_slv (l : Lane) (c : Nat) : (l.post c).slv = l.slv := by unfold Lane.post; split <;> rfl
@[simp] theorem Lane.post_opt (l : Lane) (c : Nat) : (l.post c).opt = l.opt := by unfold Lane.post; split <;> rfl
@[simp] theorem Lane.post_sec (l : Lane) (c : Nat) : (l.post c).sec = l.sec := by unfold Lane.post; split <;> rfl
@[simp] theorem Lane.post_fuses (l : Lane) (c : Nat) : (l.post c).fuses = l.fuses := by unfold Lane.post; split <;> rfl
@[simp] theorem Lane.post_asy (l : Lane) (c : Nat) : (l.post c).asy = l.asy := by unfold Lane.post; split <;> rfl
@[simp] theorem Lane.post_fab (l : Lane) (c : Nat) : (l.post c).fab = l.fab := by unfold Lane.post; split <;> rfl
@[simp] theorem Lane.post_ports (l : Lane) (c : Nat) : (l.post c).ports = l.ports := by unfold Lane.post; split <;> rfl
@[simp] theorem Lane.post_dlist (l : Lane) (c : Nat) : (l.post c).dlist = l.dlist := by unfold Lane.post; split <;> rfl
@[simp] theorem Lane.post_panel (l : Lane) (c : Nat) : (l.post c).panel = l.panel := by unfold Lane.post; split <;> rfl
@[simp] theorem Lane.post_qdo (l : Lane) (c : Nat) : (l.post c).qdo = l.qdo := by unfold Lane.post; split <;> rfl
@[simp] theorem Lane.post_dispCfg (l : Lane) (c : Nat) : (l.post c).dispCfg = l.dispCfg := by unfold Lane.post; split <;> rfl
@[simp] theorem Lane.post_busyFrom (l : Lane) (c : Nat) : (l.post c).busyFrom = l.busyFrom := by unfold Lane.post; split <;> rfl
@[simp] theorem Lane.post_mem (l : Lane) (c : Nat) : (l.post c).mem = l.mem := by unfold Lane.post; split <;> rfl
@[simp] theorem Lane.post_answers (l : Lane) (c : Nat) : (l.post c).answers = l.answers := by unfold Lane.post; split <;> rfl
@[simp] theorem Lane.postStatus_id (l : Lane) (c : Nat) : (l.postStatus c).id = l.id := by unfold Lane.postStatus; split <;> simp
@[simp] theorem Lane.postStatus_running (l : Lane) (c : Nat) : (l.postStatus c).running = l.running := by unfold Lane.postStatus; split <;> simp
@[simp] theorem Lane.postStatus_phase (l : Lane) (c : Nat) : (l.postStatus c).phase = l.phase := by unfold Lane.postStatus; split <;> simp
@[simp] theorem Lane.postStatus_view (l : Lane) (c : Nat) : (l.postStatus c).view = l.view := by unfold Lane.postStatus; split <;> simp
@[simp] theorem Lane.postStatus_held (l : Lane) (c : Nat) : (l.postStatus c).held = l.held := by unfold Lane.postStatus; split <;> simp
@[simp] theorem Lane.postStatus_opened (l : Lane) (c : Nat) : (l.postStatus c).opened = l.opened := by unfold Lane.postStatus; split <;> simp
@[simp] theorem Lane.postStatus_presets (l : Lane) (c : Nat) : (l.postStatus c).presets = l.presets := by unfold Lane.postStatus; split <;> simp
@[simp] theorem Lane.postStatus_frame (l : Lane) (c : Nat) : (l.postStatus c).frame = l.frame := by unfold Lane.postStatus; split <;> simp
@[simp] theorem Lane.postStatus_inloss (l : Lane) (c : Nat) : (l.postStatus c).inloss = l.inloss := by unfold Lane.postStatus; split <;> simp
@[simp] theorem Lane.postStatus_lastSeq (l : Lane) (c : Nat) : (l.postStatus c).lastSeq = l.lastSeq := by unfold Lane.postStatus; split <;> simp
@[simp] theorem Lane.postStatus_laneflt (l : Lane) (c : Nat) : (l.postStatus c).laneflt = l.laneflt := by unfold Lane.postStatus; split <;> simp
@[simp] theorem Lane.postStatus_deadlineFlt (l : Lane) (c : Nat) : (l.postStatus c).deadlineFlt = l.deadlineFlt := by unfold Lane.postStatus; split <;> simp
@[simp] theorem Lane.postStatus_loopsLate (l : Lane) (c : Nat) : (l.postStatus c).loopsLate = l.loopsLate := by unfold Lane.postStatus; split <;> simp
@[simp] theorem Lane.postStatus_asyfail (l : Lane) (c : Nat) : (l.postStatus c).asyfail = l.asyfail := by unfold Lane.postStatus; split <;> simp
@[simp] theorem Lane.postStatus_ranFrame (l : Lane) (c : Nat) : (l.postStatus c).ranFrame = l.ranFrame := by unfold Lane.postStatus; split <;> simp
@[simp] theorem Lane.postStatus_k0 (l : Lane) (c : Nat) : (l.postStatus c).k0 = l.k0 := by unfold Lane.postStatus; split <;> simp
@[simp] theorem Lane.postStatus_reduced (l : Lane) (c : Nat) : (l.postStatus c).reduced = l.reduced := by unfold Lane.postStatus; split <;> simp
@[simp] theorem Lane.postStatus_redEnd (l : Lane) (c : Nat) : (l.postStatus c).redEnd = l.redEnd := by unfold Lane.postStatus; split <;> simp
@[simp] theorem Lane.postStatus_restart (l : Lane) (c : Nat) : (l.postStatus c).restart = l.restart := by unfold Lane.postStatus; split <;> simp
@[simp] theorem Lane.postStatus_out (l : Lane) (c : Nat) : (l.postStatus c).out = l.out := by unfold Lane.postStatus; split <;> simp
@[simp] theorem Lane.postStatus_lastOut (l : Lane) (c : Nat) : (l.postStatus c).lastOut = l.lastOut := by unfold Lane.postStatus; split <;> simp
@[simp] theorem Lane.postStatus_leftOut (l : Lane) (c : Nat) : (l.postStatus c).leftOut = l.leftOut := by unfold Lane.postStatus; split <;> simp
@[simp] theorem Lane.postStatus_delivered (l : Lane) (c : Nat) : (l.postStatus c).delivered = l.delivered := by unfold Lane.postStatus; split <;> simp
@[simp] theorem Lane.postStatus_hb (l : Lane) (c : Nat) : (l.postStatus c).hb = l.hb := by unfold Lane.postStatus; split <;> simp
@[simp] theorem Lane.postStatus_prevBlock (l : Lane) (c : Nat) : (l.postStatus c).prevBlock = l.prevBlock := by unfold Lane.postStatus; split <;> simp
@[simp] theorem Lane.postStatus_met (l : Lane) (c : Nat) : (l.postStatus c).met = l.met := by unfold Lane.postStatus; split <;> simp
@[simp] theorem Lane.postStatus_heat (l : Lane) (c : Nat) : (l.postStatus c).heat = l.heat := by unfold Lane.postStatus; split <;> simp
@[simp] theorem Lane.postStatus_nv (l : Lane) (c : Nat) : (l.postStatus c).nv = l.nv := by unfold Lane.postStatus; split <;> simp
@[simp] theorem Lane.postStatus_time (l : Lane) (c : Nat) : (l.postStatus c).time = l.time := by unfold Lane.postStatus; split <;> simp
@[simp] theorem Lane.postStatus_ptp (l : Lane) (c : Nat) : (l.postStatus c).ptp = l.ptp := by unfold Lane.postStatus; split <;> simp
@[simp] theorem Lane.postStatus_tsq (l : Lane) (c : Nat) : (l.postStatus c).tsq = l.tsq := by unfold Lane.postStatus; split <;> simp
@[simp] theorem Lane.postStatus_queues (l : Lane) (c : Nat) : (l.postStatus c).queues = l.queues := by unfold Lane.postStatus; split <;> simp
@[simp] theorem Lane.postStatus_pat (l : Lane) (c : Nat) : (l.postStatus c).pat = l.pat := by unfold Lane.postStatus; split <;> simp
@[simp] theorem Lane.postStatus_loops (l : Lane) (c : Nat) : (l.postStatus c).loops = l.loops := by unfold Lane.postStatus; split <;> simp
@[simp] theorem Lane.postStatus_trc (l : Lane) (c : Nat) : (l.postStatus c).trc = l.trc := by unfold Lane.postStatus; split <;> simp
@[simp] theorem Lane.postStatus_prg (l : Lane) (c : Nat) : (l.postStatus c).prg = l.prg := by unfold Lane.postStatus; split <;> simp
@[simp] theorem Lane.postStatus_slv (l : Lane) (c : Nat) : (l.postStatus c).slv = l.slv := by unfold Lane.postStatus; split <;> simp
@[simp] theorem Lane.postStatus_opt (l : Lane) (c : Nat) : (l.postStatus c).opt = l.opt := by unfold Lane.postStatus; split <;> simp
@[simp] theorem Lane.postStatus_sec (l : Lane) (c : Nat) : (l.postStatus c).sec = l.sec := by unfold Lane.postStatus; split <;> simp
@[simp] theorem Lane.postStatus_fuses (l : Lane) (c : Nat) : (l.postStatus c).fuses = l.fuses := by unfold Lane.postStatus; split <;> simp
@[simp] theorem Lane.postStatus_asy (l : Lane) (c : Nat) : (l.postStatus c).asy = l.asy := by unfold Lane.postStatus; split <;> simp
@[simp] theorem Lane.postStatus_fab (l : Lane) (c : Nat) : (l.postStatus c).fab = l.fab := by unfold Lane.postStatus; split <;> simp
@[simp] theorem Lane.postStatus_ports (l : Lane) (c : Nat) : (l.postStatus c).ports = l.ports := by unfold Lane.postStatus; split <;> simp
@[simp] theorem Lane.postStatus_dlist (l : Lane) (c : Nat) : (l.postStatus c).dlist = l.dlist := by unfold Lane.postStatus; split <;> simp
@[simp] theorem Lane.postStatus_panel (l : Lane) (c : Nat) : (l.postStatus c).panel = l.panel := by unfold Lane.postStatus; split <;> simp
@[simp] theorem Lane.postStatus_qdo (l : Lane) (c : Nat) : (l.postStatus c).qdo = l.qdo := by unfold Lane.postStatus; split <;> simp
@[simp] theorem Lane.postStatus_dispCfg (l : Lane) (c : Nat) : (l.postStatus c).dispCfg = l.dispCfg := by unfold Lane.postStatus; split <;> simp
@[simp] theorem Lane.postStatus_busyFrom (l : Lane) (c : Nat) : (l.postStatus c).busyFrom = l.busyFrom := by unfold Lane.postStatus; split <;> simp
@[simp] theorem Lane.postStatus_mem (l : Lane) (c : Nat) : (l.postStatus c).mem = l.mem := by unfold Lane.postStatus; split <;> simp
@[simp] theorem Lane.postStatus_answers (l : Lane) (c : Nat) : (l.postStatus c).answers = l.answers := by unfold Lane.postStatus; split <;> simp
@[simp] theorem Lane.noteRise_id (l : Lane) (b : Lane) (p : Nat) : (l.noteRise b p).id = l.id := rfl
@[simp] theorem Lane.noteRise_running (l : Lane) (b : Lane) (p : Nat) : (l.noteRise b p).running = l.running := rfl
@[simp] theorem Lane.noteRise_phase (l : Lane) (b : Lane) (p : Nat) : (l.noteRise b p).phase = l.phase := rfl
@[simp] theorem Lane.noteRise_regs (l : Lane) (b : Lane) (p : Nat) : (l.noteRise b p).regs = l.regs := rfl
@[simp] theorem Lane.noteRise_view (l : Lane) (b : Lane) (p : Nat) : (l.noteRise b p).view = l.view := rfl
@[simp] theorem Lane.noteRise_held (l : Lane) (b : Lane) (p : Nat) : (l.noteRise b p).held = l.held := rfl
@[simp] theorem Lane.noteRise_opened (l : Lane) (b : Lane) (p : Nat) : (l.noteRise b p).opened = l.opened := rfl
@[simp] theorem Lane.noteRise_irqSet (l : Lane) (b : Lane) (p : Nat) : (l.noteRise b p).irqSet = l.irqSet := rfl
@[simp] theorem Lane.noteRise_presets (l : Lane) (b : Lane) (p : Nat) : (l.noteRise b p).presets = l.presets := rfl
@[simp] theorem Lane.noteRise_frame (l : Lane) (b : Lane) (p : Nat) : (l.noteRise b p).frame = l.frame := rfl
@[simp] theorem Lane.noteRise_inloss (l : Lane) (b : Lane) (p : Nat) : (l.noteRise b p).inloss = l.inloss := rfl
@[simp] theorem Lane.noteRise_lastSeq (l : Lane) (b : Lane) (p : Nat) : (l.noteRise b p).lastSeq = l.lastSeq := rfl
@[simp] theorem Lane.noteRise_laneflt (l : Lane) (b : Lane) (p : Nat) : (l.noteRise b p).laneflt = l.laneflt := rfl
@[simp] theorem Lane.noteRise_deadlineFlt (l : Lane) (b : Lane) (p : Nat) : (l.noteRise b p).deadlineFlt = l.deadlineFlt := rfl
@[simp] theorem Lane.noteRise_loopsLate (l : Lane) (b : Lane) (p : Nat) : (l.noteRise b p).loopsLate = l.loopsLate := rfl
@[simp] theorem Lane.noteRise_asyfail (l : Lane) (b : Lane) (p : Nat) : (l.noteRise b p).asyfail = l.asyfail := rfl
@[simp] theorem Lane.noteRise_ranFrame (l : Lane) (b : Lane) (p : Nat) : (l.noteRise b p).ranFrame = l.ranFrame := rfl
@[simp] theorem Lane.noteRise_k0 (l : Lane) (b : Lane) (p : Nat) : (l.noteRise b p).k0 = l.k0 := rfl
@[simp] theorem Lane.noteRise_reduced (l : Lane) (b : Lane) (p : Nat) : (l.noteRise b p).reduced = l.reduced := rfl
@[simp] theorem Lane.noteRise_redEnd (l : Lane) (b : Lane) (p : Nat) : (l.noteRise b p).redEnd = l.redEnd := rfl
@[simp] theorem Lane.noteRise_restart (l : Lane) (b : Lane) (p : Nat) : (l.noteRise b p).restart = l.restart := rfl
@[simp] theorem Lane.noteRise_out (l : Lane) (b : Lane) (p : Nat) : (l.noteRise b p).out = l.out := rfl
@[simp] theorem Lane.noteRise_lastOut (l : Lane) (b : Lane) (p : Nat) : (l.noteRise b p).lastOut = l.lastOut := rfl
@[simp] theorem Lane.noteRise_leftOut (l : Lane) (b : Lane) (p : Nat) : (l.noteRise b p).leftOut = l.leftOut := rfl
@[simp] theorem Lane.noteRise_delivered (l : Lane) (b : Lane) (p : Nat) : (l.noteRise b p).delivered = l.delivered := rfl
@[simp] theorem Lane.noteRise_hb (l : Lane) (b : Lane) (p : Nat) : (l.noteRise b p).hb = l.hb := rfl
@[simp] theorem Lane.noteRise_prevBlock (l : Lane) (b : Lane) (p : Nat) : (l.noteRise b p).prevBlock = l.prevBlock := rfl
@[simp] theorem Lane.noteRise_met (l : Lane) (b : Lane) (p : Nat) : (l.noteRise b p).met = l.met := rfl
@[simp] theorem Lane.noteRise_heat (l : Lane) (b : Lane) (p : Nat) : (l.noteRise b p).heat = l.heat := rfl
@[simp] theorem Lane.noteRise_nv (l : Lane) (b : Lane) (p : Nat) : (l.noteRise b p).nv = l.nv := rfl
@[simp] theorem Lane.noteRise_time (l : Lane) (b : Lane) (p : Nat) : (l.noteRise b p).time = l.time := rfl
@[simp] theorem Lane.noteRise_ptp (l : Lane) (b : Lane) (p : Nat) : (l.noteRise b p).ptp = l.ptp := rfl
@[simp] theorem Lane.noteRise_tsq (l : Lane) (b : Lane) (p : Nat) : (l.noteRise b p).tsq = l.tsq := rfl
@[simp] theorem Lane.noteRise_queues (l : Lane) (b : Lane) (p : Nat) : (l.noteRise b p).queues = l.queues := rfl
@[simp] theorem Lane.noteRise_pat (l : Lane) (b : Lane) (p : Nat) : (l.noteRise b p).pat = l.pat := rfl
@[simp] theorem Lane.noteRise_loops (l : Lane) (b : Lane) (p : Nat) : (l.noteRise b p).loops = l.loops := rfl
@[simp] theorem Lane.noteRise_trc (l : Lane) (b : Lane) (p : Nat) : (l.noteRise b p).trc = l.trc := rfl
@[simp] theorem Lane.noteRise_prg (l : Lane) (b : Lane) (p : Nat) : (l.noteRise b p).prg = l.prg := rfl
@[simp] theorem Lane.noteRise_slv (l : Lane) (b : Lane) (p : Nat) : (l.noteRise b p).slv = l.slv := rfl
@[simp] theorem Lane.noteRise_opt (l : Lane) (b : Lane) (p : Nat) : (l.noteRise b p).opt = l.opt := rfl
@[simp] theorem Lane.noteRise_sec (l : Lane) (b : Lane) (p : Nat) : (l.noteRise b p).sec = l.sec := rfl
@[simp] theorem Lane.noteRise_fuses (l : Lane) (b : Lane) (p : Nat) : (l.noteRise b p).fuses = l.fuses := rfl
@[simp] theorem Lane.noteRise_asy (l : Lane) (b : Lane) (p : Nat) : (l.noteRise b p).asy = l.asy := rfl
@[simp] theorem Lane.noteRise_fab (l : Lane) (b : Lane) (p : Nat) : (l.noteRise b p).fab = l.fab := rfl
@[simp] theorem Lane.noteRise_ports (l : Lane) (b : Lane) (p : Nat) : (l.noteRise b p).ports = l.ports := rfl
@[simp] theorem Lane.noteRise_dlist (l : Lane) (b : Lane) (p : Nat) : (l.noteRise b p).dlist = l.dlist := rfl
@[simp] theorem Lane.noteRise_panel (l : Lane) (b : Lane) (p : Nat) : (l.noteRise b p).panel = l.panel := rfl
@[simp] theorem Lane.noteRise_qdo (l : Lane) (b : Lane) (p : Nat) : (l.noteRise b p).qdo = l.qdo := rfl
@[simp] theorem Lane.noteRise_dispCfg (l : Lane) (b : Lane) (p : Nat) : (l.noteRise b p).dispCfg = l.dispCfg := rfl
@[simp] theorem Lane.noteRise_busyFrom (l : Lane) (b : Lane) (p : Nat) : (l.noteRise b p).busyFrom = l.busyFrom := rfl
@[simp] theorem Lane.noteRise_mem (l : Lane) (b : Lane) (p : Nat) : (l.noteRise b p).mem = l.mem := rfl
@[simp] theorem Lane.noteRise_answers (l : Lane) (b : Lane) (p : Nat) : (l.noteRise b p).answers = l.answers := rfl
@[simp] theorem Lane.closeLock_id (l : Lane) (p : Nat) : (l.closeLock p).id = l.id := rfl
@[simp] theorem Lane.closeLock_running (l : Lane) (p : Nat) : (l.closeLock p).running = l.running := rfl
@[simp] theorem Lane.closeLock_phase (l : Lane) (p : Nat) : (l.closeLock p).phase = l.phase := rfl
@[simp] theorem Lane.closeLock_regs (l : Lane) (p : Nat) : (l.closeLock p).regs = l.regs := rfl
@[simp] theorem Lane.closeLock_view (l : Lane) (p : Nat) : (l.closeLock p).view = l.view := rfl
@[simp] theorem Lane.closeLock_held (l : Lane) (p : Nat) : (l.closeLock p).held = l.held := rfl
@[simp] theorem Lane.closeLock_irqSet (l : Lane) (p : Nat) : (l.closeLock p).irqSet = l.irqSet := rfl
@[simp] theorem Lane.closeLock_rose (l : Lane) (p : Nat) : (l.closeLock p).rose = l.rose := rfl
@[simp] theorem Lane.closeLock_presets (l : Lane) (p : Nat) : (l.closeLock p).presets = l.presets := rfl
@[simp] theorem Lane.closeLock_frame (l : Lane) (p : Nat) : (l.closeLock p).frame = l.frame := rfl
@[simp] theorem Lane.closeLock_inloss (l : Lane) (p : Nat) : (l.closeLock p).inloss = l.inloss := rfl
@[simp] theorem Lane.closeLock_lastSeq (l : Lane) (p : Nat) : (l.closeLock p).lastSeq = l.lastSeq := rfl
@[simp] theorem Lane.closeLock_laneflt (l : Lane) (p : Nat) : (l.closeLock p).laneflt = l.laneflt := rfl
@[simp] theorem Lane.closeLock_deadlineFlt (l : Lane) (p : Nat) : (l.closeLock p).deadlineFlt = l.deadlineFlt := rfl
@[simp] theorem Lane.closeLock_loopsLate (l : Lane) (p : Nat) : (l.closeLock p).loopsLate = l.loopsLate := rfl
@[simp] theorem Lane.closeLock_asyfail (l : Lane) (p : Nat) : (l.closeLock p).asyfail = l.asyfail := rfl
@[simp] theorem Lane.closeLock_ranFrame (l : Lane) (p : Nat) : (l.closeLock p).ranFrame = l.ranFrame := rfl
@[simp] theorem Lane.closeLock_k0 (l : Lane) (p : Nat) : (l.closeLock p).k0 = l.k0 := rfl
@[simp] theorem Lane.closeLock_reduced (l : Lane) (p : Nat) : (l.closeLock p).reduced = l.reduced := rfl
@[simp] theorem Lane.closeLock_redEnd (l : Lane) (p : Nat) : (l.closeLock p).redEnd = l.redEnd := rfl
@[simp] theorem Lane.closeLock_restart (l : Lane) (p : Nat) : (l.closeLock p).restart = l.restart := rfl
@[simp] theorem Lane.closeLock_out (l : Lane) (p : Nat) : (l.closeLock p).out = l.out := rfl
@[simp] theorem Lane.closeLock_lastOut (l : Lane) (p : Nat) : (l.closeLock p).lastOut = l.lastOut := rfl
@[simp] theorem Lane.closeLock_leftOut (l : Lane) (p : Nat) : (l.closeLock p).leftOut = l.leftOut := rfl
@[simp] theorem Lane.closeLock_delivered (l : Lane) (p : Nat) : (l.closeLock p).delivered = l.delivered := rfl
@[simp] theorem Lane.closeLock_hb (l : Lane) (p : Nat) : (l.closeLock p).hb = l.hb := rfl
@[simp] theorem Lane.closeLock_prevBlock (l : Lane) (p : Nat) : (l.closeLock p).prevBlock = l.prevBlock := rfl
@[simp] theorem Lane.closeLock_met (l : Lane) (p : Nat) : (l.closeLock p).met = l.met := rfl
@[simp] theorem Lane.closeLock_heat (l : Lane) (p : Nat) : (l.closeLock p).heat = l.heat := rfl
@[simp] theorem Lane.closeLock_nv (l : Lane) (p : Nat) : (l.closeLock p).nv = l.nv := rfl
@[simp] theorem Lane.closeLock_time (l : Lane) (p : Nat) : (l.closeLock p).time = l.time := rfl
@[simp] theorem Lane.closeLock_ptp (l : Lane) (p : Nat) : (l.closeLock p).ptp = l.ptp := rfl
@[simp] theorem Lane.closeLock_tsq (l : Lane) (p : Nat) : (l.closeLock p).tsq = l.tsq := rfl
@[simp] theorem Lane.closeLock_queues (l : Lane) (p : Nat) : (l.closeLock p).queues = l.queues := rfl
@[simp] theorem Lane.closeLock_pat (l : Lane) (p : Nat) : (l.closeLock p).pat = l.pat := rfl
@[simp] theorem Lane.closeLock_loops (l : Lane) (p : Nat) : (l.closeLock p).loops = l.loops := rfl
@[simp] theorem Lane.closeLock_trc (l : Lane) (p : Nat) : (l.closeLock p).trc = l.trc := rfl
@[simp] theorem Lane.closeLock_prg (l : Lane) (p : Nat) : (l.closeLock p).prg = l.prg := rfl
@[simp] theorem Lane.closeLock_slv (l : Lane) (p : Nat) : (l.closeLock p).slv = l.slv := rfl
@[simp] theorem Lane.closeLock_opt (l : Lane) (p : Nat) : (l.closeLock p).opt = l.opt := rfl
@[simp] theorem Lane.closeLock_sec (l : Lane) (p : Nat) : (l.closeLock p).sec = l.sec := rfl
@[simp] theorem Lane.closeLock_fuses (l : Lane) (p : Nat) : (l.closeLock p).fuses = l.fuses := rfl
@[simp] theorem Lane.closeLock_asy (l : Lane) (p : Nat) : (l.closeLock p).asy = l.asy := rfl
@[simp] theorem Lane.closeLock_fab (l : Lane) (p : Nat) : (l.closeLock p).fab = l.fab := rfl
@[simp] theorem Lane.closeLock_ports (l : Lane) (p : Nat) : (l.closeLock p).ports = l.ports := rfl
@[simp] theorem Lane.closeLock_dlist (l : Lane) (p : Nat) : (l.closeLock p).dlist = l.dlist := rfl
@[simp] theorem Lane.closeLock_panel (l : Lane) (p : Nat) : (l.closeLock p).panel = l.panel := rfl
@[simp] theorem Lane.closeLock_qdo (l : Lane) (p : Nat) : (l.closeLock p).qdo = l.qdo := rfl
@[simp] theorem Lane.closeLock_dispCfg (l : Lane) (p : Nat) : (l.closeLock p).dispCfg = l.dispCfg := rfl
@[simp] theorem Lane.closeLock_busyFrom (l : Lane) (p : Nat) : (l.closeLock p).busyFrom = l.busyFrom := rfl
@[simp] theorem Lane.closeLock_mem (l : Lane) (p : Nat) : (l.closeLock p).mem = l.mem := rfl
@[simp] theorem Lane.closeLock_answers (l : Lane) (p : Nat) : (l.closeLock p).answers = l.answers := rfl
@[simp] theorem Lane.emit_id (l : Lane) (c d : Nat) (b : OutBody) : (l.emit c d b).id = l.id := rfl
@[simp] theorem Lane.emit_running (l : Lane) (c d : Nat) (b : OutBody) : (l.emit c d b).running = l.running := rfl
@[simp] theorem Lane.emit_phase (l : Lane) (c d : Nat) (b : OutBody) : (l.emit c d b).phase = l.phase := rfl
@[simp] theorem Lane.emit_regs (l : Lane) (c d : Nat) (b : OutBody) : (l.emit c d b).regs = l.regs := rfl
@[simp] theorem Lane.emit_view (l : Lane) (c d : Nat) (b : OutBody) : (l.emit c d b).view = l.view := rfl
@[simp] theorem Lane.emit_held (l : Lane) (c d : Nat) (b : OutBody) : (l.emit c d b).held = l.held := rfl
@[simp] theorem Lane.emit_opened (l : Lane) (c d : Nat) (b : OutBody) : (l.emit c d b).opened = l.opened := rfl
@[simp] theorem Lane.emit_irqSet (l : Lane) (c d : Nat) (b : OutBody) : (l.emit c d b).irqSet = l.irqSet := rfl
@[simp] theorem Lane.emit_rose (l : Lane) (c d : Nat) (b : OutBody) : (l.emit c d b).rose = l.rose := rfl
@[simp] theorem Lane.emit_presets (l : Lane) (c d : Nat) (b : OutBody) : (l.emit c d b).presets = l.presets := rfl
@[simp] theorem Lane.emit_frame (l : Lane) (c d : Nat) (b : OutBody) : (l.emit c d b).frame = l.frame := rfl
@[simp] theorem Lane.emit_inloss (l : Lane) (c d : Nat) (b : OutBody) : (l.emit c d b).inloss = l.inloss := rfl
@[simp] theorem Lane.emit_lastSeq (l : Lane) (c d : Nat) (b : OutBody) : (l.emit c d b).lastSeq = l.lastSeq := rfl
@[simp] theorem Lane.emit_laneflt (l : Lane) (c d : Nat) (b : OutBody) : (l.emit c d b).laneflt = l.laneflt := rfl
@[simp] theorem Lane.emit_deadlineFlt (l : Lane) (c d : Nat) (b : OutBody) : (l.emit c d b).deadlineFlt = l.deadlineFlt := rfl
@[simp] theorem Lane.emit_loopsLate (l : Lane) (c d : Nat) (b : OutBody) : (l.emit c d b).loopsLate = l.loopsLate := rfl
@[simp] theorem Lane.emit_asyfail (l : Lane) (c d : Nat) (b : OutBody) : (l.emit c d b).asyfail = l.asyfail := rfl
@[simp] theorem Lane.emit_ranFrame (l : Lane) (c d : Nat) (b : OutBody) : (l.emit c d b).ranFrame = l.ranFrame := rfl
@[simp] theorem Lane.emit_k0 (l : Lane) (c d : Nat) (b : OutBody) : (l.emit c d b).k0 = l.k0 := rfl
@[simp] theorem Lane.emit_reduced (l : Lane) (c d : Nat) (b : OutBody) : (l.emit c d b).reduced = l.reduced := rfl
@[simp] theorem Lane.emit_redEnd (l : Lane) (c d : Nat) (b : OutBody) : (l.emit c d b).redEnd = l.redEnd := rfl
@[simp] theorem Lane.emit_restart (l : Lane) (c d : Nat) (b : OutBody) : (l.emit c d b).restart = l.restart := rfl
@[simp] theorem Lane.emit_lastOut (l : Lane) (c d : Nat) (b : OutBody) : (l.emit c d b).lastOut = l.lastOut := rfl
@[simp] theorem Lane.emit_leftOut (l : Lane) (c d : Nat) (b : OutBody) : (l.emit c d b).leftOut = l.leftOut := rfl
@[simp] theorem Lane.emit_delivered (l : Lane) (c d : Nat) (b : OutBody) : (l.emit c d b).delivered = l.delivered := rfl
@[simp] theorem Lane.emit_hb (l : Lane) (c d : Nat) (b : OutBody) : (l.emit c d b).hb = l.hb := rfl
@[simp] theorem Lane.emit_prevBlock (l : Lane) (c d : Nat) (b : OutBody) : (l.emit c d b).prevBlock = l.prevBlock := rfl
@[simp] theorem Lane.emit_met (l : Lane) (c d : Nat) (b : OutBody) : (l.emit c d b).met = l.met := rfl
@[simp] theorem Lane.emit_heat (l : Lane) (c d : Nat) (b : OutBody) : (l.emit c d b).heat = l.heat := rfl
@[simp] theorem Lane.emit_nv (l : Lane) (c d : Nat) (b : OutBody) : (l.emit c d b).nv = l.nv := rfl
@[simp] theorem Lane.emit_time (l : Lane) (c d : Nat) (b : OutBody) : (l.emit c d b).time = l.time := rfl
@[simp] theorem Lane.emit_ptp (l : Lane) (c d : Nat) (b : OutBody) : (l.emit c d b).ptp = l.ptp := rfl
@[simp] theorem Lane.emit_tsq (l : Lane) (c d : Nat) (b : OutBody) : (l.emit c d b).tsq = l.tsq := rfl
@[simp] theorem Lane.emit_queues (l : Lane) (c d : Nat) (b : OutBody) : (l.emit c d b).queues = l.queues := rfl
@[simp] theorem Lane.emit_pat (l : Lane) (c d : Nat) (b : OutBody) : (l.emit c d b).pat = l.pat := rfl
@[simp] theorem Lane.emit_loops (l : Lane) (c d : Nat) (b : OutBody) : (l.emit c d b).loops = l.loops := rfl
@[simp] theorem Lane.emit_trc (l : Lane) (c d : Nat) (b : OutBody) : (l.emit c d b).trc = l.trc := rfl
@[simp] theorem Lane.emit_prg (l : Lane) (c d : Nat) (b : OutBody) : (l.emit c d b).prg = l.prg := rfl
@[simp] theorem Lane.emit_slv (l : Lane) (c d : Nat) (b : OutBody) : (l.emit c d b).slv = l.slv := rfl
@[simp] theorem Lane.emit_opt (l : Lane) (c d : Nat) (b : OutBody) : (l.emit c d b).opt = l.opt := rfl
@[simp] theorem Lane.emit_sec (l : Lane) (c d : Nat) (b : OutBody) : (l.emit c d b).sec = l.sec := rfl
@[simp] theorem Lane.emit_fuses (l : Lane) (c d : Nat) (b : OutBody) : (l.emit c d b).fuses = l.fuses := rfl
@[simp] theorem Lane.emit_asy (l : Lane) (c d : Nat) (b : OutBody) : (l.emit c d b).asy = l.asy := rfl
@[simp] theorem Lane.emit_fab (l : Lane) (c d : Nat) (b : OutBody) : (l.emit c d b).fab = l.fab := rfl
@[simp] theorem Lane.emit_ports (l : Lane) (c d : Nat) (b : OutBody) : (l.emit c d b).ports = l.ports := rfl
@[simp] theorem Lane.emit_dlist (l : Lane) (c d : Nat) (b : OutBody) : (l.emit c d b).dlist = l.dlist := rfl
@[simp] theorem Lane.emit_panel (l : Lane) (c d : Nat) (b : OutBody) : (l.emit c d b).panel = l.panel := rfl
@[simp] theorem Lane.emit_qdo (l : Lane) (c d : Nat) (b : OutBody) : (l.emit c d b).qdo = l.qdo := rfl
@[simp] theorem Lane.emit_dispCfg (l : Lane) (c d : Nat) (b : OutBody) : (l.emit c d b).dispCfg = l.dispCfg := rfl
@[simp] theorem Lane.emit_busyFrom (l : Lane) (c d : Nat) (b : OutBody) : (l.emit c d b).busyFrom = l.busyFrom := rfl
@[simp] theorem Lane.emit_mem (l : Lane) (c d : Nat) (b : OutBody) : (l.emit c d b).mem = l.mem := rfl
@[simp] theorem Lane.emit_answers (l : Lane) (c d : Nat) (b : OutBody) : (l.emit c d b).answers = l.answers := rfl
@[simp] theorem Lane.setExe_id (l : Lane) (n : Nat) (e : Executor) : (l.setExe n e).id = l.id := rfl
@[simp] theorem Lane.setExe_running (l : Lane) (n : Nat) (e : Executor) : (l.setExe n e).running = l.running := rfl
@[simp] theorem Lane.setExe_phase (l : Lane) (n : Nat) (e : Executor) : (l.setExe n e).phase = l.phase := rfl
@[simp] theorem Lane.setExe_regs (l : Lane) (n : Nat) (e : Executor) : (l.setExe n e).regs = l.regs := rfl
@[simp] theorem Lane.setExe_view (l : Lane) (n : Nat) (e : Executor) : (l.setExe n e).view = l.view := rfl
@[simp] theorem Lane.setExe_held (l : Lane) (n : Nat) (e : Executor) : (l.setExe n e).held = l.held := rfl
@[simp] theorem Lane.setExe_opened (l : Lane) (n : Nat) (e : Executor) : (l.setExe n e).opened = l.opened := rfl
@[simp] theorem Lane.setExe_irqSet (l : Lane) (n : Nat) (e : Executor) : (l.setExe n e).irqSet = l.irqSet := rfl
@[simp] theorem Lane.setExe_rose (l : Lane) (n : Nat) (e : Executor) : (l.setExe n e).rose = l.rose := rfl
@[simp] theorem Lane.setExe_presets (l : Lane) (n : Nat) (e : Executor) : (l.setExe n e).presets = l.presets := rfl
@[simp] theorem Lane.setExe_frame (l : Lane) (n : Nat) (e : Executor) : (l.setExe n e).frame = l.frame := rfl
@[simp] theorem Lane.setExe_inloss (l : Lane) (n : Nat) (e : Executor) : (l.setExe n e).inloss = l.inloss := rfl
@[simp] theorem Lane.setExe_lastSeq (l : Lane) (n : Nat) (e : Executor) : (l.setExe n e).lastSeq = l.lastSeq := rfl
@[simp] theorem Lane.setExe_laneflt (l : Lane) (n : Nat) (e : Executor) : (l.setExe n e).laneflt = l.laneflt := rfl
@[simp] theorem Lane.setExe_deadlineFlt (l : Lane) (n : Nat) (e : Executor) : (l.setExe n e).deadlineFlt = l.deadlineFlt := rfl
@[simp] theorem Lane.setExe_loopsLate (l : Lane) (n : Nat) (e : Executor) : (l.setExe n e).loopsLate = l.loopsLate := rfl
@[simp] theorem Lane.setExe_asyfail (l : Lane) (n : Nat) (e : Executor) : (l.setExe n e).asyfail = l.asyfail := rfl
@[simp] theorem Lane.setExe_ranFrame (l : Lane) (n : Nat) (e : Executor) : (l.setExe n e).ranFrame = l.ranFrame := rfl
@[simp] theorem Lane.setExe_k0 (l : Lane) (n : Nat) (e : Executor) : (l.setExe n e).k0 = l.k0 := rfl
@[simp] theorem Lane.setExe_reduced (l : Lane) (n : Nat) (e : Executor) : (l.setExe n e).reduced = l.reduced := rfl
@[simp] theorem Lane.setExe_redEnd (l : Lane) (n : Nat) (e : Executor) : (l.setExe n e).redEnd = l.redEnd := rfl
@[simp] theorem Lane.setExe_restart (l : Lane) (n : Nat) (e : Executor) : (l.setExe n e).restart = l.restart := rfl
@[simp] theorem Lane.setExe_out (l : Lane) (n : Nat) (e : Executor) : (l.setExe n e).out = l.out := rfl
@[simp] theorem Lane.setExe_lastOut (l : Lane) (n : Nat) (e : Executor) : (l.setExe n e).lastOut = l.lastOut := rfl
@[simp] theorem Lane.setExe_leftOut (l : Lane) (n : Nat) (e : Executor) : (l.setExe n e).leftOut = l.leftOut := rfl
@[simp] theorem Lane.setExe_delivered (l : Lane) (n : Nat) (e : Executor) : (l.setExe n e).delivered = l.delivered := rfl
@[simp] theorem Lane.setExe_hb (l : Lane) (n : Nat) (e : Executor) : (l.setExe n e).hb = l.hb := rfl
@[simp] theorem Lane.setExe_prevBlock (l : Lane) (n : Nat) (e : Executor) : (l.setExe n e).prevBlock = l.prevBlock := rfl
@[simp] theorem Lane.setExe_met (l : Lane) (n : Nat) (e : Executor) : (l.setExe n e).met = l.met := rfl
@[simp] theorem Lane.setExe_heat (l : Lane) (n : Nat) (e : Executor) : (l.setExe n e).heat = l.heat := rfl
@[simp] theorem Lane.setExe_nv (l : Lane) (n : Nat) (e : Executor) : (l.setExe n e).nv = l.nv := rfl
@[simp] theorem Lane.setExe_time (l : Lane) (n : Nat) (e : Executor) : (l.setExe n e).time = l.time := rfl
@[simp] theorem Lane.setExe_ptp (l : Lane) (n : Nat) (e : Executor) : (l.setExe n e).ptp = l.ptp := rfl
@[simp] theorem Lane.setExe_tsq (l : Lane) (n : Nat) (e : Executor) : (l.setExe n e).tsq = l.tsq := rfl
@[simp] theorem Lane.setExe_queues (l : Lane) (n : Nat) (e : Executor) : (l.setExe n e).queues = l.queues := rfl
@[simp] theorem Lane.setExe_pat (l : Lane) (n : Nat) (e : Executor) : (l.setExe n e).pat = l.pat := rfl
@[simp] theorem Lane.setExe_loops (l : Lane) (n : Nat) (e : Executor) : (l.setExe n e).loops = l.loops := rfl
@[simp] theorem Lane.setExe_trc (l : Lane) (n : Nat) (e : Executor) : (l.setExe n e).trc = l.trc := rfl
@[simp] theorem Lane.setExe_slv (l : Lane) (n : Nat) (e : Executor) : (l.setExe n e).slv = l.slv := rfl
@[simp] theorem Lane.setExe_opt (l : Lane) (n : Nat) (e : Executor) : (l.setExe n e).opt = l.opt := rfl
@[simp] theorem Lane.setExe_sec (l : Lane) (n : Nat) (e : Executor) : (l.setExe n e).sec = l.sec := rfl
@[simp] theorem Lane.setExe_fuses (l : Lane) (n : Nat) (e : Executor) : (l.setExe n e).fuses = l.fuses := rfl
@[simp] theorem Lane.setExe_asy (l : Lane) (n : Nat) (e : Executor) : (l.setExe n e).asy = l.asy := rfl
@[simp] theorem Lane.setExe_fab (l : Lane) (n : Nat) (e : Executor) : (l.setExe n e).fab = l.fab := rfl
@[simp] theorem Lane.setExe_ports (l : Lane) (n : Nat) (e : Executor) : (l.setExe n e).ports = l.ports := rfl
@[simp] theorem Lane.setExe_dlist (l : Lane) (n : Nat) (e : Executor) : (l.setExe n e).dlist = l.dlist := rfl
@[simp] theorem Lane.setExe_panel (l : Lane) (n : Nat) (e : Executor) : (l.setExe n e).panel = l.panel := rfl
@[simp] theorem Lane.setExe_qdo (l : Lane) (n : Nat) (e : Executor) : (l.setExe n e).qdo = l.qdo := rfl
@[simp] theorem Lane.setExe_dispCfg (l : Lane) (n : Nat) (e : Executor) : (l.setExe n e).dispCfg = l.dispCfg := rfl
@[simp] theorem Lane.setExe_busyFrom (l : Lane) (n : Nat) (e : Executor) : (l.setExe n e).busyFrom = l.busyFrom := rfl
@[simp] theorem Lane.setExe_mem (l : Lane) (n : Nat) (e : Executor) : (l.setExe n e).mem = l.mem := rfl
@[simp] theorem Lane.setExe_answers (l : Lane) (n : Nat) (e : Executor) : (l.setExe n e).answers = l.answers := rfl
@[simp] theorem Lane.setTask_id (l : Lane) (n : Nat) (t : Task) : (l.setTask n t).id = l.id := rfl
@[simp] theorem Lane.setTask_running (l : Lane) (n : Nat) (t : Task) : (l.setTask n t).running = l.running := rfl
@[simp] theorem Lane.setTask_phase (l : Lane) (n : Nat) (t : Task) : (l.setTask n t).phase = l.phase := rfl
@[simp] theorem Lane.setTask_regs (l : Lane) (n : Nat) (t : Task) : (l.setTask n t).regs = l.regs := rfl
@[simp] theorem Lane.setTask_view (l : Lane) (n : Nat) (t : Task) : (l.setTask n t).view = l.view := rfl
@[simp] theorem Lane.setTask_held (l : Lane) (n : Nat) (t : Task) : (l.setTask n t).held = l.held := rfl
@[simp] theorem Lane.setTask_opened (l : Lane) (n : Nat) (t : Task) : (l.setTask n t).opened = l.opened := rfl
@[simp] theorem Lane.setTask_irqSet (l : Lane) (n : Nat) (t : Task) : (l.setTask n t).irqSet = l.irqSet := rfl
@[simp] theorem Lane.setTask_rose (l : Lane) (n : Nat) (t : Task) : (l.setTask n t).rose = l.rose := rfl
@[simp] theorem Lane.setTask_presets (l : Lane) (n : Nat) (t : Task) : (l.setTask n t).presets = l.presets := rfl
@[simp] theorem Lane.setTask_frame (l : Lane) (n : Nat) (t : Task) : (l.setTask n t).frame = l.frame := rfl
@[simp] theorem Lane.setTask_inloss (l : Lane) (n : Nat) (t : Task) : (l.setTask n t).inloss = l.inloss := rfl
@[simp] theorem Lane.setTask_lastSeq (l : Lane) (n : Nat) (t : Task) : (l.setTask n t).lastSeq = l.lastSeq := rfl
@[simp] theorem Lane.setTask_laneflt (l : Lane) (n : Nat) (t : Task) : (l.setTask n t).laneflt = l.laneflt := rfl
@[simp] theorem Lane.setTask_deadlineFlt (l : Lane) (n : Nat) (t : Task) : (l.setTask n t).deadlineFlt = l.deadlineFlt := rfl
@[simp] theorem Lane.setTask_loopsLate (l : Lane) (n : Nat) (t : Task) : (l.setTask n t).loopsLate = l.loopsLate := rfl
@[simp] theorem Lane.setTask_asyfail (l : Lane) (n : Nat) (t : Task) : (l.setTask n t).asyfail = l.asyfail := rfl
@[simp] theorem Lane.setTask_ranFrame (l : Lane) (n : Nat) (t : Task) : (l.setTask n t).ranFrame = l.ranFrame := rfl
@[simp] theorem Lane.setTask_k0 (l : Lane) (n : Nat) (t : Task) : (l.setTask n t).k0 = l.k0 := rfl
@[simp] theorem Lane.setTask_reduced (l : Lane) (n : Nat) (t : Task) : (l.setTask n t).reduced = l.reduced := rfl
@[simp] theorem Lane.setTask_redEnd (l : Lane) (n : Nat) (t : Task) : (l.setTask n t).redEnd = l.redEnd := rfl
@[simp] theorem Lane.setTask_restart (l : Lane) (n : Nat) (t : Task) : (l.setTask n t).restart = l.restart := rfl
@[simp] theorem Lane.setTask_out (l : Lane) (n : Nat) (t : Task) : (l.setTask n t).out = l.out := rfl
@[simp] theorem Lane.setTask_lastOut (l : Lane) (n : Nat) (t : Task) : (l.setTask n t).lastOut = l.lastOut := rfl
@[simp] theorem Lane.setTask_leftOut (l : Lane) (n : Nat) (t : Task) : (l.setTask n t).leftOut = l.leftOut := rfl
@[simp] theorem Lane.setTask_delivered (l : Lane) (n : Nat) (t : Task) : (l.setTask n t).delivered = l.delivered := rfl
@[simp] theorem Lane.setTask_hb (l : Lane) (n : Nat) (t : Task) : (l.setTask n t).hb = l.hb := rfl
@[simp] theorem Lane.setTask_prevBlock (l : Lane) (n : Nat) (t : Task) : (l.setTask n t).prevBlock = l.prevBlock := rfl
@[simp] theorem Lane.setTask_met (l : Lane) (n : Nat) (t : Task) : (l.setTask n t).met = l.met := rfl
@[simp] theorem Lane.setTask_heat (l : Lane) (n : Nat) (t : Task) : (l.setTask n t).heat = l.heat := rfl
@[simp] theorem Lane.setTask_nv (l : Lane) (n : Nat) (t : Task) : (l.setTask n t).nv = l.nv := rfl
@[simp] theorem Lane.setTask_time (l : Lane) (n : Nat) (t : Task) : (l.setTask n t).time = l.time := rfl
@[simp] theorem Lane.setTask_ptp (l : Lane) (n : Nat) (t : Task) : (l.setTask n t).ptp = l.ptp := rfl
@[simp] theorem Lane.setTask_tsq (l : Lane) (n : Nat) (t : Task) : (l.setTask n t).tsq = l.tsq := rfl
@[simp] theorem Lane.setTask_queues (l : Lane) (n : Nat) (t : Task) : (l.setTask n t).queues = l.queues := rfl
@[simp] theorem Lane.setTask_pat (l : Lane) (n : Nat) (t : Task) : (l.setTask n t).pat = l.pat := rfl
@[simp] theorem Lane.setTask_loops (l : Lane) (n : Nat) (t : Task) : (l.setTask n t).loops = l.loops := rfl
@[simp] theorem Lane.setTask_trc (l : Lane) (n : Nat) (t : Task) : (l.setTask n t).trc = l.trc := rfl
@[simp] theorem Lane.setTask_slv (l : Lane) (n : Nat) (t : Task) : (l.setTask n t).slv = l.slv := rfl
@[simp] theorem Lane.setTask_opt (l : Lane) (n : Nat) (t : Task) : (l.setTask n t).opt = l.opt := rfl
@[simp] theorem Lane.setTask_sec (l : Lane) (n : Nat) (t : Task) : (l.setTask n t).sec = l.sec := rfl
@[simp] theorem Lane.setTask_fuses (l : Lane) (n : Nat) (t : Task) : (l.setTask n t).fuses = l.fuses := rfl
@[simp] theorem Lane.setTask_asy (l : Lane) (n : Nat) (t : Task) : (l.setTask n t).asy = l.asy := rfl
@[simp] theorem Lane.setTask_fab (l : Lane) (n : Nat) (t : Task) : (l.setTask n t).fab = l.fab := rfl
@[simp] theorem Lane.setTask_ports (l : Lane) (n : Nat) (t : Task) : (l.setTask n t).ports = l.ports := rfl
@[simp] theorem Lane.setTask_dlist (l : Lane) (n : Nat) (t : Task) : (l.setTask n t).dlist = l.dlist := rfl
@[simp] theorem Lane.setTask_panel (l : Lane) (n : Nat) (t : Task) : (l.setTask n t).panel = l.panel := rfl
@[simp] theorem Lane.setTask_qdo (l : Lane) (n : Nat) (t : Task) : (l.setTask n t).qdo = l.qdo := rfl
@[simp] theorem Lane.setTask_dispCfg (l : Lane) (n : Nat) (t : Task) : (l.setTask n t).dispCfg = l.dispCfg := rfl
@[simp] theorem Lane.setTask_busyFrom (l : Lane) (n : Nat) (t : Task) : (l.setTask n t).busyFrom = l.busyFrom := rfl
@[simp] theorem Lane.setTask_mem (l : Lane) (n : Nat) (t : Task) : (l.setTask n t).mem = l.mem := rfl
@[simp] theorem Lane.setTask_answers (l : Lane) (n : Nat) (t : Task) : (l.setTask n t).answers = l.answers := rfl
@[simp] theorem Lane.modCtx_id (l : Lane) (n : Nat) (g : EnqCtx → EnqCtx) : (l.modCtx n g).id = l.id := rfl
@[simp] theorem Lane.modCtx_running (l : Lane) (n : Nat) (g : EnqCtx → EnqCtx) : (l.modCtx n g).running = l.running := rfl
@[simp] theorem Lane.modCtx_phase (l : Lane) (n : Nat) (g : EnqCtx → EnqCtx) : (l.modCtx n g).phase = l.phase := rfl
@[simp] theorem Lane.modCtx_regs (l : Lane) (n : Nat) (g : EnqCtx → EnqCtx) : (l.modCtx n g).regs = l.regs := rfl
@[simp] theorem Lane.modCtx_view (l : Lane) (n : Nat) (g : EnqCtx → EnqCtx) : (l.modCtx n g).view = l.view := rfl
@[simp] theorem Lane.modCtx_held (l : Lane) (n : Nat) (g : EnqCtx → EnqCtx) : (l.modCtx n g).held = l.held := rfl
@[simp] theorem Lane.modCtx_opened (l : Lane) (n : Nat) (g : EnqCtx → EnqCtx) : (l.modCtx n g).opened = l.opened := rfl
@[simp] theorem Lane.modCtx_irqSet (l : Lane) (n : Nat) (g : EnqCtx → EnqCtx) : (l.modCtx n g).irqSet = l.irqSet := rfl
@[simp] theorem Lane.modCtx_rose (l : Lane) (n : Nat) (g : EnqCtx → EnqCtx) : (l.modCtx n g).rose = l.rose := rfl
@[simp] theorem Lane.modCtx_presets (l : Lane) (n : Nat) (g : EnqCtx → EnqCtx) : (l.modCtx n g).presets = l.presets := rfl
@[simp] theorem Lane.modCtx_frame (l : Lane) (n : Nat) (g : EnqCtx → EnqCtx) : (l.modCtx n g).frame = l.frame := rfl
@[simp] theorem Lane.modCtx_inloss (l : Lane) (n : Nat) (g : EnqCtx → EnqCtx) : (l.modCtx n g).inloss = l.inloss := rfl
@[simp] theorem Lane.modCtx_lastSeq (l : Lane) (n : Nat) (g : EnqCtx → EnqCtx) : (l.modCtx n g).lastSeq = l.lastSeq := rfl
@[simp] theorem Lane.modCtx_laneflt (l : Lane) (n : Nat) (g : EnqCtx → EnqCtx) : (l.modCtx n g).laneflt = l.laneflt := rfl
@[simp] theorem Lane.modCtx_deadlineFlt (l : Lane) (n : Nat) (g : EnqCtx → EnqCtx) : (l.modCtx n g).deadlineFlt = l.deadlineFlt := rfl
@[simp] theorem Lane.modCtx_loopsLate (l : Lane) (n : Nat) (g : EnqCtx → EnqCtx) : (l.modCtx n g).loopsLate = l.loopsLate := rfl
@[simp] theorem Lane.modCtx_asyfail (l : Lane) (n : Nat) (g : EnqCtx → EnqCtx) : (l.modCtx n g).asyfail = l.asyfail := rfl
@[simp] theorem Lane.modCtx_ranFrame (l : Lane) (n : Nat) (g : EnqCtx → EnqCtx) : (l.modCtx n g).ranFrame = l.ranFrame := rfl
@[simp] theorem Lane.modCtx_k0 (l : Lane) (n : Nat) (g : EnqCtx → EnqCtx) : (l.modCtx n g).k0 = l.k0 := rfl
@[simp] theorem Lane.modCtx_reduced (l : Lane) (n : Nat) (g : EnqCtx → EnqCtx) : (l.modCtx n g).reduced = l.reduced := rfl
@[simp] theorem Lane.modCtx_redEnd (l : Lane) (n : Nat) (g : EnqCtx → EnqCtx) : (l.modCtx n g).redEnd = l.redEnd := rfl
@[simp] theorem Lane.modCtx_restart (l : Lane) (n : Nat) (g : EnqCtx → EnqCtx) : (l.modCtx n g).restart = l.restart := rfl
@[simp] theorem Lane.modCtx_out (l : Lane) (n : Nat) (g : EnqCtx → EnqCtx) : (l.modCtx n g).out = l.out := rfl
@[simp] theorem Lane.modCtx_lastOut (l : Lane) (n : Nat) (g : EnqCtx → EnqCtx) : (l.modCtx n g).lastOut = l.lastOut := rfl
@[simp] theorem Lane.modCtx_leftOut (l : Lane) (n : Nat) (g : EnqCtx → EnqCtx) : (l.modCtx n g).leftOut = l.leftOut := rfl
@[simp] theorem Lane.modCtx_delivered (l : Lane) (n : Nat) (g : EnqCtx → EnqCtx) : (l.modCtx n g).delivered = l.delivered := rfl
@[simp] theorem Lane.modCtx_hb (l : Lane) (n : Nat) (g : EnqCtx → EnqCtx) : (l.modCtx n g).hb = l.hb := rfl
@[simp] theorem Lane.modCtx_prevBlock (l : Lane) (n : Nat) (g : EnqCtx → EnqCtx) : (l.modCtx n g).prevBlock = l.prevBlock := rfl
@[simp] theorem Lane.modCtx_met (l : Lane) (n : Nat) (g : EnqCtx → EnqCtx) : (l.modCtx n g).met = l.met := rfl
@[simp] theorem Lane.modCtx_heat (l : Lane) (n : Nat) (g : EnqCtx → EnqCtx) : (l.modCtx n g).heat = l.heat := rfl
@[simp] theorem Lane.modCtx_nv (l : Lane) (n : Nat) (g : EnqCtx → EnqCtx) : (l.modCtx n g).nv = l.nv := rfl
@[simp] theorem Lane.modCtx_time (l : Lane) (n : Nat) (g : EnqCtx → EnqCtx) : (l.modCtx n g).time = l.time := rfl
@[simp] theorem Lane.modCtx_ptp (l : Lane) (n : Nat) (g : EnqCtx → EnqCtx) : (l.modCtx n g).ptp = l.ptp := rfl
@[simp] theorem Lane.modCtx_tsq (l : Lane) (n : Nat) (g : EnqCtx → EnqCtx) : (l.modCtx n g).tsq = l.tsq := rfl
@[simp] theorem Lane.modCtx_queues (l : Lane) (n : Nat) (g : EnqCtx → EnqCtx) : (l.modCtx n g).queues = l.queues := rfl
@[simp] theorem Lane.modCtx_pat (l : Lane) (n : Nat) (g : EnqCtx → EnqCtx) : (l.modCtx n g).pat = l.pat := rfl
@[simp] theorem Lane.modCtx_loops (l : Lane) (n : Nat) (g : EnqCtx → EnqCtx) : (l.modCtx n g).loops = l.loops := rfl
@[simp] theorem Lane.modCtx_trc (l : Lane) (n : Nat) (g : EnqCtx → EnqCtx) : (l.modCtx n g).trc = l.trc := rfl
@[simp] theorem Lane.modCtx_slv (l : Lane) (n : Nat) (g : EnqCtx → EnqCtx) : (l.modCtx n g).slv = l.slv := rfl
@[simp] theorem Lane.modCtx_opt (l : Lane) (n : Nat) (g : EnqCtx → EnqCtx) : (l.modCtx n g).opt = l.opt := rfl
@[simp] theorem Lane.modCtx_sec (l : Lane) (n : Nat) (g : EnqCtx → EnqCtx) : (l.modCtx n g).sec = l.sec := rfl
@[simp] theorem Lane.modCtx_fuses (l : Lane) (n : Nat) (g : EnqCtx → EnqCtx) : (l.modCtx n g).fuses = l.fuses := rfl
@[simp] theorem Lane.modCtx_asy (l : Lane) (n : Nat) (g : EnqCtx → EnqCtx) : (l.modCtx n g).asy = l.asy := rfl
@[simp] theorem Lane.modCtx_fab (l : Lane) (n : Nat) (g : EnqCtx → EnqCtx) : (l.modCtx n g).fab = l.fab := rfl
@[simp] theorem Lane.modCtx_ports (l : Lane) (n : Nat) (g : EnqCtx → EnqCtx) : (l.modCtx n g).ports = l.ports := rfl
@[simp] theorem Lane.modCtx_dlist (l : Lane) (n : Nat) (g : EnqCtx → EnqCtx) : (l.modCtx n g).dlist = l.dlist := rfl
@[simp] theorem Lane.modCtx_panel (l : Lane) (n : Nat) (g : EnqCtx → EnqCtx) : (l.modCtx n g).panel = l.panel := rfl
@[simp] theorem Lane.modCtx_qdo (l : Lane) (n : Nat) (g : EnqCtx → EnqCtx) : (l.modCtx n g).qdo = l.qdo := rfl
@[simp] theorem Lane.modCtx_dispCfg (l : Lane) (n : Nat) (g : EnqCtx → EnqCtx) : (l.modCtx n g).dispCfg = l.dispCfg := rfl
@[simp] theorem Lane.modCtx_busyFrom (l : Lane) (n : Nat) (g : EnqCtx → EnqCtx) : (l.modCtx n g).busyFrom = l.busyFrom := rfl
@[simp] theorem Lane.modCtx_mem (l : Lane) (n : Nat) (g : EnqCtx → EnqCtx) : (l.modCtx n g).mem = l.mem := rfl
@[simp] theorem Lane.modCtx_answers (l : Lane) (n : Nat) (g : EnqCtx → EnqCtx) : (l.modCtx n g).answers = l.answers := rfl
@[simp] theorem Lane.setQueue_id (l : Lane) (n : Nat) (q : Queue) : (l.setQueue n q).id = l.id := rfl
@[simp] theorem Lane.setQueue_running (l : Lane) (n : Nat) (q : Queue) : (l.setQueue n q).running = l.running := rfl
@[simp] theorem Lane.setQueue_phase (l : Lane) (n : Nat) (q : Queue) : (l.setQueue n q).phase = l.phase := rfl
@[simp] theorem Lane.setQueue_regs (l : Lane) (n : Nat) (q : Queue) : (l.setQueue n q).regs = l.regs := rfl
@[simp] theorem Lane.setQueue_view (l : Lane) (n : Nat) (q : Queue) : (l.setQueue n q).view = l.view := rfl
@[simp] theorem Lane.setQueue_held (l : Lane) (n : Nat) (q : Queue) : (l.setQueue n q).held = l.held := rfl
@[simp] theorem Lane.setQueue_opened (l : Lane) (n : Nat) (q : Queue) : (l.setQueue n q).opened = l.opened := rfl
@[simp] theorem Lane.setQueue_irqSet (l : Lane) (n : Nat) (q : Queue) : (l.setQueue n q).irqSet = l.irqSet := rfl
@[simp] theorem Lane.setQueue_rose (l : Lane) (n : Nat) (q : Queue) : (l.setQueue n q).rose = l.rose := rfl
@[simp] theorem Lane.setQueue_presets (l : Lane) (n : Nat) (q : Queue) : (l.setQueue n q).presets = l.presets := rfl
@[simp] theorem Lane.setQueue_frame (l : Lane) (n : Nat) (q : Queue) : (l.setQueue n q).frame = l.frame := rfl
@[simp] theorem Lane.setQueue_inloss (l : Lane) (n : Nat) (q : Queue) : (l.setQueue n q).inloss = l.inloss := rfl
@[simp] theorem Lane.setQueue_lastSeq (l : Lane) (n : Nat) (q : Queue) : (l.setQueue n q).lastSeq = l.lastSeq := rfl
@[simp] theorem Lane.setQueue_laneflt (l : Lane) (n : Nat) (q : Queue) : (l.setQueue n q).laneflt = l.laneflt := rfl
@[simp] theorem Lane.setQueue_deadlineFlt (l : Lane) (n : Nat) (q : Queue) : (l.setQueue n q).deadlineFlt = l.deadlineFlt := rfl
@[simp] theorem Lane.setQueue_loopsLate (l : Lane) (n : Nat) (q : Queue) : (l.setQueue n q).loopsLate = l.loopsLate := rfl
@[simp] theorem Lane.setQueue_asyfail (l : Lane) (n : Nat) (q : Queue) : (l.setQueue n q).asyfail = l.asyfail := rfl
@[simp] theorem Lane.setQueue_ranFrame (l : Lane) (n : Nat) (q : Queue) : (l.setQueue n q).ranFrame = l.ranFrame := rfl
@[simp] theorem Lane.setQueue_k0 (l : Lane) (n : Nat) (q : Queue) : (l.setQueue n q).k0 = l.k0 := rfl
@[simp] theorem Lane.setQueue_reduced (l : Lane) (n : Nat) (q : Queue) : (l.setQueue n q).reduced = l.reduced := rfl
@[simp] theorem Lane.setQueue_redEnd (l : Lane) (n : Nat) (q : Queue) : (l.setQueue n q).redEnd = l.redEnd := rfl
@[simp] theorem Lane.setQueue_restart (l : Lane) (n : Nat) (q : Queue) : (l.setQueue n q).restart = l.restart := rfl
@[simp] theorem Lane.setQueue_out (l : Lane) (n : Nat) (q : Queue) : (l.setQueue n q).out = l.out := rfl
@[simp] theorem Lane.setQueue_lastOut (l : Lane) (n : Nat) (q : Queue) : (l.setQueue n q).lastOut = l.lastOut := rfl
@[simp] theorem Lane.setQueue_leftOut (l : Lane) (n : Nat) (q : Queue) : (l.setQueue n q).leftOut = l.leftOut := rfl
@[simp] theorem Lane.setQueue_delivered (l : Lane) (n : Nat) (q : Queue) : (l.setQueue n q).delivered = l.delivered := rfl
@[simp] theorem Lane.setQueue_hb (l : Lane) (n : Nat) (q : Queue) : (l.setQueue n q).hb = l.hb := rfl
@[simp] theorem Lane.setQueue_prevBlock (l : Lane) (n : Nat) (q : Queue) : (l.setQueue n q).prevBlock = l.prevBlock := rfl
@[simp] theorem Lane.setQueue_met (l : Lane) (n : Nat) (q : Queue) : (l.setQueue n q).met = l.met := rfl
@[simp] theorem Lane.setQueue_heat (l : Lane) (n : Nat) (q : Queue) : (l.setQueue n q).heat = l.heat := rfl
@[simp] theorem Lane.setQueue_nv (l : Lane) (n : Nat) (q : Queue) : (l.setQueue n q).nv = l.nv := rfl
@[simp] theorem Lane.setQueue_time (l : Lane) (n : Nat) (q : Queue) : (l.setQueue n q).time = l.time := rfl
@[simp] theorem Lane.setQueue_ptp (l : Lane) (n : Nat) (q : Queue) : (l.setQueue n q).ptp = l.ptp := rfl
@[simp] theorem Lane.setQueue_tsq (l : Lane) (n : Nat) (q : Queue) : (l.setQueue n q).tsq = l.tsq := rfl
@[simp] theorem Lane.setQueue_pat (l : Lane) (n : Nat) (q : Queue) : (l.setQueue n q).pat = l.pat := rfl
@[simp] theorem Lane.setQueue_loops (l : Lane) (n : Nat) (q : Queue) : (l.setQueue n q).loops = l.loops := rfl
@[simp] theorem Lane.setQueue_trc (l : Lane) (n : Nat) (q : Queue) : (l.setQueue n q).trc = l.trc := rfl
@[simp] theorem Lane.setQueue_prg (l : Lane) (n : Nat) (q : Queue) : (l.setQueue n q).prg = l.prg := rfl
@[simp] theorem Lane.setQueue_slv (l : Lane) (n : Nat) (q : Queue) : (l.setQueue n q).slv = l.slv := rfl
@[simp] theorem Lane.setQueue_opt (l : Lane) (n : Nat) (q : Queue) : (l.setQueue n q).opt = l.opt := rfl
@[simp] theorem Lane.setQueue_sec (l : Lane) (n : Nat) (q : Queue) : (l.setQueue n q).sec = l.sec := rfl
@[simp] theorem Lane.setQueue_fuses (l : Lane) (n : Nat) (q : Queue) : (l.setQueue n q).fuses = l.fuses := rfl
@[simp] theorem Lane.setQueue_asy (l : Lane) (n : Nat) (q : Queue) : (l.setQueue n q).asy = l.asy := rfl
@[simp] theorem Lane.setQueue_fab (l : Lane) (n : Nat) (q : Queue) : (l.setQueue n q).fab = l.fab := rfl
@[simp] theorem Lane.setQueue_ports (l : Lane) (n : Nat) (q : Queue) : (l.setQueue n q).ports = l.ports := rfl
@[simp] theorem Lane.setQueue_dlist (l : Lane) (n : Nat) (q : Queue) : (l.setQueue n q).dlist = l.dlist := rfl
@[simp] theorem Lane.setQueue_panel (l : Lane) (n : Nat) (q : Queue) : (l.setQueue n q).panel = l.panel := rfl
@[simp] theorem Lane.setQueue_qdo (l : Lane) (n : Nat) (q : Queue) : (l.setQueue n q).qdo = l.qdo := rfl
@[simp] theorem Lane.setQueue_dispCfg (l : Lane) (n : Nat) (q : Queue) : (l.setQueue n q).dispCfg = l.dispCfg := rfl
@[simp] theorem Lane.setQueue_busyFrom (l : Lane) (n : Nat) (q : Queue) : (l.setQueue n q).busyFrom = l.busyFrom := rfl
@[simp] theorem Lane.setQueue_mem (l : Lane) (n : Nat) (q : Queue) : (l.setQueue n q).mem = l.mem := rfl
@[simp] theorem Lane.setQueue_answers (l : Lane) (n : Nat) (q : Queue) : (l.setQueue n q).answers = l.answers := rfl
@[simp] theorem Lane.setLoop_id (l : Lane) (n : Nat) (x : Loop) : (l.setLoop n x).id = l.id := rfl
@[simp] theorem Lane.setLoop_running (l : Lane) (n : Nat) (x : Loop) : (l.setLoop n x).running = l.running := rfl
@[simp] theorem Lane.setLoop_phase (l : Lane) (n : Nat) (x : Loop) : (l.setLoop n x).phase = l.phase := rfl
@[simp] theorem Lane.setLoop_regs (l : Lane) (n : Nat) (x : Loop) : (l.setLoop n x).regs = l.regs := rfl
@[simp] theorem Lane.setLoop_view (l : Lane) (n : Nat) (x : Loop) : (l.setLoop n x).view = l.view := rfl
@[simp] theorem Lane.setLoop_held (l : Lane) (n : Nat) (x : Loop) : (l.setLoop n x).held = l.held := rfl
@[simp] theorem Lane.setLoop_opened (l : Lane) (n : Nat) (x : Loop) : (l.setLoop n x).opened = l.opened := rfl
@[simp] theorem Lane.setLoop_irqSet (l : Lane) (n : Nat) (x : Loop) : (l.setLoop n x).irqSet = l.irqSet := rfl
@[simp] theorem Lane.setLoop_rose (l : Lane) (n : Nat) (x : Loop) : (l.setLoop n x).rose = l.rose := rfl
@[simp] theorem Lane.setLoop_presets (l : Lane) (n : Nat) (x : Loop) : (l.setLoop n x).presets = l.presets := rfl
@[simp] theorem Lane.setLoop_frame (l : Lane) (n : Nat) (x : Loop) : (l.setLoop n x).frame = l.frame := rfl
@[simp] theorem Lane.setLoop_inloss (l : Lane) (n : Nat) (x : Loop) : (l.setLoop n x).inloss = l.inloss := rfl
@[simp] theorem Lane.setLoop_lastSeq (l : Lane) (n : Nat) (x : Loop) : (l.setLoop n x).lastSeq = l.lastSeq := rfl
@[simp] theorem Lane.setLoop_laneflt (l : Lane) (n : Nat) (x : Loop) : (l.setLoop n x).laneflt = l.laneflt := rfl
@[simp] theorem Lane.setLoop_deadlineFlt (l : Lane) (n : Nat) (x : Loop) : (l.setLoop n x).deadlineFlt = l.deadlineFlt := rfl
@[simp] theorem Lane.setLoop_loopsLate (l : Lane) (n : Nat) (x : Loop) : (l.setLoop n x).loopsLate = l.loopsLate := rfl
@[simp] theorem Lane.setLoop_asyfail (l : Lane) (n : Nat) (x : Loop) : (l.setLoop n x).asyfail = l.asyfail := rfl
@[simp] theorem Lane.setLoop_ranFrame (l : Lane) (n : Nat) (x : Loop) : (l.setLoop n x).ranFrame = l.ranFrame := rfl
@[simp] theorem Lane.setLoop_k0 (l : Lane) (n : Nat) (x : Loop) : (l.setLoop n x).k0 = l.k0 := rfl
@[simp] theorem Lane.setLoop_reduced (l : Lane) (n : Nat) (x : Loop) : (l.setLoop n x).reduced = l.reduced := rfl
@[simp] theorem Lane.setLoop_redEnd (l : Lane) (n : Nat) (x : Loop) : (l.setLoop n x).redEnd = l.redEnd := rfl
@[simp] theorem Lane.setLoop_restart (l : Lane) (n : Nat) (x : Loop) : (l.setLoop n x).restart = l.restart := rfl
@[simp] theorem Lane.setLoop_out (l : Lane) (n : Nat) (x : Loop) : (l.setLoop n x).out = l.out := rfl
@[simp] theorem Lane.setLoop_lastOut (l : Lane) (n : Nat) (x : Loop) : (l.setLoop n x).lastOut = l.lastOut := rfl
@[simp] theorem Lane.setLoop_leftOut (l : Lane) (n : Nat) (x : Loop) : (l.setLoop n x).leftOut = l.leftOut := rfl
@[simp] theorem Lane.setLoop_delivered (l : Lane) (n : Nat) (x : Loop) : (l.setLoop n x).delivered = l.delivered := rfl
@[simp] theorem Lane.setLoop_hb (l : Lane) (n : Nat) (x : Loop) : (l.setLoop n x).hb = l.hb := rfl
@[simp] theorem Lane.setLoop_prevBlock (l : Lane) (n : Nat) (x : Loop) : (l.setLoop n x).prevBlock = l.prevBlock := rfl
@[simp] theorem Lane.setLoop_met (l : Lane) (n : Nat) (x : Loop) : (l.setLoop n x).met = l.met := rfl
@[simp] theorem Lane.setLoop_heat (l : Lane) (n : Nat) (x : Loop) : (l.setLoop n x).heat = l.heat := rfl
@[simp] theorem Lane.setLoop_nv (l : Lane) (n : Nat) (x : Loop) : (l.setLoop n x).nv = l.nv := rfl
@[simp] theorem Lane.setLoop_time (l : Lane) (n : Nat) (x : Loop) : (l.setLoop n x).time = l.time := rfl
@[simp] theorem Lane.setLoop_ptp (l : Lane) (n : Nat) (x : Loop) : (l.setLoop n x).ptp = l.ptp := rfl
@[simp] theorem Lane.setLoop_tsq (l : Lane) (n : Nat) (x : Loop) : (l.setLoop n x).tsq = l.tsq := rfl
@[simp] theorem Lane.setLoop_queues (l : Lane) (n : Nat) (x : Loop) : (l.setLoop n x).queues = l.queues := rfl
@[simp] theorem Lane.setLoop_pat (l : Lane) (n : Nat) (x : Loop) : (l.setLoop n x).pat = l.pat := rfl
@[simp] theorem Lane.setLoop_trc (l : Lane) (n : Nat) (x : Loop) : (l.setLoop n x).trc = l.trc := rfl
@[simp] theorem Lane.setLoop_prg (l : Lane) (n : Nat) (x : Loop) : (l.setLoop n x).prg = l.prg := rfl
@[simp] theorem Lane.setLoop_slv (l : Lane) (n : Nat) (x : Loop) : (l.setLoop n x).slv = l.slv := rfl
@[simp] theorem Lane.setLoop_opt (l : Lane) (n : Nat) (x : Loop) : (l.setLoop n x).opt = l.opt := rfl
@[simp] theorem Lane.setLoop_sec (l : Lane) (n : Nat) (x : Loop) : (l.setLoop n x).sec = l.sec := rfl
@[simp] theorem Lane.setLoop_fuses (l : Lane) (n : Nat) (x : Loop) : (l.setLoop n x).fuses = l.fuses := rfl
@[simp] theorem Lane.setLoop_asy (l : Lane) (n : Nat) (x : Loop) : (l.setLoop n x).asy = l.asy := rfl
@[simp] theorem Lane.setLoop_fab (l : Lane) (n : Nat) (x : Loop) : (l.setLoop n x).fab = l.fab := rfl
@[simp] theorem Lane.setLoop_ports (l : Lane) (n : Nat) (x : Loop) : (l.setLoop n x).ports = l.ports := rfl
@[simp] theorem Lane.setLoop_dlist (l : Lane) (n : Nat) (x : Loop) : (l.setLoop n x).dlist = l.dlist := rfl
@[simp] theorem Lane.setLoop_panel (l : Lane) (n : Nat) (x : Loop) : (l.setLoop n x).panel = l.panel := rfl
@[simp] theorem Lane.setLoop_qdo (l : Lane) (n : Nat) (x : Loop) : (l.setLoop n x).qdo = l.qdo := rfl
@[simp] theorem Lane.setLoop_dispCfg (l : Lane) (n : Nat) (x : Loop) : (l.setLoop n x).dispCfg = l.dispCfg := rfl
@[simp] theorem Lane.setLoop_busyFrom (l : Lane) (n : Nat) (x : Loop) : (l.setLoop n x).busyFrom = l.busyFrom := rfl
@[simp] theorem Lane.setLoop_mem (l : Lane) (n : Nat) (x : Loop) : (l.setLoop n x).mem = l.mem := rfl
@[simp] theorem Lane.setLoop_answers (l : Lane) (n : Nat) (x : Loop) : (l.setLoop n x).answers = l.answers := rfl
@[simp] theorem Lane.setSec_id (l : Lane) (g : Security → Security) : (l.setSec g).id = l.id := rfl
@[simp] theorem Lane.setSec_running (l : Lane) (g : Security → Security) : (l.setSec g).running = l.running := rfl
@[simp] theorem Lane.setSec_phase (l : Lane) (g : Security → Security) : (l.setSec g).phase = l.phase := rfl
@[simp] theorem Lane.setSec_regs (l : Lane) (g : Security → Security) : (l.setSec g).regs = l.regs := rfl
@[simp] theorem Lane.setSec_view (l : Lane) (g : Security → Security) : (l.setSec g).view = l.view := rfl
@[simp] theorem Lane.setSec_held (l : Lane) (g : Security → Security) : (l.setSec g).held = l.held := rfl
@[simp] theorem Lane.setSec_opened (l : Lane) (g : Security → Security) : (l.setSec g).opened = l.opened := rfl
@[simp] theorem Lane.setSec_irqSet (l : Lane) (g : Security → Security) : (l.setSec g).irqSet = l.irqSet := rfl
@[simp] theorem Lane.setSec_rose (l : Lane) (g : Security → Security) : (l.setSec g).rose = l.rose := rfl
@[simp] theorem Lane.setSec_presets (l : Lane) (g : Security → Security) : (l.setSec g).presets = l.presets := rfl
@[simp] theorem Lane.setSec_frame (l : Lane) (g : Security → Security) : (l.setSec g).frame = l.frame := rfl
@[simp] theorem Lane.setSec_inloss (l : Lane) (g : Security → Security) : (l.setSec g).inloss = l.inloss := rfl
@[simp] theorem Lane.setSec_lastSeq (l : Lane) (g : Security → Security) : (l.setSec g).lastSeq = l.lastSeq := rfl
@[simp] theorem Lane.setSec_laneflt (l : Lane) (g : Security → Security) : (l.setSec g).laneflt = l.laneflt := rfl
@[simp] theorem Lane.setSec_deadlineFlt (l : Lane) (g : Security → Security) : (l.setSec g).deadlineFlt = l.deadlineFlt := rfl
@[simp] theorem Lane.setSec_loopsLate (l : Lane) (g : Security → Security) : (l.setSec g).loopsLate = l.loopsLate := rfl
@[simp] theorem Lane.setSec_asyfail (l : Lane) (g : Security → Security) : (l.setSec g).asyfail = l.asyfail := rfl
@[simp] theorem Lane.setSec_ranFrame (l : Lane) (g : Security → Security) : (l.setSec g).ranFrame = l.ranFrame := rfl
@[simp] theorem Lane.setSec_k0 (l : Lane) (g : Security → Security) : (l.setSec g).k0 = l.k0 := rfl
@[simp] theorem Lane.setSec_reduced (l : Lane) (g : Security → Security) : (l.setSec g).reduced = l.reduced := rfl
@[simp] theorem Lane.setSec_redEnd (l : Lane) (g : Security → Security) : (l.setSec g).redEnd = l.redEnd := rfl
@[simp] theorem Lane.setSec_restart (l : Lane) (g : Security → Security) : (l.setSec g).restart = l.restart := rfl
@[simp] theorem Lane.setSec_out (l : Lane) (g : Security → Security) : (l.setSec g).out = l.out := rfl
@[simp] theorem Lane.setSec_lastOut (l : Lane) (g : Security → Security) : (l.setSec g).lastOut = l.lastOut := rfl
@[simp] theorem Lane.setSec_leftOut (l : Lane) (g : Security → Security) : (l.setSec g).leftOut = l.leftOut := rfl
@[simp] theorem Lane.setSec_delivered (l : Lane) (g : Security → Security) : (l.setSec g).delivered = l.delivered := rfl
@[simp] theorem Lane.setSec_hb (l : Lane) (g : Security → Security) : (l.setSec g).hb = l.hb := rfl
@[simp] theorem Lane.setSec_prevBlock (l : Lane) (g : Security → Security) : (l.setSec g).prevBlock = l.prevBlock := rfl
@[simp] theorem Lane.setSec_met (l : Lane) (g : Security → Security) : (l.setSec g).met = l.met := rfl
@[simp] theorem Lane.setSec_heat (l : Lane) (g : Security → Security) : (l.setSec g).heat = l.heat := rfl
@[simp] theorem Lane.setSec_nv (l : Lane) (g : Security → Security) : (l.setSec g).nv = l.nv := rfl
@[simp] theorem Lane.setSec_time (l : Lane) (g : Security → Security) : (l.setSec g).time = l.time := rfl
@[simp] theorem Lane.setSec_ptp (l : Lane) (g : Security → Security) : (l.setSec g).ptp = l.ptp := rfl
@[simp] theorem Lane.setSec_tsq (l : Lane) (g : Security → Security) : (l.setSec g).tsq = l.tsq := rfl
@[simp] theorem Lane.setSec_queues (l : Lane) (g : Security → Security) : (l.setSec g).queues = l.queues := rfl
@[simp] theorem Lane.setSec_pat (l : Lane) (g : Security → Security) : (l.setSec g).pat = l.pat := rfl
@[simp] theorem Lane.setSec_loops (l : Lane) (g : Security → Security) : (l.setSec g).loops = l.loops := rfl
@[simp] theorem Lane.setSec_trc (l : Lane) (g : Security → Security) : (l.setSec g).trc = l.trc := rfl
@[simp] theorem Lane.setSec_prg (l : Lane) (g : Security → Security) : (l.setSec g).prg = l.prg := rfl
@[simp] theorem Lane.setSec_slv (l : Lane) (g : Security → Security) : (l.setSec g).slv = l.slv := rfl
@[simp] theorem Lane.setSec_opt (l : Lane) (g : Security → Security) : (l.setSec g).opt = l.opt := rfl
@[simp] theorem Lane.setSec_fuses (l : Lane) (g : Security → Security) : (l.setSec g).fuses = l.fuses := rfl
@[simp] theorem Lane.setSec_asy (l : Lane) (g : Security → Security) : (l.setSec g).asy = l.asy := rfl
@[simp] theorem Lane.setSec_fab (l : Lane) (g : Security → Security) : (l.setSec g).fab = l.fab := rfl
@[simp] theorem Lane.setSec_ports (l : Lane) (g : Security → Security) : (l.setSec g).ports = l.ports := rfl
@[simp] theorem Lane.setSec_dlist (l : Lane) (g : Security → Security) : (l.setSec g).dlist = l.dlist := rfl
@[simp] theorem Lane.setSec_panel (l : Lane) (g : Security → Security) : (l.setSec g).panel = l.panel := rfl
@[simp] theorem Lane.setSec_qdo (l : Lane) (g : Security → Security) : (l.setSec g).qdo = l.qdo := rfl
@[simp] theorem Lane.setSec_dispCfg (l : Lane) (g : Security → Security) : (l.setSec g).dispCfg = l.dispCfg := rfl
@[simp] theorem Lane.setSec_busyFrom (l : Lane) (g : Security → Security) : (l.setSec g).busyFrom = l.busyFrom := rfl
@[simp] theorem Lane.setSec_mem (l : Lane) (g : Security → Security) : (l.setSec g).mem = l.mem := rfl
@[simp] theorem Lane.setSec_answers (l : Lane) (g : Security → Security) : (l.setSec g).answers = l.answers := rfl
@[simp] theorem Lane.setSec_sec (l : Lane) (g : Security → Security) : (l.setSec g).sec = g l.sec := rfl
@[simp] theorem Lane.setAsy_id (l : Lane) (g : Assay → Assay) : (l.setAsy g).id = l.id := rfl
@[simp] theorem Lane.setAsy_running (l : Lane) (g : Assay → Assay) : (l.setAsy g).running = l.running := rfl
@[simp] theorem Lane.setAsy_phase (l : Lane) (g : Assay → Assay) : (l.setAsy g).phase = l.phase := rfl
@[simp] theorem Lane.setAsy_regs (l : Lane) (g : Assay → Assay) : (l.setAsy g).regs = l.regs := rfl
@[simp] theorem Lane.setAsy_view (l : Lane) (g : Assay → Assay) : (l.setAsy g).view = l.view := rfl
@[simp] theorem Lane.setAsy_held (l : Lane) (g : Assay → Assay) : (l.setAsy g).held = l.held := rfl
@[simp] theorem Lane.setAsy_opened (l : Lane) (g : Assay → Assay) : (l.setAsy g).opened = l.opened := rfl
@[simp] theorem Lane.setAsy_irqSet (l : Lane) (g : Assay → Assay) : (l.setAsy g).irqSet = l.irqSet := rfl
@[simp] theorem Lane.setAsy_rose (l : Lane) (g : Assay → Assay) : (l.setAsy g).rose = l.rose := rfl
@[simp] theorem Lane.setAsy_presets (l : Lane) (g : Assay → Assay) : (l.setAsy g).presets = l.presets := rfl
@[simp] theorem Lane.setAsy_frame (l : Lane) (g : Assay → Assay) : (l.setAsy g).frame = l.frame := rfl
@[simp] theorem Lane.setAsy_inloss (l : Lane) (g : Assay → Assay) : (l.setAsy g).inloss = l.inloss := rfl
@[simp] theorem Lane.setAsy_lastSeq (l : Lane) (g : Assay → Assay) : (l.setAsy g).lastSeq = l.lastSeq := rfl
@[simp] theorem Lane.setAsy_laneflt (l : Lane) (g : Assay → Assay) : (l.setAsy g).laneflt = l.laneflt := rfl
@[simp] theorem Lane.setAsy_deadlineFlt (l : Lane) (g : Assay → Assay) : (l.setAsy g).deadlineFlt = l.deadlineFlt := rfl
@[simp] theorem Lane.setAsy_loopsLate (l : Lane) (g : Assay → Assay) : (l.setAsy g).loopsLate = l.loopsLate := rfl
@[simp] theorem Lane.setAsy_asyfail (l : Lane) (g : Assay → Assay) : (l.setAsy g).asyfail = l.asyfail := rfl
@[simp] theorem Lane.setAsy_ranFrame (l : Lane) (g : Assay → Assay) : (l.setAsy g).ranFrame = l.ranFrame := rfl
@[simp] theorem Lane.setAsy_k0 (l : Lane) (g : Assay → Assay) : (l.setAsy g).k0 = l.k0 := rfl
@[simp] theorem Lane.setAsy_reduced (l : Lane) (g : Assay → Assay) : (l.setAsy g).reduced = l.reduced := rfl
@[simp] theorem Lane.setAsy_redEnd (l : Lane) (g : Assay → Assay) : (l.setAsy g).redEnd = l.redEnd := rfl
@[simp] theorem Lane.setAsy_restart (l : Lane) (g : Assay → Assay) : (l.setAsy g).restart = l.restart := rfl
@[simp] theorem Lane.setAsy_out (l : Lane) (g : Assay → Assay) : (l.setAsy g).out = l.out := rfl
@[simp] theorem Lane.setAsy_lastOut (l : Lane) (g : Assay → Assay) : (l.setAsy g).lastOut = l.lastOut := rfl
@[simp] theorem Lane.setAsy_leftOut (l : Lane) (g : Assay → Assay) : (l.setAsy g).leftOut = l.leftOut := rfl
@[simp] theorem Lane.setAsy_delivered (l : Lane) (g : Assay → Assay) : (l.setAsy g).delivered = l.delivered := rfl
@[simp] theorem Lane.setAsy_hb (l : Lane) (g : Assay → Assay) : (l.setAsy g).hb = l.hb := rfl
@[simp] theorem Lane.setAsy_prevBlock (l : Lane) (g : Assay → Assay) : (l.setAsy g).prevBlock = l.prevBlock := rfl
@[simp] theorem Lane.setAsy_met (l : Lane) (g : Assay → Assay) : (l.setAsy g).met = l.met := rfl
@[simp] theorem Lane.setAsy_heat (l : Lane) (g : Assay → Assay) : (l.setAsy g).heat = l.heat := rfl
@[simp] theorem Lane.setAsy_nv (l : Lane) (g : Assay → Assay) : (l.setAsy g).nv = l.nv := rfl
@[simp] theorem Lane.setAsy_time (l : Lane) (g : Assay → Assay) : (l.setAsy g).time = l.time := rfl
@[simp] theorem Lane.setAsy_ptp (l : Lane) (g : Assay → Assay) : (l.setAsy g).ptp = l.ptp := rfl
@[simp] theorem Lane.setAsy_tsq (l : Lane) (g : Assay → Assay) : (l.setAsy g).tsq = l.tsq := rfl
@[simp] theorem Lane.setAsy_queues (l : Lane) (g : Assay → Assay) : (l.setAsy g).queues = l.queues := rfl
@[simp] theorem Lane.setAsy_pat (l : Lane) (g : Assay → Assay) : (l.setAsy g).pat = l.pat := rfl
@[simp] theorem Lane.setAsy_loops (l : Lane) (g : Assay → Assay) : (l.setAsy g).loops = l.loops := rfl
@[simp] theorem Lane.setAsy_trc (l : Lane) (g : Assay → Assay) : (l.setAsy g).trc = l.trc := rfl
@[simp] theorem Lane.setAsy_prg (l : Lane) (g : Assay → Assay) : (l.setAsy g).prg = l.prg := rfl
@[simp] theorem Lane.setAsy_slv (l : Lane) (g : Assay → Assay) : (l.setAsy g).slv = l.slv := rfl
@[simp] theorem Lane.setAsy_opt (l : Lane) (g : Assay → Assay) : (l.setAsy g).opt = l.opt := rfl
@[simp] theorem Lane.setAsy_sec (l : Lane) (g : Assay → Assay) : (l.setAsy g).sec = l.sec := rfl
@[simp] theorem Lane.setAsy_fuses (l : Lane) (g : Assay → Assay) : (l.setAsy g).fuses = l.fuses := rfl
@[simp] theorem Lane.setAsy_fab (l : Lane) (g : Assay → Assay) : (l.setAsy g).fab = l.fab := rfl
@[simp] theorem Lane.setAsy_ports (l : Lane) (g : Assay → Assay) : (l.setAsy g).ports = l.ports := rfl
@[simp] theorem Lane.setAsy_dlist (l : Lane) (g : Assay → Assay) : (l.setAsy g).dlist = l.dlist := rfl
@[simp] theorem Lane.setAsy_panel (l : Lane) (g : Assay → Assay) : (l.setAsy g).panel = l.panel := rfl
@[simp] theorem Lane.setAsy_qdo (l : Lane) (g : Assay → Assay) : (l.setAsy g).qdo = l.qdo := rfl
@[simp] theorem Lane.setAsy_dispCfg (l : Lane) (g : Assay → Assay) : (l.setAsy g).dispCfg = l.dispCfg := rfl
@[simp] theorem Lane.setAsy_busyFrom (l : Lane) (g : Assay → Assay) : (l.setAsy g).busyFrom = l.busyFrom := rfl
@[simp] theorem Lane.setAsy_mem (l : Lane) (g : Assay → Assay) : (l.setAsy g).mem = l.mem := rfl
@[simp] theorem Lane.setAsy_answers (l : Lane) (g : Assay → Assay) : (l.setAsy g).answers = l.answers := rfl
@[simp] theorem Lane.setAsy_asy (l : Lane) (g : Assay → Assay) : (l.setAsy g).asy = g l.asy := rfl
@[simp] theorem Lane.setFab_id (l : Lane) (g : Fabric → Fabric) : (l.setFab g).id = l.id := rfl
@[simp] theorem Lane.setFab_running (l : Lane) (g : Fabric → Fabric) : (l.setFab g).running = l.running := rfl
@[simp] theorem Lane.setFab_phase (l : Lane) (g : Fabric → Fabric) : (l.setFab g).phase = l.phase := rfl
@[simp] theorem Lane.setFab_regs (l : Lane) (g : Fabric → Fabric) : (l.setFab g).regs = l.regs := rfl
@[simp] theorem Lane.setFab_view (l : Lane) (g : Fabric → Fabric) : (l.setFab g).view = l.view := rfl
@[simp] theorem Lane.setFab_held (l : Lane) (g : Fabric → Fabric) : (l.setFab g).held = l.held := rfl
@[simp] theorem Lane.setFab_opened (l : Lane) (g : Fabric → Fabric) : (l.setFab g).opened = l.opened := rfl
@[simp] theorem Lane.setFab_irqSet (l : Lane) (g : Fabric → Fabric) : (l.setFab g).irqSet = l.irqSet := rfl
@[simp] theorem Lane.setFab_rose (l : Lane) (g : Fabric → Fabric) : (l.setFab g).rose = l.rose := rfl
@[simp] theorem Lane.setFab_presets (l : Lane) (g : Fabric → Fabric) : (l.setFab g).presets = l.presets := rfl
@[simp] theorem Lane.setFab_frame (l : Lane) (g : Fabric → Fabric) : (l.setFab g).frame = l.frame := rfl
@[simp] theorem Lane.setFab_inloss (l : Lane) (g : Fabric → Fabric) : (l.setFab g).inloss = l.inloss := rfl
@[simp] theorem Lane.setFab_lastSeq (l : Lane) (g : Fabric → Fabric) : (l.setFab g).lastSeq = l.lastSeq := rfl
@[simp] theorem Lane.setFab_laneflt (l : Lane) (g : Fabric → Fabric) : (l.setFab g).laneflt = l.laneflt := rfl
@[simp] theorem Lane.setFab_deadlineFlt (l : Lane) (g : Fabric → Fabric) : (l.setFab g).deadlineFlt = l.deadlineFlt := rfl
@[simp] theorem Lane.setFab_loopsLate (l : Lane) (g : Fabric → Fabric) : (l.setFab g).loopsLate = l.loopsLate := rfl
@[simp] theorem Lane.setFab_asyfail (l : Lane) (g : Fabric → Fabric) : (l.setFab g).asyfail = l.asyfail := rfl
@[simp] theorem Lane.setFab_ranFrame (l : Lane) (g : Fabric → Fabric) : (l.setFab g).ranFrame = l.ranFrame := rfl
@[simp] theorem Lane.setFab_k0 (l : Lane) (g : Fabric → Fabric) : (l.setFab g).k0 = l.k0 := rfl
@[simp] theorem Lane.setFab_reduced (l : Lane) (g : Fabric → Fabric) : (l.setFab g).reduced = l.reduced := rfl
@[simp] theorem Lane.setFab_redEnd (l : Lane) (g : Fabric → Fabric) : (l.setFab g).redEnd = l.redEnd := rfl
@[simp] theorem Lane.setFab_restart (l : Lane) (g : Fabric → Fabric) : (l.setFab g).restart = l.restart := rfl
@[simp] theorem Lane.setFab_out (l : Lane) (g : Fabric → Fabric) : (l.setFab g).out = l.out := rfl
@[simp] theorem Lane.setFab_lastOut (l : Lane) (g : Fabric → Fabric) : (l.setFab g).lastOut = l.lastOut := rfl
@[simp] theorem Lane.setFab_leftOut (l : Lane) (g : Fabric → Fabric) : (l.setFab g).leftOut = l.leftOut := rfl
@[simp] theorem Lane.setFab_delivered (l : Lane) (g : Fabric → Fabric) : (l.setFab g).delivered = l.delivered := rfl
@[simp] theorem Lane.setFab_hb (l : Lane) (g : Fabric → Fabric) : (l.setFab g).hb = l.hb := rfl
@[simp] theorem Lane.setFab_prevBlock (l : Lane) (g : Fabric → Fabric) : (l.setFab g).prevBlock = l.prevBlock := rfl
@[simp] theorem Lane.setFab_met (l : Lane) (g : Fabric → Fabric) : (l.setFab g).met = l.met := rfl
@[simp] theorem Lane.setFab_heat (l : Lane) (g : Fabric → Fabric) : (l.setFab g).heat = l.heat := rfl
@[simp] theorem Lane.setFab_nv (l : Lane) (g : Fabric → Fabric) : (l.setFab g).nv = l.nv := rfl
@[simp] theorem Lane.setFab_time (l : Lane) (g : Fabric → Fabric) : (l.setFab g).time = l.time := rfl
@[simp] theorem Lane.setFab_ptp (l : Lane) (g : Fabric → Fabric) : (l.setFab g).ptp = l.ptp := rfl
@[simp] theorem Lane.setFab_tsq (l : Lane) (g : Fabric → Fabric) : (l.setFab g).tsq = l.tsq := rfl
@[simp] theorem Lane.setFab_queues (l : Lane) (g : Fabric → Fabric) : (l.setFab g).queues = l.queues := rfl
@[simp] theorem Lane.setFab_pat (l : Lane) (g : Fabric → Fabric) : (l.setFab g).pat = l.pat := rfl
@[simp] theorem Lane.setFab_loops (l : Lane) (g : Fabric → Fabric) : (l.setFab g).loops = l.loops := rfl
@[simp] theorem Lane.setFab_trc (l : Lane) (g : Fabric → Fabric) : (l.setFab g).trc = l.trc := rfl
@[simp] theorem Lane.setFab_prg (l : Lane) (g : Fabric → Fabric) : (l.setFab g).prg = l.prg := rfl
@[simp] theorem Lane.setFab_slv (l : Lane) (g : Fabric → Fabric) : (l.setFab g).slv = l.slv := rfl
@[simp] theorem Lane.setFab_opt (l : Lane) (g : Fabric → Fabric) : (l.setFab g).opt = l.opt := rfl
@[simp] theorem Lane.setFab_sec (l : Lane) (g : Fabric → Fabric) : (l.setFab g).sec = l.sec := rfl
@[simp] theorem Lane.setFab_fuses (l : Lane) (g : Fabric → Fabric) : (l.setFab g).fuses = l.fuses := rfl
@[simp] theorem Lane.setFab_asy (l : Lane) (g : Fabric → Fabric) : (l.setFab g).asy = l.asy := rfl
@[simp] theorem Lane.setFab_ports (l : Lane) (g : Fabric → Fabric) : (l.setFab g).ports = l.ports := rfl
@[simp] theorem Lane.setFab_dlist (l : Lane) (g : Fabric → Fabric) : (l.setFab g).dlist = l.dlist := rfl
@[simp] theorem Lane.setFab_panel (l : Lane) (g : Fabric → Fabric) : (l.setFab g).panel = l.panel := rfl
@[simp] theorem Lane.setFab_qdo (l : Lane) (g : Fabric → Fabric) : (l.setFab g).qdo = l.qdo := rfl
@[simp] theorem Lane.setFab_dispCfg (l : Lane) (g : Fabric → Fabric) : (l.setFab g).dispCfg = l.dispCfg := rfl
@[simp] theorem Lane.setFab_busyFrom (l : Lane) (g : Fabric → Fabric) : (l.setFab g).busyFrom = l.busyFrom := rfl
@[simp] theorem Lane.setFab_mem (l : Lane) (g : Fabric → Fabric) : (l.setFab g).mem = l.mem := rfl
@[simp] theorem Lane.setFab_answers (l : Lane) (g : Fabric → Fabric) : (l.setFab g).answers = l.answers := rfl
@[simp] theorem Lane.setFab_fab (l : Lane) (g : Fabric → Fabric) : (l.setFab g).fab = g l.fab := rfl
@[simp] theorem Lane.setPat_id (l : Lane) (g : Patina → Patina) : (l.setPat g).id = l.id := rfl
@[simp] theorem Lane.setPat_running (l : Lane) (g : Patina → Patina) : (l.setPat g).running = l.running := rfl
@[simp] theorem Lane.setPat_phase (l : Lane) (g : Patina → Patina) : (l.setPat g).phase = l.phase := rfl
@[simp] theorem Lane.setPat_regs (l : Lane) (g : Patina → Patina) : (l.setPat g).regs = l.regs := rfl
@[simp] theorem Lane.setPat_view (l : Lane) (g : Patina → Patina) : (l.setPat g).view = l.view := rfl
@[simp] theorem Lane.setPat_held (l : Lane) (g : Patina → Patina) : (l.setPat g).held = l.held := rfl
@[simp] theorem Lane.setPat_opened (l : Lane) (g : Patina → Patina) : (l.setPat g).opened = l.opened := rfl
@[simp] theorem Lane.setPat_irqSet (l : Lane) (g : Patina → Patina) : (l.setPat g).irqSet = l.irqSet := rfl
@[simp] theorem Lane.setPat_rose (l : Lane) (g : Patina → Patina) : (l.setPat g).rose = l.rose := rfl
@[simp] theorem Lane.setPat_presets (l : Lane) (g : Patina → Patina) : (l.setPat g).presets = l.presets := rfl
@[simp] theorem Lane.setPat_frame (l : Lane) (g : Patina → Patina) : (l.setPat g).frame = l.frame := rfl
@[simp] theorem Lane.setPat_inloss (l : Lane) (g : Patina → Patina) : (l.setPat g).inloss = l.inloss := rfl
@[simp] theorem Lane.setPat_lastSeq (l : Lane) (g : Patina → Patina) : (l.setPat g).lastSeq = l.lastSeq := rfl
@[simp] theorem Lane.setPat_laneflt (l : Lane) (g : Patina → Patina) : (l.setPat g).laneflt = l.laneflt := rfl
@[simp] theorem Lane.setPat_deadlineFlt (l : Lane) (g : Patina → Patina) : (l.setPat g).deadlineFlt = l.deadlineFlt := rfl
@[simp] theorem Lane.setPat_loopsLate (l : Lane) (g : Patina → Patina) : (l.setPat g).loopsLate = l.loopsLate := rfl
@[simp] theorem Lane.setPat_asyfail (l : Lane) (g : Patina → Patina) : (l.setPat g).asyfail = l.asyfail := rfl
@[simp] theorem Lane.setPat_ranFrame (l : Lane) (g : Patina → Patina) : (l.setPat g).ranFrame = l.ranFrame := rfl
@[simp] theorem Lane.setPat_k0 (l : Lane) (g : Patina → Patina) : (l.setPat g).k0 = l.k0 := rfl
@[simp] theorem Lane.setPat_reduced (l : Lane) (g : Patina → Patina) : (l.setPat g).reduced = l.reduced := rfl
@[simp] theorem Lane.setPat_redEnd (l : Lane) (g : Patina → Patina) : (l.setPat g).redEnd = l.redEnd := rfl
@[simp] theorem Lane.setPat_restart (l : Lane) (g : Patina → Patina) : (l.setPat g).restart = l.restart := rfl
@[simp] theorem Lane.setPat_out (l : Lane) (g : Patina → Patina) : (l.setPat g).out = l.out := rfl
@[simp] theorem Lane.setPat_lastOut (l : Lane) (g : Patina → Patina) : (l.setPat g).lastOut = l.lastOut := rfl
@[simp] theorem Lane.setPat_leftOut (l : Lane) (g : Patina → Patina) : (l.setPat g).leftOut = l.leftOut := rfl
@[simp] theorem Lane.setPat_delivered (l : Lane) (g : Patina → Patina) : (l.setPat g).delivered = l.delivered := rfl
@[simp] theorem Lane.setPat_hb (l : Lane) (g : Patina → Patina) : (l.setPat g).hb = l.hb := rfl
@[simp] theorem Lane.setPat_prevBlock (l : Lane) (g : Patina → Patina) : (l.setPat g).prevBlock = l.prevBlock := rfl
@[simp] theorem Lane.setPat_met (l : Lane) (g : Patina → Patina) : (l.setPat g).met = l.met := rfl
@[simp] theorem Lane.setPat_heat (l : Lane) (g : Patina → Patina) : (l.setPat g).heat = l.heat := rfl
@[simp] theorem Lane.setPat_nv (l : Lane) (g : Patina → Patina) : (l.setPat g).nv = l.nv := rfl
@[simp] theorem Lane.setPat_time (l : Lane) (g : Patina → Patina) : (l.setPat g).time = l.time := rfl
@[simp] theorem Lane.setPat_ptp (l : Lane) (g : Patina → Patina) : (l.setPat g).ptp = l.ptp := rfl
@[simp] theorem Lane.setPat_tsq (l : Lane) (g : Patina → Patina) : (l.setPat g).tsq = l.tsq := rfl
@[simp] theorem Lane.setPat_queues (l : Lane) (g : Patina → Patina) : (l.setPat g).queues = l.queues := rfl
@[simp] theorem Lane.setPat_loops (l : Lane) (g : Patina → Patina) : (l.setPat g).loops = l.loops := rfl
@[simp] theorem Lane.setPat_trc (l : Lane) (g : Patina → Patina) : (l.setPat g).trc = l.trc := rfl
@[simp] theorem Lane.setPat_prg (l : Lane) (g : Patina → Patina) : (l.setPat g).prg = l.prg := rfl
@[simp] theorem Lane.setPat_slv (l : Lane) (g : Patina → Patina) : (l.setPat g).slv = l.slv := rfl
@[simp] theorem Lane.setPat_opt (l : Lane) (g : Patina → Patina) : (l.setPat g).opt = l.opt := rfl
@[simp] theorem Lane.setPat_sec (l : Lane) (g : Patina → Patina) : (l.setPat g).sec = l.sec := rfl
@[simp] theorem Lane.setPat_fuses (l : Lane) (g : Patina → Patina) : (l.setPat g).fuses = l.fuses := rfl
@[simp] theorem Lane.setPat_asy (l : Lane) (g : Patina → Patina) : (l.setPat g).asy = l.asy := rfl
@[simp] theorem Lane.setPat_fab (l : Lane) (g : Patina → Patina) : (l.setPat g).fab = l.fab := rfl
@[simp] theorem Lane.setPat_ports (l : Lane) (g : Patina → Patina) : (l.setPat g).ports = l.ports := rfl
@[simp] theorem Lane.setPat_dlist (l : Lane) (g : Patina → Patina) : (l.setPat g).dlist = l.dlist := rfl
@[simp] theorem Lane.setPat_panel (l : Lane) (g : Patina → Patina) : (l.setPat g).panel = l.panel := rfl
@[simp] theorem Lane.setPat_qdo (l : Lane) (g : Patina → Patina) : (l.setPat g).qdo = l.qdo := rfl
@[simp] theorem Lane.setPat_dispCfg (l : Lane) (g : Patina → Patina) : (l.setPat g).dispCfg = l.dispCfg := rfl
@[simp] theorem Lane.setPat_busyFrom (l : Lane) (g : Patina → Patina) : (l.setPat g).busyFrom = l.busyFrom := rfl
@[simp] theorem Lane.setPat_mem (l : Lane) (g : Patina → Patina) : (l.setPat g).mem = l.mem := rfl
@[simp] theorem Lane.setPat_answers (l : Lane) (g : Patina → Patina) : (l.setPat g).answers = l.answers := rfl
@[simp] theorem Lane.setPat_pat (l : Lane) (g : Patina → Patina) : (l.setPat g).pat = g l.pat := rfl
@[simp] theorem Lane.setPorts_id (l : Lane) (g : Ports → Ports) : (l.setPorts g).id = l.id := rfl
@[simp] theorem Lane.setPorts_running (l : Lane) (g : Ports → Ports) : (l.setPorts g).running = l.running := rfl
@[simp] theorem Lane.setPorts_phase (l : Lane) (g : Ports → Ports) : (l.setPorts g).phase = l.phase := rfl
@[simp] theorem Lane.setPorts_regs (l : Lane) (g : Ports → Ports) : (l.setPorts g).regs = l.regs := rfl
@[simp] theorem Lane.setPorts_view (l : Lane) (g : Ports → Ports) : (l.setPorts g).view = l.view := rfl
@[simp] theorem Lane.setPorts_held (l : Lane) (g : Ports → Ports) : (l.setPorts g).held = l.held := rfl
@[simp] theorem Lane.setPorts_opened (l : Lane) (g : Ports → Ports) : (l.setPorts g).opened = l.opened := rfl
@[simp] theorem Lane.setPorts_irqSet (l : Lane) (g : Ports → Ports) : (l.setPorts g).irqSet = l.irqSet := rfl
@[simp] theorem Lane.setPorts_rose (l : Lane) (g : Ports → Ports) : (l.setPorts g).rose = l.rose := rfl
@[simp] theorem Lane.setPorts_presets (l : Lane) (g : Ports → Ports) : (l.setPorts g).presets = l.presets := rfl
@[simp] theorem Lane.setPorts_frame (l : Lane) (g : Ports → Ports) : (l.setPorts g).frame = l.frame := rfl
@[simp] theorem Lane.setPorts_inloss (l : Lane) (g : Ports → Ports) : (l.setPorts g).inloss = l.inloss := rfl
@[simp] theorem Lane.setPorts_lastSeq (l : Lane) (g : Ports → Ports) : (l.setPorts g).lastSeq = l.lastSeq := rfl
@[simp] theorem Lane.setPorts_laneflt (l : Lane) (g : Ports → Ports) : (l.setPorts g).laneflt = l.laneflt := rfl
@[simp] theorem Lane.setPorts_deadlineFlt (l : Lane) (g : Ports → Ports) : (l.setPorts g).deadlineFlt = l.deadlineFlt := rfl
@[simp] theorem Lane.setPorts_loopsLate (l : Lane) (g : Ports → Ports) : (l.setPorts g).loopsLate = l.loopsLate := rfl
@[simp] theorem Lane.setPorts_asyfail (l : Lane) (g : Ports → Ports) : (l.setPorts g).asyfail = l.asyfail := rfl
@[simp] theorem Lane.setPorts_ranFrame (l : Lane) (g : Ports → Ports) : (l.setPorts g).ranFrame = l.ranFrame := rfl
@[simp] theorem Lane.setPorts_k0 (l : Lane) (g : Ports → Ports) : (l.setPorts g).k0 = l.k0 := rfl
@[simp] theorem Lane.setPorts_reduced (l : Lane) (g : Ports → Ports) : (l.setPorts g).reduced = l.reduced := rfl
@[simp] theorem Lane.setPorts_redEnd (l : Lane) (g : Ports → Ports) : (l.setPorts g).redEnd = l.redEnd := rfl
@[simp] theorem Lane.setPorts_restart (l : Lane) (g : Ports → Ports) : (l.setPorts g).restart = l.restart := rfl
@[simp] theorem Lane.setPorts_out (l : Lane) (g : Ports → Ports) : (l.setPorts g).out = l.out := rfl
@[simp] theorem Lane.setPorts_lastOut (l : Lane) (g : Ports → Ports) : (l.setPorts g).lastOut = l.lastOut := rfl
@[simp] theorem Lane.setPorts_leftOut (l : Lane) (g : Ports → Ports) : (l.setPorts g).leftOut = l.leftOut := rfl
@[simp] theorem Lane.setPorts_delivered (l : Lane) (g : Ports → Ports) : (l.setPorts g).delivered = l.delivered := rfl
@[simp] theorem Lane.setPorts_hb (l : Lane) (g : Ports → Ports) : (l.setPorts g).hb = l.hb := rfl
@[simp] theorem Lane.setPorts_prevBlock (l : Lane) (g : Ports → Ports) : (l.setPorts g).prevBlock = l.prevBlock := rfl
@[simp] theorem Lane.setPorts_met (l : Lane) (g : Ports → Ports) : (l.setPorts g).met = l.met := rfl
@[simp] theorem Lane.setPorts_heat (l : Lane) (g : Ports → Ports) : (l.setPorts g).heat = l.heat := rfl
@[simp] theorem Lane.setPorts_nv (l : Lane) (g : Ports → Ports) : (l.setPorts g).nv = l.nv := rfl
@[simp] theorem Lane.setPorts_time (l : Lane) (g : Ports → Ports) : (l.setPorts g).time = l.time := rfl
@[simp] theorem Lane.setPorts_ptp (l : Lane) (g : Ports → Ports) : (l.setPorts g).ptp = l.ptp := rfl
@[simp] theorem Lane.setPorts_tsq (l : Lane) (g : Ports → Ports) : (l.setPorts g).tsq = l.tsq := rfl
@[simp] theorem Lane.setPorts_queues (l : Lane) (g : Ports → Ports) : (l.setPorts g).queues = l.queues := rfl
@[simp] theorem Lane.setPorts_pat (l : Lane) (g : Ports → Ports) : (l.setPorts g).pat = l.pat := rfl
@[simp] theorem Lane.setPorts_loops (l : Lane) (g : Ports → Ports) : (l.setPorts g).loops = l.loops := rfl
@[simp] theorem Lane.setPorts_trc (l : Lane) (g : Ports → Ports) : (l.setPorts g).trc = l.trc := rfl
@[simp] theorem Lane.setPorts_prg (l : Lane) (g : Ports → Ports) : (l.setPorts g).prg = l.prg := rfl
@[simp] theorem Lane.setPorts_slv (l : Lane) (g : Ports → Ports) : (l.setPorts g).slv = l.slv := rfl
@[simp] theorem Lane.setPorts_opt (l : Lane) (g : Ports → Ports) : (l.setPorts g).opt = l.opt := rfl
@[simp] theorem Lane.setPorts_sec (l : Lane) (g : Ports → Ports) : (l.setPorts g).sec = l.sec := rfl
@[simp] theorem Lane.setPorts_fuses (l : Lane) (g : Ports → Ports) : (l.setPorts g).fuses = l.fuses := rfl
@[simp] theorem Lane.setPorts_asy (l : Lane) (g : Ports → Ports) : (l.setPorts g).asy = l.asy := rfl
@[simp] theorem Lane.setPorts_fab (l : Lane) (g : Ports → Ports) : (l.setPorts g).fab = l.fab := rfl
@[simp] theorem Lane.setPorts_dlist (l : Lane) (g : Ports → Ports) : (l.setPorts g).dlist = l.dlist := rfl
@[simp] theorem Lane.setPorts_panel (l : Lane) (g : Ports → Ports) : (l.setPorts g).panel = l.panel := rfl
@[simp] theorem Lane.setPorts_qdo (l : Lane) (g : Ports → Ports) : (l.setPorts g).qdo = l.qdo := rfl
@[simp] theorem Lane.setPorts_dispCfg (l : Lane) (g : Ports → Ports) : (l.setPorts g).dispCfg = l.dispCfg := rfl
@[simp] theorem Lane.setPorts_busyFrom (l : Lane) (g : Ports → Ports) : (l.setPorts g).busyFrom = l.busyFrom := rfl
@[simp] theorem Lane.setPorts_mem (l : Lane) (g : Ports → Ports) : (l.setPorts g).mem = l.mem := rfl
@[simp] theorem Lane.setPorts_answers (l : Lane) (g : Ports → Ports) : (l.setPorts g).answers = l.answers := rfl
@[simp] theorem Lane.setPorts_ports (l : Lane) (g : Ports → Ports) : (l.setPorts g).ports = g l.ports := rfl
@[simp] theorem Lane.setSlv_id (l : Lane) (g : Solver → Solver) : (l.setSlv g).id = l.id := rfl
@[simp] theorem Lane.setSlv_running (l : Lane) (g : Solver → Solver) : (l.setSlv g).running = l.running := rfl
@[simp] theorem Lane.setSlv_phase (l : Lane) (g : Solver → Solver) : (l.setSlv g).phase = l.phase := rfl
@[simp] theorem Lane.setSlv_regs (l : Lane) (g : Solver → Solver) : (l.setSlv g).regs = l.regs := rfl
@[simp] theorem Lane.setSlv_view (l : Lane) (g : Solver → Solver) : (l.setSlv g).view = l.view := rfl
@[simp] theorem Lane.setSlv_held (l : Lane) (g : Solver → Solver) : (l.setSlv g).held = l.held := rfl
@[simp] theorem Lane.setSlv_opened (l : Lane) (g : Solver → Solver) : (l.setSlv g).opened = l.opened := rfl
@[simp] theorem Lane.setSlv_irqSet (l : Lane) (g : Solver → Solver) : (l.setSlv g).irqSet = l.irqSet := rfl
@[simp] theorem Lane.setSlv_rose (l : Lane) (g : Solver → Solver) : (l.setSlv g).rose = l.rose := rfl
@[simp] theorem Lane.setSlv_presets (l : Lane) (g : Solver → Solver) : (l.setSlv g).presets = l.presets := rfl
@[simp] theorem Lane.setSlv_frame (l : Lane) (g : Solver → Solver) : (l.setSlv g).frame = l.frame := rfl
@[simp] theorem Lane.setSlv_inloss (l : Lane) (g : Solver → Solver) : (l.setSlv g).inloss = l.inloss := rfl
@[simp] theorem Lane.setSlv_lastSeq (l : Lane) (g : Solver → Solver) : (l.setSlv g).lastSeq = l.lastSeq := rfl
@[simp] theorem Lane.setSlv_laneflt (l : Lane) (g : Solver → Solver) : (l.setSlv g).laneflt = l.laneflt := rfl
@[simp] theorem Lane.setSlv_deadlineFlt (l : Lane) (g : Solver → Solver) : (l.setSlv g).deadlineFlt = l.deadlineFlt := rfl
@[simp] theorem Lane.setSlv_loopsLate (l : Lane) (g : Solver → Solver) : (l.setSlv g).loopsLate = l.loopsLate := rfl
@[simp] theorem Lane.setSlv_asyfail (l : Lane) (g : Solver → Solver) : (l.setSlv g).asyfail = l.asyfail := rfl
@[simp] theorem Lane.setSlv_ranFrame (l : Lane) (g : Solver → Solver) : (l.setSlv g).ranFrame = l.ranFrame := rfl
@[simp] theorem Lane.setSlv_k0 (l : Lane) (g : Solver → Solver) : (l.setSlv g).k0 = l.k0 := rfl
@[simp] theorem Lane.setSlv_reduced (l : Lane) (g : Solver → Solver) : (l.setSlv g).reduced = l.reduced := rfl
@[simp] theorem Lane.setSlv_redEnd (l : Lane) (g : Solver → Solver) : (l.setSlv g).redEnd = l.redEnd := rfl
@[simp] theorem Lane.setSlv_restart (l : Lane) (g : Solver → Solver) : (l.setSlv g).restart = l.restart := rfl
@[simp] theorem Lane.setSlv_out (l : Lane) (g : Solver → Solver) : (l.setSlv g).out = l.out := rfl
@[simp] theorem Lane.setSlv_lastOut (l : Lane) (g : Solver → Solver) : (l.setSlv g).lastOut = l.lastOut := rfl
@[simp] theorem Lane.setSlv_leftOut (l : Lane) (g : Solver → Solver) : (l.setSlv g).leftOut = l.leftOut := rfl
@[simp] theorem Lane.setSlv_delivered (l : Lane) (g : Solver → Solver) : (l.setSlv g).delivered = l.delivered := rfl
@[simp] theorem Lane.setSlv_hb (l : Lane) (g : Solver → Solver) : (l.setSlv g).hb = l.hb := rfl
@[simp] theorem Lane.setSlv_prevBlock (l : Lane) (g : Solver → Solver) : (l.setSlv g).prevBlock = l.prevBlock := rfl
@[simp] theorem Lane.setSlv_met (l : Lane) (g : Solver → Solver) : (l.setSlv g).met = l.met := rfl
@[simp] theorem Lane.setSlv_heat (l : Lane) (g : Solver → Solver) : (l.setSlv g).heat = l.heat := rfl
@[simp] theorem Lane.setSlv_nv (l : Lane) (g : Solver → Solver) : (l.setSlv g).nv = l.nv := rfl
@[simp] theorem Lane.setSlv_time (l : Lane) (g : Solver → Solver) : (l.setSlv g).time = l.time := rfl
@[simp] theorem Lane.setSlv_ptp (l : Lane) (g : Solver → Solver) : (l.setSlv g).ptp = l.ptp := rfl
@[simp] theorem Lane.setSlv_tsq (l : Lane) (g : Solver → Solver) : (l.setSlv g).tsq = l.tsq := rfl
@[simp] theorem Lane.setSlv_queues (l : Lane) (g : Solver → Solver) : (l.setSlv g).queues = l.queues := rfl
@[simp] theorem Lane.setSlv_pat (l : Lane) (g : Solver → Solver) : (l.setSlv g).pat = l.pat := rfl
@[simp] theorem Lane.setSlv_loops (l : Lane) (g : Solver → Solver) : (l.setSlv g).loops = l.loops := rfl
@[simp] theorem Lane.setSlv_trc (l : Lane) (g : Solver → Solver) : (l.setSlv g).trc = l.trc := rfl
@[simp] theorem Lane.setSlv_prg (l : Lane) (g : Solver → Solver) : (l.setSlv g).prg = l.prg := rfl
@[simp] theorem Lane.setSlv_opt (l : Lane) (g : Solver → Solver) : (l.setSlv g).opt = l.opt := rfl
@[simp] theorem Lane.setSlv_sec (l : Lane) (g : Solver → Solver) : (l.setSlv g).sec = l.sec := rfl
@[simp] theorem Lane.setSlv_fuses (l : Lane) (g : Solver → Solver) : (l.setSlv g).fuses = l.fuses := rfl
@[simp] theorem Lane.setSlv_asy (l : Lane) (g : Solver → Solver) : (l.setSlv g).asy = l.asy := rfl
@[simp] theorem Lane.setSlv_fab (l : Lane) (g : Solver → Solver) : (l.setSlv g).fab = l.fab := rfl
@[simp] theorem Lane.setSlv_ports (l : Lane) (g : Solver → Solver) : (l.setSlv g).ports = l.ports := rfl
@[simp] theorem Lane.setSlv_dlist (l : Lane) (g : Solver → Solver) : (l.setSlv g).dlist = l.dlist := rfl
@[simp] theorem Lane.setSlv_panel (l : Lane) (g : Solver → Solver) : (l.setSlv g).panel = l.panel := rfl
@[simp] theorem Lane.setSlv_qdo (l : Lane) (g : Solver → Solver) : (l.setSlv g).qdo = l.qdo := rfl
@[simp] theorem Lane.setSlv_dispCfg (l : Lane) (g : Solver → Solver) : (l.setSlv g).dispCfg = l.dispCfg := rfl
@[simp] theorem Lane.setSlv_busyFrom (l : Lane) (g : Solver → Solver) : (l.setSlv g).busyFrom = l.busyFrom := rfl
@[simp] theorem Lane.setSlv_mem (l : Lane) (g : Solver → Solver) : (l.setSlv g).mem = l.mem := rfl
@[simp] theorem Lane.setSlv_answers (l : Lane) (g : Solver → Solver) : (l.setSlv g).answers = l.answers := rfl
@[simp] theorem Lane.setSlv_slv (l : Lane) (g : Solver → Solver) : (l.setSlv g).slv = g l.slv := rfl
@[simp] theorem Lane.setOpt_id (l : Lane) (g : Optimiser → Optimiser) : (l.setOpt g).id = l.id := rfl
@[simp] theorem Lane.setOpt_running (l : Lane) (g : Optimiser → Optimiser) : (l.setOpt g).running = l.running := rfl
@[simp] theorem Lane.setOpt_phase (l : Lane) (g : Optimiser → Optimiser) : (l.setOpt g).phase = l.phase := rfl
@[simp] theorem Lane.setOpt_regs (l : Lane) (g : Optimiser → Optimiser) : (l.setOpt g).regs = l.regs := rfl
@[simp] theorem Lane.setOpt_view (l : Lane) (g : Optimiser → Optimiser) : (l.setOpt g).view = l.view := rfl
@[simp] theorem Lane.setOpt_held (l : Lane) (g : Optimiser → Optimiser) : (l.setOpt g).held = l.held := rfl
@[simp] theorem Lane.setOpt_opened (l : Lane) (g : Optimiser → Optimiser) : (l.setOpt g).opened = l.opened := rfl
@[simp] theorem Lane.setOpt_irqSet (l : Lane) (g : Optimiser → Optimiser) : (l.setOpt g).irqSet = l.irqSet := rfl
@[simp] theorem Lane.setOpt_rose (l : Lane) (g : Optimiser → Optimiser) : (l.setOpt g).rose = l.rose := rfl
@[simp] theorem Lane.setOpt_presets (l : Lane) (g : Optimiser → Optimiser) : (l.setOpt g).presets = l.presets := rfl
@[simp] theorem Lane.setOpt_frame (l : Lane) (g : Optimiser → Optimiser) : (l.setOpt g).frame = l.frame := rfl
@[simp] theorem Lane.setOpt_inloss (l : Lane) (g : Optimiser → Optimiser) : (l.setOpt g).inloss = l.inloss := rfl
@[simp] theorem Lane.setOpt_lastSeq (l : Lane) (g : Optimiser → Optimiser) : (l.setOpt g).lastSeq = l.lastSeq := rfl
@[simp] theorem Lane.setOpt_laneflt (l : Lane) (g : Optimiser → Optimiser) : (l.setOpt g).laneflt = l.laneflt := rfl
@[simp] theorem Lane.setOpt_deadlineFlt (l : Lane) (g : Optimiser → Optimiser) : (l.setOpt g).deadlineFlt = l.deadlineFlt := rfl
@[simp] theorem Lane.setOpt_loopsLate (l : Lane) (g : Optimiser → Optimiser) : (l.setOpt g).loopsLate = l.loopsLate := rfl
@[simp] theorem Lane.setOpt_asyfail (l : Lane) (g : Optimiser → Optimiser) : (l.setOpt g).asyfail = l.asyfail := rfl
@[simp] theorem Lane.setOpt_ranFrame (l : Lane) (g : Optimiser → Optimiser) : (l.setOpt g).ranFrame = l.ranFrame := rfl
@[simp] theorem Lane.setOpt_k0 (l : Lane) (g : Optimiser → Optimiser) : (l.setOpt g).k0 = l.k0 := rfl
@[simp] theorem Lane.setOpt_reduced (l : Lane) (g : Optimiser → Optimiser) : (l.setOpt g).reduced = l.reduced := rfl
@[simp] theorem Lane.setOpt_redEnd (l : Lane) (g : Optimiser → Optimiser) : (l.setOpt g).redEnd = l.redEnd := rfl
@[simp] theorem Lane.setOpt_restart (l : Lane) (g : Optimiser → Optimiser) : (l.setOpt g).restart = l.restart := rfl
@[simp] theorem Lane.setOpt_out (l : Lane) (g : Optimiser → Optimiser) : (l.setOpt g).out = l.out := rfl
@[simp] theorem Lane.setOpt_lastOut (l : Lane) (g : Optimiser → Optimiser) : (l.setOpt g).lastOut = l.lastOut := rfl
@[simp] theorem Lane.setOpt_leftOut (l : Lane) (g : Optimiser → Optimiser) : (l.setOpt g).leftOut = l.leftOut := rfl
@[simp] theorem Lane.setOpt_delivered (l : Lane) (g : Optimiser → Optimiser) : (l.setOpt g).delivered = l.delivered := rfl
@[simp] theorem Lane.setOpt_hb (l : Lane) (g : Optimiser → Optimiser) : (l.setOpt g).hb = l.hb := rfl
@[simp] theorem Lane.setOpt_prevBlock (l : Lane) (g : Optimiser → Optimiser) : (l.setOpt g).prevBlock = l.prevBlock := rfl
@[simp] theorem Lane.setOpt_met (l : Lane) (g : Optimiser → Optimiser) : (l.setOpt g).met = l.met := rfl
@[simp] theorem Lane.setOpt_heat (l : Lane) (g : Optimiser → Optimiser) : (l.setOpt g).heat = l.heat := rfl
@[simp] theorem Lane.setOpt_nv (l : Lane) (g : Optimiser → Optimiser) : (l.setOpt g).nv = l.nv := rfl
@[simp] theorem Lane.setOpt_time (l : Lane) (g : Optimiser → Optimiser) : (l.setOpt g).time = l.time := rfl
@[simp] theorem Lane.setOpt_ptp (l : Lane) (g : Optimiser → Optimiser) : (l.setOpt g).ptp = l.ptp := rfl
@[simp] theorem Lane.setOpt_tsq (l : Lane) (g : Optimiser → Optimiser) : (l.setOpt g).tsq = l.tsq := rfl
@[simp] theorem Lane.setOpt_queues (l : Lane) (g : Optimiser → Optimiser) : (l.setOpt g).queues = l.queues := rfl
@[simp] theorem Lane.setOpt_pat (l : Lane) (g : Optimiser → Optimiser) : (l.setOpt g).pat = l.pat := rfl
@[simp] theorem Lane.setOpt_loops (l : Lane) (g : Optimiser → Optimiser) : (l.setOpt g).loops = l.loops := rfl
@[simp] theorem Lane.setOpt_trc (l : Lane) (g : Optimiser → Optimiser) : (l.setOpt g).trc = l.trc := rfl
@[simp] theorem Lane.setOpt_prg (l : Lane) (g : Optimiser → Optimiser) : (l.setOpt g).prg = l.prg := rfl
@[simp] theorem Lane.setOpt_slv (l : Lane) (g : Optimiser → Optimiser) : (l.setOpt g).slv = l.slv := rfl
@[simp] theorem Lane.setOpt_sec (l : Lane) (g : Optimiser → Optimiser) : (l.setOpt g).sec = l.sec := rfl
@[simp] theorem Lane.setOpt_fuses (l : Lane) (g : Optimiser → Optimiser) : (l.setOpt g).fuses = l.fuses := rfl
@[simp] theorem Lane.setOpt_asy (l : Lane) (g : Optimiser → Optimiser) : (l.setOpt g).asy = l.asy := rfl
@[simp] theorem Lane.setOpt_fab (l : Lane) (g : Optimiser → Optimiser) : (l.setOpt g).fab = l.fab := rfl
@[simp] theorem Lane.setOpt_ports (l : Lane) (g : Optimiser → Optimiser) : (l.setOpt g).ports = l.ports := rfl
@[simp] theorem Lane.setOpt_dlist (l : Lane) (g : Optimiser → Optimiser) : (l.setOpt g).dlist = l.dlist := rfl
@[simp] theorem Lane.setOpt_panel (l : Lane) (g : Optimiser → Optimiser) : (l.setOpt g).panel = l.panel := rfl
@[simp] theorem Lane.setOpt_qdo (l : Lane) (g : Optimiser → Optimiser) : (l.setOpt g).qdo = l.qdo := rfl
@[simp] theorem Lane.setOpt_dispCfg (l : Lane) (g : Optimiser → Optimiser) : (l.setOpt g).dispCfg = l.dispCfg := rfl
@[simp] theorem Lane.setOpt_busyFrom (l : Lane) (g : Optimiser → Optimiser) : (l.setOpt g).busyFrom = l.busyFrom := rfl
@[simp] theorem Lane.setOpt_mem (l : Lane) (g : Optimiser → Optimiser) : (l.setOpt g).mem = l.mem := rfl
@[simp] theorem Lane.setOpt_answers (l : Lane) (g : Optimiser → Optimiser) : (l.setOpt g).answers = l.answers := rfl
@[simp] theorem Lane.setOpt_opt (l : Lane) (g : Optimiser → Optimiser) : (l.setOpt g).opt = g l.opt := rfl

end Sys2Proof.Machine
end

