-- ==== Sys2Proof/Laws/Enq.lean ====
section
/-! SUPPORT. One Enesque instruction in a running task: what its context and operands are while it executes, and the
lane after it (11_enesque_instructions.md R264, R276). -/

namespace Sys2Proof.Machine

/-! ### Tasks and executors -/

theorem Lane.task_setTask (l : Lane) (n : Nat) (t : Task) (h : n < l.prg.tasks.length) : (l.setTask n t).task n = t := by
  simp [Lane.setTask, Lane.task, Program.setTask, Program.task, List.getD, h]

theorem Lane.task_setTask_ne (l : Lane) (n m : Nat) (t : Task) (h : m ≠ n) : (l.setTask n t).task m = l.task m := by
  simp [Lane.setTask, Lane.task, Program.setTask, Program.task, List.getD, List.getElem?_set_ne (Ne.symm h)]

@[simp] theorem Lane.setTask_count (l : Lane) (n : Nat) (t : Task) : (l.setTask n t).prg.tasks.length = l.prg.tasks.length := by
  simp [Lane.setTask, Program.setTask]

@[simp] theorem Lane.exe_setTask (l : Lane) (n m : Nat) (t : Task) : (l.setTask n t).exe m = l.exe m := rfl
@[simp] theorem Lane.forces_setTask (l : Lane) (n : Nat) (t : Task) : (l.setTask n t).prg.forces = l.prg.forces := rfl
@[simp] theorem Lane.since_setTask (l : Lane) (n : Nat) (t : Task) : (l.setTask n t).prg.runSince = l.prg.runSince := rfl

@[simp] theorem Lane.task_setExe (l : Lane) (n m : Nat) (e : Executor) : (l.setExe n e).task m = l.task m := by
  unfold Lane.setExe Lane.task Program.setExe Program.task
  split <;> rfl

@[simp] theorem Lane.setExe_count (l : Lane) (n : Nat) (e : Executor) : (l.setExe n e).prg.tasks.length = l.prg.tasks.length := by
  unfold Lane.setExe Program.setExe
  split <;> rfl

theorem Lane.exe_setExe (l : Lane) (n : Nat) (e : Executor) : (l.setExe n e).exe n = e := by
  unfold Lane.setExe Lane.exe Program.setExe Program.exe
  split <;> simp_all

/-! ### Contexts -/

theorem Lane.task_modCtx (l : Lane) (n : Nat) (f : EnqCtx → EnqCtx) (h : n < l.prg.tasks.length) :
    (l.modCtx n f).task n = { l.task n with ctx := f (l.task n).ctx } := Lane.task_setTask l n _ h

@[simp] theorem Lane.exe_modCtx (l : Lane) (n m : Nat) (f : EnqCtx → EnqCtx) : (l.modCtx n f).exe m = l.exe m := rfl
@[simp] theorem Lane.forces_modCtx (l : Lane) (n : Nat) (f : EnqCtx → EnqCtx) : (l.modCtx n f).prg.forces = l.prg.forces := rfl
@[simp] theorem Lane.since_modCtx (l : Lane) (n : Nat) (f : EnqCtx → EnqCtx) : (l.modCtx n f).prg.runSince = l.prg.runSince := rfl
@[simp] theorem Lane.modCtx_count (l : Lane) (n : Nat) (f : EnqCtx → EnqCtx) :
    (l.modCtx n f).prg.tasks.length = l.prg.tasks.length := Lane.setTask_count l n _

theorem Lane.ctx_modCtx (l : Lane) (n : Nat) (f : EnqCtx → EnqCtx) (h : n < l.prg.tasks.length) :
    (l.modCtx n f).enqCtx n = f (l.enqCtx n) := by
  unfold Lane.enqCtx
  rw [Lane.task_modCtx l n f h]

/-- Two changes of a context are one. -/
theorem Lane.modCtx_modCtx (l : Lane) (n : Nat) (f g : EnqCtx → EnqCtx) (h : n < l.prg.tasks.length) :
    (l.modCtx n f).modCtx n g = l.modCtx n fun c => g (f c) := by
  have e : (l.modCtx n f).task n = { l.task n with ctx := f (l.task n).ctx } := Lane.task_modCtx l n f h
  unfold Lane.modCtx at e ⊢
  rw [e]
  simp [Lane.setTask, Program.setTask]

/-! ### Operands do not depend on the context but for XR -/

theorem Lane.varWord_modCtx (l : Lane) (n x i : Nat) (f : EnqCtx → EnqCtx) : (l.modCtx n f).varWord x i = l.varWord x i := rfl

theorem Lane.imageRead_modCtx (l : Lane) (n a : Nat) (f : EnqCtx → EnqCtx) (h : n < l.prg.tasks.length) :
    (l.modCtx n f).imageRead n a = l.imageRead n a := by
  unfold Lane.imageRead
  rw [Lane.task_modCtx l n f h]

theorem EnqEnv.readBit_modCtx (v : EnqEnv) (l : Lane) (area addr : Nat) (f : EnqCtx → EnqCtx) (h : v.task < l.prg.tasks.length) :
    v.readBit (l.modCtx v.task f) area addr = v.readBit l area addr := by
  unfold EnqEnv.readBit
  simp only [Lane.imageRead_modCtx l _ _ f h]
  rfl

theorem EnqEnv.effective_modCtx (v : EnqEnv) (l : Lane) (area addr : Nat) (f : EnqCtx → EnqCtx) (h : v.task < l.prg.tasks.length)
    (hx : (f (l.enqCtx v.task)).xr = (l.enqCtx v.task).xr) :
    v.effective (l.modCtx v.task f) area addr = v.effective l area addr := by
  unfold EnqEnv.effective
  rw [Lane.ctx_modCtx l _ f h, hx]

theorem EnqEnv.wordAt_modCtx (v : EnqEnv) (l : Lane) (area a : Nat) (f : EnqCtx → EnqCtx) (h : v.task < l.prg.tasks.length) :
    v.wordAt (l.modCtx v.task f) area a = v.wordAt l area a := by
  unfold EnqEnv.wordAt
  simp only [Lane.imageRead_modCtx l _ _ f h]
  rfl

theorem EnqEnv.readWord_modCtx (v : EnqEnv) (l : Lane) (area addr : Nat) (f : EnqCtx → EnqCtx) (h : v.task < l.prg.tasks.length)
    (hx : (f (l.enqCtx v.task)).xr = (l.enqCtx v.task).xr) :
    v.readWord (l.modCtx v.task f) area addr = v.readWord l area addr := by
  unfold EnqEnv.readWord
  rw [EnqEnv.effective_modCtx v l area addr f h hx, EnqEnv.wordAt_modCtx v l _ _ f h]

theorem EnqEnv.readByte_modCtx (v : EnqEnv) (l : Lane) (area addr : Nat) (f : EnqCtx → EnqCtx) (h : v.task < l.prg.tasks.length)
    (hx : (f (l.enqCtx v.task)).xr = (l.enqCtx v.task).xr) :
    v.readByte (l.modCtx v.task f) area addr = v.readByte l area addr := by
  unfold EnqEnv.readByte
  rw [EnqEnv.effective_modCtx v l area addr f h hx]
  rfl

theorem EnqEnv.loopArg_modCtx (v : EnqEnv) (l : Lane) (area addr : Nat) (f : EnqCtx → EnqCtx) (h : v.task < l.prg.tasks.length)
    (hx : (f (l.enqCtx v.task)).xr = (l.enqCtx v.task).xr) :
    v.loopArg (l.modCtx v.task f) area addr = v.loopArg l area addr := by
  unfold EnqEnv.loopArg
  rw [EnqEnv.readWord_modCtx v l area addr f h hx]
  rfl

/-- A bit operand is not in an indexed area. -/
theorem EnqEnv.readBit_index (v : EnqEnv) (l : Lane) (area addr : Nat) (b : Bool) (h : v.readBit l area addr = .ok b) :
    indexCost area = 0 := by
  unfold indexCost
  rw [if_neg]
  rintro (rfl | rfl | rfl) <;> simp [EnqEnv.readBit] at h

/-! ### The lane after an instruction -/

theorem Lane.task_charge (l : Lane) (x n c : Nat) (h : n < l.prg.tasks.length) :
    (l.charge x n c).task n = { l.task n with cyc := (l.task n).cyc + c, feedCyc := (l.task n).feedCyc + c } := by
  unfold Lane.charge
  rw [Lane.task_setExe, Lane.task_setTask l n _ h]

/-- The command of an instruction, on a lane whose task it executes in. -/
theorem enqRow_lane (s : State) (x : LaneId) (e : Exec45) (n : Nat) (sem : EnqSem) (area : BitVec 4) (addr : BitVec 20)
    (h : Executes s x e n) :
    (enqRow e sem area addr s).lane x = (enqEnv s e n).run (s.lane x) sem area.toNat addr.toNat := by
  have key : ∀ m, exeNo e = m → (onLanes (fun l => l.onEngine m fun l => l.enqCommand s.hub s.nv m sem area.toNat addr.toNat) s).lane x =
      (enqEnv s e n).run (s.lane x) sem area.toNat addr.toNat := by
    rintro m rfl
    rw [onLanes_running _ _ _ h.runs]
    unfold Lane.onEngine
    rw [if_pos h.engine]
    unfold Lane.enqCommand
    beta_reduce
    rw [h.task]
    simp only [h.mode, h.sound, ne_eq, not_true_eq_false, Bool.false_eq_true, or_self, if_false]
    rfl
  cases e
  · exact key 4 rfl
  · exact key 5 rfl

/-- Only the lanes change by an instruction. -/
theorem enqRow_only (s : State) (e : Exec45) (sem : EnqSem) (area : BitVec 4) (addr : BitVec 20) :
    LanesOnly s (enqRow e sem area addr s) := onLanes_rest _ s

/-- An instruction that does not fault. -/
theorem enqRow_ok (s : State) (x : LaneId) (e : Exec45) (n : Nat) (sem : EnqSem) (area : BitVec 4) (addr : BitVec 20) (cost : Nat)
    (l : Lane) (h : Executes s x e n) (hs : sem (enqEnv s e n) area.toNat addr.toNat (s.pcOn x n) = .ok (l, cost)) :
    (enqRow e sem area addr s).lane x = s.charged x e n (cost + indexCost area.toNat) l := by
  rw [enqRow_lane s x e n sem area addr h]
  unfold EnqEnv.run
  have hs' : sem (enqEnv s e n) area.toNat addr.toNat
      ((s.lane x).modCtx (enqEnv s e n).task fun c => { c with pc := c.pc + 1 }) = .ok (l, cost) := hs
  simp only [hs']
  rfl

/-- An instruction that faults leaves everything as it was but for the record of the fault. -/
theorem EnqEnv.run_fault (v : EnqEnv) (l : Lane) (sem : EnqSem) (area addr code : Nat)
    (h : sem v area addr (l.modCtx v.task fun c => { c with pc := c.pc + 1 }) = .error code) :
    v.run l sem area addr = l.prgFault v.exe v.task code (l.enqCtx v.task).pc := by
  unfold EnqEnv.run
  simp only [h]

/-- An instruction that faults. -/
theorem enqRow_faults (s : State) (x : LaneId) (e : Exec45) (n : Nat) (sem : EnqSem) (area : BitVec 4) (addr : BitVec 20)
    (code : Nat) (h : Executes s x e n) (hs : sem (enqEnv s e n) area.toNat addr.toNat (s.pcOn x n) = .error code) :
    (enqRow e sem area addr s).lane x = (s.lane x).prgFault (exeNo e) n code (s.ctxOf x n).pc := by
  rw [enqRow_lane s x e n sem area addr h]
  exact (enqEnv s e n).run_fault (s.lane x) sem _ _ code hs

end Sys2Proof.Machine
end

