-- ==== Sys2Proof/Laws/Writes.lean ====
section
/-! SUPPORT. What an accepted external write does (02_register_pages.md R47 to R51): it closes the page and runs the
operation of its register, or stores its fields. -/

namespace Sys2Proof.Machine

theorem toNat_base (b key : Nat) (h : b + key < 2 ^ 32) : (BitVec.ofNat 32 (b + key)).toNat - b = key := by
  rw [BitVec.toNat_ofNat, Nat.mod_eq_of_lt h, Nat.add_sub_cancel_left]

theorem addrKey_base (key : Nat) (h : key < 0x100000) : addrKey (.ofNat 32 (0x40000000 + key)) = key :=
  toNat_base 0x40000000 key (by omega)

/-- An accepted write of a block register, by address. -/
theorem Lane.writeReg_at (l : Lane) (h : Hub) (role : SessRole) (e : List Byte) (a w : Word)
    (ha : addrStatus a = 0) (h40 : 0x040 ≤ addrKey a % 0x1000)
    (hw : ((fieldsAt (addrKey a / 0x1000) (addrKey a % 0x1000)).any fun f => f.acc.writable) = true)
    (acc : Accepts l role (addrKey a) w) :
    l.writeReg h (.external role) e a w =
      match (l.closeLock (addrKey a / 0x1000)).writeOp h true e (addrKey a / 0x1000) (addrKey a % 0x1000) w with
      | some (m, 0) => (m, 0)
      | some (m, st) => (m.postStatus (pageCode (addrKey a / 0x1000) st), pageCode (addrKey a / 0x1000) st)
      | none => ((l.closeLock (addrKey a / 0x1000)).store (addrKey a / 0x1000) (addrKey a % 0x1000) w, 0) := by
  obtain ⟨h1, h2, h3, h4⟩ := acc
  have c1 : ¬(0xFF00 ≤ addrStatus a ∨ addrStatus a % 256 = 0x01) := by rw [ha]; decide
  have c2 : ¬addrStatus a ≠ 0 := by simp [ha]
  have c3 : ¬(addrKey a % 0x1000 < 0x040) := by omega
  have lk : ¬((l.opened.contains (addrKey a / 0x1000)) = false ∧
      ((fieldsAt (addrKey a / 0x1000) (addrKey a % 0x1000)).any fun f => f.acc == .rwl) = true) := by
    intro hh; have := h2 hh.2; simp [this] at hh
  unfold Lane.writeReg Lane.writeCore
  simp only [c1, c2, if_false, h1, Bool.not_true, Bool.false_eq_true]
  unfold Lane.commit
  simp only [c3, if_false, hw, h3, h4, Bool.not_true, Bool.false_eq_true, and_false, Bool.not_eq_true', lk,
    true_and, Bool.not_false]
  generalize (l.closeLock (addrKey a / 0x1000)).writeOp h true e (addrKey a / 0x1000) (addrKey a % 0x1000) w = r
  match r with
  | none => simp [Lane.postStatus]
  | some (m, 0) => simp [Lane.postStatus]
  | some (m, n + 1) => simp

/-- An accepted write at a byte offset. -/
theorem Lane.writeKey_at (l : Lane) (h : Hub) (role : SessRole) (e : List Byte) (key : Nat) (w : Word) (hk : key < 0x100000)
    (ha : addrStatus (.ofNat 32 (0x40000000 + key)) = 0) (h40 : 0x040 ≤ key % 0x1000)
    (hw : ((fieldsAt (key / 0x1000) (key % 0x1000)).any fun f => f.acc.writable) = true) (acc : Accepts l role key w) :
    l.writeKey h (.external role) e key w =
      match (l.closeLock (key / 0x1000)).writeOp h true e (key / 0x1000) (key % 0x1000) w with
      | some (m, 0) => (m, 0)
      | some (m, st) => (m.postStatus (pageCode (key / 0x1000) st), pageCode (key / 0x1000) st)
      | none => ((l.closeLock (key / 0x1000)).store (key / 0x1000) (key % 0x1000) w, 0) := by
  have k := addrKey_base key hk
  have := Lane.writeReg_at l h role e (.ofNat 32 (0x40000000 + key)) w ha (by rw [k]; exact h40) (by rw [k]; exact hw) (by rw [k]; exact acc)
  rw [k] at this
  exact this

theorem onLanes_only (f : Lane → Lane) (s : State) : LanesOnly s (onLanes f s) := rfl

/-- A row that writes one register gives what the write gives. -/
theorem regGives_onLanes (c : Instr) (s : State) (x : LaneId) (f : Lane → Lane) (l : Lane)
    (hc : exec c s = .next (onLanes f s)) (hr : (s.lane x).running = true) (hl : f (s.lane x) = l) : RegGives c s x l :=
  ⟨_, hc, by rw [onLanes_lane, runIf, if_pos hr, hl], onLanes_only f s⟩

/-- A row that writes one constant gives what the operation of its register answers. -/
theorem writeRow_gives (c : Origin → Instr) (key w : Nat) (s : State) (x : LaneId) (f : Lane → Lane)
    (hc : ∀ o, exec (c o) s = .next (writeRow o key w s)) (hk : key < 0x100000)
    (ha : addrStatus (.ofNat 32 (0x40000000 + key)) = 0) (h40 : 0x040 ≤ key % 0x1000)
    (hw : ((fieldsAt (key / 0x1000) (key % 0x1000)).any fun f => f.acc.writable) = true)
    (hop : ((s.lane x).closeLock (key / 0x1000)).writeOp s.hub true [] (key / 0x1000) (key % 0x1000) (.ofNat 32 w) =
      some (f ((s.lane x).closeLock (key / 0x1000)), 0)) : WriteGives c key (fun _ => .ofNat 32 w) s x f := by
  intro role hr acc
  refine regGives_onLanes _ s x (fun l => (l.writeKey s.hub (.external role) [] key (.ofNat 32 w)).1) _ (hc _) hr ?_
  rw [Lane.writeKey_at _ _ _ _ _ _ hk ha h40 hw acc, hop]
  rfl

/-- A row whose value keeps other fields of the register gives what the operation answers. -/
theorem writeRowOf_gives (c : Origin → Instr) (key : Nat) (w : Lane → Word) (s : State) (x : LaneId) (f : Lane → Lane)
    (hc : ∀ o, exec (c o) s = .next (writeRowOf o key w s)) (hk : key < 0x100000)
    (ha : addrStatus (.ofNat 32 (0x40000000 + key)) = 0) (h40 : 0x040 ≤ key % 0x1000)
    (hw : ((fieldsAt (key / 0x1000) (key % 0x1000)).any fun f => f.acc.writable) = true)
    (hop : ((s.lane x).closeLock (key / 0x1000)).writeOp s.hub true [] (key / 0x1000) (key % 0x1000) (w (s.lane x)) =
      some (f ((s.lane x).closeLock (key / 0x1000)), 0)) : WriteGives c key w s x f := by
  intro role hr acc
  refine regGives_onLanes _ s x (fun l => (l.writeKey s.hub (.external role) [] key (w l)).1) _ (hc _) hr ?_
  rw [Lane.writeKey_at _ _ _ _ _ _ hk ha h40 hw acc, hop]
  rfl

/-- A refusal by the operation posts its status. -/
theorem writeRow_posts (c : Origin → Instr) (key w st : Nat) (s : State) (x : LaneId) (f : Lane → Lane)
    (hc : ∀ o, exec (c o) s = .next (writeRow o key w s)) (hk : key < 0x100000)
    (ha : addrStatus (.ofNat 32 (0x40000000 + key)) = 0) (h40 : 0x040 ≤ key % 0x1000)
    (hw : ((fieldsAt (key / 0x1000) (key % 0x1000)).any fun f => f.acc.writable) = true)
    (hop : ((s.lane x).closeLock (key / 0x1000)).writeOp s.hub true [] (key / 0x1000) (key % 0x1000) (.ofNat 32 w) =
      some (f ((s.lane x).closeLock (key / 0x1000)), st + 1)) :
    WriteGives c key (fun _ => .ofNat 32 w) s x (fun l => (f l).postStatus (pageCode (key / 0x1000) (st + 1))) := by
  intro role hr acc
  refine regGives_onLanes _ s x (fun l => (l.writeKey s.hub (.external role) [] key (.ofNat 32 w)).1) _ (hc _) hr ?_
  rw [Lane.writeKey_at _ _ _ _ _ _ hk ha h40 hw acc, hop]
  rfl

theorem storeField_eq (l : Lane) (page off : Nat) (w : Word) (f : Fld) :
    storeField l page off w f = { l with regs := (storeField l page off w f).regs } := by
  unfold storeField
  split <;> rfl

/-- Storing changes nothing but the register file. -/
theorem Lane.store_eq (l : Lane) (page off : Nat) (w : Word) : l.store page off w = { l with regs := (l.store page off w).regs } := by
  unfold Lane.store
  generalize fieldsAt page off = fs
  suffices h : ∀ m : Lane, m = { l with regs := m.regs } →
      fs.foldl (fun (l : Lane) f => storeField l page off w f) m =
        { l with regs := (fs.foldl (fun (l : Lane) f => storeField l page off w f) m).regs } from h l rfl
  induction fs with
  | nil => exact fun m h => h
  | cons f fs ih =>
    intro m h
    refine ih _ ?_
    exact (storeField_eq m page off w f).trans (by rw [h])

end Sys2Proof.Machine
end

