-- ==== Sys2Proof/Tests/Slice0.lean ====
section
/-! SUPPORT. Tests. Ill-formed commands that the check refuses; for each statement of Certificates/Slice0 with
hypotheses, a state and operands that meet them, clause by clause; and single steps whose results are computed by hand
from the rules named. -/

open Sys2Proof Sys2Proof.Machine

section

/- Evaluations one after another, so that each one frees its memory. -/
set_option Elab.async false

/-! ### Commands the check refuses -/

def smokeMeas : SupplyMeas := State.reset.pwr.meas
def smokeReport : AssayReport := ⟨2, .a, 1, 0, 0, 5, 0, 0, 0⟩
def smokeWindow : MetWindow := ⟨0, true, 0, 0, [], none⟩

/-- A frame's inputs: eight analog values, 32 inputs, 16 counters and pulses, and arrivals of their sources. -/
theorem test_ill_inputs :
    ([Instr.frameStart { smokeMeas with ai := [] }, .diEdge 32 true 0, .pulseInputCount 16, .pulseEnd 16,
      .arrivalComplete 0x03 0 (.met smokeWindow), .arrivalComplete 0x03 0 (.lane (.salt [])), .arrivalComplete 0x04 0 (.lane (.salt [])),
      .arrivalComplete 0x04 0 (.lane (.tsalt [])), .arrivalComplete 0x04 0 (.lane (.page 0 0 0 [])),
      .arrivalComplete 0x04 0 (.lane (.assay { smokeReport with typ := 0 })), .arrivalComplete 0x14 0 (.port (.unit 0 [])),
      .arrivalComplete 0x10 0 (.port (.status (.eth 3))), .arrivalComplete 0x18 0 (.port (.status (.can 4 0 0 false false 0 0))),
      .arrivalComplete 0x20 0 (.port (.status (.mbus true false 65536))), .arrivalComplete 0x10 0 (.port (.outcome 1 0)),
      .arrivalComplete 0x10 0 (.port (.adu 1 4 [])), .arrivalComplete 0x13 0 (.port (.fabFrame 0 [])),
      .arrivalComplete 0x13 0 (.port (.fabStatus true true true true)), .arrivalComplete 0x13 0 (.port (.fabStamp 0 0))].all
        fun i => !i.wellFormed) = true := by decide

/-- Lanes, engines, clocks, reports and units. -/
theorem test_ill_blocks :
    ([Instr.telegramStationStale 2048, .queueStrandedTail 64, .adjacencyTimeout 4, .assayReport { smokeReport with unit := 256 },
      .clockFailure 20, .engineTrap .a 8 1 0, .engineTrap .a 0 0 0, .engineTrap .a 0 4 0, .watchdogExpiry .a 8,
      .asyKindBackground (.external .engineer) 256 1, .asyKindStartup (.external .engineer) 0 4, .asyKindInject (.external .engineer) 256 1,
      .calendarShadowFreeze 16, .calendarShadowRelease 16, .calendarShadowTimeout 16, .txTimestamp 4 0 0, .txTimestamp 0 256 0,
      .railFault 4, .backlightStringFault 4 true, .railWrite (.external .engineer) 4 0, .enqIllop .e4 0x01 0 0].all
        fun i => !i.wellFormed) = true := by decide

/-- Pages, sessions and transactions. -/
theorem test_ill_sessions :
    ([Instr.lockWrite (.external .engineer) 256 0, .ctrlSrst (.external .engineer) 256, .irqfForce (.external .engineer) 256 0,
      .errcRead 8 0, .errcRead 0 256, .writeTransaction 0 0 0 [] [], .writeTransaction 8 0 0 [⟨0, 0, none⟩] [],
      .readTransaction 0 0 [], .readTransaction 8 0 [0], .frameConsistentRead 0 0 [], .frameConsistentRead 8 0 [0],
      .subscribe 8 0, .keepalive 8, .sessionOpen 8 0 { role := .view }, .sessionOpen 0 5 { role := .view }, .sessionIdleTimeout 8,
      .sessionProtocolError 8, .sessionClose 8, .quenchImageWrite (.external .engineer) 9 0, .page 0 0 0 []].all
        fun i => !i.wellFormed) = true := by decide

/-- Ports and links. -/
theorem test_ill_ports :
    ([Instr.linkStateChange 4 ⟨true, true⟩ true, .fabricFrameReceive 4 0 [], .portRequestTimeout 0x0F 0, .portRequestTimeout 0x22 0,
      .portRequestTimeout 0x10 65536, .rs485AduEnd 4 0 [], .modbusConnect 65536 ⟨true, { role := .operate }⟩, .canBusOff 4, .canRecover (.external .engineer) 4,
      .canRecoveryComplete 4, .autobaudRateSwitch 4, .autobaudLock 4, .mbusOvercurrent 2 0, .mbusOvercurrent 0 65536, .mbusRepower 2,
      .mbusRestart (.external .engineer) 2, .ethernetFrameReceive 4 0 .arp, .ethernetLinkChange 4 0, .ethernetLinkChange 0 3,
      .sfpCageRetry 4, .canReceiveTimeout 4 0, .canReceiveTimeout 0 2048, .serverConnectionAccept 65535 2 0 true { role := .operate },
      .serverConnectionAccept 0 1 0 true { role := .operate }, .serverConnectionAccept 0 2 4 true { role := .operate }, .iec104TimerExpiry 0 0, .iec104TimerExpiry 0 4].all
        fun i => !i.wellFormed) = true := by decide

/-- Commands at the bounds of these checks. -/
theorem test_well_formed :
    ([Instr.diEdge 31 true 0, .pulseInputCount 15, .engineTrap .b 7 3 0, .errcRead 7 255, .sessionOpen 7 4 { role := .view },
      .iec104TimerExpiry 0 3, .enqIllop .e5 0xFF 0 0, .canReceiveTimeout 3 2047, .mbusOvercurrent 1 65535, .clockFailure 18].all
        fun i => i.wellFormed) = true := by decide

/-! ### States for the witnesses -/

/-- Pages whose CTRL.EN the tests set. -/
def onPages : List Nat := [0x08, 0x0A, 0x0B, 0x0C, 0x0D, 0x10, 0x11, 0x13, 0x18, 0x1A, 0x1B, 0x1C, 0x1D, 0x29, 0x2B, 0x2D, 0x30, 0x34, 0x38, 0x44, 0x48, 0x4C, 0x51]

/-- A lane that runs frames, in FIELD_DEBUG, its blocks enabled, every page open, its engines running. -/
def busyLane (x : LaneId) : Lane :=
  let l : Lane := { id := x, running := true, opened := List.range 256, sec := { lcState := 3 } }
  let l := onPages.foldl (fun (l : Lane) p => l.setReg (p * 0x1000 + 0x008) 1) l
  (List.range 8).foldl (fun (l : Lane) n => l.put (R.ENG.STATE.inst n) 1) (l.put R.TST.MODE 1)

/-- The module in the middle of a frame: lane A active, lane B standby, all domains on. -/
def busy : State :=
  { State.reset with
    laneA := busyLane .a, laneB := busyLane .b
    pwr := { State.reset.pwr with off := false, dom := 0x3FF, in1 := { good := true } }
    hub := { State.reset.hub with running := true, fno := 5000, upFrames := 4000000 }
    ts := { State.reset.ts with
      mode := .compared, roleA := .active, roleB := .standby
      verdict := { State.reset.ts.verdict with mode := .compared, roleA := .active, roleB := .standby } } }

/-- The same with changes to lane A. -/
def busyA (f : Lane → Lane) : State := { busy with laneA := f busy.laneA }
def busyHub (f : Hub → Hub) : State := { busy with hub := f busy.hub }

theorem busy_runs : (busy.lane .a).running = true := by decide

/-- `Accepts` as a check. -/
def accepts (l : Lane) (role : SessRole) (key : Nat) (w : Word) : Bool :=
  l.mayWrite role (key / 0x1000) (key % 0x1000) w
    && (!((fieldsAt (key / 0x1000) (key % 0x1000)).any fun f => f.acc == .rwl) || l.opened.contains (key / 0x1000))
    && !((fieldsAt (key / 0x1000) (key % 0x1000)).any fun f => f.acc.writable && !f.takes w)
    && !reservedSet (key / 0x1000) (key % 0x1000) w

theorem accepts_of (l : Lane) (role : SessRole) (key : Nat) (w : Word) (h : accepts l role key w = true) : Accepts l role key w := by
  simp only [accepts, Bool.and_eq_true, Bool.or_eq_true, Bool.not_eq_true', List.contains_iff_mem] at h
  obtain ⟨⟨⟨h1, h2⟩, h3⟩, h4⟩ := h
  refine ⟨h1, fun hr => ?_, h3, h4⟩
  rcases h2 with h2 | h2
  · rw [hr] at h2; cases h2
  · exact h2

/-! ### Witnesses: the block -/

theorem test_witness_step_keeps : { State.reset with pending := [Instr.bankFault] }.nv.wf = true ∧
    ∃ t, step { State.reset with pending := [Instr.bankFault] } = .next t := ⟨by decide, _, rfl⟩

/-- Both lanes have failed their boot: the boot ROM offers recovery. -/
def stranded : State :=
  { State.reset with
    pwr := { State.reset.pwr with off := false, dom := 0x3FF }
    laneA := State.reset.laneA.put R.LCS.BOOTERR 0x2C48
    laneB := State.reset.laneB.put R.LCS.BOOTERR 0x2C48
    startup := some { phase := 4 } }

theorem stranded_recovery : stranded.recovery = true := by decide +kernel

theorem sliceB_head (b : Byte) (bs : List Byte) (n : Nat) : ∃ r, sliceB (b :: bs) 0 (n + 1) = b :: r := ⟨_, rfl⟩

theorem exec_page_recovery (s : State) (x tag idx : Nat) (data : List Byte) (h : s.recovery = true) (hd : data.length = 2048)
    (hi : idx ≤ 229375) : exec (.page x tag idx data) s = .next { s with nv := s.nv.writeNand s.recoverySlot idx data } := by
  simp [exec, execPage, State.imagePage, State.recoveryPage, h, hd, hi]

theorem stranded_page (bs : List Byte) (hb : bs.length = 2047) :
    ∃ t, exec (.page 0 0 0 (0 :: bs)) stranded = .next t ∧ t.nv.nand ≠ stranded.nv.nand := by
  refine ⟨_, exec_page_recovery stranded 0 0 0 (0 :: bs) stranded_recovery (by simp [hb]) (by decide), fun h => ?_⟩
  obtain ⟨r, hr⟩ := sliceB_head 0 bs 2047
  have e : writeCells nandErased [] (nandAddr stranded.recoverySlot 0) (sliceB (0 :: bs) 0 2048) = [] := by
    have h0 : stranded.nv.nand = [] := rfl
    simpa only [NvStore.writeNand, h0, List.filter_nil, ite_self] using h
  have q := writeCells_read nandErased (sliceB (0 :: bs) 0 2048) [] (nandAddr stranded.recoverySlot 0) (nandAddr stranded.recoverySlot 0)
  rw [e, hr, if_pos ⟨Nat.le_refl _, by simp⟩] at q
  have hi : 96 ≤ nandAddr stranded.recoverySlot 0 := by decide +kernel
  simp [kvGetD, nandErased, Nat.not_lt.mpr hi] at q

theorem test_witness_store_changes :
    ∃ t, exec (.page 0 0 0 (0 :: List.replicate 2047 0x55)) stranded = .next t ∧ t.nv.nand ≠ stranded.nv.nand :=
  stranded_page (List.replicate 2047 0x55) List.length_replicate

theorem test_witness_queue_alone : ∃ t, exec (.clockFailure 3) busy = .next t := ⟨_, rfl⟩
theorem test_witness_event_over_clear : (31 : Nat) < 32 ∧ (255 : Nat) < 256 := by decide +kernel

/-! ### Witnesses: writes of registers

`acc` says that lane A of `busy` lets a session of the role write the word. -/

def acc (role : SessRole) (key : Nat) (w : Word) : Bool := accepts (busy.lane .a) role key w

theorem test_witness_plain_write : addrStatus 0x40018054 = 0 ∧ 0x040 ≤ addrKey 0x40018054 % 0x1000 ∧
    (((busy.lane .a).closeLock 0x18).writeOp busy.hub true [] 0x18 0x054 5).isNone = true ∧ acc .engineer (addrKey 0x40018054) 5 = true ∧
    ((fieldsAt 0x18 0x054).any fun f => f.acc.writable) = true := by decide +kernel

theorem test_witness_header : (pageRow 0x10).isSome = true ∧
    (let l := (busy.lane .a).closeLock 0x10
     l.mayWrite .engineer 0x10 0x020 (.ofNat 32 ((l.reg 0x10000).toNat % 65536)) = true ∧
     l.mayWrite .engineer 0x10 0x020 0 = true ∧ (0 : Nat) ≠ (l.reg 0x10000).toNat % 65536 ∧
     l.mayWrite .engineer 0x10 0x018 0xFFFFFFFF = true ∧ l.mayWrite .engineer 0x10 0x014 1 = true ∧
     l.mayWrite .operate 0x10 0x010 1 = true ∧ ((2 ^ 32 - 1 - reservedMask 0x10 0x010) ||| 1).testBit 0 = true ∧
     l.mayWrite .engineer 0x10 0x008 (if l.enabled 0x10 then 3 else 2) = true ∧ noSrst 0x10 = false ∧ (srstOnly 0x10).isNone = true ∧
     (pageRow 0x21).isSome = true ∧ (srstOnly 0x21).isSome = true ∧ l.mayWrite .engineer 0x21 0x008 (if l.enabled 0x21 then 3 else 2) = true ∧
     (pageRow 0x2C).isSome = true ∧ noSrst 0x2C = true ∧ l.mayWrite .engineer 0x2C 0x008 (if l.enabled 0x2C then 3 else 2) = true) := by
  decide +kernel

theorem test_witness_held_write : addrStatus 0x40001070 = 0 ∧ addrKey 0x40001070 = 0x01070 ∧
    ((fieldsAt 0x01 0x070).any fun f => f.acc == .rws) = true ∧
    ((fieldsAt 0x01 0x070).any fun f => f.acc.writable && !f.takes 500) = false ∧ reservedSet 0x01 0x070 500 = false := by decide +kernel

/-- VIEW may write nothing; LOCK of page PIO was not written. -/
theorem test_witness_refused : addrStatus 0x40024048 = 0 ∧ (busy.lane .a).mayWrite .view 0x24 0x048 0 = false ∧
    (busyA fun l => { l with opened := [] }).laneA.mayWrite .engineer 0x24 0x048 0 = true ∧
    ((fieldsAt 0x24 0x048).any fun f => f.acc == .rwl) = true ∧ 0x24 ∉ (busyA fun l => { l with opened := [] }).laneA.opened := by decide +kernel

theorem test_witness_restart : (busy.lane .a).restart = none ∧ (busy.lane .a).reduced = false ∧ acc .engineer 0x05040 1 = true ∧
    acc .engineer 0x05040 2 = true ∧ acc .engineer 0x00060 0 = true ∧ acc .engineer 0x24048 0xFFFF = true ∧
    acc .engineer 0x2405C 0 = true ∧ acc .engineer 0x24068 0 = true := by decide +kernel

theorem test_witness_swap : (busy.lane .a).on R.TST.SWAP = false ∧ (busy.lane .a).compared = true ∧ acc .engineer 0x0204C 1 = true ∧
    (busyA fun l => l.put R.TST.SWAP 1).laneA.on R.TST.SWAP = true ∧
    (busyA fun l => l.put R.TST.MODE 2).laneA.compared = false ∧
    acc .operate 0x13080 0x3F800000 = true := by decide +kernel

/-- A lane with one loop, with Burnish. -/
def burnLane (l : Lane) : Lane :=
  { l with loops := [(0, { burn := some {} })] }

theorem test_witness_burn : (busy.lane .a).enabled 0x1A = true ∧ (busy.lane .a).enabled 0x18 = true ∧
    (((busyA burnLane).laneA.loop ((busyA burnLane).laneA.get R.BURN.BSEL)).burn).isSome = true ∧
    accepts (busyA burnLane).laneA .engineer 0x1A074 3 = true := by decide +kernel

theorem test_witness_trace : (busy.lane .a).enabled 0x1B = true ∧ (busy.lane .a).enabled 0x18 = true ∧ (busy.lane .a).trcRecording = false ∧
    acc .operate 0x1B044 1 = true ∧ acc .operate 0x1B044 8 = true ∧
    (busyA fun l => l.put R.TRC.STATE 1).laneA.trcState = 1 ∧ (busyA fun l => l.put R.TRC.STATE 1).laneA.trcRecording = true ∧
    (busyA fun l => l.put R.TRC.STATE 5).laneA.trcState = 5 ∧
    ([1, 2, 4, 8].all fun w => accepts (busyA fun l => l.put R.TRC.STATE 1).laneA .operate 0x1B044 (.ofNat 32 w)) = true ∧
    accepts (busyA fun l => l.put R.TRC.STATE 5).laneA .operate 0x1B044 4 = true := by decide +kernel

def queueLane (l : Lane) : Lane := l.put R.QMG.QSEL 55
theorem test_witness_queues : (busyA queueLane).laneA.get R.QMG.QSEL = 55 ∧ (busyA queueLane).laneA.enabled 0x34 = true ∧
    accepts (busyA queueLane).laneA .engineer 0x34078 1 = true ∧ accepts (busyA queueLane).laneA .engineer 0x34078 2 = true ∧
    accepts (busyA queueLane).laneA .engineer 0x3404C 16384 = true ∧ ((busyA queueLane).laneA.queue 55).held = 0 ∧
    ((busyA queueLane).laneA.queue 55).items = [] ∧ accepts (busyA queueLane).laneA .engineer 0x3404C 0 = true ∧
    (((busyA queueLane).laneA.queues.drop 8).take 48).foldl (fun n u => n + u.cap) 0 - ((busyA queueLane).laneA.queue 55).cap + 16384
      ≤ 49152 := by decide +kernel

/-- A program is installed; its variables take eight bytes, its constants four. -/
def prgLane (m : PrgMode) (l : Lane) : Lane :=
  let l := (l.put R.PRG.PRESENT 1).put R.PRG.HOLDEN 1
  { l with prg := { l.prg with mode := m, e4 := { decl := { vsize := 8, ksize := 4, ncode := 16 } } } }

theorem test_witness_modes : (busyA (prgLane .stop)).laneA.enabled 0x1C = true ∧ (busyA (prgLane .stop)).laneA.on R.PRG.FAULT = false ∧
    (busyA (prgLane .stop)).laneA.on R.PRG.PRESENT = true ∧ accepts (busyA (prgLane .stop)).laneA .operate 0x1C044 1 = true ∧
    accepts (busyA (prgLane .hold)).laneA .operate 0x1C044 1 = true ∧ accepts (busyA (prgLane .run)).laneA .operate 0x1C044 2 = true ∧
    (busyA (prgLane .run)).laneA.on R.PRG.HOLDEN = true ∧ accepts (busyA (prgLane .run)).laneA .engineer 0x1C044 3 = true ∧
    accepts (busyA (prgLane .stop)).laneA .operate 0x1C048 1 = true := by decide +kernel

/-- VSEL selects a 32-bit variable at offset 4 of E4; with bit 24 a constant at offset 0. -/
def varLane (l : Lane) : Lane := (prgLane .stop l).setReg 0x1C09C 0x00800004
def constLane (l : Lane) : Lane := (prgLane .stop l).setReg 0x1C09C 0x01800000

theorem test_witness_variables : accepts (busyA varLane).laneA .engineer 0x1C0A0 0xFFFFFFFF = true ∧
    ((busyA varLane).laneA.reg 0x1C09C).toNat / 2 ^ 22 % 4 = 2 ∧ ((busyA varLane).laneA.reg 0x1C09C).toNat % 2 ^ 20 + 4 ≤
      ((busyA varLane).laneA.exe 4).decl.vsize ∧
    accepts (busyA constLane).laneA .engineer 0x1C0A0 7 = true ∧ 0 + 4 ≤ ((busyA constLane).laneA.exe 4).decl.ksize ∧
    (busyA constLane).laneA.retainLen + 12 ≤ 196608 := by decide +kernel

/-- The selected force is a word of the process image; entry 0 is free, or holds it. -/
def forceLane (l : Lane) : Lane := (l.put R.FRC.FKIND 2).put R.FRC.FADDR 0x800
def heldForce : Force := ⟨2, 0, 0x800, 5, 0⟩
def forcedLane (l : Lane) : Lane := { forceLane l with prg := { l.prg with forces := [(0, heldForce)] } }

theorem test_witness_forces : (busyA forceLane).laneA.enabled 0x1D = true ∧ (busyA forceLane).laneA.forcePermitted = true ∧
    (busyA forceLane).laneA.forceTargetOk heldForce = true ∧ accepts (busyA forceLane).laneA .engineer 0x1D054 1 = true ∧
    (busyA forceLane).laneA.prg.forces = [] ∧ (busyA forceLane).laneA.get R.FRC.FKIND = 2 ∧ (busyA forceLane).laneA.get R.FRC.FADDR = 0x800 ∧
    (∃ p ∈ (busyA forcedLane).laneA.prg.forces, p.1 = (busyA forcedLane).laneA.get R.FRC.FSEL) ∧
    (∀ p ∈ (busyA forcedLane).laneA.prg.forces, p.2.sameTarget heldForce = true) ∧
    accepts (busyA forcedLane).laneA .engineer 0x1D054 2 = true ∧ accepts (busyA forcedLane).laneA .engineer 0x1D054 3 = true := by decide +kernel

def sumLane (l : Lane) : Lane := { l with pat := { l.pat with parts := { size := 8 } :: l.pat.parts.tail } }

theorem test_witness_summary : bits (((busyA sumLane).laneA.reg 0x29054 &&& 0xE) ||| 1) 3 1 = 0 ∧
    (busyA sumLane).laneA.enabled 0x29 = true ∧ (busyA sumLane).laneA.lifeCycle ≠ 0 ∧ ((busyA sumLane).laneA.pat.part 0).size ≠ 0 ∧
    (busyA sumLane).laneA.pat.summary = none ∧
    accepts (busyA sumLane).laneA .operate 0x29054 (((busyA sumLane).laneA.reg 0x29054 &&& 0xE) ||| 1) = true := by decide +kernel

/-- 29 February 2024, a Thursday, 12:00:00 in BCD. -/
def setLane (l : Lane) : Lane := (l.setReg R.RTC.SETW0.key 0x12000000).setReg R.RTC.SETW1.key 0x240229

theorem test_witness_calendar : (busyA setLane).laneA.enabled 0x30 = true ∧ (busyA setLane).laneA.time.setReq = none ∧
    (setValue ((busyA setLane).laneA.getW R.RTC.SETW0) ((busyA setLane).laneA.getW R.RTC.SETW1)).isSome = true ∧
    accepts (busyA setLane).laneA .operate 0x30058 1 = true ∧ almCfgOk 0x23595900 = true ∧ acc .engineer 0x30068 0x23595900 = true ∧
    almDayOk false 0x1200 = true ∧ acc .engineer 0x3006C 0x1200 = true := by decide +kernel

def inState (n : Nat) (l : Lane) : Lane := { l with sec := { l.sec with lcState := n } }

theorem test_witness_life_cycle :
    (busyA (inState 0)).laneA.sec.ustate = .idle ∧ (busyA (inState 0)).laneA.sec.staging = none ∧ (busyA (inState 0)).laneA.sec.lcNext = none ∧
    accepts (busyA (inState 0)).laneA .security 0x2C048 1 = true ∧ accepts (busyA (inState 1)).laneA .view 0x2C048 2 = true ∧
    accepts (busyA (inState 2)).laneA .security 0x2C048 3 = true ∧ accepts (busyA (inState 3)).laneA .security 0x2C048 4 = true ∧
    accepts (busyA (inState 3)).laneA .security 0x2C048 5 = true ∧ accepts (busyA (inState 2)).laneA .security 0x2C048 2 = true ∧
    accepts (busyA (inState 2)).laneA .security 0x2C048 4 = true := by decide +kernel

/-- Slot 9 derives from slot 8; a key for slot 9 is staged, verified or not. -/
def keyLane (l : Lane) : Lane :=
  { l.put R.HMK.SSEL 9 with
    sec := { l.sec with
      slots := (l.sec.slots.set 8 { typ := 2, state := 1, key := [1] }).set 9 { typ := 2, state := 1, origin := 2, parent := 8 } } }
def stagedLane (l : Lane) : Lane :=
  { (keyLane l).put R.HMK.STG 2 with sec := { (keyLane l).sec with staging := some { slot := 9, key := { typ := 5, state := 1, kcv := 0 }, fno := 0 } } }

/-- An import of a public key needs no unwrapping: the generator of P-384 as the point for slot 9. -/
def pointBlob : List Byte := [5, 0, 0, 0, 9, 0] ++ List.replicate 10 0 ++ beBytes 48 Crypto.g384.1 ++ beBytes 48 Crypto.g384.2
def blobLane (l : Lane) : Lane :=
  (List.range 28).foldl (fun (l : Lane) i => l.put (R.HMK.BLOB.idx i) (u32At pointBlob (4 * i))) ((keyLane l).put R.HMK.BLEN 112)

theorem test_witness_keys :
    let n := (busyA keyLane).laneA.get R.HMK.SSEL
    let k := (busyA keyLane).laneA.slot n
    (busyA keyLane).laneA.sec.kcmds = [] ∧ n = 9 ∧ fixedSlot n = false ∧ (busyA keyLane).laneA.slotPend n = false ∧ k.state ≠ 0 ∧
    k.origin = 2 ∧ k.parent < 128 ∧ (busyA keyLane).laneA.slotState k.parent = 1 ∧
    ([1, 2, 4, 6].all fun c => accepts (busyA keyLane).laneA .security 0x2A060 (.ofNat 32 c)) = true := by decide +kernel

/-- The parent may be used to derive, is locked, or is empty. -/
def parentLane (p : KeySlot) (l : Lane) : Lane := { keyLane l with sec := { (keyLane l).sec with slots := (keyLane l).sec.slots.set 8 p } }

theorem test_witness_derive :
    let l (p : KeySlot) := (busyA (parentLane p)).laneA
    (l { typ := 2, state := 1, usage := 1, key := [1] }).slotState 8 = 1 ∧ ((l { typ := 2, state := 1, usage := 1, key := [1] }).slot 8).usage.getLsbD 0 = true ∧
    ((l { typ := 2, state := 1, key := [1] }).slot 8).usage.getLsbD 0 = false ∧ ((l { typ := 2, state := 1 }).slot 8).key = [] ∧
    (l {}).slotState 8 ≠ 1 ∧ (l {}).slotState 8 ≠ 4 ∧ (busyA fun l => l.put R.HMK.SSEL 5).laneA.get R.HMK.SSEL = 5 ∧
    accepts (l {}) .security 0x2A060 1 = true := by decide +kernel

/-- Slots that are fixed, orphaned by nothing, empty, or in flight. -/
def keySel (n : Nat) (l : Lane) : Lane := (keyLane l).put R.HMK.SSEL n
def flightLane (l : Lane) : Lane := { keyLane l with sec := { (keyLane l).sec with inflight := [(9, {})] } }

theorem test_witness_key_refusals :
    fixedSlot ((busyA (keySel 7)).laneA.get R.HMK.SSEL) = true ∧ (busyA (keySel 7)).laneA.sec.kcmds = [] ∧
    ((busyA (keySel 8)).laneA.slot ((busyA (keySel 8)).laneA.get R.HMK.SSEL)).state = 1 ∧
    ((busyA (keySel 8)).laneA.slot ((busyA (keySel 8)).laneA.get R.HMK.SSEL)).origin ≠ 2 ∧
    ((busyA (keySel 10)).laneA.slot ((busyA (keySel 10)).laneA.get R.HMK.SSEL)).state = 0 ∧ (busyA flightLane).laneA.slotPend 9 = true ∧
    (busyA keyLane).laneA.sec.staging = none ∧ ((busyA keyLane).laneA.unwrap 9 (busyA keyLane).laneA.blob).isNone = true ∧
    ([1, 2, 3, 4, 5].all fun c => accepts (busyA (keySel 7)).laneA .security 0x2A060 (.ofNat 32 c) &&
      accepts (busyA flightLane).laneA .security 0x2A060 (.ofNat 32 c)) = true := by decide +kernel

theorem test_witness_staging :
    (busyA stagedLane).laneA.sec.kcmds = [] ∧ (busyA stagedLane).laneA.sec.staging.isSome = true ∧
    (busyA fun l => (stagedLane l).put R.HMK.STG 1).laneA.get R.HMK.STG ≠ 2 ∧ (busyA stagedLane).laneA.get R.HMK.EKCV = 0 ∧ (busyA stagedLane).laneA.get R.HMK.STG = 2 ∧
    (busyA fun l => (stagedLane l).put R.HMK.EKCV 1).laneA.get R.HMK.EKCV ≠ 0 ∧
    ([4, 5].all fun c => accepts (busyA stagedLane).laneA .security 0x2A060 (.ofNat 32 c)) = true := by decide +kernel

theorem test_witness_unwrap : (busyA blobLane).laneA.sec.staging = none ∧
    ((busyA blobLane).laneA.unwrap 9 (busyA blobLane).laneA.blob).isSome = true ∧
    accepts (busyA blobLane).laneA .security 0x2A060 3 = true := by decide +kernel

def updLane (u : UState) (l : Lane) : Lane := { l with sec := { l.sec with ustate := u, npages := 3, nextpg := 3 } }

theorem test_witness_replacement : busy.recovery = false ∧ (busy.lane .a).enabled 0x2B = true ∧ acc .security 0x2B040 1 = true ∧
    (busy.lane .a).sec.ustate = .idle ∧ acc .engineer 0x2C0AC 1 = true ∧
    (busyA (updLane .staging)).laneA.compared = true ∧ (busyA (updLane .staging)).laneA.sec.npages ≠ 0 ∧
    (busyA (updLane .staging)).laneA.sec.nextpg = (busyA (updLane .staging)).laneA.sec.npages ∧
    ([1, 2, 4].all fun c => accepts (busyA (updLane .staging)).laneA .engineer 0x2C0AC (.ofNat 32 c)) = true ∧
    (busyA (updLane .verified)).laneA.compared = true ∧ accepts (busyA (updLane .verified)).laneA .engineer 0x2C0AC 3 = true := by
  decide +kernel

def asyLane (l : Lane) : Lane := l.put R.TST.ROLEA 2
theorem test_witness_assay : (busyA asyLane).laneA.enabled 0x2D = true ∧ (busyA asyLane).laneA.asy.cmd = none ∧ unitOk 0x10 = true ∧
    (busyA asyLane).laneA.mode ≠ 5 ∧ (busyA asyLane).laneA.get R.TST.ROLEA = 2 ∧ (busyA asyLane).laneA.compared = true ∧
    unitBytes 0x10 ≠ 0 ∧ (busyA asyLane).laneA.get R.ASY.INJADDR < unitBytes 0x10 ∧ (busyA asyLane).laneA.get R.ASY.INJADDR % 8 = 0 ∧
    accepts (busyA asyLane).laneA .engineer 0x2D044 (.ofNat 32 (1 + 1 * 16 + 0x10 * 256)) = true ∧
    accepts (busyA asyLane).laneA .engineer 0x2D044 (.ofNat 32 (2 + 1 * 16)) = true ∧
    accepts (busyA asyLane).laneA .engineer 0x2D044 (.ofNat 32 (3 + 1 * 16 + 0x10 * 256)) = true := by decide +kernel

theorem test_witness_panel_writes : (busyA fun l => l.put (R.CAN.STATE.inst 0) 2).laneA.get (R.CAN.STATE.inst 0) = 2 ∧
    (busy.lane .a).enabled 0x44 = true ∧ acc .engineer 0x44040 (((busy.lane .a).reg 0x44040 &&& 0xF) ||| 0x10) = true ∧
    (busyA fun l => l.put (R.MB.BUSON.inst 0) 0).laneA.on (R.MB.BUSON.inst 0) = false ∧ (busy.lane .a).enabled 0x4C = true ∧
    acc .engineer 0x4C054 1 = true ∧ (busy.lane .a).enabled 0x51 = true ∧ acc .engineer 0x51060 1 = true ∧ acc .engineer 0x51060 2 = true ∧
    busy.hub.disp.lockout = false ∧ (busyHub fun h => { h with disp := { h.disp with lockout := true } }).hub.disp.lockout = true ∧
    acc .engineer 0x5105C 1023 = true ∧ busy.hub.disp.on = false ∧
    acc .engineer 0x51044 (withBits ((busy.lane .a).reg 0x51044) 15 0 500) = true ∧
    acc .engineer 0x51048 (withBits ((busy.lane .a).reg 0x51048) 31 16 200) = true := by decide +kernel

/-! ### Witnesses: sessions -/

def engineerCert : ClientCert := { role := .engineer, ownerSigned := true }
def withSession (role : SessRole) (opened : List Nat) : State :=
  busyHub fun h => { h with ports := { h.ports with sessions := [{ ident := 3, port := 4, role, lastAt := 0, open_ := opened }] } }

theorem test_witness_session_open : busy.server = some busy.laneA ∧ busy.hub.session 3 = none ∧
    busy.laneA.linkPort busy.hub 4 = true ∧ tlsOk engineerCert.offer = true ∧ tlsOk { engineerCert.offer with psk := true } = false ∧
    busy.laneA.ownerCert engineerCert = true ∧ busy.laneA.lifeCycle = 3 ∧
    busy.laneA.ownerCert { engineerCert with present := false } = false := by decide +kernel

theorem test_witness_session_end : ((withSession .engineer []).hub.session 3).any (fun t => decide (t.lastAt + 60000 ≤ (withSession .engineer []).hub.upFrames)) = true ∧
    ((busyHub fun h => { h with upFrames := 59999, ports := { h.ports with sessions := [{ ident := 3, port := 4, role := .view }] } }).hub.session 3).any
      (fun t => decide (59999 < t.lastAt + 60000)) = true := by decide +kernel

def oneEntry : List WriteEntry := [⟨0x40018054, 5, none⟩]
/-- The source 0x04 backlog without room for one entry. -/
def fullBacklog : State := { withSession .engineer [] with hub := { (withSession .engineer []).hub with
  waiting := [{ src := 4, seq := 0, len := 4 * srcQuota 4 - 12, tcmp := 0, body := .lane (.salt []) }] } }

theorem test_witness_transactions : (withSession .engineer []).server = some (withSession .engineer []).laneA ∧
    (((withSession .engineer []).hub.session 3).map fun t => t.open_.length) = some 0 ∧
    ((withSession .engineer []).hub.heard 3).room04 (writeLen oneEntry) = true ∧ (fullBacklog.hub.heard 3).room04 (writeLen oneEntry) = false ∧
    (((withSession .engineer [1, 2, 3, 4]).hub.session 3).map fun t => t.open_.length) = some 4 ∧
    (busy.lane .a).readStatus 0x40018054 = 0 ∧ (busy.lane .a).readStatus 0x40018FFC ≠ 0 ∧ addrKey 0x40018054 % 0x1000 ≠ 0x01C ∧ addrKey 0x40018054 / 0x1000 ≠ 0x30 := by decide +kernel

def errcState (role : SessRole) : State :=
  { withSession role [] with laneA := (withSession role []).laneA.setReg 0x2401C 0x2409 }

theorem test_witness_errc : (busy.lane .a).readStatus 0x4002401C = 0 ∧
    errcShown ((withSession .engineer []).lane .a) (withSession .engineer []).hub.ports.rcPend 0x4002401C = 0 ∧
    errcShown ((errcState .engineer).lane .a) (errcState .engineer).hub.ports.rcPend 0x4002401C ≠ 0 ∧
    ((errcState .engineer).hub.heard 3).room04 8 = true ∧ (((errcState .view).hub.session 3).map fun t => t.role) = some .view := by decide +kernel

theorem test_witness_pages : stranded.recovery = true ∧ (List.replicate 2048 (0 : Byte)).length = 2048 ∧ (229375 : Nat) ≤ 229375 ∧
    (withSession .engineer []).recovery = false ∧ ((withSession .engineer []).hub.heard 3).room04 2052 = true ∧
    (withSession .operate []).laneA.lifeCycle ≠ 0 := ⟨stranded_recovery, List.length_replicate, by decide, by decide +kernel, by decide +kernel, by decide +kernel⟩

theorem test_witness_debug : (busy.lane .a).lifeCycle = 3 ∧ (busy.lane .a).running = true ∧ busy.hub.ports.sessions = [] ∧
    ((withSession .engineer []).hub.ports.sessions.map fun t => t.port) = [4] ∧ (917504 * 4096 : Nat) ≤ 0xFFFFFFFF ∧
    (busy.lane .a).get (R.ENG.STATE.inst 7) = 1 := by decide +kernel

/-! ### Witnesses: supplies, domains, clocks, the backup domain -/

def withPwr (f : Power → Power) : State := { busy with pwr := f busy.pwr }

theorem test_witness_inputs : (busy.pwr.input .in1).fault = false ∧ busy.pwr.off = false ∧
    ((withPwr fun p => { p with in1 := { fault := true } }).pwr.input .in1).latched = false ∧
    ((withPwr fun p => { p with in2 := { latched := true } }).pwr.input .in2).latched = true ∧
    (withPwr fun p => { p with boost := true }).pwr.boost = true := by decide +kernel

theorem test_witness_domains : busy.pwr.off = false ∧ ([0, 2, 3, 4, 5, 6, 8].all fun n => busy.pwr.isOn n) = true ∧
    (withPwr fun p => { p with dom := 0x3BF, fault := 0x040 }).pwr.isOn 6 = false ∧
    (withPwr fun p => { p with dom := 0x3BF, fault := 0x040 }).pwr.fault.getLsbD 6 = true ∧
    ((withPwr fun p => { p with dom := 0x3BF, fault := 0x040 }).pwr.metRepower.filter fun n => decide (busy.hub.upFrames < n + 3600000)).length < 3 ∧
    (withPwr fun p => { p with dom := 0x2FF, fault := 0x100 }).pwr.isOn 8 = false ∧
    (withPwr fun p => { p with dom := 0x2FF, fault := 0x100 }).pwr.fault.getLsbD 8 = true ∧
    (withPwr fun p => { p with dom := 0x2FF, fault := 0x100 }).nvUnavail = false ∧
    (busyA fun l => l.put R.NVS.UNAVAIL 1).nvUnavail = true ∧
    busy.hub.applied = false ∧ ({ busy.nv with seq := [(7, [], [])] } : NvStore).seq ≠ [] ∧
    (clkMonitored busy.pwr.dom.toNat busy.hub.linkUp).getLsbD 15 = true ∧ busy.pwr.clkFail.getLsbD 15 = false ∧
    (withPwr fun p => { p with clkFail := 0x40000 }).pwr.clkFail.getLsbD 18 = true := by decide +kernel

theorem test_witness_power_return : State.reset.pwr.off = true ∧ busy.pwr.off = false ∧ busy.pwr.in1.good = true ∧
    { busy with cal := { busy.cal with onCell := false } }.cal.onCell = false ∧
    { busy with cal := { busy.cal with halt := some 0 } }.cal.halt = some 0 := by decide +kernel

/-! ### Witnesses: the frame -/

def arrivalOf (src : Nat) (t : Int) : Arrival := { src, seq := 0, len := 4, tcmp := t, body := .lane (.salt []) }

theorem test_witness_arrivals : [arrivalOf 3 0, arrivalOf 2 5, arrivalOf 4 5].Pairwise fun x y => x.tcmp < y.tcmp ∨ (x.tcmp = y.tcmp ∧ x.src ≤ y.src) := by
  decide +kernel

theorem test_witness_edges : [({ din := 3, level := true, ns := 0 } : DiEdge), { din := 3, level := false, ns := 4 }, { din := 31, level := true, ns := 4 }].Pairwise
    fun a b => a.ns < b.ns ∨ (a.ns = b.ns ∧ a.din ≤ b.din) := by decide +kernel

theorem test_witness_digital : busy.hub.running = true ∧ busy.hub.edges.length < 105 ∧
    105 ≤ (busyHub fun h => { h with edges := List.replicate 105 { din := 0, level := true, ns := 0 } }).hub.edges.length ∧
    smokeReport.typ ≠ 1 ∧ busy.hub.closed = none ∧ busy.hub.waiting = [] ∧ busy.activeId.isSome = true ∧ busy.ts.lost = false ∧ busy.pwr.isOn 6 = true ∧
    sizeOfSrc 3 busy.hub.waiting + (12 + (5 + 3) / 4 * 4) ≤ 4 * srcQuota 3 := by decide +kernel

theorem test_witness_frame_start : busy.pwr.off = false ∧ busy.hub.running = true ∧ busy.restartAsked = none ∧ busy.startup = none ∧
    busy.hub.closed = none ∧ busy.hub.applied = false ∧ (busyHub fun h => { h with applied := true }).hub.applied = true := by decide +kernel

def coldStart : State := { State.reset with pwr := { State.reset.pwr with off := false, dom := 1 }, startup := some { phase := 1 } }
theorem test_witness_first_frame : coldStart.pwr.off = false ∧ coldStart.hub.running = false ∧ coldStart.restartAsked = none ∧
    (coldStart.startup.map fun u => (u.phase, u.stopped, u.k0)) = some (1, false, none) ∧ coldStart.pwr.isOn 1 = false ∧
    (coldStart.startup.map fun u => decide (u.waited < 20)) = some true ∧ coldStart.cal.locked = true ∧
    { coldStart with cal := { coldStart.cal with locked := false } }.cal.locked = false ∧ State.reset.pwr.off = true := by decide +kernel

def inFrame : InputFrame :=
  { trailer := { fno := 5000, acnt := 0, nt := 0, sync := .free, calq := false, cal := 0, flen := 1000000 }, arrivals := [] }
def closedState : State := busyHub fun h => { h with
  closed := some inFrame, verdict := { h.verdict with roleA := .active, roleB := .standby, mode := .compared } }
def given : FrameGiven := { frame := inFrame, nv := closedState.nv, hub := closedState.hub, ts := closedState.ts, cal := closedState.cal, declared := closedState.pwr.clkFail }

theorem test_witness_input_instant : closedState.hub.closed = some inFrame ∧ closedState.startup = none ∧ closedState.hub.applied = false ∧
    inFrame.trailer.fno = closedState.hub.fno ∧ closedState.laneA.ranFrame = false ∧ closedState.laneB.ranFrame = false ∧
    closedState.ts.transfer = none ∧ (inFrame.analog.map (·.v)).isNone = true ∧ closedState.hub.verdict.roleA = closedState.ts.roleA ∧
    closedState.hub.verdict.roleB = closedState.ts.roleB ∧ closedState.hub.verdict.mode = closedState.ts.mode ∧
    (closedState.lane .a).running = true ∧
    ((((closedState.lane .a).step1 given).1.step2 given).running && !(((closedState.lane .a).step1 given).1.step2 given).inloss) = true := by
  decide +kernel

def ranLane (l : Lane) : Lane := { l with ranFrame := true }
theorem test_witness_deliveries : busy.mayDeliver .a = false ∧ (busyA ranLane).mayDeliver .a = true ∧ (busyA ranLane).laneA.inloss = false ∧
    (busyA ranLane).ts.transfer = none ∧ (busyA fun l => { ranLane l with inloss := true }).mayDeliver .a = true ∧
    (busyA ranLane).laneA.loopsLate = false ∧ (busyA fun l => { ranLane l with loopsLate := true }).mayDeliver .a = true := by decide +kernel

/-! Verdicts: what the two lanes delivered in frame 5 000. -/

def plantFrame (d : BitVec 16) : OutFrame := { fno := 5000, fp := 1, entries := [{ cls := 1, dest := 0, body := .plant d (List.replicate 8 4000) }] }
def beat (flt : Bool) : Heartbeat := { fno := 5000, laneflt := flt }
def judged (a b : OutFrame) (fa fb : Bool) : State :=
  { busy with laneA := { busy.laneA with delivered := some a, hb := some (beat fa) }, laneB := { busy.laneB with delivered := some b, hb := some (beat fb) } }

theorem test_witness_verdicts :
    let s := judged (plantFrame 1) (plantFrame 1) false false
    s.hub.running = true ∧ s.startup = none ∧ s.ts.verdict.vfno ≠ s.hub.fno ∧ s.ts.lost = false ∧ s.pwr.isOn 1 = true ∧
    s.ts.verdict.roleA = .active ∧ s.ts.verdict.roleB = .standby ∧ s.ts.res = none ∧ s.ts.transfer = none ∧ s.ts.swap = false ∧
    (s.lane .a).asy.kind2 = none ∧ s.ts.pathDue s.hub.fno = false ∧ s.ts.held < 3 ∧ (s.facts .a).clean = true ∧ (s.facts .b).clean = true ∧
    (s.facts .a).frame.isSome = true ∧ (s.facts .b).frame.isSome = true ∧ (plantFrame 1).same (plantFrame 1) = true ∧
    ((judged (plantFrame 1) (plantFrame 2) false false).facts .a).clean = true ∧ (plantFrame 1).same (plantFrame 2) = false ∧
    (plantFrame 2).same (plantFrame 1) = false ∧
    ((judged (plantFrame 1) (plantFrame 1) false true).facts .b).clean = false ∧ ((judged (plantFrame 1) (plantFrame 1) true true).facts .a).clean = false ∧
    s.laneA.restart = none ∧ s.laneB.restart = none := by decide +kernel

def lostState (q : Bool) : State :=
  let s := judged (plantFrame 1) (plantFrame 1) false false
  { s with ts := { s.ts with lost := true, latched := some .a, latchQuench := q } }
theorem test_witness_touchstone_lost : (lostState false).ts.lost = true ∧ (lostState false).ts.latched = some .a ∧ (lostState false).ts.latchQuench = false ∧
    ((lostState false).facts .a).clean = true ∧ ((lostState false).facts .a).frame.isSome = true ∧ (lostState true).ts.latchQuench = true ∧
    (∃ t, exec .compare (lostState false) = .next t) := ⟨by decide, by decide, by decide, by decide +kernel, by decide +kernel, by decide, _, rfl⟩

def decided (o : Owner) : State :=
  let s := judged (plantFrame 1) (plantFrame 1) false false
  { s with ts := { s.ts with verdict := { s.ts.verdict with vfno := 5000, owner := o } }
           hub := { s.hub with outs := { s.hub.outs with qvalid := true, pulses := s.hub.outs.pulses.set 15 1 } } }
/-- The owner's frame is that of no configuration, and a new quench image has been loaded. -/
def unconfigured (o : Owner) : State :=
  { decided o with laneA := { (decided o).laneA with delivered := some { fno := 5000, fp := 0, entries := [] } }
                   hub := { (decided o).hub with outs := { (decided o).hub.outs with qnext := some (1, []) } } }
theorem test_witness_apply : (decided .laneA).hub.running = true ∧ (decided .laneA).hub.applied = false ∧ (decided .laneA).startup = none ∧
    (decided .laneA).ts.verdict.vfno = (decided .laneA).hub.fno ∧ (decided .laneA).pwr.shutdown = none ∧ (decided .laneA).ts.verdict.owner = ownerOf .a ∧
    (decided .laneA).laneA.delivered = some (plantFrame 1) ∧
    (plantFrame 1).entries = [] ++ ({ cls := 1, dest := 0, body := .plant 1 (List.replicate 8 4000) } : OutEntry) :: [] ∧
    (decided .laneA).nvReady = true ∧ (decided .held).ts.verdict.owner = .held ∧ (decided .quench).ts.verdict.owner = .quench ∧
    (decided .quench).hub.outs.qvalid = true ∧ (decided .quench).hub.outs.qnext = none ∧ (busy.hub.outs.qvalid, busy.hub.outs.qnext) = (false, none) ∧
    (plantFrame 1).fp ≠ 0 ∧ (unconfigured .laneA).laneA.delivered = some { fno := 5000, fp := 0, entries := [] } ∧
    (unconfigured .laneA).ts.verdict.owner = ownerOf .a ∧ (unconfigured .laneA).hub.outs.qnext = some (1, []) ∧ (decided .laneA).hub.outs.pulses.getD 15 0 = 1 ∧
    (busyHub fun h => { h with applied := true }).hub.applied = true := by decide +kernel

def withTransfer (r : Transfer) : State := { busy with ts := { busy.ts with transfer := some r } }
theorem test_witness_transfers :
    (smokeReport.typ = 2 ∧ smokeReport.bit < 128 ∧ smokeReport.addr < 2 ^ 32 ∧ smokeReport.unit < 256 ∧ busy.ts.lost = false ∧ busy.ts.transfer = none) ∧
    (let s := { busyA (updLane .verifying) with laneB := updLane .verifying busy.laneB }
     s.laneA.sec.ustate = .verifying ∧ s.laneB.sec.ustate = .verifying ∧ s.laneA.running = true ∧ s.laneB.running = true ∧
       s.activeId.isSome = true ∧ s.hub.running = true ∧ s.ts.role .a ≠ .standby ∧ s.ts.role .b = .standby) ∧
    { smokeReport with typ := 1 }.typ = 1 ∧ (busy.lane smokeReport.lane).running = true ∧
    (withTransfer { receiver := .b, phase := 2, passes := 16 }).ts.transfer = some { receiver := .b, phase := 2, passes := 16 } ∧
    (withTransfer { receiver := .b, phase := 3 }).ts.transfer = some { receiver := .b, phase := 3 } ∧
    (0 : Nat) + 10000 ≤ (withTransfer { receiver := .b, phase := 3 } |>.hub.fno) + 5000 ∧
    (busy.lane .a).get (R.ENG.STATE.inst 7) = 1 := by decide +kernel

/-- A transfer that began in frame 5 000 and has run for 10 s; lane B has been OFF for ten frames. -/
def lateTransfer : State := { withTransfer { receiver := .b, phase := 1, started := 5000 } with hub := { busy.hub with fno := 15000 } }
def laneBOff : State :=
  { busy with ts := { busy.ts with rstOffB := some 10, roleB := .off }, pwr := { busy.pwr with dom := 0x3F7 } }
theorem test_witness_lane_repower : (lateTransfer.ts.transfer.map fun r => decide (r.started + 10000 ≤ lateTransfer.hub.fno)) = some true ∧
    laneBOff.ts.rstOff .b = some 10 ∧ laneBOff.pwr.isOn (laneDom .b) = false ∧ laneBOff.ts.role .b = .off ∧ laneBOff.ts.lost = false := by decide +kernel

/-! Start-up. -/

def inPhase (n : Nat) : State :=
  { coldStart with
    startup := some { phase := n }, hub := { coldStart.hub with running := true, fno := 300 }
    laneA := { coldStart.laneA with phase := n }, laneB := { coldStart.laneB with phase := n } }
def bothReady : State :=
  { inPhase 6 with startup := some { phase := 6, readyA := some 4000, readyB := some 4200 }
                   laneA := { coldStart.laneA with phase := 7 }, laneB := { coldStart.laneB with phase := 7 } }
def oneReady (now : Nat) : State := { inPhase 6 with startup := some { phase := 6, readyA := some 4000 }, hub := { busy.hub with fno := now } }

theorem test_witness_startup : (inPhase 1).startup = some { phase := 1 } ∧ (inPhase 1).hub.running = true ∧ ({ phase := 1, trig := 7 } : Startup).stopped = false ∧ bothReady.ts.lost = false ∧ (inPhase 2).startup = some { phase := 2 } ∧
    (inPhase 3).laneA.phase = 3 ∧ (0x2C48 : BitVec 16).toNat < 2 ^ R.LCS.BOOTERR.width ∧
    (bothReady.startup.map fun u => (u.stopped, u.k0, u.phase, u.readyA, u.readyB)) = some (false, none, 6, some 4000, some 4200) ∧
    bothReady.starters ≠ [] ∧ ((oneReady 14000).startup.map fun u => (u.readyA, u.readyB, u.failB)) = some (some 4000, none, none) ∧
    4000 + 10000 ≤ (oneReady 14000).hub.fno ∧ (oneReady 13999).hub.fno < 4000 + 10000 := by decide +kernel

/-! ### Witnesses: computations and waits -/

def noWork : SolWork := ⟨[], [], [], [], [], [], [], [], [], [], [], [], [], [], []⟩
def someJob : SolveJob := { n := 7, fno := 2000, cfg := ⟨1, 0, 1, 8, 0, 0, 0, 0, 0, 0, 0, 0, 0⟩, base := none, cold := true, wsmis := false, work := noWork }
def noDispatch : DispJob :=
  { n := 3, fno := 0, prog := ⟨0, 0, 0, [], [], [], [], [], []⟩, start := ⟨[], [], [], []⟩, cold := true, wsmis := false, nostate := false
    widen := false, capclip := false, ofp := 0, sfp := 0, cscale := 0, step := 900, np := 0, ns := 0, nk := 0, ptol := 0, dtol := 0, gtol := 0, slktol := 0 }
def solving (l : Lane) : Lane := { l with slv := { l.slv with model := some {}, job := some someJob }, opt := { l.opt with job := some noDispatch } }

theorem test_witness_computations : (busyA solving).computes .a = true ∧ ((busyA solving).lane .a).slv.model = some {} ∧
    ((busyA solving).lane .a).slv.job = some someJob ∧ ((busyA solving).lane .a).slv.ready = none ∧
    ((busyA solving).lane .a).opt.job = some noDispatch ∧ ((busyA solving).lane .a).opt.ready = none ∧
    { busy with pwr := { busy.pwr with dom := 0x3EF } }.computes .a = false := by decide +kernel

/-- A member of a solve domain of one module: epoch 7 with an exchange sent to module 2 in frame 100. -/
def sentJob : SolveJob := { someJob with iter := 1, sent := [(2, 100, ⟨7, 1, true, false, 0, []⟩)] }
def memberLane (j : SolveJob) (l : Lane) : Lane :=
  let l := (l.put R.NET.DOMAIN 1).put R.FRAME.FNO_L 5000
  { l with slv := { l.slv with model := some { part := [⟨0, 1, 0⟩] }, epochs := [j] } }

theorem test_witness_epochs :
    let l := memberLane sentJob busy.laneA
    l.epochOf 7 = some sentJob ∧ l.inDomain = true ∧ sentJob.voted = none ∧ sentJob.got 2 2 = none ∧
    100 + (2 * l.get R.FAB.LATENCY + 2) ≤ l.fno ∧ l.stopFrame sentJob ≤ l.fno ∧
    l.isCoordinator { part := [⟨0, 1, 0⟩] } = true ∧ 7 ∉ l.slv.decided ∧
    ({ l with slv := { l.slv with votes := [⟨0, 7, none, 0, 0, 1⟩] } } : Lane).verdictOf { part := [⟨0, 1, 0⟩] } sentJob = some true ∧
    (memberLane { sentJob with voted := some (4000, 3) } busy.laneA).epochOf 7 = some { sentJob with voted := some (4000, 3) } := by decide +kernel

def telegramStation : Station :=
  { stn := 2047, src := 0x10, proto := 4, addr := 0, unit := 0, subst := 0, wordmode := 0, tls := false, secondary := false, inbase := 0, incnt := 0
    outbase := 0, outcnt := 0, rreg := 0, wreg := 0, canid := 0, rfc := 0, retry := 0, period := 0, phase := 0, tout := 4000, good := true, lastAt := some 999 }
def tailQueue : Queue := { items := [{ prio := 0, words := [1], idle := 10 }], rto := 10, wOpen := true }
def waitLane (l : Lane) : Lane :=
  let l := (l.put R.FRAME.FNO_L 5000).put R.FRC.FTO 1
  { l with
    heat := { l.heat with sinceRtd := 300, hpCfg := l.heat.hpCfg.set 15 { on := true } }
    ports := { l.ports with stations := [telegramStation] }
    queues := l.queues.set 55 tailQueue
    prg := { l.prg with mode := .hold, heldFor := 100000000 } }

theorem test_witness_waits :
    let l := waitLane busy.laneA
    300 ≤ l.heat.sinceRtd ∧ (15 : Nat) < l.heat.hps.length ∧ (l.heat.hpCfg.getD 15 {}).on = true ∧ busy.laneA.heat.sinceRtd < 300 ∧
    l.station 2047 = some telegramStation ∧ 999 + telegramStation.tout < l.fno ∧
    (∃ i ∈ (l.queue 55).items, i.isOpen = true ∧ (l.queue 55).rto ≤ i.idle) ∧ (55 : Nat) < l.queues.length ∧
    l.prg.mode = .hold ∧ l.get R.PRG.HOLDTO * 1000 ≤ l.prg.heldFor ∧ 0 < l.get R.FRC.FTO := by decide +kernel

def oldForce : Force := ⟨2, 0, 0x800, 5, 0⟩
def lateLane (l : Lane) : Lane :=
  let l := (l.put R.FRAME.FNO_L 1000000).put R.FRC.FTO 1
  { l with
    prg := { l.prg with forces := [(0, oldForce)] }
    pat := { l.pat with summary := some { part := 0, reqFno := 0, stamp := [], count := 0 } }
    fab := { l.fab with links := l.fab.links.set 3 { adj := true, helloAt := some 999600 } } }

theorem test_witness_late :
    let l := lateLane busy.laneA
    0 < l.get R.FRC.FTO ∧ (∃ p ∈ l.prg.forces, p.2.fno + l.get R.FRC.FTO * 60000 ≤ l.fno) ∧ l.pat.summary.isSome = true ∧
    (l.pat.summary.all fun q => decide (q.count ≤ q.taken)) = true ∧ l.engineRuns 0 = true ∧ (l.link 3).adj = true ∧
    (3 : Nat) < l.fab.links.length ∧ (l.link 3).helloAt = some 999600 ∧ 999600 + 400 ≤ l.fno ∧
    (stagedLane l).sec.staging.isSome = true ∧ (stagedLane l).fno = 1000000 ∧ 0 + 600000 ≤ (stagedLane l).fno ∧
    (updLane .verifying l).sec.ustate = .verifying ∧ (updLane .verifying l).sec.since + 60000 ≤ (updLane .verifying l).fno ∧
    (updLane .promoting l).sec.since + 1000 ≤ (updLane .promoting l).fno ∧ (updLane .promoting l).restart = none := by decide +kernel

/-! ### Witnesses: time -/

def ptpState (st : PortState) (pend : List (Nat × Nat × Nat × Dword)) : State :=
  let s := busyA fun l => { l.put R.PTP.PROFILE 1 with ptp := { l.ptp with state := st, pending := pend, best := some (9, []) }, time := { l.time with shadows := [⟨7, 0, 0, 1000⟩] } }
  { s with hub := { s.hub with ports := { s.hub.ports with ethLink := [2, 0, 0, 0] } } }

/-- Sync 7 of module 9 on port 0 over UDP: Follow_Up brings its time. -/
def twoStepSync : PtpMsg := { port := 0, l2 := false, domain := 0, sender := 9, enters := 0, body := .sync 7 true 0 0 }

theorem test_witness_ptp : (ptpState .master []).ptpLane = some (ptpState .master []).laneA ∧ (ptpState .master []).laneA.ptp.state = .master ∧
    (ptpState .slave []).ptpLane.isSome = true ∧ (ptpState .slave []).laneA.ptp.state ≠ .master ∧
    (ptpState .slave []).server = some (ptpState .slave []).laneA ∧ (ptpState .slave []).laneA.engineRuns 2 = true ∧
    (ptpState .slave []).laneA.tsq = [] ∧ (ptpState .slave [(255, 0, 9, 0)]).laneA.ptp.pending = [(255, 0, 9, 0)] ∧
    (ptpState .slave []).laneA.ptpTakes twoStepSync = true ∧ (ptpState .slave []).laneA.ptp.best = some (twoStepSync.sender, []) ∧
    { twoStepSync with port := 3 }.port ≠ (ptpState .slave []).laneA.get R.PTP.PORT ∧
    ((ptpState .slave []).laneA.shadow 7).any (fun y => decide (1000 ≤ y.age)) = true := by decide +kernel

def clockState (y : Sync) : State := busyHub fun h => { h with clk := { h.clk with sync := y, sinceSample := 100000000, holdFor := 1000000000 } }
theorem test_witness_servo : (clockState .locked).active = some (clockState .locked).laneA ∧
    (servoCfg (clockState .locked).laneA).smpTo ≤ (clockState .locked).hub.clk.sinceSample ∧ (clockState .locked).hub.clk.sync = .locked ∧
    (clockState .acquire).hub.clk.sync = .acquire ∧ (clockState .holdover).hub.clk.sync = .holdover ∧
    (servoCfg (clockState .holdover).laneA).hoTime * 1000 ≤ (clockState .holdover).hub.clk.holdFor := by decide +kernel

/-! ### Witnesses: ports, fabric, display -/

def tcpStation : Station := { telegramStation with stn := 5, proto := 1, addr := 0x0A000001, good := false, lastAt := none }
def portState : State :=
  let s := busyA fun l => { l with ports := { l.ports with stations := [tcpStation], eth := l.ports.eth.set 0 { services := 0x1F, tgport := 4000 } } }
  { s with hub := { s.hub with ports := { s.hub.ports with
      ethLink := [2, 0, 0, 0], conns := [{ num := 9, svc := 3, port := 0, addr := 0, outstanding := 1 }]
      txq := [⟨0x10, 1, 5000, []⟩] } } }
/-- An IPv4 header of five words, then UDP to port 4 000. -/
def tgDatagram : List Byte := [0x45] ++ List.replicate 19 0 ++ [0, 0, 0x0F, 0xA0, 0, 8, 0, 0]
/-- The same to another host. -/
def strayDatagram : List Byte := [0x45] ++ List.replicate 15 0 ++ [10, 0, 0, 9] ++ [0, 0, 0x0F, 0xA0, 0, 8, 0, 0]

theorem test_witness_ethernet : portState.server = some portState.laneA ∧ portState.laneA.enabled 0x38 = true ∧ portState.hub.linkUp 0 = true ∧
    portState.laneA.udpTakes 0 tgDatagram = true ∧ portState.laneA.udpTakes 0 strayDatagram = false ∧ ((portState.hub.conn 3 9).map fun c => (c.port, c.outstanding)) = some (0, 1) ∧
    portState.pwr.clkFail.getLsbD 10 = false ∧ portState.hub.ports.ethLink.getD 3 0 ≠ 1 ∧ (3 : Nat) < portState.hub.ports.ethLink.length ∧
    portState.laneA.tcpStation 0 = some tcpStation ∧ portState.hub.mayConnect 0 tcpStation = true ∧
    tcpStation.tls = false ∧ portState.laneA.ownerCert engineerCert = true ∧ engineerCert.offer.version = 0x0304 ∧ portState.laneA.serves 0 2 true = true ∧ portState.hub.conn 2 0 = none ∧ (0 : Nat) < iecBroadcast ∧
    portState.hub.ports.conns.countP (fun c => c.svc == 2) < 8 ∧ portState.hub.ports.conns.countP (fun c => c.svc == 3) < 4 := by decide +kernel

def timedPort (src : Nat) : State := busyHub fun h => { h with ports := { h.ports with timers := [{ src, stn := 5, due := 4000000 }] } }
def goodAdu : List Byte := [1, 3] ++ leBytes 2 (crc16Modbus [1, 3])
theorem test_witness_serial : (timedPort 0x1C).hub.ports.txq = [] ∧ (timedPort 0x1C).hub.ports.timers = [{ src := 0x1C, stn := 5, due := 4000000 }] ∧
    4000000 ≤ (timedPort 0x1C).hub.upFrames ∧ (timedPort 0x1B).hub.ports.timers = [{ src := 0x18 + 3, stn := 5, due := 4000000 }] ∧ busy.hub.ports.timers = [] ∧ busy.hub.ports.late = [] ∧
    busy.active = some busy.laneA ∧ busy.laneA.enabled 0x48 = true ∧ 256 < (List.replicate 257 (0 : Byte)).length ∧
    u16At goodAdu (goodAdu.length - 2) = crc16Modbus (goodAdu.take (goodAdu.length - 2)) ∧
    u16At [1, 3, 0, 0] 2 ≠ crc16Modbus [1, 3] := by decide +kernel

def canState (c : CanPort) : State := busyHub fun h => { h with ports := { h.ports with can := h.ports.can.set 0 c } }
def mbState (m : MbusPort) : State := busyHub fun h => { h with ports := { h.ports with mb := h.ports.mb.set 0 m } }
theorem test_witness_can : ((canState { mode := 1, state := 1 }).hub.can 0).state < 2 ∧ ((canState { mode := 1, state := 1 }).hub.can 0).mode ≠ 0 ∧
    (canState { mode := 1, state := 3 }).laneA.enabled 0x44 = true ∧ ((canState { mode := 1, state := 3 }).hub.can 0).state = 3 ∧
    ((canState { mode := 1, state := 1 }).hub.can 0).stopped = false ∧ ((canState { mode := 3, abGood := 1 }).hub.can 0).abGood < 2 ∧
    (let c := (canState { mode := 3, abGood := 2, abSince := 3999800 }).hub.can 0
     c.mode = 3 ∧ c.abLock = none ∧ 2 ≤ c.abGood ∧ c.abSince + 200 ≤ busy.hub.upFrames) ∧
    busy.hub.upFrames < ((canState { mode := 3, abSince := 3999801 }).hub.can 0).abSince + 200 ∧ (0 : Nat) < busy.hub.ports.can.length ∧ (0 : Nat) < busy.hub.ports.mb.length ∧
    busy.laneA.enabled 0x4C = true ∧ ((mbState { on := true }).hub.mb 0).on = true ∧
    (let m := (mbState { ovc := true, trip := 3990000 }).hub.mb 0
     m.ovc = true ∧ m.on = false ∧ m.trip + 10000 ≤ busy.hub.upFrames ∧
       (m.repower.filter fun t => decide (busy.hub.upFrames < t + 3600000)).length < 3) ∧
    (3 : Nat) < busy.hub.ports.links.length ∧ busy.laneA.reduced = false ∧
    (let k := (busyHub fun h => { h with ports := { h.ports with links := h.ports.links.set 0 { trip := some 3999000 } } }).hub.ports.links.getD 0 {}
     k.trip = some 3999000 ∧ k.pwr = false ∧ 3999000 + 1000 ≤ busy.hub.upFrames) := by decide +kernel

/-- Long frame of length 3: 0x08 + 0x01 + 0x72 = 0x7B. Two acknowledgements over one another give neither. -/
theorem test_mbus_answers : mbusAnswer [0x68, 3, 3, 0x68, 0x08, 0x01, 0x72, 0x7B, 0x16] = true ∧ mbusAnswer [0xE5] = true ∧
    mbusAnswer [0x68, 3, 3, 0x68, 0x08, 0x01, 0x72, 0x7A, 0x16] = false ∧ mbusAnswer [0xF5] = false := by decide +kernel

/-- A frame for module `dst`, without payload, its CRC right. -/
def fabBytes (dst : Nat) (hops : Nat := 1) : List Byte := withFcrc (fabHeader 4 2 hops 7 dst 1 0 ++ List.replicate 16 0)
def fabState : State :=
  let s := busyA fun l => { l.setReg 0x3D008 1 with fab := { l.fab with linken := 1 } }
  { s with hub := { s.hub with ports := { s.hub.ports with links := s.hub.ports.links.set 0 { pwr := true, sfp := true, block := true } } } }
theorem test_witness_fabric : (fabState.linkBits 0).getLsbD 3 = true ∧ ([] : List Byte).length < 52 ∧ 52 ≤ (fabBytes 0).length ∧
    u32At (fabBytes 0) ((fabBytes 0).length - 4) = (crc32c ((fabBytes 0).take ((fabBytes 0).length - 4))).toNat ∧
    (readFab (fabBytes 0)).dst = fabState.laneA.modId ∧ (readFab (fabBytes 9)).dst ≠ fabState.laneA.modId ∧ (readFab (fabBytes 9)).dst < 0xFF0 ∧
    52 ≤ (fabBytes 9).length ∧ u8At (fabBytes 9) 2 ≤ 1 ∧ 1 < u8At (fabBytes 9 2) 2 ∧ (readFab (fabBytes 9 2)).dst = 9 ∧ fabState.hub.ports.routes = [] ∧
    u32At (fabBytes 9 2) ((fabBytes 9 2).length - 4) = (crc32c ((fabBytes 9 2).take ((fabBytes 9 2).length - 4))).toNat ∧ 0xFF0 ≤ (readFab (fabBytes 0xFF0)).dst ∧
    u32At (fabBytes 0xFF0) ((fabBytes 0xFF0).length - 4) = (crc32c ((fabBytes 0xFF0).take ((fabBytes 0xFF0).length - 4))).toNat ∧
    u32At (fabBytes 9) ((fabBytes 9).length - 4) = (crc32c ((fabBytes 9).take ((fabBytes 9).length - 4))).toNat := by decide +kernel

def routedState : State := { fabState with hub := { fabState.hub with ports := { fabState.hub.ports with routes := [{ dst := 9, cost := 1, hops := 1, first := 9, link := 3 }] } } }
theorem test_witness_route : (routedState.hub.ports.routes.find? fun q => q.dst == (readFab (fabBytes 9 2)).dst).map (·.link) = some 3 ∧
    (routedState.linkBits 0).getLsbD 3 = true := by decide +kernel

def dispState (f : Display → Display) : State := busyHub fun h => { h with disp := f h.disp }
def clearList : List Word := [0x01010000, 0]
theorem test_witness_display : busy.active = some busy.laneA ∧ busy.activeId = some .a ∧
    (dispState fun d => { d with render := some clearList }).hub.disp.render = some clearList ∧ (parseList 2 0 clearList).toOption.isSome = true ∧
    (parseList 1 0 [0x09000000]).toOption = none ∧ (dispState fun d => { d with on := true, ready := some 5 }).hub.disp.ready = some 5 ∧
    busy.hub.disp.on = false ∧ (dispState fun d => { d with on := true, frontCrc := some 5 }).hub.disp.frontCrc = some 5 ∧
    busy.pwr.clkFail.getLsbD 17 = false ∧ ({ busy with pwr := { busy.pwr with clkFail := 0x20000 } } : State).pwr.clkFail.getLsbD 17 = true ∧
    (let d := (dispState fun d => { d with on := true, swapAt := 0 }).hub.disp
     d.on = true ∧ d.stale = false ∧ d.swapAt + d.set.stalems ≤ busy.hub.upFrames) ∧
    panelWanted (dispState fun d => { d with set := { en := true } }) = true ∧ (dispState fun d => { d with set := { en := true } }).hub.disp.on = false ∧ panelWanted (dispState fun d => { d with on := true }) = false ∧
    (let d := (dispState fun d => { d with rflt := true, faultAt := 3999000 }).hub.disp
     d.rflt = true ∧ d.lockout = false ∧ d.faultAt + 1000 ≤ busy.hub.upFrames ∧
       (d.tries.countP fun n => decide (busy.hub.upFrames < n + 3600000)) < 3) ∧
    (dispState fun d => { d with rflt := true, lockout := true }).hub.disp.lockout = true ∧
    (let d := (dispState fun d => { d with on := true, backlight := true, set := { blen := 8 } }).hub.disp
     d.lit busy.hub.upFrames = true ∧ d.set.blen.testBit 3 = true ∧ (d.blopen ||| d.blshort).getLsbD 3 = false ∧ d.set.crcmax ≤ 60) := by decide +kernel

/-! ### Witnesses: Enesque instructions

Task 0 of E4 runs in `enq c`, with context `c`; word 0 of its variables is 0x80000005, word 1 the address of loop 3. -/

def enqLane (c : EnqCtx) (l : Lane) : Lane :=
  { l with prg := { l.prg with
      mode := .run
      e4 := { decl := { ncode := 64, vsize := 64, ksize := 8 }, vars := [(0, 0x80000005), (1, 3), (2, 4)], cur := some 0 }
      tasks := l.prg.tasks.set 0 { ctx := c, ph := .main } } }
def enq (c : EnqCtx) : State := busyA (enqLane c)

theorem test_witness_enq_executes : Executes (enq {}) .a .e4 0 ∧ Executes (enq { stk := [.ret 63] }) .a .e4 0 :=
  ⟨⟨rfl, by decide +kernel, rfl, by decide +kernel, rfl, rfl⟩, ⟨rfl, by decide +kernel, rfl, by decide +kernel, rfl, rfl⟩⟩

def okIs {α : Type} [DecidableEq α] (r : Except Nat α) (x : α) : Bool := match r with
  | .ok y => decide (y = x)
  | .error _ => false

theorem test_witness_enq_operands :
    okIs ((enqEnv (enq {}) .e4 0).readBit ((enq {}).lane .a) 5 2) true = true ∧ okIs ((enqEnv (enq {}) .e4 0).readWord ((enq {}).lane .a) 4 0) 0x80000005 = true ∧
    okIs ((enqEnv (enq {}) .e4 0).readByte ((enq {}).lane .a) 4 3) 0x80 = true ∧ okIs ((enqEnv (enq {}) .e4 0).readWord ((enq {}).lane .a) 0 0) 0 = true ∧
    okIs ((enqEnv (enq {}) .e4 0).wordAt ((enq {}).lane .a) 4 ((enqEnv (enq {}) .e4 0).effective ((enq {}).lane .a) 4 0 + 1)) 3 = true ∧
    (((enqEnv (enq {}) .e4 0).writeBit ((enq {}).pcOn .a 0) 5 2 false).toOption).isSome = true ∧
    (((enqEnv (enq {}) .e4 0).writeWord ((enq {}).pcOn .a 0) 4 0 7).toOption).isSome = true ∧
    (((enqEnv (enq {}) .e4 0).writeByte ((enq {}).pcOn .a 0) 4 0 7).toOption).isSome = true := by decide +kernel

theorem test_witness_enq_stack : ((enq {}).ctxOf .a 0).stk.length < 16 ∧ ((enq { stk := [.bit 0x13 true] }).ctxOf .a 0).stk = .bit 0x13 true :: [] ∧
    ((enq { stk := [.word 5] }).ctxOf .a 0).stk = .word 5 :: [] ∧ (popOp 0x2B).isSome = true ∧ ((enq { stk := [.ret 63] }).ctxOf .a 0).stk = .ret 63 :: [] ∧
    16 ≤ ((enq { stk := List.replicate 16 (.ret 0) }).ctxOf .a 0).stk.length ∧ (63 : Nat) < (((enq {}).lane .a).exe 4).decl.ncode ∧
    (((enq {}).lane .a).exe 4).decl.ncode ≤ 64 ∧
    ((popOp 0x2B).bind fun p => (p.2 7 2).toOption) = some 3 := by decide +kernel

theorem test_witness_enq_event : okIs ((enqEnv (enq {}) .e4 0).readWord ((enq {}).lane .a) 0 39) 39 = true ∧
    (let s := busyA fun l => { enqLane {} l with prg := { (enqLane {} l).prg with tasks := (enqLane {} l).prg.tasks.set 39 { cfg := { kind := 2, evsrc := 0 } } } }
     ((s.lane .a).task 39).cfg.kind = 2 ∧ ((s.lane .a).task 39).cfg.evsrc = 0) := by decide +kernel

/-- Loop 3 is installed; a solve and a dispatch have been published. -/
def noRec : SolveRec :=
  { n := 1, fno := 0, sfp := 0, dfp := 0, cold := true, wsmis := false, base := none, nets := [], p := [9], nq := [], m := [], tprop := [], bq := []
    th := [], z := [], zst := [], resid := [], therm := {}, after := {}, diag := {} }
def noDispRec : DispRec :=
  { job := { noDispatch with prog := { noDispatch.prog with nstep := 1 } }, it := ⟨[5], [], [], []⟩, outcome := 0, short := false, rprim := 0, rdual := 0, mu := 0
    alphamin := 0, slkmax := 0, npivr := 0, rejit := 0, obj := 0 }
def oneNode : NetModel := { node := [⟨0, 0, 0, 0, 0⟩] }
def resultLane (c : EnqCtx) (l : Lane) : Lane :=
  { enqLane c l with
    loops := [(3, { cfg := { kind := 1 } })]
    slv := { l.slv with model := some oneNode, seen := some noRec }, opt := { l.opt with seen := some noDispRec } }

theorem test_witness_enq_results :
    let s := busyA (resultLane { xr := 3 })
    okIs ((enqEnv s .e4 0).readWord (s.lane .a) 4 1) 3 = true ∧ (s.lane .a).hasLoop 3 = true ∧ F32.isFin 0x3F800000 = true ∧
    (s.lane .a).slv.model = some oneNode ∧ noRec.item oneNode 0 0 = some (9, 0) ∧
    noDispRec.item 3 0 0 = some 5 ∧ ((enq {}).lane .a).slv.seen = none ∧ ((enq {}).lane .a).opt.seen = none := by decide +kernel

/-- Queue 40 runs from E4 to E5; queue 48 the other way. -/
theorem test_witness_enq_queues :
    let l := (enq { xr := 48 }).pcOn .a 0
    4 * (2 + 1) < (l.exe 4).decl.vsize ∧ (l.queueEnds 48).2 = 4 ∧ (l.queueEnds 40).1 = 4 ∧ (l.queueTake 48).1 = none ∧
    (({ l with queues := l.queues.set 48 { items := [{ prio := 0, words := [7], isOpen := false, snapLen := 1, visible := 1 }] } } : Lane).queueTake 48).1 = some (7, true) ∧
    (timeWord l 8).isSome = true ∧ (0x40000000 : Nat) % 4 = 0 ∧ (l.varWord 4 2).toNat = 4 ∧ 4 * (2 + 4) < (l.exe 4).decl.vsize := by decide +kernel

theorem test_witness_enq_time : (busyA fun l => { enqLane {} l with frame := some inFrame }).laneA.frame = some inFrame := by decide +kernel

theorem test_witness_enq_faults : (Instr.enqIllop .e4 0x00 0 0).wellFormed = true ∧ (0x1 : BitVec 4).toNat ≠ 0 ∧
    ((enq { stk := [] }).ctxOf .a 0).stk = [] ∧ ((enq { stk := [.word 1] }).ctxOf .a 0).stk = .word 1 :: [] ∧
    ((enq { stk := [.word 1] }).ctxOf .a 0).stk ≠ [] ∧ (((enq {}).lane .a).exe 4).decl.ncode ≤ (64 : BitVec 20).toNat := by decide +kernel

/-! ### Single steps, by hand from 11_enesque_instructions.md -/

/-- The task's context after one instruction; PC starts at 0. -/
def ran (i : Instr) (s : State) : Option EnqCtx := match exec i s with
  | .next t => some ((t.lane .a).enqCtx 0)
  | _ => none

/-- Word 0 of the variables after one instruction. -/
def stored (i : Instr) (s : State) : Option Word := match exec i s with
  | .next t => some ((t.lane .a).varWord 4 0)
  | _ => none

/-- FLTCODE of the program after one instruction. -/
def faulted (i : Instr) (s : State) : Option Nat := match exec i s with
  | .next t => some ((t.lane .a).get R.PRG.FLTCODE)
  | _ => none

/-- R265: addition wraps; an immediate is sign-extended from 20 bits. -/
theorem test_enq_add_wraps : ran (.enqAdd .e4 0 0xFFFFF) (enq { wa := 0 }) = some { pc := 1, wa := 0xFFFFFFFF } := by decide +kernel
theorem test_enq_sub : ran (.enqSub .e4 4 1) (enq { wa := 1 }) = some { pc := 1, wa := 0xFFFFFFFE } := by decide +kernel
/-- Truncated toward zero: −7 / 2 = −3, remainder −1. -/
theorem test_enq_div : ran (.enqDiv .e4 0 2) (enq { wa := 0xFFFFFFF9 }) = some { pc := 1, wa := 0xFFFFFFFD } := by decide +kernel
theorem test_enq_mod : ran (.enqMod .e4 0 2) (enq { wa := 0xFFFFFFF9 }) = some { pc := 1, wa := 0xFFFFFFFF } := by decide +kernel
theorem test_enq_div_zero : faulted (.enqDiv .e4 0 0) (enq { wa := 1 }) = some 0x06 := by decide +kernel
/-- Shifts by 32 and more. -/
theorem test_enq_sar : ran (.enqSar .e4 0 40) (enq { wa := 0x80000000 }) = some { pc := 1, wa := 0xFFFFFFFF } := by decide +kernel
theorem test_enq_shl : ran (.enqShl .e4 0 32) (enq { wa := 1 }) = some { pc := 1, wa := 0 } := by decide +kernel
/-- Signed and unsigned comparison of 0x80000005 with 3. -/
theorem test_enq_lt : ran (.enqLt .e4 4 1) (enq { wa := 0x80000005 }) = some { pc := 1, ba := true, wa := 0x80000005 } := by decide +kernel
theorem test_enq_ltu : ran (.enqLtu .e4 4 1) (enq { wa := 0x80000005 }) = some { pc := 1, ba := false, wa := 0x80000005 } := by decide +kernel
/-- 1.0 + 2.0 = 3.0; F2I of a NaN is 0, of −1e10 saturates, and 2.5 rounds to the even 2. -/
theorem test_enq_fadd : ran (.enqFadd .e4 4 3) { enq { wa := 0x3F800000 } with
    laneA := ((enq { wa := 0x3F800000 }).laneA.setVarWord 4 3 0x40000000) } = some { pc := 1, wa := 0x40400000 } := by decide +kernel
theorem test_enq_f2i_nan : ran (.enqF2i .e4 0 0) (enq { wa := 0x7FC00000 }) = some { pc := 1, wa := 0 } := by decide +kernel
theorem test_enq_f2i_even : ran (.enqF2i .e4 0 0) (enq { wa := 0x40200000 }) = some { pc := 1, wa := 2 } := by decide +kernel
theorem test_enq_i2f : ran (.enqI2f .e4 0 0) (enq { wa := 0xFFFFFFFF }) = some { pc := 1, wa := 0xBF800000 } := by decide +kernel
/-- Bit 2 of variable word 0 is 1: SET and RST by BA; RE shows a rising edge. -/
theorem test_enq_rst : stored (.enqRst .e4 5 2) (enq { ba := true }) = some 0x80000001 := by decide +kernel
theorem test_enq_set : stored (.enqSet .e4 5 1) (enq { ba := true }) = some 0x80000007 := by decide +kernel
theorem test_enq_re : ran (.enqRe .e4 5 1) (enq { ba := true }) = some { pc := 1, ba := true } := by decide +kernel
theorem test_enq_stb : stored (.enqStb .e4 4 3) (enq { wa := 0x112233 }) = some 0x33000005 := by decide +kernel
/-- A closing parenthesis with ANDN: true and not BA. -/
theorem test_enq_close : ran (.enqCloseParen .e4 0 0) (enq { stk := [.bit 0x13 true] }) = some { pc := 1, ba := true } := by decide +kernel
theorem test_enq_popw : ran (.enqPopw .e4 0 0x29) (enq { wa := 2, stk := [.word 7] }) = some { pc := 1, wa := 5 } := by decide +kernel
theorem test_enq_call : ran (.enqCall .e4 0 9) (enq {}) = some { pc := 9, stk := [.ret 1] } := by decide +kernel
theorem test_enq_jump_range : faulted (.enqJmp .e4 0 64) (enq {}) = some 0x0A := by decide +kernel
theorem test_enq_ret_empty : faulted (.enqRet .e4 0 0) (enq {}) = some 0x04 := by decide +kernel
/-- CTU: a rise of BA counts; Q with PV 0 is 1. -/
theorem test_enq_ctu : ran (.enqCtu .e4 8 5) (enq { ba := true }) = some { pc := 1, ba := true } := by decide +kernel
/-- A result instruction before the first publication: a quiet NaN and BA 0. -/
theorem test_enq_srd_none : ran (.enqSrd .e4 0 0) (enq { ba := true }) = some { pc := 1, wa := 0x7FC00000 } := by decide +kernel
theorem test_enq_without_task : ran (.enqNop .e4 0 0) busy = some {} := by decide +kernel

end
end

section
/-! The state after reset, and O2. -/

namespace Sys2Proof.Machine

/-- A lane that nothing has written to reads the reset values. -/
theorem reset_lane_reg (x : LaneId) (k : Nat) : (State.reset.lane x).reg k = resetWord k := by
  cases x <;> rfl

/-- Settles O2: each field by the definition of the state after reset. -/
theorem resetIsUnpowered : Obligations.ResetIsUnpowered :=
  ⟨rfl, rfl, rfl, rfl, rfl, rfl, rfl, rfl, rfl, rfl, reset_lane_reg⟩

end Sys2Proof.Machine
end

section
/-! An Enesque instruction that changes the context of its task alone, by the shape of its meaning, and O50. -/

namespace Sys2Proof.Machine

/-- An instruction whose meaning changes the context alone. -/
theorem enqSets_of_sem {c : Instr} {s : State} {x : LaneId} {e : Exec45} {n cost : Nat} {sem : EnqSem} {area : BitVec 4}
    {addr : BitVec 20} {f : EnqCtx → EnqCtx} (hc : exec c s = .next (enqRow e sem area addr s)) (h : Executes s x e n)
    (hs : sem (enqEnv s e n) area.toNat addr.toNat (s.pcOn x n) = .ok ((s.pcOn x n).modCtx n f, cost)) :
    EnqSets c s x e n (cost + indexCost area.toNat) f :=
  ⟨_, hc, enqRow_ok s x e n sem area addr cost _ h hs, enqRow_only s e sem area addr⟩

/-- A word operand reads alike before the instruction and with PC past it. -/
theorem readWord_pcOn {s : State} {x : LaneId} {e : Exec45} {n : Nat} (h : Executes s x e n) (area addr : Nat) :
    (enqEnv s e n).readWord (s.pcOn x n) area addr = (enqEnv s e n).readWord (s.lane x) area addr :=
  (enqEnv s e n).readWord_modCtx (s.lane x) area addr _ h.known rfl

section WordOperand

variable {c : Instr} {s : State} {x : LaneId} {e : Exec45} {n cost : Nat} {area : BitVec 4} {addr : BitVec 20} {w : Word}

/-- WA from WA and the word operand (11_enesque_instructions.md R265). -/
theorem enqSets_wordOp (f : Word → Word → Word) (h : Executes s x e n)
    (hw : (enqEnv s e n).readWord (s.lane x) area.toNat addr.toNat = .ok w)
    (hc : exec c s = .next (enqRow e (wordOp cost (pureOp f)) area addr s)) :
    EnqSets c s x e n (cost + indexCost area.toNat) (fun c => { c with wa := f c.wa w }) := by
  refine enqSets_of_sem hc h ?_
  simp only [wordOp, pureOp, readWord_pcOn h, hw]
  rfl

/-- BA from a comparison of WA with the word operand. -/
theorem enqSets_wordCmp (f : Word → Word → Bool) (h : Executes s x e n)
    (hw : (enqEnv s e n).readWord (s.lane x) area.toNat addr.toNat = .ok w)
    (hc : exec c s = .next (enqRow e (wordCmp cost f) area addr s)) :
    EnqSets c s x e n (cost + indexCost area.toNat) (fun c => { c with ba := f c.wa w }) := by
  refine enqSets_of_sem hc h ?_
  simp only [wordCmp, readWord_pcOn h, hw]
  rfl

/-- WA from WA alone; such an instruction has area and address 0. -/
theorem enqSets_wordUnary (f : Word → Word) (h : Executes s x e n)
    (hc : exec c s = .next (enqRow e (wordUnary cost f) 0 0 s)) :
    EnqSets c s x e n cost (fun c => { c with wa := f c.wa }) := by
  have hi : indexCost (0 : BitVec 4).toNat = 0 := by decide
  have hg := enqSets_of_sem (cost := cost) (f := fun c => { c with wa := f c.wa }) hc h (by simp only [wordUnary, noOperand]; rfl)
  rwa [hi, Nat.add_zero] at hg

/-- FLIM takes the word after its operand as the upper limit. -/
theorem enqSets_flim {hi : Word} (h : Executes s x e n)
    (hw : (enqEnv s e n).readWord (s.lane x) area.toNat addr.toNat = .ok w) (ha : area.toNat ≠ 0)
    (hhi : (enqEnv s e n).wordAt (s.lane x) area.toNat ((enqEnv s e n).effective (s.lane x) area.toNat addr.toNat + 1) = .ok hi)
    (hc : exec c s = .next (enqRow e enqFlim area addr s)) :
    EnqSets c s x e n (6 + indexCost area.toNat) (fun c => { c with wa := F32.min (F32.max c.wa w) hi }) := by
  have hat : (enqEnv s e n).wordAt (s.pcOn x n) area.toNat ((enqEnv s e n).effective (s.pcOn x n) area.toNat addr.toNat + 1) = .ok hi := by
    rw [← hhi, ← (enqEnv s e n).effective_modCtx (s.lane x) area.toNat addr.toNat (fun c => { c with pc := c.pc + 1 }) h.known rfl]
    exact (enqEnv s e n).wordAt_modCtx (s.lane x) _ _ _ h.known
  refine enqSets_of_sem hc h ?_
  simp only [enqFlim, readWord_pcOn h, hw]
  show (if area.toNat = 0 then _ else _) = _
  rw [if_neg ha, hat]
  rfl

end WordOperand

/-- Bit 31 off is the lower 31 bits. -/
theorem and_allButSign (a : Word) : a &&& 0x7FFFFFFF = (a.setWidth 31).setWidth 32 := by
  apply BitVec.eq_of_toNat_eq
  have h : a.toNat &&& 0x7FFFFFFF = a.toNat % 2 ^ 31 := Nat.and_two_pow_sub_one_eq_mod a.toNat 31
  have hm : a.toNat % 2 ^ 31 < 2 ^ 32 := by omega
  rw [BitVec.toNat_and, BitVec.toNat_setWidth, BitVec.toNat_setWidth, Nat.mod_eq_of_lt hm]
  exact h

/-- Settles O50: each row has one of the shapes above, with its operation of binary32. -/
theorem enqFloatingPoint : Obligations.EnqFloatingPoint := by
  intro s x e n area addr w hi h hw
  have habs := enqSets_wordUnary (fun a => a &&& 0x7FFFFFFF) h (rfl : exec (.enqFabs e 0 0) s = _)
  simp only [and_allButSign] at habs
  exact ⟨enqSets_wordOp F32.add h hw rfl, enqSets_wordOp F32.sub h hw rfl, enqSets_wordOp F32.mul h hw rfl,
    enqSets_wordOp F32.div h hw rfl, enqSets_wordOp F32.min h hw rfl, enqSets_wordOp F32.max h hw rfl,
    fun ha hhi => enqSets_flim h hw ha hhi rfl,
    enqSets_wordCmp F32.eq h hw rfl, enqSets_wordCmp F32.lt h hw rfl, enqSets_wordCmp F32.le h hw rfl,
    enqSets_wordCmp (fun a b => F32.lt b a) h hw rfl, enqSets_wordCmp (fun a b => F32.le b a) h hw rfl,
    habs, enqSets_wordUnary (fun a => a ^^^ 0x80000000) h rfl, enqSets_wordUnary F32.sqrt h rfl⟩

end Sys2Proof.Machine
end

section
/-! What the traffic of a frame leaves as it was: the hub but for its arrivals and ports, and what the apply instant drives by. -/

namespace Sys2Proof.Machine

/-- A fold whose steps keep what `v` shows keeps it. -/
theorem foldl_keeps {σ α β : Type} (v : σ → β) {f : σ → α → σ} (l : List α) (s : σ)
    (h : ∀ s, ∀ a ∈ l, v (f s a) = v s) : v (l.foldl f s) = v s := by
  induction l generalizing s with
  | nil => rfl
  | cons a l ih => exact (ih (f s a) fun s b hb => h s b (List.mem_cons_of_mem a hb)).trans (h s a List.mem_cons_self)

/-! ### The hub but for its traffic -/

/-- The hub without its traffic: arrivals that wait, their numbers, and the ports. -/
def Hub.still (h : Hub) : Hub := { h with waiting := [], seqs := [], ports := {} }

@[simp] theorem Hub.still_setPorts (h : Hub) (f : HubPorts → HubPorts) : (h.setPorts f).still = h.still := rfl

@[simp] theorem Hub.still_complete (h : Hub) (src len : Nat) (t : Int) (b : ArrBody) : (h.complete src len t b).still = h.still := by
  unfold Hub.complete
  dsimp only
  split <;> rfl

@[simp] theorem Hub.still_handOver (h : Hub) (len : Nat) (t : Int) (b : ArrBody) : (h.handOver len t b).still = h.still :=
  h.still_complete _ _ _ _

@[simp] theorem Hub.still_portArrival (h : Hub) (src : Nat) (t : Int) (b : PortBody) : (h.portArrival src t b).still = h.still :=
  h.still_complete _ _ _ _

@[simp] theorem Hub.still_sent (h : Hub) (x : Sent) : (h.sent x).still = h.still := rfl
@[simp] theorem Hub.still_stopTimer (h : Hub) (src stn : Nat) : (h.stopTimer src stn).still = h.still := rfl
@[simp] theorem Hub.still_startTimer (h : Hub) (src stn due gen code : Nat) : (h.startTimer src stn due gen code).still = h.still := rfl
@[simp] theorem Hub.still_setLine (h : Hub) (src us : Nat) : (h.setLine src us).still = h.still := rfl
@[simp] theorem Hub.still_modConn (h : Hub) (svc num : Nat) (f : TcpConn → TcpConn) : (h.modConn svc num f).still = h.still := rfl
@[simp] theorem Hub.still_modCan (h : Hub) (n : Nat) (f : CanPort → CanPort) : (h.modCan n f).still = h.still := rfl
@[simp] theorem Hub.still_modMb (h : Hub) (n : Nat) (f : MbusPort → MbusPort) : (h.modMb n f).still = h.still := rfl
@[simp] theorem Hub.still_canReport (h : Hub) (n : Nat) (t : Int) : (h.canReport n t).still = h.still := h.still_portArrival _ _ _
@[simp] theorem Hub.still_mbReport (h : Hub) (n : Nat) (t : Int) : (h.mbReport n t).still = h.still := h.still_portArrival _ _ _

@[simp] theorem Hub.still_canDrop (h : Hub) (n : Nat) (t : Int) (code : Nat) : (h.canDrop n t code).still = h.still := by
  unfold Hub.canDrop
  rw [foldl_keeps Hub.still _ _ fun h stn _ => h.still_portArrival _ _ _, Hub.still_modCan]

@[simp] theorem Hub.still_iecPump (h : Hub) (num fuel : Nat) : (h.iecPump num fuel).still = h.still := by
  induction fuel generalizing h with
  | zero => rfl
  | succ fuel ih =>
    unfold Hub.iecPump
    repeat' split
    · rfl
    · rfl
    · rfl
    · rw [ih]
      simp

@[simp] theorem Hub.still_iecSend (h : Hub) (num : Nat) (a : List Byte) : (h.iecSend num a).still = h.still := by
  simp [Hub.iecSend]

@[simp] theorem Hub.still_passClear (h : Hub) (a w : Word) : (h.passClear a w).still = h.still := by
  unfold Hub.passClear
  split <;> simp

@[simp] theorem Hub.still_fabLocal (h : Hub) (link : Option Nat) (t stamp : Int) (b : List Byte) :
    (h.fabLocal link t stamp b).still = h.still := h.still_portArrival _ _ _

@[simp] theorem Hub.still_portControl (h : Hub) (src : Nat) (b : List Byte) : (h.portControl src b).still = h.still := by
  unfold Hub.portControl
  dsimp only
  repeat' split
  all_goals simp

@[simp] theorem Hub.still_sendEntry (h : Hub) (l : Lane) (now src : Nat) (b : List Byte) : (h.sendEntry l now src b).still = h.still := by
  have each (cs : List TcpConn) (a : List Byte) : (cs.foldl (fun (h : Hub) c => h.iecSend c.num a) h).still = h.still :=
    foldl_keeps Hub.still _ _ fun h c _ => h.still_iecSend _ _
  unfold Hub.sendEntry
  dsimp only
  repeat' split
  all_goals simp [each]

@[simp] theorem Hub.still_pump (h : Hub) (l : Lane) (now fuel : Nat) : (h.pump l now fuel).still = h.still := by
  induction fuel generalizing h with
  | zero => rfl
  | succ fuel ih =>
    unfold Hub.pump
    dsimp only
    split
    · rfl
    · split
      · rfl
      · rw [ih]
        simp

@[simp] theorem Hub.still_transmit (h : Hub) (l : Lane) (frame src : Nat) (b : List Byte) : (h.transmit l frame src b).still = h.still := by
  unfold Hub.transmit
  dsimp only
  repeat' split
  all_goals simp

@[simp] theorem Hub.still_requestDone (h : Hub) (l : Lane) (t : ReqTimer) : (h.requestDone l t).still = h.still := by
  unfold Hub.requestDone
  dsimp only
  repeat' split
  all_goals simp

@[simp] theorem Hub.still_expire (h : Hub) (l : Lane) (p : ReqTimer → Bool) : (h.expire l p).still = h.still := by
  unfold Hub.expire
  exact foldl_keeps Hub.still _ _ fun h t _ => by simp

/-! ### What decides the outputs of a frame -/

/-- What the apply instant takes from a lane: its output frame, and what the store's controller asks of it. -/
structure LaneGiven where
  frame : Option OutFrame
  sizes : List Nat
  lifeCycle : Nat
  committed : Nat
  unavail : Bool

def Lane.given (l : Lane) : LaneGiven where
  frame := l.delivered
  sizes := l.nv.patSize
  lifeCycle := l.lifeCycle
  committed := l.committedSlot
  unavail := l.on R.NVS.UNAVAIL

/-- A register of another key than that of UNAVAIL is nothing that the apply instant takes from a lane. -/
theorem Lane.given_put (l : Lane) (f : Fld) (v : Nat) (h : f.key ≠ R.NVS.UNAVAIL.key) : (l.put f v).given = l.given := by
  have hon : (l.put f v).on R.NVS.UNAVAIL = l.on R.NVS.UNAVAIL := by
    unfold Lane.on Lane.get
    rw [Lane.reg_put_ne l f v _ h.symm]
  unfold Lane.given
  rw [hon]
  rfl

theorem Lane.given_inc_qdrop (l : Lane) (n : Nat) : (l.inc (R.FL.QDROP.inst n)).given = l.given :=
  l.given_put _ _ (by simp only [Fld.key, Fld.inst, R.FL.QDROP, R.NVS.UNAVAIL]; omega)

theorem Lane.given_inc_noroute (l : Lane) : (l.inc R.FAB.NOROUTE).given = l.given :=
  l.given_put _ _ (by decide)

/-- What the apply instant drives by, and what it drives. -/
structure ApplyView where
  hub : Hub
  owner : Owner
  pwr : Power
  startup : Option Startup
  nv : NvStore
  lane : LaneId → LaneGiven

def State.applyView (s : State) : ApplyView where
  hub := s.hub.still
  owner := s.ts.verdict.owner
  pwr := s.pwr
  startup := s.startup
  nv := s.nv
  lane := fun x => (s.lane x).given

theorem setHub_applyView (s : State) {f : Hub → Hub} (hf : (f s.hub).still = s.hub.still) :
    (s.setHub f).applyView = s.applyView := by
  unfold State.applyView
  simp only [State.setHub_hub, hf, State.setHub_lane]
  rfl

theorem onLanes_applyView (s : State) {f : Lane → Lane} (hf : ∀ l, (f l).given = l.given) :
    (onLanes f s).applyView = s.applyView := by
  have hl : ∀ x, ((onLanes f s).lane x).given = (s.lane x).given := fun x => by
    rw [onLanes_lane]
    unfold runIf
    split
    · exact hf _
    · rfl
  unfold State.applyView
  simp only [hl]
  rfl

theorem draw_applyView (s : State) : s.draw.2.applyView = s.applyView := rfl

theorem drawWords_applyView (n : Nat) (s : State) : (s.drawWords n).2.applyView = s.applyView := by
  induction n generalizing s with
  | zero => rfl
  | succ n ih => exact (ih s.draw.2).trans (draw_applyView s)

/-! ### The fabric (20_rogon_fabric.md R436, R437) -/

theorem putOut_applyView (s : State) (n : Nat) (t : Int) (b : List Byte) : (s.putOut n t b).applyView = s.applyView := by
  have hsent := setHub_applyView s (f := fun h => h.sent (.port (0x14 + n) b)) (Hub.still_sent _ _)
  unfold State.putOut
  dsimp only
  split
  · rw [setHub_applyView _ (Hub.still_portArrival _ _ _ _), draw_applyView, hsent]
  · exact hsent

theorem egDown_applyView (s : State) : s.egDown.applyView = s.applyView := by
  have count (s : State) (e : EgFrame) : (onLanes (fun l => l.inc (R.FL.QDROP.inst e.link)) s).applyView = s.applyView :=
    onLanes_applyView s fun l => l.given_inc_qdrop e.link
  unfold State.egDown
  dsimp only
  rw [foldl_keeps State.applyView _ _ fun s e _ => count s e]
  exact setHub_applyView s rfl

theorem drainLink_applyView (s : State) (n : Nat) (t : Int) (fuel : Nat) : (s.drainLink n t fuel).applyView = s.applyView := by
  induction fuel generalizing s with
  | zero => rfl
  | succ fuel ih =>
    unfold State.drainLink
    repeat' split
    · rfl
    · rfl
    · rw [ih, putOut_applyView, setHub_applyView _ (Hub.still_setPorts _ _)]

theorem drainFab_applyView (s : State) (t : Int) : (s.drainFab t).applyView = s.applyView :=
  (foldl_keeps State.applyView _ _ fun s n _ => drainLink_applyView s n t _).trans (egDown_applyView s)

theorem egress_applyView (s : State) (n : Nat) (t : Int) (b : List Byte) : (s.egress n t b).applyView = s.applyView := by
  unfold State.egress
  dsimp only
  split
  · rw [onLanes_applyView _ fun l => l.given_inc_qdrop n, drainFab_applyView]
  · rw [drainFab_applyView, setHub_applyView _ (Hub.still_setPorts _ _), drainFab_applyView]

theorem route_applyView (s : State) (dst : Nat) (t : Int) (b : List Byte) : (s.route dst t b).applyView = s.applyView := by
  unfold State.route
  split
  · exact egress_applyView _ _ _ _
  · exact onLanes_applyView s Lane.given_inc_noroute

theorem fabEntry_applyView (own : Nat) (s : State) (e : OutEntry) : (s.fabEntry own e).applyView = s.applyView := by
  unfold State.fabEntry
  repeat' split
  · exact egress_applyView _ _ _ _
  · exact setHub_applyView s (Hub.still_fabLocal _ _ _ _ _)
  · exact route_applyView _ _ _ _
  · rfl

/-! ### The ports (21_field_ports.md R456, R466) -/

theorem pumpAt_applyView (s : State) (t : Int) : (s.pumpAt t).applyView = s.applyView := by
  unfold State.pumpAt
  split
  · exact setHub_applyView s (Hub.still_pump _ _ _ _)
  · rfl

theorem loadSwitch_applyView (s : State) : s.loadSwitch.applyView = s.applyView := by
  unfold State.loadSwitch
  split
  · dsimp only
    rw [onLanes_applyView _ fun l => by rfl]
    exact setHub_applyView s rfl
  · rfl

theorem applyPorts_applyView (s : State) : s.applyPorts.applyView = s.applyView := by
  unfold State.applyPorts
  split
  · rfl
  · rw [loadSwitch_applyView, pumpAt_applyView, setHub_applyView s (Hub.still_expire _ _ _)]

end Sys2Proof.Machine
end

section
/-! The apply instant (01_architecture.md R29, 05_touchstone.md R118) and O36. -/

namespace Sys2Proof.Machine

/-! ### What an apply instant leaves behind -/

/-- The outputs but for an image that the next apply instant loads. -/
def Outputs.now (o : Outputs) : Outputs := { o with qnext := none }

/-- What an apply instant gives. -/
structure AppliedView where
  outs : Outputs
  applied : Bool
  nv : NvStore
  shutdown : Option Nat

def State.appliedView (s : State) : AppliedView where
  outs := s.hub.outs.now
  applied := s.hub.applied
  nv := s.nv
  shutdown := s.pwr.shutdown

theorem appliedView_of_applyView {s t : State} (h : t.applyView = s.applyView) : t.appliedView = s.appliedView :=
  congrArg (fun v => AppliedView.mk v.hub.outs.now v.hub.applied v.nv v.pwr.shutdown) h

theorem setHub_appliedView (s : State) {f : Hub → Hub} (ho : (f s.hub).outs = s.hub.outs) (ha : (f s.hub).applied = s.hub.applied) :
    (s.setHub f).appliedView = s.appliedView := by
  unfold State.appliedView
  simp only [State.setHub_hub, ho, ha]
  rfl

theorem setPwr_appliedView (s : State) {f : Power → Power} (h : (f s.pwr).shutdown = s.pwr.shutdown) :
    (s.setPwr f).appliedView = s.appliedView := by
  unfold State.appliedView
  simp only [State.setPwr_pwr, h]
  rfl

/-! ### The store (14_nv_store.md R323, R336, R339) -/

/-- The one NAND request that is executed has been, or it has failed and its block is marked. -/
theorem nandResult_cases (s : State) (j : List (NvReq × Nat)) :
    (s.nandResult j).applyView = s.applyView ∨
      ∃ (r : NvReq) (ws : List Byte) (u : State), (r, 0) ∈ j ∧ r.op = 4 ∧ u.applyView = s.applyView ∧
        s.nandResult j = onLanes (fun l => l.irq R.NVS.I_NANDBAD) { u with nv := s.nv.nandFail (r.part - 0x20) r.num ws } := by
  unfold State.nandResult
  dsimp only
  split
  case h_1 => exact .inl rfl
  case h_2 p hp =>
    have hmem := List.mem_of_find?_eq_some hp
    have hgo := List.find?_some hp
    obtain ⟨r, st⟩ := p
    obtain ⟨rfl, hop⟩ : st = 0 ∧ r.op = 4 := by simpa using hgo
    split
    · have hw := (drawWords_applyView 512 s.draw.2).trans (draw_applyView s)
      generalize s.draw.2.drawWords 512 = w at hw ⊢
      exact .inr ⟨r, w.1, w.2, hmem, hop, hw, rfl⟩
    · exact .inl rfl

theorem nandResult_appliedView (s : State) (j : List (NvReq × Nat)) :
    (s.nandResult j).appliedView = { s.appliedView with nv := (s.nandResult j).nv } := by
  rcases nandResult_cases s j with h | ⟨r, ws, u, -, -, hu, he⟩
  · exact congrArg (fun v => AppliedView.mk v.outs v.applied (s.nandResult j).nv v.shutdown) (appliedView_of_applyView h)
  · rw [he]
    exact congrArg (fun v => AppliedView.mk v.outs v.applied (s.nv.nandFail _ _ ws) v.shutdown) (appliedView_of_applyView hu)

theorem nandResult_nv (s : State) (j : List (NvReq × Nat)) :
    (s.nandResult j).nv = s.nv ∨ ∃ r ws, (r, 0) ∈ j ∧ r.op = 4 ∧ (s.nandResult j).nv = s.nv.nandFail (r.part - 0x20) r.num ws := by
  rcases nandResult_cases s j with h | ⟨r, ws, u, hmem, hop, -, he⟩
  · exact .inl (congrArg ApplyView.nv h)
  · exact .inr ⟨r, ws, hmem, hop, by rw [he]; rfl⟩

/-- Where the store is away its requests fall away (R323). -/
theorem runStore_away (s : State) (l : Lane) (es : List OutEntry) (h : s.nvReady = false ∨ l.on R.NVS.UNAVAIL = true) :
    s.runStore l es = { s with nv := { s.nv with nandLock := s.nv.nandLock - 1, seq := [] } } := by
  unfold State.runStore
  rw [if_pos (by simpa using h)]

theorem loadNext_appliedView (s : State) (q : BitVec 16 × List Nat) :
    (s.setHub fun h => { h with outs := { h.outs with qnext := some q } }).appliedView = s.appliedView := rfl

/-- Where it is there its controller runs them, and the NAND request may fail. -/
theorem runStore_ready (s : State) (l : Lane) (es : List OutEntry) (hr : s.nvReady = true) (hu : l.on R.NVS.UNAVAIL = false) :
    (s.runStore l es).appliedView =
      (State.nandResult { s with nv := s.nv.run l.nv.patSize l.lifeCycle l.committedSlot es }
        (judge l.nv.patSize l.lifeCycle l.committedSlot s.nv.nandLock (outReqs es))).appliedView := by
  unfold State.runStore
  rw [if_neg (by simp [hr, hu])]
  dsimp only
  split
  · exact loadNext_appliedView _ _
  · rfl

/-- The requests of the frame change the store alone, and the image that the next apply instant loads. -/
theorem runStore_appliedView (s : State) (l : Lane) (es : List OutEntry) :
    (s.runStore l es).appliedView = { s.appliedView with nv := (s.runStore l es).nv } := by
  by_cases h : s.nvReady = false ∨ l.on R.NVS.UNAVAIL = true
  · rw [runStore_away s l es h]
    rfl
  · simp only [not_or, Bool.not_eq_false, Bool.not_eq_true] at h
    have hv := runStore_ready s l es h.1 h.2
    have hn := congrArg AppliedView.nv hv
    rw [nandResult_appliedView] at hv
    exact hv.trans (congrArg (fun nv => { s.appliedView with nv }) hn.symm)

theorem runStore_nv_ready (s : State) (l : Lane) (es : List OutEntry) (hr : s.nvReady = true) (hu : l.on R.NVS.UNAVAIL = false) :
    let stored := s.nv.run l.nv.patSize l.lifeCycle l.committedSlot es
    (s.runStore l es).nv = stored ∨
      ∃ r ws, (r, 0) ∈ judge l.nv.patSize l.lifeCycle l.committedSlot s.nv.nandLock (outReqs es) ∧ r.op = 4 ∧
        (s.runStore l es).nv = stored.nandFail (r.part - 0x20) r.num ws := by
  have hn : (s.runStore l es).nv = _ := congrArg AppliedView.nv (runStore_ready s l es hr hu)
  dsimp only
  rw [hn]
  exact nandResult_nv _ _

/-! ### Power, panel and reads after the outputs -/

theorem setDom_shutdown (p : Power) (n : Nat) (on : Bool) : (p.setDom n on).shutdown = p.shutdown := by
  unfold Power.setDom
  dsimp only
  split <;> rfl

theorem setDoms_shutdown (p : Power) (ns : List Nat) (on : Bool) : (p.setDoms ns on).shutdown = p.shutdown :=
  foldl_keeps Power.shutdown ns p fun p n _ => setDom_shutdown p n on

theorem panelUp_appliedView (s : State) : (panelUp s).appliedView = s.appliedView := by
  unfold panelUp
  split <;> rfl

theorem panelDown_appliedView (s : State) : (panelDown s).appliedView = s.appliedView := by
  unfold panelDown
  split <;> rfl

theorem dispPowerOff_appliedView (s : State) : (dispPowerOff s).appliedView = s.appliedView := by
  unfold dispPowerOff
  split
  · rfl
  · exact panelDown_appliedView s

theorem switchDsp_appliedView (s : State) (on : Bool) : (s.switchDsp on).appliedView = s.appliedView := by
  unfold State.switchDsp
  repeat' split
  · rfl
  · exact setPwr_appliedView s (setDom_shutdown _ _ _)
  · rw [dispPowerOff_appliedView]
    exact setPwr_appliedView s (setDom_shutdown _ _ _)

theorem craBack_appliedView (s : State) (x : LaneId) : (s.craBack x).appliedView = s.appliedView := by
  unfold State.craBack
  split
  · exact setPwr_appliedView s (setDom_shutdown _ _ _)
  · rfl

theorem setPorts_appliedView (s : State) (f : HubPorts → HubPorts) : (s.setHub fun h => h.setPorts f).appliedView = s.appliedView :=
  setHub_appliedView s rfl rfl

theorem applyPower_appliedView (s : State) : s.applyPower.appliedView = s.appliedView := by
  unfold State.applyPower
  dsimp only
  split
  · rfl
  split
  · rw [setPorts_appliedView, setPwr_appliedView, switchDsp_appliedView]
    exact setDoms_shutdown _ _ _
  have back : ((s.craBack .a).craBack .b).appliedView = s.appliedView := by rw [craBack_appliedView, craBack_appliedView]
  have redEnd : (((s.craBack .a).craBack .b).setPwr fun p => { p with redOff := false }).appliedView = s.appliedView :=
    (setPwr_appliedView _ rfl).trans back
  split <;> split <;> simp only [switchDsp_appliedView, setPorts_appliedView, redEnd]

theorem readOne_appliedView (s : State) (o : LaneId) (x : Nat) (role : SessRole) (a : Word) :
    (s.readOne o x role a).1.appliedView = s.appliedView := by
  have set (l : Lane) : (s.setLane o l).appliedView = s.appliedView := by cases o <;> rfl
  unfold State.readOne
  dsimp only
  repeat' split
  · exact set _
  · exact set _
  · refine (appliedView_of_applyView (setHub_applyView _ (Hub.still_passClear _ _ _))).trans (set _)

theorem readAll_appliedView (s : State) (o : LaneId) (x : Nat) (role : SessRole) (l : List Word) :
    (s.readAll o x role l).1.appliedView = s.appliedView := by
  induction l generalizing s with
  | nil => rfl
  | cons a l ih => exact (ih (s.readOne o x role a).1).trans (readOne_appliedView s o x role a)

theorem answerRead_appliedView (s : State) (o : LaneId) (x tag fno : Nat) (role : SessRole) (l : List Word) :
    (s.answerRead o x tag fno role l).appliedView = s.appliedView :=
  (setHub_appliedView _ rfl rfl).trans (readAll_appliedView s o x role l)

theorem answerWaits_appliedView (s : State) (o : LaneId) : (s.answerWaits o).appliedView = s.appliedView := by
  unfold State.answerWaits
  dsimp only
  rw [foldl_keeps State.appliedView _ _ fun s w _ => (setHub_appliedView _ rfl rfl).trans (answerRead_appliedView s o _ _ _ _ _)]
  exact setHub_appliedView s rfl rfl

theorem applyReads_appliedView (s : State) (mram : List Host.Cell) : (s.applyReads mram).appliedView = s.appliedView := by
  unfold State.applyReads
  cases s.server with
  | none => rfl
  | some l => exact congrArg (fun v => AppliedView.mk v.outs v.applied s.nv v.shutdown) (answerWaits_appliedView { s with nv := { s.nv with mram } } l.id)

/-! ### The outputs of a frame (00_scope.md R4, 05_touchstone.md R118) -/

/-- The outputs as the driven frame leaves them; that of no configuration leaves the quench image. -/
def OutFrame.outs (f : OutFrame) (o : Outputs) : Outputs :=
  if f.fp = 0 then o.quenched else f.entries.foldl (Outputs.entry f.fno) o

/-- The outputs as an apply instant finds them: with the image written before, a frame of every pulse gone. -/
def Outputs.begun (o : Outputs) : Outputs := o.loadImage.pulseFrame

/-- The state with `f` on the outputs. -/
def State.setOuts (s : State) (f : Outputs → Outputs) : State := s.setHub fun h => { h with outs := f h.outs }

theorem setOuts_appliedView (s : State) (f : Outputs → Outputs) :
    (s.setOuts f).appliedView = { s.appliedView with outs := (f s.hub.outs).now } := rfl

theorem quenched_now (o : Outputs) : o.quenched.now = o.now.quenched := by
  cases h : o.qvalid <;> simp [Outputs.quenched, Outputs.now, h]

/-- The levels of the plant outputs, and whose they are. -/
def Outputs.levels (o : Outputs) : BitVec 16 × List Nat × Bool × Bool := (o.dout, o.ao, o.hwoff, o.quench)

theorem entry_levels (fno : Nat) (o : Outputs) (e : OutEntry) (h : ∀ d ao, e.body ≠ .plant d ao) :
    (o.entry fno e).levels = o.levels := by
  unfold Outputs.entry
  split
  · rename_i hb
    exact absurd hb (h _ _)
  · rfl
  · rfl

/-- The last entry of the plant outputs says what they are. -/
theorem entries_levels (fno : Nat) (o : Outputs) (pre post : List OutEntry) (e : OutEntry) (d : BitVec 16) (ao : List Nat)
    (he : e.body = .plant d ao) (hpost : ∀ y ∈ post, ∀ d' a', y.body ≠ .plant d' a') :
    ((pre ++ e :: post).foldl (Outputs.entry fno) o).levels = (d, ao, false, false) := by
  rw [List.foldl_append, List.foldl_cons,
    foldl_keeps Outputs.levels post _ fun o y hy => entry_levels fno o y (hpost y hy)]
  simp only [Outputs.entry, he]
  rfl

theorem begun_levels (o : Outputs) : o.begun.levels = o.levels := by
  unfold Outputs.begun Outputs.loadImage
  split <;> rfl

/-- The image in use: one written before, or else the one loaded. -/
theorem begun_quenched (o : Outputs) (q : BitVec 16 × List Nat)
    (h : o.qnext = some q ∨ (o.qnext = none ∧ o.qvalid = true ∧ q = (o.qdo, o.qao))) :
    o.begun.quenched.levels = (q.1, q.2, false, true) := by
  rcases h with h | ⟨hn, hq, rfl⟩
  · simp [Outputs.begun, Outputs.loadImage, h, Outputs.pulseFrame, Outputs.quenched, Outputs.levels]
  · simp [Outputs.begun, Outputs.loadImage, hn, hq, Outputs.pulseFrame, Outputs.quenched, Outputs.levels]

/-- Without an image every output is inactive. -/
theorem begun_quenched_off (o : Outputs) (hn : o.qnext = none) (hq : o.qvalid = false) :
    o.begun.quenched.levels = (0, List.replicate 8 0, true, false) ∧ o.begun.quenched.pulses = List.replicate 16 0 := by
  simp [Outputs.begun, Outputs.loadImage, hn, hq, Outputs.pulseFrame, Outputs.quenched, Outputs.levels]

/-- The traffic of a frame goes out, then its requests to the store. -/
theorem driveFrame_appliedView (s : State) (l : Lane) (f : OutFrame) :
    ∃ u : State, u.applyView = (s.setOuts f.outs).applyView ∧
      (s.driveFrame l f).appliedView = (u.runStore l f.entries).appliedView := by
  refine ⟨_, ?_, rfl⟩
  rw [foldl_keeps State.applyView _ _ fun s e _ => fabEntry_applyView l.modId s e]
  refine setHub_applyView _ (foldl_keeps Hub.still _ _ fun h e _ => ?_)
  split
  · exact Hub.still_transmit _ _ _ _ _
  · rfl

theorem driveOutputs_frame (s : State) (x : LaneId) (f : OutFrame) (hd : s.drive = { lane := some x })
    (hf : (s.lane x).delivered = some f) :
    ∃ u : State, u.applyView = (s.setOuts fun o => f.outs o.begun).applyView ∧
      s.driveOutputs.appliedView = { s.appliedView with
        outs := (f.outs s.hub.outs.begun).now, nv := (u.runStore (s.lane x) f.entries).nv } := by
  obtain ⟨u, hu, hg⟩ := driveFrame_appliedView (s.setOuts Outputs.begun) (s.lane x) f
  have hv : s.driveOutputs =
      (s.setOuts Outputs.begun).driveFrame (s.lane x) f := by
    unfold State.driveOutputs
    simp only [hd, Option.bind_some, State.setHub_lane, hf, Option.map_some, Bool.false_eq_true, if_false]
    rfl
  refine ⟨u, hu, ?_⟩
  rw [hv, hg, runStore_appliedView, appliedView_of_applyView hu]
  rfl

theorem driveOutputs_held (s : State) (hd : s.drive = {}) :
    ∃ nv, s.driveOutputs.appliedView = { s.appliedView with outs := s.hub.outs.begun.now, nv } := by
  have hv : s.driveOutputs = (s.setOuts Outputs.begun).runStore { id := .a } [] := by
    unfold State.driveOutputs
    simp only [hd, Option.bind_none, Bool.false_eq_true, if_false]
    rfl
  exact ⟨_, by rw [hv, runStore_appliedView]; rfl⟩

theorem driveOutputs_quench (s : State) (hd : s.drive = { quench := true }) :
    ∃ nv, s.driveOutputs.appliedView = { s.appliedView with outs := s.hub.outs.begun.quenched.now, nv } := by
  have hv : s.driveOutputs = ((s.setOuts Outputs.begun).runStore { id := .a } []).setOuts Outputs.quenched := by
    unfold State.driveOutputs
    simp only [hd, Option.bind_none, if_true]
    rfl
  have hr := runStore_appliedView (s.setOuts Outputs.begun) { id := .a } []
  refine ⟨((s.setOuts Outputs.begun).runStore { id := .a } []).nv, ?_⟩
  rw [hv, setOuts_appliedView, quenched_now, quenched_now]
  exact congrArg (fun v => AppliedView.mk v.outs.quenched v.applied v.nv v.shutdown) hr

/-! ### The apply instant as a whole -/

/-- The state that drives its outputs: the verdict is that of this frame, and fabric and ports have gone on to the instant. -/
def State.atApply (s : State) (ok : Bool) : State :=
  (((s.setHub fun h => { h with applied := true }).pathExercise ok).drainFab 750000).applyPorts

theorem pathExercise_applyView (s : State) (ok : Bool) : (s.pathExercise ok).applyView = s.applyView := by
  unfold State.pathExercise
  split <;> rfl

/-- What the apply instant of `s` drives by. -/
def State.instantView (s : State) : ApplyView := { s.applyView with hub := { s.hub with applied := true }.still }

theorem atApply_applyView (s : State) (ok : Bool) : (s.atApply ok).applyView = s.instantView := by
  unfold State.atApply
  rw [applyPorts_applyView, drainFab_applyView, pathExercise_applyView]
  rfl

/-- Without a shutdown the power stays. -/
theorem powerStays (s : State) (h : s.pwr.shutdown = none) (p : Nat → Bool) :
    (if s.pwr.shutdown.any p then s.powerDown else s) = s := by
  simp [h]

/-- With a verdict of this frame the apply instant gives what its driven outputs give. -/
theorem applyInstant_gives (s : State) (ok : Bool) (hr : s.hub.running = true) (ha : s.hub.applied = false)
    (hv : s.ts.verdict.vfno = s.hub.fno) (v : AppliedView) (h : (s.atApply ok).driveOutputs.appliedView = v) (hs : v.shutdown = none) :
    ∃ t, exec (.applyInstant ok) s = .next t ∧ t.appliedView = v := by
  have hn : s.needVerdict = s := by
    unfold State.needVerdict
    rw [if_pos (.inr hv)]
  have hlast (mram : List Host.Cell) :
      (panelDown (panelUp ((s.atApply ok).driveOutputs.applyPower.applyReads mram))).appliedView = v := by
    rw [panelDown_appliedView, panelUp_appliedView, applyReads_appliedView, applyPower_appliedView, h]
  refine ⟨_, rfl, ?_⟩
  unfold State.applyInstant
  rw [if_neg (by simp [hr, ha]), hn]
  exact (congrArg State.appliedView (powerStays _ ((congrArg AppliedView.shutdown (hlast _)).trans hs) _)).trans (hlast _)

/-- An apply instant with a verdict of this frame, after start-up and with no shutdown. -/
structure Applies (s : State) : Prop where
  running : s.hub.running = true
  first : s.hub.applied = false
  started : s.startup = none
  verdict : s.ts.verdict.vfno = s.hub.fno
  power : s.pwr.shutdown = none

section Drive

variable {s : State}

theorem drive_lane (hst : s.startup = none) (hsd : s.pwr.shutdown = none) (x : LaneId) (f : OutFrame)
    (ho : s.ts.verdict.owner = ownerOf x) (hf : (s.lane x).delivered = some f) : s.drive = { lane := some x } := by
  cases x
  · have hf : s.laneA.delivered = some f := hf
    simp [State.drive, hst, hsd, ho, ownerOf, hf]
  · have hf : s.laneB.delivered = some f := hf
    simp [State.drive, hst, hsd, ho, ownerOf, hf]

theorem drive_held (hst : s.startup = none) (hsd : s.pwr.shutdown = none) (ho : s.ts.verdict.owner = .held) : s.drive = {} := by
  simp [State.drive, hst, hsd, ho]

theorem drive_quench (hst : s.startup = none) (hsd : s.pwr.shutdown = none) (ho : s.ts.verdict.owner = .quench) :
    s.drive = { quench := true } := by
  simp [State.drive, hst, hsd, ho]

end Drive

section AtInstant

variable {s u : State} (hu : u.applyView = s.instantView)
include hu

theorem instant_startup : u.startup = s.startup := congrArg ApplyView.startup hu
theorem instant_shutdown : u.pwr.shutdown = s.pwr.shutdown := congrArg (fun v => v.pwr.shutdown) hu
theorem instant_pwr : u.pwr = s.pwr := congrArg ApplyView.pwr hu
theorem instant_nv : u.nv = s.nv := congrArg ApplyView.nv hu
theorem instant_owner : u.ts.verdict.owner = s.ts.verdict.owner := congrArg ApplyView.owner hu
theorem instant_given (x : LaneId) : (u.lane x).given = (s.lane x).given := congrArg (fun v => v.lane x) hu
theorem instant_outs : u.hub.outs = s.hub.outs := congrArg (fun v => v.hub.outs) hu
theorem instant_applied : u.hub.applied = true := congrArg (fun v => v.hub.applied) hu

end AtInstant

namespace Applies

variable {s : State}

/-- The state that drives its outputs, and what its driven outputs `o` and its store `nv` give. -/
theorem atInstant (h : Applies s) (ok : Bool) :
    ∃ u : State, u.applyView = s.instantView ∧ ∀ (o : Outputs) (nv : NvStore),
      u.driveOutputs.appliedView = { u.appliedView with outs := o, nv } →
        ∃ t, exec (.applyInstant ok) s = .next t ∧ t.appliedView = { outs := o, applied := true, nv, shutdown := none } := by
  have hgo := applyInstant_gives s ok h.running h.first h.verdict
  have hu := atApply_applyView s ok
  generalize s.atApply ok = u at hgo hu
  refine ⟨u, hu, fun o nv hd => hgo _ (hd.trans ?_) rfl⟩
  have hsd : u.appliedView.shutdown = none := (instant_shutdown hu).trans h.power
  have hap : u.appliedView.applied = true := instant_applied hu
  dsimp only
  rw [hsd, hap]

/-- The owner's frame is driven, and its requests go to the store while it is there. -/
theorem frame_gives (h : Applies s) (ok : Bool) (x : LaneId) (f : OutFrame) (ho : s.ts.verdict.owner = ownerOf x)
    (hf : (s.lane x).delivered = some f) :
    ∃ (t u : State) (l : Lane), exec (.applyInstant ok) s = .next t ∧ u.nv = s.nv ∧ u.pwr = s.pwr ∧ l.given = (s.lane x).given ∧
      t.appliedView = { outs := (f.outs s.hub.outs.begun).now, applied := true, nv := (u.runStore l f.entries).nv, shutdown := none } := by
  obtain ⟨u, hu, hgo⟩ := h.atInstant ok
  have hf' : (u.lane x).delivered = some f := (congrArg LaneGiven.frame (instant_given hu x)).trans hf
  have hd := drive_lane ((instant_startup hu).trans h.started) ((instant_shutdown hu).trans h.power) x f ((instant_owner hu).trans ho) hf'
  obtain ⟨w, hw, hv⟩ := driveOutputs_frame u x f hd hf'
  obtain ⟨t, ht, hg⟩ := hgo _ _ hv
  rw [instant_outs hu] at hg
  have hnv : w.nv = u.nv := congrArg ApplyView.nv hw
  have hpwr : w.pwr = u.pwr := congrArg ApplyView.pwr hw
  exact ⟨t, w, u.lane x, ht, hnv.trans (instant_nv hu), hpwr.trans (instant_pwr hu), instant_given hu x, hg⟩

/-- Where no lane owns the frame the outputs hold. -/
theorem held_gives (h : Applies s) (ok : Bool) (ho : s.ts.verdict.owner = .held) :
    ∃ t nv, exec (.applyInstant ok) s = .next t ∧
      t.appliedView = { outs := s.hub.outs.begun.now, applied := true, nv, shutdown := none } := by
  obtain ⟨u, hu, hgo⟩ := h.atInstant ok
  have hd := drive_held ((instant_startup hu).trans h.started) ((instant_shutdown hu).trans h.power) ((instant_owner hu).trans ho)
  obtain ⟨nv, hv⟩ := driveOutputs_held u hd
  obtain ⟨t, ht, hg⟩ := hgo _ _ hv
  rw [instant_outs hu] at hg
  exact ⟨t, nv, ht, hg⟩

/-- The quench image is driven where it is ordered. -/
theorem ordered_gives (h : Applies s) (ok : Bool) (ho : s.ts.verdict.owner = .quench) :
    ∃ t nv, exec (.applyInstant ok) s = .next t ∧
      t.appliedView = { outs := s.hub.outs.begun.quenched.now, applied := true, nv, shutdown := none } := by
  obtain ⟨u, hu, hgo⟩ := h.atInstant ok
  have hd := drive_quench ((instant_startup hu).trans h.started) ((instant_shutdown hu).trans h.power) ((instant_owner hu).trans ho)
  obtain ⟨nv, hv⟩ := driveOutputs_quench u hd
  obtain ⟨t, ht, hg⟩ := hgo _ _ hv
  rw [instant_outs hu] at hg
  exact ⟨t, nv, ht, hg⟩

/-- The quench image is driven where it is ordered, or where the owner's frame is that of no configuration (R4). -/
theorem quench_gives (h : Applies s) (ok : Bool) (ho : s.ts.verdict.owner = .quench ∨
      ∃ x f, s.ts.verdict.owner = ownerOf x ∧ (s.lane x).delivered = some f ∧ f.fp = 0 ∧ f.entries = []) :
    ∃ t nv, exec (.applyInstant ok) s = .next t ∧
      t.appliedView = { outs := s.hub.outs.begun.quenched.now, applied := true, nv, shutdown := none } := by
  rcases ho with ho | ⟨x, f, ho, hf, hfp, -⟩
  · exact h.ordered_gives ok ho
  · obtain ⟨t, u, l, ht, -, -, -, hg⟩ := h.frame_gives ok x f ho hf
    rw [OutFrame.outs, if_pos hfp] at hg
    exact ⟨t, _, ht, hg⟩

end Applies

/-- The levels that an apply instant gives. -/
theorem levels_of_appliedView {t : State} {o : Outputs} {a : Bool} {nv : NvStore} {k : Option Nat} {d : BitVec 16} {ao : List Nat}
    {hwoff quench : Bool} (h : t.appliedView = ⟨o.now, a, nv, k⟩) (ho : o.levels = (d, ao, hwoff, quench)) :
    t.hub.applied = a ∧ t.hub.outs.dout = d ∧ t.hub.outs.ao = ao ∧ t.hub.outs.hwoff = hwoff ∧ t.hub.outs.quench = quench ∧
      t.hub.outs.pulses = o.pulses := by
  have hl : t.hub.outs.levels = (d, ao, hwoff, quench) := (congrArg (fun v => v.outs.levels) h).trans ho
  simp only [Outputs.levels, Prod.mk.injEq] at hl
  obtain ⟨hd, hao, hhw, hq⟩ := hl
  exact ⟨congrArg AppliedView.applied h, hd, hao, hhw, hq, congrArg (fun v => v.outs.pulses) h⟩

/-- A second apply instant of a frame does nothing. -/
theorem applyInstant_again (s : State) (ok : Bool) (h : s.hub.applied = true) : exec (.applyInstant ok) s = .next s := by
  have hs : s.applyInstant ok = s := by
    unfold State.applyInstant
    rw [if_pos (.inr h)]
  exact congrArg Host.Outcome.next hs

/-- A pulse in its last frame ends. -/
theorem pulseEnd_last (s : State) (n : Nat) (hr : s.hub.running = true) (ha : s.hub.applied = false)
    (hp : s.hub.outs.pulses.getD n 0 = 1) :
    exec (.pulseEnd n) s = .next (s.setOuts fun o => { o with pulses := o.pulses.set n 0 }) := by
  have ho : s.hub.outs.pulseEnd n = { s.hub.outs with pulses := s.hub.outs.pulses.set n 0 } := by
    unfold Outputs.pulseEnd
    rw [if_pos hp]
  show Host.Outcome.next (if s.hub.running && !s.hub.applied then s.setOuts fun o => o.pulseEnd n else s) = _
  rw [if_pos (by simp [hr, ha])]
  exact congrArg (fun o => Host.Outcome.next (s.setOuts fun _ => o)) ho

/-- The store after the requests of a driven frame, by the state and the lane before the instant. -/
theorem store_of_given {s u : State} {l m : Lane} (es : List OutEntry) (hnv : u.nv = s.nv) (hpwr : u.pwr = s.pwr)
    (hl : m.given = l.given) :
    (s.nvReady = true → l.on R.NVS.UNAVAIL = false →
      (u.runStore m es).nv = s.nv.run l.nv.patSize l.lifeCycle l.committedSlot es ∨
        ∃ r ws, (r, 0) ∈ judge l.nv.patSize l.lifeCycle l.committedSlot s.nv.nandLock (outReqs es) ∧ r.op = 4 ∧
          (u.runStore m es).nv = (s.nv.run l.nv.patSize l.lifeCycle l.committedSlot es).nandFail (r.part - 0x20) r.num ws) ∧
    (s.nvReady = false ∨ l.on R.NVS.UNAVAIL = true →
      (u.runStore m es).nv = { s.nv with nandLock := s.nv.nandLock - 1, seq := [] }) := by
  have hready : u.nvReady = s.nvReady := by unfold State.nvReady; rw [hpwr]
  have hun : m.on R.NVS.UNAVAIL = l.on R.NVS.UNAVAIL := congrArg LaneGiven.unavail hl
  have hsz : m.nv.patSize = l.nv.patSize := congrArg LaneGiven.sizes hl
  have hlc : m.lifeCycle = l.lifeCycle := congrArg LaneGiven.lifeCycle hl
  have hcs : m.committedSlot = l.committedSlot := congrArg LaneGiven.committed hl
  have here := runStore_nv_ready u m es
  have away (h : u.nvReady = false ∨ m.on R.NVS.UNAVAIL = true) := congrArg State.nv (runStore_away u m es h)
  rw [hready, hun, hnv] at here away
  rw [hsz, hlc, hcs] at here
  exact ⟨here, away⟩

/-- Settles O36: the state at the instant drives as `State.drive` says, and nothing of the traffic, of power, panel and
reads around it touches the outputs or the store. -/
theorem applyInstantDrives : Obligations.ApplyInstantDrives := by
  intro s ok
  refine ⟨applyInstant_again s ok, fun hr ha hst hv hsd => ?_, fun n hr ha hp => pulseEnd_last s n hr ha hp⟩
  have h : Applies s := ⟨hr, ha, hst, hv, hsd⟩
  refine ⟨fun x f pre post e d ao ho hf hfp hes he hpost => ?_, fun ho => ?_, fun ho => ⟨fun q hq => ?_, fun hn hq => ?_⟩⟩
  · obtain ⟨t, u, l, ht, hnv, hpwr, hl, hg⟩ := h.frame_gives ok x f ho hf
    have hlev : (f.outs s.hub.outs.begun).levels = (d, ao, false, false) := by
      rw [OutFrame.outs, if_neg hfp, hes]
      exact entries_levels f.fno _ pre post e d ao he hpost
    obtain ⟨happ, hdo, hao, hhw, hqu, -⟩ := levels_of_appliedView hg hlev
    have hstore : t.nv = (u.runStore l f.entries).nv := congrArg AppliedView.nv hg
    have hgo := store_of_given f.entries hnv hpwr hl
    rw [← hstore] at hgo
    exact ⟨t, ht, happ, hdo, hao, hqu, hhw, hgo⟩
  · obtain ⟨t, nv, ht, hg⟩ := h.held_gives ok ho
    obtain ⟨happ, hdo, hao, hhw, -⟩ := levels_of_appliedView hg (begun_levels _)
    exact ⟨t, ht, happ, hdo, hao, hhw⟩
  · obtain ⟨t, nv, ht, hg⟩ := h.quench_gives ok ho
    obtain ⟨happ, hdo, hao, hhw, hqu, -⟩ := levels_of_appliedView hg (begun_quenched _ q hq)
    exact ⟨t, ht, happ, hdo, hao, hqu, hhw⟩
  · obtain ⟨t, nv, ht, hg⟩ := h.quench_gives ok ho
    obtain ⟨hlev, hpul⟩ := begun_quenched_off s.hub.outs hn hq
    obtain ⟨happ, hdo, hao, hhw, -, hp⟩ := levels_of_appliedView hg hlev
    exact ⟨t, ht, happ, hhw, hdo, hao, hp.trans hpul⟩

end Sys2Proof.Machine
end

section
/-! The store of the non-volatile memories: what commands change of it, and O5. -/

namespace Sys2Proof.Machine

/-! ### Pages of the MRAM (14_nv_store.md R323, R324) -/

/-- An entry placed at a key that a filter drops is not seen through the filter. -/
theorem filter_kvInsert {α : Type} (p : Nat × α → Bool) (l : List (Nat × α)) (k : Nat) (x : α) (hp : ∀ y, p (k, y) = false) :
    (kvInsert l k x).filter p = l.filter p := by
  induction l with
  | nil => simp [kvInsert, hp]
  | cons q l ih =>
    obtain ⟨j, y⟩ := q
    unfold kvInsert
    split_ifs with h1 h2
    · rw [List.filter_cons_of_neg (by simp [hp])]
    · rw [List.filter_cons_of_neg (by simp [hp]), List.filter_cons_of_neg (by simp [h2, hp])]
    · rw [List.filter_cons, List.filter_cons, ih]

theorem filter_kvErase {α : Type} (p : Nat × α → Bool) (l : List (Nat × α)) (k : Nat) (hp : ∀ y, p (k, y) = false) :
    (kvErase l k).filter p = l.filter p := by
  induction l with
  | nil => rfl
  | cons q l ih =>
    obtain ⟨j, y⟩ := q
    unfold kvErase
    split_ifs with h
    · rw [ih, List.filter_cons_of_neg (by simp [h, hp])]
    · rw [List.filter_cons, List.filter_cons, ih]

theorem filter_kvSetD {α : Type} [DecidableEq α] (p : Nat × α → Bool) (d : Nat → α) (l : List (Nat × α)) (k : Nat) (x : α)
    (hp : ∀ y, p (k, y) = false) : (kvSetD d l k x).filter p = l.filter p := by
  unfold kvSetD
  split_ifs
  · exact filter_kvErase p l k hp
  · exact filter_kvInsert p l k x hp

/-- Bytes written within page `n` are not seen on another page. -/
theorem filter_writeCells (d : Nat → Byte) (n m : Nat) (hm : m ≠ n) (bs : List Byte) : ∀ (l : List Host.Cell) (a : Nat),
    256 * n ≤ a → a + bs.length ≤ 256 * n + 256 →
      (writeCells d l a bs).filter (fun c => decide (c.1 / 256 = m)) = l.filter fun c => decide (c.1 / 256 = m) := by
  induction bs with
  | nil => intro l a _ _; rfl
  | cons b bs ih =>
    intro l a ha hb
    rw [List.length_cons] at hb
    rw [writeCells, ih _ _ (by omega) (by omega), filter_kvSetD]
    intro y
    have hpage : a / 256 ≠ m := by omega
    simpa using hpage

theorem NvStore.page_writePage_ne (s : NvStore) (n m : Nat) (data : List Byte) (hm : m ≠ n) : (s.writePage n data).page m = s.page m := by
  have hlen : (sliceB data 0 256).length ≤ 256 := by simp [sliceB]
  have hf := filter_writeCells mramFactory n m hm (sliceB data 0 256) s.mram (256 * n) le_rfl (by omega)
  unfold NvStore.page NvStore.writePage
  simp only [hf]

/-- A store that differs from `s` at most in MRAM pages of the list `ps`. -/
def NvStore.KeepsBut (ps : List Nat) (s t : NvStore) : Prop := t.nand = s.nand ∧ ∀ n, n ∉ ps → t.page n = s.page n

theorem NvStore.KeepsBut.refl (ps : List Nat) (s : NvStore) : s.KeepsBut ps s := ⟨rfl, fun _ _ => rfl⟩

theorem NvStore.KeepsBut.trans {ps : List Nat} {s t u : NvStore} (h : s.KeepsBut ps t) (g : t.KeepsBut ps u) : s.KeepsBut ps u :=
  ⟨g.1.trans h.1, fun n hn => (g.2 n hn).trans (h.2 n hn)⟩

/-- A store with the same cells has the same pages. -/
theorem NvStore.KeepsBut.of_cells (ps : List Nat) {s t : NvStore} (hm : t.mram = s.mram) (hn : t.nand = s.nand) : s.KeepsBut ps t :=
  ⟨hn, fun n _ => by unfold NvStore.page; rw [hm]⟩

theorem NvStore.keepsBut_writePage (ps : List Nat) (s : NvStore) (n : Nat) (data : List Byte) (h : n ∈ ps) :
    s.KeepsBut ps (s.writePage n data) :=
  ⟨rfl, fun m hm => s.page_writePage_ne n m data fun e => hm (e ▸ h)⟩

/-- A fold of page writes at pages of `ps`. -/
theorem NvStore.keepsBut_foldl {α : Type} (ps : List Nat) (f : NvStore → α → NvStore) (l : List α)
    (h : ∀ t : NvStore, ∀ a ∈ l, t.KeepsBut ps (f t a)) : ∀ s : NvStore, s.KeepsBut ps (l.foldl f s) := by
  induction l with
  | nil => exact fun s => .refl ps s
  | cons a l ih =>
    exact fun s => (h s a List.mem_cons_self).trans (ih (fun t b hb => h t b (List.mem_cons_of_mem a hb)) (f s a))

/-- The pages of the write sequence. -/
def NvStore.seqPages (s : NvStore) : List Nat := s.seq.map (·.1)

theorem NvStore.tear_keeps (s : NvStore) (k : Nat) : s.KeepsBut s.seqPages (s.tear k) := by
  refine (NvStore.KeepsBut.of_cells (t := { s with seq := [] }) _ rfl rfl).trans ?_
  refine NvStore.keepsBut_foldl _ _ _ (fun t p hp => ?_) _
  split_ifs
  · exact .refl _ t
  · exact t.keepsBut_writePage _ _ _ (List.mem_map_of_mem (List.fst_mem_of_mem_zipIdx hp))

theorem NvStore.oldManifest_keeps (s : NvStore) : s.KeepsBut s.seqPages s.oldManifest :=
  NvStore.keepsBut_foldl _ _ _ (fun t _ hp => t.keepsBut_writePage _ _ _ (List.mem_map_of_mem (List.mem_of_mem_filter hp))) s

/-! ### Commands that are cut off from the store, and sequences that are cut off (14_nv_store.md R324, R340) -/

/-- The contents of both memories. -/
def NvStore.cells (s : NvStore) : List Host.Cell × List Host.Cell := (s.mram, s.nand)

/-- From `s` to `t` the memories keep their contents, or an applied frame loses pages that it writes. -/
def Spares (s t : State) : Prop :=
  t.nv.cells = s.nv.cells ∨ (s.hub.applied = true ∧ s.nv.KeepsBut s.nv.seqPages t.nv)

theorem Spares.of_nv {s t : State} (h : t.nv = s.nv) : Spares s t := .inl (congrArg NvStore.cells h)

theorem Spares.refl (s : State) : Spares s s := .of_nv rfl

/-- What follows leaves the contents. -/
theorem Spares.then {s t u : State} (h : Spares s t) (hu : u.nv.cells = t.nv.cells) : Spares s u := by
  rcases h with h | ⟨ha, h⟩
  · exact .inl (hu.trans h)
  · exact .inr ⟨ha, h.trans (.of_cells _ (congrArg Prod.fst hu) (congrArg Prod.snd hu))⟩

/-- What comes before leaves the store and the apply instant. -/
theorem Spares.after {s u t : State} (h : Spares u t) (hn : u.nv = s.nv) (ha : u.hub.applied = s.hub.applied) : Spares s t := by
  unfold Spares at h ⊢
  rwa [hn, ha] at h

theorem keepManifest_spares (s : State) : Spares s s.keepManifest := by
  unfold State.keepManifest
  dsimp only
  split_ifs with h
  · exact .inr ⟨(Bool.and_eq_true_iff.1 h).1, s.nv.oldManifest_keeps⟩
  · exact .refl s

/-- Before the apply instant there is no sequence whose manifest could not count. -/
theorem keepManifest_before (s : State) (h : s.hub.applied = false) : s.keepManifest = s := by
  unfold State.keepManifest
  simp [h]

/-- Nor is there one where nothing was written. -/
theorem keepManifest_idle (s : State) (h : s.nv.seq = []) : s.keepManifest.nv = s.nv := by
  unfold State.keepManifest
  dsimp only
  split_ifs
  · simp [NvStore.oldManifest, h]
  · rfl

theorem laneOn_nv (s : State) (x : LaneId) : (s.laneOn x).nv = s.nv := State.setLane_nv _ x _

theorem laneOff_nv (s : State) (x : LaneId) : (s.laneOff x).nv = s.nv := State.setLane_nv s x _

theorem beginRestart_nv (s : State) (trig : Nat) : (s.beginRestart trig).nv = s.keepManifest.nv := by
  unfold State.beginRestart
  dsimp only
  split
  · rfl
  · rw [laneOn_nv, laneOn_nv]

theorem beginRestart_spares (s : State) (trig : Nat) : Spares s (s.beginRestart trig) :=
  (keepManifest_spares s).then (congrArg NvStore.cells (beginRestart_nv s trig))

theorem ioFault_spares (s : State) : Spares s s.ioFault := by
  refine (keepManifest_spares s).then (congrArg NvStore.cells ?_)
  unfold State.ioFault
  dsimp only
  rw [beginRestart_nv, keepManifest_before _ rfl]

theorem tearStore_spares (s : State) : Spares s s.tearStore := by
  unfold State.tearStore
  split_ifs with h
  · exact .inr ⟨(Bool.and_eq_true_iff.1 h).1, s.nv.tear_keeps _⟩
  · exact .refl s

theorem NvStore.tear_seq (s : NvStore) (k : Nat) : (s.tear k).seq = [] :=
  foldl_keeps NvStore.seq _ _ fun t p _ => by split_ifs <;> rfl

/-- Torn or not, nothing is left of a sequence that an apply instant began. -/
theorem tearStore_manifest (s : State) : s.tearStore.keepManifest.nv = s.tearStore.nv := by
  by_cases h : s.hub.applied && !s.nv.seq.isEmpty
  · refine keepManifest_idle _ ?_
    unfold State.tearStore
    rw [if_pos h]
    exact s.nv.tear_seq _
  · have hs : s.tearStore = s := by
      unfold State.tearStore
      rw [if_neg h]
    rw [hs]
    cases ha : s.hub.applied with
    | false => rw [keepManifest_before s ha]
    | true => exact keepManifest_idle s (by simpa [ha] using h)

theorem switchToCell_spares (s : State) : Spares s s.switchToCell := by
  unfold State.switchToCell
  split_ifs
  · exact .refl s
  · refine (tearStore_spares s).then ?_
    have hp : s.tearStore.powerDown.nv.cells = s.tearStore.keepManifest.nv.cells := rfl
    rw [hp, tearStore_manifest]

theorem touchstoneLoss_nv (s : State) : s.touchstoneLoss.nv = s.nv := by
  unfold State.touchstoneLoss
  split <;> rfl

theorem laneDomFault_nv (s : State) (x : LaneId) : (s.laneDomFault x).nv = s.nv := laneOff_nv s x

theorem dispPowerOff_nv (s : State) : (dispPowerOff s).nv = s.nv := congrArg AppliedView.nv (dispPowerOff_appliedView s)

theorem domainFault_spares (s : State) (d : Domain) : Spares s (s.domainFault d) := by
  unfold State.domainFault
  split
  · exact .refl s
  · cases d with
    | bkp | cra | crb | met => exact .of_nv rfl
    | ts => exact .of_nv (touchstoneLoss_nv (s.domOff .ts))
    | la => exact .of_nv (laneDomFault_nv s .a)
    | lb => exact .of_nv (laneDomFault_nv s .b)
    | io => exact (ioFault_spares (s.domOff .io)).after rfl rfl
    | nv => exact (tearStore_spares (s.domOff .nv)).after rfl rfl
    | dsp =>
      refine .of_nv ?_
      dsimp only
      split <;> exact dispPowerOff_nv (s.domOff .dsp)

theorem clkAction_spares (s : State) (n : Nat) : Spares s (s.clkAction n) := by
  unfold State.clkAction
  split
  · exact .of_nv rfl
  split
  · exact .of_nv (touchstoneLoss_nv s)
  split
  · exact domainFault_spares s .cra
  split
  · exact domainFault_spares s .crb
  split
  · exact .of_nv (State.setPwr_nv s _)
  split
  · exact .of_nv (State.setHub_nv s _)
  split
  · exact .of_nv (State.setHub_nv s _)
  split
  · exact .of_nv (State.setHub_nv s _)
  split
  · exact .of_nv (State.setHub_nv s _)
  split
  · exact domainFault_spares s .nv
  · exact .refl s

theorem clockFailure_spares (s : State) (n : Nat) : Spares s (s.clockFailure n) := by
  unfold State.clockFailure
  split_ifs
  · exact .refl s
  · exact .of_nv rfl
  · exact .refl s
  · exact (clkAction_spares (s.setPwr _) n).after rfl rfl

/-! ### The start of a frame and the phases of a start-up -/

theorem laneRepower_nv (s : State) (x : LaneId) : (s.laneRepower x).nv = s.nv := by
  unfold State.laneRepower
  repeat' split
  · exact laneOn_nv s x
  · rfl
  · rfl

theorem tsFrame_nv (s : State) : s.tsFrame.nv = s.nv := by
  unfold State.tsFrame
  dsimp only
  rw [laneRepower_nv, laneRepower_nv]

theorem rejoin_nv (s : State) : s.rejoin.nv = s.nv := by
  unfold State.rejoin
  repeat' split
  · exact State.setLane_nv s _ _
  · rfl
  · rfl

theorem agreeKind_nv (s : State) : s.agreeKind.nv = s.nv := by
  unfold State.agreeKind
  dsimp only
  split <;> rfl

theorem startFrame_nv (s : State) : s.startFrame.nv = s.nv := by
  unfold State.startFrame
  dsimp only
  repeat' split
  · rfl
  · rfl
  · rfl
  · rfl
  · exact agreeKind_nv s

theorem readyTimeout_nv (s : State) : s.readyTimeout.nv = s.nv := by
  unfold State.readyTimeout
  split
  · repeat' split
    · exact startFrame_nv _
    · rfl
    · exact startFrame_nv _
    · rfl
    · rfl
  · refine foldl_keeps State.nv _ _ fun s x _ => ?_
    repeat' split
    all_goals rfl

theorem atK0_cells (s : State) (u : Startup) : (s.atK0 u).nv.cells = s.nv.cells := by
  have out (t : State) (x : LaneId) (r : Role) : (if r = .failed then t.laneOff x else t).nv = t.nv := by
    split
    · exact laneOff_nv t x
    · rfl
  unfold State.atK0
  dsimp only
  rw [out, out]
  exact (apply_ite NvStore.cells _ _ _).trans (ite_self _)

theorem startupFrame_cells (s : State) : s.startupFrame.nv.cells = s.nv.cells := by
  have hs : (if s.pwr.isOn 1 then s.startFrame.readyTimeout else s).nv = s.nv := by
    split
    · rw [readyTimeout_nv, startFrame_nv]
    · rfl
  unfold State.startupFrame
  generalize (if s.pwr.isOn 1 then s.startFrame.readyTimeout else s) = u at hs
  dsimp only
  rw [← hs]
  repeat' split
  · exact atK0_cells u _
  · rfl
  · rfl

theorem sampleLink_nv (s : State) (n : Nat) : (s.sampleLink n).nv = s.nv := by
  unfold State.sampleLink
  dsimp only
  split_ifs <;> rfl

theorem frameBegin_cells (s : State) (m : SupplyMeas) : (s.frameBegin m).nv.cells = s.nv.cells := by
  unfold State.frameBegin State.analogArrival
  dsimp only
  rw [State.setHub_nv, onLanes_nv, foldl_keeps State.nv _ _ fun s n _ => sampleLink_nv s n, startupFrame_cells]
  exact congrArg NvStore.cells ((rejoin_nv _).trans (tsFrame_nv _))

/-- What FRAME_START does once no restart waits (04_frame.md R86, R366). -/
def State.frameGoesOn (s : State) (m : SupplyMeas) : State :=
  if s.hub.running then s.nextFrame.frameBegin m
  else if !s.startup.any fun u => u.phase == 1 && !u.stopped then s
  else if s.mayStart then s.startFrames.frameBegin m
  else { s with startup := s.startup.map fun u => { u with waited := u.waited + 1 } }

theorem frameStart_off (s : State) (m : SupplyMeas) (h : s.pwr.off = true) : s.frameStart m = s := by
  unfold State.frameStart
  rw [if_pos h]

theorem frameStart_none (s : State) (m : SupplyMeas) (h : s.pwr.off = false) (hr : s.restartAsked = none) :
    s.frameStart m = s.frameGoesOn m := by
  unfold State.frameStart
  rw [if_neg (by simp [h]), hr]
  rfl

theorem frameStart_some (s : State) (m : SupplyMeas) (h : s.pwr.off = false) (r : RestartReq) (hr : s.restartAsked = some r) :
    s.frameStart m = (s.beginRestart r.trig).frameGoesOn m := by
  unfold State.frameStart
  rw [if_neg (by simp [h]), hr]
  rfl

theorem frameGoesOn_cells (s : State) (m : SupplyMeas) : (s.frameGoesOn m).nv.cells = s.nv.cells := by
  unfold State.frameGoesOn
  split_ifs
  · exact frameBegin_cells _ m
  · rfl
  · exact frameBegin_cells _ m
  · rfl

theorem frameStart_spares (s : State) (m : SupplyMeas) : Spares s (s.frameStart m) := by
  cases hoff : s.pwr.off with
  | true =>
    rw [frameStart_off s m hoff]
    exact .refl s
  | false =>
    cases hr : s.restartAsked with
    | none =>
      rw [frameStart_none s m hoff hr]
      exact (Spares.refl s).then (frameGoesOn_cells s m)
    | some r =>
      rw [frameStart_some s m hoff r hr]
      exact (beginRestart_spares s r.trig).then (frameGoesOn_cells _ m)

/-- `t` has the store of `s`, and its apply instant has passed where that of `s` has. -/
def Apart (s t : State) : Prop := t.nv = s.nv ∧ t.hub.applied = s.hub.applied

theorem Apart.trans {s t u : State} (h : Apart s t) (g : Apart t u) : Apart s u := ⟨g.1.trans h.1, g.2.trans h.2⟩

theorem setLane_apart (s : State) (x : LaneId) (l : Lane) : Apart s (s.setLane x l) :=
  ⟨State.setLane_nv s x l, congrArg Hub.applied (State.setLane_hub s x l)⟩

theorem testPhase_apart (s : State) (x : LaneId) (e : LaneStart) : Apart s (s.testPhase x e) := by
  unfold State.testPhase
  dsimp only
  split_ifs
  all_goals exact setLane_apart s x _

theorem lanePhase_apart (s : State) (x : LaneId) (e : LaneStart) : Apart s (s.lanePhase x e) := by
  unfold State.lanePhase
  dsimp only
  split_ifs
  · exact setLane_apart s x _
  · exact setLane_apart s x _
  · exact setLane_apart s x _
  · exact setLane_apart s x _
  · exact testPhase_apart s x e
  · exact ⟨rfl, rfl⟩

theorem bothPhases_apart (s : State) (n : Nat) (a b : LaneStart) : Apart s (s.bothPhases n a b) := by
  have one (t : State) (x : LaneId) (e : LaneStart) (c : Prop) [Decidable c] : Apart t (if c then t.lanePhase x e else t) := by
    split
    · exact lanePhase_apart t x e
    · exact ⟨rfl, rfl⟩
  exact (one s .a a _).trans (one _ .b b _)

theorem noLane_spares (s : State) : Spares s s.noLane := by
  unfold State.noLane
  dsimp only
  split_ifs
  · exact .of_nv (by dsimp only; rw [laneOff_nv, laneOff_nv])
  · exact beginRestart_spares s 8
  · exact .refl s

theorem firstDsp_nv (s : State) : s.firstDsp.nv = s.nv := by
  unfold State.firstDsp
  dsimp only
  split_ifs <;> rfl

theorem modulePhase_spares (s : State) (u : Startup) (tsOk : Bool) (a b : LaneStart) : Spares s (s.modulePhase u tsOk a b) := by
  have phases (n : Nat) := (bothPhases_apart s n a b).1
  unfold State.modulePhase
  dsimp only
  split
  · exact .refl s
  split
  · exact .refl s
  split
  · refine .of_nv ?_
    split <;> rfl
  split
  · refine .of_nv ?_
    split
    · rfl
    · unfold State.nextPhase
      dsimp only
      rw [laneOn_nv, laneOn_nv]
      split <;> rfl
  split
  · exact .of_nv (phases 3)
  split
  · refine .of_nv ?_
    split
    · exact (bothPhases_apart _ 4 a b).1
    · exact phases 4
  split
  · refine .of_nv ?_
    have hf := (firstDsp_nv _).trans (phases 5)
    split <;> exact hf
  · obtain ⟨hn, ha⟩ := bothPhases_apart s 6 a b
    exact (noLane_spares _).after hn ha

theorem phaseEnd_spares (s : State) (lane : Option LaneId) (tsOk : Bool) (a b : LaneStart) :
    Spares s (s.phaseEnd lane tsOk a b) := by
  unfold State.phaseEnd
  split
  · split
    · exact .refl s
    · obtain ⟨hn, ha⟩ := lanePhase_apart s ‹_› (if ‹LaneId› = .a then a else b)
      exact (noLane_spares _).after hn ha
  · split
    · exact modulePhase_spares s _ tsOk a b
    · exact .refl s

end Sys2Proof.Machine
end

section
/-! Commands that leave the store as it is, and O5. -/

namespace Sys2Proof.Machine

/-! ### Commands that leave the store as it is -/

section
variable (s : State)

theorem compare_nv : s.compare.nv = s.nv := by
  unfold State.compare
  split_ifs <;> rfl

theorem drainFab_nv (t : Int) : (s.drainFab t).nv = s.nv := congrArg ApplyView.nv (drainFab_applyView s t)
theorem pumpAt_nv (t : Int) : (s.pumpAt t).nv = s.nv := congrArg ApplyView.nv (pumpAt_applyView s t)
theorem egDown_nv : s.egDown.nv = s.nv := congrArg ApplyView.nv (egDown_applyView s)
theorem route_nv (dst : Nat) (t : Int) (b : List Byte) : (s.route dst t b).nv = s.nv := congrArg ApplyView.nv (route_applyView s dst t b)
theorem drawWords_nv (n : Nat) : (s.drawWords n).2.nv = s.nv := congrArg ApplyView.nv (drawWords_applyView n s)
theorem panelUp_nv : (panelUp s).nv = s.nv := congrArg AppliedView.nv (panelUp_appliedView s)
theorem panelDown_nv : (panelDown s).nv = s.nv := congrArg AppliedView.nv (panelDown_appliedView s)
theorem answerRead_nv (o : LaneId) (x tag fno : Nat) (role : SessRole) (l : List Word) :
    (s.answerRead o x tag fno role l).nv = s.nv := congrArg AppliedView.nv (answerRead_appliedView s o x tag fno role l)

/-! ### The input instant and the deliveries -/

theorem takeRole_nv (x : LaneId) (r : Role) : (s.takeRole x r).nv = s.nv := by
  unfold State.takeRole
  split
  · rfl
  · split
    · exact onLane_nv x _ s
    · exact onLane_nv x _ s
    · exact laneOff_nv s x
    · exact laneOff_nv s x
    · rfl

theorem takeRoles_nv (v : Verdict) : (s.takeRoles v).nv = s.nv := by
  have hr := (takeRole_nv (s.takeRole .a v.roleA) .b v.roleB).trans (takeRole_nv s .a v.roleA)
  unfold State.takeRoles
  generalize (s.takeRole .a v.roleA).takeRole .b v.roleB = u at hr
  dsimp only
  split <;> exact hr

theorem catchUp_nv : s.catchUp.nv = s.nv := by
  unfold State.catchUp
  cases s.ts.transfer with
  | none => rfl
  | some x =>
    dsimp only
    split
    · rfl
    · exact onRunningLane_nv _ _ s

theorem panelRequests_nv : (panelRequests s).nv = s.nv := by
  have up (t : State) (c : Bool) : (if c then panelUp t else t).nv = t.nv := by
    split
    · exact panelUp_nv t
    · rfl
  unfold panelRequests
  split
  · rfl
  · exact up _ _

theorem fabServo_nv : s.fabServo.nv = s.nv := by
  unfold State.fabServo
  split <;> rfl

theorem sendAnswers_nv (l : Lane) : (s.sendAnswers l).nv = s.nv :=
  foldl_keeps State.nv _ _ fun s a _ => by split <;> rfl

theorem sendEvents_nv (l : Lane) : (s.sendEvents l).nv = s.nv := rfl

theorem handSalts_nv (l : Lane) : (s.handSalts l).nv = s.nv := by
  unfold State.handSalts
  dsimp only
  split
  · rfl
  · exact (drawWords_nv _ 2).trans (drawWords_nv s 4)

theorem afterSteps_nv (f : InputFrame) : (s.afterSteps f).nv = s.nv := by
  have hd : ((panelRequests s).drainFab 40000).nv = s.nv := (drainFab_nv _ _).trans (panelRequests_nv s)
  have go (u : State) (l : Lane) : (((u.fabServo.sendAnswers l).sendEvents l).handSalts l).nv = u.nv := by
    rw [handSalts_nv, sendEvents_nv, sendAnswers_nv, fabServo_nv]
  unfold State.afterSteps
  generalize (panelRequests s).drainFab 40000 = u at hd
  dsimp only
  split
  · exact hd
  · split
    · exact hd
    · exact (go _ _).trans hd

theorem inputInstant_nv (lossA lossB : Bool) : (s.inputInstant lossA lossB).nv = s.nv := by
  unfold State.inputInstant
  split
  · rfl
  · split
    · rfl
    · dsimp only
      rw [afterSteps_nv, State.setTs_nv, catchUp_nv]
      exact takeRoles_nv s _

theorem outputFrameDelivery_nv (x : LaneId) (d : Delivery) : (s.outputFrameDelivery x d).nv = s.nv := by
  unfold State.outputFrameDelivery
  split
  · rfl
  · split_ifs <;> exact onLane_nv x _ s

theorem deadlineMiss_nv (x : LaneId) (why : Lateness) (ttFail : Bool) : (s.deadlineMiss x why ttFail).nv = s.nv := by
  unfold State.deadlineMiss
  split
  · rfl
  · exact onLane_nv x _ s

/-! ### Arrivals -/

theorem assayReported_nv (t : Int) (r : AssayReport) : (s.assayReported t r).nv = s.nv := by
  have hr : (if r.typ = 1 then onRunningLane r.lane (fun l => l.ownRepair r.array (r.addr / arrayRow r.array)) s else s).nv = s.nv := by
    split
    · exact onRunningLane_nv _ _ s
    · rfl
  unfold State.assayReported
  generalize (if r.typ = 1 then onRunningLane r.lane (fun l => l.ownRepair r.array (r.addr / arrayRow r.array)) s else s) = u at hr
  dsimp only
  split <;> exact hr

theorem verReported_nv (t : Int) (a b : VerFault) : (s.verReported t a b).nv = s.nv := by
  unfold State.verReported
  split <;> rfl

theorem canDataRate_nv (n : Nat) (data : List Byte) : (s.canDataRate n data).nv = s.nv := by
  unfold State.canDataRate
  dsimp only
  repeat' split
  all_goals rfl

theorem portUnitIn_nv (src : Nat) (t : Int) (data : List Byte) : (s.portUnitIn src t data).nv = s.nv := by
  unfold State.portUnitIn
  split
  · rfl
  split
  · rfl
  split
  · exact canDataRate_nv s _ data
  split
  · rfl
  split
  · dsimp only
    split <;> rfl
  split
  · rfl
  split <;> rfl

theorem arrivalComplete_nv (src : Nat) (t : Int) (c : ArrContent) : (s.arrivalComplete src t c).nv = s.nv := by
  unfold State.arrivalComplete
  split
  · rfl
  · cases c with
    | met w =>
      dsimp only
      split <;> rfl
    | lane r =>
      dsimp only
      split
      · rfl
      · cases r with
        | assay r => exact assayReported_nv s t r
        | verification a b => exact verReported_nv s t {} {}
        | _ => dsimp only; split <;> rfl
    | port b =>
      dsimp only
      split
      · rfl
      · cases b with
        | unit stn data => exact (pumpAt_nv _ t).trans (portUnitIn_nv s src t data)
        | adu conn svc data => dsimp only; cases s.active <;> rfl
        | _ => exact pumpAt_nv _ t

theorem closeFrame_nv : s.closeFrame.nv = s.nv := by
  unfold State.closeFrame
  split <;> rfl

theorem readCalendar_nv : s.readCalendar.nv = s.nv := by
  unfold State.readCalendar
  split <;> rfl

/-! ### Sessions and ports -/

theorem closeSession_nv (x : Nat) : (s.closeSession x).nv = s.nv := by
  unfold State.closeSession
  split <;> rfl

theorem onSession_nv (x : Nat) (f : Lane → Session → State → State) (hf : ∀ l t (u : State), (f l t u).nv = u.nv) :
    (s.onSession x f).nv = s.nv := by
  unfold State.onSession
  split
  · exact hf _ _ _
  · rfl

theorem writeTrans_nv (x tag : Nat) (t : Int) (es : List WriteEntry) (entropy : List Byte) :
    (s.writeTrans x tag t es entropy).nv = s.nv :=
  onSession_nv s x _ fun _ _ _ => by
    dsimp only
    split_ifs <;> rfl

theorem readTrans_nv (x tag : Nat) (addrs : List Word) : (s.readTrans x tag addrs).nv = s.nv :=
  onSession_nv s x _ fun l ss u => by
    dsimp only
    split
    · rfl
    · exact answerRead_nv u l.id x tag 0 ss.role addrs

theorem readFrame_nv (x tag : Nat) (addrs : List Word) : (s.readFrame x tag addrs).nv = s.nv :=
  onSession_nv s x _ fun _ _ _ => by
    dsimp only
    split <;> rfl

theorem subscribe_nv (x : Nat) (mask : BitVec 256) : (s.subscribe x mask).nv = s.nv := onSession_nv s x _ fun _ _ _ => rfl

theorem keepalive_nv (x : Nat) : (s.keepalive x).nv = s.nv := onSession_nv s x _ fun _ _ _ => rfl

theorem openSession_nv (x port : Nat) (c : ClientCert) : (s.openSession x port c).nv = s.nv := by
  unfold State.openSession
  repeat' split
  all_goals rfl

theorem idleTimeout_nv (x : Nat) : (s.idleTimeout x).nv = s.nv := by
  unfold State.idleTimeout
  repeat' split
  · exact closeSession_nv s x
  · rfl
  · rfl

theorem pageTrans_nv (x tag idx : Nat) (data : List Byte) : (s.pageTrans x tag idx data).nv = s.nv := by
  unfold State.pageTrans
  split
  · split
    · rfl
    · exact closeSession_nv s x
  · refine onSession_nv s x _ fun _ _ _ => ?_
    dsimp only
    split_ifs <;> rfl

/-- Outside recovery an image page is handed over, not stored. -/
theorem imagePage_nv (x tag idx : Nat) (data : List Byte) (h : s.recovery = false) : (s.imagePage x tag idx data).nv = s.nv := by
  unfold State.imagePage
  rw [if_neg (by simp [h])]
  exact pageTrans_nv s x tag idx data

/-- A lane that serves sessions runs, so there is no recovery. -/
theorem recovery_of_server {l : Lane} (h : s.server = some l) : s.recovery = false := by
  obtain ⟨hl, hr⟩ := Option.filter_eq_some_iff.1 h
  obtain ⟨x, -, rfl⟩ := Option.map_eq_some_iff.1 hl
  cases x with
  | a =>
    have hr : s.laneA.running = true := hr
    simp [State.recovery, hr]
  | b =>
    have hr : s.laneB.running = true := hr
    simp [State.recovery, hr]

theorem linkMessage_nv (x : Nat) (t : Int) (b : List Byte) (h : s.recovery = false) : (s.linkMessage x t b).nv = s.nv := by
  unfold State.linkMessage
  dsimp only
  split
  · exact closeSession_nv s x
  split
  · split
    · split
      · exact closeSession_nv s x
      · exact (writeTrans_nv _ _ _ _ _ _).trans (drawWords_nv s 12)
    · exact closeSession_nv s x
  split
  · split
    · exact closeSession_nv s x
    · split
      · exact readFrame_nv s _ _ _
      · exact readTrans_nv s _ _ _
  split
  · split
    · exact subscribe_nv s x 0
    · split
      · exact subscribe_nv s x _
      · exact closeSession_nv s x
  split
  · split
    · exact imagePage_nv s _ _ _ _ h
    · exact closeSession_nv s x
  split
  · exact keepalive_nv s x
  · exact closeSession_nv s x

theorem ethIn_nv (l : Lane) (n : Nat) (t : Int) (f : EthFrame) (h : s.recovery = false) : (s.ethIn l n t f).nv = s.nv := by
  unfold State.ethIn
  cases f with
  | tcp svc c data =>
    by_cases h4 : svc = 4
    · simp only [h4, if_true]
      split
      · rfl
      · exact linkMessage_nv s c t data h
    · simp only [h4, if_false]
      split
      · rfl
      · split
        · rfl
        · exact pumpAt_nv _ t
  | tcpClose svc c =>
    by_cases h4 : svc = 4
    · simp only [h4, if_true]
      split
      · rfl
      · exact closeSession_nv s c
    · simp only [h4, if_false]
      split <;> rfl
  | udp data =>
    dsimp only
    split <;> rfl
  | ptp =>
    dsimp only
    split <;> rfl
  | arp | icmpEcho | other => rfl

theorem ethernetFrameReceive_keeps (port : Nat) (t : Int) (f : EthFrame) :
    ∃ u, exec (.ethernetFrameReceive port t f) s = .next u ∧ u.nv = s.nv := by
  refine ⟨_, rfl, ?_⟩
  cases hl : s.server with
  | none => rfl
  | some l =>
    dsimp only
    split
    · exact ethIn_nv s l port t f (recovery_of_server s hl)
    · rfl

theorem ethLink_nv (n speed : Nat) : (s.ethLink n speed).nv = s.nv := by
  unfold State.ethLink
  split_ifs <;> rfl

theorem timerDue_nv (src stn : Nat) : (s.timerDue src stn).nv = s.nv := by
  unfold State.timerDue
  cases s.active with
  | none => rfl
  | some l => exact pumpAt_nv _ 750000

theorem rs485In_nv (n : Nat) (t : Int) (b : List Byte) : (s.rs485In n t b).nv = s.nv := by
  unfold State.rs485In
  split
  · rfl
  · split_ifs
    · rfl
    · rfl
    · rfl
    · exact (pumpAt_nv _ t).trans (portUnitIn_nv s _ t b)

theorem acceptConn_nv (num svc port : Nat) (tls : Bool) (cert : ClientCert) : (s.acceptConn num svc port tls cert).nv = s.nv := by
  unfold State.acceptConn
  split
  · rfl
  · dsimp only
    generalize (if svc = 2 then 8 else 4) = room
    split <;> rfl

theorem onCan_nv (n : Nat) (f : CanPort → CanPort) (report : Bool) : (s.onCan n f report).nv = s.nv := by
  unfold State.onCan
  split <;> rfl

theorem onMb_nv (n : Nat) (f : MbusPort → MbusPort) : (s.onMb n f).nv = s.nv := by
  unfold State.onMb
  split <;> rfl

theorem cageOn_nv (n : Nat) : (s.cageOn n).nv = s.nv := by
  unfold State.cageOn
  split <;> rfl

theorem fabIn_nv (own n : Nat) (stamp : Int) (b : List Byte) : (s.fabIn own n stamp b).nv = s.nv := by
  unfold State.fabIn
  dsimp only
  split
  · rfl
  split
  · rfl
  split
  · rfl
  · rw [route_nv]
    split <;> rfl

theorem onReader_nv (reader : Nat) (f : Lane → Lane) : (s.onReader reader f).nv = s.nv := by
  unfold State.onReader
  repeat' split
  · rfl
  · exact onLane_nv _ f s
  · rfl

theorem debugAccess_nv (x : LaneId) (op : DebugOp) : (s.debugAccess x op).nv = s.nv := by
  unfold State.debugAccess
  split
  · exact onLane_nv x _ s
  · rfl

/-! ### Time and display -/

theorem ptpMessage_nv (m : PtpMsg) : (s.ptpMessage m).nv = s.nv := by
  unfold State.ptpMessage
  split
  · rfl
  · split
    · rfl
    · exact State.setLane_nv s _ _

theorem ptpInterval_nv (k : PtpKind) : (s.ptpInterval k).nv = s.nv := by
  unfold State.ptpInterval
  split
  · rfl
  · split
    · rfl
    · exact State.setLane_nv s _ _

theorem txStamp_nv (e : TsEntry) : (s.txStamp e).nv = s.nv := by
  unfold State.txStamp
  split
  · rfl
  · dsimp only
    split <;> exact State.setLane_nv s _ _

theorem servoTimer_nv (f : LocalClock → ServoCfg → LocalClock) : (s.servoTimer f).nv = s.nv := by
  unfold State.servoTimer
  cases s.active <;> rfl

theorem renderComplete_nv : (renderComplete s).nv = s.nv := by
  unfold renderComplete
  dsimp only
  repeat' split
  all_goals rfl

theorem verticalBlank_nv : (verticalBlank s).nv = s.nv := by
  unfold verticalBlank
  dsimp only
  split <;> rfl

theorem refreshCheck_nv (crc : Word) : (refreshCheck crc s).nv = s.nv := by
  unfold refreshCheck
  dsimp only
  repeat' split
  all_goals rfl

theorem displayStale_nv : (displayStale s).nv = s.nv := by
  unfold displayStale
  dsimp only
  split <;> rfl

theorem railFault_nv (rail : Nat) : (railFault rail s).nv = s.nv := by
  unfold railFault
  dsimp only
  split
  · rfl
  · split <;> rfl

theorem railRetry_nv : (railRetry s).nv = s.nv := by
  unfold railRetry
  dsimp only
  split
  · rfl
  · exact panelUp_nv _

theorem stringFault_nv (n : Nat) (short : Bool) : (stringFault n short s).nv = s.nv := by
  unfold stringFault
  dsimp only
  split <;> rfl

theorem domainRepower_nv (d : Domain) : (s.domainRepower d).nv = s.nv := by
  unfold State.domainRepower
  dsimp only
  split
  · rfl
  · cases d with
    | met => dsimp only; split <;> rfl
    | nv => dsimp only; split <;> rfl
    | _ => rfl

theorem powerReturn_nv : s.powerReturn.nv = s.nv := by
  unfold State.powerReturn
  split <;> rfl

theorem switchToVdd_nv : s.switchToVdd.nv = s.nv := by
  unfold State.switchToVdd
  split <;> rfl

theorem unlockBackup_nv : s.unlockBackup.nv = s.nv := by
  unfold State.unlockBackup
  split <;> rfl

end

/-! ### The commands -/

/-- Commands by which the contents of the store may change. -/
def mayStore : Instr → Bool
  | .applyInstant _ | .page .. | .ucmdPromote _ => true
  | .frameStart _ | .startupPhaseEnd .. | .domainFault _ | .clockFailure _ | .backupSwitchToCell => true
  | _ => false

theorem ite_nv {s t : State} (p : Prop) [Decidable p] (h : t.nv = s.nv) : (if p then t else s).nv = s.nv := by
  split
  · exact h
  · rfl

/-- Every other command leaves the store as it is: the rows named here by the lemma of their meaning, the rest by their
definition, which writes the lanes, the hub, Touchstone, the supplies or the calendar alone. -/
theorem exec_keeps_nv (c : Instr) (s : State) (h : mayStore c = false) : ∃ t, exec c s = .next t ∧ t.nv = s.nv := by
  cases c
  case applyInstant | page | ucmdPromote | frameStart | startupPhaseEnd | domainFault | clockFailure | backupSwitchToCell =>
    exact absurd h (by simp [mayStore])
  case arrivalComplete src t b => exact ⟨_, rfl, arrivalComplete_nv s src t b⟩
  case inputFrameClose => exact ⟨_, rfl, closeFrame_nv s⟩
  case inputInstant a b => exact ⟨_, rfl, inputInstant_nv s a b⟩
  case solveComputationEnd x us => exact ⟨_, rfl, ite_nv _ (onLane_nv x _ s)⟩
  case dispatchComputationEnd x us => exact ⟨_, rfl, ite_nv _ (onLane_nv x _ s)⟩
  case engineTrap x eng code pc => exact ⟨_, rfl, ite_nv _ (onRunningLane_nv x _ s)⟩
  case adjacencyTimeout | pulseEnd | canRecover | mbusRestart => exact ⟨_, rfl, ite_nv _ rfl⟩
  case railWrite o n w => exact ⟨_, rfl, ite_nv _ rfl⟩
  case quenchImageWrite o n w =>
    refine ⟨_, rfl, ?_⟩
    split
    · rfl
    · exact ite_nv _ rfl
  case uncorrectableError x => exact ⟨_, rfl, onRunningLane_nv x _ s⟩
  case watchdogExpiry x eng => exact ⟨_, rfl, onRunningLane_nv x _ s⟩
  case outputFrameDelivery x d => exact ⟨_, rfl, outputFrameDelivery_nv s x d⟩
  case deadlineMiss m => exact ⟨_, rfl, deadlineMiss_nv s _ _ _⟩
  case compare => exact ⟨_, rfl, ite_nv _ (compare_nv s)⟩
  case touchstoneLoss => exact ⟨_, rfl, touchstoneLoss_nv s⟩
  case assayReport r => exact ⟨_, rfl, assayReported_nv s 0 r⟩
  case verificationReport a b => exact ⟨_, rfl, verReported_nv s 0 a b⟩
  case laneRepower x => exact ⟨_, rfl, laneRepower_nv s x⟩
  case startFrame => exact ⟨_, rfl, startFrame_nv s⟩
  case laneReadyTimeout => exact ⟨_, rfl, readyTimeout_nv s⟩
  case domainRepower d => exact ⟨_, rfl, domainRepower_nv s d⟩
  case powerReturn => exact ⟨_, rfl, powerReturn_nv s⟩
  case backupSwitchToVdd => exact ⟨_, rfl, switchToVdd_nv s⟩
  case backupUnlock => exact ⟨_, rfl, unlockBackup_nv s⟩
  case errcRead x page => exact ⟨_, rfl, onSession_nv s x _ fun l ss u => answerRead_nv u l.id x 0 0 ss.role _⟩
  case writeTransaction x tag t es en => exact ⟨_, rfl, writeTrans_nv s x tag t es en⟩
  case readTransaction x tag as => exact ⟨_, rfl, readTrans_nv s x tag as⟩
  case frameConsistentRead x tag as => exact ⟨_, rfl, readFrame_nv s x tag as⟩
  case subscribe x mask => exact ⟨_, rfl, subscribe_nv s x mask⟩
  case keepalive x => exact ⟨_, rfl, keepalive_nv s x⟩
  case sessionOpen x port cert => exact ⟨_, rfl, openSession_nv s x port cert⟩
  case sessionIdleTimeout x => exact ⟨_, rfl, idleTimeout_nv s x⟩
  case sessionProtocolError x | sessionClose x => exact ⟨_, rfl, closeSession_nv s x⟩
  case debugAccess x op => exact ⟨_, rfl, debugAccess_nv s x op⟩
  case ethernetFrameReceive port t f => exact ethernetFrameReceive_keeps s port t f
  case ethernetLinkChange port speed => exact ⟨_, rfl, ethLink_nv s port speed⟩
  case portRequestTimeout src stn => exact ⟨_, rfl, timerDue_nv s src stn⟩
  case canReceiveTimeout port stn => exact ⟨_, rfl, ite_nv _ (timerDue_nv s _ stn)⟩
  case rs485AduEnd port t data => exact ⟨_, rfl, rs485In_nv s port t data⟩
  case modbusConnect conn reply =>
    refine ⟨_, rfl, ?_⟩
    split
    · exact ite_nv _ rfl
    · rfl
  case serverConnectionAccept conn svc port tls cert => exact ⟨_, rfl, acceptConn_nv s conn svc port tls cert⟩
  case canBusOff port =>
    refine ⟨_, rfl, ?_⟩
    dsimp only
    split <;> exact onCan_nv s port _ true
  case canRecoveryComplete port => exact ⟨_, rfl, onCan_nv s port _ true⟩
  case autobaudRateSwitch port => exact ⟨_, rfl, onCan_nv s port _ false⟩
  case autobaudLock port => exact ⟨_, rfl, onCan_nv s port _ true⟩
  case mbusOvercurrent port ibus => exact ⟨_, rfl, onMb_nv s port _⟩
  case mbusRepower port => exact ⟨_, rfl, onMb_nv s port _⟩
  case linkStateChange link cage block => exact ⟨_, rfl, egDown_nv _⟩
  case sfpCageRetry link => exact ⟨_, rfl, cageOn_nv s link⟩
  case fabricFrameReceive link stamp data => exact ⟨_, rfl, ite_nv _ (fabIn_nv s _ link stamp data)⟩
  case calendarReading => exact ⟨_, rfl, readCalendar_nv s⟩
  case calendarShadowFreeze r => exact ⟨_, rfl, onReader_nv s r _⟩
  case calendarShadowRelease r => exact ⟨_, rfl, onReader_nv s r _⟩
  case ptpMessage m => exact ⟨_, rfl, ptpMessage_nv s m⟩
  case ptpMessageInterval k => exact ⟨_, rfl, ptpInterval_nv s k⟩
  case announceReceiptTimeout =>
    refine ⟨_, rfl, ?_⟩
    cases s.ptpLane with
    | none => rfl
    | some l => exact State.setLane_nv s _ _
  case txTimestamp port ident ns => exact ⟨_, rfl, txStamp_nv s _⟩
  case sampleTimeout => exact ⟨_, rfl, servoTimer_nv s _⟩
  case holdoverTimeout => exact ⟨_, rfl, servoTimer_nv s _⟩
  case renderComplete => exact ⟨_, rfl, renderComplete_nv s⟩
  case verticalBlank => exact ⟨_, rfl, verticalBlank_nv s⟩
  case refreshCrcCheck crc => exact ⟨_, rfl, refreshCheck_nv s crc⟩
  case displayStale => exact ⟨_, rfl, displayStale_nv s⟩
  case panelPowerUp => exact ⟨_, rfl, panelUp_nv s⟩
  case panelPowerDown => exact ⟨_, rfl, panelDown_nv s⟩
  case railFault rail => exact ⟨_, rfl, railFault_nv s rail⟩
  case railRetry => exact ⟨_, rfl, railRetry_nv s⟩
  case backlightStringFault n short => exact ⟨_, rfl, stringFault_nv s n short⟩
  all_goals exact ⟨_, rfl, rfl⟩

/-- Settles O5: outside the apply instant and recovery, the commands that may reach the store at all cut off or undo a
sequence that the applied frame writes. -/
theorem storeChangesOnlyAtApply : Obligations.StoreChangesOnlyAtApply := by
  intro c s t ht hne
  have moved (h : t.nv = s.nv) : False := by simp [h] at hne
  have cut (u : State) (hu : exec c s = .next u) (h : Spares s u) :
      s.hub.applied = true ∧ t.nv.nand = s.nv.nand ∧ ∀ n, (∀ p ∈ s.nv.seq, p.1 ≠ n) → t.nv.page n = s.nv.page n := by
    obtain rfl : u = t := Host.Outcome.next.inj (hu.symm.trans ht)
    rcases h with h | ⟨ha, hnand, hpages⟩
    · have hm : u.nv.mram = s.nv.mram := congrArg Prod.fst h
      have hn : u.nv.nand = s.nv.nand := congrArg Prod.snd h
      simp [hm, hn] at hne
    · refine ⟨ha, hnand, fun n hn => hpages n fun hmem => ?_⟩
      obtain ⟨p, hp, rfl⟩ := List.mem_map.1 hmem
      exact hn p hp rfl
  cases hc : mayStore c with
  | false =>
    obtain ⟨u, hu, hnv⟩ := exec_keeps_nv c s hc
    obtain rfl : u = t := Host.Outcome.next.inj (hu.symm.trans ht)
    exact (moved hnv).elim
  | true =>
    cases c
    case applyInstant ok => exact .inl ⟨ok, rfl⟩
    case page x tag i b =>
      cases hr : s.recovery with
      | true => exact .inr (.inl ⟨rfl, .inl ⟨x, tag, i, b, rfl⟩⟩)
      | false =>
        refine (moved ?_).elim
        rw [← Host.Outcome.next.inj ht]
        exact imagePage_nv s x tag i b hr
    case ucmdPromote o =>
      cases hr : s.recovery with
      | true => exact .inr (.inl ⟨rfl, .inr ⟨o, rfl⟩⟩)
      | false =>
        refine (moved ?_).elim
        rw [← Host.Outcome.next.inj ht, if_neg (by simp [hr])]
        rfl
    case frameStart m => exact .inr (.inr (cut _ rfl (frameStart_spares s m)))
    case startupPhaseEnd x ok a b => exact .inr (.inr (cut _ rfl (phaseEnd_spares s x ok a b)))
    case domainFault d => exact .inr (.inr (cut _ rfl (domainFault_spares s d)))
    case clockFailure n => exact .inr (.inr (cut _ rfl (clockFailure_spares s n)))
    case backupSwitchToCell => exact .inr (.inr (cut _ rfl (switchToCell_spares s)))
    all_goals exact nomatch hc

end Sys2Proof.Machine
end

section
/-! Ordered insertion, the quotas of the sources, and O29. -/

namespace Sys2Proof.Machine

/-! ### Insertion before the first later element -/

section
variable {α : Type}

/-- `a` before the first element that `later` holds of. -/
def insertBy (later : α → Bool) (a : α) : List α → List α
  | [] => [a]
  | b :: l => if later b then a :: b :: l else b :: insertBy later a l

theorem insertBy_perm (later : α → Bool) (a : α) (l : List α) : (insertBy later a l).Perm (a :: l) := by
  induction l with
  | nil => exact .refl _
  | cons b l ih =>
    unfold insertBy
    split
    · exact .refl _
    · exact (ih.cons b).trans (.swap a b l)

/-- An insertion where the order asks for it keeps the order. -/
theorem insertBy_pairwise {R : α → α → Prop} (htr : ∀ x y z, R x y → R y z → R x z) (later : α → Bool) (a : α)
    (hbefore : ∀ b, later b = true → R a b) (hafter : ∀ b, later b = false → R b a) (l : List α) (h : l.Pairwise R) :
    (insertBy later a l).Pairwise R := by
  induction l with
  | nil => exact List.pairwise_singleton R a
  | cons b l ih =>
    obtain ⟨hb, hl⟩ := List.pairwise_cons.1 h
    unfold insertBy
    split
    next hlate =>
      refine List.pairwise_cons.2 ⟨fun c hc => ?_, h⟩
      rcases List.mem_cons.1 hc with rfl | hc
      · exact hbefore _ hlate
      · exact htr a b c (hbefore b hlate) (hb c hc)
    next hearly =>
      refine List.pairwise_cons.2 ⟨fun c hc => ?_, ih hl⟩
      rcases List.mem_cons.1 ((insertBy_perm later a l).mem_iff.1 hc) with rfl | hc
      · exact hafter b (by simpa using hearly)
      · exact hb c hc

/-- What a filter drops is not seen to be inserted. -/
theorem filter_insertBy_neg (p : α → Bool) (later : α → Bool) (a : α) (l : List α) (h : p a = false) :
    (insertBy later a l).filter p = l.filter p := by
  induction l with
  | nil => simp [insertBy, h]
  | cons b l ih =>
    unfold insertBy
    split
    · rw [List.filter_cons_of_neg (by simp [h])]
    · rw [List.filter_cons, List.filter_cons, ih]

/-- An element is inserted behind those of its own kind, where no later element is of its kind. -/
theorem filter_insertBy_pos {R : α → α → Prop} (p : α → Bool) (later : α → Bool) (a : α) (l : List α) (h : p a = true)
    (hl : l.Pairwise R) (hlate : ∀ b, later b = true → p b = false) (hrest : ∀ b c, later b = true → R b c → p c = false) :
    (insertBy later a l).filter p = l.filter p ++ [a] := by
  induction l with
  | nil => simp [insertBy, h]
  | cons b l ih =>
    obtain ⟨hb, hl⟩ := List.pairwise_cons.1 hl
    unfold insertBy
    split
    next hyes =>
      have hnone : l.filter p = [] := List.filter_eq_nil_iff.2 fun c hc => by simp [hrest b c hyes (hb c hc)]
      simp [h, hlate b hyes, hnone]
    next =>
      rw [List.filter_cons, List.filter_cons, ih hl]
      split <;> rfl

end

/-! ### The order of arrivals (01_architecture.md R23) -/

theorem arrInsert_eq (a : Arrival) (l : List Arrival) :
    arrInsert a l = insertBy (fun b => decide (a.tcmp < b.tcmp ∨ (a.tcmp = b.tcmp ∧ a.src < b.src))) a l := by
  induction l with
  | nil => rfl
  | cons b l ih => simp only [arrInsert, insertBy, ih, decide_eq_true_eq]

theorem arrInsert_pairwise (a : Arrival) (l : List Arrival)
    (h : l.Pairwise fun x y => x.tcmp < y.tcmp ∨ (x.tcmp = y.tcmp ∧ x.src ≤ y.src)) :
    (arrInsert a l).Pairwise fun x y => x.tcmp < y.tcmp ∨ (x.tcmp = y.tcmp ∧ x.src ≤ y.src) := by
  rw [arrInsert_eq]
  refine insertBy_pairwise (fun x y z => ?_) _ a (fun b => ?_) (fun b => ?_) l h
  · omega
  · rw [decide_eq_true_eq]
    omega
  · rw [decide_eq_false_iff_not]
    omega

/-! ### The quotas of a frame (01_architecture.md R24) -/

theorem sizeOfSrc_cons (c : Nat) (a : Arrival) (l : List Arrival) :
    sizeOfSrc c (a :: l) = (if a.src = c then a.size else 0) + sizeOfSrc c l := by
  have shift (l : List Arrival) : ∀ n m : Nat, l.foldl (fun n a => if a.src = c then n + a.size else n) (n + m) =
      n + l.foldl (fun n a => if a.src = c then n + a.size else n) m := by
    induction l with
    | nil => exact fun n m => rfl
    | cons b l ih =>
      intro n m
      rw [List.foldl_cons, List.foldl_cons, ← ih]
      split <;> simp only [Nat.add_assoc]
  have hs := shift l (if a.src = c then a.size else 0) 0
  unfold sizeOfSrc
  rw [List.foldl_cons, ← hs]
  split <;> simp

theorem assign_sublist (l : List Arrival) : ∀ (blocked : List Nat) (used : List (Nat × Nat)), (assign l blocked used).1.Sublist l := by
  induction l with
  | nil => exact fun _ _ => .refl _
  | cons a l ih =>
    intro blocked used
    unfold assign
    dsimp only
    split
    · exact (ih _ _).cons a
    · exact (ih _ _).cons_cons a

/-- What is assigned fits what the source had left. -/
theorem assign_quota (c : Nat) (l : List Arrival) : ∀ (blocked : List Nat) (used : List (Nat × Nat)), kvGet 0 used c ≤ srcQuota c →
    kvGet 0 used c + sizeOfSrc c (assign l blocked used).1 ≤ srcQuota c := by
  induction l with
  | nil => exact fun _ _ h => h
  | cons a l ih =>
    intro blocked used h
    unfold assign
    dsimp only
    split
    · exact ih _ _ h
    next hroom =>
      rw [not_or, not_lt] at hroom
      have hgo := ih blocked (kvSet 0 used a.src (kvGet 0 used a.src + a.size))
      rw [kvGet_set] at hgo
      rw [sizeOfSrc_cons]
      by_cases hc : c = a.src
      · subst hc
        rw [if_pos rfl] at hgo ⊢
        have hq := hgo hroom.2
        omega
      · rw [if_neg hc] at hgo
        rw [if_neg (Ne.symm hc)]
        have hq := hgo h
        omega

/-- An arrival of a blocked source, or one that finds no room, waits, and blocks its source. -/
theorem assign_waits (a : Arrival) (l : List Arrival) (blocked : List Nat) (used : List (Nat × Nat))
    (h : blocked.contains a.src ∨ kvGet 0 used a.src + a.size > srcQuota a.src) :
    assign (a :: l) blocked used =
      ((assign l (a.src :: blocked) used).1, { a with deferred := true } :: (assign l (a.src :: blocked) used).2) := by
  rw [assign, if_pos h]

theorem assign_takes (a : Arrival) (l : List Arrival) (blocked : List Nat) (used : List (Nat × Nat))
    (h : ¬(blocked.contains a.src ∨ kvGet 0 used a.src + a.size > srcQuota a.src)) :
    assign (a :: l) blocked used =
      (a :: (assign l blocked (kvSet 0 used a.src (kvGet 0 used a.src + a.size))).1,
        (assign l blocked (kvSet 0 used a.src (kvGet 0 used a.src + a.size))).2) := by
  rw [assign, if_neg h]

/-- Nothing more of a source that is blocked. -/
theorem assign_blocked (c : Nat) (l : List Arrival) : ∀ (blocked : List Nat) (used : List (Nat × Nat)), c ∈ blocked →
    ((assign l blocked used).1.filter fun a => a.src == c) = [] ∧
      ((assign l blocked used).2.filter fun a => a.src == c) = (l.filter fun a => a.src == c).map fun a => { a with deferred := true } := by
  induction l with
  | nil => exact fun _ _ _ => ⟨rfl, rfl⟩
  | cons a l ih =>
    intro blocked used h
    by_cases hroom : blocked.contains a.src ∨ kvGet 0 used a.src + a.size > srcQuota a.src
    · obtain ⟨h1, h2⟩ := ih (a.src :: blocked) used (List.mem_cons_of_mem _ h)
      rw [assign_waits a l blocked used hroom]
      refine ⟨h1, ?_⟩
      by_cases hc : a.src = c
      · rw [List.filter_cons_of_pos (by simpa using hc), List.filter_cons_of_pos (by simpa using hc), h2, List.map_cons]
      · simp [hc, h2]
    · have hc : a.src ≠ c := fun e => hroom (.inl (by simpa [e] using h))
      obtain ⟨h1, h2⟩ := ih blocked (kvSet 0 used a.src (kvGet 0 used a.src + a.size)) h
      rw [assign_takes a l blocked used hroom]
      exact ⟨by simp [hc, h1], by simp [hc, h2]⟩

/-- Of each source the first arrivals are assigned, and the rest wait, deferred. -/
theorem assign_splits (c : Nat) (l : List Arrival) : ∀ (blocked : List Nat) (used : List (Nat × Nat)), ∃ k,
    ((assign l blocked used).1.filter fun a => a.src == c) = (l.filter fun a => a.src == c).take k ∧
      ((assign l blocked used).2.filter fun a => a.src == c) =
        ((l.filter fun a => a.src == c).drop k).map fun a => { a with deferred := true } := by
  induction l with
  | nil => exact fun _ _ => ⟨0, rfl, rfl⟩
  | cons a l ih =>
    intro blocked used
    by_cases hroom : blocked.contains a.src ∨ kvGet 0 used a.src + a.size > srcQuota a.src
    · rw [assign_waits a l blocked used hroom]
      by_cases hc : a.src = c
      · obtain ⟨h1, h2⟩ := assign_blocked c l (a.src :: blocked) used (by simp [hc])
        exact ⟨0, h1, by simp [hc] at h2 ⊢; exact h2⟩
      · obtain ⟨k, h1, h2⟩ := ih (a.src :: blocked) used
        exact ⟨k, by simp [hc, h1], by simp [hc, h2]⟩
    · rw [assign_takes a l blocked used hroom]
      obtain ⟨k, h1, h2⟩ := ih blocked (kvSet 0 used a.src (kvGet 0 used a.src + a.size))
      by_cases hc : a.src = c
      · exact ⟨k + 1, by simp [hc] at h1 ⊢; exact h1, by simp [hc] at h2 ⊢; exact h2⟩
      · exact ⟨k, by simp [hc, h1], by simp [hc, h2]⟩

/-- Settles O29: by induction on the arrivals, with what each source has used and which are blocked. -/
theorem arrivalsKeepOrderAndQuota : Obligations.ArrivalsKeepOrderAndQuota :=
  ⟨arrInsert_pairwise, fun l => ⟨assign_sublist l [] [],
    fun c => by simpa [kvGet] using assign_quota c l [] [] (Nat.zero_le _), fun c => assign_splits c l [] []⟩⟩

end Sys2Proof.Machine
end

section
/-! The output frame of a lane: its order, its capacity and what it leaves out (O30). -/

namespace Sys2Proof.Machine

/-- The order of entries but for their production: class, then destination. -/
def EntryLe (x y : OutEntry) : Prop := x.cls < y.cls ∨ (x.cls = y.cls ∧ x.dest ≤ y.dest)

/-- The entries of one class and destination. -/
def OutEntry.isOf (c d : Nat) (e : OutEntry) : Bool := e.cls == c && e.dest == d

theorem isOf_iff (c d : Nat) (e : OutEntry) : e.isOf c d = true ↔ e.cls = c ∧ e.dest = d := by simp [OutEntry.isOf]

theorem entryLt_iff (a b : OutEntry) : entryLt a b = true ↔ a.cls < b.cls ∨ (a.cls = b.cls ∧ a.dest < b.dest) := by
  simp [entryLt]

theorem not_entryLt_iff (a b : OutEntry) : entryLt a b = false ↔ EntryLe b a := by
  rw [← Bool.not_eq_true, entryLt_iff]
  unfold EntryLe
  omega

theorem entryLe_trans (x y z : OutEntry) (h : EntryLe x y) (h' : EntryLe y z) : EntryLe x z := by
  unfold EntryLe at *
  omega

theorem entryLe_of_lt {a b : OutEntry} (h : entryLt a b = true) : EntryLe a b := by
  have hlt := (entryLt_iff a b).1 h
  unfold EntryLe
  omega

/-! ### Sorting by insertion -/

theorem outInsert_eq (e : OutEntry) (l : List OutEntry) : outInsert e l = insertBy (entryLt e) e l := by
  induction l with
  | nil => rfl
  | cons b l ih => simp only [outInsert, insertBy, ih]

theorem outInsert_pairwise (e : OutEntry) (l : List OutEntry) (h : l.Pairwise EntryLe) : (outInsert e l).Pairwise EntryLe := by
  rw [outInsert_eq]
  exact insertBy_pairwise entryLe_trans (entryLt e) e (fun b => entryLe_of_lt) (fun b => (not_entryLt_iff e b).1) l h

/-- An entry of a class and destination goes behind those that stand. -/
theorem outInsert_filter (c d : Nat) (e : OutEntry) (l : List OutEntry) (h : l.Pairwise EntryLe) :
    ((outInsert e l).filter (OutEntry.isOf c d)) =
      (l.filter (OutEntry.isOf c d)) ++ ([e].filter (OutEntry.isOf c d)) := by
  rw [outInsert_eq]
  cases hp : e.isOf c d
  case false => rw [filter_insertBy_neg _ _ _ _ hp, List.filter_cons_of_neg (by simp [hp]), List.filter_nil, List.append_nil]
  case true =>
    obtain ⟨rfl, rfl⟩ : e.cls = c ∧ e.dest = d := (isOf_iff c d e).1 hp
    have later (b : OutEntry) (hb : e.cls < b.cls ∨ (e.cls = b.cls ∧ e.dest < b.dest)) :
        b.isOf e.cls e.dest = false := by
      rw [← Bool.not_eq_true, isOf_iff]
      omega
    rw [filter_insertBy_pos (R := EntryLe) _ _ _ _ hp h (fun b hb => later b ((entryLt_iff e b).1 hb)) fun b x hb hx => ?_,
      List.filter_cons_of_pos hp, List.filter_nil]
    have hlt := (entryLt_iff e b).1 hb
    unfold EntryLe at hx
    exact later x (by omega)

/-- Sorting goes on from a list that stands in order. -/
theorem outInserts_order (es : List OutEntry) : ∀ l : List OutEntry, l.Pairwise EntryLe →
    (es.foldl (fun l e => outInsert e l) l).Pairwise EntryLe ∧
      (es.foldl (fun l e => outInsert e l) l).Perm (l ++ es) ∧
      ∀ c d, ((es.foldl (fun l e => outInsert e l) l).filter (OutEntry.isOf c d)) =
        (l ++ es).filter (OutEntry.isOf c d) := by
  induction es with
  | nil => exact fun l h => ⟨h, by simp, fun c d => by simp⟩
  | cons e es ih =>
    intro l h
    obtain ⟨hord, hperm, hkind⟩ := ih (outInsert e l) (outInsert_pairwise e l h)
    refine ⟨hord, hperm.trans ?_, fun c d => ?_⟩
    · rw [outInsert_eq]
      exact ((insertBy_perm _ e l).append_right es).trans List.perm_middle.symm
    · rw [List.foldl_cons, hkind, List.filter_append, outInsert_filter c d e l h, ← List.filter_append, ← List.filter_append,
        List.append_assoc, List.singleton_append]

theorem outSort_pairwise (es : List OutEntry) : (outSort es).Pairwise EntryLe := (outInserts_order es [] .nil).1

theorem outSort_perm (es : List OutEntry) : (outSort es).Perm es := (outInserts_order es [] .nil).2.1

theorem outSort_filter (c d : Nat) (es : List OutEntry) :
    ((outSort es).filter (OutEntry.isOf c d)) = es.filter (OutEntry.isOf c d) :=
  (outInserts_order es [] .nil).2.2 c d

/-! ### Filling the frame -/

/-- An entry that does not fit, or follows one of its kind that did not, is left out and shuts its kind. -/
theorem outFit_leaves (e : OutEntry) (l : List OutEntry) (n : Nat) (shut : List (Nat × Nat))
    (h : shut.contains (e.cls, e.dest) ∨ 1048576 < n + e.size) :
    outFit (e :: l) n shut =
      ((outFit l n ((e.cls, e.dest) :: shut)).1, e :: (outFit l n ((e.cls, e.dest) :: shut)).2) := by
  rw [outFit, if_pos h]

theorem outFit_takes (e : OutEntry) (l : List OutEntry) (n : Nat) (shut : List (Nat × Nat))
    (h : ¬(shut.contains (e.cls, e.dest) ∨ 1048576 < n + e.size)) :
    outFit (e :: l) n shut = (e :: (outFit l (n + e.size) shut).1, (outFit l (n + e.size) shut).2) := by
  rw [outFit, if_neg h]

theorem outFit_sublist (l : List OutEntry) : ∀ (n : Nat) (shut : List (Nat × Nat)), (outFit l n shut).1.Sublist l := by
  induction l with
  | nil => exact fun _ _ => .refl _
  | cons e l ih =>
    intro n shut
    by_cases h : shut.contains (e.cls, e.dest) ∨ 1048576 < n + e.size
    · rw [outFit_leaves e l n shut h]
      exact (ih _ _).cons e
    · rw [outFit_takes e l n shut h]
      exact (ih _ _).cons_cons e

theorem outFit_capacity (l : List OutEntry) : ∀ (n : Nat) (shut : List (Nat × Nat)), n ≤ 1048576 →
    n + ((outFit l n shut).1.map OutEntry.size).sum ≤ 1048576 := by
  induction l with
  | nil => exact fun _ _ h => h
  | cons e l ih =>
    intro n shut hn
    by_cases h : shut.contains (e.cls, e.dest) ∨ 1048576 < n + e.size
    · rw [outFit_leaves e l n shut h]
      exact ih n _ hn
    · rw [outFit_takes e l n shut h, List.map_cons, List.sum_cons, ← Nat.add_assoc]
      exact ih (n + e.size) shut (by omega)

/-- Nothing of a kind that is shut gets in. -/
theorem outFit_shut (c d : Nat) (l : List OutEntry) : ∀ (n : Nat) (shut : List (Nat × Nat)), (c, d) ∈ shut →
    ((outFit l n shut).1.filter (OutEntry.isOf c d)) = [] := by
  induction l with
  | nil => exact fun _ _ _ => rfl
  | cons e l ih =>
    intro n shut hin
    by_cases h : shut.contains (e.cls, e.dest) ∨ 1048576 < n + e.size
    · rw [outFit_leaves e l n shut h]
      exact ih n _ (List.mem_cons_of_mem _ hin)
    · rw [outFit_takes e l n shut h, List.filter_cons_of_neg, ih _ shut hin]
      intro he
      obtain ⟨rfl, rfl⟩ : e.cls = c ∧ e.dest = d := (isOf_iff c d e).1 he
      exact h (.inl (by simpa using hin))

/-- Of each kind a first part gets in and the rest is left out. -/
theorem outFit_splits (c d : Nat) (l : List OutEntry) : ∀ (n : Nat) (shut : List (Nat × Nat)),
    ((outFit l n shut).1.filter (OutEntry.isOf c d)) ++
      ((outFit l n shut).2.filter (OutEntry.isOf c d)) = l.filter (OutEntry.isOf c d) := by
  induction l with
  | nil => exact fun _ _ => rfl
  | cons e l ih =>
    intro n shut
    by_cases h : shut.contains (e.cls, e.dest) ∨ 1048576 < n + e.size
    · rw [outFit_leaves e l n shut h]
      have hrest := ih n ((e.cls, e.dest) :: shut)
      by_cases he : (e.isOf c d) = true
      · have hshut := outFit_shut c d l n ((e.cls, e.dest) :: shut) (by simp [(isOf_iff c d e).1 he])
        rw [hshut, List.nil_append] at hrest ⊢
        rw [List.filter_cons_of_pos he, List.filter_cons_of_pos he, hrest]
      · rw [List.filter_cons_of_neg he, List.filter_cons_of_neg he, hrest]
    · rw [outFit_takes e l n shut h, List.filter_cons, List.filter_cons, ← ih (n + e.size) shut]
      split <;> rfl

theorem outFit_all (l : List OutEntry) : ∀ n : Nat, n + (l.map OutEntry.size).sum ≤ 1048576 → (outFit l n []).2 = [] := by
  induction l with
  | nil => exact fun _ _ => rfl
  | cons e l ih =>
    intro n h
    rw [List.map_cons, List.sum_cons] at h
    rw [outFit_takes e l n [] (by simp; omega)]
    exact ih (n + e.size) (by omega)

/-- Settles O30: the entries stand sorted, and filling the frame takes a first part of each kind. -/
theorem outputFrameOrderAndCapacity : Obligations.OutputFrameOrderAndCapacity := fun es =>
  ⟨(outSort_pairwise es).sublist (outFit_sublist _ _ _), outFit_capacity _ 32 [] (by decide),
    fun c d => (outFit_splits c d (outSort es) 32 []).trans (outSort_filter c d es),
    fun h => outFit_all _ 32 (by rwa [((outSort_perm es).map OutEntry.size).sum_eq])⟩

end Sys2Proof.Machine
end

section
/-! Edges, pulses and the arrivals of the hub's own sources (O31). -/

namespace Sys2Proof.Machine

/-! ### Edges in the order of their stamps (04_frame.md R509) -/

theorem edgeInsert_eq (e : DiEdge) (l : List DiEdge) :
    edgeInsert e l = insertBy (fun b => decide (e.ns < b.ns ∨ (e.ns = b.ns ∧ e.din < b.din))) e l := by
  induction l with
  | nil => rfl
  | cons b l ih => simp only [edgeInsert, insertBy, ih, decide_eq_true_eq]

theorem edgeInsert_perm (e : DiEdge) (l : List DiEdge) : (edgeInsert e l).Perm (e :: l) := by
  rw [edgeInsert_eq]
  exact insertBy_perm _ e l

theorem edgeInsert_pairwise (e : DiEdge) (l : List DiEdge)
    (h : l.Pairwise fun a b => a.ns < b.ns ∨ (a.ns = b.ns ∧ a.din ≤ b.din)) :
    (edgeInsert e l).Pairwise fun a b => a.ns < b.ns ∨ (a.ns = b.ns ∧ a.din ≤ b.din) := by
  rw [edgeInsert_eq]
  refine insertBy_pairwise (fun x y z => ?_) _ e (fun b => ?_) (fun b => ?_) l h
  · omega
  · rw [decide_eq_true_eq]
    omega
  · rw [decide_eq_false_iff_not]
    omega

theorem diEdge_room (h : Hub) (din : Nat) (level : Bool) (t : Int) (hr : h.running = true) (hd : din < 32)
    (hroom : h.edges.length < 105) :
    h.diEdge din level t = { h with
      di := withBits h.di din din (if level then 1 else 0)
      edges := edgeInsert { din, level, ns := h.tb + (t - t % 4) - 20000 } h.edges } := by
  simp [Hub.diEdge, edgeRoom, ptpCycle, hr, Nat.not_le.2 hd, Nat.not_le.2 hroom]

theorem diEdge_lost (h : Hub) (din : Nat) (level : Bool) (t : Int) (hr : h.running = true) (hd : din < 32)
    (hroom : 105 ≤ h.edges.length) :
    h.diEdge din level t = { h with di := withBits h.di din din (if level then 1 else 0), edrop := min 65535 (h.edrop + 1) } := by
  simp [Hub.diEdge, edgeRoom, hr, Nat.not_le.2 hd, hroom]

theorem closeDigital_open (h : Hub) (hr : h.running = true) (hc : h.closed = none) (hw : ∀ a ∈ h.waiting, a.src ≠ 0x02) :
    h.closeDigital =
      ({ h with edges := h.edges.drop 21, edrop := 0 } : Hub).complete 0x02
        (72 + 8 * ((h.edges.take 21).map fun e => { e with ns := e.ns - h.tb }).length) 35000
        (.digital h.di h.pcnt ((h.edges.take 21).map fun e => { e with ns := e.ns - h.tb }) h.edrop) := by
  have hnone : (h.waiting.any fun a => a.src == 0x02) = false := by simpa using hw
  unfold Hub.closeDigital
  rw [if_neg (by simp [hr, hc, hnone])]

/-! ### Arrivals (01_architecture.md R23) -/

theorem complete_waits (h : Hub) (src len : Nat) (t : Int) (b : ArrBody)
    (hroom : sizeOfSrc src h.waiting + (12 + (len + 3) / 4 * 4) ≤ 4 * srcQuota src) :
    (h.complete src len t b).waiting =
      arrInsert { src, seq := kvGet 0 h.seqs src, len, tcmp := h.tb + (t - t % 4), body := b } h.waiting := by
  unfold Hub.complete
  dsimp only
  rw [if_neg (by simpa [Arrival.size, pad4] using hroom)]
  rfl

/-- The hub's part of a lane's report: the active lane's E1 hands it over. -/
theorem assayReported_eq (s : State) (t : Int) (r : AssayReport) (hr : s.hub.running = true) (ha : s.activeId.isSome = true)
    (hl : s.ts.lost = false) :
    s.assayReported t r =
      { (if r.typ = 1 then onRunningLane r.lane (fun l => l.ownRepair r.array (r.addr / arrayRow r.array)) s else s) with
        hub := s.hub.handOver 16 t (.lane (.assay r)) } := by
  unfold State.assayReported
  generalize hu : (if r.typ = 1 then onRunningLane r.lane (fun l => l.ownRepair r.array (r.addr / arrayRow r.array)) s else s) = u
  have hts : u.ts = s.ts := by rw [← hu]; split <;> simp
  have hhub : u.hub = s.hub := by rw [← hu]; split <;> simp
  have hid : u.activeId.isNone = false := by
    rw [show u.activeId = s.activeId by rw [State.activeId, hts, ← State.activeId]]
    simpa using ha
  simp [State.setHub, hts, hhub, hid, hr, hl]

theorem assayReported_other (s : State) (t : Int) (r : AssayReport) (hr : s.hub.running = true) (ha : s.activeId.isSome = true)
    (hl : s.ts.lost = false) (hty : r.typ ≠ 1) :
    s.assayReported t r = { s with hub := s.hub.handOver 16 t (.lane (.assay r)) } := by
  rw [assayReported_eq s t r hr ha hl, if_neg hty]

theorem assayReported_repair (s : State) (t : Int) (r : AssayReport) (hr : s.hub.running = true) (ha : s.activeId.isSome = true)
    (hl : s.ts.lost = false) (hty : r.typ = 1) (hrun : (s.lane r.lane).running = true) :
    s.assayReported t r = { s.setLane r.lane ((s.lane r.lane).ownRepair r.array (r.addr / arrayRow r.array)) with
      hub := s.hub.handOver 16 t (.lane (.assay r)) } := by
  rw [assayReported_eq s t r hr ha hl, if_pos hty, onRunningLane, if_pos hrun, onLane]

theorem arrivalComplete_assay (s : State) (t : Int) (r : AssayReport) (hr : s.hub.running = true) :
    s.arrivalComplete 0x04 t (.lane (.assay r)) = s.assayReported t r := by
  simp [State.arrivalComplete, hr]

theorem arrivalComplete_met (s : State) (t : Int) (w : MetWindow) (hr : s.hub.running = true) (hon : s.pwr.isOn 6 = true) :
    s.arrivalComplete 0x03 t (.met w) =
      { s with hub := s.hub.complete 0x03 (windowLen (s.pwr.window w)) t (.metering (s.pwr.window w)) } := by
  simp [State.arrivalComplete, State.setHub, hr, hon]

/-- Settles O31: edges are inserted by their stamps, and each source's arrival is one `complete` or `handOver` of the hub. -/
theorem digitalInputsAndArrivals : Obligations.DigitalInputsAndArrivals := by
  intro s n level tm hr
  refine ⟨fun hd hroom => ?_, fun e h => ⟨edgeInsert_pairwise e _ h, edgeInsert_perm e _⟩, fun hd hroom => ?_, ?_, fun hc hw => ?_,
    fun r ha hl => ⟨fun hty => ?_, fun hty hrun => ?_⟩, fun w hon => congrArg Host.Outcome.next (arrivalComplete_met s tm w hr hon),
    fun h src len b hroom => ⟨_, complete_waits h src len tm b hroom, rfl, rfl, rfl, rfl, rfl, rfl⟩⟩
  · exact congrArg (fun h => Host.Outcome.next { s with hub := h }) (diEdge_room s.hub n level tm hr hd hroom)
  · exact congrArg (fun h => Host.Outcome.next { s with hub := h }) (diEdge_lost s.hub n level tm hr hd hroom)
  · exact congrArg (fun h => Host.Outcome.next { s with hub := h }) (if_pos hr)
  · exact congrArg (fun h => Host.Outcome.next { s with hub := h }) (closeDigital_open s.hub hr hc hw)
  · exact congrArg Host.Outcome.next ((arrivalComplete_assay s tm r hr).trans (assayReported_other s tm r hr ha hl hty))
  · exact congrArg Host.Outcome.next ((arrivalComplete_assay s tm r hr).trans (assayReported_repair s tm r hr ha hl hty hrun))

end Sys2Proof.Machine
end

section
/-! Image pages and the debug function (O25). -/

namespace Sys2Proof.Machine

/-! ### Image pages (17_security.md R396, R399) -/

theorem onSession_open {s : State} {x : Nat} {l : Lane} {ss : Session} (hl : s.server = some l) (hs : s.hub.session x = some ss)
    (f : Lane → Session → State → State) : s.onSession x f = f l ss (s.setHub fun h => h.heard x) := by
  unfold State.onSession
  rw [hl, hs]

theorem transCode_one (ss : Session) (h : ss.open_.length < 4) : transCode ss 1 = 0 := by
  simp [transCode, Nat.not_le.2 h]

theorem pageRole_iff (l : Lane) (r : SessRole) : pageRole l r = true ↔ l.lifeCycle = 0 ∨ r = .engineer := by simp [pageRole]

theorem pageTrans_given (s : State) (x tag idx : Nat) (data : List Byte) (l : Lane) (ss : Session) (hl : s.server = some l)
    (hs : s.hub.session x = some ss) (hd : data.length = 2048) (ho : ss.open_.length < 4) (hrole : pageRole l ss.role = true)
    (hroom : (s.hub.heard x).room04 2052 = true) :
    s.pageTrans x tag idx data = { s with
      hub := ((s.hub.heard x).handOver 2052 0 (.lane (.page ss.key tag idx data))).openTag x tag } := by
  rw [State.pageTrans, if_neg (by simp [hd]), onSession_open hl hs]
  simp [transCode_one ss ho, hrole, State.setHub, hroom]

theorem pageTrans_denied (s : State) (x tag idx : Nat) (data : List Byte) (l : Lane) (ss : Session) (hl : s.server = some l)
    (hs : s.hub.session x = some ss) (hd : data.length = 2048) (ho : ss.open_.length < 4) (hrole : ¬pageRole l ss.role = true) :
    s.pageTrans x tag idx data = { s with hub := (s.hub.heard x).sent (.answer x tag (s.hub.heard x).fno [0x2C0D]) } := by
  rw [State.pageTrans, if_neg (by simp [hd]), onSession_open hl hs]
  simp [transCode_one ss ho, hrole, State.setHub]

theorem pageTrans_wrongLength (s : State) (x tag idx : Nat) (data : List Byte) (l : Lane) (hl : s.server = some l)
    (hd : data.length ≠ 2048) : s.pageTrans x tag idx data = s.closeSession x := by
  rw [State.pageTrans, if_pos hd, hl]
  rfl

theorem imagePage_served (s : State) (x tag idx : Nat) (data : List Byte) (h : s.recovery = false) :
    s.imagePage x tag idx data = s.pageTrans x tag idx data := if_neg (by simp [h])

/-! ### The debug function (17_security.md R405) -/

theorem State.setLane_lane_self (s : State) (x : LaneId) : s.setLane x (s.lane x) = s := by cases x <;> rfl

section
variable (s : State) (y : LaneId)

theorem debugAccess_closed (h : ∀ ss ∈ s.hub.ports.sessions, ss.port ≠ 4) (op : DebugOp) : s.debugAccess y op = s := by
  have hnone : (s.hub.ports.sessions.any fun t => t.port == portService) = false := by simpa [portService] using h
  unfold State.debugAccess
  rw [if_neg (by simp [hnone])]

variable (hlc : (s.lane y).lifeCycle = 3) (hr : (s.lane y).running = true) (hs : ∃ ss ∈ s.hub.ports.sessions, ss.port = 4)
include hlc hr hs

/-- With its session, the debug function acts on its lane, and hands out what it reads. -/
theorem debugAccess_open (op : DebugOp) : s.debugAccess y op =
    (s.setLane y ((s.lane y).debug op)).setHub fun h => (((s.lane y).debugRead op).map fun r => h.sent (.debugByte y r.1 r.2)).getD h := by
  have hany : (s.hub.ports.sessions.any fun t => t.port == portService) = true := by simpa [portService] using hs
  unfold State.debugAccess
  rw [if_pos ⟨hlc, hr, hany⟩, onLane]

/-- Where nothing is read, it is its act on the lane alone. -/
theorem debugAccess_acts (op : DebugOp) (l : Lane) (hd : (s.lane y).debug op = l) (hn : (s.lane y).debugRead op = none) :
    s.debugAccess y op = s.setLane y l := by
  rw [debugAccess_open s y hlc hr hs, hd, hn]
  rfl

theorem debugAccess_idle (op : DebugOp) (hd : (s.lane y).debug op = s.lane y) (hn : (s.lane y).debugRead op = none) :
    s.debugAccess y op = s := by
  rw [debugAccess_acts s y hlc hr hs op _ hd hn, State.setLane_lane_self]

theorem debugAccess_read (a : Nat) (ha : a < laneMemory) :
    s.debugAccess y (.read a) = { s with hub := s.hub.sent (.debugByte y a (kvGet 0 (s.lane y).mem a)) } := by
  rw [debugAccess_open s y hlc hr hs, show (s.lane y).debug (.read a) = s.lane y from rfl, State.setLane_lane_self,
    Lane.debugRead, if_pos ha]
  rfl

end

theorem debug_halt (l : Lane) (n : Nat) (hn : n < 8) (hg : l.get (R.ENG.STATE.inst n) = 1) :
    l.debug (.halt n) = l.put (R.ENG.STATE.inst n) 2 := if_pos ⟨hn, hg⟩

theorem debug_write (l : Lane) (a : Nat) (b : Byte) (ha : a < laneMemory) :
    l.debug (.write a b) = { l with mem := kvInsert l.mem a b } := if_pos ha

theorem debug_write_outside (l : Lane) (a : Nat) (b : Byte) (ha : laneMemory ≤ a) : l.debug (.write a b) = l :=
  if_neg (Nat.not_lt.2 ha)

/-- Settles O25: a page goes the way its session and role give it, and the debug function's act is one of the lane. -/
theorem imagePagesAndDebug : Obligations.ImagePagesAndDebug := by
  intro s x tag idx data
  refine ⟨exec_page_recovery s x tag idx data, fun l ss hrec hl hs => ⟨fun hd ho hrole hroom => ?_, fun hd ho hrole hlc => ?_, fun hd => ?_⟩,
    fun y n a b hlc hr => ⟨fun hno op => ?_, fun hs => ⟨fun hn hg => ?_, fun ha => ⟨?_, ?_⟩, fun ha => ?_, ?_, fun ha => ?_, fun ha => ?_⟩⟩⟩
  · exact congrArg Host.Outcome.next ((imagePage_served s x tag idx data hrec).trans
      (pageTrans_given s x tag idx data l ss hl hs hd ho ((pageRole_iff l _).2 (.inr hrole)) hroom))
  · exact congrArg Host.Outcome.next ((imagePage_served s x tag idx data hrec).trans
      (pageTrans_denied s x tag idx data l ss hl hs hd ho (by simp [pageRole_iff, hrole, hlc])))
  · exact congrArg Host.Outcome.next ((imagePage_served s x tag idx data hrec).trans
      (pageTrans_wrongLength s x tag idx data l hl hd))
  · exact congrArg Host.Outcome.next (debugAccess_closed s y hno op)
  · exact congrArg Host.Outcome.next (debugAccess_acts s y hlc hr hs _ _ (debug_halt _ n hn hg) rfl)
  · exact congrArg Host.Outcome.next (debugAccess_acts s y hlc hr hs _ _ (debug_write _ a b ha) rfl)
  · rw [kvInsert_read, if_pos rfl]
  · exact congrArg Host.Outcome.next (debugAccess_idle s y hlc hr hs _ (debug_write_outside _ a b ha) rfl)
  · exact congrArg Host.Outcome.next (debugAccess_idle s y hlc hr hs _ rfl rfl)
  · exact congrArg Host.Outcome.next (debugAccess_read s y hlc hr hs a ha)
  · exact congrArg Host.Outcome.next (debugAccess_idle s y hlc hr hs _ rfl (if_neg (Nat.not_lt.2 ha)))

end Sys2Proof.Machine
end

section
/-! Assay commands (O21). -/

namespace Sys2Proof.Machine

/-! ### What storing a register leaves (02_register_pages.md R48) -/

theorem storeField_reg_ne (l : Lane) (page off : Nat) (w : Word) (f : Fld) (k : Nat) (h : k ≠ page * 0x1000 + off) :
    (storeField l page off w f).reg k = l.reg k := by
  unfold storeField
  dsimp only
  split
  case h_6 => rfl
  all_goals exact Lane.reg_setReg_ne _ _ _ _ h

theorem Lane.store_reg_ne (l : Lane) (page off : Nat) (w : Word) (k : Nat) (h : k ≠ page * 0x1000 + off) :
    (l.store page off w).reg k = l.reg k := by
  unfold Lane.store
  generalize fieldsAt page off = fs
  induction fs generalizing l with
  | nil => rfl
  | cons f fs ih => rw [List.foldl_cons, ih, storeField_reg_ne l page off w f k h]

section
variable (l : Lane) (page off : Nat) (w : Word)

theorem Lane.store_get_ne (f : Fld) (h : f.key ≠ page * 0x1000 + off) : (l.store page off w).get f = l.get f := by
  unfold Lane.get
  rw [Lane.store_reg_ne l page off w f.key h]

theorem Lane.store_on_ne (f : Fld) (h : f.key ≠ page * 0x1000 + off) : (l.store page off w).on f = l.on f := by
  unfold Lane.on
  rw [Lane.store_get_ne l page off w f h]

theorem Lane.store_enabled (p : Nat) (hp : p * 0x1000 + 0x008 ≠ page * 0x1000 + off) (hn : R.NET.LOADED.key ≠ page * 0x1000 + off) :
    (l.store page off w).enabled p = l.enabled p := by
  unfold Lane.enabled
  rw [Lane.store_reg_ne l page off w _ hp, Lane.store_on_ne l page off w _ hn]

@[simp] theorem Lane.store_asy : (l.store page off w).asy = l.asy := by rw [Lane.store_eq]
@[simp] theorem Lane.store_id : (l.store page off w).id = l.id := by rw [Lane.store_eq]
@[simp] theorem Lane.store_frame : (l.store page off w).frame = l.frame := by rw [Lane.store_eq]
@[simp] theorem Lane.store_sec : (l.store page off w).sec = l.sec := by rw [Lane.store_eq]
@[simp] theorem Lane.store_lifeCycle : (l.store page off w).lifeCycle = l.lifeCycle := by rw [Lane.lifeCycle, Lane.store_sec, ← Lane.lifeCycle]

theorem Lane.store_fno (hl : R.FRAME.FNO_L.key ≠ page * 0x1000 + off) (hh : R.FRAME.FNO_H.key ≠ page * 0x1000 + off) :
    (l.store page off w).fno = l.fno := by
  unfold Lane.fno Lane.get64
  rw [Lane.store_get_ne l page off w _ hl, Lane.store_get_ne l page off w _ hh]

end

/-! ### A command that begins (18_assay.md R418, R419) -/

/-- CBUSY is shown, and the last command's results are gone. -/
def Lane.asyShown (l : Lane) : Lane := (((l.put R.ASY.CSTAT 0).put R.ASY.CBUSY 1).put R.ASY.RESA 0).put R.ASY.RESB 0

/-- A command begins: it is shown as running and remembered. -/
def Lane.asyBegun (kind unit tlane slices : Nat) (two : Option (Nat × LaneId)) (l : Lane) : Lane :=
  l.asyShown.setAsy fun a => { a with cmd := some (kind, unit, tlane, slices), kind2 := two }

/-- The lane is one that the command names. -/
def Lane.asyNamed (tlane : Nat) (l : Lane) : Bool := if l.id = .a then tlane % 2 == 1 else tlane / 2 % 2 == 1

/-- An injection begins; on a lane that it names it puts its error into the array. -/
def Lane.asyInjected (unit tlane row : Nat) (l : Lane) : Lane :=
  if !l.asyNamed tlane then l.asyBegun 3 unit tlane 0 none
  else if l.on R.ASY.DOUBLE then
    ({ l.asyBegun 3 unit tlane 0 none with laneflt := true } : Lane).engineStops (unitArray unit) 3 3
  else (l.asyBegun 3 unit tlane 0 none).correctedError (unitArray unit) row

section
variable (l : Lane) (unit tlane : Nat)

theorem asyShown_get_ne (f : Fld) (h : f.key ≠ 0x2D050) : l.asyShown.get f = l.get f := by
  unfold Lane.get Lane.asyShown
  rw [Lane.reg_put_ne _ _ _ _ h, Lane.reg_put_ne _ _ _ _ h, Lane.reg_put_ne _ _ _ _ h, Lane.reg_put_ne _ _ _ _ h]

theorem asyShown_fno : l.asyShown.fno = l.fno := by
  unfold Lane.fno Lane.get64
  rw [asyShown_get_ne l _ (by decide), asyShown_get_ne l _ (by decide)]

theorem asyBegun_get_ne (kind slices : Nat) (two : Option (Nat × LaneId)) (f : Fld) (h : f.key ≠ 0x2D050) :
    (l.asyBegun kind unit tlane slices two).get f = l.get f := by
  have hregs : (l.asyBegun kind unit tlane slices two).regs = l.asyShown.regs := Lane.setAsy_regs _ _
  rw [← asyShown_get_ne l f h, Lane.get, Lane.reg, hregs, ← Lane.reg, ← Lane.get]

variable (hen : l.enabled 0x2D = true) (hfree : l.asy.cmd = none) (hu : unitOk unit = true) (hm : l.mode ≠ 5)
include hen hfree hu hm

/-- A command that passes its checks begins; an injection acts besides. -/
theorem asyCommand_passes (kind slices : Nat) (two : Option (Nat × LaneId))
    (hlc : if kind = 1 then l.lifeCycle ≤ 3 else if kind = 2 then l.lifeCycle = 2 ∨ l.lifeCycle = 3 else l.lifeCycle = 0 ∨ l.lifeCycle = 3)
    (h2 : kind = 2 → unit = 0 ∧ l.compared = true ∧
      if tlane = 1 then l.get R.TST.ROLEA = 2 else tlane = 2 ∧ l.get R.TST.ROLEB = 2)
    (h3 : kind = 3 → unitBytes unit ≠ 0 ∧ l.get R.ASY.INJADDR < unitBytes unit ∧ l.get R.ASY.INJADDR % 8 = 0)
    (hs : (if kind = 1 then unitSlices unit else 0) = slices)
    (ht : (if kind = 2 then some (l.asyShown.fno, if tlane = 1 then LaneId.a else .b) else none) = two) :
    l.asyCommand kind unit tlane =
      let m := l.asyBegun kind unit tlane slices two
      if kind = 3 ∧ l.asyNamed tlane = true then
        if m.on R.ASY.DOUBLE = true then (Lane.engineStops { m with laneflt := true } (unitArray unit) 3 3, 0)
        else (m.correctedError (unitArray unit) (m.get R.ASY.INJADDR / arrayRow (unitArray unit)), 0)
      else (m, 0) := by
  subst hs ht
  unfold Lane.asyCommand
  dsimp only
  rw [if_neg (by simp [hen]), if_neg (by simp [hfree]), if_neg (by simpa only [Bool.not_eq_true', decide_eq_false_iff_not, not_not] using hlc),
    if_neg (by simp [hu]; exact ⟨fun h => (h2 h).1, fun h => (h3 h).1⟩), if_neg, if_neg]
  · unfold Lane.asyBegun Lane.asyShown Lane.asyNamed Lane.asyStat
    rfl
  · rintro ⟨hk, h | h⟩
    · exact absurd (h3 hk).2.1 (Nat.not_lt.2 h)
    · exact h (h3 hk).2.2
  · rintro (⟨hk, h⟩ | h)
    · obtain ⟨-, hc, hs⟩ := h2 hk
      simp [hc, hs] at h
    · exact hm h

theorem asyCommand_background (hlc : l.lifeCycle ≤ 3) :
    l.asyCommand 1 unit tlane = (l.asyBegun 1 unit tlane (unitSlices unit) none, 0) :=
  asyCommand_passes l unit tlane hen hfree hu hm 1 _ _ hlc (by simp) (by simp) rfl rfl

theorem asyCommand_startup (h0 : unit = 0) (hlc : l.lifeCycle = 2 ∨ l.lifeCycle = 3) (hc : l.compared = true)
    (hsb : tlane = 1 ∧ l.get R.TST.ROLEA = 2 ∨ tlane = 2 ∧ l.get R.TST.ROLEB = 2) :
    l.asyCommand 2 unit tlane = (l.asyBegun 2 unit tlane 0 (some (l.fno, if tlane = 1 then .a else .b)), 0) := by
  have hstands : if tlane = 1 then l.get R.TST.ROLEA = 2 else tlane = 2 ∧ l.get R.TST.ROLEB = 2 := by
    split <;> omega
  rw [← asyShown_fno]
  exact asyCommand_passes l unit tlane hen hfree hu hm 2 0 _ hlc (fun _ => ⟨h0, hc, hstands⟩) (by simp) rfl rfl

theorem asyCommand_inject (hb : unitBytes unit ≠ 0) (hlc : l.lifeCycle = 0 ∨ l.lifeCycle = 3)
    (ha : l.get R.ASY.INJADDR < unitBytes unit) (h8 : l.get R.ASY.INJADDR % 8 = 0) :
    l.asyCommand 3 unit tlane = (l.asyInjected unit tlane (l.get R.ASY.INJADDR / arrayRow (unitArray unit)), 0) := by
  have hadr := asyBegun_get_ne l unit tlane 3 0 none R.ASY.INJADDR (by decide)
  have hdbl : (l.asyBegun 3 unit tlane 0 none).on R.ASY.DOUBLE = l.on R.ASY.DOUBLE := by
    rw [Lane.on, asyBegun_get_ne l unit tlane 3 0 none _ (by decide), ← Lane.on]
  refine (asyCommand_passes l unit tlane hen hfree hu hm 3 0 none hlc (by simp) (fun _ => ⟨hb, ha, h8⟩) rfl rfl).trans ?_
  dsimp only
  rw [hadr, hdbl, Lane.asyInjected]
  cases l.asyNamed tlane
  case false => rfl
  case true =>
    rw [if_pos ⟨rfl, rfl⟩]
    cases l.on R.ASY.DOUBLE <;> rfl

end

/-! ### ASY.CMD as an external write -/

/-- The value that orders a command. -/
def asyWord (kind unit tlane : Nat) : Nat := kind + tlane * 16 + unit * 256

section
variable (kind unit tlane : Nat) (hk : kind < 8) (ht : tlane < 4) (hu : unit < 256)
include hk ht hu

theorem asyWord_toNat : (BitVec.ofNat 32 (asyWord kind unit tlane)).toNat = asyWord kind unit tlane :=
  Nat.mod_eq_of_lt (by unfold asyWord; omega)

theorem asyWord_kind : bits (.ofNat 32 (asyWord kind unit tlane)) 2 0 = kind := by
  rw [bits, asyWord_toNat kind unit tlane hk ht hu, asyWord]
  omega

theorem asyWord_tlane : bits (.ofNat 32 (asyWord kind unit tlane)) 5 4 = tlane := by
  rw [bits, asyWord_toNat kind unit tlane hk ht hu, asyWord]
  omega

theorem asyWord_unit : bits (.ofNat 32 (asyWord kind unit tlane)) 15 8 = unit := by
  rw [bits, asyWord_toNat kind unit tlane hk ht hu, asyWord]
  omega

/-- The write stores the register and runs the command. -/
theorem writeOp_asyWord (l : Lane) (h : Hub) (h0 : kind ≠ 0) (hl : tlane ≠ 0) :
    l.writeOp h true [] 0x2D 0x044 (.ofNat 32 (asyWord kind unit tlane)) =
      some ((l.store 0x2D 0x044 (.ofNat 32 (asyWord kind unit tlane))).asyCommand kind unit tlane) := by
  unfold Lane.writeOp Lane.writeSystem
  rw [if_neg (by decide), if_neg (by decide), if_pos (by decide)]
  simp [asyWord_kind kind unit tlane hk ht hu, asyWord_tlane kind unit tlane hk ht hu, asyWord_unit kind unit tlane hk ht hu, h0, hl]

end

/-- The lane when an external write of ASY.CMD has stored the register. -/
def Lane.asyAsked (kind unit tlane : Nat) (l : Lane) : Lane :=
  (l.closeLock 0x2D).store 0x2D 0x044 (.ofNat 32 (asyWord kind unit tlane))

section
variable (kind unit tlane : Nat) (l : Lane)

theorem asyAsked_get_ne (f : Fld) (h : f.key ≠ 0x2D044) : (l.asyAsked kind unit tlane).get f = l.get f :=
  Lane.store_get_ne _ _ _ _ f h

theorem asyAsked_on_ne (f : Fld) (h : f.key ≠ 0x2D044) : (l.asyAsked kind unit tlane).on f = l.on f :=
  Lane.store_on_ne _ _ _ _ f h

theorem asyAsked_enabled : (l.asyAsked kind unit tlane).enabled 0x2D = l.enabled 0x2D :=
  Lane.store_enabled _ _ _ _ _ (by decide) (by decide)

theorem asyAsked_fno : (l.asyAsked kind unit tlane).fno = l.fno := Lane.store_fno _ _ _ _ (by decide) (by decide)

theorem asyAsked_asy : (l.asyAsked kind unit tlane).asy = l.asy := Lane.store_asy _ _ _ _

theorem asyAsked_id : (l.asyAsked kind unit tlane).id = l.id := Lane.store_id _ _ _ _

theorem asyAsked_lifeCycle : (l.asyAsked kind unit tlane).lifeCycle = l.lifeCycle := Lane.store_lifeCycle _ _ _ _

theorem asyAsked_mode : (l.asyAsked kind unit tlane).mode = l.mode := asyAsked_get_ne kind unit tlane l _ (by decide)

theorem asyAsked_compared : (l.asyAsked kind unit tlane).compared = l.compared := by
  rw [Lane.compared, asyAsked_mode, ← Lane.compared]

end

/-- A row that writes ASY.CMD gives what its command makes of the lane that has stored it. -/
theorem writeGives_asy (c : Origin → Instr) (kind unit tlane : Nat) (s : State) (x : LaneId) (f : Lane → Lane) (hk : kind < 8)
    (hk0 : kind ≠ 0) (ht : tlane < 4) (ht1 : 1 ≤ tlane) (hu : unit < 256)
    (hc : ∀ o, exec (c o) s = .next (writeRow o 0x2D044 (kind + tlane % 4 * 16 + unit % 256 * 256) s))
    (hf : ((s.lane x).asyAsked kind unit tlane).asyCommand kind unit tlane = (f ((s.lane x).closeLock 0x2D), 0)) :
    WriteGives c 0x2D044 (fun _ => .ofNat 32 (asyWord kind unit tlane)) s x f := by
  refine writeRow_gives c 0x2D044 (asyWord kind unit tlane) s x f (fun o => ?_) (by decide) (by decide) (by decide) (by decide) ?_
  · rw [hc o, Nat.mod_eq_of_lt ht, Nat.mod_eq_of_lt hu, asyWord]
  · exact (writeOp_asyWord kind unit tlane hk ht hu _ _ hk0 (by omega)).trans (congrArg some hf)

/-- Settles O21: an ASY.CMD write with its checks passed stores the register and begins the command. -/
theorem assayCommands : Obligations.AssayCommands := by
  intro s x unit tlane ht ht1 hu hen hfree hok hm
  have hen' (kind : Nat) : ((s.lane x).asyAsked kind unit tlane).enabled 0x2D = true := by rw [asyAsked_enabled, hen]
  have hfree' (kind : Nat) : ((s.lane x).asyAsked kind unit tlane).asy.cmd = none := by rw [asyAsked_asy, hfree]
  have hm' (kind : Nat) : ((s.lane x).asyAsked kind unit tlane).mode ≠ 5 := by rwa [asyAsked_mode]
  refine ⟨fun hlc => ?_, fun h0 hlc hc hsb => ?_, fun hb hlc ha h8 => ?_⟩
  · refine writeGives_asy _ 1 unit tlane s x _ (by decide) (by decide) ht ht1 hu (fun _ => rfl) ?_
    exact asyCommand_background _ unit tlane (hen' 1) (hfree' 1) hok (hm' 1) (by rwa [asyAsked_lifeCycle])
  · refine writeGives_asy _ 2 unit tlane s x _ (by decide) (by decide) ht ht1 hu (fun _ => rfl) ?_
    rw [asyCommand_startup _ unit tlane (hen' 2) (hfree' 2) hok (hm' 2) h0 (by rwa [asyAsked_lifeCycle]) (by rwa [asyAsked_compared])
      (by rwa [asyAsked_get_ne _ _ _ _ _ (by decide), asyAsked_get_ne _ _ _ _ _ (by decide)]), asyAsked_fno]
    rfl
  · have hadr : ((s.lane x).asyAsked 3 unit tlane).get R.ASY.INJADDR = (s.lane x).get R.ASY.INJADDR :=
      asyAsked_get_ne 3 unit tlane _ _ (by decide)
    refine writeGives_asy _ 3 unit tlane s x _ (by decide) (by decide) ht ht1 hu (fun _ => rfl) ?_
    rw [asyCommand_inject _ unit tlane (hen' 3) (hfree' 3) hok (hm' 3) hb (by rwa [asyAsked_lifeCycle]) (by rwa [hadr])
      (by rwa [hadr]), hadr, Lane.asyInjected, Lane.asyNamed, asyAsked_id, asyAsked_on_ne _ _ _ _ _ (by decide)]
    rfl

end Sys2Proof.Machine
end

section
/-! Reports, transfer passes, re-power and engine faults (O37). -/

namespace Sys2Proof.Machine

/-! ### Interrupt bits and the other fields (02_register_pages.md R44) -/

theorem Lane.irq_get_ne (l : Lane) (b f : Fld) (h : f.key ≠ b.page * 0x1000 + 0x010) : (l.irq b).get f = l.get f := by
  unfold Lane.get Lane.irq
  rw [Lane.irqBit_reg_ne _ _ _ _ h]

theorem Lane.post_get_ne (l : Lane) (c : Nat) (f : Fld) (h1 : f.key ≠ c / 256 * 0x1000 + 0x01C) (h2 : f.key ≠ c / 256 * 0x1000 + 0x010) :
    (l.post c).get f = l.get f := by
  unfold Lane.get
  rw [Lane.post_reg _ _ _ h1 h2]

/-- An interrupt bit that is set reads as set. -/
theorem Lane.irq_on (l : Lane) (b : Fld) (ho : b.off = 0x010) (hh : b.hi = b.lo) (hb : b.lo < 32) : (l.irq b).on b = true := by
  have hk : b.key = b.page * 0x1000 + 0x010 := by rw [Fld.key, ho]
  have hbit : (bits ((l.irq b).reg b.key) b.hi b.lo).testBit 0 = true := by
    have hone : (1 <<< b.lo % 2 ^ 32).testBit b.lo = true := by
      rw [Nat.testBit_mod_two_pow, Nat.one_shiftLeft, Nat.testBit_two_pow_self]
      simpa using hb
    rw [bits_testBit, Lane.irq, Lane.irqBit_reg, if_pos hk, hh]
    simpa using .inr hone
  unfold Lane.on Lane.get
  rw [decide_eq_true_eq]
  intro h0
  rw [h0] at hbit
  simp at hbit

/-- A field of one page of a group, beside the field of another register written there. -/
theorem Lane.get_put_inst_ne (l : Lane) (f g : Fld) (n v : Nat) (h1 : f.lo ≤ f.hi) (h2 : f.hi < 32) (hp : g.page = f.page)
    (h : g.off ≠ f.off) : (l.put (f.inst n) v).get (g.inst n) = l.get (g.inst n) :=
  Lane.get_put_ne l (f.inst n) (g.inst n) v h1 h2 (.inl (by simpa [Fld.inst, Fld.key, hp] using h))

theorem Lane.get_put_inst (l : Lane) (f : Fld) (n v : Nat) (h1 : f.lo ≤ f.hi) (h2 : f.hi < 32) (hv : v < 2 ^ (f.hi + 1 - f.lo)) :
    (l.put (f.inst n) v).get (f.inst n) = v :=
  (Lane.get_put l (f.inst n) v h1 h2).trans (Nat.mod_eq_of_lt hv)

theorem Lane.irq_get_inst_ne (l : Lane) (b f : Fld) (n : Nat) (hp : f.page = b.page) (h : f.off ≠ 0x010) :
    (l.irq (b.inst n)).get (f.inst n) = l.get (f.inst n) :=
  Lane.irq_get_ne l (b.inst n) (f.inst n) (by simpa [Fld.inst, Fld.key, hp] using h)

theorem Lane.irq_on_inst (l : Lane) (b : Fld) (n : Nat) (ho : b.off = 0x010) (hh : b.hi = b.lo) (hb : b.lo < 32) :
    (l.irq (b.inst n)).on (b.inst n) = true := Lane.irq_on l (b.inst n) ho hh hb

/-- A lane fault is seen in no field. -/
theorem Lane.get_faulted (l : Lane) (f : Fld) : ({ l with laneflt := true } : Lane).get f = l.get f := rfl

theorem Lane.on_faulted (l : Lane) (f : Fld) : ({ l with laneflt := true } : Lane).on f = l.on f := rfl

/-! ### Engines that stop (01_architecture.md R39) -/

section
variable (l : Lane) (eng st code : Nat)

theorem engineStops_runs (he : eng < 8) (hr : l.get (R.ENG.STATE.inst eng) = 1) : l.engineStops eng st code =
    { ((((l.put (R.ENG.STATE.inst eng) st).put (R.ENG.TRAPC.inst eng) code).put (R.ENG.TRAPFNO.inst eng)
      (((l.put (R.ENG.STATE.inst eng) st).put (R.ENG.TRAPC.inst eng) code).fno % 2 ^ 32)).irq (R.ENG.I_TRAP.inst eng)) with
      laneflt := true } := by
  unfold Lane.engineStops
  rw [if_neg (by simp [Lane.engineRuns, hr, he])]

theorem engineStops_trap (he : eng < 8) (hr : l.get (R.ENG.STATE.inst eng) = 1) (hs : st < 8) (hc : code < 256) :
    (l.engineStops eng st code).laneflt = true ∧ (l.engineStops eng st code).get (R.ENG.STATE.inst eng) = st ∧
      (l.engineStops eng st code).get (R.ENG.TRAPC.inst eng) = code ∧ (l.engineStops eng st code).on (R.ENG.I_TRAP.inst eng) = true := by
  rw [engineStops_runs l eng st code he hr]
  generalize ((l.put (R.ENG.STATE.inst eng) st).put (R.ENG.TRAPC.inst eng) code).fno % 2 ^ 32 = n
  refine ⟨rfl, ?_, ?_, ?_⟩
  · rw [Lane.get_faulted, Lane.irq_get_inst_ne _ R.ENG.I_TRAP R.ENG.STATE eng rfl (by decide),
      Lane.get_put_inst_ne _ R.ENG.TRAPFNO R.ENG.STATE _ _ (by decide) (by decide) rfl (by decide),
      Lane.get_put_inst_ne _ R.ENG.TRAPC R.ENG.STATE _ _ (by decide) (by decide) rfl (by decide), Lane.get_put_inst _ _ _ _ (by decide) (by decide) hs]
  · rw [Lane.get_faulted, Lane.irq_get_inst_ne _ R.ENG.I_TRAP R.ENG.TRAPC eng rfl (by decide),
      Lane.get_put_inst_ne _ R.ENG.TRAPFNO R.ENG.TRAPC _ _ (by decide) (by decide) rfl (by decide),
      Lane.get_put_inst _ _ _ _ (by decide) (by decide) hc]
  · rw [Lane.on_faulted, Lane.irq_on_inst _ _ _ rfl rfl (by decide)]

end

/-- ENGINE_TRAP on a running engine; the trap's PC stands beside it. -/
theorem engineTrap_runs (s : State) (x : LaneId) (eng code : Nat) (pc : Word) (hr : (s.lane x).running = true) (he : eng < 8)
    (hs : (s.lane x).get (R.ENG.STATE.inst eng) = 1) (h1 : 1 ≤ code) (h3 : code ≤ 3) :
    exec (.engineTrap x eng code pc) s =
      .next (s.setLane x (((s.lane x).engineStops eng 3 code).put (R.ENG.TRAPPC.inst eng) pc.toNat)) := by
  refine congrArg Host.Outcome.next ?_
  rw [if_pos ⟨h1, h3⟩, onRunningLane, if_pos hr, onLane, if_pos (by simp [Lane.engineRuns, hs, he])]

theorem watchdogExpiry_runs (s : State) (x : LaneId) (eng : Nat) (hr : (s.lane x).running = true) :
    exec (.watchdogExpiry x eng) s = .next (s.setLane x ((s.lane x).engineStops eng 5 4)) :=
  congrArg Host.Outcome.next (if_pos hr)

/-! ### The report of a failure (18_assay.md R414) -/

theorem arrivalStep2_assay (g : FrameGiven) (l : Lane) (y : Arrival) (r : AssayReport) (h : y.body = .lane (.assay r)) :
    Lane.arrivalStep2 g l y = l.assayReport r := by
  simp only [Lane.arrivalStep2, h]

theorem assayReport_fails (l : Lane) (r : AssayReport) (hty : r.typ = 2) : l.assayReport r =
    (((((l.put R.ASY.FUNIT r.unit).putB R.ASY.FLANE (r.lane == .b)).put R.ASY.FBIT (if r.bit = 0xFF then 0x7F else r.bit)).put
      R.ASY.FADDR r.addr).put R.ASY.FFNO r.fno).irq R.ASY.I_FAIL := by
  simp only [Lane.assayReport, hty]

theorem assayReport_shows (l : Lane) (r : AssayReport) (hty : r.typ = 2) (hb : r.bit < 128) (ha : r.addr < 2 ^ 32) (hu : r.unit < 256) :
    (l.assayReport r).get R.ASY.FUNIT = r.unit ∧ (l.assayReport r).get R.ASY.FADDR = r.addr ∧
      (l.assayReport r).get R.ASY.FBIT = r.bit ∧ (l.assayReport r).on R.ASY.I_FAIL = true := by
  rw [assayReport_fails l r hty, if_neg (by omega), Lane.putB]
  refine ⟨?_, ?_, ?_, Lane.irq_on _ _ rfl rfl (by decide)⟩
  · rw [Lane.irq_get_ne _ _ _ (by decide), Lane.get_put_ne _ _ _ _ (by decide) (by decide) (by decide),
      Lane.get_put_ne _ _ _ _ (by decide) (by decide) (by decide), Lane.get_put_ne _ _ _ _ (by decide) (by decide) (by decide),
      Lane.get_put_ne _ _ _ _ (by decide) (by decide) (by decide), Lane.get_put _ _ _ (by decide) (by decide)]
    exact Nat.mod_eq_of_lt hu
  · rw [Lane.irq_get_ne _ _ _ (by decide), Lane.get_put_ne _ _ _ _ (by decide) (by decide) (by decide),
      Lane.get_put _ _ _ (by decide) (by decide)]
    exact Nat.mod_eq_of_lt ha
  · rw [Lane.irq_get_ne _ _ _ (by decide), Lane.get_put_ne _ _ _ _ (by decide) (by decide) (by decide),
      Lane.get_put_ne _ _ _ _ (by decide) (by decide) (by decide), Lane.get_put _ _ _ (by decide) (by decide)]
    exact Nat.mod_eq_of_lt hb

/-! ### The reports of a verification (17_security.md R400) -/

theorem verReported_hands (s : State) (t : Int) (a b : VerFault) (hl : s.ts.lost = false) (ha : s.activeId.isSome = true)
    (hr : s.hub.running = true) (hra : s.laneA.running = true) (hrb : s.laneB.running = true) (hua : s.laneA.sec.ustate = .verifying)
    (hub : s.laneB.sec.ustate = .verifying) :
    s.verReported t a b =
      { s with hub := s.hub.handOver 116 t (.lane (.verification (s.verReport .a a) (s.verReport .b b))) } := by
  have hn : s.activeId.isNone = false := by simpa using ha
  rw [State.verReported, if_neg (by simp [hl, hn, hr, hra, hrb, hua, hub]), State.setHub]

/-- Without a fault the report gives what E0 finds. -/
theorem verReport_code (s : State) (x : LaneId) : (s.verReport x {}).code =
    ((s.lane x).verReport s.nv (s.ts.role x == .standby) ((s.lane x).sectionsCode s.nv (s.lane x).sec.utgt)).code := by
  unfold State.verReport
  dsimp only
  split
  next h => exact h.symm
  · rfl

/-- A lane that is not standby checks nothing. -/
theorem verReport_other (s : State) (x : LaneId) (h : s.ts.role x ≠ .standby) : (s.verReport x {}).code = 0 := by
  rw [verReport_code, show (s.ts.role x == .standby) = false by simpa using h]
  rfl

theorem verReport_slotBad (s : State) (x : LaneId) (h : s.ts.role x = .standby)
    (hb : s.nv.slotBad (s.lane x).sec.utgt (imagePages (s.nv.nandPage (s.lane x).sec.utgt 0)) = true) :
    (s.verReport x {}).code = 0x2C4B := by
  rw [verReport_code, h]
  simp [Lane.verReport, hb]

theorem arrivalStep2_verification (g : FrameGiven) (l : Lane) (y : Arrival) (a b : VerReport) (h : y.body = .lane (.verification a b)) :
    Lane.arrivalStep2 g l y = l.verification a b := by
  simp only [Lane.arrivalStep2, h]

theorem updFail_ustate (l : Lane) (code : Nat) : (l.updFail code).sec.ustate = .staging := by
  simp [Lane.updFail, Lane.setSec]

theorem updFail_upderr (l : Lane) (code : Nat) (h : code < 65536) : (l.updFail code).get R.LCS.UPDERR = code := by
  have hkey : R.LCS.UPDERR.key = 0x2C0BC := by decide
  rw [Lane.updFail, Lane.irq_get_ne _ _ _ (by decide), Lane.post_get_ne _ _ _ (by omega) (by omega),
    Lane.get_put _ _ _ (by decide) (by decide)]
  exact Nat.mod_eq_of_lt h

theorem emitNv_sec (l : Lane) (r : NvReq) : (l.emitNv r).sec = l.sec := rfl

theorem nvPut_sec (l : Lane) (part rid : Nat) (data : List Byte) (prio re : Bool) : (l.nvPut part rid data prio re).sec = l.sec := by
  unfold Lane.nvPut
  dsimp only
  split
  · rfl
  split
  · rw [emitNv_sec]
    cases re
    · exact Lane.inc_sec _ _ _
    · rfl
  · rfl

section
variable (l : Lane) (a b : VerReport) (hu : l.sec.ustate = .verifying)
include hu

theorem verification_failsA (ha : a.code ≠ 0) : l.verification a b = l.updFail a.code.toNat := by
  rw [Lane.verification, if_neg (by simp [hu]), if_pos ha]

theorem verification_differs (ha : a.code = 0) (hb : b.code = 0) (hd : a.digest ≠ b.digest) :
    l.verification a b = l.updFail 0x2C4D := by
  rw [Lane.verification, if_neg (by simp [hu]), if_neg (by simp [ha]), if_neg (by simp [hb]), if_pos hd]

theorem verification_passes (ha : a.code = 0) (hb : b.code = 0) (hd : a.digest = b.digest) :
    (l.verification a b).sec.ustate = .verified := by
  rw [Lane.verification, if_neg (by simp [hu]), if_neg (by simp [ha]), if_neg (by simp [hb]), if_neg (by simp [hd])]
  dsimp only
  rw [Lane.irq_sec, Lane.putManifest, Lane.setSec, nvPut_sec]
  rfl

end

/-! ### Transfers and the re-power of a lane (05_touchstone.md R127, R128, R130) -/

section
variable (r : Transfer) (n : Nat) (hp : r.phase = 2) (hf : r.failed = false)
include hp hf

theorem passEnd_final (hn : n ≤ 262144) : r.passEnd n = { r with phase := 3, lines := n } := by
  rw [Transfer.passEnd, if_neg (by simp [hp, hf]), if_pos hn]

theorem passEnd_again (hn : 262144 < n) (h : r.passes < 16) : r.passEnd n = { r with passes := r.passes + 1, lines := n } := by
  rw [Transfer.passEnd, if_neg (by simp [hp, hf]), if_neg (by omega), if_neg (by omega)]

theorem passEnd_seventeenth (hn : 262144 < n) (h : 16 ≤ r.passes) : r.passEnd n = { r with failed := true, lines := n } := by
  rw [Transfer.passEnd, if_neg (by simp [hp, hf]), if_neg (by omega), if_pos h]

end

theorem precopyPassEnd_transfer (s : State) (r q : Transfer) (n : Nat) (h : s.ts.transfer = some r) (hq : r.passEnd n = q) :
    exec (.precopyPassEnd n) s = .next { s with ts := { s.ts with transfer := some q } } := by
  refine congrArg Host.Outcome.next ?_
  rw [State.setTs, h, Option.map_some, hq]

theorem transferTimeout_fails (s : State) (r : Transfer) (h : s.ts.transfer = some r) (h1 : 1 ≤ r.phase) (h3 : r.phase ≤ 3)
    (ht : r.started + 10000 ≤ s.hub.fno) :
    s.transferTimeout = { s with ts := { s.ts with transfer := some { r with failed := true } } } := by
  rw [State.transferTimeout, State.setTs, h, Option.map_some, if_pos ⟨h1, h3, ht⟩]

theorem setDom_isOn (p : Power) (x : LaneId) : (p.setDom (laneDom x) true).isOn (laneDom x) = true := by
  cases x <;> simp [Power.setDom, Power.isOn, laneDom]

theorem laneRepower_on (s : State) (x : LaneId) (n : Nat) (h : s.ts.rstOff x = some n) (hn : 10 ≤ n)
    (hoff : s.pwr.isOn (laneDom x) = false) (hrole : s.ts.role x = .off) (hl : s.ts.lost = false) : s.laneRepower x = s.laneOn x := by
  rw [State.laneRepower, h]
  exact if_pos ⟨hn, by simp [hoff], hrole, by simp [hl]⟩

theorem laneOn_power (s : State) (x : LaneId) : (s.laneOn x).pwr.isOn (laneDom x) = true := by
  rw [State.laneOn, State.setLane_pwr]
  exact setDom_isOn s.pwr x

theorem laneOn_lane (s : State) (x : LaneId) : (s.laneOn x).lane x = { s.lane x with phase := 3 } := by
  rw [State.laneOn, State.setLane_lane]
  cases x <;> rfl

theorem laneOn_other (s : State) (x : LaneId) : (s.laneOn x).lane x.other = s.lane x.other := by cases x <;> rfl

/-- Settles O37: each row completes as one arrival, one transfer state or one lane whose fields the register rules give. -/
theorem reportsTransfersAndEngineFaults : Obligations.ReportsTransfersAndEngineFaults := by
  intro s x
  refine ⟨fun r hl ha hr => ⟨fun hty => ?_, fun hty hrun => ?_, fun g y hy hty hb had hu => ?_⟩, fun a b hl ha hr hra hrb hua hub => ?_,
    ⟨verReport_other s x, verReport_slotBad s x⟩, fun g y a b hy hu => ?_, fun r n h hp hf => ⟨fun hn => ?_, fun hn hps => ?_, fun hn hps => ?_⟩,
    fun r h h1 h3 ht => ?_, fun n h hn hoff hrole hl => ?_, fun hr => ?_, fun eng he hr hs => ⟨fun code pc h1 h3 => ?_, ?_⟩⟩
  · exact congrArg Host.Outcome.next (assayReported_other s 0 r hr ha hl hty)
  · exact congrArg Host.Outcome.next (assayReported_repair s 0 r hr ha hl hty hrun)
  · rw [arrivalStep2_assay g (s.lane x) y r hy]
    exact assayReport_shows (s.lane x) r hty hb had hu
  · exact congrArg Host.Outcome.next (verReported_hands s 0 a b hl ha hr hra hrb hua hub)
  · rw [arrivalStep2_verification g (s.lane x) y a b hy]
    refine ⟨verification_passes _ a b hu, fun ha hb hd => ?_, fun ha => ?_⟩
    · rw [verification_differs _ a b hu ha hb hd]
      exact ⟨updFail_ustate _ _, updFail_upderr _ _ (by decide)⟩
    · rw [verification_failsA _ a b hu ha]
      exact ⟨updFail_ustate _ _, updFail_upderr _ _ a.code.isLt⟩
  · exact precopyPassEnd_transfer s r _ n h (passEnd_final r n hp hf hn)
  · exact precopyPassEnd_transfer s r _ n h (passEnd_again r n hp hf hn hps)
  · exact precopyPassEnd_transfer s r _ n h (passEnd_seventeenth r n hp hf hn hps)
  · exact congrArg Host.Outcome.next (transferTimeout_fails s r h h1 h3 ht)
  · exact ⟨s.laneOn x, congrArg Host.Outcome.next (laneRepower_on s x n h hn hoff hrole hl), laneOn_power s x, laneOn_lane s x,
      laneOn_other s x⟩
  · exact congrArg Host.Outcome.next (if_pos hr)
  · obtain ⟨hflt, hst, htc, hon⟩ := engineStops_trap (s.lane x) eng 3 code he hs (by decide) (by omega)
    refine ⟨_, engineTrap_runs s x eng code pc hr he hs h1 h3, ?_⟩
    rw [State.setLane_lane]
    refine ⟨rfl, hflt, ?_, ?_, ?_, ?_⟩
    · exact (Lane.get_put_inst_ne _ R.ENG.TRAPPC R.ENG.STATE _ _ (by decide) (by decide) rfl (by decide)).trans hst
    · exact (Lane.get_put_inst_ne _ R.ENG.TRAPPC R.ENG.TRAPC _ _ (by decide) (by decide) rfl (by decide)).trans htc
    · exact Lane.get_put_inst _ R.ENG.TRAPPC _ _ (by decide) (by decide) pc.isLt
    · rwa [Lane.on, Lane.get_put_inst_ne _ R.ENG.TRAPPC R.ENG.I_TRAP _ _ (by decide) (by decide) rfl (by decide), ← Lane.on]
  · obtain ⟨hflt, hst, htc, -⟩ := engineStops_trap (s.lane x) eng 5 4 he hs (by decide) (by decide)
    refine ⟨_, watchdogExpiry_runs s x eng hr, ?_⟩
    rw [State.setLane_lane]
    exact ⟨rfl, hflt, hst, htc⟩

end Sys2Proof.Machine
end

section
/-! Deliveries and deadline misses (O34). -/

namespace Sys2Proof.Machine

/-! ### What a lane answers for a frame with -/

/-- What the output frame and the heartbeat of a lane are made of: its entries, whether it lost the input frame, and the
registers of pages SYS and FRAME. -/
structure FrameView where
  out : List OutEntry
  inloss : Bool
  low : Nat → Word

def Lane.frameView (l : Lane) : FrameView where
  out := l.out
  inloss := l.inloss
  low := fun k => if k < 0x2000 then l.reg k else 0

theorem frameView_reg {l m : Lane} (h : m.frameView = l.frameView) (k : Nat) (hk : k < 0x2000) : m.reg k = l.reg k := by
  have hlow := congrArg (fun v => v.low k) h
  simpa [Lane.frameView, hk] using hlow

theorem frameView_get {l m : Lane} (h : m.frameView = l.frameView) (f : Fld) (hf : f.key < 0x2000) : m.get f = l.get f := by
  rw [Lane.get, frameView_reg h f.key hf, ← Lane.get]

theorem frameView_out {l m : Lane} (h : m.frameView = l.frameView) : m.out = l.out := congrArg FrameView.out h

theorem frameView_inloss {l m : Lane} (h : m.frameView = l.frameView) : m.inloss = l.inloss := congrArg FrameView.inloss h

theorem frameView_fno {l m : Lane} (h : m.frameView = l.frameView) : m.fno = l.fno := by
  rw [Lane.fno, Lane.get64, frameView_get h _ (by decide), frameView_get h _ (by decide), ← Lane.get64, ← Lane.fno]

theorem frameView_cfgFp {l m : Lane} (h : m.frameView = l.frameView) : m.cfgFp = l.cfgFp := by
  rw [Lane.cfgFp, Lane.get64, frameView_get h _ (by decide), frameView_get h _ (by decide), ← Lane.get64, ← Lane.cfgFp]

/-! ### Findings (18_assay.md R408, R410) -/

theorem setReg_frameView (l : Lane) (k : Nat) (w : Word) (h : 0x2000 ≤ k) : (l.setReg k w).frameView = l.frameView := by
  unfold Lane.frameView
  congr 1
  funext j
  split
  · exact Lane.reg_setReg_ne _ _ _ _ (by omega)
  · rfl

theorem put_frameView (l : Lane) (f : Fld) (v : Nat) (h : 0x2000 ≤ f.key) : (l.put f v).frameView = l.frameView :=
  setReg_frameView l f.key _ h

theorem inc_frameView (l : Lane) (f : Fld) (n : Nat) (h : 0x2000 ≤ f.key) : (l.inc f n).frameView = l.frameView :=
  put_frameView l f _ h

theorem irq_frameView (l : Lane) (b : Fld) (h : 2 ≤ b.page) : (l.irq b).frameView = l.frameView :=
  setReg_frameView l (b.page * 0x1000 + 0x010) _ (by omega)

theorem inst_key (f : Fld) (n : Nat) : (f.inst n).key = f.key + n * 0x1000 := by
  simp only [Fld.inst, Fld.key]
  omega

theorem poolCorrected_frameView (l : Lane) (row : Nat) : (l.poolCorrected row).frameView = l.frameView := by
  unfold Lane.poolCorrected
  dsimp only
  rw [irq_frameView _ _ (by decide), inc_frameView _ _ _ (by decide)]
  rfl

theorem sramCorrected_frameView (l : Lane) (arr : Nat) : (l.sramCorrected arr).frameView = l.frameView := by
  have hkey : R.ENG.SRAMCE.key = 0x8060 := by decide
  have hpage : R.ENG.I_CE.page = 8 := by decide
  unfold Lane.sramCorrected
  split
  · rw [irq_frameView _ _ (by simp [Fld.inst]; omega), inc_frameView _ _ _ (by rw [inst_key]; omega)]
  · rfl

theorem correctedError_frameView (l : Lane) (arr row : Nat) : (l.correctedError arr row).frameView = l.frameView := by
  have count (g : Assay → Assay) : ((l.setAsy g).inc R.ASY.CECNT).frameView = l.frameView := inc_frameView _ _ _ (by decide)
  unfold Lane.correctedError
  dsimp only
  split
  · rw [poolCorrected_frameView, count]
  · rw [sramCorrected_frameView, count]

theorem poolCorrected_laneflt (l : Lane) (row : Nat) : (l.poolCorrected row).laneflt = l.laneflt := by
  unfold Lane.poolCorrected
  simp

theorem sramCorrected_laneflt (l : Lane) (arr : Nat) : (l.sramCorrected arr).laneflt = l.laneflt := by
  unfold Lane.sramCorrected
  split
  · simp
  · rfl

theorem correctedError_laneflt (l : Lane) (arr row : Nat) : (l.correctedError arr row).laneflt = l.laneflt := by
  unfold Lane.correctedError
  dsimp only
  split
  · rw [poolCorrected_laneflt, Lane.inc_laneflt, Lane.setAsy_laneflt]
  · rw [sramCorrected_laneflt, Lane.inc_laneflt, Lane.setAsy_laneflt]

theorem takeFinding_frameView (l : Lane) (f : Finding) : (l.takeFinding f).frameView = l.frameView := by
  cases f with
  | corrected arr row =>
    unfold Lane.takeFinding
    dsimp only
    split
    · exact correctedError_frameView l arr row
    · rfl
  | uncorrectable | restoreBad => rfl

/-- A finding that is a lane fault. -/
def findingFaults (f : Finding) : Bool := f == .uncorrectable || f == .restoreBad

theorem takeFinding_laneflt (l : Lane) (f : Finding) : (l.takeFinding f).laneflt = (l.laneflt || findingFaults f) := by
  cases f with
  | corrected arr row =>
    have hno : findingFaults (.corrected arr row) = false := rfl
    rw [hno, Bool.or_false, Lane.takeFinding]
    split
    · exact correctedError_laneflt l arr row
    · rfl
  | uncorrectable | restoreBad => exact (Bool.or_true _).symm

theorem takeFindings_frameView (fs : List Finding) (l : Lane) : (fs.foldl Lane.takeFinding l).frameView = l.frameView :=
  foldl_keeps Lane.frameView _ _ fun l f _ => takeFinding_frameView l f

theorem takeFindings_laneflt (fs : List Finding) (l : Lane) :
    (fs.foldl Lane.takeFinding l).laneflt = (l.laneflt || fs.any findingFaults) := by
  induction fs generalizing l with
  | nil => simp
  | cons f fs ih => rw [List.foldl_cons, ih, takeFinding_laneflt, List.any_cons, Bool.or_assoc]

/-! ### The Assay window behind a delivery (18_assay.md R409) -/

/-- What a lane has handed on. -/
def Lane.handed (l : Lane) : Option OutFrame × Option Heartbeat := (l.delivered, l.hb)

theorem bgSlices_handed (n : Nat) (l : Lane) : (l.bgSlices n).handed = l.handed := by
  induction n generalizing l with
  | zero => rfl
  | succ n ih =>
    unfold Lane.bgSlices
    dsimp only
    rw [ih]
    split <;> simp [Lane.handed]

theorem assayWindow_handed (l : Lane) (margin : Nat) : (l.assayWindow margin).handed = l.handed := by
  have hslices (l : Lane) (room : Nat) : (l.targetedSlices room).1.handed = l.handed := by
    unfold Lane.targetedSlices
    split <;> rfl
  have hlast (l : Lane) (room : Nat) :
      (if l.on R.ASY.BGEN then l.bgSlices (min room (l.get R.ASY.BGRATE)) else l).handed = l.handed := by
    split
    · exact bgSlices_handed _ l
    · rfl
  unfold Lane.assayWindow
  rw [← hslices l (slicesFrom (600 - margin))]
  generalize l.targetedSlices (slicesFrom (600 - margin)) = r
  dsimp only
  split
  · rfl
  split
  · rfl
  · rw [hlast]
    split
    · split_ifs <;> rfl
    · rfl

/-! ### The output frame leaves (01_architecture.md R27, 05_touchstone.md R112) -/

/-- The slack of the delivery, where it is the least. -/
def Lane.noteSlack (l : Lane) (margin : Nat) : Lane :=
  if l.get R.FRAME.SLACKMIN ≤ margin then l else l.put R.FRAME.SLACKMIN (min margin 65535)

section
variable (l : Lane) (margin : Nat)

theorem noteSlack_get_ne (f : Fld) (h : f.key ≠ R.FRAME.SLACKMIN.key) : (l.noteSlack margin).get f = l.get f := by
  unfold Lane.noteSlack
  split
  · rfl
  · rw [Lane.get, Lane.reg_put_ne _ _ _ _ h, ← Lane.get]

theorem noteSlack_fno : (l.noteSlack margin).fno = l.fno := by
  rw [Lane.fno, Lane.get64, noteSlack_get_ne l margin _ (by decide), noteSlack_get_ne l margin _ (by decide), ← Lane.get64, ← Lane.fno]

theorem noteSlack_cfgFp : (l.noteSlack margin).cfgFp = l.cfgFp := by
  rw [Lane.cfgFp, Lane.get64, noteSlack_get_ne l margin _ (by decide), noteSlack_get_ne l margin _ (by decide), ← Lane.get64,
    ← Lane.cfgFp]

theorem noteSlack_out : (l.noteSlack margin).out = l.out := by
  unfold Lane.noteSlack
  split
  · rfl
  · exact Lane.put_out _ _ _

theorem noteSlack_inloss : (l.noteSlack margin).inloss = l.inloss := by
  unfold Lane.noteSlack
  split
  · rfl
  · exact Lane.put_inloss _ _ _

theorem noteSlack_laneflt : (l.noteSlack margin).laneflt = l.laneflt := by
  unfold Lane.noteSlack
  split
  · rfl
  · exact Lane.put_laneflt _ _ _

end

/-- The lane that a delivery is assembled of: what ECC found is taken, and what the self-tests failed with noted. -/
def Lane.delivering (l : Lane) (d : Delivery) : Lane :=
  (d.finds.foldl Lane.takeFinding { l.noteSlack d.margin with asyfail := (l.noteSlack d.margin).asyfail || d.asyFail }).noteTargeted d.ttFail

section
variable (l : Lane) (d : Delivery)

theorem delivering_view : (l.delivering d).frameView = (l.noteSlack d.margin).frameView := by
  unfold Lane.delivering
  exact takeFindings_frameView d.finds _

theorem delivering_fno : (l.delivering d).fno = l.fno := (frameView_fno (delivering_view l d)).trans (noteSlack_fno l d.margin)

theorem delivering_cfgFp : (l.delivering d).cfgFp = l.cfgFp := (frameView_cfgFp (delivering_view l d)).trans (noteSlack_cfgFp l d.margin)

theorem delivering_out : (l.delivering d).out = l.out := (frameView_out (delivering_view l d)).trans (noteSlack_out l d.margin)

theorem delivering_inloss : (l.delivering d).inloss = l.inloss :=
  (frameView_inloss (delivering_view l d)).trans (noteSlack_inloss l d.margin)

theorem delivering_laneflt : (l.delivering d).laneflt = (l.laneflt || d.finds.any findingFaults) := by
  rw [← noteSlack_laneflt l d.margin]
  exact takeFindings_laneflt d.finds _

theorem upsetEntry_none (e : OutEntry) : upsetEntry none e = e := rfl

theorem deliver_handed (p : Power) : (l.deliver p d).handed =
    (some { fno := (l.delivering d).closeOut.fno, fp := .ofNat 64 (l.delivering d).closeOut.cfgFp
            entries := (l.delivering d).closeOut.lastOut.map (upsetEntry d.upset), ok := d.intact },
      some ((l.delivering d).closeOut.heartbeat p false d.hbIntact)) :=
  assayWindow_handed _ d.margin

theorem deliver_delivered (p : Power) (hu : d.upset = none) : (l.deliver p d).delivered =
    some { fno := l.fno, fp := .ofNat 64 l.cfgFp, entries := (assembleOut l.out).1, ok := d.intact } := by
  have hes : (l.delivering d).closeOut.lastOut.map (upsetEntry d.upset) = (assembleOut l.out).1 := by
    rw [hu, List.map_congr_left (fun e _ => upsetEntry_none e), List.map_id', ← delivering_out l d]
    rfl
  rw [show (l.deliver p d).delivered = _ from congrArg Prod.fst (deliver_handed l d p), hes, ← delivering_fno l d, ← delivering_cfgFp l d]
  rfl

theorem deliver_laneflt (p : Power) : (l.deliver p d).laneflt = false := rfl

end

/-! ### A missed deadline (04_frame.md R90, 09_control_loops.md R219) -/

theorem Lane.inc_get (l : Lane) (f : Fld) (n : Nat) (h1 : f.lo ≤ f.hi) (h2 : f.hi < 32) :
    (l.inc f n).get f = satAdd f.width (l.get f) n := by
  rw [Lane.inc, Lane.get_put _ _ _ h1 h2]
  refine Nat.mod_eq_of_lt (lt_of_le_of_lt (Nat.min_le_right _ _) ?_)
  have hpos := Nat.two_pow_pos f.width
  show 2 ^ f.width - 1 < 2 ^ f.width
  omega

theorem Lane.inc_get_ne (l : Lane) (f g : Fld) (n : Nat) (h : g.key ≠ f.key) : (l.inc f n).get g = l.get g := by
  rw [Lane.inc, Lane.get, Lane.reg_put_ne _ _ _ _ h, ← Lane.get]

/-- What a miss counts. -/
def Lane.missCounted (l : Lane) (why : Lateness) : Lane :=
  if why = .frame then (l.inc R.FRAME.LATECNT).irq R.FRAME.I_LATE else ((l.inc R.FRAME.LATECNT).irq R.FRAME.I_LATE).loopLate

section
variable (l : Lane) (why : Lateness)

theorem missCounted_latecnt : (l.missCounted why).get R.FRAME.LATECNT = satAdd R.FRAME.LATECNT.width (l.get R.FRAME.LATECNT) 1 := by
  have hlate : ((l.inc R.FRAME.LATECNT).irq R.FRAME.I_LATE).get R.FRAME.LATECNT =
      satAdd R.FRAME.LATECNT.width (l.get R.FRAME.LATECNT) 1 := by
    rw [Lane.irq_get_ne _ _ _ (by decide), Lane.inc_get _ _ _ (by decide) (by decide)]
  unfold Lane.missCounted
  split
  · exact hlate
  · rw [Lane.loopLate, Lane.irq_get_ne _ _ _ (by decide), Lane.inc_get_ne _ _ _ _ (by decide), hlate]

theorem missCounted_ldmiss : (l.missCounted why).get R.LOOP.LDMISS =
    if why = .frame then l.get R.LOOP.LDMISS else satAdd R.LOOP.LDMISS.width (l.get R.LOOP.LDMISS) 1 := by
  have hld : ((l.inc R.FRAME.LATECNT).irq R.FRAME.I_LATE).get R.LOOP.LDMISS = l.get R.LOOP.LDMISS := by
    rw [Lane.irq_get_ne _ _ _ (by decide), Lane.inc_get_ne _ _ _ _ (by decide)]
  unfold Lane.missCounted
  split
  · exact hld
  · rw [Lane.loopLate, Lane.irq_get_ne _ _ _ (by decide), Lane.inc_get _ _ _ (by decide) (by decide), hld]

theorem missCounted_inloss : (l.missCounted why).inloss = l.inloss := by
  unfold Lane.missCounted Lane.loopLate
  split <;> simp

theorem missCounted_delivered : (l.missCounted why).delivered = l.delivered := by
  unfold Lane.missCounted Lane.loopLate
  split <;> simp

/-- A lane that has its input frame closes the output frame without handing it on, and says so. -/
def Lane.withheld (l : Lane) (p : Power) (fno : Nat) : Lane :=
  ({ l.closeOut with hb := some { l.closeOut.heartbeat p true true with fno } } : Lane).faultsTold

theorem late_counts (p : Power) (fno : Nat) (bad : Bool) (h : l.inloss = false) : l.late p fno why bad =
    if why = .passes then { ((l.noteTargeted bad).missCounted why).withheld p fno with laneflt := true }
    else ((l.noteTargeted bad).missCounted why).withheld p fno := by
  have hin : ((l.noteTargeted bad).missCounted why).inloss = false := (missCounted_inloss _ why).trans h
  unfold Lane.late
  dsimp only
  rw [show (if why = .frame then ((l.noteTargeted bad).inc R.FRAME.LATECNT).irq R.FRAME.I_LATE
    else (((l.noteTargeted bad).inc R.FRAME.LATECNT).irq R.FRAME.I_LATE).loopLate) = (l.noteTargeted bad).missCounted why from rfl, hin]
  rfl

theorem late_get (p : Power) (fno : Nat) (bad : Bool) (h : l.inloss = false) (f : Fld) :
    (l.late p fno why bad).get f = ((l.noteTargeted bad).missCounted why).get f := by
  rw [late_counts l why p fno bad h]
  split
  · rfl
  · rfl

theorem late_handed (p : Power) (fno : Nat) (bad : Bool) (h : l.inloss = false) : (l.late p fno why bad).handed =
    (l.delivered, some { ((l.noteTargeted bad).missCounted why).closeOut.heartbeat p true true with fno }) := by
  have hd : ((l.noteTargeted bad).missCounted why).delivered = l.delivered := missCounted_delivered _ why
  rw [late_counts l why p fno bad h, ← hd]
  split
  · rfl
  · rfl

theorem late_laneflt (p : Power) (fno : Nat) (bad : Bool) (h : l.inloss = false) :
    (l.late p fno why bad).laneflt = decide (why = .passes) := by
  rw [late_counts l why p fno bad h]
  split
  next hw => exact (decide_eq_true hw).symm
  next hw => exact (decide_eq_false hw).symm

end

/-! ### The rows -/

section
variable (s : State) (x : LaneId)

theorem onSource_none (h : s.ts.transfer = none) (f : Transfer → Transfer) : s.onSource x f = s := by
  rw [State.onSource, State.setTs, h, Option.map_none, ← h]

theorem outputFrameDelivery_shut (h : s.mayDeliver x = false) (d : Delivery) : s.outputFrameDelivery x d = s := if_pos (by simp [h])

theorem deadlineMiss_shut (h : s.mayDeliver x = false) (why : Lateness) (bad : Bool) : s.deadlineMiss x why bad = s :=
  if_pos (by simp [h])

theorem outputFrameDelivery_loops (hm : s.mayDeliver x = true) (hin : (s.lane x).inloss = false) (d : Delivery)
    (hl : (s.lane x).loopsLate = true) :
    s.outputFrameDelivery x d = s.deadlineMiss x .passes d.ttFail := by
  rw [State.outputFrameDelivery, State.deadlineMiss, if_neg (by simp [hm]), if_neg (by simp [hin]), if_pos hl, if_neg (by simp [hm])]

variable (hm : s.mayDeliver x = true) (ht : s.ts.transfer = none)
include hm ht

theorem outputFrameDelivery_lost (d : Delivery) (hin : (s.lane x).inloss = true) : s.outputFrameDelivery x d =
    s.setLane x { s.lane x with
      hb := some { ((s.lane x).noteTargeted d.ttFail).heartbeat s.pwr true d.hbIntact with fno := s.hub.fno } } := by
  rw [State.outputFrameDelivery, if_neg (by simp [hm]), if_pos hin, onSource_none, onLane]
  rwa [onLane, State.setLane_ts]

theorem deadlineMiss_late (why : Lateness) (bad : Bool) :
    s.deadlineMiss x why bad = s.setLane x ((s.lane x).late s.pwr s.hub.fno why bad) := by
  rw [State.deadlineMiss, if_neg (by simp [hm]), onSource_none, onLane]
  rwa [onLane, State.setLane_ts]

variable (hin : (s.lane x).inloss = false)
include hin

theorem outputFrameDelivery_delivers (d : Delivery) (hl : (s.lane x).loopsLate = false) :
    s.outputFrameDelivery x d = s.setLane x ((s.lane x).deliver s.pwr d) := by
  rw [State.outputFrameDelivery, if_neg (by simp [hm]), if_neg (by simp [hin]), if_neg (by simp [hl]), onSource_none, onLane]
  rwa [onLane, State.setLane_ts]

end

/-- Settles O34: a delivery hands on what the lane has assembled, a miss its heartbeat alone. -/
theorem deliveriesAndDeadlines : Obligations.DeliveriesAndDeadlines := by
  intro s x d
  refine ⟨fun hm => ⟨congrArg Host.Outcome.next (outputFrameDelivery_shut s x hm d),
      fun why bad => congrArg Host.Outcome.next (deadlineMiss_shut s x hm why bad)⟩,
    fun hm hin ht => ⟨fun hl => congrArg Host.Outcome.next (outputFrameDelivery_loops s x hm hin d hl), fun hu hl => ?_, fun why bad => ?_⟩,
    fun hm hin ht => ?_⟩
  · refine ⟨_, ((s.lane x).delivering d).closeOut.heartbeat s.pwr false d.hbIntact,
      congrArg Host.Outcome.next (outputFrameDelivery_delivers s x hm ht hin d hl), ?_⟩
    rw [State.setLane_lane]
    exact ⟨rfl, deliver_delivered _ d s.pwr hu, congrArg Prod.snd (deliver_handed _ d s.pwr), delivering_fno _ d, rfl,
      (delivering_inloss _ d).trans hin, rfl, delivering_laneflt _ d, deliver_laneflt _ d s.pwr⟩
  · have hh := late_handed (s.lane x) why s.pwr s.hub.fno bad hin
    refine ⟨_, { (((s.lane x).noteTargeted bad).missCounted why).closeOut.heartbeat s.pwr true true with fno := s.hub.fno },
      congrArg Host.Outcome.next (deadlineMiss_late s x hm ht why bad), ?_⟩
    rw [State.setLane_lane]
    refine ⟨rfl, ?_, ?_, congrArg Prod.fst hh, congrArg Prod.snd hh, rfl, rfl, late_laneflt (s.lane x) why s.pwr s.hub.fno bad hin⟩
    · rw [late_get (s.lane x) why s.pwr s.hub.fno bad hin, missCounted_latecnt]
      rfl
    · rw [late_get (s.lane x) why s.pwr s.hub.fno bad hin, missCounted_ldmiss]
      rfl
  · refine ⟨_, { ((s.lane x).noteTargeted d.ttFail).heartbeat s.pwr true d.hbIntact with fno := s.hub.fno },
      congrArg Host.Outcome.next (outputFrameDelivery_lost s x hm ht d hin), ?_⟩
    rw [State.setLane_lane]
    exact ⟨rfl, rfl, rfl, rfl⟩

end Sys2Proof.Machine
end

section
/-! The input instant and a frame queued for a link that does not exist (O33). -/

namespace Sys2Proof.Machine

/-- A closed frame 0 without arrivals. -/
def strayInput : InputFrame where
  trailer := { fno := 0, acnt := 0, nt := 0, sync := .free, calq := false, cal := 0, flen := 1000000 }
  arrivals := []

/-- Lane A runs frames, frame 0 has closed, and a frame waits in the fabric switch for a fifth link. Nothing queues such a
frame, but the statement is about every state. -/
def strayState : State where
  __ := State.reset
  laneA := { State.reset.laneA with running := true }
  hub := { closed := some strayInput, ports := { egr := [{ link := 4, tc := 0, since := 0, data := [] }] } }

/-- QDROP of the fifth link would stand in the page behind the links': lane A counts the discarded frame there. -/
theorem strayState_counts : (strayState.inputInstant true false).laneA.reg 0x41068 = 1 ∧ strayState.laneA.reg 0x41068 = 0 := by
  decide +kernel

/-- Refutes O33: the frame queued for link 4 is discarded, and counted at 0x41068, which is QDROP of none of the four links. -/
theorem not_inputInstantRunsLanes : ¬ Obligations.InputInstantRunsLanes := by
  intro h
  obtain ⟨t, ht, -, -, hlost, -⟩ := h strayState strayInput true false .a rfl rfl rfl rfl rfl rfl rfl
    (fun v hv => by subst hv; decide) rfl
  obtain ⟨-, -, hregs⟩ := hlost rfl
  have ht : strayState.inputInstant true false = t := Host.Outcome.next.inj ht
  subst ht
  obtain ⟨hcounted, hbefore⟩ := strayState_counts
  have hkept : (strayState.inputInstant true false).laneA.reg 0x41068 = strayState.laneA.reg 0x41068 := hregs 0x41068 (by decide)
  rw [hcounted, hbefore] at hkept
  exact absurd hkept (by decide)

end Sys2Proof.Machine
end

section
/-! The start and the close of a frame (O32). -/

namespace Sys2Proof.Machine

/-! ### What the rest of FRAME_START leaves (04_frame.md R86, R88) -/

/-- What is set when a frame opens and stays: the frame's number and time, that nothing has been closed, applied or sent, the
measurements, PD_TS and PD_IO, the calendar, the store, the queue of commands and the start-up. -/
structure BeginView where
  running : Bool
  fno : Nat
  upFrames : Nat
  tb : Int
  flenPrev : Nat
  closed : Option InputFrame
  applied : Bool
  sent : List Sent
  meas : SupplyMeas
  holdRdy : Bool
  tsOn : Bool
  ioOn : Bool
  cal : Calendar
  nv : NvStore
  pending : List Instr
  startup : Option Startup

def State.beginView (s : State) : BeginView where
  running := s.hub.running
  fno := s.hub.fno
  upFrames := s.hub.upFrames
  tb := s.hub.tb
  flenPrev := s.hub.flenPrev
  closed := s.hub.closed
  applied := s.hub.applied
  sent := s.hub.ports.sent
  meas := s.pwr.meas
  holdRdy := s.pwr.holdRdy
  tsOn := s.pwr.isOn 1
  ioOn := s.pwr.isOn 7
  cal := s.cal
  nv := s.nv
  pending := s.pending
  startup := s.startup

theorem beginView_hub {s : State} {v : BeginView} (h : s.beginView = v) : s.hub.running = v.running ∧ s.hub.fno = v.fno ∧
    s.hub.upFrames = v.upFrames ∧ s.hub.tb = v.tb ∧ s.hub.flenPrev = v.flenPrev ∧ s.hub.closed = v.closed ∧ s.hub.applied = v.applied ∧
    s.hub.ports.sent = v.sent := by
  subst h
  exact ⟨rfl, rfl, rfl, rfl, rfl, rfl, rfl, rfl⟩

theorem beginView_rest {s : State} {v : BeginView} (h : s.beginView = v) : s.pwr.meas = v.meas ∧ s.pwr.holdRdy = v.holdRdy ∧
    s.pwr.isOn 1 = v.tsOn ∧ s.pwr.isOn 7 = v.ioOn ∧ s.cal = v.cal ∧ s.nv = v.nv ∧ s.pending = v.pending ∧ s.startup = v.startup := by
  subst h
  exact ⟨rfl, rfl, rfl, rfl, rfl, rfl, rfl, rfl⟩

theorem setLane_beginView (s : State) (x : LaneId) (l : Lane) : (s.setLane x l).beginView = s.beginView := by cases x <;> rfl

theorem setTs_beginView (s : State) (f : Touchstone → Touchstone) : (s.setTs f).beginView = s.beginView := rfl

theorem onLanes_beginView (s : State) (f : Lane → Lane) : (onLanes f s).beginView = s.beginView := rfl

theorem lanes_beginView (s : State) (a b : Lane) : ({ s with laneA := a, laneB := b } : State).beginView = s.beginView := rfl

/-- PD_LA and PD_LB are neither PD_TS nor PD_IO. -/
theorem setDom_lane_isOn (p : Power) (x : LaneId) : (p.setDom (laneDom x) true).isOn 1 = p.isOn 1 ∧
    (p.setDom (laneDom x) true).isOn 7 = p.isOn 7 := by
  cases x <;> simp [Power.setDom, Power.isOn, laneDom]

theorem laneOn_beginView (s : State) (x : LaneId) : (s.laneOn x).beginView = s.beginView := by
  obtain ⟨h1, h7⟩ := setDom_lane_isOn s.pwr x
  unfold State.laneOn
  dsimp only
  rw [setLane_beginView]
  unfold State.beginView State.setPwr
  dsimp only
  rw [h1, h7]
  rfl

theorem laneRepower_beginView (s : State) (x : LaneId) : (s.laneRepower x).beginView = s.beginView := by
  unfold State.laneRepower
  split
  · split
    · exact laneOn_beginView s x
    · rfl
  · rfl

theorem tsFrame_beginView (s : State) : s.tsFrame.beginView = s.beginView := by
  unfold State.tsFrame
  dsimp only
  rw [laneRepower_beginView, laneRepower_beginView]
  rfl

theorem rejoin_beginView (s : State) : s.rejoin.beginView = s.beginView := by
  unfold State.rejoin
  split
  · split
    · exact (setTs_beginView _ _).trans (setLane_beginView s _ _)
    · rfl
  · rfl

theorem complete_beginView (s : State) (src len : Nat) (t : Int) (b : ArrBody) :
    (s.setHub fun h => h.complete src len t b).beginView = s.beginView := by
  unfold State.setHub Hub.complete
  dsimp only
  split <;> rfl

theorem sampleLink_beginView (s : State) (n : Nat) : (s.sampleLink n).beginView = s.beginView := by
  unfold State.sampleLink
  dsimp only
  generalize (if s.startup.isSome then 0 else s.linkBits n) = b
  split
  · rfl
  · exact complete_beginView (s.setHub fun h => h.setPorts fun p => { p with links := p.links.modify n fun k => { k with told := b } }) _ _ _ _

/-! ### The start-up in a frame -/

theorem startFrame_done (s : State) (h : s.startup = none) : s.startFrame = s := by
  rw [State.startFrame, h]

theorem readyTimeout_done (s : State) (h : s.startup = none) : s.readyTimeout.beginView = s.beginView := by
  unfold State.readyTimeout
  rw [h]
  refine foldl_keeps State.beginView _ _ fun s x _ => ?_
  split
  · split
    · exact setTs_beginView s _
    · rfl
  · rfl

/-- A start-up that is done, or whose Touchstone is off and which has no k0, does nothing in a frame. -/
theorem startupFrame_beginView (s : State) (h : ∀ u, s.startup = some u → u.k0 = none ∧ s.pwr.isOn 1 = false) :
    s.startupFrame.beginView = s.beginView := by
  cases hu : s.startup with
  | none =>
    have hs : (if s.pwr.isOn 1 then s.startFrame.readyTimeout else s).beginView = s.beginView := by
      split
      · rw [startFrame_done s hu, readyTimeout_done s hu]
      · rfl
    unfold State.startupFrame
    dsimp only
    generalize (if s.pwr.isOn 1 then s.startFrame.readyTimeout else s) = v at hs
    rw [show v.startup = none from (congrArg BeginView.startup hs).trans hu]
    exact hs
  | some u =>
    obtain ⟨hk, hts⟩ := h u hu
    unfold State.startupFrame
    dsimp only
    rw [if_neg (by simp [hts]), hu]
    dsimp only
    rw [hk, if_neg (by simp)]

/-! ### The whole of FRAME_START -/

/-- The frame is opened: nothing of it has happened, the supplies are sampled, and Touchstone has counted the frame. -/
def State.frameOpened (s : State) (m : SupplyMeas) : State :=
  let s := s.setHub fun h => { h with closed := none, applied := false, ports := { h.ports with sent := [] } }
  let s := { s with laneA := s.laneA.frameOver, laneB := s.laneB.frameOver }
  (s.samplePower m).tsFrame.rejoin.transferTimeout

theorem samplePower_beginView (s : State) (m : SupplyMeas) :
    (s.samplePower m).beginView = { s.beginView with meas := m, holdRdy := decide (2600 ≤ m.bankv) } := by
  unfold State.samplePower State.setPwr Power.shutdownAt
  dsimp only
  split <;> rfl

theorem frameOpened_beginView (s : State) (m : SupplyMeas) : (s.frameOpened m).beginView =
    { s.beginView with closed := none, applied := false, sent := [], meas := m, holdRdy := decide (2600 ≤ m.bankv) } := by
  unfold State.frameOpened State.transferTimeout
  dsimp only
  rw [setTs_beginView, rejoin_beginView, tsFrame_beginView, samplePower_beginView]
  rfl

/-- What FRAME_START leaves of a state in which the frame is numbered. -/
theorem frameBegin_beginView (s : State) (m : SupplyMeas) (h : ∀ u, s.startup = some u → u.k0 = none ∧ s.pwr.isOn 1 = false) :
    (s.frameBegin m).beginView =
      { s.beginView with closed := none, applied := false, sent := [], meas := m, holdRdy := decide (2600 ≤ m.bankv) } := by
  have hopen := frameOpened_beginView s m
  have hon : (s.frameOpened m).pwr.isOn 1 = s.pwr.isOn 1 := congrArg BeginView.tsOn hopen
  have hst : (s.frameOpened m).startup = s.startup := congrArg BeginView.startup hopen
  have hquiet := startupFrame_beginView (s.frameOpened m) (by rwa [hon, hst])
  have hclose (u : State) : (u.analogArrival m).beginView = u.beginView := complete_beginView u _ _ _ _
  rw [← hopen, ← hquiet]
  unfold State.frameBegin
  dsimp only
  rw [hclose, lanes_beginView, onLanes_beginView, foldl_keeps State.beginView _ _ fun s n _ => sampleLink_beginView s n]
  rfl

theorem frameBegin_lane (s : State) (m : SupplyMeas) (x : LaneId) : ((s.frameBegin m).lane x).ranFrame = false ∧
    ((s.frameBegin m).lane x).delivered = none ∧ ((s.frameBegin m).lane x).hb = none := by
  cases x <;> exact ⟨rfl, rfl, rfl⟩

/-- A running hub whose modules are up starts its next frame. -/
theorem frameStart_running (s : State) (m : SupplyMeas) (hoff : s.pwr.off = false) (hr : s.hub.running = true)
    (ha : s.restartAsked = none) : s.frameStart m = s.nextFrame.frameBegin m := by
  rw [frameStart_none s m hoff ha, State.frameGoesOn, if_pos hr]

section
variable (s : State) (m : SupplyMeas) (u : Startup) (hoff : s.pwr.off = false) (hr : s.hub.running = false)
  (ha : s.restartAsked = none) (hu : s.startup = some u) (hp : u.phase = 1) (hs : u.stopped = false)
include hoff hr ha hu hp hs

/-- In phase 1 the hub waits for the unlock or 20 ms (16_time.md R366). -/
theorem frameStart_waits (hl : s.cal.locked = true) (hw : u.waited < 20) :
    s.frameStart m = { s with startup := some { u with waited := u.waited + 1 } } := by
  rw [frameStart_none s m hoff ha, State.frameGoesOn, if_neg (by simp [hr]), if_neg (by simp [hu, hp, hs]),
    if_neg (by simp [State.mayStart, hl, hu, hw]), hu]
  rfl

theorem frameStart_first (hl : s.cal.locked = false ∨ 20 ≤ u.waited) : s.frameStart m = s.startFrames.frameBegin m := by
  rw [frameStart_none s m hoff ha, State.frameGoesOn, if_neg (by simp [hr]), if_neg (by simp [hu, hp, hs]),
    if_pos (by simpa [State.mayStart, hu] using hl)]

end

theorem startFrames_power (s : State) : s.startFrames.pwr.isOn 1 = s.pwr.isOn 1 ∧ s.startFrames.pwr.isOn 7 = true := by
  unfold State.startFrames
  simp [Power.setDom, Power.isOn]

/-! ### The close (01_architecture.md R21, 04_frame.md R96) -/

theorem closeFrame_done (s : State) (h : s.hub.closed.isSome = true ∨ s.hub.applied = true) : s.closeFrame = s := by
  rw [State.closeFrame, if_pos (.inr h)]

/-- Settles O32: FRAME_START keeps what opens the frame, and the close is one assignment of the arrivals. -/
theorem framesStartAndClose : Obligations.FramesStartAndClose := by
  intro s m
  refine ⟨fun hoff hr ha hst => ?_, fun u hoff hr ha hu hp hs hk hts => ⟨fun hl hw => ?_, fun hl => ?_⟩,
    fun hoff => congrArg Host.Outcome.next (frameStart_off s m hoff), fun hr hc ha => ?_,
    fun _ h => congrArg Host.Outcome.next (closeFrame_done s h), fun hr => congrArg Host.Outcome.next (if_pos hr)⟩
  · have hv := frameBegin_beginView s.nextFrame m fun u hu => absurd (hst.symm.trans hu) (by simp)
    obtain ⟨-, hfno, hup, htb, hprev, hcl, hap, hsent⟩ := beginView_hub hv
    obtain ⟨hmeas, hrdy, -, -, hcal, hnv, hpend, hstart⟩ := beginView_rest hv
    exact ⟨s.nextFrame.frameBegin m, congrArg Host.Outcome.next (frameStart_running s m hoff hr ha), hfno, hup, htb, hprev, hcl, hap,
      hsent, hmeas, hrdy, hcal, hnv, hpend, hstart.trans hst, frameBegin_lane s.nextFrame m⟩
  · exact congrArg Host.Outcome.next (frameStart_waits s m u hoff hr ha hu hp hs hl hw)
  · obtain ⟨h1, h7⟩ := startFrames_power s
    have hv := frameBegin_beginView s.startFrames m fun v hv => by
      obtain rfl : u = v := Option.some.inj (hu.symm.trans hv)
      exact ⟨hk, h1.trans hts⟩
    obtain ⟨hrun, hfno, -⟩ := beginView_hub hv
    obtain ⟨-, -, -, hio, -⟩ := beginView_rest hv
    exact ⟨s.startFrames.frameBegin m, congrArg Host.Outcome.next (frameStart_first s m u hoff hr ha hu hp hs hl), hrun, hfno, hio.trans h7⟩
  · exact congrArg Host.Outcome.next (if_neg (by simp [hr, hc, ha]))

end Sys2Proof.Machine
end

section
/-! Writes of the header registers LOCK, IRQF, IRQE and IRQS (O9). -/

namespace Sys2Proof.Machine

/-! ### A write of a header register by address (02_register_pages.md R40, R44) -/

theorem pageRow_lt {page : Nat} (h : (pageRow page).isSome = true) : page < 0x52 := by
  obtain ⟨row, hrow⟩ := Option.isSome_iff_exists.1 h
  have hin := List.find?_some hrow
  have hend : ∀ r ∈ pageRows, r.first + r.count ≤ 0x52 := by decide
  have hle := hend row (List.mem_of_find?_eq_some hrow)
  simp only [Bool.and_eq_true, decide_eq_true_eq] at hin
  omega

theorem headerKey_div (page : Nat) {off : Nat} (hoff : off ≤ 0x020) :
    (page * 0x1000 + off) / 0x1000 = page ∧ (page * 0x1000 + off) % 0x1000 = off := by omega

section
variable {page off : Nat} (hp : (pageRow page).isSome = true) (h4 : off % 4 = 0) (hoff : off ≤ 0x020)
include hp hoff

theorem headerKey_addr : addrKey (.ofNat 32 (0x40000000 + (page * 0x1000 + off))) = page * 0x1000 + off := by
  have hlt := pageRow_lt hp
  exact addrKey_base _ (by omega)

include h4 in
theorem headerKey_status : addrStatus (.ofNat 32 (0x40000000 + (page * 0x1000 + off))) = 0 := by
  have hlt := pageRow_lt hp
  obtain ⟨row, hrow⟩ := Option.isSome_iff_exists.1 hp
  have hn : (BitVec.ofNat 32 (0x40000000 + (page * 0x1000 + off))).toNat = 0x40000000 + (page * 0x1000 + off) :=
    Nat.mod_eq_of_lt (by omega)
  obtain ⟨hdiv, hmod⟩ := headerKey_div page hoff
  unfold addrStatus
  rw [hn, if_neg (by omega)]
  dsimp only
  rw [Nat.add_sub_cancel_left, hdiv, hmod, if_neg (by omega), if_neg (by simp [hrow]), if_neg]
  simp only [definedReg, hrow]
  rw [if_pos (by omega)]
  simpa using hoff

end

/-- A status other than 0 of an assigned page is posted there. -/
theorem postStatus_page (l : Lane) {page : Nat} (hp : (pageRow page).isSome = true) (c : Nat) (hc : c ≠ 0) (hc' : c < 256) :
    l.postStatus (page * 256 + c) = l.post (page * 256 + c) := by
  have hlt := pageRow_lt hp
  have hn : (pageRow page).isNone = false := by simpa using hp
  rw [Lane.postStatus, show (page * 256 + c) / 256 = page by omega, hn, if_neg (by simp; omega)]

theorem postStatus_ok (l : Lane) : l.postStatus 0 = l := if_pos (.inl rfl)

/-- A header write that the session's rights allow closes the page and does what its register asks. -/
theorem writeKey_header (l : Lane) (h : Hub) (role : SessRole) {page off : Nat} (w : Word) (hp : (pageRow page).isSome = true)
    (h4 : off % 4 = 0) (hoff : off ≤ 0x020) (hw : l.mayWrite role page off w = true) :
    l.writeKey h (.external role) [] (page * 0x1000 + off) w =
      (((l.closeLock page).writeHeader page off w).1.postStatus ((l.closeLock page).writeHeader page off w).2,
        ((l.closeLock page).writeHeader page off w).2) := by
  obtain ⟨hdiv, hmod⟩ := headerKey_div page hoff
  unfold Lane.writeKey Lane.writeReg Lane.writeCore
  rw [headerKey_status hp h4 hoff, headerKey_addr hp hoff, hdiv, hmod]
  dsimp only
  rw [if_neg (by decide), if_neg (by decide), if_neg (by simp [hw]), Lane.commit]
  dsimp only
  rw [if_pos (by omega)]

/-- A row that writes a header register gives what its register makes of the closed page. -/
theorem headerWrite_gives (c : Instr) (s : State) (x : LaneId) (role : SessRole) {page off : Nat} (w : Lane → Word)
    (hc : exec c s = .next (writeRowOf (.external role) (page * 0x1000 + off) w s)) (hr : (s.lane x).running = true)
    (hp : (pageRow page).isSome = true) (h4 : off % 4 = 0) (hoff : off ≤ 0x020)
    (hw : (s.lane x).mayWrite role page off (w (s.lane x)) = true) :
    RegGives c s x ((((s.lane x).closeLock page).writeHeader page off (w (s.lane x))).1.postStatus
      (((s.lane x).closeLock page).writeHeader page off (w (s.lane x))).2) :=
  regGives_onLanes c s x _ _ hc hr (by rw [writeKey_header _ _ _ _ hp h4 hoff hw])

/-! ### LOCK, IRQE and IRQS (R45 to R47) -/

section
variable (l : Lane) (page : Nat) (v : Word)

theorem writeHeader_lock (hv : v.toNat < 0x20000) : l.writeHeader page 0x020 v =
    if v.toNat % 65536 = (l.reg (page * 0x1000)).toNat % 65536 then ({ l with opened := page :: l.opened }, 0)
    else (l, page * 256 + 0x05) := by
  rw [show l.writeHeader page 0x020 v =
    if v.toNat % 65536 = (l.reg (page * 0x1000)).toNat % 65536 then
      ({ l with opened := page :: l.opened }, if v.toNat / 131072 ≠ 0 then page * 256 + 0x02 else 0)
    else (l, page * 256 + 0x05) from rfl, if_neg (show ¬v.toNat / 131072 ≠ 0 by omega)]

/-- The list of pages whose request has risen, when it is now `now`. -/
def Lane.roseWith (now : Word) : List Nat :=
  if l.irqLine page = 0 ∧ now ≠ 0 ∧ page ∉ l.rose then l.rose ++ [page] else l.rose

theorem noteRise_eq (m : Lane) (h : m.rose = l.rose) :
    m.noteRise l page = { m with rose := l.roseWith page (m.irqLine page) } := by
  rw [Lane.noteRise, Lane.roseWith, h]

theorem writeHeader_irqe : l.writeHeader page 0x014 v =
    ({ l.setReg (page * 0x1000 + 0x014) v with rose := l.roseWith page (l.reg (page * 0x1000 + 0x010) &&& v) }, 0) := by
  rw [show l.writeHeader page 0x014 v = ((l.setReg (page * 0x1000 + 0x014) v).noteRise l page, 0) from rfl,
    noteRise_eq l page (l.setReg (page * 0x1000 + 0x014) v) rfl, Lane.irqLine, Lane.reg_setReg_ne _ _ _ _ (by omega), Lane.reg_setReg_self]

/-- The events a page defines. -/
def irqDefined (page b : Nat) : Bool := ((2 ^ 32 - 1 - reservedMask page 0x010) ||| 1).testBit b

theorem writeHeader_irqs (hv : ∀ b < 32, v.getLsbD b = true → irqDefined page b = true) : l.writeHeader page 0x010 v =
    (l.setReg (page * 0x1000 + 0x010) (l.reg (page * 0x1000 + 0x010) &&& ~~~(v &&& ~~~(kvGet 0 l.irqSet page))), 0) := by
  have hall : v.toNat &&& ((2 ^ 32 - 1 - reservedMask page 0x010) ||| 1) = v.toNat := by
    refine Nat.eq_of_testBit_eq fun b => ?_
    rw [Nat.testBit_and]
    cases hb : v.toNat.testBit b with
    | false => rfl
    | true =>
      have hlt : b < 32 := by
        by_contra hge
        rw [Nat.testBit_lt_two_pow (lt_of_lt_of_le v.isLt (Nat.pow_le_pow_right (by decide) (by omega)))] at hb
        exact absurd hb (by decide)
      exact hv b hlt hb
  rw [show l.writeHeader page 0x010 v =
    (l.setReg (page * 0x1000 + 0x010) (l.reg (page * 0x1000 + 0x010) &&& ~~~(v &&& ~~~(kvGet 0 l.irqSet page))),
      if v.toNat - (v.toNat &&& ((2 ^ 32 - 1 - reservedMask page 0x010) ||| 1)) ≠ 0 then page * 256 + 0x02 else 0) from rfl,
    hall, Nat.sub_self, if_neg (by simp)]

end

/-! ### IRQF (R44, R45) -/

section
variable (l : Lane) (page b : Nat)

theorem irqBit_eq : l.irqBit page b =
    { l with regs := (l.irqBit page b).regs, irqSet := (l.irqBit page b).irqSet, rose := l.roseWith page ((l.irqBit page b).irqLine page) } := rfl

theorem irqBit_irqs_bit (i : Nat) (hi : i < 32) : ((l.irqBit page b).reg (page * 0x1000 + 0x010)).getLsbD i =
    ((l.reg (page * 0x1000 + 0x010)).getLsbD i || decide (i = b)) := by
  have hone : (1 <<< b).testBit i = decide (i = b) := by
    rw [Nat.one_shiftLeft, Nat.testBit_two_pow]
    simp [eq_comm]
  rw [Lane.irqBit_reg, if_pos rfl, BitVec.getLsbD_or]
  refine congrArg (_ || ·) ((BitVec.getLsbD_ofNat 32 (1 <<< b) i).trans ?_)
  rw [hone, decide_eq_true hi, Bool.true_and]

theorem irqLine_getLsbD (i : Nat) : (l.irqLine page).getLsbD i =
    ((l.reg (page * 0x1000 + 0x010)).getLsbD i && (l.reg (page * 0x1000 + 0x014)).getLsbD i) := by
  rw [Lane.irqLine, BitVec.getLsbD_and]

end

/-- A word is not 0 where one of its bits is set. -/
theorem word_ne_zero_iff (w : Word) : w ≠ 0 ↔ ∃ i < 32, w.getLsbD i = true := by
  constructor
  · intro h
    by_contra hno
    push Not at hno
    refine h (BitVec.eq_of_getLsbD_eq fun i hi => ?_)
    simpa using hno i hi
  · rintro ⟨i, -, hi⟩ rfl
    simp at hi

/-- The bits of IRQF that the page defines are set in order. -/
def Lane.forceBits (l : Lane) (page : Nat) (v : Word) (bs : List Nat) : Lane :=
  bs.foldl (fun (l : Lane) b => if v.getLsbD b && irqDefined page b then l.irqBit page b else l) l

/-- What `forceBits` does: IRQS takes the bits, and the rise is noted once. -/
structure Forced (page : Nat) (v : Word) (bs : List Nat) (l m : Lane) : Prop where
  only : m = { l with regs := m.regs, irqSet := m.irqSet, rose := l.roseWith page (m.irqLine page) }
  regs : RegsBut [page * 0x1000 + 0x010] l m
  bits : ∀ b < 32, (m.reg (page * 0x1000 + 0x010)).getLsbD b =
    ((l.reg (page * 0x1000 + 0x010)).getLsbD b || (decide (b ∈ bs) && (v.getLsbD b && irqDefined page b)))

theorem Forced.line {page : Nat} {v : Word} {bs : List Nat} {l m : Lane} (h : Forced page v bs l m) (hl : l.irqLine page ≠ 0) :
    m.irqLine page ≠ 0 := by
  rw [word_ne_zero_iff] at hl ⊢
  obtain ⟨i, hi, hbit⟩ := hl
  rw [irqLine_getLsbD, Bool.and_eq_true] at hbit
  refine ⟨i, hi, ?_⟩
  rw [irqLine_getLsbD, h.bits i hi, h.regs _ (by simp), hbit.1, hbit.2]
  rfl

theorem forced_nil (page : Nat) (v : Word) (l : Lane) : Forced page v [] l l where
  only := by
    have hrose : l.roseWith page (l.irqLine page) = l.rose := if_neg fun h => h.2.1 h.1
    rw [hrose]
  regs := fun _ _ => rfl
  bits := fun b _ => by simp

theorem forced_bit (page : Nat) (v : Word) (b : Nat) (l : Lane) :
    Forced page v [b] l (if v.getLsbD b && irqDefined page b then l.irqBit page b else l) := by
  split
  next hon =>
    refine ⟨irqBit_eq l page b, fun k hk => Lane.irqBit_reg_ne _ _ _ _ (by simpa using hk), fun i hi => ?_⟩
    rw [irqBit_irqs_bit l page b i hi]
    by_cases he : i = b
    · subst he
      simp [hon]
    · simp [he]
  next hoff =>
    refine ⟨(forced_nil page v l).only, fun _ _ => rfl, fun i _ => ?_⟩
    by_cases he : i = b
    · subst he
      simp [hoff]
    · simp [he]

theorem Forced.rose {page : Nat} {v : Word} {bs : List Nat} {l m : Lane} (h : Forced page v bs l m) :
    m.rose = l.roseWith page (m.irqLine page) := congrArg Lane.rose h.only

/-- The rise is noted where the request becomes high, and once. -/
theorem Forced.roseWith {page : Nat} {v : Word} {as bs : List Nat} {l m n : Lane} (h : Forced page v as l m) (g : Forced page v bs m n) :
    m.roseWith page (n.irqLine page) = l.roseWith page (n.irqLine page) := by
  have hrose := h.rose
  by_cases hm : m.irqLine page = 0
  · have hl : l.irqLine page = 0 := by
      by_contra hl
      exact h.line hl hm
    have hsame : m.rose = l.rose := by rw [hrose, Lane.roseWith, hm, if_neg (by simp)]
    rw [Lane.roseWith, Lane.roseWith, hm, hl, hsame]
  · have hn : n.irqLine page ≠ 0 := g.line hm
    rw [Lane.roseWith, if_neg (fun hc => hm hc.1), hrose, Lane.roseWith, Lane.roseWith]
    simp only [ne_eq, hm, hn, not_false_eq_true, true_and]

theorem Forced.trans {page : Nat} {v : Word} {as bs : List Nat} {l m n : Lane} (h : Forced page v as l m) (g : Forced page v bs m n) :
    Forced page v (as ++ bs) l n where
  only := by
    have hset (r : List (Nat × Word)) (i : List (Nat × Word)) (q : List Nat) :
        { m with regs := r, irqSet := i, rose := q } = { l with regs := r, irqSet := i, rose := q } := by rw [h.only]
    exact g.only.trans (by rw [hset, h.roseWith g])
  regs := fun k hk => (g.regs k hk).trans (h.regs k hk)
  bits := fun b hb => by
    rw [g.bits b hb, h.bits b hb, Bool.or_assoc, ← Bool.and_or_distrib_right]
    simp

theorem forceBits_forced (page : Nat) (v : Word) (bs : List Nat) (l : Lane) :
    Forced page v bs l (l.forceBits page v bs) := by
  induction bs generalizing l with
  | nil => exact forced_nil page v l
  | cons b bs ih =>
    exact (forced_bit page v b l).trans (ih _)

theorem writeHeader_irqf (l : Lane) (page : Nat) (v : Word) : l.writeHeader page 0x018 v = (l.forceBits page v (List.range 32), 0) := rfl

end Sys2Proof.Machine
end

section
/-! SRST of the pages whose chapter says which fields it resets (O9). -/

namespace Sys2Proof.Machine

/-! ### Single fields that return to their reset values (02_register_pages.md R39) -/

/-- A field of one register of the block, whose reset value it holds. -/
def singleField (f : Fld) : Bool :=
  decide (f.cnt = 1 ∧ 0x040 ≤ f.off ∧ f.off < 0x1000 ∧ f.lo ≤ f.hi ∧ f.hi < 32 ∧ f.reset < 2 ^ (f.hi + 1 - f.lo))

/-- Two fields that share no bit. -/
def apartFields (f g : Fld) : Bool := decide (f.off ≠ g.off ∨ f.hi < g.lo ∨ g.hi < f.lo)

theorem resetFields_single (l : Lane) (page : Nat) (fs : List Fld) (h : ∀ f ∈ fs, singleField f = true) :
    l.resetFields page fs = fs.foldl (fun (l : Lane) f => l.put { f with page } f.reset) l := by
  unfold Lane.resetFields
  refine List.foldl_ext _ _ _ fun l f hf => ?_
  have hs := h f hf
  simp only [singleField, decide_eq_true_eq] at hs
  rw [hs.1]
  simp [List.range_one, Lane.put, Fld.key]

section
variable (page : Nat)

theorem puts_reg_ne (fs : List Fld) (key : Nat) (h : ∀ f ∈ fs, key ≠ page * 0x1000 + f.off) (l : Lane) :
    (fs.foldl (fun (l : Lane) f => l.put { f with page } f.reset) l).reg key = l.reg key :=
  foldl_keeps (fun l => l.reg key) fs l fun l f hf => Lane.reg_put_ne l { f with page } f.reset key (h f hf)

theorem puts_get_apart (fs : List Fld) (g : Fld) (hs : ∀ f ∈ fs, singleField f = true) (h : ∀ f ∈ fs, apartFields g f = true) (l : Lane) :
    (fs.foldl (fun (l : Lane) f => l.put { f with page } f.reset) l).get { g with page } = l.get { g with page } := by
  refine foldl_keeps (fun l => l.get { g with page }) fs l fun l f hf => ?_
  have hf' := hs f hf
  simp only [singleField, decide_eq_true_eq] at hf'
  obtain ⟨-, -, -, h1, h2, -⟩ := hf'
  have hap := h f hf
  rw [apartFields, decide_eq_true_eq] at hap
  refine Lane.get_put_ne l { f with page } { g with page } f.reset h1 h2 ?_
  unfold Fld.key
  dsimp only
  omega

theorem puts_get (fs : List Fld) (hs : ∀ f ∈ fs, singleField f = true) (h : fs.Pairwise (apartFields · ·)) (l : Lane) :
    ∀ f ∈ fs, (fs.foldl (fun (l : Lane) f => l.put { f with page } f.reset) l).get { f with page } = f.reset := by
  induction fs generalizing l with
  | nil => exact fun f hf => absurd hf List.not_mem_nil
  | cons g gs ih =>
    obtain ⟨hg, hgs⟩ := List.pairwise_cons.1 h
    have hsg : ∀ f ∈ gs, singleField f = true := fun f hf => hs f (List.mem_cons_of_mem g hf)
    intro f hf
    rw [List.foldl_cons]
    rcases List.mem_cons.1 hf with rfl | hf
    · have hs' := hs f List.mem_cons_self
      simp only [singleField, decide_eq_true_eq] at hs'
      obtain ⟨-, -, -, h1, h2, h3⟩ := hs'
      rw [puts_get_apart page gs f hsg hg, Lane.get_put l { f with page } f.reset h1 h2]
      exact Nat.mod_eq_of_lt h3
    · exact ih hsg hgs _ f hf

end

/-- Nothing but registers differs. -/
def RegsOnly (l m : Lane) : Prop := m = { l with regs := m.regs }

theorem RegsOnly.trans {l m n : Lane} (h : RegsOnly l m) (g : RegsOnly m n) : RegsOnly l n := by
  unfold RegsOnly at *
  rw [g, h]

theorem RegsOnly.foldl {α : Type} (f : Lane → α → Lane) (as : List α) (hf : ∀ l a, RegsOnly l (f l a)) (l : Lane) :
    RegsOnly l (as.foldl f l) := by
  induction as generalizing l with
  | nil => exact rfl
  | cons a as ih => exact (hf l a).trans (ih (f l a))

theorem setReg_only (l : Lane) (key : Nat) (w : Word) : RegsOnly l (l.setReg key w) := rfl

theorem resetFields_only (l : Lane) (page : Nat) (fs : List Fld) : RegsOnly l (l.resetFields page fs) := by
  unfold Lane.resetFields
  exact .foldl _ fs (fun l f => .foldl _ (List.range f.cnt) (fun l i => setReg_only l _ _) l) l

/-- Single fields that share no bit. -/
def plainFields (fs : List Fld) : Bool := fs.all singleField && decide (fs.Pairwise (apartFields · ·))

theorem portCounts_plain (page : Nat) : plainFields (portCounts page) = true := by
  unfold portCounts
  repeat' split
  all_goals decide

theorem srstOnly_plain (page : Nat) : (srstOnly page).all plainFields = true := by
  unfold srstOnly
  iterate 8
    split
    · decide
  split
  · exact portCounts_plain page
  · rfl

theorem srstOnly_fields {page : Nat} {fs : List Fld} (h : srstOnly page = some fs) :
    (∀ f ∈ fs, singleField f = true) ∧ fs.Pairwise (apartFields · ·) := by
  have hplain := srstOnly_plain page
  rw [h, Option.all_some, plainFields, Bool.and_eq_true, List.all_eq_true, decide_eq_true_eq] at hplain
  exact hplain

/-! ### The rows (R59) -/

/-- CTRL as SRST writes it: EN as it stands. -/
def srstWord (page : Nat) (l : Lane) : Word := if (l.reg (page * 0x1000 + 0x008)).getLsbD 0 then 3 else 2

/-- The lane of which SRST takes effect: CTRL of a page with a variable EN is stored. -/
def Lane.ctrlKept (l : Lane) (page : Nat) : Lane :=
  if ((pageRow page).map (·.enFixed)).getD true then l
  else l.setReg (page * 0x1000 + 0x008) (if page = 0x10 ∧ !l.on R.NET.LOADED then 0 else srstWord page l &&& 1)

theorem writeHeader_srst (l : Lane) (page : Nat) : l.writeHeader page 0x008 (srstWord page l) =
    if noSrst page then (l.ctrlKept page, page * 256 + 0x0A) else ((l.ctrlKept page).srst page, 0) := by
  have hbit : (srstWord page l).getLsbD 1 = true := by
    unfold srstWord
    split <;> rfl
  have hres : ¬(srstWord page l).toNat / 4 ≠ 0 := by
    unfold srstWord
    split <;> decide
  unfold Lane.writeHeader
  dsimp only
  rw [if_pos rfl, if_pos hbit, if_neg hres]
  rfl

theorem ctrlKept_noSrst (l : Lane) (page : Nat) (h : noSrst page = true) : l.ctrlKept page = l := by
  have hfix : ∀ p ∈ [0x00, 0x01, 0x02, 0x06, 0x2A, 0x2C], ((pageRow p).map (·.enFixed)).getD true = true := by decide
  exact if_pos (hfix page (by simpa [noSrst] using h))

theorem ctrlKept_reg_ne (l : Lane) (page key : Nat) (h : key ≠ page * 0x1000 + 0x008) : (l.ctrlKept page).reg key = l.reg key := by
  unfold Lane.ctrlKept
  split
  · rfl
  · exact Lane.reg_setReg_ne _ _ _ _ h

theorem ctrlKept_only (l : Lane) (page : Nat) : RegsOnly l (l.ctrlKept page) := by
  unfold Lane.ctrlKept
  split <;> rfl

theorem srstWord_en (page : Nat) (l : Lane) : (srstWord page l &&& 1).getLsbD 0 = (l.reg (page * 0x1000 + 0x008)).getLsbD 0 := by
  unfold srstWord
  cases (l.reg (page * 0x1000 + 0x008)).getLsbD 0 <;> decide

/-- EN of NET stays 0 without a model (06_network_model.md), which is how the page stands. -/
theorem ctrlKept_enabled (l : Lane) (page : Nat) : (l.ctrlKept page).enabled page = l.enabled page := by
  have hld : (l.ctrlKept page).on R.NET.LOADED = l.on R.NET.LOADED := by
    rw [Lane.on, Lane.get, ctrlKept_reg_ne l page _ (by
      have hkey : R.NET.LOADED.key = 0x10040 := by decide
      omega), ← Lane.get, ← Lane.on]
  unfold Lane.enabled
  rw [hld]
  by_cases hn : page = 0x10 ∧ (!l.on R.NET.LOADED) = true
  · obtain ⟨rfl, hoff⟩ := hn
    have hload : l.on R.NET.LOADED = false := by simpa using hoff
    simp [modelPage, hload]
  · have hbit : ((l.ctrlKept page).reg (page * 0x1000 + 0x008)).getLsbD 0 = (l.reg (page * 0x1000 + 0x008)).getLsbD 0 := by
      unfold Lane.ctrlKept
      split
      · rfl
      · rw [Lane.reg_setReg_self, srstWord_en]
    rw [hbit]

section
variable (l : Lane) {page : Nat} {fs : List Fld} (h : srstOnly page = some fs)
include h

/-- SRST of such a page; an engine's page begins a new window of MAXBUSY. -/
theorem srst_only : (l.ctrlKept page).srst page = { l with
    regs := ((l.ctrlKept page).srst page).regs, busyFrom := ((l.ctrlKept page).srst page).busyFrom } ∧
    ((l.ctrlKept page).srst page).regs = ((l.ctrlKept page).resetFields page fs).regs := by
  have hreset : RegsOnly l ((l.ctrlKept page).resetFields page fs) := (ctrlKept_only l page).trans (resetFields_only _ page fs)
  unfold RegsOnly at hreset
  unfold Lane.srst
  rw [h]
  dsimp only
  split
  · refine ⟨?_, rfl⟩
    rw [hreset]
  · refine ⟨?_, rfl⟩
    rw [hreset]

theorem srst_only_reg (key : Nat) : ((l.ctrlKept page).srst page).reg key = ((l.ctrlKept page).resetFields page fs).reg key := by
  rw [Lane.reg, (srst_only l h).2, ← Lane.reg]

/-- Nothing of the header but CTRL changes, nor anything of another page. -/
theorem srst_only_rest (key : Nat) (hk : key / 0x1000 ≠ page ∨ (key % 0x1000 < 0x040 ∧ key % 0x1000 ≠ 0x008)) :
    ((l.ctrlKept page).srst page).reg key = l.reg key := by
  obtain ⟨hs, -⟩ := srstOnly_fields h
  rw [srst_only_reg l h, resetFields_single _ _ _ hs, puts_reg_ne page fs key (fun f hf => ?_), ctrlKept_reg_ne _ _ _ (by omega)]
  have hf' := hs f hf
  simp only [singleField, decide_eq_true_eq] at hf'
  omega

theorem srst_only_enabled : ((l.ctrlKept page).srst page).enabled page = l.enabled page := by
  obtain ⟨hs, -⟩ := srstOnly_fields h
  rw [← ctrlKept_enabled l page]
  have hreg (key : Nat) (hk : key % 0x1000 = 0x008 ∨ key / 0x1000 ≠ page) :
      ((l.ctrlKept page).srst page).reg key = (l.ctrlKept page).reg key := by
    rw [srst_only_reg l h, resetFields_single _ _ _ hs, puts_reg_ne page fs key (fun f hf => ?_)]
    have hf' := hs f hf
    simp only [singleField, decide_eq_true_eq] at hf'
    omega
  have hpage : page ≠ 0x10 := by
    rintro rfl
    exact absurd (h.symm.trans (by decide : srstOnly 0x10 = none)) (by simp)
  have hload : R.NET.LOADED.key / 0x1000 = 0x10 := by decide
  rw [Lane.enabled, Lane.enabled, hreg _ (.inl (by omega)), Lane.on, Lane.get, hreg R.NET.LOADED.key (.inr (by omega)), ← Lane.get, ← Lane.on]

theorem srst_only_reset : ∀ f ∈ fs, ∀ i < f.cnt,
    bits (((l.ctrlKept page).srst page).reg (page * 0x1000 + f.off + i * f.stride)) f.hi f.lo = f.reset := by
  obtain ⟨hs, hap⟩ := srstOnly_fields h
  intro f hf i hi
  have hf' := hs f hf
  simp only [singleField, decide_eq_true_eq] at hf'
  obtain rfl : i = 0 := by omega
  rw [srst_only_reg l h, resetFields_single _ _ _ hs, Nat.zero_mul, Nat.add_zero]
  exact puts_get page fs hs hap _ f hf

end

end Sys2Proof.Machine
end

section
/-! SRST of the other pages clears their header, and CTRL.EN stays (O9). -/

namespace Sys2Proof.Machine

/-! ### The registers by which a header is judged (02_register_pages.md R59) -/

/-- CTRL, IRQE or ERRC of a page, or the register of NET.LOADED, on which EN of the model pages rests (R140). -/
def headKey (key : Nat) : Bool := decide (key % 0x1000 ∈ [0x008, 0x014, 0x01C] ∨ key = 0x10040)

/-- Those registers. -/
def Lane.heads (l : Lane) (key : Nat) : Option Word := if headKey key then some (l.reg key) else none

theorem reg_of_heads {l m : Lane} (h : m.heads = l.heads) {key : Nat} (hk : headKey key = true) : m.reg key = l.reg key := by
  have hkey := congrFun h key
  rw [Lane.heads, Lane.heads, if_pos hk, if_pos hk] at hkey
  exact Option.some.inj hkey

theorem heads_of_regs {l m : Lane} (h : m.regs = l.regs) : m.heads = l.heads := by
  funext key
  rw [Lane.heads, Lane.heads, Lane.reg, Lane.reg, h]

theorem heads_of_reg {l m : Lane} (h : ∀ key, headKey key = true → m.reg key = l.reg key) : m.heads = l.heads := by
  funext key
  unfold Lane.heads
  split
  next hk => rw [h key hk]
  next => rfl

section
variable (l : Lane)

theorem heads_setReg (key : Nat) (w : Word) (h : headKey key = false) : (l.setReg key w).heads = l.heads :=
  heads_of_reg fun k hk => Lane.reg_setReg_ne _ _ _ _ fun he => by simp [he, h] at hk

theorem heads_put (f : Fld) (v : Nat) (h : headKey f.key = false) : (l.put f v).heads = l.heads := heads_setReg l _ _ h

theorem heads_putB (f : Fld) (b : Bool) (h : headKey f.key = false) : (l.putB f b).heads = l.heads := heads_put l f _ h

theorem heads_inc (f : Fld) (n : Nat) (h : headKey f.key = false) : (l.inc f n).heads = l.heads := heads_put l f _ h

theorem heads_put64 (lo hi : Fld) (v : Nat) (hlo : headKey lo.key = false) (hhi : headKey hi.key = false) :
    (l.put64 lo hi v).heads = l.heads := (heads_put _ hi _ hhi).trans (heads_put l lo _ hlo)

theorem heads_irqIf (c : Bool) (f : Fld) : (l.irqIf c f).heads = l.heads := by
  unfold Lane.irqIf
  split
  · refine heads_of_reg fun k hk => Lane.irqBit_reg_ne _ _ _ _ ?_
    simp only [headKey, decide_eq_true_eq, List.mem_cons, List.not_mem_nil, or_false] at hk
    omega
  · rfl

theorem heads_toPreset (key : Nat) (h : headKey key = false) : (l.toPreset key).heads = l.heads := heads_setReg l _ _ h

/-- Registers that a configuration gave, none of them of a header. -/
theorem heads_setRegs (ps : List (Nat × Word)) (h : ∀ p ∈ ps, headKey p.1 = false) :
    (ps.foldl (fun (l : Lane) p => l.setReg p.1 p.2) l).heads = l.heads :=
  foldl_keeps Lane.heads ps l fun l p hp => heads_setReg l _ _ (h p hp)

end

/-! ### Fields of the block (R59) -/

/-- A field whose registers all stand in the block of its page. -/
def blockField (f : Fld) : Bool := decide (0x040 ≤ f.off ∧ f.off + (f.cnt - 1) * f.stride < 0x1000)

theorem blockField_key {f : Fld} (h : blockField f = true) {page i : Nat} (hp : page ≠ 0x10) (hi : i < f.cnt) :
    headKey (page * 0x1000 + f.off + i * f.stride) = false := by
  rw [blockField, decide_eq_true_eq] at h
  have hmul : i * f.stride ≤ (f.cnt - 1) * f.stride := Nat.mul_le_mul_right _ (by omega)
  rw [headKey, decide_eq_false_iff_not]
  simp only [List.mem_cons, List.not_mem_nil, or_false]
  omega

theorem heads_resetFields (l : Lane) {page : Nat} (fs : List Fld) (hp : page ≠ 0x10) (hf : fs.all blockField = true) :
    (l.resetFields page fs).heads = l.heads := by
  unfold Lane.resetFields
  refine foldl_keeps Lane.heads fs l fun l f hmem => foldl_keeps Lane.heads (List.range f.cnt) l fun l i hi => ?_
  exact heads_setReg l _ _ (blockField_key (List.all_eq_true.1 hf f hmem) hp (List.mem_range.1 hi))

theorem pageRows_block : (pageRows.all fun r => r.fields.all fun f => !decide (0x040 ≤ f.off) || blockField f) = true := by
  decide +kernel

theorem pageRow_block {page : Nat} {row : PageRow} (h : pageRow page = some row) {f : Fld} (hf : f ∈ row.fields) (ho : 0x040 ≤ f.off) :
    blockField f = true := by
  have hall := List.all_eq_true.1 (List.all_eq_true.1 pageRows_block row (List.mem_of_find?_eq_some h)) f hf
  simpa [ho] using hall

theorem pageSettings_block (page : Nat) : (pageSettings page).all blockField = true := by
  unfold pageSettings
  split
  · rfl
  next row hrow =>
    refine List.all_eq_true.2 fun f hf => ?_
    obtain ⟨hin, hset⟩ := List.mem_filter.1 hf
    rw [Bool.and_eq_true, decide_eq_true_eq] at hset
    exact pageRow_block hrow hin hset.1

theorem pageBlock_block (page : Nat) :
    ((((pageRow page).map (·.fields)).getD []).filter fun f => decide (0x040 ≤ f.off)).all blockField = true := by
  refine List.all_eq_true.2 fun f hf => ?_
  obtain ⟨hin, hoff⟩ := List.mem_filter.1 hf
  cases hrow : pageRow page with
  | none => simp [hrow] at hin
  | some row => exact pageRow_block hrow (by simpa [hrow] using hin) (by simpa using hoff)

theorem heads_resetSettings (l : Lane) {page : Nat} (hp : page ≠ 0x10) : (l.resetFields page (pageSettings page)).heads = l.heads :=
  heads_resetFields l _ hp (pageSettings_block page)

/-! ### What SRST resets on a page leaves its header (R59, assumption log 30) -/

section
variable (l : Lane)

theorem heads_sendExchanges (md : NetModel) (j : SolveJob) (stop : Bool) : (l.sendExchanges md j stop).1.heads = l.heads :=
  foldl_keeps (fun lj : Lane × SolveJob => lj.1.heads) md.neighbours (l, j) fun _ _ _ => heads_of_regs rfl

theorem heads_castVote (md : NetModel) (j : SolveJob) (status : Nat) : (l.castVote md j status).1.heads = l.heads := by
  have hcount : (if status = 3 then l.inc R.FAB.ABSCNT else l).heads = l.heads := by
    split
    · exact heads_inc l _ _ (by decide)
    · rfl
  exact (heads_of_regs rfl).trans hcount

theorem heads_stopEpoch (md : NetModel) (j : SolveJob) : (l.stopEpoch md j).1.heads = l.heads := by
  unfold Lane.stopEpoch
  split
  · rfl
  · exact (heads_castVote _ md _ 3).trans (heads_sendExchanges l md j true)

theorem heads_solveAbort : l.solveAbort.heads = l.heads := by
  unfold Lane.solveAbort
  split
  · exact heads_of_regs rfl
  next md _ =>
    refine (heads_of_regs rfl).trans (foldl_keeps Lane.heads l.slv.epochs l fun m j _ => ?_)
    exact (heads_of_regs rfl).trans (heads_stopEpoch m md j)

theorem heads_putMinPer : l.putMinPer.heads = l.heads := by
  unfold Lane.putMinPer
  split
  · exact heads_put l _ _ (by decide)
  · rfl

theorem heads_clearTrc : l.clearTrc.heads = l.heads :=
  (heads_put _ _ _ (by decide)).trans ((heads_put _ _ _ (by decide)).trans (heads_of_regs rfl))

theorem heads_toTrc (t : TrcState) : (l.toTrc t).heads = l.heads := (heads_irqIf _ _ _).trans (heads_put l _ _ (by decide))

theorem heads_setPrgMode (m : PrgMode) : (l.setPrgMode m).heads = l.heads :=
  (heads_put _ _ _ (by decide)).trans ((heads_of_regs rfl).trans (heads_irqIf l _ _))

/-- STOP changes registers only as its mode does. -/
theorem prgToStop_regs : l.prgToStop.regs = (l.setPrgMode .stop).regs := by
  unfold Lane.prgToStop
  dsimp only

theorem heads_prgToStop : l.prgToStop.heads = l.heads := (heads_of_regs (prgToStop_regs l)).trans (heads_setPrgMode l .stop)

theorem heads_forceReleaseAll : l.forceReleaseAll.heads = l.heads :=
  (heads_irqIf _ _ _).trans ((heads_inc _ _ _ (by decide)).trans ((heads_putB _ _ _ (by decide)).trans
    ((heads_put _ _ _ (by decide)).trans (heads_of_regs rfl))))

/-- The condition fields of a group that SRST of MET resets. -/
def groupConditions : List Fld := [R.MET.VPRES, R.MET.PHMISS, R.MET.CYCW, R.MET.PHSEQ, R.MET.NLOST, R.MET.FREQF]

theorem groupConditions_key : ∀ g ∈ List.range 4, ∀ f ∈ groupConditions, headKey (f.idx g).key = false := by decide

theorem heads_metReset : l.metReset.heads = l.heads := by
  unfold Lane.metReset
  refine (foldl_keeps Lane.heads (List.range 4) _ fun m g hg => foldl_keeps Lane.heads groupConditions m fun m f hf =>
    heads_put m _ _ (groupConditions_key g hg f hf)).trans ?_
  exact (heads_put _ _ _ (by decide)).trans ((heads_put _ _ _ (by decide)).trans (heads_of_regs rfl))

theorem heads_ptpNewOwner : l.ptpNewOwner.heads = l.heads := (heads_put _ _ _ (by decide)).trans (heads_of_regs rfl)

theorem heads_showTsq : l.showTsq.heads = l.heads := by
  have hlevel : ((l.put R.TSQ.LEVEL l.tsq.length).putB R.TSQ.FULL (decide (16 ≤ l.tsq.length))).heads = l.heads :=
    (heads_putB _ _ _ (by decide)).trans (heads_put _ _ _ (by decide))
  have hhead (m : Lane) (v p i n t : Nat) :
      (((((m.put R.TSQ.HVALID v).put R.TSQ.HPORT p).put R.TSQ.HID i).put R.TSQ.HNS n).put64 R.TSQ.HSEC_L R.TSQ.HSEC_H t).heads = m.heads :=
    (heads_put64 _ _ _ _ (by decide) (by decide)).trans ((heads_put _ _ _ (by decide)).trans ((heads_put _ _ _ (by decide)).trans
      ((heads_put _ _ _ (by decide)).trans (heads_put _ _ _ (by decide)))))
  unfold Lane.showTsq
  dsimp only
  split
  · exact (hhead _ 0 0 0 0 0).trans hlevel
  · exact (hhead _ _ _ _ _ _).trans hlevel

theorem heads_showSparex : l.showSparex.heads = l.heads := (heads_putB _ _ _ (by decide)).trans (heads_putB _ _ _ (by decide))

theorem heads_asyAbort : l.asyAbort.heads = l.heads := by
  unfold Lane.asyAbort
  split
  · rfl
  next ln _ =>
    have hres (m : Lane) (c : Prop) [Decidable c] (f : Fld) (hf : headKey f.key = false) : (if c then m.put f 3 else m).heads = m.heads := by
      split
      · exact heads_put m f 3 hf
      · rfl
    exact (heads_put _ _ _ (by decide)).trans ((heads_of_regs rfl).trans ((hres _ _ _ (by decide)).trans (hres _ _ _ (by decide))))

end

end Sys2Proof.Machine
end

section
/-! SRST of the other pages: IRQE and ERRC are clear, and CTRL.EN stays; O9. -/

namespace Sys2Proof.Machine

/-! ### The cleared header (02_register_pages.md R59) -/

/-- The header of a page after SRST: EN as it was, IRQE clear, ERRC clear or with ABORTED. -/
structure HeaderCleared (page : Nat) (l m : Lane) : Prop where
  ctrl : m.reg (page * 0x1000 + 0x008) = l.reg (page * 0x1000 + 0x008)
  loaded : m.reg 0x10040 = l.reg 0x10040
  irqe : m.reg (page * 0x1000 + 0x014) = 0
  errc : m.reg (page * 0x1000 + 0x01C) = 0 ∨ m.reg (page * 0x1000 + 0x01C) = .ofNat 32 (page * 256 + 0x0B)

theorem headKey_header (page : Nat) {off : Nat} (h : off ∈ [0x008, 0x014, 0x01C]) : headKey (page * 0x1000 + off) = true := by
  have hmod : (page * 0x1000 + off) % 0x1000 = off := by
    simp only [List.mem_cons, List.not_mem_nil, or_false] at h
    omega
  rw [headKey, hmod]
  exact decide_eq_true (.inl h)

theorem resetHeader_cleared (l : Lane) (page : Nat) : HeaderCleared page l (l.resetHeader page) where
  ctrl := by
    rw [Lane.resetHeader, Lane.reg_setReg_ne _ _ _ _ (by omega), Lane.reg_setReg_ne _ _ _ _ (by omega), Lane.reg_setReg_ne _ _ _ _ (by omega)]
  loaded := by
    rw [Lane.resetHeader, Lane.reg_setReg_ne _ _ _ _ (by omega), Lane.reg_setReg_ne _ _ _ _ (by omega), Lane.reg_setReg_ne _ _ _ _ (by omega)]
  irqe := by rw [Lane.resetHeader, Lane.reg_setReg_ne _ _ _ _ (by omega), Lane.reg_setReg_self]
  errc := .inl (by rw [Lane.resetHeader, Lane.reg_setReg_self])

section
variable {page : Nat} {l m n : Lane} (h : HeaderCleared page l m)
include h

theorem HeaderCleared.keeps (hn : n.heads = m.heads) : HeaderCleared page l n where
  ctrl := (reg_of_heads hn (headKey_header page (by decide))).trans h.ctrl
  loaded := (reg_of_heads hn (by decide)).trans h.loaded
  irqe := (reg_of_heads hn (headKey_header page (by decide))).trans h.irqe
  errc := by
    rw [reg_of_heads hn (headKey_header page (by decide))]
    exact h.errc

/-- What an SRST has ended is posted as ABORTED. -/
theorem HeaderCleared.postIf (c : Bool) : HeaderCleared page l (m.postIf c (page * 256 + 0x0B)) := by
  have hpage : (page * 256 + 0x0B) / 256 = page := by omega
  have hother (key : Nat) (h1 : key ≠ page * 0x1000 + 0x01C) (h2 : key ≠ page * 0x1000 + 0x010) :
      (m.post (page * 256 + 0x0B)).reg key = m.reg key := by
    refine Lane.post_reg m (page * 256 + 0x0B) key ?_ ?_
    · rw [hpage]
      exact h1
    · rw [hpage]
      exact h2
  unfold Lane.postIf
  split
  · refine ⟨(hother _ (by omega) (by omega)).trans h.ctrl, (hother _ (by omega) (by omega)).trans h.loaded,
      (hother _ (by omega) (by omega)).trans h.irqe, .inr ?_⟩
    have herrc := Lane.post_errc m (page * 256 + 0x0B) (by omega)
    rwa [hpage] at herrc
  · exact h

theorem HeaderCleared.enabled : m.enabled page = l.enabled page := by
  rw [Lane.enabled, Lane.enabled, h.ctrl, Lane.on, Lane.on, Lane.get, Lane.get,
    show R.NET.LOADED.key = 0x10040 by decide, h.loaded]

end

/-! ### Pages that SRST clears whole: ASY and FAB (18_assay.md R420, 20_rogon_fabric.md) -/

theorem kvGetD_filter {α : Type} (d : Nat → α) (p : Nat → Bool) (kv : List (Nat × α)) (k : Nat) :
    kvGetD d (kv.filter fun x => p x.1) k = if p k then kvGetD d kv k else d k := by
  induction kv with
  | nil => simp [kvGetD]
  | cons x kv ih =>
    obtain ⟨j, w⟩ := x
    rw [List.filter_cons]
    by_cases hj : j = k
    · subst hj
      cases hp : p j <;> simp [kvGetD, hp, ih]
    · cases hp : p j <;> simp [kvGetD, hj, ih]

theorem clearPage_reg (l : Lane) (page key : Nat) : (l.clearPage page).reg key =
    if key / 0x1000 ≠ page ∨ key % 0x1000 = 0x008 then l.reg key else resetWord key := by
  rw [Lane.reg, Lane.clearPage]
  dsimp only
  rw [kvGetD_filter resetWord (fun k => decide (k / 0x1000 ≠ page) || decide (k % 0x1000 = 0x008))]
  simp [Lane.reg]

/-- IRQE and ERRC reset to 0 on every page. -/
theorem resetWord_header (page : Nat) {off : Nat} (h : off = 0x014 ∨ off = 0x01C) : resetWord (page * 0x1000 + off) = 0 := by
  have hmod : (page * 0x1000 + off) % 0x1000 = off := by omega
  unfold resetWord
  split
  · rfl
  · rw [hmod, if_pos (by omega), headerReset, if_neg (by omega), if_neg (by omega)]
    rfl

theorem HeaderCleared.clearPage {page : Nat} {l m : Lane} (h : HeaderCleared page l m) (hp : page ≠ 0x10) :
    HeaderCleared page l (m.clearPage page) where
  ctrl := by rw [clearPage_reg, if_pos (.inr (by omega)), h.ctrl]
  loaded := by rw [clearPage_reg, if_pos (.inl (by omega)), h.loaded]
  irqe := by rw [clearPage_reg, if_neg (by omega), resetWord_header page (.inl rfl)]
  errc := .inl (by rw [clearPage_reg, if_neg (by omega), resetWord_header page (.inr rfl)])

/-- The registers of FAB that show the fabric as it is, which its SRST keeps. -/
def fabKept : List Nat := [0x040, 0x044, 0x048, 0x04C, 0x050, 0x054, 0x058, 0x05C, 0x060]

theorem fabKept_key : ∀ o ∈ fabKept, headKey (0x3C000 + o) = false := by decide

theorem HeaderCleared.fabReset {l m : Lane} (h : HeaderCleared 0x3C l m) : HeaderCleared 0x3C l m.fabReset := by
  unfold Lane.fabReset
  refine (h.clearPage (by decide)).keeps (heads_setRegs _ (fabKept.map fun o => (0x3C000 + o, m.reg (0x3C000 + o))) fun p hp => ?_)
  obtain ⟨o, ho, rfl⟩ := List.mem_map.1 hp
  exact fabKept_key o ho

theorem HeaderCleared.asyReset {l m : Lane} (h : HeaderCleared 0x2D l m) : HeaderCleared 0x2D l m.asyReset := by
  have hclear := (h.keeps (heads_asyAbort m)).clearPage (by decide)
  refine HeaderCleared.postIf (hclear.keeps ?_) m.asy.cmd.isSome
  exact (heads_showSparex _).trans ((heads_setReg _ _ _ (by decide)).trans ((heads_setReg _ _ _ (by decide)).trans (heads_of_regs rfl)))

/-! ### SRST by page (Table REG-4) -/

theorem presetKeys_block : ∀ k ∈ [R.PTP.PRIO1.key, R.PTP.ANNRTO.key, R.PTP.STEPTHR.key, R.PTP.UNLKTHR.key, R.PTP.KI.key, R.PTP.HOTIME.key],
    headKey k = false := by decide

theorem heads_ite {c : Prop} [Decidable c] {l a b : Lane} (ha : c → a.heads = l.heads) (hb : ¬c → b.heads = l.heads) :
    (if c then a else b).heads = l.heads := by
  split
  next h => exact ha h
  next h => exact hb h

theorem cleared_ite {c : Prop} [Decidable c] {page : Nat} {l a b : Lane} (ha : c → HeaderCleared page l a) (hb : ¬c → HeaderCleared page l b) :
    HeaderCleared page l (if c then a else b) := by
  split
  next h => exact ha h
  next h => exact hb h

theorem heads_withTime (l : Lane) (t : TimeLane) : ({ l with time := t } : Lane).heads = l.heads := heads_of_regs rfl

theorem heads_withPanel (l : Lane) (p : PanelReq) : ({ l with panel := p } : Lane).heads = l.heads := heads_of_regs rfl

theorem heads_ptpReset (l : Lane) : (([R.PTP.PRIO1.key, R.PTP.ANNRTO.key, R.PTP.STEPTHR.key, R.PTP.UNLKTHR.key, R.PTP.KI.key,
    R.PTP.HOTIME.key].foldl Lane.toPreset l)).heads = l.heads :=
  foldl_keeps Lane.heads _ l fun m k hk => heads_toPreset m k (presetKeys_block k hk)

/-- The configured registers of DSP that its SRST gives back. -/
theorem heads_dspReset (l : Lane) (ps : List (Nat × Word)) :
    ((ps.filter fun p => p.1 == 0x50060 || p.1 == 0x50064).foldl (fun (l : Lane) p => l.setReg p.1 p.2) l).heads = l.heads :=
  heads_setRegs l _ fun x hx => by
    have hkey := (List.mem_filter.1 hx).2
    rcases Bool.or_eq_true_iff.1 hkey with hkey | hkey <;> rw [eq_of_beq hkey] <;> decide

theorem heads_pnlReset (l : Lane) (ps : List (Nat × Word)) :
    ((ps.filter fun p => decide (p.1 = 0x5104C)).foldl (fun (l : Lane) p => l.setReg p.1 p.2) l).heads = l.heads :=
  heads_setRegs l _ fun x hx => by
    rw [of_decide_eq_true (List.mem_filter.1 hx).2]
    decide

/-- A page whose chapter does not say what SRST resets keeps its header. -/
theorem heads_srstRest (l : Lane) {page : Nat} (hp : page ≠ 0x10) : (l.srstRest page).heads = l.heads := by
  unfold Lane.srstRest
  refine heads_ite (fun _ => heads_toPreset l _ (by decide)) fun _ => ?_
  refine heads_ite (fun _ => heads_resetFields l _ hp (by decide)) fun _ => ?_
  refine heads_ite (fun _ => heads_resetFields l _ hp (by decide)) fun _ => ?_
  refine heads_ite (fun _ => heads_resetFields l _ hp (pageBlock_block page)) fun _ => ?_
  refine heads_ite (fun _ => (heads_resetSettings _ hp).trans (heads_of_regs rfl)) fun _ => ?_
  refine heads_ite (fun _ => ?ptp) fun _ => ?_
  case ptp =>
    exact (heads_withTime _ _).trans ((heads_ptpReset _).trans ((heads_resetFields _ _ hp (by decide)).trans (heads_ptpNewOwner l)))
  refine heads_ite (fun _ => (heads_showTsq _).trans ((heads_resetFields _ _ hp (by decide)).trans (heads_of_regs rfl))) fun _ => ?_
  refine heads_ite (fun _ => (heads_withPanel _ _).trans (heads_dspReset l _)) fun _ => ?_
  refine heads_ite (fun _ => ?pnl) fun _ => heads_resetSettings l hp
  case pnl =>
    exact (heads_withPanel _ _).trans ((heads_resetFields _ _ hp (by decide)).trans ((heads_put _ _ _ (by decide)).trans (heads_pnlReset l _)))

theorem heads_toStopped (l : Lane) : (if l.prg.mode = .stop then l else l.prgToStop).heads = l.heads :=
  heads_ite (fun _ => rfl) fun _ => heads_prgToStop l

/-! The pages whose SRST may end something that runs, and post ABORTED. -/

section
variable {l m : Lane} (run : Bool)

theorem HeaderCleared.sol (h : HeaderCleared 0x11 l m) :
    HeaderCleared 0x11 l ((((m.solveAbort).resetFields 0x11 (pageSettings 0x11)).putMinPer).postIf run 0x110B) :=
  (h.keeps ((heads_putMinPer _).trans ((heads_resetSettings _ (by decide)).trans (heads_solveAbort m)))).postIf run

theorem HeaderCleared.opt (h : HeaderCleared 0x13 l m) (fs : List Fld) (hf : fs.all blockField = true) (g : Optimiser → Optimiser) :
    HeaderCleared 0x13 l ((((m.dispatchAbort false).resetFields 0x13 fs).setOpt g).postIf run 0x130B) :=
  (h.keeps ((heads_of_regs (Lane.setOpt_regs _ g)).trans ((heads_resetFields _ fs (by decide) hf).trans
    (heads_of_regs (Lane.setOpt_regs m _))))).postIf run

theorem HeaderCleared.trc (h : HeaderCleared 0x1B l m) :
    HeaderCleared 0x1B l (((m.resetFields 0x1B (pageSettings 0x1B)).clearTrc.toTrc .idle).postIf run 0x1B0B) :=
  (h.keeps ((heads_toTrc _ _).trans ((heads_clearTrc _).trans (heads_resetSettings m (by decide))))).postIf run

theorem HeaderCleared.pat (h : HeaderCleared 0x29 l m) (fs : List Fld) (hf : fs.all blockField = true) (g : Patina → Patina) :
    HeaderCleared 0x29 l ((((m.resetFields 0x29 fs).put R.PAT.SUMV 0).setPat g).postIf run 0x290B) :=
  (h.keeps ((heads_of_regs (Lane.setPat_regs _ g)).trans ((heads_put _ _ _ (by decide)).trans
    (heads_resetFields m fs (by decide) hf)))).postIf run

theorem HeaderCleared.att (h : HeaderCleared 0x2B l m) (g : Security → Security) :
    HeaderCleared 0x2B l (((m.resetFields 0x2B (pageSettings 0x2B)).setSec g).postIf run 0x2B0B) :=
  (h.keeps ((heads_of_regs (Lane.setSec_regs _ g)).trans (heads_resetSettings m (by decide)))).postIf run

end

theorem HeaderCleared.srstBlock {page : Nat} {l m : Lane} (h : HeaderCleared page l m) : HeaderCleared page l (m.srstBlock page) := by
  unfold Lane.srstBlock
  refine cleared_ite (fun _ => ?net) fun hp => ?_
  case net => exact h.keeps ((heads_put _ _ _ (by decide)).trans ((heads_put _ _ _ (by decide)).trans (heads_of_regs rfl)))
  refine cleared_ite (fun hpage => ?sol) fun _ => ?_
  case sol =>
    subst hpage
    exact h.sol _
  refine cleared_ite (fun hpage => ?opt) fun _ => ?_
  case opt =>
    subst hpage
    exact h.opt _ _ (by decide) _
  refine cleared_ite (fun _ => h.keeps ((heads_resetFields _ _ hp (by decide)).trans (heads_of_regs rfl))) fun _ => ?_
  refine cleared_ite (fun hpage => ?trc) fun _ => ?_
  case trc =>
    subst hpage
    exact h.trc _
  refine cleared_ite (fun _ => ?prg) fun _ => ?_
  case prg => exact h.keeps ((heads_put _ _ _ (by decide)).trans ((heads_resetSettings _ hp).trans (heads_toStopped m)))
  refine cleared_ite (fun _ => h.keeps ((heads_resetSettings _ hp).trans (heads_forceReleaseAll m))) fun _ => ?_
  refine cleared_ite (fun _ => h.keeps (heads_metReset m)) fun _ => ?_
  refine cleared_ite (fun hpage => ?pat) fun _ => ?_
  case pat =>
    subst hpage
    exact h.pat _ _ (by decide) _
  refine cleared_ite (fun hpage => ?att) fun _ => ?_
  case att =>
    subst hpage
    exact h.att _ _
  refine cleared_ite (fun hpage => ?asy) fun _ => ?_
  case asy =>
    subst hpage
    exact h.asyReset
  refine cleared_ite (fun _ => h.keeps (heads_resetFields m _ hp (by decide))) fun _ => ?_
  refine cleared_ite (fun _ => h.keeps ((heads_resetFields _ _ hp (by decide)).trans (heads_of_regs rfl))) fun _ => ?_
  refine cleared_ite (fun hpage => ?fab) fun _ => h.keeps (heads_srstRest m hp)
  case fab =>
    subst hpage
    exact h.fabReset

/-- SRST of a page that resets more than named fields clears its header. -/
theorem srst_cleared (l : Lane) {page : Nat} (h : srstOnly page = none) : HeaderCleared page l (l.srst page) := by
  unfold Lane.srst
  rw [h]
  exact (resetHeader_cleared l page).srstBlock

end Sys2Proof.Machine
end

section
/-! The header of an assigned page takes writes (O9). -/

namespace Sys2Proof.Machine

section
variable (s : State) (x : LaneId) (role : SessRole) (page : Nat) (v : Word)

theorem writeRow_word (key : Nat) : writeRow (.external role) key v.toNat s = writeRowOf (.external role) key (fun _ => v) s := by
  unfold writeRow
  rw [BitVec.ofNat_toNat, BitVec.setWidth_eq]
  rfl

theorem exec_lockWrite : exec (.lockWrite (.external role) page v) s =
    .next (writeRowOf (.external role) (page * 0x1000 + 0x020) (fun _ => v) s) :=
  congrArg Host.Outcome.next (writeRow_word s role v _)

theorem exec_irqfForce : exec (.irqfForce (.external role) page v) s =
    .next (writeRowOf (.external role) (page * 0x1000 + 0x018) (fun _ => v) s) :=
  congrArg Host.Outcome.next (writeRow_word s role v _)

theorem exec_regWrite_header (off : Nat) : exec (.regWrite (.external role) (.ofNat 32 (0x40000000 + page * 0x1000 + off)) v) s =
    .next (writeRowOf (.external role) (page * 0x1000 + off) (fun _ => v) s) := by
  rw [Nat.add_assoc]
  rfl

theorem exec_ctrlSrst : exec (.ctrlSrst (.external role) page) s =
    .next (writeRowOf (.external role) (page * 0x1000 + 0x008) (srstWord page) s) := rfl

end

theorem srstWord_closeLock (l : Lane) (page : Nat) : srstWord page (l.closeLock page) = srstWord page l := rfl

section
variable {s : State} {x : LaneId} {role : SessRole} {page : Nat} (hr : (s.lane x).running = true) (hp : (pageRow page).isSome = true)
include hr hp

/-- A header write that answers no status leaves the lane as its register makes it. -/
theorem headerWrite_ok (c : Instr) {off : Nat} (w : Lane → Word) (l : Lane)
    (hc : exec c s = .next (writeRowOf (.external role) (page * 0x1000 + off) w s)) (h4 : off % 4 = 0) (hoff : off ≤ 0x020)
    (hw : (s.lane x).mayWrite role page off (w (s.lane x)) = true)
    (hl : ((s.lane x).closeLock page).writeHeader page off (w (s.lane x)) = (l, 0)) : RegGives c s x l := by
  have hgives := headerWrite_gives c s x role w hc hr hp h4 hoff hw
  rwa [hl, postStatus_ok] at hgives

/-- A header write that answers a status of its page posts it. -/
theorem headerWrite_status (c : Instr) {off : Nat} (w : Lane → Word) (l : Lane) (code : Nat)
    (hc : exec c s = .next (writeRowOf (.external role) (page * 0x1000 + off) w s)) (h4 : off % 4 = 0) (hoff : off ≤ 0x020)
    (hw : (s.lane x).mayWrite role page off (w (s.lane x)) = true) (hcode : code ≠ 0) (hcode' : code < 256)
    (hl : ((s.lane x).closeLock page).writeHeader page off (w (s.lane x)) = (l, page * 256 + code)) :
    RegGives c s x (l.post (page * 256 + code)) := by
  have hgives := headerWrite_gives c s x role w hc hr hp h4 hoff hw
  rwa [hl, postStatus_page l hp code hcode hcode'] at hgives

theorem lockWrite_gives (v : Word) (hw : (s.lane x).mayWrite role page 0x020 v = true) (hv : v.toNat < 0x20000) :
    (v.toNat % 65536 = (((s.lane x).closeLock page).reg (page * 0x1000)).toNat % 65536 →
      RegGives (.lockWrite (.external role) page v) s x
        { (s.lane x).closeLock page with opened := page :: ((s.lane x).closeLock page).opened }) ∧
    (v.toNat % 65536 ≠ (((s.lane x).closeLock page).reg (page * 0x1000)).toNat % 65536 →
      RegGives (.lockWrite (.external role) page v) s x (((s.lane x).closeLock page).post (page * 256 + 0x05))) := by
  have hlock := writeHeader_lock ((s.lane x).closeLock page) page v hv
  constructor
  · intro hkey
    rw [if_pos hkey] at hlock
    exact headerWrite_ok hr hp _ (fun _ => v) _ (exec_lockWrite s role page v) (by decide) (by decide) hw hlock
  · intro hkey
    rw [if_neg hkey] at hlock
    exact headerWrite_status hr hp _ (fun _ => v) _ _ (exec_lockWrite s role page v) (by decide) (by decide) hw (by decide) (by decide) hlock

theorem irqfForce_gives (v : Word) (hw : (s.lane x).mayWrite role page 0x018 v = true) :
    ∃ t, exec (.irqfForce (.external role) page v) s = .next t ∧ LanesOnly s t ∧
      Forced page v (List.range 32) ((s.lane x).closeLock page) (t.lane x) := by
  obtain ⟨t, ht, hlane, honly⟩ := headerWrite_ok hr hp _ (fun _ => v) _ (exec_irqfForce s role page v) (by decide) (by decide) hw
    (writeHeader_irqf _ page v)
  exact ⟨t, ht, honly, hlane ▸ forceBits_forced page v _ _⟩

/-- SRST takes effect on the page. -/
theorem ctrlSrst_gives (hw : (s.lane x).mayWrite role page 0x008 (srstWord page (s.lane x)) = true) (hn : noSrst page = false) :
    RegGives (.ctrlSrst (.external role) page) s x ((((s.lane x).closeLock page).ctrlKept page).srst page) :=
  headerWrite_ok hr hp _ (srstWord page) _ (exec_ctrlSrst s role page) (by decide) (by decide) hw (by
    rw [← srstWord_closeLock, writeHeader_srst, if_neg (by simp [hn])])

theorem ctrlSrst_refused (hw : (s.lane x).mayWrite role page 0x008 (srstWord page (s.lane x)) = true) (hn : noSrst page = true) :
    RegGives (.ctrlSrst (.external role) page) s x (((s.lane x).closeLock page).post (page * 256 + 0x0A)) :=
  headerWrite_status hr hp _ (srstWord page) _ _ (exec_ctrlSrst s role page) (by decide) (by decide) hw (by decide) (by decide) (by
    rw [← srstWord_closeLock, writeHeader_srst, if_pos hn, ctrlKept_noSrst _ _ hn])

end

/-- A page that resets named fields only has an SRST. -/
theorem srstOnly_hasSrst {page : Nat} {fs : List Fld} (h : srstOnly page = some fs) : noSrst page = false := by
  have hnone : ∀ p ∈ [0x00, 0x01, 0x02, 0x06, 0x2A, 0x2C], srstOnly p = none := by decide
  by_contra hn
  have hmem : [0x00, 0x01, 0x02, 0x06, 0x2A, 0x2C].contains page = true := Bool.eq_true_of_not_eq_false hn
  rw [hnone page (List.contains_iff_mem.1 hmem)] at h
  exact absurd h (by simp)

/-- Settles O9: each write of a header register closes its page and does what `writeHeader` says; IRQF bit by bit, SRST by
page. -/
theorem headerRegistersTakeWrites : Obligations.HeaderRegistersTakeWrites := by
  unfold Obligations.HeaderRegistersTakeWrites
  intro s x role page v hr hp _
  refine ⟨fun hw hv => lockWrite_gives hr hp v hw hv, fun hw => ?irqf, fun hw => ?irqe, fun hw hbits => ?irqs,
    fun hw => ⟨fun hn => ctrlSrst_refused hr hp hw hn, fun fs hfs => ?fields, fun hn hall => ?whole⟩⟩
  case irqf =>
    obtain ⟨t, ht, honly, hforced⟩ := irqfForce_gives hr hp v hw
    refine ⟨t, ht, honly, hforced.only, hforced.regs, fun b hb => ?_⟩
    rw [hforced.bits b hb, decide_eq_true (List.mem_range.2 hb), Bool.true_and]
    rfl
  case irqe =>
    exact headerWrite_ok hr hp _ (fun _ => v) _ (exec_regWrite_header s role page v _) (by decide) (by decide) hw (writeHeader_irqe _ page v)
  case irqs =>
    exact headerWrite_ok hr hp _ (fun _ => v) _ (exec_regWrite_header s role page v _) (by decide) (by decide) hw
      (writeHeader_irqs _ page v hbits)
  case fields =>
    obtain ⟨t, ht, hlane, honly⟩ := ctrlSrst_gives hr hp hw (srstOnly_hasSrst hfs)
    refine ⟨t, ht, honly, ?_⟩
    rw [hlane]
    exact ⟨srst_only_enabled _ hfs, (srst_only _ hfs).1, srst_only_rest _ hfs, srst_only_reset _ hfs⟩
  case whole =>
    obtain ⟨t, ht, hlane, honly⟩ := ctrlSrst_gives hr hp hw hn
    have hcleared := srst_cleared (((s.lane x).closeLock page).ctrlKept page) hall
    refine ⟨t, ht, honly, ?_⟩
    rw [hlane]
    exact ⟨hcleared.enabled.trans (ctrlKept_enabled _ page), hcleared.irqe, hcleared.errc⟩

end Sys2Proof.Machine
end

section
/-! Events against a W1C write of IRQS (O7), held writes of engines (O10) and refused writes (O11). -/

namespace Sys2Proof.Machine

/-! ### Events and W1C writes in one frame (02_register_pages.md R46) -/

/-- A word that takes bit `b` holds it. -/
theorem getLsbD_or_bit (u : Word) {b : Nat} (hb : b < 32) : (u ||| (1 <<< b)).getLsbD b = true := by
  rw [BitVec.getLsbD_or]
  have hone : (BitVec.ofNat 32 (1 <<< b)).getLsbD b = true := by
    rw [BitVec.getLsbD_ofNat, Nat.one_shiftLeft, Nat.testBit_two_pow_self, decide_eq_true hb, Bool.and_true]
  exact Bool.or_eq_true_iff.2 (.inr hone)

/-- The frame remembers the event. -/
theorem irqBit_irqSet (l : Lane) (page b : Nat) :
    kvGet 0 (l.irqBit page b).irqSet page = kvGet 0 l.irqSet page ||| (1 <<< b) :=
  (kvGet_set 0 l.irqSet page page _).trans (if_pos rfl)

/-- A write of IRQS clears the bits written 1 but those that this frame has set. -/
theorem writeHeader_irqs_reg (l : Lane) (page : Nat) (w : Word) :
    (l.writeHeader page 0x010 w).1.reg (page * 0x1000 + 0x010) =
      l.reg (page * 0x1000 + 0x010) &&& ~~~(w &&& ~~~(kvGet 0 l.irqSet page)) :=
  Lane.reg_setReg_self l (page * 0x1000 + 0x010) _

/-- Settles O7: the write spares the bits of this frame's events, and the event sets its bit whatever was cleared. -/
theorem eventPrevailsOverClear : Obligations.EventPrevailsOverClear := by
  intro l page b w hb _
  have hset (m : Lane) : ((m.irqBit page b).reg (page * 0x1000 + 0x010)).getLsbD b = true := by
    rw [irqBit_irqs_bit m page b b hb, decide_eq_true rfl, Bool.or_true]
  refine ⟨?_, hset _⟩
  have hkeep : (kvGet 0 (l.irqBit page b).irqSet page).getLsbD b = true := by
    rw [irqBit_irqSet]
    exact getLsbD_or_bit _ hb
  rw [writeHeader_irqs_reg, BitVec.getLsbD_and, hset l, BitVec.getLsbD_not, BitVec.getLsbD_and, BitVec.getLsbD_not, hkeep]
  simp [hb]

/-! ### REG_WRITE (R49) -/

theorem regWrite_gives {s : State} {x : LaneId} (o : Origin) (a w : Word) (l : Lane) (hr : (s.lane x).running = true)
    (hl : ((s.lane x).writeReg s.hub o [] a w).1 = l) : RegGives (.regWrite o a w) s x l :=
  regGives_onLanes _ s x (fun l => (l.writeReg s.hub o [] a w).1) l rfl hr hl

/-! ### Held writes (R49, R50) -/

/-- No register reads what is held. -/
theorem readKey_held (h : Hub) (nv : NvStore) (l : Lane) (hs : List HeldWrite) (k : Nat) :
    readKey h nv { l with held := hs } k = readKey h nv l k := rfl

/-- An engine's write of an RWS register, but of those that only a session may write, is held. -/
theorem writeReg_holds (l : Lane) (h : Hub) (n : Fin 8) (a w : Word) (ha : addrStatus a = 0)
    (hrws : ((fieldsAt (addrKey a / 0x1000) (addrKey a % 0x1000)).any fun f => f.acc == .rws) = true)
    (htakes : ((fieldsAt (addrKey a / 0x1000) (addrKey a % 0x1000)).any fun f => f.acc.writable && !f.takes w) = false)
    (hclean : reservedSet (addrKey a / 0x1000) (addrKey a % 0x1000) w = false)
    (hown : ¬((addrKey a / 0x1000 = 0x2C ∧ addrKey a % 0x1000 = 0x048) ∨ (addrKey a / 0x1000 = 0x2D ∧ addrKey a % 0x1000 = 0x044) ∨
      (addrKey a / 0x1000 = 0x1D ∧ addrKey a % 0x1000 ≠ 0x044) ∨
      (addrKey a / 0x1000 = 0x29 ∧ addrKey a % 0x1000 = 0x054 ∧ w.getLsbD 0 = true))) :
    ∃ sel, l.writeReg h (.engine n) [] a w = ({ l with held := l.held ++ [⟨n.val, a, w, sel, h.fno⟩] }, 0) := by
  have hcore : ∃ sel, l.writeCore h (.engine n) [] a w = ({ l with held := l.held ++ [⟨n.val, a, w, sel, h.fno⟩] }, 0) := by
    unfold Lane.writeCore
    rw [ha]
    dsimp only
    rw [if_neg (by decide), if_neg (by decide), hrws, if_neg (by simp), if_pos rfl, if_neg hown, htakes, if_neg (by decide), hclean,
      if_neg (by decide)]
    exact ⟨_, rfl⟩
  obtain ⟨sel, hsel⟩ := hcore
  refine ⟨sel, ?_⟩
  rw [Lane.writeReg, hsel]
  dsimp only
  rw [postStatus_ok]

/-- Settles O10: the write only joins the held ones, which no read looks at. -/
theorem heldWriteLeavesValueInEffect : Obligations.HeldWriteLeavesValueInEffect := by
  refine ⟨readKey_held, ?_⟩
  intro s x n a w hr ha page off hrws htakes hclean hlcs hasy hfrc hpat
  obtain ⟨sel, hheld⟩ := writeReg_holds (s.lane x) s.hub n a w ha hrws htakes hclean
    (not_or.2 ⟨hlcs, not_or.2 ⟨hasy, not_or.2 ⟨hfrc, hpat⟩⟩⟩)
  obtain ⟨t, ht, hlane, honly⟩ := regWrite_gives (.engine n) a w _ hr (congrArg Prod.fst hheld)
  refine ⟨t, ht, honly, ⟨_, rfl, rfl, rfl, rfl, hlane⟩, fun k => ?_⟩
  rw [hlane]
  exact readKey_held s.hub s.nv (s.lane x) _ k

/-! ### Refused writes (R47, R48, 17_security.md R403) -/

/-- An address that reports nothing names a register of an assigned page. -/
theorem pageRow_of_addrStatus {a : Word} (ha : addrStatus a = 0) : (pageRow (addrKey a / 0x1000)).isSome = true := by
  unfold addrStatus at ha
  unfold addrKey
  generalize a.toNat - 0x40000000 = k at ha ⊢
  dsimp only at ha
  by_contra hnone
  have hrow : (pageRow (k / 0x1000)).isNone = true := by simpa using hnone
  by_cases hout : a.toNat < 0x40000000 ∨ 0x40100000 ≤ a.toNat
  · rw [if_pos hout] at ha
    exact absurd ha (by decide)
  · rw [if_neg hout, if_pos hrow] at ha
    split at ha <;> omega

/-- What a session's write of a register comes to. -/
theorem writeCore_external (l : Lane) (h : Hub) (role : SessRole) (e : List Byte) (a w : Word) (ha : addrStatus a = 0) :
    l.writeCore h (.external role) e a w =
      if l.mayWrite role (addrKey a / 0x1000) (addrKey a % 0x1000) w then
        (l.closeLock (addrKey a / 0x1000)).commit h true (l.opened.contains (addrKey a / 0x1000)) false e (addrKey a / 0x1000)
          (addrKey a % 0x1000) w
      else (l.closeLock (addrKey a / 0x1000), addrKey a / 0x1000 * 256 + 0x0D) := by
  unfold Lane.writeCore
  rw [ha]
  dsimp only
  rw [if_neg (by decide), if_neg (by decide)]
  cases l.mayWrite role (addrKey a / 0x1000) (addrKey a % 0x1000) w with
  | true => rw [if_neg (by decide), if_pos rfl]
  | false => rw [if_pos (by decide), if_neg (by decide)]

/-- A write without the right closes the page and is DENIED. -/
theorem writeReg_denied (l : Lane) (h : Hub) (role : SessRole) (a w : Word) (ha : addrStatus a = 0)
    (hno : l.mayWrite role (addrKey a / 0x1000) (addrKey a % 0x1000) w = false) :
    (l.writeReg h (.external role) [] a w).1 = (l.closeLock (addrKey a / 0x1000)).post (addrKey a / 0x1000 * 256 + 0x0D) := by
  rw [Lane.writeReg, writeCore_external l h role [] a w ha, hno]
  exact postStatus_page _ (pageRow_of_addrStatus ha) _ (by decide) (by decide)

/-- A closed page refuses a write to its RWL registers. -/
theorem commit_locked (l : Lane) (h : Hub) (e : List Byte) (page off : Nat) (w : Word) (hoff : 0x040 ≤ off)
    (hrwl : ((fieldsAt page off).any fun f => f.acc == .rwl) = true) :
    l.commit h true false false e page off w = (l, page * 256 + 0x04) := by
  have hwritable : ((fieldsAt page off).any fun f => f.acc.writable) = true := by
    obtain ⟨f, hf, hacc⟩ := List.any_eq_true.1 hrwl
    exact List.any_eq_true.2 ⟨f, hf, by rw [eq_of_beq hacc]; rfl⟩
  unfold Lane.commit
  dsimp only
  rw [if_neg (by omega), hwritable, if_neg (by decide), if_neg (by simp), hrwl, if_pos (by decide)]

theorem writeReg_locked (l : Lane) (h : Hub) (role : SessRole) (a w : Word) (ha : addrStatus a = 0)
    (hw : l.mayWrite role (addrKey a / 0x1000) (addrKey a % 0x1000) w = true) (hoff : 0x040 ≤ addrKey a % 0x1000)
    (hrwl : ((fieldsAt (addrKey a / 0x1000) (addrKey a % 0x1000)).any fun f => f.acc == .rwl) = true)
    (hclosed : addrKey a / 0x1000 ∉ l.opened) :
    (l.writeReg h (.external role) [] a w).1 = (l.closeLock (addrKey a / 0x1000)).post (addrKey a / 0x1000 * 256 + 0x04) := by
  have hcontains : l.opened.contains (addrKey a / 0x1000) = false := by simpa using hclosed
  rw [Lane.writeReg, writeCore_external l h role [] a w ha, if_pos hw, hcontains, commit_locked _ _ _ _ _ _ hoff hrwl]
  exact postStatus_page _ (pageRow_of_addrStatus ha) _ (by decide) (by decide)

/-- Settles O11: both refusals come before the register, on the page the write has closed. -/
theorem refusedWritesChangeNothing : Obligations.RefusedWritesChangeNothing := by
  intro s x role a w hr ha
  exact ⟨fun hno => regWrite_gives _ a w _ hr (writeReg_denied _ s.hub role a w ha hno),
    fun hw hoff hrwl hclosed => regWrite_gives _ a w _ hr (writeReg_locked _ s.hub role a w ha hw hoff hrwl hclosed)⟩

end Sys2Proof.Machine
end

section
/-! A write that only stores its fields (O8). -/

namespace Sys2Proof.Machine

/-! ### Fields of one register stand apart (02_register_pages.md R44) -/

/-- A field lies within a word. -/
abbrev Fld.inWord (f : Fld) : Prop := f.lo ≤ f.hi ∧ f.hi < 32

/-- The bits of two fields do not overlap. -/
abbrev Fld.beside (f g : Fld) : Prop := f.hi < g.lo ∨ g.hi < f.lo

/-- Two fields of a page share no bit: they stand side by side, or in different registers. -/
def Fld.apart (f g : Fld) : Bool := decide (f.beside g) || (List.range f.cnt).all fun i => !g.covers (f.off + i * f.stride)

theorem pageRows_inWord : ∀ r ∈ pageRows, ∀ f ∈ r.fields, f.inWord := by decide +kernel

theorem pageRows_apart : ∀ r ∈ pageRows, r.fields.Pairwise fun f g => f.apart g = true := by decide +kernel

/-- A register that a field covers is one of its elements. -/
theorem Fld.covers_idx {f : Fld} {off : Nat} (h : f.covers off = true) : ∃ i < f.cnt, off = f.off + i * f.stride := by
  unfold Fld.covers at h
  split_ifs at h with hone
  · exact ⟨0, by omega, by rw [← eq_of_beq h]; omega⟩
  · simp only [Bool.and_eq_true, decide_eq_true_eq] at h
    obtain ⟨⟨hle, hmod⟩, hlt⟩ := h
    refine ⟨(off - f.off) / f.stride, hlt, ?_⟩
    have hdiv := Nat.div_add_mod (off - f.off) f.stride
    rw [hmod, Nat.add_zero, Nat.mul_comm] at hdiv
    omega

theorem Fld.beside_of_apart {f g : Fld} {off : Nat} (h : f.apart g = true) (hf : f.covers off = true) (hg : g.covers off = true) :
    f.beside g := by
  obtain ⟨i, hi, rfl⟩ := Fld.covers_idx hf
  rcases Bool.or_eq_true_iff.1 h with hbits | hoffs
  · exact of_decide_eq_true hbits
  · have hno := List.all_eq_true.1 hoffs i (List.mem_range.2 hi)
    rw [hg] at hno
    exact absurd hno (by decide)

theorem fieldsAt_inWord (page off : Nat) : ∀ f ∈ fieldsAt page off, f.inWord := by
  intro f hf
  unfold fieldsAt at hf
  split at hf
  next => exact absurd hf List.not_mem_nil
  next row hrow =>
    exact pageRows_inWord row (List.mem_of_find?_eq_some hrow) f (List.mem_of_mem_filter hf)

theorem fieldsAt_beside (page off : Nat) : (fieldsAt page off).Pairwise Fld.beside := by
  unfold fieldsAt
  split
  next => exact List.Pairwise.nil
  next row hrow =>
    have hrows := pageRows_apart row (List.mem_of_find?_eq_some hrow)
    refine (hrows.filter _).imp_of_mem fun {f g} hf hg h => ?_
    exact Fld.beside_of_apart h (List.mem_filter.1 hf).2 (List.mem_filter.1 hg).2

/-! ### What a field holds after a write (00_scope.md Table SCO-5) -/

/-- The part of a field that held `old`, after a write of `w`. -/
def Fld.stored (f : Fld) (w : Word) (old : Nat) : Nat :=
  if f.acc = .rw ∨ f.acc = .rws ∨ f.acc = .rwl then bits w f.hi f.lo
  else if f.acc = .w1c then old - (old &&& bits w f.hi f.lo)
  else if f.acc = .w1s then old ||| bits w f.hi f.lo
  else old

section
variable (l : Lane) (page off : Nat) (w : Word) {f g : Fld}

theorem storeField_bits_self (hf : f.inWord) :
    bits ((storeField l page off w f).reg (page * 0x1000 + off)) f.hi f.lo =
      f.stored w (bits (l.reg (page * 0x1000 + off)) f.hi f.lo) := by
  have hnew := bits_lt w f.hi f.lo
  have hold := bits_lt (l.reg (page * 0x1000 + off)) f.hi f.lo
  have hput (v : Nat) (hv : v < 2 ^ (f.hi + 1 - f.lo)) :
      bits ((l.setReg (page * 0x1000 + off) (withBits (l.reg (page * 0x1000 + off)) f.hi f.lo v)).reg (page * 0x1000 + off))
        f.hi f.lo = v := by
    rw [Lane.reg_setReg_self, bits_withBits _ _ _ _ hf.1 hf.2, Nat.mod_eq_of_lt hv]
  unfold storeField Fld.stored
  cases f.acc with
  | rw | rws | rwl => exact hput _ hnew
  | w1c => exact hput _ (lt_of_le_of_lt (Nat.sub_le _ _) hold)
  | w1s => exact hput _ (Nat.or_lt_two_pow hold hnew)
  | ro | rc | wo => rfl

theorem storeField_bits_beside (hf : f.inWord) (hfg : f.beside g) :
    bits ((storeField l page off w f).reg (page * 0x1000 + off)) g.hi g.lo = bits (l.reg (page * 0x1000 + off)) g.hi g.lo := by
  have hput (v : Nat) :
      bits ((l.setReg (page * 0x1000 + off) (withBits (l.reg (page * 0x1000 + off)) f.hi f.lo v)).reg (page * 0x1000 + off)) g.hi g.lo =
        bits (l.reg (page * 0x1000 + off)) g.hi g.lo := by
    rw [Lane.reg_setReg_self, bits_withBits_ne _ _ _ _ _ _ hf.1 hf.2 hfg]
  unfold storeField
  cases f.acc with
  | rw | rws | rwl | w1c | w1s => exact hput _
  | ro | rc | wo => rfl

end

/-- Fields that stand apart are stored one by one. -/
theorem storeFields_bits (page off : Nat) (w : Word) (fs : List Fld) (hin : ∀ f ∈ fs, f.inWord)
    (hap : fs.Pairwise Fld.beside) (l : Lane) :
    (∀ f ∈ fs, bits ((fs.foldl (fun (l : Lane) f => storeField l page off w f) l).reg (page * 0x1000 + off)) f.hi f.lo =
      f.stored w (bits (l.reg (page * 0x1000 + off)) f.hi f.lo)) ∧
    ∀ g, (∀ f ∈ fs, f.beside g) →
      bits ((fs.foldl (fun (l : Lane) f => storeField l page off w f) l).reg (page * 0x1000 + off)) g.hi g.lo =
        bits (l.reg (page * 0x1000 + off)) g.hi g.lo := by
  induction fs generalizing l with
  | nil => exact ⟨fun f hf => absurd hf List.not_mem_nil, fun _ _ => rfl⟩
  | cons f fs ih =>
    obtain ⟨hf, hfs⟩ := List.forall_mem_cons.1 hin
    obtain ⟨hside, hrest⟩ := List.pairwise_cons.1 hap
    obtain ⟨hmem, hkeep⟩ := ih hfs hrest (storeField l page off w f)
    refine ⟨List.forall_mem_cons.2 ⟨?_, fun g hg => ?_⟩, fun g hg => ?_⟩
    · exact (hkeep f fun g hg => (hside g hg).symm).trans (storeField_bits_self l page off w hf)
    · rw [← storeField_bits_beside l page off w hf (hside g hg)]
      exact hmem g hg
    · obtain ⟨hfg, hfsg⟩ := List.forall_mem_cons.1 hg
      exact (hkeep g hfsg).trans (storeField_bits_beside l page off w hf hfg)

theorem Lane.store_bits (l : Lane) (page off : Nat) (w : Word) (f : Fld) (hf : f ∈ fieldsAt page off) :
    bits ((l.store page off w).reg (page * 0x1000 + off)) f.hi f.lo = f.stored w (bits (l.reg (page * 0x1000 + off)) f.hi f.lo) :=
  (storeFields_bits page off w _ (fieldsAt_inWord page off) (fieldsAt_beside page off) l).1 f hf

/-! ### Pages whose writes are no operations -/

theorem writeOp_none (l : Lane) (h : Hub) (page off : Nat) (w : Word)
    (hpage : page ∉ [0x00, 0x02, 0x05, 0x11, 0x13, 0x19, 0x1A, 0x1B, 0x1C, 0x1D, 0x1E, 0x23, 0x24, 0x29, 0x2A, 0x2B, 0x2C, 0x2D, 0x30,
      0x31, 0x34, 0x3C, 0x44, 0x45, 0x46, 0x47, 0x4C, 0x4D, 0x51])
    (hbusy : ¬(0x08 ≤ page ∧ page ≤ 0x0F ∧ off = 0x05C)) : l.writeOp h true [] page off w = none := by
  simp only [List.mem_cons, List.not_mem_nil, or_false, not_or] at hpage
  unfold Lane.writeOp
  split_ifs with hcompute hprogram hsystem
  · have hp : page = 0x18 := by omega
    unfold Lane.writeCompute
    simp [hp]
  · omega
  · unfold Lane.writeSystem
    simp only [hpage, hbusy, false_and, if_false]
  · have hcan : ¬(0x44 ≤ page ∧ page ≤ 0x47) := by omega
    unfold Lane.writePeriph
    simp only [hpage, hcan, false_and, false_or, if_false]

/-- What storing leaves of a lane whose page is closed. -/
theorem closeLock_store (l : Lane) {page off key : Nat} (w : Word) (hkey : page * 0x1000 + off = key) :
    RegsBut [key] l ((l.closeLock page).store page off w) ∧
    ∀ f ∈ fieldsAt page off, bits (((l.closeLock page).store page off w).reg key) f.hi f.lo = f.stored w (bits (l.reg key) f.hi f.lo) := by
  subst hkey
  exact ⟨fun k hk => Lane.store_reg_ne (l.closeLock page) page off w k (by simpa using hk),
    Lane.store_bits (l.closeLock page) page off w⟩

/-- A write of a register that is no operation of its block stores its fields on the page it has closed. -/
theorem regWrite_stores {s : State} {x : LaneId} {role : SessRole} {a w : Word} (hr : (s.lane x).running = true) (ha : addrStatus a = 0)
    (hoff : 0x040 ≤ addrKey a % 0x1000)
    (hop : ((s.lane x).closeLock (addrKey a / 0x1000)).writeOp s.hub true [] (addrKey a / 0x1000) (addrKey a % 0x1000) w = none)
    (hacc : Accepts (s.lane x) role (addrKey a) w)
    (hw : ((fieldsAt (addrKey a / 0x1000) (addrKey a % 0x1000)).any fun f => f.acc.writable) = true) :
    RegGives (.regWrite (.external role) a w) s x
      (((s.lane x).closeLock (addrKey a / 0x1000)).store (addrKey a / 0x1000) (addrKey a % 0x1000) w) := by
  refine regWrite_gives (.external role) a w _ hr ?_
  rw [Lane.writeReg_at (s.lane x) s.hub role [] a w ha hoff hw hacc, hop]

/-- Settles O8: the write stores its fields, which stand apart, on the page it has closed. -/
theorem registerWriteStoresFields : Obligations.RegisterWriteStoresFields := by
  intro s x role a w page off l
  refine ⟨writeOp_none l s.hub page off w, fun hr ha hoff hop hacc hw => ?_⟩
  obtain ⟨t, ht, hlane, honly⟩ := regWrite_stores hr ha hoff hop hacc hw
  refine ⟨t, ht, honly, ?_⟩
  rw [hlane]
  exact ⟨Lane.store_eq l page off w, closeLock_store (s.lane x) w (Nat.div_add_mod' (addrKey a) 0x1000)⟩

end Sys2Proof.Machine
end

section
/-! Transactions, reads and reads of ERRC (O24). -/

namespace Sys2Proof.Machine

/-! ### Checks of a transaction (02_register_pages.md R53, R57, 21_field_ports.md R462) -/

section
variable {ss : Session} {n : Nat}

theorem transCode_full (h : 4 ≤ ss.open_.length) : transCode ss n = 0xFF08 := if_pos h

theorem transCode_ok (h : ss.open_.length < 4) (h1 : 1 ≤ n) (h2 : n ≤ 256) : transCode ss n = 0 := by
  rw [transCode, if_neg (by omega), if_neg (by omega)]

theorem transCode_length (h : ss.open_.length < 4) (hn : n = 0 ∨ 256 < n) : transCode ss n = 0xFF09 := by
  rw [transCode, if_neg (by omega), if_pos hn]

end

/-! ### What a session's transaction comes to -/

section
variable {s : State} {x : Nat} {l : Lane} {ss : Session} (hl : s.server = some l) (hs : s.hub.session x = some ss)
include hl hs

/-- A write transaction with room is handed over, and its tag is open (R53 to R55). -/
theorem writeTrans_given (tag : Nat) (tm : Int) (es : List WriteEntry) (ent : List Byte) (hcode : transCode ss es.length = 0)
    (hroom : (s.hub.heard x).room04 (writeLen es) = true) :
    s.writeTrans x tag tm es ent = { s with
      hub := ((s.hub.heard x).handOver (writeLen es) tm (.write ss.key tag ss.role es ent)).openTag x tag } := by
  rw [State.writeTrans, onSession_open hl hs]
  simp [hcode, State.setHub, hroom]

theorem writeTrans_noRoom (tag : Nat) (tm : Int) (es : List WriteEntry) (ent : List Byte) (hcode : transCode ss es.length = 0)
    (hroom : (s.hub.heard x).room04 (writeLen es) = false) :
    s.writeTrans x tag tm es ent = { s with hub := (s.hub.heard x).sent (.refuse x tag 0xFF0F) } := by
  rw [State.writeTrans, onSession_open hl hs]
  simp [hcode, State.setHub, State.refuse, hroom]

/-- A transaction whose check fails is refused with its code. -/
theorem writeTrans_refused (tag : Nat) (tm : Int) (es : List WriteEntry) (ent : List Byte) {code : Nat}
    (hcode : transCode ss es.length = code) (hne : code ≠ 0) :
    s.writeTrans x tag tm es ent = { s with hub := (s.hub.heard x).sent (.refuse x tag (.ofNat 16 code)) } := by
  rw [State.writeTrans, onSession_open hl hs]
  subst hcode
  exact if_pos hne

theorem readTrans_refused (tag : Nat) (as : List Word) {code : Nat} (hcode : transCode ss as.length = code) (hne : code ≠ 0) :
    s.readTrans x tag as = { s with hub := (s.hub.heard x).sent (.refuse x tag (.ofNat 16 code)) } := by
  rw [State.readTrans, onSession_open hl hs]
  subst hcode
  exact if_pos hne

theorem readFrame_refused (tag : Nat) (as : List Word) {code : Nat} (hcode : transCode ss as.length = code) (hne : code ≠ 0) :
    s.readFrame x tag as = { s with hub := (s.hub.heard x).sent (.refuse x tag (.ofNat 16 code)) } := by
  rw [State.readFrame, onSession_open hl hs]
  subst hcode
  exact if_pos hne

/-- A frame-consistent read waits for the next frame (R57). -/
theorem readFrame_waits (tag : Nat) (as : List Word) (hcode : transCode ss as.length = 0) :
    s.readFrame x tag as = { s with
      hub := ((s.hub.heard x).openTag x tag).setPorts fun p => { p with waits := p.waits ++ [⟨x, tag, ss.role, as, s.hub.fno + 1⟩] } } := by
  rw [State.readFrame, onSession_open hl hs]
  exact if_neg (not_not.2 hcode)

/-- An immediate read is answered from the active lane. -/
theorem readTrans_answered (tag : Nat) (as : List Word) (hcode : transCode ss as.length = 0) :
    s.readTrans x tag as = (s.setHub fun h => h.heard x).answerRead l.id x tag 0 ss.role as := by
  rw [State.readTrans, onSession_open hl hs]
  exact if_neg (not_not.2 hcode)

theorem exec_errcRead {page : Nat} (hp : page < 256) : exec (.errcRead x page) s =
    .next ((s.setHub fun h => h.heard x).answerRead l.id x 0 0 ss.role [.ofNat 32 (0x40000000 + page * 0x1000 + 0x01C)]) := by
  show Host.Outcome.next (s.onSession x _) = _
  rw [onSession_open hl hs, Nat.mod_eq_of_lt hp]

end

/-! ### One address (R57, R58, 17_security.md R403) -/

section
variable (s : State) (o : LaneId) (x : Nat) (role : SessRole) (a : Word)

/-- A read of one address is answered with what the address gives. -/
theorem answerRead_one (tag : Nat) (u : State) (r : Word × Half) (h : s.readOne o x role a = (u, r)) :
    s.answerRead o x tag 0 role [a] = { u with hub := u.hub.sent (.readAnswer x tag 0 [r]) } := by
  rw [State.answerRead, State.readAll, h]
  rfl

/-- A refused read answers 0 with its status (assumption log 89). -/
theorem readOne_refused (hst : (s.lane o).readStatus a ≠ 0) :
    s.readOne o x role a = (s, 0, .ofNat 16 ((s.lane o).readStatus a)) := by
  have hread : Lane.sessionRead s.hub s.nv (s.lane o) (8 + x) s.hub.ports.rcPend a =
      (0, (s.lane o).readStatus a, none, s.lane o) := if_pos hst
  unfold State.readOne
  rw [hread]
  dsimp only
  rw [if_neg (fun h => hst h.2.1), State.setLane_lane_self, fullStatus, if_neg hst]

/-- A read of a register that is no ERRC and of no calendar shadow answers its value. -/
theorem readOne_plain (hst : (s.lane o).readStatus a = 0) (herrc : addrKey a % 0x1000 ≠ 0x01C) (hrtc : addrKey a / 0x1000 ≠ 0x30) :
    s.readOne o x role a = (s, readKey s.hub s.nv (s.lane o) (addrKey a), .ofNat 16 (addrKey a / 0x1000 * 256)) := by
  have hne (f : Fld) (hf : f.key / 0x1000 = 0x30) : addrKey a ≠ f.key := fun h => hrtc (h ▸ hf)
  have hread : Lane.sessionRead s.hub s.nv (s.lane o) (8 + x) s.hub.ports.rcPend a =
      (readKey s.hub s.nv (s.lane o) (addrKey a), 0, none, s.lane o) := by
    unfold Lane.sessionRead
    rw [hst]
    dsimp only
    rw [if_neg (by decide), if_neg herrc, if_neg (hne R.RTC.CALW0 rfl), if_neg (hne R.RTC.CALW1 rfl)]
    cases (s.lane o).shadow (8 + x) with
    | none => rfl
    | some c => simp only [hne R.RTC.CALW1 rfl, hne R.RTC.CALSEC rfl, if_false]
  unfold State.readOne
  rw [hread]
  dsimp only
  rw [if_neg (fun h => herrc h.2.2), State.setLane_lane_self]
  rfl

variable {page : Nat} (hst : (s.lane o).readStatus a = 0) (hkey : addrKey a = page * 0x1000 + 0x01C)
include hst hkey

theorem sessionRead_errc : Lane.sessionRead s.hub s.nv (s.lane o) (8 + x) s.hub.ports.rcPend a =
    (errcShown (s.lane o) s.hub.ports.rcPend a, 0,
      if errcShown (s.lane o) s.hub.ports.rcPend a = 0 then none else some (a, errcShown (s.lane o) s.hub.ports.rcPend a), s.lane o) := by
  unfold Lane.sessionRead
  rw [hst]
  dsimp only
  rw [if_neg (by decide), if_pos (by omega)]

/-- A VIEW session's read of ERRC is DENIED and clears nothing. -/
theorem readOne_errc_view (hrole : role = .view) : s.readOne o x role a =
    (s, errcShown (s.lane o) s.hub.ports.rcPend a, .ofNat 16 (page * 256 + 0x0D)) := by
  unfold State.readOne
  rw [sessionRead_errc s o x a hst hkey]
  dsimp only
  rw [if_pos ⟨hrole, rfl, by omega⟩, State.setLane_lane_self, show addrKey a / 0x1000 = page by omega]

variable (hrole : role ≠ .view)
include hrole

/-- Where ERRC shows nothing, there is nothing to clear. -/
theorem readOne_errc_zero (hw : errcShown (s.lane o) s.hub.ports.rcPend a = 0) : s.readOne o x role a =
    (s, errcShown (s.lane o) s.hub.ports.rcPend a, .ofNat 16 (page * 256)) := by
  unfold State.readOne
  rw [sessionRead_errc s o x a hst hkey, if_pos hw]
  dsimp only
  rw [if_neg (fun h => hrole h.1), State.setLane_lane_self, fullStatus, if_pos rfl, show addrKey a / 0x1000 = page by omega]

/-- The clear of a code that ERRC shows is passed, which leaves the hub as `g`. -/
theorem readOne_errc_code (hw : errcShown (s.lane o) s.hub.ports.rcPend a ≠ 0) {g : Hub}
    (hg : s.hub.passClear a (errcShown (s.lane o) s.hub.ports.rcPend a) = g) : s.readOne o x role a =
    (s.setHub fun _ => g, errcShown (s.lane o) s.hub.ports.rcPend a, .ofNat 16 (page * 256)) := by
  subst hg
  unfold State.readOne
  rw [sessionRead_errc s o x a hst hkey, if_neg hw]
  dsimp only
  rw [if_neg (fun h => hrole h.1), State.setLane_lane_self, fullStatus, if_pos rfl, show addrKey a / 0x1000 = page by omega]
  rfl

end

theorem Hub.passClear_room (h : Hub) (a w : Word) (hroom : h.room04 8 = true) :
    h.passClear a w = (h.handOver 8 0 (.rcClear a w)).setPorts fun p => { p with rcPend := p.rcPend ++ [(a, w)] } := if_pos hroom

theorem Hub.passClear_noRoom (h : Hub) (a w : Word) (hroom : h.room04 8 = false) : h.passClear a w = h := if_neg (by simp [hroom])

theorem errcAddr_key {page : Nat} (hp : page < 256) : addrKey (.ofNat 32 (0x40000000 + page * 0x1000 + 0x01C)) = page * 0x1000 + 0x01C := by
  rw [Nat.add_assoc]
  exact addrKey_base _ (by omega)

/-- ERRC_READ answers with what the read of ERRC gives (R58). -/
theorem errcRead_of_readOne {s u : State} {x page : Nat} {l : Lane} {ss : Session} {a : Word} {r : Word × Half} (hl : s.server = some l)
    (hs : s.hub.session x = some ss) (hp : page < 256) (ha : a = .ofNat 32 (0x40000000 + page * 0x1000 + 0x01C))
    (hone : (s.setHub fun h => h.heard x).readOne l.id x ss.role a = (u, r)) :
    exec (.errcRead x page) s = .next { u with hub := u.hub.sent (.readAnswer x 0 0 [r]) } := by
  rw [exec_errcRead hl hs hp, ← ha, answerRead_one _ _ _ _ _ 0 _ _ hone]

/-- Settles O24: each transaction by its check, each read by its one address. -/
theorem transactionsAndReads : Obligations.TransactionsAndReads := by
  intro s l ss x tag tm es as ent hl hs h refused
  let u : State := s.setHub fun h => h.heard x
  refine ⟨fun ho h1 h2 hroom => ⟨by unfold writeLen; omega, ?_⟩, fun ho h1 h2 hroom => ?_, fun ho => ⟨?_, ?_⟩, fun ho hn => ⟨?_, ?_⟩,
    fun ho h1 h2 => ?_, fun a ho hst herrc hrtc => ?_, fun a st ho hst hne => ?_, fun page a hp ha hst => ?_⟩
  · exact congrArg Host.Outcome.next (writeTrans_given hl hs tag tm es ent (transCode_ok ho h1 h2) hroom)
  · exact congrArg Host.Outcome.next (writeTrans_noRoom hl hs tag tm es ent (transCode_ok ho h1 h2) hroom)
  · exact congrArg Host.Outcome.next (writeTrans_refused hl hs tag tm es ent (transCode_full ho) (by decide))
  · exact congrArg Host.Outcome.next (readTrans_refused hl hs tag as (transCode_full ho) (by decide))
  · exact congrArg Host.Outcome.next (readTrans_refused hl hs tag as (transCode_length ho hn) (by decide))
  · exact congrArg Host.Outcome.next (readFrame_refused hl hs tag as (transCode_length ho hn) (by decide))
  · exact congrArg Host.Outcome.next (readFrame_waits hl hs tag as (transCode_ok ho h1 h2))
  · refine congrArg Host.Outcome.next ((readTrans_answered hl hs tag [a] (transCode_one ss ho)).trans ?_)
    exact answerRead_one _ _ _ _ _ tag _ _ (readOne_plain u l.id x ss.role a hst herrc hrtc)
  · subst hst
    refine congrArg Host.Outcome.next ((readTrans_answered hl hs tag [a] (transCode_one ss ho)).trans ?_)
    exact answerRead_one _ _ _ _ _ tag _ _ (readOne_refused u l.id x ss.role a hne)
  · have hkey : addrKey a = page * 0x1000 + 0x01C := by rw [ha, errcAddr_key hp]
    refine ⟨fun hrole hno => ?_, fun hw hrole hroom => ?_, fun hrole => ?_⟩
    · by_cases hw : errcShown (s.lane l.id) s.hub.ports.rcPend a = 0
      · exact errcRead_of_readOne hl hs hp ha (readOne_errc_zero u l.id x ss.role a hst hkey hrole hw)
      · exact errcRead_of_readOne hl hs hp ha (readOne_errc_code u l.id x ss.role a hst hkey hrole hw
          (Hub.passClear_noRoom _ _ _ (hno.resolve_left hw)))
    · exact errcRead_of_readOne hl hs hp ha (readOne_errc_code u l.id x ss.role a hst hkey hrole hw (Hub.passClear_room _ _ _ hroom))
    · exact errcRead_of_readOne hl hs hp ha (readOne_errc_view u l.id x ss.role a hst hkey hrole)

end Sys2Proof.Machine
end

section
/-! Queues, time, registers and display lists of an Enesque task (O58). -/

namespace Sys2Proof.Machine

section
variable {s : State} {x : LaneId} {e : Exec45} {n : Nat} (h : Executes s x e n)
include h

/-- An instruction of area 0 or V that does not fault gives what its meaning makes of the lane. -/
theorem enqGives_of_sem {c : Instr} {cost : Nat} {sem : EnqSem} {area : BitVec 4} {addr : BitVec 20} {m : Lane}
    (hc : exec c s = .next (enqRow e sem area addr s)) (harea : indexCost area.toNat = 0)
    (hs : sem (enqEnv s e n) area.toNat addr.toNat (s.pcOn x n) = .ok (m, cost)) : EnqGives c s x e n cost m := by
  refine ⟨_, hc, ?_, enqRow_only s e sem area addr⟩
  have hlane := enqRow_ok s x e n sem area addr cost m h hs
  rwa [harea, Nat.add_zero] at hlane

/-! ### Operands (11_enesque_instructions.md R264, R272, R274) -/

/-- The registers of the context but PC are those before the instruction. -/
theorem pcOn_ctx : (s.pcOn x n).enqCtx n = { s.ctxOf x n with pc := (s.ctxOf x n).pc + 1 } :=
  Lane.ctx_modCtx (s.lane x) n _ h.known

omit h in
theorem varOperand_v (l : Lane) (a : Nat) (ha : 4 * a < (l.exe (exeNo e)).decl.vsize) : (enqEnv s e n).varOperand l 4 a = .ok a :=
  if_pos ha

omit h in
theorem pairOperand_v (l : Lane) (a : Nat) (ha : 4 * (a + 1) < (l.exe (exeNo e)).decl.vsize) : (enqEnv s e n).pairOperand l 4 a = .ok a := by
  unfold EnqEnv.pairOperand
  rw [varOperand_v l a (by omega)]
  exact if_pos ha

/-- XR names a queue of the pool to whose end the executor has the access (R272). -/
theorem queueArg_pool (reads : Bool) (h8 : 8 ≤ (s.ctxOf x n).xr.toNat) (h56 : (s.ctxOf x n).xr.toNat < 56)
    (hend : (if reads then ((s.pcOn x n).queueEnds (s.ctxOf x n).xr.toNat).2
      else ((s.pcOn x n).queueEnds (s.ctxOf x n).xr.toNat).1) = exeNo e) :
    (enqEnv s e n).queueArg (s.pcOn x n) reads = .ok (s.ctxOf x n).xr.toNat := by
  unfold EnqEnv.queueArg
  rw [show (enqEnv s e n).task = n from rfl, pcOn_ctx h]
  dsimp only
  rw [if_neg (by omega), if_neg]
  rintro (hlow | hhigh | hno)
  · omega
  · omega
  · exact hno hend

/-- XR is the address of a register (R274). -/
theorem regArg_register (hlo : 0x40000000 ≤ (s.ctxOf x n).xr.toNat) (hhi : (s.ctxOf x n).xr.toNat < 0x40100000)
    (h4 : (s.ctxOf x n).xr.toNat % 4 = 0) : (enqEnv s e n).regArg (s.pcOn x n) = .ok (s.ctxOf x n).xr := by
  unfold EnqEnv.regArg
  rw [show (enqEnv s e n).task = n from rfl, pcOn_ctx h]
  dsimp only
  rw [if_neg (by omega)]

end

/-- The page of a register address. -/
theorem addrKey_page {a : Word} (hlo : 0x40000000 ≤ a.toNat) (hhi : a.toNat < 0x40100000) : addrKey a = a.toNat % 2 ^ 20 := by
  unfold addrKey
  omega

/-! ### Meanings once the operands are taken (R272 to R275) -/

section
variable {v : EnqEnv} {l m : Lane} {a q : Nat}

theorem enqQget_empty (ha : v.pairOperand l 4 a = .ok a) (hq : v.queueArg l true = .ok q) (ht : l.queueTake q = (none, m)) :
    enqQget v 4 a l = .ok ((m.setWa v.task 0).setBa v.task false, 12) := by
  simp only [enqQget, ha, hq, ht, bind, Except.bind, pure, Except.pure]

theorem enqQget_word (ha : v.pairOperand l 4 a = .ok a) (hq : v.queueArg l true = .ok q) {d : Dword} {last : Bool}
    (ht : l.queueTake q = (some (d, last), m)) :
    enqQget v 4 a l = .ok ((((m.setVarWord v.exe a (d.setWidth 32)).setVarWord v.exe (a + 1) (.ofNat 32 (d.toNat / 2 ^ 32))).setWa v.task
      (if last then 2 else 1)).setBa v.task true, 12) := by
  simp only [enqQget, ha, hq, ht, bind, Except.bind, pure, Except.pure]

theorem enqQput_word (ha : v.pairOperand l 4 a = .ok a) (hq : v.queueArg l false = .ok q) {ok : Bool}
    (hp : l.taskPut v.task q (.ofNat 64 ((l.varWord v.exe a).toNat + (l.varWord v.exe (a + 1)).toNat * 2 ^ 32)) = (m, ok)) :
    enqQput v 4 a l = .ok (m.setBa v.task ok, 12) := by
  simp only [enqQput, ha, hq, hp, bind, Except.bind, pure, Except.pure]

theorem enqQend_closes (hq : v.queueArg l false = .ok q) : enqQend v 0 0 l = .ok (l.queueClose q, 6) := by
  simp only [enqQend, noOperand, and_self, if_true, hq, bind, Except.bind, pure, Except.pure]

theorem enqTime_word {w : Word} (hw : timeWord l a = some w) : enqTime v 0 a l = .ok (l.setWa v.task w, 4) := by
  simp only [enqTime, selOperand, if_true, hw, bind, Except.bind, pure, Except.pure]

variable {r w : Word} {st : Nat}

theorem enqRrd_reads (hr : v.regArg l = .ok r) (hread : Lane.engineRead v.hub v.nv l v.exe r = (w, st, m)) :
    enqRrd v 0 0 l = .ok ((m.setWa v.task w).setBa v.task (decide (st = 0)), 30) := by
  simp only [enqRrd, noOperand, and_self, if_true, hr, hread, bind, Except.bind, pure, Except.pure]

theorem enqRwr_writes (hr : v.regArg l = .ok r)
    (hwrite : l.writeReg v.hub (.engine (.ofNat 8 v.exe)) [] r (l.enqCtx v.task).wa = (m, st)) :
    enqRwr v 0 0 l = .ok ((m.setWa v.task (.ofNat 32 (fullStatus r st))).setBa v.task (decide (st = 0)), 30) := by
  simp only [enqRwr, noOperand, and_self, if_true, hr, hwrite, bind, Except.bind, pure, Except.pure]

theorem enqDlst_hands {k : Nat} (ha : v.varOperand l 4 a = .ok a) (hk : (l.varWord v.exe a).toNat = k) (h1 : 1 ≤ k) (hmax : k ≤ 16383)
    (hv : 4 * (a + k) < (l.exe v.exe).decl.vsize) :
    enqDlst v 4 a l = .ok ((l.setExe v.exe { l.exe v.exe with dlist := some (a, k) }).setBa v.task true, 40 + (k + 15) / 16) := by
  have hlen : ¬(k = 0 ∨ 16383 < k ∨ (l.exe v.exe).decl.vsize ≤ 4 * (a + k)) := by omega
  simp only [enqDlst, ha, hk, hlen, if_false, bind, Except.bind, pure, Except.pure]

end

/-- Settles O58: each instruction takes its operands, and its meaning is the operation named. -/
theorem enqQueuesRegistersAndTime : Obligations.EnqQueuesRegistersAndTime := by
  intro s x e n h l q
  have hq : BitVec.ofNat 32 q = (s.ctxOf x n).xr := by rw [BitVec.ofNat_toNat, BitVec.setWidth_eq]
  refine ⟨fun a ha h8 h56 => ⟨fun hend => ⟨fun m htake => ?qgetEmpty, fun d last m htake => ?qgetWord⟩, fun hend m ok hput => ?qput⟩,
    fun h8 h56 hend => ?qend, fun sel w hw => ?time, fun hlo hhi h4 => ⟨fun w st m hread => ?rrd, fun m st hwrite => ?rwr⟩,
    fun a k hk h1 hmax hv => ?dlst⟩
  case qgetEmpty => exact enqGives_of_sem h rfl rfl (enqQget_empty (pairOperand_v l _ ha) (queueArg_pool h true h8 h56 hend) htake)
  case qgetWord => exact enqGives_of_sem h rfl rfl (enqQget_word (pairOperand_v l _ ha) (queueArg_pool h true h8 h56 hend) htake)
  case qput => exact enqGives_of_sem h rfl rfl (enqQput_word (pairOperand_v l _ ha) (queueArg_pool h false h8 h56 hend) hput)
  case qend => exact enqGives_of_sem h rfl rfl (enqQend_closes (queueArg_pool h false h8 h56 hend))
  case time => exact enqGives_of_sem h rfl rfl (enqTime_word hw)
  case rrd =>
    rw [hq] at hread
    exact enqGives_of_sem h rfl rfl (enqRrd_reads (regArg_register h hlo hhi h4) hread)
  case rwr =>
    rw [hq] at hwrite
    have hwa : ((s.pcOn x n).enqCtx n).wa = (s.ctxOf x n).wa := by rw [pcOn_ctx h]
    have hstatus : fullStatus (s.ctxOf x n).xr st = if st = 0 then q % 2 ^ 20 / 0x1000 * 256 else st := by
      rw [fullStatus, addrKey_page hlo hhi]
    rw [← hwa] at hwrite
    rw [← hstatus]
    exact enqGives_of_sem h rfl rfl (enqRwr_writes (regArg_register h hlo hhi h4) hwrite)
  case dlst => exact enqGives_of_sem h rfl rfl (enqDlst_hands (varOperand_v l _ (by omega)) hk h1 hmax hv)

end Sys2Proof.Machine
end

section
/-! Supply inputs, converters and hold-up (O26). -/

namespace Sys2Proof.Machine

/-- A row that sets the power state gives what it makes of it, and nothing else. -/
theorem exec_setPwr {c : Instr} {s : State} {f : Power → Power} {p : Power} (hc : exec c s = .next (s.setPwr f)) (hf : f s.pwr = p) :
    exec c s = .next { s with pwr := p } := by
  subst hf
  exact hc

/-! ### Inputs and converters (03_power_clocks_start.md R60, R61, R63, R512) -/

theorem takeOver_eq (p : Power) : p.takeOver = { p with boost := p.boost || (!p.in1.good && !p.in2.good && !p.off) } := by
  rw [Power.takeOver, Power.anyGood, Bool.not_or]

theorem inputGood_sound (p : Power) (x : InputId) (h : (p.input x).fault = false) :
    p.inputGood x = { p.modInput x fun i => { i with good := true } with boost := false, pfail := false } :=
  if_neg (by simp [h])

section
variable (i : SupplyInput) (now : Nat)

theorem retry_passes (hf : i.fault = true) (hl : i.latched = false) : i.retry now true = { i with fault := false } := by
  rw [SupplyInput.retry, if_neg (by simp [hf, hl]), if_pos rfl]

theorem retry_fails (hf : i.fault = true) (hl : i.latched = false) :
    i.retry now false =
      { i with
        failed := now :: i.failed.filter fun t => decide (now < t + 3600000)
        latched := decide (3 ≤ (now :: i.failed.filter fun t => decide (now < t + 3600000)).length) } := by
  rw [SupplyInput.retry, if_neg (by simp [hf, hl]), if_neg Bool.false_ne_true]

end

/-- Settles O26: each row is one change of the power state, on its input or on a bit of the hold-up. -/
theorem supplyInputsAndHoldUp : Obligations.SupplyInputsAndHoldUp := by
  intro s inp i fed put
  have hmod (f : SupplyInput → SupplyInput) : s.pwr.modInput inp f = put (f i) := by cases inp <;> rfl
  refine ⟨exec_setPwr rfl ?_, fun hf => exec_setPwr rfl ?_, exec_setPwr rfl ?_,
    fun hf hl => ⟨exec_setPwr rfl ?_, exec_setPwr rfl ?_⟩, fun hl => exec_setPwr rfl ?_,
    fun hoff => exec_setPwr rfl ?_, fun hb => exec_setPwr rfl (if_pos hb), fun hoff => exec_setPwr rfl ?_, exec_setPwr rfl rfl⟩
  · rw [Power.inputLost, hmod, takeOver_eq]
  · rw [inputGood_sound s.pwr inp hf, hmod]
  · rw [Power.converterFault, hmod, takeOver_eq]
  · rw [Power.converterRetry, hmod, retry_passes i _ hf hl]
  · rw [Power.converterRetry, hmod, retry_fails i _ hf hl]
  · rw [Power.converterUnlatch, hmod, if_pos hl]
  · exact if_neg (by simp [hoff])
  · exact if_neg (by simp [hoff])

end Sys2Proof.Machine
end

section
/-! Restarts, restart policy and quench image as written by a session (O12). -/

namespace Sys2Proof.Machine

/-! ### The operations of these registers (03_power_clocks_start.md R84, R85, 05_touchstone.md R138) -/

section
variable (l : Lane) (h : Hub) (w : Word)

/-- RST.KIND asks for a restart where none is asked for and the module is not in reduced mode. -/
theorem writeOp_rstKind (hk : bits w 1 0 ≠ 0) (hn : l.restart = none) (hr : l.reduced = false) :
    l.writeOp h true [] 0x05 0x040 w =
      some ({ l.store 0x05 0x040 w with
        restart := some { cold := bits w 1 0 == 2, trig := if bits w 1 0 == 2 then 4 else 3, reason := 0 } }, 0) := by
  have hs : (l.store 0x05 0x040 w).restart = none := by rw [Lane.store_eq, hn]
  simp [Lane.writeOp, Lane.writeSystem, Lane.askRestart, hk, hn, hr, hs]

theorem writeOp_rstpol : l.writeOp h true [] 0x00 0x060 w = some ((l.store 0x00 0x060 w).placePolicy, 0) := by
  simp [Lane.writeOp, Lane.writeSystem]

theorem writeOp_doq : l.writeOp h true [] 0x24 0x048 w = some ((l.store 0x24 0x048 w).placePio, 0) := by
  simp [Lane.writeOp, Lane.writeSystem]

theorem writeOp_aoq (off : Nat) (hlo : 0x05C ≤ off) (hhi : off < 0x06C) :
    l.writeOp h true [] 0x24 off w = some ((l.store 0x24 off w).placePio, 0) := by
  simp [Lane.writeOp, Lane.writeSystem, hlo, hhi]

end

/-! ### The rows -/

/-- The registers of the analog quench values are assigned and take writes. -/
theorem aoq_writable : ∀ i < 4, 0x24000 + (0x05C + 4 * i) < 0x100000 ∧ addrStatus (.ofNat 32 (0x40000000 + (0x24000 + (0x05C + 4 * i)))) = 0 ∧
    (0x24000 + (0x05C + 4 * i)) / 0x1000 = 0x24 ∧ (0x24000 + (0x05C + 4 * i)) % 0x1000 = 0x05C + 4 * i ∧
    ((fieldsAt 0x24 (0x05C + 4 * i)).any fun f => f.acc.writable) = true := by decide

/-- A row that writes a word as it is given. -/
theorem writeRow_givesWord (c : Origin → Instr) (key : Nat) (w : Word) (s : State) (x : LaneId) (f : Lane → Lane)
    (hc : ∀ o, exec (c o) s = .next (writeRow o key w.toNat s)) (hk : key < 0x100000)
    (ha : addrStatus (.ofNat 32 (0x40000000 + key)) = 0) (h40 : 0x040 ≤ key % 0x1000)
    (hw : ((fieldsAt (key / 0x1000) (key % 0x1000)).any fun f => f.acc.writable) = true)
    (hop : ((s.lane x).closeLock (key / 0x1000)).writeOp s.hub true [] (key / 0x1000) (key % 0x1000) w =
      some (f ((s.lane x).closeLock (key / 0x1000)), 0)) : WriteGives c key (fun _ => w) s x f := by
  have hv : BitVec.ofNat 32 w.toNat = w := BitVec.eq_of_toNat_eq (by simp)
  have hg := writeRow_gives c key w.toNat s x f hc hk ha h40 hw (by rwa [hv])
  rwa [hv] at hg

/-- QUENCH_IMAGE_WRITE of an analog output writes its half of its register. -/
theorem quenchImageWrite_analog (o : Origin) (n : Nat) (v : Word) (s : State) (h1 : 1 ≤ n) (h8 : n ≤ 8) :
    exec (.quenchImageWrite o n v) s = .next (writeRowOf o (0x24000 + (0x05C + 4 * ((n - 1) / 2)))
      (fun l => l.withHalf (0x24000 + (0x05C + 4 * ((n - 1) / 2))) (decide (n % 2 = 0)) v.toNat) s) := by
  have hkey : 0x2405C + 4 * ((n - 1) / 2) = 0x24000 + (0x05C + 4 * ((n - 1) / 2)) := by omega
  refine congrArg Host.Outcome.next ?_
  rw [if_neg (by omega), if_pos h8]
  dsimp only
  rw [hkey]

/-- Settles O12: each register's operation, by its row. -/
theorem restartAndQuenchWrites : Obligations.RestartAndQuenchWrites := by
  intro s x
  refine ⟨fun hn hr => ⟨?_, ?_⟩, fun v => ?_, fun v => ?_, fun n v h1 h8 => ?_⟩
  · exact writeRow_gives _ 0x05040 1 s x _ (fun _ => rfl) (by decide) (by decide) (by decide) (by decide)
      (writeOp_rstKind ((s.lane x).closeLock 0x05) s.hub 1 (by decide) hn hr)
  · exact writeRow_gives _ 0x05040 2 s x _ (fun _ => rfl) (by decide) (by decide) (by decide) (by decide)
      (writeOp_rstKind ((s.lane x).closeLock 0x05) s.hub 2 (by decide) hn hr)
  · exact writeRow_givesWord _ 0x00060 v s x _ (fun _ => rfl) (by decide) (by decide) (by decide) (by decide)
      (writeOp_rstpol ((s.lane x).closeLock 0x00) s.hub v)
  · exact writeRow_givesWord _ 0x24048 v s x _ (fun _ => rfl) (by decide) (by decide) (by decide) (by decide)
      (writeOp_doq ((s.lane x).closeLock 0x24) s.hub v)
  · have hi : (n - 1) / 2 < 4 := by omega
    obtain ⟨hk, ha, hpage, hoff, hw⟩ := aoq_writable ((n - 1) / 2) hi
    have hval (l : Lane) : l.withHalf (0x24000 + (0x05C + 4 * ((n - 1) / 2))) (decide (n % 2 = 0)) v.toNat =
        if n % 2 = 0 then withBits (l.reg (0x24000 + (0x05C + 4 * ((n - 1) / 2)))) 31 16 v.toNat
        else withBits (l.reg (0x24000 + (0x05C + 4 * ((n - 1) / 2)))) 15 0 v.toNat := by simp [Lane.withHalf]
    have hc (o : Origin) := quenchImageWrite_analog o n v s h1 h8
    simp only [hval] at hc
    refine writeRowOf_gives _ _ _ s x _ hc hk ha (by omega) (by rwa [hpage, hoff]) ?_
    rw [hpage, hoff]
    exact writeOp_aoq ((s.lane x).closeLock 0x24) s.hub _ _ (by omega) (by omega)

end Sys2Proof.Machine
end

section
/-! Domain faults, re-power and clock failures (O27). -/

namespace Sys2Proof.Machine

/-! ### Domains on and off (03_power_clocks_start.md Table PWR-1) -/

theorem setDom_on_isOn (p : Power) (n m : Nat) : (p.setDom n true).isOn m = (p.isOn m || (decide (m < 10) && decide (m = n))) := by
  simp only [Power.setDom, Power.isOn, if_true, BitVec.getLsbD_or, BitVec.getLsbD_shiftLeft, BitVec.getLsbD_one]
  congr 1
  grind

theorem setDom_on_self (p : Power) {n : Nat} (h : n < 10) : (p.setDom n true).isOn n = true := by
  simp [setDom_on_isOn, h]

theorem setDom_on_fault (p : Power) (n : Nat) : (p.setDom n true).fault.getLsbD n = false := by
  simp [Power.setDom]

/-- A lane that is off has neither its domain nor Crucible's. -/
theorem laneOff_domains (s : State) (x : LaneId) :
    (s.laneOff x).pwr.isOn (laneDom x) = false ∧ (s.laneOff x).pwr.isOn (craDom x) = false := by
  cases x <;> simp [State.laneOff, Power.setDom, Power.isOn, laneDom, craDom]

theorem laneOff_lane (s : State) (x : LaneId) : (s.laneOff x).lane x = (s.lane x).fresh := by cases x <;> rfl

theorem laneOff_other (s : State) (x : LaneId) : (s.laneOff x).lane x.other = s.lane x.other := by cases x <;> rfl

/-- The domain of a lane. -/
def laneDomain (x : LaneId) : Domain := if x = .a then .la else .lb

theorem domBit_laneDomain (x : LaneId) : domBit (laneDomain x) = laneDom x := by cases x <;> rfl

/-- What is off stays off where the supervisor switches a domain off. -/
theorem domOff_isOff (s : State) (d : Domain) (n : Nat) (h : s.pwr.isOn n = false) : (s.domOff d).pwr.isOn n = false := by
  unfold Power.isOn at h ⊢
  rw [State.domOff, State.setPwr_pwr]
  dsimp only
  split <;> simp [h]

theorem domOff_marks (s : State) (d : Domain) : (s.domOff d).pwr.fault.getLsbD (domBit d) = true := by
  cases d <;> simp [State.domOff, domBit]

/-! ### DOMAIN_FAULT (R68) -/

section
variable {s : State} (hoff : s.pwr.off = false)
include hoff

theorem domainFault_array {d : Domain} (hon : s.pwr.isOn (domBit d) = true) (hd : d = .cra ∨ d = .crb ∨ d = .met) :
    s.domainFault d = s.domOff d := by
  refine (if_neg (by simp [hoff, hon])).trans ?_
  rcases hd with rfl | rfl | rfl <;> rfl

theorem domainFault_lane {x : LaneId} (hon : s.pwr.isOn (laneDom x) = true) :
    s.domainFault (laneDomain x) = (s.laneDomFault x).domOff (laneDomain x) := by
  refine (if_neg (by simp [hoff, domBit_laneDomain, hon])).trans ?_
  cases x <;> rfl

theorem domainFault_nv (hon : s.pwr.isOn 8 = true) : s.domainFault .nv = (s.domOff .nv).tearStore :=
  if_neg (by simp [hoff, domBit, hon])

theorem domainFault_bkp (hon : s.pwr.isOn 0 = true) : s.domainFault .bkp = { s.domOff .bkp with cal := { s.cal with osf := true } } :=
  if_neg (by simp [hoff, domBit, hon])

end

/-- A lane whose domain fails loses its state and both its domains; the rest of the block but power and Touchstone stays. -/
theorem laneFault_leaves (s : State) (x : LaneId) :
    let t := (s.laneDomFault x).domOff (laneDomain x)
    t.lane x = (s.lane x).fresh ∧ t.lane x.other = s.lane x.other ∧ t.pwr.isOn (laneDom x) = false ∧ t.pwr.isOn (craDom x) = false ∧
      t.pwr.fault.getLsbD (laneDom x) = true ∧ t.hub = s.hub ∧ t.nv = s.nv ∧ t.cal = s.cal := by
  obtain ⟨hdom, hcra⟩ := laneOff_domains s x
  refine ⟨laneOff_lane s x, laneOff_other s x, domOff_isOff _ _ _ hdom, domOff_isOff _ _ _ hcra, ?_, ?_, laneDomFault_nv s x, ?_⟩
  · rw [← domBit_laneDomain]
    exact domOff_marks _ _
  · exact State.setLane_hub s x _
  · exact State.setLane_cal s x _

/-! ### The store loses its supply (14_nv_store.md R324, assumption log 138) -/

theorem tearStore_idle (s : State) (h : s.hub.applied = false ∨ s.nv.seq = []) : s.tearStore = s :=
  if_neg (by rcases h with h | h <;> simp [h])

theorem tearStore_tears (s : State) (ha : s.hub.applied = true) (hs : s.nv.seq ≠ []) :
    ∃ n k, k ≤ s.nv.seq.length * pageSteps ∧ s.tearStore = { s with nv := s.nv.tear k, free := n } :=
  ⟨_, _, Nat.lt_succ_iff.1 (Nat.mod_lt _ (Nat.succ_pos _)), if_pos (by simp [ha, hs])⟩

/-! ### DOMAIN_REPOWER (R68, 14_nv_store.md R336) -/

section
variable {s : State} (hoff : s.pwr.off = false)
include hoff

theorem domainRepower_met (hon : s.pwr.isOn 6 = false) (hf : s.pwr.fault.getLsbD 6 = true)
    (h3 : (s.pwr.metRepower.filter fun n => decide (s.hub.upFrames < n + 3600000)).length < 3) :
    s.domainRepower .met = s.setPwr fun p => { p.setDom 6 true with
      metRepower := s.hub.upFrames :: s.pwr.metRepower.filter fun n => decide (s.hub.upFrames < n + 3600000) } := by
  rw [State.domainRepower, if_neg (by simp [hoff, domBit, hon, hf])]
  exact if_neg (by omega)

theorem domainRepower_nv_on (hon : s.pwr.isOn 8 = false) (hf : s.pwr.fault.getLsbD 8 = true) :
    s.domainRepower .nv = if s.nvUnavail then s else s.setPwr fun p => p.setDom 8 true := by
  rw [State.domainRepower, if_neg (by simp [hoff, domBit, hon, hf])]
  rfl

/-! ### CLOCK_FAILURE (R70) -/

/-- A monitored clock that has not failed yet is marked, and has its effect. -/
theorem clockFailure_marks {n : Nat} (hn : n ≤ 18) (hm : s.clkMon n = true) (hf : s.pwr.clkFail.getLsbD n = false) :
    s.clockFailure n = (s.setPwr fun p => { p with clkFail := p.clkFail ||| (1#19 <<< n) }).clkAction n := by
  rw [State.clockFailure, if_neg (by simp [hoff]), if_neg (by omega), if_neg (by simp [hm, hf]; omega)]

theorem clockFailure_again {n : Nat} (hn : n < 19) (hf : s.pwr.clkFail.getLsbD n = true) : s.clockFailure n = s := by
  rw [State.clockFailure, if_neg (by simp [hoff]), if_neg (by omega), if_pos (by simp [hf])]

end

/-- The failure of a clock that no domain or link hangs on is only marked. -/
theorem clkAction_none (s : State) {n : Nat} (hn : n ∈ [2, 3, 6, 7, 9, 15]) : s.clkAction n = s := by
  simp only [List.mem_cons, List.not_mem_nil, or_false] at hn
  rcases hn with rfl | rfl | rfl | rfl | rfl | rfl <;> rfl

/-- Settles O27: each fault, re-power and failure in the one form it has for its domain or clock. -/
theorem domainsAndClocksFail : Obligations.DomainsAndClocksFail := by
  intro s hoff
  refine ⟨fun d hon hd => ?_, fun x hon => ?_, fun hon => ⟨fun hidle => ?_, fun ha hs => ?_⟩, fun hon => ?_,
    fun hon hf h3 => ?_, fun hon hf => ⟨fun hu => ?_, fun hu => ?_⟩, fun n hn hm hf => ?_, fun n hn hf => ?_⟩
  · refine (congrArg Host.Outcome.next (domainFault_array hoff hon hd)).trans (congrArg Host.Outcome.next ?_)
    rcases hd with rfl | rfl | rfl <;> rfl
  · exact ⟨_, congrArg Host.Outcome.next (domainFault_lane hoff hon), laneFault_leaves s x⟩
  · exact congrArg Host.Outcome.next ((domainFault_nv hoff hon).trans (tearStore_idle (s.domOff .nv) hidle))
  · obtain ⟨n, k, hk, ht⟩ := tearStore_tears (s.domOff .nv) ha hs
    exact ⟨n, k, hk, congrArg Host.Outcome.next ((domainFault_nv hoff hon).trans ht)⟩
  · exact ⟨_, congrArg Host.Outcome.next (domainFault_bkp hoff hon), rfl, hon⟩
  · exact ⟨_, congrArg Host.Outcome.next (domainRepower_met hoff hon hf h3), rfl, setDom_on_self s.pwr (by decide), setDom_on_fault s.pwr 6⟩
  · exact ⟨_, congrArg Host.Outcome.next ((domainRepower_nv_on hoff hon hf).trans (if_neg (by simp [hu]))), rfl, setDom_on_self s.pwr (by decide)⟩
  · exact congrArg Host.Outcome.next ((domainRepower_nv_on hoff hon hf).trans (if_pos hu))
  · have h18 : n ≤ 18 := by
      simp only [List.mem_cons, List.not_mem_nil, or_false] at hn
      omega
    exact congrArg Host.Outcome.next ((clockFailure_marks hoff h18 hm hf).trans (clkAction_none _ hn))
  · exact congrArg Host.Outcome.next (clockFailure_again hoff hn hf)

end Sys2Proof.Machine
end

section
/-! Power return and the backup domain (O28). -/

namespace Sys2Proof.Machine

/-! ### The calendar's backup domain (16_time.md R358, R361) -/

theorem cancelHalt_eq (c : Calendar) : c.cancelHalt = { c with halt := none, setabt := c.setabt || c.halt.isSome } := by
  obtain ⟨_, _, _, _, _, halt, _, _, _, _, _⟩ := c
  cases halt with
  | none => simp [Calendar.cancelHalt]
  | some n => simp [Calendar.cancelHalt]

theorem toCell_eq (c : Calendar) :
    c.toCell = { c with halt := none, setabt := c.setabt || c.halt.isSome, locked := true, onCell := true } := by
  rw [Calendar.toCell, cancelHalt_eq]

/-- With the module off or an input good, the change to the coin cell is one of the calendar alone (assumption log 42). -/
theorem switchToCell_supplied (s : State) (h : s.pwr.off = true ∨ s.pwr.in1.good = true ∨ s.pwr.in2.good = true) :
    s.switchToCell = { s with cal := s.cal.toCell } :=
  if_pos (by simpa [Power.anyGood] using h)

/-! ### Power return (03_power_clocks_start.md R79, assumption log 35) -/

/-- The cycles of 32 768 Hz that the calendar is found to have run. -/
def State.away (s : State) : Nat := (Config.freeWord s.free).toNat * 32768 + (Config.freeWord (s.free + 1)).toNat % 32768

theorem powerReturn_off (s : State) (h : s.pwr.off = true) : s.powerReturn =
    { s with
      pwr := s.pwr.returned
      laneA := s.laneA.fresh, laneB := s.laneB.fresh
      hub := { di := s.hub.di, ports := { links := s.hub.ports.links } }
      ts := {}
      startup := some { phase := 1 }
      cal := s.cal.run s.away
      free := s.free + 2 } :=
  if_neg (by simp [h])

theorem powerReturn_on (s : State) (h : s.pwr.off = false) : s.powerReturn = s := if_pos (by simp [h])

/-- Settles O28: a power return rebuilds the block but for its stores, and each other row is one change of the calendar. -/
theorem powerReturnAndBackup : Obligations.PowerReturnAndBackup := by
  intro s low
  refine ⟨fun hoff => ?_, fun hoff => congrArg Host.Outcome.next (powerReturn_on s hoff), fun h => ?_,
    fun hoff => congrArg Host.Outcome.next (if_neg (by simp [hoff])), fun hc => congrArg Host.Outcome.next (if_neg (by simp [hc])),
    rfl, rfl, fun n hn => ?_⟩
  · exact ⟨_, congrArg Host.Outcome.next (powerReturn_off s hoff), rfl, rfl, rfl, rfl, rfl, rfl, rfl, rfl, ⟨s.away, rfl⟩, rfl⟩
  · refine congrArg Host.Outcome.next ?_
    rw [switchToCell_supplied s h, toCell_eq]
  · refine congrArg Host.Outcome.next ?_
    rw [State.setCal, Calendar.cancelHalt, if_pos (by simp [hn])]

end Sys2Proof.Machine
end

section
/-! The phases of a start-up, the start frame and the ready timeout (O38). -/

namespace Sys2Proof.Machine

/-- Domains that are switched on together. -/
theorem setDoms_on_isOn (ns : List Nat) (p : Power) (m : Nat) :
    (p.setDoms ns true).isOn m = (p.isOn m || (decide (m < 10) && decide (m ∈ ns))) := by
  induction ns generalizing p with
  | nil => simp [Power.setDoms]
  | cons n ns ih =>
    have hc : p.setDoms (n :: ns) true = (p.setDom n true).setDoms ns true := rfl
    rw [hc, ih, setDom_on_isOn]
    simp only [List.mem_cons]
    grind

/-! ### The phases of the module (03_power_clocks_start.md R79) -/

section
variable {s : State} {u : Startup} (tsOk : Bool) (a b : LaneStart) (hu : s.startup = some u) (hs : u.stopped = false)
include hu hs

theorem phaseEnd_one (hp : u.phase = 1) (hr : s.hub.running = true) : s.phaseEnd none tsOk a b =
    { s with
      pwr := s.pwr.setDoms (if u.trig = 7 then [7] else [0, 6, 7, 8]) true
      hub := { s.hub with lamp := some (s.hub.upFrames + 500) }
      startup := some { u with phase := 2 } } := by
  rw [State.phaseEnd, hu]
  dsimp only
  rw [State.modulePhase, if_neg (by simp [hs]), if_neg (by simp [hr]), if_pos hp]
  dsimp only
  rw [if_pos hr, State.nextPhase, State.setHub_startup, State.setPwr_startup, hu]
  rfl

theorem phaseEnd_two_fails (hp : u.phase = 2) :
    s.phaseEnd none false a b = { s with startup := some { u with stopped := true } } := by
  rw [State.phaseEnd, hu]
  dsimp only
  rw [State.modulePhase, if_neg (by simp [hs]), if_neg (by simp [hp]), if_neg (by simp [hp]), if_pos hp]
  rfl

/-- After Touchstone's internal test both lanes are powered, and begin phase 3. -/
theorem phaseEnd_two (hp : u.phase = 2) : s.phaseEnd none true a b =
    { s with
      pwr := ((if u.trig = 7 then s.pwr else s.pwr.setDom 1 true).setDom 2 true).setDom 3 true
      ts := { s.ts.restarted with pathDone := none }
      laneA := { s.laneA with phase := 3 }, laneB := { s.laneB with phase := 3 }
      startup := some { u with phase := 3 } } := by
  rw [State.phaseEnd, hu]
  dsimp only
  rw [State.modulePhase, if_neg (by simp [hs]), if_neg (by simp [hp]), if_neg (by simp [hp]), if_pos hp]
  dsimp only
  rw [if_neg (by simp)]
  split <;> simp [State.nextPhase, State.laneOn, State.setPwr, State.setTs, State.setLane, State.lane, laneDom, hu]

theorem phaseEnd_three (hp : u.phase = 3) : s.phaseEnd none tsOk a b = (s.bothPhases 3 a b).nextPhase 4 := by
  rw [State.phaseEnd, hu]
  dsimp only
  rw [State.modulePhase, if_neg (by simp [hs]), if_neg (by simp [hp]), if_neg (by simp [hp]), if_neg (by simp [hp]), if_pos hp]

end

/-! ### Phase 3 on a lane (17_security.md R395) -/

theorem lanePhase_boots (s : State) (x : LaneId) (e : LaneStart) (h : (s.lane x).phase = 3) :
    s.lanePhase x e = s.setLane x ((s.lane x).boot s.nv e.boot.toNat) := by
  rw [State.lanePhase]
  exact if_pos h

theorem get_withPhase (l : Lane) (n : Nat) (f : Fld) : ({ l with phase := n } : Lane).get f = l.get f := rfl

/-- A fault that the boot ROM finds is shown in BOOTERR, and the lane goes no further. -/
theorem boot_fault (l : Lane) (nv : NvStore) (seen : Nat) (h : seen ≠ 0) (hlt : seen < 2 ^ R.LCS.BOOTERR.width) :
    (l.boot nv seen).phase = 0 ∧ (l.boot nv seen).get R.LCS.BOOTERR = seen := by
  have hb : l.boot nv seen = { (l.readIrk nv).put R.LCS.BOOTERR seen with phase := 0 } := by simp [Lane.boot, h]
  have hget : ((l.readIrk nv).put R.LCS.BOOTERR seen).get R.LCS.BOOTERR = seen :=
    (Lane.get_put _ _ _ (by decide) (by decide)).trans (Nat.mod_eq_of_lt hlt)
  rw [hb]
  exact ⟨rfl, (get_withPhase _ 0 _).trans hget⟩

/-- In phase 3 each lane boots by itself. -/
theorem bothPhases_three (s : State) (a b : LaneStart) (h : s.laneA.phase = 3) :
    (s.bothPhases 3 a b).laneA = s.laneA.boot s.nv a.boot.toNat ∧ (s.bothPhases 3 a b).startup = s.startup := by
  have hA : s.lanePhase .a a = { s with laneA := s.laneA.boot s.nv a.boot.toNat } := lanePhase_boots s .a a h
  rw [State.bothPhases, if_pos h, hA]
  dsimp only
  split
  · rename_i hB
    rw [lanePhase_boots { s with laneA := s.laneA.boot s.nv a.boot.toNat } .b b hB]
    exact ⟨rfl, rfl⟩
  · exact ⟨rfl, rfl⟩

/-! ### The start frame and the wait for a lane (R80, R81) -/

theorem agreeKind_hub (s : State) : s.agreeKind.hub = s.hub := by
  unfold State.agreeKind
  dsimp only
  split <;> rfl

theorem agreeKind_pwr (s : State) : s.agreeKind.pwr = s.pwr := by
  unfold State.agreeKind
  dsimp only
  split <;> rfl

theorem agreeKind_ts (s : State) : s.agreeKind.ts = s.ts := by
  unfold State.agreeKind
  dsimp only
  split <;> rfl

theorem startFrame_ts (s : State) : s.startFrame.ts = s.ts := by
  unfold State.startFrame
  dsimp only
  repeat' split
  · rfl
  · rfl
  · rfl
  · rfl
  · exact agreeKind_ts s

theorem nameK0_both (u : Startup) (late : Option Nat) (i j : Nat) (ha : u.readyA = some i) (hb : u.readyB = some j) :
    u.nameK0 late = some (max i j + 3) := by
  rw [Startup.nameK0, ha, hb]

/-- k0 is named once both lanes are ready and one of them can start. -/
theorem startFrame_both (s : State) (u : Startup) (i j : Nat) (hu : s.startup = some u) (hs : u.stopped = false)
    (hl : s.ts.lost = false) (hk : u.k0 = none) (hp : u.phase = 6) (ha : u.readyA = some i) (hb : u.readyB = some j)
    (hst : s.starters ≠ []) :
    s.startFrame = { s.agreeKind with startup := some { u with k0 := some (max (max i j + 3) (s.hub.fno + 1)) } } := by
  rw [State.startFrame, hu]
  dsimp only
  rw [if_neg (by simp [hs, hk, hp, hl]), nameK0_both u _ i j ha hb]
  exact if_neg (by simpa using hst)

section
variable (s : State) (u : Startup) (i : Nat) (hu : s.startup = some u) (ha : u.readyA = some i) (hb : u.readyB = none)
  (hf : u.failB = none)
include hu ha hb hf

theorem readyTimeout_over (hi : i + 10000 ≤ s.hub.fno) : s.readyTimeout = (s.setTs fun t => t.setGiveUp .b true).startFrame := by
  rw [State.readyTimeout, hu]
  dsimp only
  rw [ha, hb]
  exact if_pos ⟨by simp [hf], hi⟩

omit hf in
theorem readyTimeout_waits (hi : s.hub.fno < i + 10000) : s.readyTimeout = s := by
  rw [State.readyTimeout, hu]
  dsimp only
  rw [ha, hb]
  exact if_neg (by omega)

end

/-- Settles O38: the end of each phase as one state, and k0 and the wait by the frames in which the lanes became ready. -/
theorem startUpRuns : Obligations.StartUpRuns := by
  intro s u tsOk a b
  refine ⟨fun hu hs => ⟨fun hp hr => ?_, fun hp hok => ?_, fun hp hok => ?_, fun hp hA hboot hlt => ?_⟩,
    fun i j hu hs hl hk hp ha hb hst => ?_, fun i hu ha hb hf => ⟨fun hi => ?_, fun hi => ?_⟩, rfl⟩
  · refine ⟨_, congrArg Host.Outcome.next (phaseEnd_one tsOk a b hu hs hp hr), rfl, ?_, fun h7 => ⟨?_, ?_, ?_⟩, fun h7 => ?_, rfl⟩
    · rw [setDoms_on_isOn]
      split <;> simp
    · simp [setDoms_on_isOn, h7]
    · simp [setDoms_on_isOn, h7]
    · simp [setDoms_on_isOn, h7]
    · rw [if_pos h7]
      rfl
  · subst hok
    exact congrArg Host.Outcome.next (phaseEnd_two_fails a b hu hs hp)
  · subst hok
    refine ⟨_, congrArg Host.Outcome.next (phaseEnd_two a b hu hs hp), rfl, fun h7 => ?_, ?_, ?_, rfl, rfl⟩
    · simp [setDom_on_isOn, h7]
    · simp [setDom_on_isOn]
    · exact setDom_on_self _ (by decide)
  · have hseen : a.boot.toNat ≠ 0 := fun h => hboot (BitVec.eq_of_toNat_eq h)
    obtain ⟨hlane, hstart⟩ := bothPhases_three s a b hA
    obtain ⟨hphase, herr⟩ := boot_fault s.laneA s.nv a.boot.toNat hseen hlt
    rw [← hlane] at hphase herr
    refine ⟨_, congrArg Host.Outcome.next (phaseEnd_three tsOk a b hu hs hp), ?_, hphase, herr⟩
    rw [State.nextPhase, hstart, hu]
    rfl
  · exact ⟨_, congrArg Host.Outcome.next (startFrame_both s u i j hu hs hl hk hp ha hb hst), rfl, agreeKind_hub s, agreeKind_pwr s⟩
  · refine ⟨_, congrArg Host.Outcome.next (readyTimeout_over s u i hu ha hb hf hi), ?_⟩
    rw [startFrame_ts]
    rfl
  · exact congrArg Host.Outcome.next (readyTimeout_waits s u i hu ha hb hi)

end Sys2Proof.Machine
end

section
/-! Rendering, vertical blank, refresh check and panel power (O44). -/

namespace Sys2Proof.Machine

theorem hubOnly_setHub (s : State) (h : Hub) : HubOnly s { s with hub := h } := rfl

@[simp] theorem dispIrq_hub (f : Fld) (s : State) : (dispIrq f s).hub = s.hub := rfl

/-! ### Rendering (22_display.md R483 to R485) -/

/-- The next list to be rendered touches nothing that is shown or counted. -/
theorem nextRender_eq (d : Display) : d.nextRender = { d with render := d.nextRender.render, newest := d.nextRender.newest } := by
  unfold Display.nextRender
  split <;> rfl

section
variable {s : State} {l : Lane} {x : LaneId} {ws : List Word} (hx : s.activeId = some x)
  (hr : s.hub.disp.render = some ws)
include hx hr

theorem renderComplete_list (hl : s.active = some l) {v : List DrawCmd} (hv : parseList ws.length 0 ws = .ok v) :
    renderComplete s = { s with hub := { s.hub with disp := { s.hub.disp with
      render := none, back := paintWords s.hub.disp.back ws
      ready := some (imageCrc l.dispCfg (paintWords s.hub.disp.back ws)), dlbad := false
      last := some (ws, s.hub.upFrames), cfg := l.dispCfg } } } := by
  rw [renderComplete, hx, hr, hl]
  dsimp only
  rw [hv]
  rfl

theorem renderComplete_rejects {o : Nat} (hv : parseList ws.length 0 ws = .error o) :
    renderComplete s = dispIrq R.DSP.I_DLBAD { s with hub := { s.hub with disp := ({ s.hub.disp with
      render := none, dlbad := true, dlerr := min o 65535, dlrej := satAdd 16 s.hub.disp.dlrej 1 } : Display).nextRender } } := by
  rw [renderComplete, hx, hr]
  dsimp only
  rw [hv]

end

/-! ### The vertical blank (R480, R482, R485) -/

/-- The swap: the finished image is shown, and the next list rendered. -/
def Display.swapped (d : Display) (c : Word) (now : Nat) : Display :=
  ({ d with front := d.back, back := d.front, frontCrc := some c, ready := none, swaps := satAdd 32 d.swaps 1
            swapAt := now, stale := false } : Display).nextRender

theorem verticalBlank_off (s : State) (h : s.hub.disp.on = false) : verticalBlank s = s := if_pos (by simp [h])

/-- Besides the swap, a blank commits the gamma tables, steps VCOM and counts the refresh. -/
theorem verticalBlank_swaps (s : State) (c : Word) (hon : s.hub.disp.on = true) (hr : s.hub.disp.ready = some c) :
    ∃ g k n v, verticalBlank s = { s with hub := { s.hub with disp :=
      { s.hub.disp.swapped c s.hub.upFrames with gamma := g, commit := k, refreshNo := n, vcom := v } } } := by
  rw [verticalBlank, hr]
  dsimp only
  rw [if_neg (by simp [hon]), ← Display.swapped]
  split
  · exact ⟨_, _, _, _, rfl⟩
  · exact ⟨_, _, _, _, rfl⟩

theorem swapped_shows (d : Display) (c : Word) (now : Nat) :
    (d.swapped c now).front = d.back ∧ (d.swapped c now).frontCrc = some c ∧ (d.swapped c now).ready = none ∧
      (d.swapped c now).swaps = satAdd 32 d.swaps 1 ∧ (d.swapped c now).stale = false := by
  rw [Display.swapped, nextRender_eq]
  exact ⟨rfl, rfl, rfl, rfl, rfl⟩

/-! ### The refresh check (R487, 03_power_clocks_start.md R70) -/

section
variable (s : State) (crc : Word)

theorem refreshCheck_dark (h : s.hub.disp.on = false ∨ s.pwr.clkFail.getLsbD 17 = true) : refreshCheck crc s = s :=
  if_pos (by simpa using h)

variable (hon : s.hub.disp.on = true) (hclk : s.pwr.clkFail.getLsbD 17 = false)
include hon hclk

theorem refreshCheck_right (hc : s.hub.disp.frontCrc = some crc) :
    refreshCheck crc s = { s with hub := { s.hub with disp := { s.hub.disp with
      lastCrc := crc, crcErrRun := 0, crcalm := false, blanked := false
      backlight := s.hub.disp.backlight || s.hub.disp.blanked } } } := by
  rw [refreshCheck]
  dsimp only
  rw [if_neg (by rw [hon, hclk]; decide), hc]
  exact if_pos rfl

/-- A wrong CRC is counted; the alarm rises with the run, whose interrupt is the lanes' own. -/
theorem refreshCheck_wrong {e : Word} (hc : s.hub.disp.frontCrc = some e) (hne : crc ≠ e) :
    (refreshCheck crc s).hub.disp.crcErrRun = s.hub.disp.crcErrRun + 1 ∧
    (refreshCheck crc s).hub.disp.crcErr = satAdd 32 s.hub.disp.crcErr 1 ∧
    (refreshCheck crc s).hub.disp.crcalm =
      (s.hub.disp.crcalm || decide (s.hub.disp.set.crcmax ≤ s.hub.disp.crcErrRun + 1)) := by
  rw [refreshCheck]
  dsimp only
  rw [if_neg (by rw [hon, hclk]; decide), hc]
  dsimp only
  rw [if_neg hne]
  split <;> exact ⟨rfl, rfl, rfl⟩

end

theorem displayStale_marks (s : State) (hon : s.hub.disp.on = true) (hs : s.hub.disp.stale = false)
    (ht : s.hub.disp.swapAt + s.hub.disp.set.stalems ≤ s.hub.upFrames) :
    displayStale s = dispIrq R.DSP.I_STALE { s with hub := { s.hub with disp := { s.hub.disp with stale := true } } } :=
  if_neg (by simp [hon, hs]; omega)

/-! ### Panel power and rail faults (R477 to R479) -/

theorem panelUp_wanted (s : State) (hw : panelWanted s = true) (hon : s.hub.disp.on = false) : panelUp s = panelOn s :=
  if_pos (by simp [hw, hon])

theorem panelDown_unwanted (s : State) (hw : panelWanted s = false) (hon : s.hub.disp.on = true) :
    panelDown s = panelOff (!s.pwr.dom.getLsbD 9) s :=
  if_pos (by simp [hw, hon])

/-- A power-up keeps what is known of the rails. -/
theorem panelUp_rails (s : State) :
    (panelUp s).hub.disp.rflt = s.hub.disp.rflt ∧ (panelUp s).hub.disp.tries = s.hub.disp.tries := by
  unfold panelUp
  split <;> exact ⟨rfl, rfl⟩

/-- The panel is off at once, the fault is marked, and the third attempt in an hour locks it out. -/
theorem railFault_marks (s : State) (rail : Nat) (hon : s.hub.disp.on = true) (hrail : rail ≤ 3) :
    (railFault rail s).hub.disp.on = false ∧ (railFault rail s).hub.disp.rflt = true ∧ (railFault rail s).hub.disp.rfrail = rail ∧
      (railFault rail s).hub.disp.lockout = decide (3 ≤ attempts s.hub.disp s.hub.upFrames) := by
  rw [railFault, if_neg (by simp [hon]; omega)]
  dsimp only
  split <;> exact ⟨rfl, rfl, rfl, rfl⟩

theorem railRetry_again (s : State) (hf : s.hub.disp.rflt = true) (hl : s.hub.disp.lockout = false)
    (ht : s.hub.disp.faultAt + 1000 ≤ s.hub.upFrames) (h3 : attempts s.hub.disp s.hub.upFrames < 3) :
    railRetry s = panelUp { s with hub := { s.hub with disp := { s.hub.disp with
      rflt := false, tries := s.hub.upFrames :: s.hub.disp.tries.take 3 } } } :=
  if_neg (by simp [hf, hl]; omega)

theorem railRetry_locked (s : State) (hl : s.hub.disp.lockout = true) : railRetry s = s := if_pos (by simp [hl])

/-! ### The backlight (R481) -/

theorem stringFault_lit (s : State) (n : Nat) (short : Bool) (hn : n ≤ 3) (hlit : s.hub.disp.lit s.hub.upFrames = true)
    (hen : s.hub.disp.set.blen.testBit n = true) (hnew : (s.hub.disp.blopen ||| s.hub.disp.blshort).getLsbD n = false) :
    stringFault n short s = dispIrq R.PNL.I_BLFLT { s with hub := { s.hub with disp :=
      if short then { s.hub.disp with blshort := s.hub.disp.blshort ||| 1#4 <<< n }
      else { s.hub.disp with blopen := s.hub.disp.blopen ||| 1#4 <<< n } } } :=
  if_neg (by simp [hlit, hen, hnew]; omega)

theorem string_marked (m : BitVec 4) (n : Nat) (hn : n ≤ 3) : (m ||| 1#4 <<< n).getLsbD n = true := by
  simp [show n < 4 by omega]

/-- Settles O44: each row in the one form it has under its condition, its fields read off. -/
theorem panelAndDisplay : Obligations.PanelAndDisplay := by
  intro s l x hl hx d
  refine ⟨fun ws v hr hv => congrArg Host.Outcome.next (renderComplete_list hx hr hl hv), fun ws o hr hv => ?_, fun c hon hr => ?_,
    fun hon => congrArg Host.Outcome.next (verticalBlank_off s hon), fun crc h => congrArg Host.Outcome.next (refreshCheck_dark s crc h),
    fun crc hon hc hclk => ?_, fun crc e hon hc hne hclk => ?_,
    fun hon hs ht => congrArg Host.Outcome.next (displayStale_marks s hon hs ht), fun hw hon => ?_, fun hw hon => ?_,
    fun rail hon hrail => ?_, fun hf hlo ht h3 => ?_, fun _ hlo => congrArg Host.Outcome.next (railRetry_locked s hlo),
    fun n hn hlit hen hnew => ⟨?_, ?_⟩⟩
  · refine ⟨_, congrArg Host.Outcome.next (renderComplete_rejects hx hr hv), ?_⟩
    rw [dispIrq_hub, nextRender_eq]
    exact ⟨rfl, rfl, rfl, rfl⟩
  · obtain ⟨g, k, n, v, hb⟩ := verticalBlank_swaps s c hon hr
    exact ⟨_, congrArg Host.Outcome.next hb, hubOnly_setHub s _, swapped_shows d c s.hub.upFrames⟩
  · exact ⟨_, congrArg Host.Outcome.next (refreshCheck_right s crc hon hclk hc), hubOnly_setHub s _, rfl, rfl, rfl, rfl⟩
  · obtain ⟨hrun, hcnt, halm⟩ := refreshCheck_wrong s crc hon hclk hc hne
    exact ⟨_, rfl, hrun, hcnt, fun h => halm.trans (by rw [decide_eq_true h, Bool.or_true])⟩
  · exact ⟨_, congrArg Host.Outcome.next (panelUp_wanted s hw hon), rfl, rfl, rfl⟩
  · exact ⟨_, congrArg Host.Outcome.next (panelDown_unwanted s hw hon), rfl, rfl, rfl⟩
  · exact ⟨_, rfl, railFault_marks s rail hon hrail⟩
  · obtain ⟨hrf, htries⟩ := panelUp_rails { s with hub := { s.hub with disp := { d with
      rflt := false, tries := s.hub.upFrames :: d.tries.take 3 } } }
    exact ⟨_, congrArg Host.Outcome.next (railRetry_again s hf hlo ht h3), hrf, htries⟩
  · exact ⟨_, congrArg Host.Outcome.next (stringFault_lit s n true hn hlit hen hnew), string_marked d.blshort n hn, rfl⟩
  · exact ⟨_, congrArg Host.Outcome.next (stringFault_lit s n false hn hlit hen hnew), string_marked d.blopen n hn, rfl⟩

end Sys2Proof.Machine
end

section
/-! The ends of a solve and of a dispatch, the epochs of a computation domain, and O39. -/

namespace Sys2Proof.Machine

/-! ### Computations (07_crucible_solver.md R179, 08_dispatch_optimiser.md R205) -/

section
variable (s : State) (x : LaneId) (us : Nat)

theorem exec_solveEnd_computes (h : s.computes x = true) :
    exec (.solveComputationEnd x us) s = .next (onLane x (fun l => l.solveEnd us) s) := congrArg Host.Outcome.next (if_pos h)

theorem exec_solveEnd_idle (h : s.computes x = false) : exec (.solveComputationEnd x us) s = .next s :=
  congrArg Host.Outcome.next (if_neg (by simp [h]))

theorem exec_dispatchEnd_computes (h : s.computes x = true) :
    exec (.dispatchComputationEnd x us) s = .next (onLane x (fun l => l.dispatchEnd us) s) := congrArg Host.Outcome.next (if_pos h)

theorem exec_dispatchEnd_idle (h : s.computes x = false) : exec (.dispatchComputationEnd x us) s = .next s :=
  congrArg Host.Outcome.next (if_neg (by simp [h]))

theorem onLane_eq_setLane (f : Lane → Lane) : onLane x f s = s.setLane x ((onLane x f s).lane x) := by rw [onLane_lane, onLane]

end

/-- A record carries the number, the frame and the start of its job. -/
theorem finishSolve_job (md : NetModel) (g : Nat → Word) (ps : Nat) (th : Thermal) (flows : List Word) (prev : Option SolveRec)
    (j : SolveJob) : (finishSolve md g ps th flows prev j).n = j.n ∧ (finishSolve md g ps th flows prev j).fno = j.fno ∧
      (finishSolve md g ps th flows prev j).cold = j.cold := by
  unfold finishSolve
  exact ⟨rfl, rfl, rfl⟩

section
variable (l : Lane) (us : Nat)

/-- The lane with a duration of `us` µs, saturated, in `dur`, and the longest one in `longest`. -/
def Lane.timed (dur longest : Fld) : Lane :=
  (l.put dur (min us (2 ^ 32 - 1))).put longest (max (min us (2 ^ 32 - 1)) (l.get longest))

@[simp] theorem Lane.timed_slv (f g : Fld) : (l.timed us f g).slv = l.slv := rfl
@[simp] theorem Lane.timed_opt (f g : Fld) : (l.timed us f g).opt = l.opt := rfl

@[simp] theorem Lane.setSlv_get (g : Solver → Solver) (f : Fld) : (l.setSlv g).get f = l.get f := rfl
@[simp] theorem Lane.setOpt_get (g : Optimiser → Optimiser) (f : Fld) : (l.setOpt g).get f = l.get f := rfl

theorem min_duration_lt : min us (2 ^ 32 - 1) < 2 ^ 32 := lt_of_le_of_lt (Nat.min_le_right _ _) (by decide)

theorem Lane.timed_dur {f g : Fld} (hf : f.lo = 0 ∧ f.hi = 31) (hg : g.lo = 0 ∧ g.hi = 31) (h : f.key ≠ g.key) :
    (l.timed us f g).get f = min us (2 ^ 32 - 1) := by
  obtain ⟨hfl, hfh⟩ := hf
  obtain ⟨hgl, hgh⟩ := hg
  rw [Lane.timed, Lane.get_put_ne _ _ _ _ (by omega) (by omega) (.inl h), Lane.get_put _ _ _ (by omega) (by omega), hfl, hfh]
  exact Nat.mod_eq_of_lt (min_duration_lt us)

theorem Lane.timed_longest {f g : Fld} (hg : g.lo = 0 ∧ g.hi = 31) :
    (l.timed us f g).get g = max (min us (2 ^ 32 - 1)) (l.get g) := by
  obtain ⟨hgl, hgh⟩ := hg
  have hlt : l.get g < 2 ^ 32 := by simpa [Lane.get, hgl, hgh] using bits_lt (l.reg g.key) g.hi g.lo
  rw [Lane.timed, Lane.get_put _ _ _ (by omega) (by omega), hgl, hgh]
  exact Nat.mod_eq_of_lt (max_lt (min_duration_lt us) hlt)

theorem solveEnd_computes {md : NetModel} {j : SolveJob} (hm : l.slv.model = some md) (hj : l.slv.job = some j)
    (hr : l.slv.ready = none) : ∃ r, l.solveEnd us = (l.timed us R.SOLD.DURUS R.SOLD.MAXDUR).setSlv (fun s => { s with ready := some r }) ∧
      r.n = j.n ∧ r.fno = j.fno ∧ r.cold = j.cold := by
  rw [Lane.solveEnd, hm, hj]
  dsimp only
  rw [if_neg (by simp [hr])]
  exact ⟨_, rfl, finishSolve_job _ _ _ _ _ _ _⟩

theorem solveEnd_done {md : NetModel} {j : SolveJob} (hm : l.slv.model = some md) (hj : l.slv.job = some j)
    (hr : l.slv.ready.isSome = true) : l.solveEnd us = l := by
  rw [Lane.solveEnd, hm, hj]
  exact if_pos hr

theorem dispatchEnd_computes {j : DispJob} (hj : l.opt.job = some j) (hr : l.opt.ready = none) : l.dispatchEnd us =
    (l.timed us R.OPTD.DURUS R.OPTD.MAXDUR).setOpt fun o => { o with ready := some (finishDispatch j) } := by
  rw [Lane.dispatchEnd, hj]
  exact if_neg (by simp [hr])

end

/-! ### Epochs: what placing a frame and counting leave, and the epoch of a number -/

@[simp] theorem Lane.fabSend_slv (l : Lane) (typ tc dst : Nat) (b : List Byte) : (l.fabSend typ tc dst b).slv = l.slv := rfl
@[simp] theorem Lane.fabSend_get (l : Lane) (typ tc dst : Nat) (b : List Byte) (f : Fld) : (l.fabSend typ tc dst b).get f = l.get f := rfl
@[simp] theorem Lane.setEpoch_get (l : Lane) (j : SolveJob) (f : Fld) : (l.setEpoch j).get f = l.get f := rfl

theorem Lane.inc_fno (l : Lane) (f : Fld) (n : Nat) (hlo : R.FRAME.FNO_L.key ≠ f.key) (hhi : R.FRAME.FNO_H.key ≠ f.key) :
    (l.inc f n).fno = l.fno := by
  rw [Lane.fno, Lane.get64, Lane.inc_get_ne l f _ n hlo, Lane.inc_get_ne l f _ n hhi, ← Lane.get64, ← Lane.fno]

/-- The epoch stored is the one its number names, whatever else of the lane has changed. -/
theorem setEpoch_epochOf {l m : Lane} (hm : m.slv = l.slv) {n : Nat} {j k : SolveJob} (hj : l.epochOf n = some j) (hk : k.n = j.n) :
    (m.setEpoch k).epochOf n = some k := by
  have hsame : ((fun e : SolveJob => e.n == n) ∘ fun e => if e.n = k.n then k else e) = fun e => e.n == n := by
    funext e
    by_cases h : e.n = k.n <;> simp [h]
  have hfind : l.slv.epochs.find? (fun e => e.n == n) = some j := hj
  rw [Lane.epochOf, Lane.setEpoch, Lane.setSlv_slv, hm, List.find?_map, hsame, hfind, Option.map_some, if_pos hk.symm]

theorem sendExchanges_keeps (l : Lane) (md : NetModel) (j : SolveJob) (stop : Bool) :
    (l.sendExchanges md j stop).1.slv = l.slv ∧ (l.sendExchanges md j stop).1.fno = l.fno ∧ (l.sendExchanges md j stop).2.n = j.n :=
  ⟨foldl_keeps (fun lj : Lane × SolveJob => lj.1.slv) md.neighbours (l, j) fun _ _ _ => rfl,
    foldl_keeps (fun lj : Lane × SolveJob => lj.1.fno) md.neighbours (l, j) fun _ _ _ => rfl,
    foldl_keeps (fun lj : Lane × SolveJob => lj.2.n) md.neighbours (l, j) fun _ _ _ => rfl⟩

/-- An ABSENT vote ends the epoch in the present frame and leaves the solver as it is. -/
theorem castVote_absent (l : Lane) (md : NetModel) (j : SolveJob) :
    (l.castVote md j 3).1.slv = l.slv ∧ (l.castVote md j 3).2.n = j.n ∧ (l.castVote md j 3).2.voted = some (l.fno, 3) := by
  have hfno := l.inc_fno R.FAB.ABSCNT 1 (by decide) (by decide)
  rw [Lane.castVote, if_pos rfl, if_pos rfl]
  refine ⟨?_, rfl, congrArg (fun f => some (f, 3)) hfno⟩
  rw [Lane.fabSend_slv, Lane.inc_slv]

theorem stopEpoch_absent (l : Lane) (md : NetModel) (j : SolveJob) (hv : j.voted = none) :
    (l.stopEpoch md j).1.slv = l.slv ∧ (l.stopEpoch md j).2.n = j.n ∧ (l.stopEpoch md j).2.voted = some (l.fno, 3) := by
  obtain ⟨hslv, hfno, hn⟩ := sendExchanges_keeps l md j true
  obtain ⟨hslv', hn', hvoted⟩ := castVote_absent (l.sendExchanges md j true).1 md (l.sendExchanges md j true).2
  rw [Lane.stopEpoch, if_neg (by simp [hv])]
  exact ⟨hslv'.trans hslv, hn'.trans hn, by rw [hvoted, hfno]⟩

/-! ### Resend, stop and decision (04_frame.md R109, 07_crucible_solver.md R186, 20_rogon_fabric.md R451) -/

section
variable (l : Lane) {n : Nat} {md : NetModel} {j : SolveJob}

theorem resendEpoch_one {nbr f : Nat} {e : Exchange} (hv : j.voted = none) (hs : j.sent = [(nbr, f, e)])
    (hg : j.got nbr (e.iter + 1) = none) (hf : f + (2 * l.get R.FAB.LATENCY + 2) ≤ l.fno) :
    l.resendEpoch j = ((l.fabSend 4 2 nbr e.bytes).inc R.FAB.RESEND).setEpoch { j with sent := [(nbr, l.fno, e)] } := by
  rw [Lane.resendEpoch, if_neg (by simp [hv]), hs]
  simp only [List.foldl_cons, List.foldl_nil, hg, Option.isSome_none, Bool.false_eq_true, if_false, if_pos hf, List.nil_append]

theorem resendEpoch_due {nbr f : Nat} {e : Exchange} (hj : l.epochOf n = some j) (hv : j.voted = none) (hs : j.sent = [(nbr, f, e)])
    (hg : j.got nbr (e.iter + 1) = none) (hf : f + (2 * l.get R.FAB.LATENCY + 2) ≤ l.fno) :
    ∃ k, (l.resendEpoch j).epochOf n = some k ∧ k.sent = [(nbr, l.fno, e)] ∧
      (l.resendEpoch j).get R.FAB.RESEND = satAdd R.FAB.RESEND.width (l.get R.FAB.RESEND) 1 := by
  have hslv : ((l.fabSend 4 2 nbr e.bytes).inc R.FAB.RESEND).slv = l.slv := by rw [Lane.inc_slv, Lane.fabSend_slv]
  rw [resendEpoch_one l hv hs hg hf]
  refine ⟨{ j with sent := [(nbr, l.fno, e)] }, setEpoch_epochOf hslv hj rfl, rfl, ?_⟩
  rw [Lane.setEpoch_get, Lane.inc_get _ _ _ (by decide) (by decide), Lane.fabSend_get]

theorem epochStop_due (hj : l.epochOf n = some j) (hv : j.voted = none) (hf : l.stopFrame j ≤ l.fno) :
    ∃ k, (l.epochStop md j).epochOf n = some k ∧ k.voted = some (l.fno, 3) := by
  obtain ⟨hslv, hn, hvoted⟩ := stopEpoch_absent l md j hv
  rw [Lane.epochStop, if_pos ⟨by simp [hv], .inl hf⟩]
  exact ⟨_, setEpoch_epochOf hslv hj hn, hvoted⟩

theorem epochStop_voted (hv : j.voted.isSome = true) : l.epochStop md j = l :=
  if_neg fun h => by simp [Option.isNone_iff_eq_none.1 h.1] at hv

theorem sendAll_slv (ps : List PartRec) (b : List Byte) :
    (ps.foldl (fun (l : Lane) p => l.fabSend 6 1 p.ident b) l).slv = l.slv := foldl_keeps Lane.slv ps l fun _ _ _ => rfl

theorem placeDecision_slv (c : Bool) : (l.placeDecision md j c).slv = { l.slv with
    decided := (j.n :: l.slv.decided).take 8, votes := l.slv.votes.filter fun v => v.epoch != j.n } := by
  rw [Lane.placeDecision, Lane.setSlv_slv, sendAll_slv]

theorem decideEpoch_decides {c : Bool} (hc : l.isCoordinator md = true) (hd : j.n ∉ l.slv.decided)
    (hv : l.verdictOf md j = some c) : l.decideEpoch md j = l.placeDecision md j c := by
  rw [Lane.decideEpoch, if_neg (by simp [hc, hd]), hv]

theorem onEpoch_open (f : NetModel → SolveJob → Lane) (hm : l.slv.model = some md) (hj : l.epochOf n = some j)
    (hd : l.inDomain = true) : l.onEpoch n f = f md j := by
  rw [Lane.onEpoch, hm, hj]
  exact if_pos hd

/-- A row of epochs gives a running lane what it does with the lane's own epoch of that number. -/
theorem epochRow_gives {s : State} {x : LaneId} (c : Instr) (f : Lane → NetModel → SolveJob → Lane)
    (hc : exec c s = .next (onLanes (fun l => l.onEpoch n (f l)) s)) (hr : (s.lane x).running = true)
    (hm : (s.lane x).slv.model = some md) (hj : (s.lane x).epochOf n = some j) (hd : (s.lane x).inDomain = true) :
    RegGives c s x (f (s.lane x) md j) :=
  regGives_onLanes c s x _ _ hc hr (onEpoch_open _ _ hm hj hd)

end

/-- Settles O39: each end of a computation is one update of its lane, and each row of epochs one of the lane's own epoch. -/
theorem computationsEnd : Obligations.ComputationsEnd := by
  intro s x us
  refine ⟨fun md j hc hm hj => ⟨fun hr => ?_, fun hr => ?_⟩, fun j hc hj hr => ?_,
    fun hc => ⟨exec_solveEnd_idle s x us hc, exec_dispatchEnd_idle s x us hc⟩,
    fun n md j hr hm hj hd => ⟨fun nbr f e hv hs hg hf => ?_, fun hv hf => ?_, fun hv => ?_, fun c hc hnd hv => ?_⟩⟩
  · obtain ⟨r, hend, hrec⟩ := solveEnd_computes (s.lane x) us hm hj hr
    refine ⟨_, r, exec_solveEnd_computes s x us hc, onLane_eq_setLane s x _, ?_⟩
    obtain ⟨hn, hfno, hcold⟩ := hrec
    rw [onLane_lane, hend, Lane.setSlv_get, Lane.setSlv_get]
    exact ⟨rfl, hn, hfno, hcold, (s.lane x).timed_dur us ⟨rfl, rfl⟩ ⟨rfl, rfl⟩ (by decide), (s.lane x).timed_longest us ⟨rfl, rfl⟩⟩
  · rw [exec_solveEnd_computes s x us hc, onLane, solveEnd_done _ us hm hj hr, State.setLane_lane_self]
  · refine ⟨_, exec_dispatchEnd_computes s x us hc, onLane_eq_setLane s x _, ?_⟩
    rw [onLane_lane, dispatchEnd_computes _ us hj hr, Lane.setOpt_get]
    exact ⟨rfl, (s.lane x).timed_dur us ⟨rfl, rfl⟩ ⟨rfl, rfl⟩ (by decide)⟩
  · obtain ⟨t, ht, hlane, honly⟩ := epochRow_gives (.boundaryExchangeResend n) (fun l _ j => l.resendEpoch j) rfl hr hm hj hd
    obtain ⟨k, hk, hsent, hcount⟩ := resendEpoch_due (s.lane x) hj hv hs hg hf
    exact ⟨t, k, ht, honly, by rw [hlane, hk], hsent, by rw [hlane, hcount]⟩
  · obtain ⟨t, ht, hlane, honly⟩ := epochRow_gives (.epochStop n) Lane.epochStop rfl hr hm hj hd
    obtain ⟨k, hk, hvoted⟩ := epochStop_due (s.lane x) (md := md) hj hv hf
    exact ⟨t, k, ht, honly, by rw [hlane, hk], hvoted⟩
  · have hrow := epochRow_gives (.epochStop n) Lane.epochStop rfl hr hm hj hd
    rwa [epochStop_voted _ hv] at hrow
  · obtain ⟨t, ht, hlane, honly⟩ := epochRow_gives (.decisionDeadline n) Lane.decideEpoch rfl hr hm hj hd
    refine ⟨t, ht, honly, ?_⟩
    rw [hlane, decideEpoch_decides _ hc hnd hv, placeDecision_slv]
    exact ⟨by simp, fun v hmem => by simpa using (List.mem_filter.1 hmem).2⟩

end Sys2Proof.Machine
end

section
/-! TST.SWAP, TDATA and Burnish CLR as written by a session (O13). -/

namespace Sys2Proof.Machine

/-! ### The operations of these registers (05_touchstone.md R125, 08_dispatch_optimiser.md R210, 09_control_loops.md R232) -/

section
variable (l : Lane) (h : Hub) (w : Word)

theorem writeOp_swap (hs : l.on R.TST.SWAP = false) (hc : l.compared = true) :
    l.writeOp h true [] 0x02 0x04C 1 = some (l.put R.TST.SWAP 1, 0) := by
  simp [Lane.writeOp, Lane.writeSystem, hs, hc]

theorem writeOp_swap_busy (hs : l.on R.TST.SWAP = true) : l.writeOp h true [] 0x02 0x04C 1 = some (l, 0x0208) := by
  simp [Lane.writeOp, Lane.writeSystem, hs]

theorem writeOp_swap_notCompared (hs : l.on R.TST.SWAP = false) (hc : l.compared = false) :
    l.writeOp h true [] 0x02 0x04C 1 = some (l, 0x0241) := by
  simp [Lane.writeOp, Lane.writeSystem, hs, hc]

theorem writeOp_tdata : l.writeOp h true [] 0x13 0x080 w = some (l.writeTdata w, 0) := by
  simp [Lane.writeOp, Lane.writeCompute]

theorem writeOp_burnClr {b : BurnRec} (hb : l.enabled 0x1A = true) (hl : l.enabled 0x18 = true)
    (hr : (l.loop (l.get R.BURN.BSEL)).burn = some b) :
    l.writeOp h true [] 0x1A 0x074 w = some (l.setBurn (l.get R.BURN.BSEL)
      { b with memA := if w.getLsbD 0 then [] else b.memA, memB := if w.getLsbD 1 then [] else b.memB }, 0) := by
  simp [Lane.writeOp, Lane.writeCompute, Lane.writeBurn, hb, hl, hr]

/-- A status of the TST page that is no OK is posted as it is. -/
theorem postStatus_tst (st : Nat) (h0 : st ≠ 0) (h8 : st < 256) :
    l.postStatus (pageCode 0x02 (0x0200 + st)) = l.post (0x0200 + st) := by
  have hp : (pageRow 0x02).isSome = true := by decide
  have hcode : pageCode 0x02 (0x0200 + st) = 0x02 * 256 + st := by
    rw [pageCode, if_neg (by omega), if_neg (by omega)]
  rw [hcode, postStatus_page l hp st h0 h8]

end

/-- A SWAP that its operation refuses posts the status. -/
theorem swap_posts (s : State) (x : LaneId) (st : Nat) (h8 : st + 1 < 256)
    (hop : ((s.lane x).closeLock 0x02).writeOp s.hub true [] 0x02 0x04C 1 =
      some ((s.lane x).closeLock 0x02, 0x0200 + (st + 1))) :
    WriteGives .swap 0x0204C (fun _ => 1) s x (fun l => l.post (0x0200 + (st + 1))) := by
  intro role hr acc
  show RegGives _ s x (((s.lane x).closeLock 0x02).post (0x0200 + (st + 1)))
  rw [← postStatus_tst _ (st + 1) (Nat.succ_ne_zero st) h8]
  exact writeRow_posts .swap 0x0204C 1 (0x0200 + st) s x id (fun _ => rfl) (by decide) (by decide) (by decide) (by decide) hop
    role hr acc

/-- Settles O13: each register's operation, by its row. -/
theorem swapTargetsAndBurnish : Obligations.SwapTargetsAndBurnish := by
  intro s x v
  refine ⟨fun hs hc => ?_, fun hs => ?_, fun hs hc => ?_, ?_, fun b hb hl hr => ?_⟩
  · exact writeRow_gives _ 0x0204C 1 s x _ (fun _ => rfl) (by decide) (by decide) (by decide) (by decide)
      (writeOp_swap ((s.lane x).closeLock 0x02) s.hub hs hc)
  · exact swap_posts s x 0x07 (by decide) (writeOp_swap_busy ((s.lane x).closeLock 0x02) s.hub hs)
  · exact swap_posts s x 0x40 (by decide) (writeOp_swap_notCompared ((s.lane x).closeLock 0x02) s.hub hs hc)
  · exact writeRow_givesWord _ 0x13080 v s x _ (fun _ => rfl) (by decide) (by decide) (by decide) (by decide)
      (writeOp_tdata ((s.lane x).closeLock 0x13) s.hub v)
  · exact writeRow_givesWord _ 0x1A074 v s x _ (fun _ => rfl) (by decide) (by decide) (by decide) (by decide)
      (writeOp_burnClr ((s.lane x).closeLock 0x1A) s.hub v hb hl hr)

end Sys2Proof.Machine
end

section
/-! Verdicts in COMPARED with nothing pending, and Touchstone loss (O35). -/

namespace Sys2Proof.Machine

/-! ### Roles of a draft -/

section
variable (d : Draft) (x y : LaneId)

theorem Draft.role_eq : d.role x = if x = .a then d.roleA else d.roleB := by cases x <;> rfl

theorem LaneId.eq_or_other : y = x ∨ y = x.other := by cases x <;> cases y <;> decide

/-- What holds of the roles of a lane and the other holds of both. -/
theorem Draft.noReceive {d : Draft} {x : LaneId} (hx : d.role x ≠ .receive) (ho : d.role x.other ≠ .receive) (y : LaneId) :
    d.role y ≠ .receive := by
  rcases LaneId.eq_or_other x y with rfl | rfl
  · exact hx
  · exact ho

theorem LaneFacts.outRole_out (f : LaneFacts) : f.outRole = .unfit ∨ f.outRole = .failed := by
  unfold LaneFacts.outRole
  split
  · exact .inr rfl
  · exact .inl rfl

theorem LaneFacts.outRole_ne_receive (f : LaneFacts) : ¬f.outRole = .receive := by
  rcases f.outRole_out with h | h <;> simp [h]

end

/-! ### What Table TST-3 makes of a draft (05_touchstone.md R115 to R117) -/

/-- The pair stays and its active lane owns. -/
def Draft.equal (d : Draft) (ac : LaneId) : Draft :=
  { (({ d with cmp := .equal }).setRole ac .active).setRole ac.other .standby with owner := ownerOf ac, row4 := true }

/-- The disagreement that two frames of frame `k` open. -/
def OutFrame.dispute (f g : OutFrame) (k : Nat) : Resolution :=
  { start := k, ofs := (f.diff g).1, cls := (f.diff g).2.1, dest := (f.diff g).2.2, out := f.diffOutput g }

/-- The outputs are held while `r` is resolved. -/
def Draft.disputed (d : Draft) (r : Resolution) : Draft := { d with cmp := .differ, res := some r, started := true }

/-- The active lane goes on alone, the other takes `out`. -/
def Draft.single (d : Draft) (ac : LaneId) (c : Cmp) (out : Role) (o : Owner) : Draft :=
  { (({ d with cmp := c }).setRole ac.other out).setRole ac .alone with owner := o, res := none }

/-- No lane is left: the quench image and a restart. -/
def Draft.quenched (d : Draft) (ac : LaneId) (c : Cmp) (out out' : Role) : Draft :=
  { (({ d with cmp := c }).setRole ac out).setRole ac.other out' with owner := .quench, restart := true, res := none }

section
variable (d : Draft) (ac : LaneId) (c : Cmp) (out out' : Role) (o : Owner)

@[simp] theorem Draft.equal_active : (d.equal ac).role ac = .active := by cases ac <;> rfl
@[simp] theorem Draft.equal_standby : (d.equal ac).role ac.other = .standby := by cases ac <;> rfl
@[simp] theorem Draft.equal_res : (d.equal ac).res = d.res := by cases ac <;> rfl
@[simp] theorem Draft.equal_cmp : (d.equal ac).cmp = .equal := by cases ac <;> rfl
@[simp] theorem Draft.equal_blame : (d.equal ac).blame = d.blame := by cases ac <;> rfl
@[simp] theorem Draft.disputed_blame (r : Resolution) : (d.disputed r).blame = d.blame := rfl
@[simp] theorem Draft.disputed_owner (r : Resolution) : (d.disputed r).owner = d.owner := rfl
@[simp] theorem Draft.disputed_role (r : Resolution) (x : LaneId) : (d.disputed r).role x = d.role x := by cases x <;> rfl
@[simp] theorem Draft.single_alone : (d.single ac c out o).role ac = .alone := by cases ac <;> rfl
@[simp] theorem Draft.single_out : (d.single ac c out o).role ac.other = out := by cases ac <;> rfl
@[simp] theorem Draft.single_blame : (d.single ac c out o).blame = d.blame := by cases ac <;> rfl
@[simp] theorem Draft.quenched_active : (d.quenched ac c out out').role ac = out := by cases ac <;> rfl
@[simp] theorem Draft.quenched_standby : (d.quenched ac c out out').role ac.other = out' := by cases ac <;> rfl
@[simp] theorem Draft.quenched_blame : (d.quenched ac c out out').blame = d.blame := by cases ac <;> rfl
@[simp] theorem Draft.quenched_tt : (d.quenched ac c out out').tt = d.tt := by cases ac <;> rfl
@[simp] theorem Draft.quenched_started : (d.quenched ac c out out').started = d.started := by cases ac <;> rfl

end

/-! ### The mode by the roles (05_touchstone.md Table TST-2) -/

section
variable {d : Draft} {ac : LaneId}

theorem Draft.mode_quench (ho : d.owner = .quench) : d.mode = .quench := if_pos ho

theorem Draft.mode_resolving (ho : d.owner ≠ .quench) (hr : d.res.isSome = true) : d.mode = .resolving := by
  rw [Draft.mode, if_neg ho, if_pos hr]

theorem Draft.mode_compared (ho : d.owner ≠ .quench) (hr : d.res = none) (ha : d.role ac = .active)
    (hs : d.role ac.other = .standby) : d.mode = .compared := by
  cases ac with
  | a | b => simp_all [Draft.mode, Draft.role, LaneId.other]

theorem Draft.mode_single (ho : d.owner ≠ .quench) (hr : d.res = none) (ha : d.role ac = .alone)
    (hs : d.role ac.other = .unfit ∨ d.role ac.other = .failed) : d.mode = .single := by
  cases ac with
  | a | b => rcases hs with hs | hs <;> simp_all [Draft.mode, Draft.role, LaneId.other]

end

/-! ### Frames that are compared (05_touchstone.md R115) -/

theorem OutFrame.same_comm (f g : OutFrame) : f.same g = g.same f := by
  simp only [OutFrame.same, eq_comm]

/-- Both frames present: the comparison says whether they are the same. -/
theorem cmpOf_present {q : LaneId → LaneFacts} {f g : OutFrame} (ac : LaneId) (hf : (q ac).frame = some f)
    (hg : (q ac.other).frame = some g) : cmpOf (q .a) (q .b) = if f.same g then .equal else .differ := by
  cases ac with
  | a => exact (by rw [cmpOf, hf, show (q .b).frame = some g from hg])
  | b => rw [cmpOf, hf, show (q .a).frame = some g from hg, OutFrame.same_comm]

section
variable {k : Nat} {ac : LaneId} {q : LaneId → LaneFacts} {d : Draft}

/-- The eligible lanes are the active one and the standby one, compared in this order. -/
theorem judge_pair (source : Option LaneId) (ha : d.role ac = .active) (hs : d.role ac.other = .standby) :
    d.judge k q source = decideTwo k ac ac.other q d := by
  cases ac with
  | a | b =>
    have he : d.eligible = [.a, .b] := by simp_all [Draft.eligible, LaneId.other]
    simp_all [Draft.judge, LaneId.other]

/-- Row 4 of Table TST-3: equal frames, the roles stand. -/
theorem decideTwo_equal {f g : OutFrame} (hac : (q ac).clean = true) (hs : (q ac.other).clean = true)
    (hf : (q ac).frame = some f) (hg : (q ac.other).frame = some g) (hfg : f.same g = true) (hr : d.res = none) :
    decideTwo k ac ac.other q d = d.equal ac := by
  simp [decideTwo, rows47, Draft.equal, hac, hs, hf, hg, hfg, hr, cmpOf_present ac hf hg]

/-- Row 5 of Table TST-3 opens a resolution with this frame. -/
theorem decideTwo_differ {f g : OutFrame} (hac : (q ac).clean = true) (hs : (q ac.other).clean = true)
    (hf : (q ac).frame = some f) (hg : (q ac.other).frame = some g) (hfg : f.same g = false) (hr : d.res = none) :
    decideTwo k ac ac.other q d = d.disputed (f.dispute g k) := by
  simp [decideTwo, rows47, Draft.disputed, OutFrame.dispute, hac, hs, hf, hg, hfg, hr, cmpOf_present ac hf hg]

/-- Row 3 of Table TST-3: the standby lane is unclean. -/
theorem decideTwo_standbyUnclean (hac : (q ac).clean = true) (hs : (q ac.other).clean = false) :
    decideTwo k ac ac.other q d = d.single ac (cmpOf (q .a) (q .b)) (q ac.other).outRole ((q ac).drive ac) := by
  simp [decideTwo, Draft.single, hac, hs]

/-- Row 1 of Table TST-3: both lanes are unclean. -/
theorem decideTwo_bothUnclean (hac : (q ac).clean = false) (hs : (q ac.other).clean = false) :
    decideTwo k ac ac.other q d = d.quenched ac (cmpOf (q .a) (q .b)) (q ac).outRole (q ac.other).outRole := by
  simp [decideTwo, Draft.quenched, hac, hs]

end

/-! ### A comparison with nothing pending -/

/-- Without a transfer the decision starts from the roles of the last verdict and the resolution that goes on. -/
theorem before_eq {t : Touchstone} (ht : t.transfer = none) :
    t.before = { roleA := t.verdict.roleA, roleB := t.verdict.roleB, res := t.res } := by
  rw [Touchstone.before, ht]

theorem before_role {t : Touchstone} (ht : t.transfer = none) (x : LaneId) :
    t.before.role x = if x = .a then t.verdict.roleA else t.verdict.roleB := by
  rw [Draft.role_eq, before_eq ht]

/-- The module compares active lane `ac` with the other, and no order of an earlier frame waits. -/
structure Compares (s : State) (ac : LaneId) : Prop where
  active : s.ts.before.role ac = .active
  standby : s.ts.before.role ac.other = .standby
  noRes : s.ts.res = none
  noTransfer : s.ts.transfer = none
  noSwap : s.ts.swap = false
  noTest : (s.lane ac).asy.kind2 = none
  noPath : s.ts.pathDue s.hub.fno = false
  fewHeld : s.ts.held < 3

/-- Touchstone after a decision that counts and orders nothing. -/
def Touchstone.uncounted (t : Touchstone) : Touchstone :=
  { t with verdict := { t.verdict with trA := false, trB := false, swap := none } }

theorem row4Extras_none {t : Touchstone} (k : Nat) (d : Draft) (hs : t.swap = false) (hp : t.pathDue k = false) :
    row4Extras k none (t, d) = (t, d, false) := by
  simp [row4Extras, hs, hp]

theorem moveTransfer_none {t : Touchstone} (k : Nat) (src : Lane) (d : Draft) (ht : t.transfer = none) :
    moveTransfer k src (t, d) = (t, d) := by
  simp [moveTransfer, ht]

theorem holdLimit_few {t : Touchstone} (d : Draft) (h : t.held < 3) : holdLimit t d = d := if_neg fun hh => by omega

theorem rejoinBlame_noRes {t : Touchstone} (d : Draft) (h : t.res = none) : rejoinBlame t d = [] := by
  simp [rejoinBlame, h]

theorem newTransfer_noReceive (was : Draft) (t : Touchstone) {d : Draft} (h : ∀ x, d.role x ≠ .receive) :
    newTransfer was (t, d) = (t, d) := by
  simp [newTransfer, h]

/-- A lane that was compared is not reset by this verdict. -/
theorem laneResetStep_compared (s : State) (free : Bool) {was : Draft} (td : Touchstone × Draft) {x : LaneId}
    (h : was.role x = .active ∨ was.role x = .standby) : laneResetStep s free was td x = td := by
  rcases h with h | h <;> simp [laneResetStep, h]

section
variable {s : State} {ac : LaneId} {d : Draft} (h : Compares s ac)
include h

theorem Compares.before : s.ts.before = { roleA := s.ts.verdict.roleA, roleB := s.ts.verdict.roleB, res := none } := by
  rw [before_eq h.noTransfer, h.noRes]

theorem Compares.was (x : LaneId) : s.ts.before.role x = .active ∨ s.ts.before.role x = .standby := by
  rcases LaneId.eq_or_other ac x with rfl | rfl
  · exact .inl h.active
  · exact .inr h.standby

/-- The lane whose commands and configuration the decision goes by is the active one. -/
theorem Compares.source : (if s.ts.before.roleA = .active ∨ s.ts.before.roleA = .alone then LaneId.a else .b) = ac := by
  have ha := h.active
  have hs := h.standby
  cases ac with
  | a => exact if_pos (.inl ha)
  | b =>
    have hs : s.ts.before.roleA = .standby := hs
    simp [hs]

/-- The draft of Table TST-3 stands as it is. -/
theorem Compares.judgeFrame (hd : decideTwo s.hub.fno ac ac.other s.facts s.ts.before = d) (hb : d.blame = [])
    (hr : ∀ x, d.role x ≠ .receive) : s.judgeFrame = (s.ts.uncounted, d, false) := by
  have hj (source : Option LaneId) : s.ts.before.judge s.hub.fno s.facts source = d := (judge_pair source h.active h.standby).trans hd
  simp only [State.judgeFrame, h.source, hj, h.noTest, Option.bind_none, row4Extras_none _ d h.noSwap h.noPath,
    moveTransfer_none _ _ d h.noTransfer, holdLimit_few d h.fewHeld, hb, rejoinBlame_noRes d h.noRes, List.append_nil,
    List.foldl_nil, newTransfer_noReceive _ s.ts hr, List.foldl_cons, laneResetStep_compared s _ _ (h.was _), h.noSwap, Touchstone.uncounted]
  rfl

end

/-- `t` bears the verdict of draft `d` on frame `s.hub.fno`. -/
structure Bears (s : State) (d : Draft) (t : State) : Prop where
  hub : t.hub.verdict = t.ts.verdict
  owner : t.ts.verdict.owner = d.owner
  mode : t.ts.verdict.mode = d.mode
  cmp : t.ts.verdict.cmp = d.cmp
  role : ∀ x : LaneId, (if x = .a then t.ts.verdict.roleA else t.ts.verdict.roleB) = d.role x
  vfno : t.ts.verdict.vfno = s.hub.fno
  held : t.ts.held = if d.owner = .held then s.ts.held + 1 else 0
  res : t.ts.res = d.res
  order8 : t.ts.order8 = d.restart

theorem runVerdict_bears {s : State} {d : Draft} {path : Bool} (hj : s.judgeFrame = (s.ts.uncounted, d, path)) :
    Bears s d s.runVerdict := by
  unfold State.runVerdict
  rw [hj]
  exact ⟨rfl, rfl, rfl, rfl, fun x => (d.role_eq x).symm, rfl, rfl, rfl, rfl⟩

/-- A verdict that starts and ends no resolution leaves the lanes as they are. -/
theorem runVerdict_lane {s : State} {d : Draft} {path : Bool} (hj : s.judgeFrame = (s.ts.uncounted, d, path)) (htt : d.tt = none)
    (hst : d.started = false) (hres : s.ts.res = none) (x : LaneId) : s.runVerdict.lane x = s.lane x := by
  unfold State.runVerdict
  rw [hj]
  simp only [htt, hst, hres, Option.isSome_none, Bool.false_and, Bool.false_eq_true, if_false, onLanes_lane, runIf, ite_self]
  cases x <;> rfl

/-! ### The row COMPARE (05_touchstone.md R114, R134) -/

section
variable {s : State} (hrun : s.hub.running = true) (hfresh : s.ts.verdict.vfno ≠ s.hub.fno)
include hrun hfresh

theorem exec_compare_present (hu : s.startup = none) (hl : s.ts.lost = false) (hp : s.pwr.isOn 1 = true) :
    exec .compare s = .next s.runVerdict := by
  refine congrArg Host.Outcome.next ?_
  simp [State.compare, hrun, hfresh, hl, hu, hp]

theorem exec_compare_lost (hl : s.ts.lost = true) : exec .compare s = .next s.lostVerdict := by
  refine congrArg Host.Outcome.next ?_
  simp [State.compare, hrun, hfresh, hl]

end

/-- With no lane's own request the restart asked for is Touchstone's. -/
theorem restartAsked_order8 {s : State} (ha : s.laneA.restart = none) (hb : s.laneB.restart = none) (ho : s.ts.order8 = true) :
    s.restartAsked = some { cold := false, trig := 8 } := by
  simp [State.restartAsked, ha, hb, ho]

theorem ownerOf_ne_quench (x : LaneId) : ownerOf x ≠ .quench := by cases x <;> decide
theorem ownerOf_ne_held (x : LaneId) : ownerOf x ≠ .held := by cases x <;> decide

theorem drive_present {q : LaneFacts} {f : OutFrame} (hf : q.frame = some f) (x : LaneId) : q.drive x = ownerOf x := by
  simp [LaneFacts.drive, hf]

section
variable {s : State} {ac : LaneId} (h : Compares s ac)
include h

/-- Two clean lanes with equal frames: the verdict is that of row 4. -/
theorem Compares.bears_equal {f g : OutFrame} (hac : (s.facts ac).clean = true) (hs : (s.facts ac.other).clean = true)
    (hf : (s.facts ac).frame = some f) (hg : (s.facts ac.other).frame = some g) (hfg : f.same g = true) :
    Bears s (s.ts.before.equal ac) s.runVerdict :=
  runVerdict_bears <| h.judgeFrame (decideTwo_equal hac hs hf hg hfg (by rw [h.before]))
    (by simp [h.before])
    (Draft.noReceive (x := ac) (by simp) (by simp))

/-- Two clean lanes with different frames: the verdict opens a resolution. -/
theorem Compares.bears_disputed {f g : OutFrame} (hac : (s.facts ac).clean = true) (hs : (s.facts ac.other).clean = true)
    (hf : (s.facts ac).frame = some f) (hg : (s.facts ac.other).frame = some g) (hfg : f.same g = false) :
    Bears s (s.ts.before.disputed (f.dispute g s.hub.fno)) s.runVerdict :=
  runVerdict_bears <| h.judgeFrame (decideTwo_differ hac hs hf hg hfg (by rw [h.before]))
    (by simp [h.before])
    (Draft.noReceive (x := ac) (by simp [h.active]) (by simp [h.standby]))

/-- An unclean standby lane: the verdict leaves the active lane alone. -/
theorem Compares.bears_single (hac : (s.facts ac).clean = true) (hs : (s.facts ac.other).clean = false) :
    Bears s (s.ts.before.single ac (cmpOf (s.facts .a) (s.facts .b)) (s.facts ac.other).outRole ((s.facts ac).drive ac))
      s.runVerdict :=
  runVerdict_bears <| h.judgeFrame (decideTwo_standbyUnclean hac hs) (by simp [h.before])
    (Draft.noReceive (x := ac) (by simp) (by simp [LaneFacts.outRole_ne_receive]))

/-- The draft with which two unclean lanes end. -/
theorem Compares.judgeFrame_quenched (hac : (s.facts ac).clean = false) (hs : (s.facts ac.other).clean = false) :
    s.judgeFrame = (s.ts.uncounted, s.ts.before.quenched ac (cmpOf (s.facts .a) (s.facts .b)) (s.facts ac).outRole
      (s.facts ac.other).outRole, false) :=
  h.judgeFrame (decideTwo_bothUnclean hac hs) (by simp [h.before])
    (Draft.noReceive (x := ac) (by simp [LaneFacts.outRole_ne_receive]) (by simp [LaneFacts.outRole_ne_receive]))

/-- Two unclean lanes leave the lanes as they are until the restart. -/
theorem Compares.lane_quenched (hac : (s.facts ac).clean = false) (hs : (s.facts ac.other).clean = false) (x : LaneId) :
    s.runVerdict.lane x = s.lane x :=
  runVerdict_lane (h.judgeFrame_quenched hac hs) (by simp [h.before]) (by simp [h.before]) h.noRes x

end

/-! ### Under Touchstone loss (05_touchstone.md R134, R135) -/

section
variable {s : State} {ac : LaneId}

theorem lostVerdict_owns (hl : s.ts.latched = some ac) (hq : s.ts.latchQuench = false) (hc : (s.facts ac).clean = true)
    (hf : (s.facts ac).frame.isSome = true) :
    s.lostVerdict.ts.verdict.owner = ownerOf ac ∧ s.lostVerdict.ts.latchQuench = false := by
  simp [State.lostVerdict, hl, hq, hc, hf]

theorem lostVerdict_quenches (hq : s.ts.latchQuench = true) :
    s.lostVerdict.ts.verdict.owner = .quench ∧ s.lostVerdict.ts.latchQuench = true := by
  cases hl : s.ts.latched with
  | none | some x => simp [State.lostVerdict, hl, hq]

/-- The loss latches the lane that drives; a transfer that does not run needs no abandoning. -/
theorem touchstoneLoss_latches (hrun : s.hub.running = true) (hu : s.startup = none) (hl : s.ts.lost = false)
    (hx : s.ts.transfer = none) (ha : s.ts.before.role ac = .active) (hn : s.ts.before.role ac.other ≠ .active)
    (hn' : s.ts.before.role ac.other ≠ .alone) :
    s.touchstoneLoss = { s with
      ts := { s.ts with
        lost := true, latched := some ac, res := none, transfer := none, rstOffA := none, rstOffB := none, order8 := false
        mode := .tslost }
      hub := s.hub.dropConnections } := by
  have hlatch : (if s.ts.verdict.roleA = .active ∨ s.ts.verdict.roleA = .alone then some LaneId.a
      else if s.ts.verdict.roleB = .active ∨ s.ts.verdict.roleB = .alone then some .b else none) = some ac := by
    rw [before_role hx] at ha hn hn'
    cases ac with
    | a | b => simp_all [LaneId.other]
  simp [State.touchstoneLoss, hrun, hu, hl, hx, hlatch]

theorem touchstoneLoss_again (hl : s.ts.lost = true) : s.touchstoneLoss = s := if_pos (.inr (.inl hl))

end

/-- Settles O35: a comparison with nothing pending is Table TST-3 alone, and the loss latches the active lane. -/
theorem verdictsAndTouchstoneLoss : Obligations.VerdictsAndTouchstoneLoss := by
  intro s ac hrun hu hfresh role
  refine ⟨fun hl hp ha hs hres hx hsw hk hpath hheld => ?_, fun hl => ?_, fun hl hla hq hc hf => ?_, fun hl hq => ?_,
    fun hl hx ha hn hn' => ?_, fun hl => ?_⟩
  · have hex := exec_compare_present hrun hfresh hu hl hp
    have h : Compares s ac := ⟨(before_role hx ac).trans ha, (before_role hx ac.other).trans hs, hres, hx, hsw, hk, hpath, hheld⟩
    refine ⟨fun f g hac hso hf hg => ⟨fun hfg => ?_, fun hfg _ => ?_⟩, fun f hac hso hf => ?_, fun hac hso hra hrb => ?_⟩
    · have b := h.bears_equal hac hso hf hg hfg
      have hr : (s.ts.before.equal ac).res = none := by simp [h.before]
      have hm := Draft.mode_compared (ownerOf_ne_quench ac) hr (Draft.equal_active ..) (Draft.equal_standby ..)
      exact ⟨_, hex, b.hub, b.owner, b.mode.trans hm, b.cmp.trans (Draft.equal_cmp ..), (b.role ac).trans (Draft.equal_active ..),
        (b.role ac.other).trans (Draft.equal_standby ..), b.vfno, b.held.trans (if_neg (ownerOf_ne_held ac)), b.res.trans hr⟩
    · have b := h.bears_disputed hac hso hf hg hfg
      have ho : (s.ts.before.disputed (f.dispute g s.hub.fno)).owner = .held := by simp [h.before]
      exact ⟨_, _, hex, b.hub, b.owner.trans ho, b.mode.trans (Draft.mode_resolving (by rw [ho]; decide) rfl), b.cmp,
        (b.role ac).trans ((Draft.disputed_role ..).trans h.active), (b.role ac.other).trans ((Draft.disputed_role ..).trans h.standby),
        b.held.trans (if_pos ho), b.res, rfl⟩
    · have b := h.bears_single hac hso
      rw [drive_present hf] at b
      have hm := Draft.mode_single (ownerOf_ne_quench ac) rfl (Draft.single_alone s.ts.before ac (cmpOf (s.facts .a) (s.facts .b)) _ _)
        (by simpa using (s.facts ac.other).outRole_out)
      exact ⟨_, hex, b.owner, b.mode.trans hm, (b.role ac).trans (Draft.single_alone ..), (b.role ac.other).trans (Draft.single_out ..)⟩
    · have b := runVerdict_bears (h.judgeFrame_quenched hac hso)
      have hlane := h.lane_quenched hac hso
      have hask := restartAsked_order8 ((congrArg Lane.restart (hlane .a)).trans hra) ((congrArg Lane.restart (hlane .b)).trans hrb) b.order8
      exact ⟨_, hex, b.owner, b.mode.trans (Draft.mode_quench rfl), b.order8, congrArg (Option.map (·.trig)) hask⟩
  · exact ⟨_, exec_compare_lost hrun hfresh hl, rfl, rfl, rfl⟩
  · exact ⟨_, exec_compare_lost hrun hfresh hl, lostVerdict_owns hla hq hc hf⟩
  · exact ⟨_, exec_compare_lost hrun hfresh hl, lostVerdict_quenches hq⟩
  · have ht := touchstoneLoss_latches hrun hu hl hx ((before_role hx ac).trans ha) (by rwa [before_role hx]) (by rwa [before_role hx])
    exact ⟨_, congrArg Host.Outcome.next ht, rfl, rfl, rfl, rfl, rfl, rfl, rfl⟩
  · exact congrArg Host.Outcome.next (touchstoneLoss_again hl)

end Sys2Proof.Machine
end

section
/-! Loop instructions of an Enesque task on an installed loop (O56). -/

namespace Sys2Proof.Machine

section
variable {s : State} {x : LaneId} {e : Exec45} {n : Nat} {area : BitVec 4} {addr : BitVec 20} {k : Word}
variable (h : Executes s x e n) (hread : (enqEnv s e n).readWord (s.lane x) area.toNat addr.toNat = .ok k)
variable (hk : k.toNat ≤ 511) (hloop : (s.lane x).hasLoop k.toNat = true)
include h hread hk hloop

/-- An operand that names an installed loop passes the check of LOOPARG (11_enesque_instructions.md R269). -/
theorem loopArg_installed : (enqEnv s e n).loopArg (s.pcOn x n) area.toNat addr.toNat = .ok k.toNat := by
  refine ((enqEnv s e n).loopArg_modCtx (s.lane x) area.toNat addr.toNat _ h.known rfl).trans ?_
  simp only [EnqEnv.loopArg, hread, bind, Except.bind, pure, Except.pure]
  rw [hloop, if_neg]
  simpa using hk

/-- A read of an installed loop's state goes to WA. -/
theorem enqSets_loopRead {c : Instr} (f : LoopState → Word) (hc : exec c s = .next (enqRow e (loopRead f) area addr s)) :
    EnqSets c s x e n (8 + indexCost area.toNat) (fun c => { c with wa := f ((s.lane x).loop k.toNat).st }) := by
  refine enqSets_of_sem hc h ?_
  simp only [loopRead, loopArg_installed h hread hk hloop, bind, Except.bind, pure, Except.pure]
  rfl

/-- A write that takes WA leaves it with what the executor's next PB takes up (09_control_loops.md R226). -/
theorem enqGives_loopWrite {c : Instr} {ok : Word → Bool} (f : LoopPend → Word → LoopPend) {st : LoopState}
    (hok : ok (s.ctxOf x n).wa = true)
    (hst : ((s.lane x).loop k.toNat).st.onPend (exeNo e) (fun d => f d (s.ctxOf x n).wa) = st)
    (hc : exec c s = .next (enqRow e (loopWrite ok f) area addr s)) :
    EnqGives c s x e n (8 + indexCost area.toNat)
      ((s.pcOn x n).setLoop k.toNat { (s.lane x).loop k.toNat with st := st }) := by
  have hctx : ((s.pcOn x n).enqCtx n).wa = (s.ctxOf x n).wa := by rw [pcOn_ctx h]
  subst hst
  refine ⟨_, hc, enqRow_ok s x e n _ area addr 8 _ h ?_, enqRow_only s e _ area addr⟩
  simp only [loopWrite, loopArg_installed h hread hk hloop, bind, Except.bind, pure, Except.pure]
  rw [show (enqEnv s e n).task = n from rfl, hctx, hok]
  rfl

end

/-- Settles O56: each read by its quantity of the loop, each write by what it leaves for PB. -/
theorem enqLoopAccess : Obligations.EnqLoopAccess := by
  intro s x e n area addr k h hread hk hloop i p w leaves
  have hwa {c : Instr} := enqSets_loopRead h hread hk hloop (c := c)
  have hpend {c : Instr} {ok : Word → Bool} := enqGives_loopWrite h hread hk hloop (c := c) (ok := ok)
  refine ⟨hwa (·.pv) rfl, hwa (·.sp) rfl, hwa (·.e) rfl, hwa (·.uc) rfl, hwa (·.ud) rfl, hwa (·.i) rfl,
    hwa (fun st => .ofNat 32 (st.flags.toNat + st.mode * 2 ^ 16)) rfl, fun hfin => ⟨?lpsp, ?lman⟩, fun hmode => ?lmode⟩
  case lpsp => exact hpend (fun d w => { d with psp := some w }) hfin (by cases e <;> rfl) rfl
  case lman => exact hpend (fun d w => { d with man := some w }) hfin (by cases e <;> rfl) rfl
  case lmode => exact hpend (fun d w => { d with mode := some w.toNat }) (decide_eq_true hmode) (by cases e <;> rfl) rfl

end Sys2Proof.Machine
end

section
/-! Lanes that read alike, and the commands whose operation posts its own refusal (02_register_pages.md R52). -/

namespace Sys2Proof.Machine

/-! ### Writing one key twice -/

section
variable {α : Type} (l : List (Nat × α)) (k : Nat)

theorem kvErase_kvErase : kvErase (kvErase l k) k = kvErase l k := by
  induction l with
  | nil => rfl
  | cons p l ih =>
    obtain ⟨j, y⟩ := p
    by_cases h : j = k
    · rw [kvErase, if_pos h, ih]
    · rw [kvErase, if_neg h, kvErase, if_neg h, ih]

theorem kvInsert_kvInsert (x y : α) : kvInsert (kvInsert l k x) k y = kvInsert l k y := by
  induction l with
  | nil => simp [kvInsert]
  | cons p l ih =>
    obtain ⟨j, z⟩ := p
    rcases lt_trichotomy k j with h | h | h
    · simp [kvInsert, h]
    · simp [kvInsert, h]
    · simp [kvInsert, h.not_gt, h.ne, ih]

theorem kvSet_kvSet [DecidableEq α] (d x : α) : kvSet d (kvSet d l k x) k x = kvSet d l k x := by
  by_cases h : x = d
  · simp [kvSet, h, kvErase_kvErase]
  · simp [kvSet, h, kvInsert_kvInsert]

end

/-! ### Lanes that read alike -/

/-- The lanes differ in nothing but how their registers are kept: every register reads the same. -/
structure Lane.ReadsAs (l m : Lane) : Prop where
  rest : m = { l with regs := m.regs }
  regs : ∀ k, m.reg k = l.reg k

theorem Lane.ReadsAs.refl (l : Lane) : l.ReadsAs l := ⟨rfl, fun _ => rfl⟩

theorem Lane.ReadsAs.trans {l m n : Lane} (h : l.ReadsAs m) (h' : m.ReadsAs n) : l.ReadsAs n := by
  refine ⟨h'.rest.trans ?_, fun k => (h'.regs k).trans (h.regs k)⟩
  rw [h.rest]

section
variable (l : Lane) {k : Nat} (w w' : Word)

/-- A write of the value a register reads. -/
theorem readsAs_setReg_self (h : l.reg k = w) : l.ReadsAs (l.setReg k w) := by
  refine ⟨rfl, fun j => ?_⟩
  rw [Lane.reg_setReg]
  split_ifs with hj
  · rw [hj, h]
  · rfl

/-- The later of two writes of one register. -/
theorem readsAs_setReg_setReg : (l.setReg k w').ReadsAs ((l.setReg k w).setReg k w') := by
  refine ⟨rfl, fun j => ?_⟩
  simp only [Lane.reg_setReg]
  split_ifs <;> rfl

/-- Writes of two registers in either order. -/
theorem readsAs_put_setReg {f : Fld} (v : Nat) (h : f.key ≠ k) : ((l.put f v).setReg k w).ReadsAs ((l.setReg k w).put f v) := by
  refine ⟨rfl, fun j => ?_⟩
  simp only [Lane.put, Lane.reg_setReg, if_neg h]
  split_ifs with hf hk
  · exact absurd (hf.symm.trans hk) h
  · rfl
  · rfl
  · rfl

end

section
variable {l m : Lane} (h : l.ReadsAs m)
include h

theorem Lane.ReadsAs.setReg (k : Nat) (w : Word) : (l.setReg k w).ReadsAs (m.setReg k w) := by
  refine ⟨?_, fun j => by rw [Lane.reg_setReg, Lane.reg_setReg, h.regs j]⟩
  unfold Lane.setReg
  rw [h.rest]

theorem Lane.ReadsAs.put (f : Fld) (v : Nat) : (l.put f v).ReadsAs (m.put f v) := by
  unfold Lane.put
  rw [h.regs]
  exact h.setReg f.key _

theorem Lane.ReadsAs.irqLine (page : Nat) : m.irqLine page = l.irqLine page := by simp only [Lane.irqLine, h.regs]

theorem Lane.ReadsAs.irqBit (page b : Nat) : (l.irqBit page b).ReadsAs (m.irqBit page b) := by
  have hregs (k : Nat) : (m.irqBit page b).reg k = (l.irqBit page b).reg k := by rw [Lane.irqBit_reg, Lane.irqBit_reg, h.regs k]
  have hline : (m.irqBit page b).irqLine page = (l.irqBit page b).irqLine page := by
    simp only [Lane.irqLine, hregs]
  have hset : (m.irqBit page b).irqSet = (l.irqBit page b).irqSet := by
    show kvSet 0 m.irqSet page (kvGet 0 m.irqSet page ||| (1 <<< b)) = _
    rw [h.rest]
    rfl
  have hrose (now : Word) : m.roseWith page now = l.roseWith page now := by
    unfold Lane.roseWith
    rw [h.irqLine, h.rest]
  refine ⟨?_, hregs⟩
  rw [irqBit_eq m, hset, hrose, hline]
  exact congrArg (fun n : Lane => { n with
    regs := (m.irqBit page b).regs, irqSet := (l.irqBit page b).irqSet, rose := (l.irqBit page b).rose }) h.rest

end

/-- An event that is set again in the frame changes nothing (R46). -/
theorem readsAs_irqBit_again (l : Lane) (page b : Nat) : (l.irqBit page b).ReadsAs ((l.irqBit page b).irqBit page b) := by
  let m := l.irqBit page b
  have hregs (k : Nat) : (m.irqBit page b).reg k = m.reg k := by
    rw [Lane.irqBit_reg]
    split_ifs with hk
    · subst hk
      rw [show m.reg _ = _ from Lane.irqBit_reg l page b _, if_pos rfl, BitVec.or_assoc, BitVec.or_self]
    · rfl
  have hline : (m.irqBit page b).irqLine page = m.irqLine page := by simp only [Lane.irqLine, hregs]
  have hset : (m.irqBit page b).irqSet = m.irqSet := by
    show kvSet 0 m.irqSet page (kvGet 0 m.irqSet page ||| (1 <<< b)) = m.irqSet
    rw [irqBit_irqSet, BitVec.or_assoc, BitVec.or_self]
    exact kvSet_kvSet l.irqSet page 0 _
  have hrose : m.roseWith page (m.irqLine page) = m.rose := if_neg fun h => h.2.1 h.1
  refine ⟨(irqBit_eq m page b).trans ?_, hregs⟩
  rw [hset, hline, hrose]

/-- A code posted again changes nothing. -/
theorem readsAs_post_again (l : Lane) (c : Nat) : (l.post c).ReadsAs ((l.post c).post c) := by
  by_cases hc : c % 256 = 0
  · simp only [Lane.post, hc, if_true]
    exact Lane.ReadsAs.refl l
  · have herrc := Lane.post_errc l c hc
    rw [show (l.post c).post c = ((l.post c).setReg (c / 256 * 0x1000 + 0x01C) (.ofNat 32 c)).irqBit (c / 256) 0 from if_neg hc]
    refine Lane.ReadsAs.trans ?_ ((readsAs_setReg_self (l.post c) _ herrc).irqBit (c / 256) 0)
    rw [show l.post c = (l.setReg (c / 256 * 0x1000 + 0x01C) (.ofNat 32 c)).irqBit (c / 256) 0 from if_neg hc]
    exact readsAs_irqBit_again _ _ _

/-- A code posted over another value of ERRC. -/
theorem readsAs_post_over (l : Lane) (c : Nat) (w : Word) (hc : c % 256 ≠ 0) :
    (l.post c).ReadsAs ((l.setReg (c / 256 * 0x1000 + 0x01C) w).post c) := by
  simp only [Lane.post, hc, if_false]
  exact (readsAs_setReg_setReg l w _).irqBit _ _

/-! ### Operations that post their own refusal -/

section
variable {l t : Lane} {page : Nat} {f : Lane → Lane}

/-- An operation that posts nothing: ERRC passes it unchanged. -/
theorem readsAs_posting_ok (hf : (t.setReg (page * 0x1000 + 0x01C) 0).ReadsAs (f (l.setReg (page * 0x1000 + 0x01C) 0)))
    (hk : t.reg (page * 0x1000 + 0x01C) = l.reg (page * 0x1000 + 0x01C)) :
    t.ReadsAs ((l.posting page f).1.postStatus (pageCode page (l.posting page f).2)) := by
  have hclear : (f (l.setReg (page * 0x1000 + 0x01C) 0)).reg (page * 0x1000 + 0x01C) = 0 := by
    rw [hf.regs, Lane.reg_setReg_self]
  have hpost : l.posting page f =
      ((f (l.setReg (page * 0x1000 + 0x01C) 0)).setReg (page * 0x1000 + 0x01C) (l.reg (page * 0x1000 + 0x01C)), 0) := by
    simp only [Lane.posting, hclear]
    rfl
  rw [hpost, show pageCode page 0 = 0 from rfl, postStatus_ok]
  refine Lane.ReadsAs.trans ?_ (hf.setReg _ _)
  exact (readsAs_setReg_self t _ hk).trans (readsAs_setReg_setReg t 0 _)

/-- An operation that is refused: the code it posts is posted. -/
theorem readsAs_posting_refused (hp : (pageRow page).isSome = true) {c : Nat} (hc : c ≠ 0) (hc' : c < 256)
    (hf : f (l.setReg (page * 0x1000 + 0x01C) 0) = (l.setReg (page * 0x1000 + 0x01C) 0).post (page * 256 + c)) :
    (l.post (page * 256 + c)).ReadsAs ((l.posting page f).1.postStatus (pageCode page (l.posting page f).2)) := by
  have hlt := pageRow_lt hp
  have hdiv : (page * 256 + c) / 256 = page := by omega
  have hmod : (page * 256 + c) % 256 ≠ 0 := by omega
  have herrc := Lane.post_errc (l.setReg (page * 0x1000 + 0x01C) 0) _ hmod
  rw [hdiv] at herrc
  have hcode : (BitVec.ofNat 32 (page * 256 + c)).toNat = page * 256 + c := by
    rw [BitVec.toNat_ofNat, Nat.mod_eq_of_lt (by omega)]
  have hpost : l.posting page f = ((l.setReg (page * 0x1000 + 0x01C) 0).post (page * 256 + c), page * 256 + c) := by
    simp only [Lane.posting, hf, herrc, hcode]
    rw [if_neg (by omega)]
  have hpage : pageCode page (page * 256 + c) = page * 256 + c := by
    unfold pageCode
    split_ifs <;> omega
  rw [hpost, hpage, postStatus_page _ hp c hc hc']
  have hover := readsAs_post_over l (page * 256 + c) 0 hmod
  rw [hdiv] at hover
  exact hover.trans (readsAs_post_again _ _)

end

/-- A row that writes one constant runs the operation of its register. -/
theorem writeRow_runs (c : Origin → Instr) (key w : Nat) (s : State) (x : LaneId) (f : Lane → Lane) {m : Lane} {st : Nat}
    (hc : ∀ o, exec (c o) s = .next (writeRow o key w s)) (hk : key < 0x100000)
    (ha : addrStatus (.ofNat 32 (0x40000000 + key)) = 0) (h40 : 0x040 ≤ key % 0x1000)
    (hw : ((fieldsAt (key / 0x1000) (key % 0x1000)).any fun f => f.acc.writable) = true)
    (hop : ((s.lane x).closeLock (key / 0x1000)).writeOp s.hub true [] (key / 0x1000) (key % 0x1000) (.ofNat 32 w) = some (m, st))
    (hm : (f ((s.lane x).closeLock (key / 0x1000))).ReadsAs (m.postStatus (pageCode (key / 0x1000) st))) :
    WriteRuns c key (fun _ => .ofNat 32 w) s x f := by
  intro role hr acc
  have hlane : ((s.lane x).writeKey s.hub (.external role) [] key (.ofNat 32 w)).1 = m.postStatus (pageCode (key / 0x1000) st) := by
    rw [Lane.writeKey_at _ _ _ _ _ _ hk ha h40 hw acc, hop]
    cases st with
    | zero => exact (postStatus_ok m).symm
    | succ st => rfl
  obtain ⟨t, ht, hl, honly⟩ := regGives_onLanes _ s x (fun l => (l.writeKey s.hub (.external role) [] key (.ofNat 32 w)).1) _ (hc _) hr hlane
  rw [← hl] at hm
  exact ⟨t, _, ht, honly, rfl, hm.rest, fun k _ => hm.regs k⟩

end Sys2Proof.Machine
end

section
/-! Trace commands, FLUSH, FLUSHALL and CAP as written by a session (O14). -/

namespace Sys2Proof.Machine

/-! ### The trace (09_control_loops.md R234) -/

section
variable (l : Lane) (h : Hub)

theorem reg_clearTrace (k : Nat) : ({ l with trc := {} } : Lane).reg k = l.reg k := rfl

theorem toTrc_put {st : TrcState} (hst : st ≠ .done) : l.toTrc st = l.put R.TRC.STATE st.code := by
  rw [Lane.toTrc, decide_eq_false hst]
  rfl

/-- Clearing and moving the trace does not look at ERRC. -/
theorem readsAs_clearTrc_toTrc {st : TrcState} (hst : st ≠ .done) :
    ((l.clearTrc.toTrc st).setReg 0x1B01C 0).ReadsAs ((l.setReg 0x1B01C 0).clearTrc.toTrc st) := by
  rw [toTrc_put _ hst, toTrc_put _ hst]
  have hstate := readsAs_put_setReg l.clearTrc 0 st.code (show R.TRC.STATE.key ≠ 0x1B01C by decide)
  have htpos := readsAs_put_setReg (({ l with trc := {} } : Lane).put R.TRC.NSAMP 0) 0 0x1FFFF (show R.TRC.TPOS.key ≠ 0x1B01C by decide)
  have hnsamp := readsAs_put_setReg ({ l with trc := {} } : Lane) 0 0 (show R.TRC.NSAMP.key ≠ 0x1B01C by decide)
  exact hstate.trans ((htpos.trans (hnsamp.put _ _)).put _ _)

theorem clearTrc_toTrc_errc {st : TrcState} (hst : st ≠ .done) : (l.clearTrc.toTrc st).reg 0x1B01C = l.reg 0x1B01C := by
  have hkeep (m : Lane) (f : Fld) (v : Nat) (hf : f.key ≠ 0x1B01C) : (m.put f v).reg 0x1B01C = m.reg 0x1B01C :=
    Lane.reg_put_ne m f v _ hf.symm
  rw [toTrc_put _ hst, hkeep _ _ _ (by decide), Lane.clearTrc, hkeep _ _ _ (by decide), hkeep _ _ _ (by decide), reg_clearTrace]

theorem trcState_setErrc (w : Word) : (l.setReg 0x1B01C w).trcState = l.trcState := Lane.get_setReg_ne _ _ _ _ (by decide)

theorem trcRecording_setErrc (w : Word) : (l.setReg 0x1B01C w).trcRecording = l.trcRecording := by
  rw [Lane.trcRecording, Lane.trcRecording, trcState_setErrc]

theorem trcArm_idle (hr : l.trcRecording = false) :
    l.trcArm = l.clearTrc.toTrc (if l.get R.TRC.PRE = 0 then .armed else .fill) := if_neg (Bool.not_eq_true _ ▸ hr)

theorem trcArm_busy (hr : l.trcRecording = true) : l.trcArm = l.post 0x1B08 := if_pos hr

theorem trcRoll_idle (hr : l.trcRecording = false) : l.trcRoll = l.clearTrc.toTrc .roll := if_neg (Bool.not_eq_true _ ▸ hr)

theorem readsAs_trcArm_idle (hr : l.trcRecording = false) :
    ((l.clearTrc.toTrc (if l.get R.TRC.PRE = 0 then .armed else .fill)).setReg 0x1B01C 0).ReadsAs (l.setReg 0x1B01C 0).trcArm := by
  rw [trcArm_idle _ ((trcRecording_setErrc l 0).trans hr), Lane.get_setReg_ne _ R.TRC.PRE _ _ (by decide)]
  exact readsAs_clearTrc_toTrc l (by split_ifs <;> decide)

theorem readsAs_trcRoll_idle (hr : l.trcRecording = false) :
    ((l.clearTrc.toTrc .roll).setReg 0x1B01C 0).ReadsAs (l.setReg 0x1B01C 0).trcRoll := by
  rw [trcRoll_idle _ ((trcRecording_setErrc l 0).trans hr)]
  exact readsAs_clearTrc_toTrc l (by decide)

theorem trcRoll_busy (hr : l.trcRecording = true) : l.trcRoll = l.post 0x1B08 := if_pos hr

theorem trcFire_waits (hs : l.trcState = 1 ∨ l.trcState = 2) : l.trcFire = { l with trc := { l.trc with fire := true } } := if_pos hs

theorem trcStop_rolling (hs : l.trcState = 5) : l.trcStop = (l.put R.TRC.TPOS 0x1FFFF).toTrc .done := if_pos hs

theorem trcStop_recording (hr : l.trcRecording = true) (hs : l.trcState ≠ 5) :
    l.trcStop = { l with trc := { l.trc with stop := true } } := (if_neg hs).trans (if_pos hr)

variable (hT : l.enabled 0x1B = true) (hL : l.enabled 0x18 = true)
include hT hL

theorem writeOp_traceArm : l.writeOp h true [] 0x1B 0x044 1 = some (l.posting 0x1B Lane.trcArm) := by
  simp [Lane.writeOp, Lane.writeCompute, hT, hL]

theorem writeOp_traceFire : l.writeOp h true [] 0x1B 0x044 2 = some (l.trcFire, 0) := by
  simp [Lane.writeOp, Lane.writeCompute, hT, hL]

theorem writeOp_traceStop : l.writeOp h true [] 0x1B 0x044 4 = some (l.trcStop, 0) := by
  simp [Lane.writeOp, Lane.writeCompute, hT, hL]

theorem writeOp_traceRoll : l.writeOp h true [] 0x1B 0x044 8 = some (l.posting 0x1B Lane.trcRoll) := by
  have hst (r : Lane × Nat) : (r.1, if r.2 = 0 then 0 else r.2) = r := by
    obtain ⟨m, st⟩ := r
    cases st <;> rfl
  simp [Lane.writeOp, Lane.writeCompute, hT, hL, hst]

end

section
variable {s : State} {x : LaneId} (hT : (s.lane x).enabled 0x1B = true) (hL : (s.lane x).enabled 0x18 = true)
include hT hL

theorem traceArm_starts (hr : (s.lane x).trcRecording = false) : WriteRuns .traceArm 0x1B044 (fun _ => 1) s x
    (fun l => l.clearTrc.toTrc (if l.get R.TRC.PRE = 0 then .armed else .fill)) :=
  writeRow_runs _ 0x1B044 1 s x _ (fun _ => rfl) (by decide) (by decide) (by decide) (by decide)
    (writeOp_traceArm ((s.lane x).closeLock 0x1B) s.hub hT hL)
    (readsAs_posting_ok (page := 0x1B) (readsAs_trcArm_idle ((s.lane x).closeLock 0x1B) hr)
      (clearTrc_toTrc_errc ((s.lane x).closeLock 0x1B) (by split_ifs <;> decide)))

theorem traceRoll_starts (hr : (s.lane x).trcRecording = false) :
    WriteRuns .traceRoll 0x1B044 (fun _ => 8) s x (fun l => l.clearTrc.toTrc .roll) :=
  writeRow_runs _ 0x1B044 8 s x _ (fun _ => rfl) (by decide) (by decide) (by decide) (by decide)
    (writeOp_traceRoll ((s.lane x).closeLock 0x1B) s.hub hT hL)
    (readsAs_posting_ok (page := 0x1B) (readsAs_trcRoll_idle ((s.lane x).closeLock 0x1B) hr)
      (clearTrc_toTrc_errc ((s.lane x).closeLock 0x1B) (by decide)))

theorem traceArm_busy (hr : (s.lane x).trcRecording = true) :
    WriteRuns .traceArm 0x1B044 (fun _ => 1) s x (fun l => l.post 0x1B08) :=
  writeRow_runs _ 0x1B044 1 s x _ (fun _ => rfl) (by decide) (by decide) (by decide) (by decide)
    (writeOp_traceArm ((s.lane x).closeLock 0x1B) s.hub hT hL)
    (readsAs_posting_refused (page := 0x1B) (c := 8) (by decide) (by decide) (by decide)
      (trcArm_busy _ ((trcRecording_setErrc _ 0).trans hr)))

theorem traceRoll_busy (hr : (s.lane x).trcRecording = true) :
    WriteRuns .traceRoll 0x1B044 (fun _ => 8) s x (fun l => l.post 0x1B08) :=
  writeRow_runs _ 0x1B044 8 s x _ (fun _ => rfl) (by decide) (by decide) (by decide) (by decide)
    (writeOp_traceRoll ((s.lane x).closeLock 0x1B) s.hub hT hL)
    (readsAs_posting_refused (page := 0x1B) (c := 8) (by decide) (by decide) (by decide)
      (trcRoll_busy _ ((trcRecording_setErrc _ 0).trans hr)))

theorem traceFire_gives {f : Lane → Lane} (hf : ((s.lane x).closeLock 0x1B).trcFire = f ((s.lane x).closeLock 0x1B)) :
    WriteGives .traceFire 0x1B044 (fun _ => 2) s x f :=
  writeRow_gives _ 0x1B044 2 s x f (fun _ => rfl) (by decide) (by decide) (by decide) (by decide)
    ((writeOp_traceFire ((s.lane x).closeLock 0x1B) s.hub hT hL).trans (by rw [hf]))

theorem traceStop_gives {f : Lane → Lane} (hf : ((s.lane x).closeLock 0x1B).trcStop = f ((s.lane x).closeLock 0x1B)) :
    WriteGives .traceStop 0x1B044 (fun _ => 4) s x f :=
  writeRow_gives _ 0x1B044 4 s x f (fun _ => rfl) (by decide) (by decide) (by decide) (by decide)
    ((writeOp_traceStop ((s.lane x).closeLock 0x1B) s.hub hT hL).trans (by rw [hf]))

end

/-! ### Flushes and capacities of queues (19_queues.md R424, R431) -/

section
variable (l : Lane) (h : Hub) {q : Nat} (h8 : 8 ≤ q) (h55 : q ≤ 55)

theorem flush_empty : Queue.flush {} = {} := rfl

theorem queue_setQueue_flush (k : Nat) :
    (l.setQueue q (l.queue q).flush).queue k = if k = q then (l.queue k).flush else l.queue k := by
  by_cases hk : k = q
  · subst hk
    rw [if_pos rfl]
    by_cases hlen : k < l.queues.length
    · simp [Lane.setQueue, Lane.queue, List.getD, hlen]
    · have hnone : l.queue k = {} := by simp [Lane.queue, List.getD, Nat.le_of_not_lt hlen]
      rw [hnone, flush_empty]
      simp [Lane.setQueue, Lane.queue, List.getD, Nat.le_of_not_lt hlen]
  · simp [Lane.setQueue, Lane.queue, List.getD, List.getElem?_set_ne (Ne.symm hk), hk]

theorem reg_setQueue (u : Queue) (k : Nat) : (l.setQueue q u).reg k = l.reg k := rfl

include h8 h55 in
theorem flushQueue_pool : l.flushQueue q = l.setQueue q (l.queue q).flush := if_pos ⟨h8, h55⟩

include h8 h55 in
/-- A flush does not look at ERRC. -/
theorem readsAs_flushQueue (w : Word) :
    ((l.setQueue q (l.queue q).flush).setReg 0x3401C w).ReadsAs ((l.setReg 0x3401C w).flushQueue q) := by
  rw [flushQueue_pool _ h8 h55]
  exact Lane.ReadsAs.refl _

/-- Flushes of the pool's queues in order, each once. -/
theorem flushQueues_pool (n : Nat) (hn : n ≤ 48) :
    let m := (List.range n).foldl (fun (l : Lane) i => l.flushQueue (8 + i)) l
    m = { l with queues := m.queues } ∧ ∀ k, m.queue k = if 8 ≤ k ∧ k < 8 + n then (l.queue k).flush else l.queue k := by
  induction n with
  | zero => exact ⟨rfl, fun k => (if_neg (by omega)).symm⟩
  | succ n ih =>
    obtain ⟨hrest, hqueue⟩ := ih (by omega)
    simp only [List.range_succ, List.foldl_append, List.foldl_cons, List.foldl_nil]
    generalize (List.range n).foldl (fun (l : Lane) i => l.flushQueue (8 + i)) l = m at hrest hqueue ⊢
    rw [flushQueue_pool m (by omega) (by omega)]
    refine ⟨congrArg (fun u : Lane => { u with queues := m.queues.set (8 + n) (m.queue (8 + n)).flush }) hrest, fun k => ?_⟩
    rw [queue_setQueue_flush, hqueue k]
    by_cases hk : k = 8 + n
    · rw [if_pos hk, if_neg (by omega), if_pos (by omega)]
    · rw [if_neg hk]
      exact if_congr (by omega) rfl rfl

theorem writeOp_flush (hQ : l.enabled 0x34 = true) : l.writeOp h true [] 0x34 0x078 1 =
    some (l.posting 0x34 fun m => m.flushQueue (l.get R.QMG.QSEL)) := by
  simp [Lane.writeOp, Lane.writePeriph, hQ]

theorem writeOp_flushall (hQ : l.enabled 0x34 = true) : l.writeOp h true [] 0x34 0x078 2 = some (l.flushAll, 0) := by
  simp [Lane.writeOp, Lane.writePeriph, hQ]

theorem writeOp_cap (w : Word) : l.writeOp h true [] 0x34 0x04C w = some (l.writeCap (l.get R.QMG.QSEL) (bits w 14 0)) := by
  simp [Lane.writeOp, Lane.writePeriph]

section
variable {v : Nat} (h1 : v ≠ 1) (hmax : v ≤ 16384) (hheld : (l.queue q).held = 0) (hitems : (l.queue q).items = [])
variable (hpool : ((l.queues.drop 8).take 48).foldl (fun n u => n + u.cap) 0 - (l.queue q).cap + v ≤ 49152)
include h8 h55 h1 hmax hheld hitems hpool

/-- A capacity of an empty queue that is in range and fits the pool. -/
theorem writeCap_fits : l.writeCap q v =
    if v = 0 then ((l.setQueue q { l.queue q with cap := 0, free := 0, full := true }).irqIf (!(l.queue q).full) R.QMG.I_FULL, 0)
    else (l.setQueue q { l.queue q with cap := v }, 0) := by
  rw [Lane.writeCap, if_neg (by omega), if_neg (by omega), if_neg (by omega), if_neg (by simp [hheld, hitems])]

end

end

section
variable {s : State} {x : LaneId}

theorem flush_runs (hQ : (s.lane x).enabled 0x34 = true) {q : Nat} (hq : ((s.lane x).closeLock 0x34).get R.QMG.QSEL = q)
    (h8 : 8 ≤ q) (h55 : q ≤ 55) :
    WriteRuns .flush 0x34078 (fun _ => 1) s x (fun l => l.setQueue q (l.queue q).flush) := by
  have hop := writeOp_flush ((s.lane x).closeLock 0x34) s.hub hQ
  rw [hq] at hop
  exact writeRow_runs _ 0x34078 1 s x _ (fun _ => rfl) (by decide) (by decide) (by decide) (by decide) hop
    (readsAs_posting_ok (page := 0x34) (f := fun m => m.flushQueue q) (readsAs_flushQueue ((s.lane x).closeLock 0x34) h8 h55 0)
      (reg_setQueue ((s.lane x).closeLock 0x34) _ _))

theorem flushall_gives (hQ : (s.lane x).enabled 0x34 = true) : WriteGives .flushall 0x34078 (fun _ => 2) s x Lane.flushAll :=
  writeRow_gives _ 0x34078 2 s x _ (fun _ => rfl) (by decide) (by decide) (by decide) (by decide)
    (writeOp_flushall ((s.lane x).closeLock 0x34) s.hub hQ)

theorem capWrite_gives {v : Word} {f : Lane → Lane}
    (hf : ((s.lane x).closeLock 0x34).writeCap ((s.lane x).get R.QMG.QSEL) (bits v 14 0) = (f ((s.lane x).closeLock 0x34), 0)) :
    WriteGives (fun o => .capWrite o v) 0x3404C (fun _ => v) s x f :=
  writeRow_givesWord _ 0x3404C v s x f (fun _ => rfl) (by decide) (by decide) (by decide) (by decide)
    ((writeOp_cap ((s.lane x).closeLock 0x34) s.hub v).trans (congrArg some hf))

end

/-- Settles O14: each command by its operation, and what an operation that passes ERRC posts or does not post. -/
theorem traceAndQueueCommands : Obligations.TraceAndQueueCommands := by
  intro s x v q
  refine ⟨fun hT hL => ⟨fun hr => ⟨traceArm_starts hT hL hr, traceRoll_starts hT hL hr⟩,
      fun hs => traceFire_gives hT hL (trcFire_waits _ hs), fun hr => ⟨traceArm_busy hT hL hr, traceRoll_busy hT hL hr⟩,
      fun hr hs => traceStop_gives hT hL (trcStop_recording _ hr hs), fun hs => traceStop_gives hT hL (trcStop_rolling _ hs)⟩,
    fun hQ => ⟨fun h8 h55 => flush_runs hQ rfl h8 h55, fun role hr acc => ?flushall⟩,
    fun h8 h55 h1 hmax hheld hitems hpool => ?cap⟩
  case flushall =>
    obtain ⟨t, ht, hlane, honly⟩ := flushall_gives hQ role hr acc
    obtain ⟨hrest, hqueue⟩ := flushQueues_pool ((s.lane x).closeLock 0x34) 48 le_rfl
    refine ⟨t, ht, honly, ?_, fun k => ?_⟩
    · rw [hlane]
      exact hrest
    · rw [hlane]
      exact (hqueue k).trans (if_congr (by omega) rfl rfl)
  case cap =>
    have hcap := writeCap_fits ((s.lane x).closeLock 0x34) h8 h55 h1 hmax hheld hitems hpool
    refine ⟨fun h0 => capWrite_gives (hcap.trans (if_neg h0)), fun h0 => capWrite_gives ((hcap.trans (if_pos h0)).trans ?_)⟩
    show (Lane.irqIf _ (!((s.lane x).queue q).full) _, 0) = (if ((s.lane x).queue q).full then _ else _, 0)
    cases ((s.lane x).queue q).full <;> rfl

end Sys2Proof.Machine
end

section
/-! END of an Enesque section (O53). -/

namespace Sys2Proof.Machine

/-- END where nothing is nested: the section is closed, charged and copied out, and the task's cycle moves on (R239). -/
theorem enqEnd_closes {v : EnqEnv} {k l m : Lane} (hstk : (k.enqCtx v.task).stk = [])
    (hl : l = ((k.closeItems v.exe v.task).charge v.exe v.task 2).copyOut v.task)
    (hm : m = l.setExe v.exe { l.exe v.exe with cur := none }) :
    enqEnd v 0 0 k = .ok (if (m.task v.task).ph = .feed then m.setTask v.task { m.task v.task with ph := .feedDone }
      else m.endCycle v.task, 0) := by
  have hnest : ¬(k.enqCtx v.task).stk ≠ [] := not_not_intro hstk
  subst hl hm
  simp only [enqEnd, noOperand, and_self, if_true, if_neg hnest, bind, Except.bind, pure, Except.pure]
  split <;> rfl

/-- Settles O53: the stack stands as before the instruction, and END finds it empty. -/
theorem enqEndClosesSection : Obligations.EnqEndClosesSection := by
  intro s x e n l m h hstk hl hm
  have hctx : ((s.pcOn x n).enqCtx n).stk = [] := by
    rw [pcOn_ctx h]
    exact hstk
  exact enqGives_of_sem h rfl rfl (enqEnd_closes (v := enqEnv s e n) hctx hl hm)

end Sys2Proof.Machine
end

section
/-! RUN, STOP, HOLD and FLTACK as written by a session (O15). -/

namespace Sys2Proof.Machine

/-! ### Operations of the program page on lanes that read alike -/

section
variable {l m : Lane} (h : l.ReadsAs m)
include h

theorem Lane.ReadsAs.prg : m.prg = l.prg := by rw [h.rest]

theorem Lane.ReadsAs.withPrg {p q : Program} (hpq : q = p) : ({ l with prg := p } : Lane).ReadsAs { m with prg := q } :=
  ⟨by rw [h.rest, hpq], h.regs⟩

theorem Lane.ReadsAs.fno : m.fno = l.fno := by simp only [Lane.fno, Lane.get64, Lane.get, h.regs]

theorem Lane.ReadsAs.markTimers : l.markTimers.ReadsAs m.markTimers := h.withPrg (by rw [h.prg, h.fno])

end

/-! ### The operations do not look at ERRC -/

/-- What STOP makes of the program (10_cyclic_programs.md R248). -/
def Program.atStop (p : Program) : Program :=
  { p with
    tasks := p.tasks.map Task.abandon, entry := none, heldFor := 0, stopped := true
    e4 := { p.e4 with cur := none, faulted := false, dlist := none }
    e5 := { p.e5 with cur := none, faulted := false, dlist := none } }

/-- LASTF of every timer is the frame, in both executors (11_enesque_instructions.md R266). -/
def Executor.markedAt (e : Executor) (fno : Nat) : Executor :=
  { e with timers := e.timers.map fun p => (p.1, { p.2 with lastf := fno }) }

def Program.markedAt (p : Program) (fno : Nat) : Program :=
  { p with runSince := fno, e4 := p.e4.markedAt fno, e5 := p.e5.markedAt fno }

/-- What an entry to RUN makes of the program once its timers are marked. -/
def Program.atRun (p : Program) (kind : Nat) : Program := { p with entry := some kind, heldFor := 0, stopped := false }

/-- HOLD from RUN, where it is permitted. -/
def Lane.enterHold (l : Lane) : Lane := { l.setPrgMode .hold with prg := { (l.setPrgMode .hold).prg with heldFor := 0 } }

section
variable (l : Lane) (w : Word)

theorem setReg_withPrg (k : Nat) (p : Program) : ({ l with prg := p } : Lane).setReg k w = { l.setReg k w with prg := p } := rfl

theorem reg_withPrg (k : Nat) (p : Program) : ({ l with prg := p } : Lane).reg k = l.reg k := rfl

theorem setPrgMode_eq (md : PrgMode) : l.setPrgMode md =
    ({ l.irqIf (decide (l.prg.mode ≠ md)) R.PRG.I_MODECHG with
      prg := { (l.irqIf (decide (l.prg.mode ≠ md)) R.PRG.I_MODECHG).prg with mode := md } } : Lane).put R.PRG.MODE md.code := rfl

theorem prgToStop_eq : l.prgToStop = { l.setPrgMode .stop with prg := (l.setPrgMode .stop).prg.atStop } := rfl

theorem markTimers_eq : l.markTimers = { l with prg := l.prg.markedAt l.fno } := rfl

theorem enterRun_eq (kind : Nat) : l.enterRun kind =
    { (l.setPrgMode .run).markTimers with prg := (l.setPrgMode .run).markTimers.prg.atRun kind } := rfl

/-- An event sets its bit beside a write of a register that is neither IRQS nor IRQE of its page. -/
theorem readsAs_irqBit_setReg {page b k : Nat} (hs : k ≠ page * 0x1000 + 0x010) (he : k ≠ page * 0x1000 + 0x014) :
    ((l.irqBit page b).setReg k w).ReadsAs ((l.setReg k w).irqBit page b) := by
  have hregs (j : Nat) : ((l.setReg k w).irqBit page b).reg j = ((l.irqBit page b).setReg k w).reg j := by
    simp only [Lane.irqBit_reg, Lane.reg_setReg]
    split_ifs with hj hk
    · exact absurd (hk.symm.trans hj) hs
    all_goals rfl
  have hline : ((l.setReg k w).irqBit page b).irqLine page = (l.irqBit page b).irqLine page := by
    simp only [Lane.irqLine, hregs, Lane.reg_setReg_ne _ _ _ _ hs.symm, Lane.reg_setReg_ne _ _ _ _ he.symm]
  have hold : (l.setReg k w).irqLine page = l.irqLine page := by
    simp only [Lane.irqLine, Lane.reg_setReg_ne _ _ _ _ hs.symm, Lane.reg_setReg_ne _ _ _ _ he.symm]
  have hrose (now : Word) : (l.setReg k w).roseWith page now = l.roseWith page now := by
    unfold Lane.roseWith
    rw [hold]
    rfl
  refine ⟨(irqBit_eq (l.setReg k w) page b).trans ?_, hregs⟩
  rw [hrose, hline]
  rfl

theorem readsAs_irqIf_setErrc (c : Bool) {f : Fld} (hf : f.page = 0x1C) :
    ((l.irqIf c f).setReg 0x1C01C w).ReadsAs ((l.setReg 0x1C01C w).irqIf c f) := by
  cases c with
  | false => exact Lane.ReadsAs.refl _
  | true => exact readsAs_irqBit_setReg l w (by rw [hf]; decide) (by rw [hf]; decide)

theorem readsAs_setPrgMode (md : PrgMode) : ((l.setPrgMode md).setReg 0x1C01C w).ReadsAs ((l.setReg 0x1C01C w).setPrgMode md) := by
  have hirq := readsAs_irqIf_setErrc l w (decide (l.prg.mode ≠ md)) (f := R.PRG.I_MODECHG) rfl
  rw [setPrgMode_eq, setPrgMode_eq, Lane.setReg_prg]
  refine (readsAs_put_setReg _ w md.code (by decide)).trans (Lane.ReadsAs.put ?_ _ _)
  rw [setReg_withPrg]
  exact hirq.withPrg (by rw [hirq.prg, Lane.setReg_prg])

theorem readsAs_prgToStop : (l.prgToStop.setReg 0x1C01C w).ReadsAs (l.setReg 0x1C01C w).prgToStop := by
  have hmode := readsAs_setPrgMode l w .stop
  rw [prgToStop_eq, prgToStop_eq, setReg_withPrg]
  exact hmode.withPrg (by rw [hmode.prg, Lane.setReg_prg])

/-- Every timer is marked with the frame, which ERRC does not hold. -/
theorem readsAs_markTimers : (l.markTimers.setReg 0x1C01C w).ReadsAs (l.setReg 0x1C01C w).markTimers := by
  have hfno : (l.setReg 0x1C01C w).fno = l.fno := by
    unfold Lane.fno Lane.get64
    rw [Lane.get_setReg_ne _ _ _ _ (by decide), Lane.get_setReg_ne _ _ _ _ (by decide)]
  rw [markTimers_eq, markTimers_eq, setReg_withPrg, hfno, Lane.setReg_prg]
  exact Lane.ReadsAs.refl _

theorem readsAs_enterRun (kind : Nat) : ((l.enterRun kind).setReg 0x1C01C w).ReadsAs ((l.setReg 0x1C01C w).enterRun kind) := by
  have hmark := (readsAs_markTimers (l.setPrgMode .run) w).trans (readsAs_setPrgMode l w .run).markTimers
  rw [enterRun_eq, enterRun_eq, setReg_withPrg]
  exact hmark.withPrg (by rw [hmark.prg, Lane.setReg_prg])

theorem readsAs_enterHold : (l.enterHold.setReg 0x1C01C w).ReadsAs (l.setReg 0x1C01C w).enterHold := by
  have hmode := readsAs_setPrgMode l w .hold
  unfold Lane.enterHold
  rw [setReg_withPrg]
  exact hmode.withPrg (by rw [hmode.prg, Lane.setReg_prg])

theorem irqIf_errc (c : Bool) (f : Fld) : (l.irqIf c f).reg 0x1C01C = l.reg 0x1C01C := by
  cases c with
  | false => rfl
  | true => exact Lane.irqBit_reg_ne l _ _ _ (by omega)

theorem setPrgMode_errc (md : PrgMode) : (l.setPrgMode md).reg 0x1C01C = l.reg 0x1C01C := by
  rw [setPrgMode_eq, Lane.reg_put_ne _ _ _ _ (by decide), reg_withPrg, irqIf_errc]

theorem prgToStop_errc : l.prgToStop.reg 0x1C01C = l.reg 0x1C01C := by rw [prgToStop_eq, reg_withPrg, setPrgMode_errc]

theorem enterRun_errc (kind : Nat) : (l.enterRun kind).reg 0x1C01C = l.reg 0x1C01C := by
  rw [enterRun_eq, reg_withPrg, markTimers_eq, reg_withPrg, setPrgMode_errc]

theorem enterHold_errc : l.enterHold.reg 0x1C01C = l.reg 0x1C01C := by rw [Lane.enterHold, reg_withPrg, setPrgMode_errc]

theorem enabled_setErrc : (l.setReg 0x1C01C w).enabled 0x1C = l.enabled 0x1C := by
  rw [Lane.enabled, Lane.enabled, Lane.reg_setReg_ne _ _ _ _ (by decide)]
  rfl

theorem on_of_get {l m : Lane} {f : Fld} (h : m.get f = l.get f) : m.on f = l.on f := by rw [Lane.on, Lane.on, h]

theorem on_setErrc {f : Fld} (hf : f.key ≠ 0x1C01C) : (l.setReg 0x1C01C w).on f = l.on f := on_of_get (Lane.get_setReg_ne _ _ _ _ hf)

/-! ### What the commands do (10_cyclic_programs.md R248, Table PRG-6) -/

variable (hE : l.enabled 0x1C = true)
include hE

theorem cmdRun_fromStop (hm : l.prg.mode = .stop) (hf : l.on R.PRG.FAULT = false) (hp : l.on R.PRG.PRESENT = true) :
    l.cmdRun = l.enterRun 3 := by
  simp [Lane.cmdRun, hE, hm, hf, Lane.hasProgram, hp]

theorem cmdRun_fromHold (hm : l.prg.mode = .hold) : l.cmdRun = l.enterRun 3 := by simp [Lane.cmdRun, hE, hm]

theorem cmdStop_moves (hm : l.prg.mode ≠ .stop) : l.cmdStop = l.prgToStop := by simp [Lane.cmdStop, hE, hm]

theorem cmdHold_permitted (hm : l.prg.mode = .run) (hp : l.on R.PRG.HOLDEN = true ∨ l.lifeCycle = 3) : l.cmdHold = l.enterHold := by
  simp [Lane.cmdHold, hE, hm, hp, Lane.enterHold]

theorem fltAck_clears (hm : l.prg.mode = .stop) : l.fltAck = l.put R.PRG.FAULT 0 := by simp [Lane.fltAck, hE, hm]

end

section
variable (l : Lane) (h : Hub)

theorem writeOp_prgRun : l.writeOp h true [] 0x1C 0x044 1 = some (l.posting 0x1C Lane.cmdRun) := by
  simp [Lane.writeOp, Lane.writeProgram, bits]

theorem writeOp_prgStop : l.writeOp h true [] 0x1C 0x044 2 = some (l.posting 0x1C Lane.cmdStop) := by
  simp [Lane.writeOp, Lane.writeProgram, bits]

theorem writeOp_prgHold : l.writeOp h true [] 0x1C 0x044 3 = some (l.posting 0x1C Lane.cmdHold) := by
  simp [Lane.writeOp, Lane.writeProgram, bits]

theorem writeOp_fltack : l.writeOp h true [] 0x1C 0x048 1 = some (l.posting 0x1C Lane.fltAck) := by
  simp [Lane.writeOp, Lane.writeProgram]

end

section
variable {s : State} {x : LaneId}

/-- A program command whose operation `g` does here what `f` does, where `f` does not look at ERRC. -/
theorem prgCommand_runs {c : Origin → Instr} {key w : Nat} {f g : Lane → Lane} (hc : ∀ o, exec (c o) s = .next (writeRow o key w s))
    (hkey : key = 0x1C044 ∨ key = 0x1C048)
    (hop : ((s.lane x).closeLock 0x1C).writeOp s.hub true [] 0x1C (key % 0x1000) (.ofNat 32 w) =
      some (((s.lane x).closeLock 0x1C).posting 0x1C g))
    (hg : g (((s.lane x).closeLock 0x1C).setReg 0x1C01C 0) = f (((s.lane x).closeLock 0x1C).setReg 0x1C01C 0))
    (hf : ∀ l : Lane, ((f l).setReg 0x1C01C 0).ReadsAs (f (l.setReg 0x1C01C 0))) (hk : ∀ l : Lane, (f l).reg 0x1C01C = l.reg 0x1C01C) :
    WriteRuns c key (fun _ => .ofNat 32 w) s x f := by
  have hpage : ((f ((s.lane x).closeLock 0x1C)).setReg (0x1C * 0x1000 + 0x01C) 0).ReadsAs
      (g (((s.lane x).closeLock 0x1C).setReg (0x1C * 0x1000 + 0x01C) 0)) := by
    rw [hg]
    exact hf _
  have hm := readsAs_posting_ok (page := 0x1C) (f := g) hpage (hk _)
  rcases hkey with rfl | rfl
  · exact writeRow_runs c 0x1C044 w s x f hc (by decide) (by decide) (by decide) (by decide) hop hm
  · exact writeRow_runs c 0x1C048 w s x f hc (by decide) (by decide) (by decide) (by decide) hop hm

end

/-- Settles O15: each command in the mode in which it acts, by what its operation does whatever ERRC holds. -/
theorem programModeCommands : Obligations.ProgramModeCommands := by
  intro s x hE
  let l := (s.lane x).closeLock 0x1C
  have hE' : (l.setReg 0x1C01C 0).enabled 0x1C = true := (enabled_setErrc l 0).trans hE
  have hrun (hg : (l.setReg 0x1C01C 0).cmdRun = (l.setReg 0x1C01C 0).enterRun 3) :
      WriteRuns .prgRun 0x1C044 (fun _ => 1) s x (fun l => l.enterRun 3) :=
    prgCommand_runs (fun _ => rfl) (.inl rfl) (writeOp_prgRun l s.hub) hg (fun l => readsAs_enterRun l 0 3) fun l => enterRun_errc l 3
  refine ⟨fun hm hf hp => ?fromStop, fun hm => ?fromHold, fun hm => ?stop, fun hm hp => ?hold, fun hm => ?fltack⟩
  case fromStop =>
    exact hrun (cmdRun_fromStop _ hE' hm ((on_setErrc l 0 (by decide)).trans hf) ((on_setErrc l 0 (by decide)).trans hp))
  case fromHold => exact hrun (cmdRun_fromHold _ hE' hm)
  case stop =>
    exact prgCommand_runs (fun _ => rfl) (.inl rfl) (writeOp_prgStop l s.hub) (cmdStop_moves _ hE' hm)
      (fun l => readsAs_prgToStop l 0) prgToStop_errc
  case hold =>
    have hperm : (l.setReg 0x1C01C 0).on R.PRG.HOLDEN = true ∨ (l.setReg 0x1C01C 0).lifeCycle = 3 := by
      rwa [on_setErrc l 0 (by decide)]
    exact prgCommand_runs (fun _ => rfl) (.inl rfl) (writeOp_prgHold l s.hub) (cmdHold_permitted _ hE' hm hperm)
      (fun l => readsAs_enterHold l 0) enterHold_errc
  case fltack =>
    exact prgCommand_runs (fun _ => rfl) (.inr rfl) (writeOp_fltack l s.hub) (fltAck_clears _ hE' hm)
      (fun l => readsAs_put_setReg l 0 0 (by decide)) fun l => Lane.reg_put_ne l _ _ _ (by decide)

end Sys2Proof.Machine
end

section
/-! Writes of VVAL and commands to the force table (O16). -/

namespace Sys2Proof.Machine

/-! ### The force table (10_cyclic_programs.md R251) -/

/-- The entry that FCMD 1 applies: the target and value of the selection, with the frame. -/
def Lane.forceSelected (l : Lane) : Force := ⟨l.get R.FRC.FKIND, l.get R.FRC.FBIT, l.get R.FRC.FADDR, l.getW R.FRC.FVAL, l.fno⟩

section
variable (l : Lane) (h : Hub)

/-- An entry whose target is valid, that no other entry holds and that does not move. -/
theorem forceApply_fits {i : Nat} {f : Force} (hf : f = l.forceSelected) (hk : f.kind ≠ 0) (hok : l.forceTargetOk f = true)
    (hclash : ∀ p ∈ l.prg.forces, p.1 = i ∨ (p.2.sameTarget f = false ∧
      ¬(p.2.addr = f.addr ∧ (p.2.kind = 1 ∧ f.kind = 2 ∨ p.2.kind = 2 ∧ f.kind = 1))))
    (hsame : ∀ p ∈ l.prg.forces, p.1 = i → p.2.sameTarget f = true) :
    l.forceApply i = (l.forceChanged (kvInsert l.prg.forces i f) 1, 0) := by
  have hfree : ¬(l.prg.forces.any fun p => p.1 != i &&
      (p.2.sameTarget f || (p.2.addr == f.addr && ((p.2.kind == 1 && f.kind == 2) || (p.2.kind == 2 && f.kind == 1))))) = true := by
    simp only [List.any_eq_true, not_exists, not_and]
    intro p hp
    rcases hclash p hp with hi | ⟨hst, hbit⟩
    · simp [hi]
    · simp only [hst, Bool.false_or, Bool.and_eq_true, Bool.or_eq_true, beq_iff_eq]
      exact fun hc => hbit hc.2
  unfold Lane.forceApply
  rw [← Lane.forceSelected, ← hf]
  dsimp only
  rw [if_neg hk, if_neg hfree, if_neg (by simp [hok])]
  split
  next p hfind =>
    rw [if_pos (hsame p (List.mem_of_find?_eq_some hfind) (by simpa using List.find?_some hfind))]
  next => rfl

theorem forceRelease_held {i : Nat} (hi : ∃ p ∈ l.prg.forces, p.1 = i) :
    l.forceRelease i = (l.forceChanged (kvErase l.prg.forces i) 1, 0) := by
  refine if_pos ?_
  simpa using hi

section
variable (hF : l.enabled 0x1D = true) (hP : l.forcePermitted = true)
include hF hP

theorem writeOp_forceApply : l.writeOp h true [] 0x1D 0x054 1 = some (l.forceApply (l.get R.FRC.FSEL)) := by
  simp [Lane.writeOp, Lane.writeProgram, hF, hP, bits]

theorem writeOp_forceRelease : l.writeOp h true [] 0x1D 0x054 2 = some (l.forceRelease (l.get R.FRC.FSEL)) := by
  simp [Lane.writeOp, Lane.writeProgram, hF, hP, bits]

theorem writeOp_forceReleaseAll : l.writeOp h true [] 0x1D 0x054 3 = some (l.forceReleaseAll, 0) := by
  simp [Lane.writeOp, Lane.writeProgram, hF, hP, bits]

end

/-! ### On-line change (10_cyclic_programs.md R253) -/

theorem overlay_setExe (n : Nat) (e : Executor) : (l.setExe n e).prg.overlay = l.prg.overlay := by
  unfold Lane.setExe Program.setExe
  split <;> rfl

section
variable {sel o n : Nat} {w : Word} {e : Executor} (hn : n = 2 ^ (sel / 2 ^ 22 % 4)) (he : e = l.exe (4 + sel / 2 ^ 21 % 2))
variable (ho : o = sel % 2 ^ 20) (halign : o % n = 0) (hw : w.toNat < 2 ^ (8 * n))
include hn he ho halign hw

/-- A value that fits a variable is stored. -/
theorem writeVval_variable (harea : sel / 2 ^ 24 % 2 = 0) (hfit : o + n ≤ e.decl.vsize) :
    l.writeVval sel w = (((l.setExe (4 + sel / 2 ^ 21 % 2) { e with vars := writeArea e.vars o n w.toNat }).inc R.PRG.ONLCNT).irq
      R.PRG.I_ONLCHG, 0) := by
  subst hn he ho
  unfold Lane.writeVval
  dsimp only
  rw [if_pos harea, if_pos harea, if_neg (by omega), if_neg (by omega)]

/-- A value that fits a constant is stored, with an entry of the overlay where there is none. -/
theorem writeVval_constant {entry : Overlay} (hentry : entry = ⟨4 + sel / 2 ^ 21 % 2, sel / 2 ^ 22 % 4, o⟩)
    (harea : sel / 2 ^ 24 % 2 = 1) (hfit : o + n ≤ e.decl.ksize) (hroom : entry ∈ l.prg.overlay ∨ l.retainLen + 12 ≤ 196608)
    {m : Lane} (hm : m = l.setExe (4 + sel / 2 ^ 21 % 2) { e with konst := writeArea e.konst o n w.toNat }) :
    l.writeVval sel w = ((({ m with prg := { m.prg with
      overlay := if entry ∈ m.prg.overlay then m.prg.overlay else m.prg.overlay ++ [entry] } } : Lane).inc R.PRG.ONLCNT).irq
      R.PRG.I_ONLCHG, 0) := by
  have hover : m.prg.overlay = l.prg.overlay := by rw [hm, overlay_setExe]
  have hneg : ¬sel / 2 ^ 24 % 2 = 0 := by omega
  subst hn he ho
  unfold Lane.writeVval
  dsimp only
  rw [if_neg hneg, if_neg hneg, if_neg (by omega), if_neg (by omega), ← hm, ← hentry]
  by_cases hin : entry ∈ l.prg.overlay
  · rw [if_neg (by simp [hin]), if_neg (by simp [hin]), hover, if_pos hin, ← hover]
  · rw [if_neg (by have := hroom.resolve_left hin; omega), if_pos (by simpa using hin), hover, if_neg hin]

end

theorem writeOp_vval (hE : l.enabled 0x1C = true) (w : Word) :
    l.writeOp h true [] 0x1C 0x0A0 w = some (l.writeVval (l.reg 0x1C09C).toNat w) := by
  simp [Lane.writeOp, Lane.writeProgram, hE]

end

section
variable {s : State} {x : LaneId}

theorem vvalWrite_gives (hE : (s.lane x).enabled 0x1C = true) {w : Word} {f : Lane → Lane}
    (hf : ((s.lane x).closeLock 0x1C).writeVval ((s.lane x).reg 0x1C09C).toNat w = (f ((s.lane x).closeLock 0x1C), 0)) :
    WriteGives (fun o => .vvalWrite o w) 0x1C0A0 (fun _ => w) s x f :=
  writeRow_givesWord _ 0x1C0A0 w s x f (fun _ => rfl) (by decide) (by decide) (by decide) (by decide)
    ((writeOp_vval ((s.lane x).closeLock 0x1C) s.hub hE w).trans (congrArg some hf))

/-- A command of the force table. -/
theorem forceCommand_gives {c : Origin → Instr} {k : Nat} {f : Lane → Lane} (hc : ∀ o, exec (c o) s = .next (writeRow o 0x1D054 k s))
    (hop : ((s.lane x).closeLock 0x1D).writeOp s.hub true [] 0x1D 0x054 (.ofNat 32 k) = some (f ((s.lane x).closeLock 0x1D), 0)) :
    WriteGives c 0x1D054 (fun _ => .ofNat 32 k) s x f :=
  writeRow_gives _ 0x1D054 k s x f hc (by decide) (by decide) (by decide) (by decide) hop

end

/-- Settles O16: each write by the case of its operation. -/
theorem variableWritesAndForces : Obligations.VariableWritesAndForces := by
  intro s x v sel n exe off e entry
  refine ⟨fun hE halign hv => ⟨fun harea hfit => ?var, fun harea hfit hroom => ?konst⟩,
    fun hF hP => ⟨fun hk hok hclash hsame => ?apply, fun hi => ?release, ?releaseAll⟩⟩
  case var =>
    exact vvalWrite_gives hE (writeVval_variable ((s.lane x).closeLock 0x1C) (sel := sel) (e := e) rfl rfl rfl halign hv harea hfit)
  case konst =>
    exact vvalWrite_gives hE
      (writeVval_constant ((s.lane x).closeLock 0x1C) (sel := sel) (e := e) rfl rfl rfl halign hv rfl harea hfit hroom rfl)
  case apply =>
    exact forceCommand_gives (fun _ => rfl) ((writeOp_forceApply ((s.lane x).closeLock 0x1D) s.hub hF hP).trans
      (congrArg some (forceApply_fits ((s.lane x).closeLock 0x1D) rfl hk hok hclash hsame)))
  case release =>
    exact forceCommand_gives (fun _ => rfl) ((writeOp_forceRelease ((s.lane x).closeLock 0x1D) s.hub hF hP).trans
      (congrArg some (forceRelease_held ((s.lane x).closeLock 0x1D) hi)))
  case releaseAll =>
    exact forceCommand_gives (fun _ => rfl) (writeOp_forceReleaseAll ((s.lane x).closeLock 0x1D) s.hub hF hP)

end Sys2Proof.Machine
end

section
/-! Waits that have run out (O40). -/

namespace Sys2Proof.Machine

/-! ### Stale inputs (13_heat_metering_pulses.md R303, 21_field_ports.md R464) -/

section
variable (l : Lane) {n : Nat}

theorem rtdStale_early (h : l.heat.sinceRtd < 300) : l.rtdStale = l := if_pos h

/-- After 300 frames every enabled point without a result shows TSTALE. -/
theorem rtdStale_marks (h : 300 ≤ l.heat.sinceRtd) {i : Nat} (hi : i < l.heat.hps.length) (hon : (l.heat.hpCfg.getD i {}).on = true) :
    (l.rtdStale.heat.hps.getD i {}).tstale = true := by
  rw [Lane.rtdStale, if_neg (by omega), Lane.irqIf_heat, List.getD_eq_getElem?_getD]
  dsimp only
  rw [List.getElem?_mapIdx, List.getElem?_eq_getElem hi, Option.map_some, Option.getD_some]
  cases ht : l.heat.hps[i].tstale with
  | true => rw [if_neg (by simp), ht]
  | false => rw [if_pos ⟨hon, by simp⟩]

/-- A change of one station that keeps its number. -/
theorem station_modStation {f : Station → Station} (hf : ∀ s, (f s).stn = s.stn) :
    (l.modStation n f).station n = (l.station n).map f := by
  have hkeep : ((fun s : Station => s.stn == n) ∘ fun s => if s.stn = n then f s else s) = fun s => s.stn == n := by
    funext s
    show ((if s.stn = n then f s else s).stn == n) = (s.stn == n)
    split_ifs
    · rw [hf]
    · rfl
  show (l.ports.stations.map _).find? _ = _
  rw [List.find?_map, hkeep]
  refine Option.map_congr fun s hs => if_pos ?_
  simpa using List.find?_some hs

/-- Station `n` is known and not GOOD. -/
def Lane.StationBad (l : Lane) (n : Nat) : Prop := ∃ st, l.station n = some st ∧ st.good = false

theorem modStation_bad {f : Station → Station} (hf : ∀ s, (f s).stn = s.stn) {st : Station} (hst : l.station n = some st)
    (hg : (f st).good = false) : (l.modStation n f).StationBad n := by
  refine ⟨f st, ?_, hg⟩
  rw [station_modStation l hf, hst, Option.map_some]

theorem Lane.StationBad.modStation {l : Lane} (h : l.StationBad n) {f : Station → Station} (hf : ∀ s, (f s).stn = s.stn)
    (hg : ∀ s, (f s).good = s.good) : (l.modStation n f).StationBad n := by
  obtain ⟨st, hst, hbad⟩ := h
  exact modStation_bad l hf hst ((hg st).trans hbad)

theorem station_setPi (a : Nat) (w : Word) : (l.setPi a w).station n = l.station n := rfl

theorem Lane.StationBad.irq {l : Lane} (h : l.StationBad n) (f : Fld) : (l.irq f).StationBad n := h

theorem Lane.StationBad.piBit {l : Lane} (h : l.StationBad n) (base i : Nat) (b : Bool) : (l.piBit base i b).StationBad n := h

/-- Writing substitutes into the process image. -/
theorem Lane.StationBad.foldl {l : Lane} (h : l.StationBad n) {α : Type} (f : Lane → α → Lane) (vs : List α)
    (hf : ∀ l v, (f l v).station n = l.station n) : (vs.foldl f l).StationBad n := by
  unfold Lane.StationBad
  rwa [foldl_keeps (fun l : Lane => l.station n) vs l fun l v _ => hf l v]

/-- The record of a station that goes to STALE (10_cyclic_programs.md R247). -/
def Station.down (s : Station) : Station :=
  { s with
    good := false, busy := false, tries := 0, resync := false, writes := s.writes.map dropResync
    cpend := s.cpend.map fun c => (c.1, c.2.1, dropResync c.2.2) }

def Station.countDrop (s : Station) : Station := { s with drops := satAdd 32 s.drops 1 }

/-- A station that goes down is no longer GOOD. -/
theorem stationDown_bad {st : Station} (hst : l.station n = some st) : (l.stationDown n).StationBad n := by
  have hdown : (l.modStation n Station.down).StationBad n := modStation_bad l (fun _ => rfl) hst rfl
  have hdrop := ((hdown.modStation (f := Station.countDrop) (fun _ => rfl) fun _ => rfl).piBit 0x80 n false).irq R.PIMG.I_STNDOWN
  unfold Lane.stationDown
  rw [hst]
  dsimp only
  split
  · exact hdown
  · split
    · exact hdrop.foldl _ _ fun l v => by split <;> rfl
    · exact hdrop.foldl _ _ fun l k => station_setPi l _ _
    · exact hdrop

/-- A telegram station without a unit in its time goes down. -/
theorem telegramStale_bad {st : Station} (hst : l.station n = some st) (hp : st.proto = 4) (hg : st.good = true)
    (hlate : ∀ f, st.lastAt = some f → f + st.tout < l.fno) : (l.telegramStale n).StationBad n := by
  have hall : st.lastAt.all (fun f => decide (f + st.tout < l.fno)) = true := by simpa [Option.all_eq_true] using hlate
  simp only [Lane.telegramStale, hst, hp, hg, hall, and_self, if_true]
  exact stationDown_bad l hst

/-! ### Open items of a queue (19_queues.md R429) -/

/-- An open item without a word over RTO snapshots is closed, and the end is counted. -/
theorem Queue.closeTail_due {q : Queue} (h : ∃ i ∈ q.items, i.isOpen = true ∧ q.rto ≤ i.idle) :
    q.closeTail.2 = true ∧ q.closeTail.1.strand = satAdd 32 q.strand 1 ∧
      ∀ i ∈ q.closeTail.1.items, ¬(i.isOpen = true ∧ q.rto ≤ i.idle) := by
  have hhit : (q.items.any fun i => i.isOpen && decide (q.rto ≤ i.idle)) = true := by simpa using h
  unfold Queue.closeTail
  simp only [hhit, if_true, List.mem_map]
  refine ⟨trivial, trivial, ?_⟩
  rintro _ ⟨i, -, rfl⟩
  split_ifs with hdue
  · simp
  · simpa using hdue

theorem closeTail_strands (h : ∃ i ∈ (l.queue n).items, i.isOpen = true ∧ (l.queue n).rto ≤ i.idle) :
    (n < l.queues.length → ((l.closeTail n).queue n).strand = satAdd 32 (l.queue n).strand 1 ∧
      ∀ i ∈ ((l.closeTail n).queue n).items, ¬(i.isOpen = true ∧ (l.queue n).rto ≤ i.idle)) ∧
    (l.closeTail n).on R.QMG.I_STRAND = true := by
  obtain ⟨hhit, hstrand, hitems⟩ := Queue.closeTail_due h
  have hl : l.closeTail n = (l.setQueue n (l.queue n).closeTail.1).irq R.QMG.I_STRAND := by
    unfold Lane.closeTail
    dsimp only
    rw [show (l.queues.getD n {}).closeTail.2 = true from hhit]
    rfl
  rw [hl]
  refine ⟨fun hn => ?_, Lane.irq_on _ _ rfl rfl (by decide)⟩
  have hq : ((l.setQueue n (l.queue n).closeTail.1).irq R.QMG.I_STRAND).queue n = (l.queue n).closeTail.1 := by
    simp [Lane.queue, Lane.setQueue, List.getD, hn]
  rw [hq]
  exact ⟨hstrand, hitems⟩

/-! ### Programs, forces and the summary (10_cyclic_programs.md R248, R252, 15_patina_recorder.md R352) -/

theorem holdTimeout_stops (hm : l.prg.mode = .hold) (ht : l.get R.PRG.HOLDTO * 1000 ≤ l.prg.heldFor) :
    l.holdTimeout = l.prgToStop.irq R.PRG.I_HOLDTO := if_pos ⟨hm, ht⟩

theorem forces_forceChanged (fs : List (Nat × Force)) : (l.forceChanged fs n).prg.forces = fs := by
  simp [Lane.forceChanged, Lane.putB]

/-- The entries whose minutes have passed are released, the others stay. -/
theorem forceTimeouts_releases (ht : 0 < l.get R.FRC.FTO) (hdue : ∃ p ∈ l.prg.forces, p.2.fno + l.get R.FRC.FTO * 60000 ≤ l.fno) :
    l.forceTimeouts.prg.forces = l.prg.forces.filter fun p => !decide (p.2.fno + l.get R.FRC.FTO * 60000 ≤ l.fno) := by
  have hsome : ¬(l.get R.FRC.FTO * 60000 = 0 ∨
      (l.prg.forces.filter fun p => decide (p.2.fno + l.get R.FRC.FTO * 60000 ≤ l.fno)).isEmpty = true) := by
    rw [List.isEmpty_iff, List.filter_eq_nil_iff]
    simp only [not_or, not_forall, decide_eq_true_eq, not_not, exists_prop]
    exact ⟨by omega, hdue⟩
  unfold Lane.forceTimeouts
  dsimp only
  rw [if_neg hsome, Lane.irq_prg, forces_forceChanged]

theorem fno_setPat (g : Patina → Patina) : (l.setPat g).fno = l.fno := rfl

theorem summaryComplete_done (d : Nat) {q : PatSummary} (hq : l.pat.summary = some q) (hdone : q.count ≤ q.taken) :
    ∃ g : Patina → Patina, l.summaryComplete d =
      (((l.setPat g).put R.PAT.SUMV 1).put R.PAT.SUMFNO (l.fno % 2 ^ 32)).irq R.PAT.I_SUMDONE ∧ (g l.pat).summary = none := by
  unfold Lane.summaryComplete
  rw [hq]
  dsimp only
  rw [if_neg (by omega), fno_setPat]
  exact ⟨_, rfl, rfl⟩

/-- The summary whose entries are all taken is signed and shown. -/
theorem summaryComplete_shows (d : Nat) {q : PatSummary} (hq : l.pat.summary = some q) (hdone : q.count ≤ q.taken) :
    (l.summaryComplete d).pat.summary = none ∧ (l.summaryComplete d).on R.PAT.SUMV = true ∧
      (l.summaryComplete d).get R.PAT.SUMFNO = l.fno % 2 ^ 32 ∧ (l.summaryComplete d).on R.PAT.I_SUMDONE = true := by
  obtain ⟨g, hl, hm⟩ := summaryComplete_done l d hq hdone
  rw [hl]
  refine ⟨hm, ?_, ?_, Lane.irq_on _ _ rfl rfl (by decide)⟩
  · unfold Lane.on
    rw [Lane.irq_get_ne _ _ _ (by decide), Lane.get_put_ne _ _ _ _ (by decide) (by decide) (.inl (by decide)),
      Lane.get_put _ _ _ (by decide) (by decide)]
    rfl
  · rw [Lane.irq_get_ne _ _ _ (by decide), Lane.get_put _ _ _ (by decide) (by decide)]
    exact Nat.mod_mod _ _

/-! ### Stagings and replacements (17_security.md R385, R398) -/

theorem stagingExpiry_clears {st : Staging} (hst : l.sec.staging = some st) (ht : st.fno + 600000 ≤ l.fno) :
    l.stagingExpiry = (l.clearStaging.post 0x2A49).irq R.HMK.I_STGEXP := by
  unfold Lane.stagingExpiry
  rw [hst]
  exact if_pos ht

theorem verificationTimeout_fails (hu : l.sec.ustate = .verifying) (ht : l.sec.since + 60000 ≤ l.fno) :
    l.verificationTimeout = l.updFail 0x2C44 := if_pos ⟨hu, ht⟩

/-- A promotion without its end restarts the module, PROMOTING until then. -/
theorem promotionAbandon_restarts (hu : l.sec.ustate = .promoting) (ht : l.sec.since + 1000 ≤ l.fno ∨ l.on R.NVS.UNAVAIL = true)
    (hr : l.restart = none) :
    l.promotionAbandon.sec.ustate = .promoting ∧ l.promotionAbandon.restart = some { cold := false, trig := 6, reason := 0 } := by
  unfold Lane.promotionAbandon
  rw [if_pos ⟨hu, ht⟩]
  unfold Lane.askRestart
  rw [if_neg (by simp [hr])]
  exact ⟨hu, rfl⟩

/-! ### The fabric (20_rogon_fabric.md R442, R443) -/

theorem helloStale_late {f : Nat} (hf : (l.link n).helloAt = some f) (ht : f + 400 ≤ l.fno) : l.helloStale n = true := by
  unfold Lane.helloStale
  rw [hf]
  exact decide_eq_true ht

theorem on_showAdj_ne (f : Fld) (hf : f.key ≠ R.FAB.ADJ.key) : l.showAdj.on f = l.on f :=
  on_of_get (Lane.get_put_ne l _ _ _ (by decide) (by decide) (.inl hf))

/-- An adjacency that falls is shown, and the lane's own LSA is due. -/
theorem setAdj_falls (hn : n < l.fab.links.length) (hadj : (l.link n).adj = true) :
    ((l.setAdj n false).link n).adj = false ∧ (l.setAdj n false).on R.FAB.I_ADJCHG = true ∧ (l.setAdj n false).fab.lsaDue = true := by
  have hirq (m : Lane) : ((m.irq R.FAB.I_ADJCHG).irq (R.FL.I_ADJCHG.inst n)).showAdj.on R.FAB.I_ADJCHG = true := by
    have hpage : R.FAB.I_ADJCHG.key ≠ (R.FL.I_ADJCHG.inst n).page * 0x1000 + 0x010 := by
      show 0x3C010 ≠ (0x3D + n) * 0x1000 + 0x010
      omega
    rw [on_showAdj_ne _ _ (by decide), on_of_get (Lane.irq_get_ne _ _ _ hpage)]
    exact Lane.irq_on _ _ rfl rfl (by decide)
  have hlinks (f : FabLink → FabLink) : (l.fab.links.modify n f).getD n {} = f (l.link n) := by
    simp [Lane.link, List.getD, hn]
  unfold Lane.setAdj
  rw [if_neg (by simp [hadj])]
  exact ⟨congrArg FabLink.adj (hlinks fun k => { k with adj := false }), hirq _, rfl⟩

/-- FRAME_NO stands on the page of the frame, HELLO on that of a link. -/
theorem fno_putHello (v : Nat) : (l.put (R.FL.HELLO.inst n) v).fno = l.fno := by
  have hlo : (R.FL.HELLO.inst n).lo ≤ (R.FL.HELLO.inst n).hi := by simp [Fld.inst, R.FL.HELLO]
  have hhi : (R.FL.HELLO.inst n).hi < 32 := by simp [Fld.inst, R.FL.HELLO]
  have hl : R.FRAME.FNO_L.key ≠ (R.FL.HELLO.inst n).key := by
    show 0x01040 ≠ (0x3D + n) * 0x1000 + 0x048
    omega
  have hh : R.FRAME.FNO_H.key ≠ (R.FL.HELLO.inst n).key := by
    show 0x01044 ≠ (0x3D + n) * 0x1000 + 0x048
    omega
  rw [Lane.fno, Lane.get64, Lane.get_put_ne _ _ _ _ hlo hhi (.inl hl), Lane.get_put_ne _ _ _ _ hlo hhi (.inl hh)]
  rfl

theorem adjTimeout_falls (hn : n < l.fab.links.length) (hadj : (l.link n).adj = true) {f : Nat}
    (hf : (l.link n).helloAt = some f) (ht : f + 400 ≤ l.fno) :
    ((l.adjTimeout n).link n).adj = false ∧ (l.adjTimeout n).on R.FAB.I_ADJCHG = true ∧ (l.adjTimeout n).fab.lsaDue = true := by
  have hlate : (l.putB (R.FL.HELLO.inst n) (!l.helloStale n)).helloStale n = true :=
    helloStale_late _ hf (by rwa [Lane.putB, fno_putHello])
  have hl : l.adjTimeout n = (l.putB (R.FL.HELLO.inst n) (!l.helloStale n)).setAdj n false := if_pos ⟨hadj, hlate⟩
  rw [hl]
  exact setAdj_falls _ hn hadj

/-- The entries without a refresh leave the database. -/
theorem lsaAgeOut_keeps : l.lsaAgeOut.fab.db = l.fab.db.filter fun e => decide (l.fno < e.refreshed + 120000) := by
  unfold Lane.lsaAgeOut
  dsimp only
  split_ifs with hlen
  · exact (List.filter_eq_self.mpr (List.length_filter_eq_length_iff.mp hlen)).symm
  · rfl

end

/-- A wait of a running lane runs the lane's own act, and nothing outside the lanes changes. -/
theorem wait_runs {c : Instr} {s : State} {x : LaneId} {f : Lane → Lane} (hr : (s.lane x).running = true)
    (hc : exec c s = .next (onLanes f s)) : RegGives c s x (f (s.lane x)) := regGives_onLanes c s x f _ hc hr rfl

/-- Settles O40: each wait by what its lane does when its time has passed. -/
theorem waitsEnd : Obligations.WaitsEnd := by
  intro s x hr l
  refine ⟨fun h => ?rtdLate, fun h => ?rtdEarly, fun n st hst hp hg hlate => ?telegram, fun n h => ?tail, fun hm ht => ?holdTo,
    fun ht hdue => ?forces, fun q hq hdone he => ?summary, fun st hst ht => ?staging, fun hu ht => ?verification,
    fun hu ht hn => ?promotion, fun n f h4 hn hadj hf ht => ?adjacency, ?lsa⟩
  case rtdLate =>
    obtain ⟨t, ht, hl, honly⟩ := wait_runs hr (rfl : exec .rtdStale s = _)
    exact ⟨t, ht, honly, fun i hi hon => by rw [hl]; exact rtdStale_marks l h hi hon⟩
  case rtdEarly =>
    have hw := wait_runs hr (rfl : exec .rtdStale s = _)
    rwa [rtdStale_early l h] at hw
  case telegram =>
    obtain ⟨t, ht, hl, honly⟩ := wait_runs hr (rfl : exec (.telegramStationStale n) s = _)
    obtain ⟨st', hst', hbad⟩ := telegramStale_bad l hst hp hg hlate
    exact ⟨t, st', ht, honly, by rwa [hl], hbad⟩
  case tail =>
    obtain ⟨t, ht, hl, honly⟩ := wait_runs hr (rfl : exec (.queueStrandedTail n) s = _)
    exact ⟨t, ht, honly, by rw [hl]; exact closeTail_strands l h⟩
  case holdTo =>
    have hw := wait_runs hr (rfl : exec .holdTimeout s = _)
    rwa [holdTimeout_stops l hm ht] at hw
  case forces =>
    obtain ⟨t, hc, hl, honly⟩ := wait_runs hr (rfl : exec .forceTimeout s = _)
    exact ⟨t, hc, honly, by rw [hl]; exact forceTimeouts_releases l ht hdue⟩
  case summary =>
    obtain ⟨t, hc, hl, honly⟩ := wait_runs hr (rfl : exec .summaryComplete s = _)
    refine ⟨t, hc, honly, ?_⟩
    rw [hl, Lane.onEngine, if_pos he]
    exact summaryComplete_shows l _ hq hdone
  case staging =>
    have hw := wait_runs hr (rfl : exec .stagingExpiry s = _)
    rwa [stagingExpiry_clears l hst ht] at hw
  case verification =>
    obtain ⟨t, hc, hl, honly⟩ := wait_runs hr (rfl : exec .verificationTimeout s = _)
    refine ⟨t, hc, honly, ?_⟩
    rw [hl, verificationTimeout_fails l hu ht]
    exact ⟨updFail_ustate l _, updFail_upderr l _ (by decide)⟩
  case promotion =>
    obtain ⟨t, hc, hl, honly⟩ := wait_runs hr (rfl : exec .promotionAbandon s = _)
    exact ⟨t, hc, honly, by rw [hl]; exact promotionAbandon_restarts l hu ht hn⟩
  case adjacency =>
    have hrow : exec (.adjacencyTimeout n) s = .next (onLanes (fun l => l.adjTimeout n) s) := congrArg Host.Outcome.next (if_pos h4)
    obtain ⟨t, hc, hl, honly⟩ := wait_runs hr hrow
    exact ⟨t, hc, honly, by rw [hl]; exact adjTimeout_falls l hn hadj hf ht⟩
  case lsa =>
    obtain ⟨t, hc, hl, honly⟩ := wait_runs hr (rfl : exec .lsaAgeOut s = _)
    exact ⟨t, hc, honly, by rw [hl]; exact lsaAgeOut_keeps l⟩

end Sys2Proof.Machine
end

section
/-! What an Enesque instruction finds in its task once PC is past it, and the bit instructions (O45, O46). -/

namespace Sys2Proof.Machine

@[simp] theorem enqEnv_task (s : State) (e : Exec45) (n : Nat) : (enqEnv s e n).task = n := rfl
@[simp] theorem enqEnv_exe (s : State) (e : Exec45) (n : Nat) : (enqEnv s e n).exe = exeNo e := rfl

theorem noOperand_zero : noOperand (0 : BitVec 4).toNat (0 : BitVec 20).toNat = .ok () := rfl
theorem selOperand_zero (a : Nat) : selOperand (0 : BitVec 4).toNat a = .ok a := rfl

/-! ### The task with PC past the instruction -/

section
variable {s : State} {x : LaneId} {e : Exec45} {n : Nat} (h : Executes s x e n)
include h

theorem pcOn_ba : ((s.pcOn x n).enqCtx n).ba = (s.ctxOf x n).ba := by rw [pcOn_ctx h]
theorem pcOn_wa : ((s.pcOn x n).enqCtx n).wa = (s.ctxOf x n).wa := by rw [pcOn_ctx h]
theorem pcOn_xr : ((s.pcOn x n).enqCtx n).xr = (s.ctxOf x n).xr := by rw [pcOn_ctx h]
theorem pcOn_stk : ((s.pcOn x n).enqCtx n).stk = (s.ctxOf x n).stk := by rw [pcOn_ctx h]

theorem pcOn_known : n < (s.pcOn x n).prg.tasks.length := (Lane.modCtx_count (s.lane x) n _).symm ▸ h.known

theorem readBit_pcOn (area addr : Nat) : (enqEnv s e n).readBit (s.pcOn x n) area addr = (enqEnv s e n).readBit (s.lane x) area addr :=
  (enqEnv s e n).readBit_modCtx (s.lane x) area addr _ h.known

/-- An instruction that does not fault, its index included in the cycles (11_enesque_instructions.md R264). -/
theorem enqGives_indexed {c : Instr} {cost : Nat} {sem : EnqSem} {area : BitVec 4} {addr : BitVec 20} {m : Lane}
    (hc : exec c s = .next (enqRow e sem area addr s))
    (hs : sem (enqEnv s e n) area.toNat addr.toNat (s.pcOn x n) = .ok (m, cost)) :
    EnqGives c s x e n (cost + indexCost area.toNat) m :=
  ⟨_, hc, enqRow_ok s x e n sem area addr cost m h hs, enqRow_only s e sem area addr⟩

/-- An instruction that faults (R276). -/
theorem enqFaults_of_sem {c : Instr} {code : Nat} {sem : EnqSem} {area : BitVec 4} {addr : BitVec 20}
    (hc : exec c s = .next (enqRow e sem area addr s))
    (hs : sem (enqEnv s e n) area.toNat addr.toNat (s.pcOn x n) = .error code) : EnqFaults c s x e n code :=
  ⟨_, hc, enqRow_faults s x e n sem area addr code h hs, enqRow_only s e sem area addr⟩

omit h in
/-- Two changes that make the same of every context say the same. -/
theorem EnqSets.congr {c : Instr} {cost : Nat} {f g : EnqCtx → EnqCtx} (hs : EnqSets c s x e n cost f) (hfg : ∀ c, f c = g c) :
    EnqSets c s x e n cost g := (funext hfg : f = g) ▸ hs

end

/-! ### Bit operands -/

/-- Whether an image word may be written does not depend on the value. -/
theorem imageWrite_any {l m : Lane} {n a : Nat} {w : Word} (hw : l.imageWrite n a w = .ok m) (w' : Word) :
    ∃ m', l.imageWrite n a w' = .ok m' := by
  unfold Lane.imageWrite at hw ⊢
  dsimp only at hw ⊢
  split_ifs at hw ⊢
  exact ⟨_, rfl⟩

/-- Whether a bit operand may be written does not depend on the value. -/
theorem writeBit_any {v : EnqEnv} {l m : Lane} {area addr : Nat} {b : Bool} (hw : v.writeBit l area addr b = .ok m) (b' : Bool) :
    ∃ m', v.writeBit l area addr b' = .ok m' := by
  unfold EnqEnv.writeBit at hw ⊢
  dsimp only at hw ⊢
  split at hw
  · exact imageWrite_any hw _
  · exact imageWrite_any hw _
  · split_ifs at hw ⊢
    exact ⟨_, rfl⟩
  all_goals cases hw

/-- A writable bit operand reads as any other. -/
theorem bitTarget_writable {v : EnqEnv} {l m : Lane} {area addr : Nat} {b : Bool} (hw : v.writeBit l area addr b = .ok m) :
    v.bitTarget l area addr = v.readBit l area addr := by
  obtain ⟨m', hm'⟩ := writeBit_any hw false
  simp only [EnqEnv.bitTarget, hm']

section
variable {c : Instr} {s : State} {x : LaneId} {e : Exec45} {n : Nat} {area : BitVec 4} {addr : BitVec 20} {b : Bool}
variable (h : Executes s x e n) (hb : (enqEnv s e n).readBit (s.lane x) area.toNat addr.toNat = .ok b)
include h hb

/-- BA from BA and the bit operand (R265). -/
theorem enqSets_bitOp (f : Bool → Bool → Bool) (hc : exec c s = .next (enqRow e (bitOp f) area addr s)) :
    EnqSets c s x e n 2 (fun c => { c with ba := f c.ba b }) := by
  refine enqGives_of_sem h hc (EnqEnv.readBit_index _ _ _ _ _ hb) ?_
  simp only [bitOp, readBit_pcOn h, hb]
  rfl

/-- The bit operand and BA from BA and the bit operand (R265). -/
theorem enqGives_bitWrite (f : Bool → Bool → Bool × Bool) {a : Bool} {l : Lane} (ha : (s.ctxOf x n).ba = a)
    (hw : (enqEnv s e n).writeBit (s.pcOn x n) area.toNat addr.toNat (f a b).1 = .ok l)
    (hc : exec c s = .next (enqRow e (bitWrite f) area addr s)) : EnqGives c s x e n 3 (l.setBa n (f a b).2) := by
  refine enqGives_of_sem h hc (EnqEnv.readBit_index _ _ _ _ _ hb) ?_
  simp only [bitWrite, bitTarget_writable hw, readBit_pcOn h, hb, enqEnv_task, pcOn_ba h, ha, bind, Except.bind, pure, Except.pure, hw]

/-- The bit operand becomes `v` where BA is 1 (R265). -/
theorem enqGives_bitPut (v : Bool) {a : Bool} {l : Lane} (ha : (s.ctxOf x n).ba = a)
    (hw : (enqEnv s e n).writeBit (s.pcOn x n) area.toNat addr.toNat v = .ok l)
    (hc : exec c s = .next (enqRow e (bitPut v) area addr s)) : EnqGives c s x e n 3 (if a then l else s.pcOn x n) := by
  refine enqGives_of_sem h hc (EnqEnv.readBit_index _ _ _ _ _ hb) ?_
  simp only [bitPut, enqEnv_task, pcOn_ba h, ha, bind, Except.bind, pure, Except.pure, hw]

end

/-- Settles O45: each row combines BA with its bit operand; NOT has none. -/
theorem enqBitLogicSetsBa : Obligations.EnqBitLogicSetsBa := by
  intro s x e n area addr b h hb
  have hop {c : Instr} := enqSets_bitOp h hb (c := c)
  exact ⟨hop (fun _ b => b) rfl, hop (fun _ b => !b) rfl, hop (fun a b => a && b) rfl, hop (fun a b => a && !b) rfl,
    hop (fun a b => a || b) rfl, hop (fun a b => a || !b) rfl, hop Bool.xor rfl, enqGives_of_sem (sem := enqNot) h rfl rfl rfl⟩

/-- Settles O46: ST, STN, RE and FE by what they write and leave in BA, SET and RST by their condition. -/
theorem enqBitStoresWriteOperand : Obligations.EnqBitStoresWriteOperand := by
  intro s x e n area addr a b l h ha hb written
  have hwrite {c : Instr} (f : Bool → Bool → Bool × Bool) (hw : written (f a b).1) := enqGives_bitWrite h hb f ha hw (c := c)
  have hput {c : Instr} (v : Bool) (hw : written v) := enqGives_bitPut h hb v ha hw (c := c)
  exact ⟨fun hw => hwrite (fun a _ => (a, a)) hw rfl, fun hw => hwrite (fun a _ => (!a, a)) hw rfl, fun hw => hput true hw rfl,
    fun hw => hput false hw rfl, fun hw => hwrite (fun a b => (a, a && !b)) hw rfl, fun hw => hwrite (fun a b => (a, !a && b)) hw rfl⟩

end Sys2Proof.Machine
end

section
/-! The nesting stack and the control instructions of an Enesque task (O47, O52). -/

namespace Sys2Proof.Machine

section
variable {c : Instr} {s : State} {x : LaneId} {e : Exec45} {n : Nat} (h : Executes s x e n)
include h

/-- A push onto a stack that is not full (11_enesque_instructions.md R260). -/
theorem enqPush_fits (hlen : (s.ctxOf x n).stk.length < 16) (p : StkEntry) :
    (s.pcOn x n).enqPush n p = .ok ((s.pcOn x n).modCtx n fun c => { c with stk := p :: c.stk }) := by
  rw [Lane.enqPush, pcOn_stk h, if_neg (Nat.not_le.mpr hlen)]

/-- AND( and its kin push the pending operation with BA. -/
theorem enqSets_bitOpen {op : Nat} {area : BitVec 4} {addr : BitVec 20} {b : Bool} (hlen : (s.ctxOf x n).stk.length < 16)
    (hb : (enqEnv s e n).readBit (s.lane x) area.toNat addr.toNat = .ok b)
    (hc : exec c s = .next (enqRow e (bitOpen op) area addr s)) :
    EnqSets c s x e n 3 (fun c => { c with stk := .bit op c.ba :: c.stk, ba := b }) := by
  refine enqGives_of_sem h hc (EnqEnv.readBit_index _ _ _ _ _ hb) ?_
  simp only [bitOpen, readBit_pcOn h, hb, bind, Except.bind, pure, Except.pure]
  rw [enqEnv_task, enqPush_fits h hlen]
  exact congrArg (fun l => Except.ok (l, 3)) (Lane.modCtx_modCtx _ _ _ _ (pcOn_known h))

/-- A closing parenthesis combines BA with the pending operation on top of the stack. -/
theorem enqCloseParen_combines {op : Nat} {v : Bool} {rest : List StkEntry} (hstk : (s.ctxOf x n).stk = .bit op v :: rest) :
    EnqSets (.enqCloseParen e 0 0) s x e n 3 (fun c => { c with stk := rest, ba := closeOp op v c.ba }) := by
  refine enqGives_of_sem (sem := enqCloseParen) h rfl rfl ?_
  simp only [enqCloseParen, enqEnv_task, pcOn_stk h, hstk]
  rfl

theorem enqPushw_pushes (hlen : (s.ctxOf x n).stk.length < 16) :
    EnqSets (.enqPushw e 0 0) s x e n 3 (fun c => { c with stk := .word c.wa :: c.stk }) := by
  refine enqGives_of_sem (sem := enqPushw) h rfl rfl ?_
  simp only [enqPushw, enqEnv_task, enqPush_fits h hlen]
  rfl

/-- POPW applies the operation its operand names to the word on top of the stack and WA. -/
theorem enqPopw_applies {w r : Word} {rest : List StkEntry} {op : BitVec 20} {cost : Nat} {f : Word → Word → Except Nat Word}
    (hstk : (s.ctxOf x n).stk = .word w :: rest) (hop : popOp op.toNat = some (cost, f)) (hf : f w (s.ctxOf x n).wa = .ok r) :
    EnqSets (.enqPopw e 0 op) s x e n (cost + 2) (fun c => { c with stk := rest, wa := r }) := by
  refine enqGives_of_sem (sem := enqPopw) h rfl rfl ?_
  simp only [enqPopw, selOperand_zero, enqEnv_task, pcOn_stk h, pcOn_wa h, hstk, hop, hf, bind, Except.bind]
  rfl

theorem enqRet_returns {a : Nat} {rest : List StkEntry} (hstk : (s.ctxOf x n).stk = .ret a :: rest) :
    EnqSets (.enqRet e 0 0) s x e n 4 (fun c => { c with stk := rest, pc := a }) := by
  refine enqGives_of_sem (sem := enqRet) h rfl rfl ?_
  simp only [enqRet, enqEnv_task, pcOn_stk h, hstk]
  rfl

end

/-- Settles O47: openings and PUSHW push onto a stack with room, the others find on top what they take. -/
theorem enqStackPushesAndPops : Obligations.EnqStackPushesAndPops := by
  intro s x e n h
  refine ⟨fun area addr b hlen hb => ?openings, fun op v rest hstk => enqCloseParen_combines h hstk, enqPushw_pushes h,
    fun w r rest op cost f hstk hop hf => enqPopw_applies h hstk hop hf, fun a rest hstk => enqRet_returns h hstk⟩
  have hopen {c : Instr} {op : Nat} := enqSets_bitOpen h hlen hb (c := c) (op := op)
  exact ⟨hopen rfl, hopen rfl, hopen rfl, hopen rfl⟩

/-! ### Control -/

/-- A change of the context goes by the context that stands. -/
theorem modCtx_congr {l : Lane} {n : Nat} {f g : EnqCtx → EnqCtx} (hfg : f (l.enqCtx n) = g (l.enqCtx n)) :
    l.modCtx n f = l.modCtx n g := congrArg (fun c => l.setTask n { l.task n with ctx := c }) hfg

theorem setTask_self {l : Lane} {n : Nat} (hn : n < l.prg.tasks.length) : l.setTask n (l.task n) = l := by
  simp [Lane.setTask, Lane.task, Program.setTask, Program.task, List.getD, hn]

/-- A change that leaves the context as it stands changes nothing. -/
theorem modCtx_same {l : Lane} {n : Nat} {f : EnqCtx → EnqCtx} (hn : n < l.prg.tasks.length) (hf : f (l.enqCtx n) = l.enqCtx n) :
    l.modCtx n f = l :=
  (modCtx_congr (g := id) hf).trans (setTask_self hn)

/-- A change of a context leaves the configuration of every task as it was. -/
theorem cfg_modCtx (l : Lane) (n k : Nat) (f : EnqCtx → EnqCtx) : ((l.modCtx n f).task k).cfg = (l.task k).cfg := by
  by_cases hk : k = n
  · subst hk
    by_cases hn : k < l.prg.tasks.length
    · rw [Lane.task_modCtx l k f hn]
    · simp [Lane.modCtx, Lane.setTask, Lane.task, Program.setTask, Program.task, List.getD, hn]
  · exact congrArg Task.cfg (Lane.task_setTask_ne l n k _ hk)

section
variable {c : Instr} {s : State} {x : LaneId} {e : Exec45} {n : Nat} {addr : BitVec 20} (h : Executes s x e n)
include h

/-- A jump to an address of the code, where its condition on BA holds (R265). -/
theorem enqSets_jumpIf (cond : Bool → Bool) (hcode : addr.toNat < ((s.lane x).exe (exeNo e)).decl.ncode)
    (hc : exec c s = .next (enqRow e (jumpIf cond) 0 addr s)) :
    EnqSets c s x e n 3 (fun c => { c with pc := if cond c.ba then addr.toNat else c.pc }) := by
  refine enqGives_of_sem h hc rfl ?_
  by_cases hcond : cond ((s.pcOn x n).enqCtx n).ba
  · have hjump : (s.pcOn x n).enqJump (exeNo e) n addr.toNat = .ok ((s.pcOn x n).modCtx n fun c => { c with pc := addr.toNat }) :=
      if_pos hcode
    rw [modCtx_congr (g := fun c => { c with pc := addr.toNat }) (by simp only [hcond, if_true])]
    simp only [jumpIf, selOperand_zero, enqEnv_task, enqEnv_exe, bind, Except.bind, pure, Except.pure, hcond, if_true, hjump]
  · rw [modCtx_same (pcOn_known h) (by simp only [hcond]; rfl)]
    simp only [jumpIf, selOperand_zero, enqEnv_task, bind, Except.bind, pure, Except.pure, hcond]
    rfl

/-- A call of an address of the code, where its condition on BA holds and the stack has room (R265). -/
theorem enqSets_callIf (cond : Bool → Bool) (hcode : addr.toNat < ((s.lane x).exe (exeNo e)).decl.ncode)
    (hlen : (s.ctxOf x n).stk.length < 16) (hc : exec c s = .next (enqRow e (callIf cond) 0 addr s)) :
    EnqSets c s x e n 4 (fun c => if cond c.ba then { c with stk := .ret c.pc :: c.stk, pc := addr.toNat } else c) := by
  refine enqGives_of_sem h hc rfl ?_
  by_cases hcond : cond ((s.pcOn x n).enqCtx n).ba
  · have hjump (f : EnqCtx → EnqCtx) : ((s.pcOn x n).modCtx n f).enqJump (exeNo e) n addr.toNat =
        .ok ((s.pcOn x n).modCtx n fun c => { f c with pc := addr.toNat }) :=
      (if_pos hcode).trans (congrArg Except.ok (Lane.modCtx_modCtx _ _ _ _ (pcOn_known h)))
    rw [modCtx_congr (g := fun c => { c with stk := .ret c.pc :: c.stk, pc := addr.toNat }) (by simp only [hcond, if_true])]
    simp only [callIf, selOperand_zero, enqEnv_task, enqEnv_exe, bind, Except.bind, pure, Except.pure, hcond, if_true,
      enqPush_fits h hlen, hjump]
    rfl
  · rw [modCtx_same (pcOn_known h) (by simp only [hcond]; rfl)]
    simp only [callIf, selOperand_zero, enqEnv_task, bind, Except.bind, pure, Except.pure, hcond]
    rfl

/-- EVT marks an event task of EVSRC 0 where BA is 1 (R271). -/
theorem enqEvt_marks {area : BitVec 4} {k : Word} (hread : (enqEnv s e n).readWord (s.lane x) area.toNat addr.toNat = .ok k)
    (hk : k.toNat < 40) (hkind : ((s.lane x).task k.toNat).cfg.kind = 2) (hsrc : ((s.lane x).task k.toNat).cfg.evsrc = 0) :
    EnqGives (.enqEvt e area addr) s x e n (6 + indexCost area.toNat)
      (if (s.ctxOf x n).ba then (s.pcOn x n).setTask k.toNat { (s.pcOn x n).task k.toNat with evt := true } else s.pcOn x n) := by
  have hcfg : ((s.pcOn x n).task k.toNat).cfg = ((s.lane x).task k.toNat).cfg := cfg_modCtx ..
  have htask : ¬(40 ≤ k.toNat ∨ ((s.pcOn x n).task k.toNat).cfg.kind ≠ 2 ∨ ((s.pcOn x n).task k.toNat).cfg.evsrc ≠ 0) := by
    rw [hcfg, hkind, hsrc]
    omega
  refine enqGives_indexed (sem := enqEvt) h rfl ?_
  simp only [enqEvt, readWord_pcOn h, hread, bind, Except.bind, pure, Except.pure, if_neg htask]
  rw [enqEnv_task, pcOn_ba h]

end

/-- Settles O52: jumps and calls by their conditions on BA, NOP by nothing, EVT by the task it names. -/
theorem enqControlMovesPc : Obligations.EnqControlMovesPc := by
  intro s x e n addr h
  refine ⟨fun hcode => ?jumps, ?nop, fun area a k hread hk hkind hsrc => enqEvt_marks h hread hk hkind hsrc⟩
  case jumps =>
    have hjump {c : Instr} (cond : Bool → Bool) := enqSets_jumpIf h cond hcode (c := c)
    have hcall {c : Instr} (cond : Bool → Bool) (hlen : (s.ctxOf x n).stk.length < 16) := enqSets_callIf h cond hcode hlen (c := c)
    refine ⟨hjump (fun _ => true) rfl, hjump (fun b => b) rfl, (hjump (fun b => !b) rfl).congr fun c => ?_,
      fun hlen => ⟨hcall (fun _ => true) hlen rfl, hcall (fun b => b) hlen rfl⟩⟩
    cases c.ba <;> rfl
  case nop =>
    refine enqGives_of_sem (sem := enqNop) h rfl rfl ?_
    rw [modCtx_same (pcOn_known h) rfl]
    rfl

end Sys2Proof.Machine
end

section
/-! Moves of words and bytes, integer arithmetic and conversions of an Enesque task (O48, O49, O51). -/

namespace Sys2Proof.Machine

/-! ### Moves -/

/-- The sign extension of ADDR (11_enesque_instructions.md R261). -/
theorem signExt20_eq (a : BitVec 20) : signExt20 a.toNat = a.signExtend 32 := by
  have ha : toSigned 20 a.toNat = a.toInt := by
    rw [toSigned, BitVec.toInt_eq_toNat_cond, Nat.mod_eq_of_lt a.isLt]
    split <;> split <;> omega
  rw [signExt20, ha, BitVec.signExtend]

section
variable {c : Instr} {s : State} {x : LaneId} {e : Exec45} {n : Nat} {area : BitVec 4} {addr : BitVec 20} {w : Word} {l : Lane}
variable (h : Executes s x e n)
include h

theorem readByte_pcOn (area addr : Nat) : (enqEnv s e n).readByte (s.pcOn x n) area addr = (enqEnv s e n).readByte (s.lane x) area addr :=
  (enqEnv s e n).readByte_modCtx (s.lane x) area addr _ h.known rfl

section
variable (hw : (enqEnv s e n).readWord (s.lane x) area.toNat addr.toNat = .ok w)
include hw

theorem enqLdw_loads : EnqSets (.enqLdw e area addr) s x e n (2 + indexCost area.toNat) (fun c => { c with wa := w }) :=
  enqSets_wordOp (fun _ w => w) h hw rfl

theorem enqLdx_loads : EnqSets (.enqLdx e area addr) s x e n (2 + indexCost area.toNat) (fun c => { c with xr := w }) := by
  refine enqSets_of_sem (sem := enqLdx) rfl h ?_
  simp only [enqLdx, readWord_pcOn h, hw]
  rfl

/-- SEL takes the operand where BA is 1. -/
theorem enqSel_selects :
    EnqSets (.enqSel e area addr) s x e n (2 + indexCost area.toNat) (fun c => { c with wa := if c.ba then w else c.wa }) := by
  have hsel : (if ((s.pcOn x n).enqCtx n).ba then (s.pcOn x n).setWa n w else s.pcOn x n) =
      (s.pcOn x n).modCtx n fun c => { c with wa := if c.ba then w else c.wa } := by
    by_cases hba : ((s.pcOn x n).enqCtx n).ba = true
    · exact (if_pos hba).trans (modCtx_congr (by simp only [hba, if_true]))
    · exact (if_neg hba).trans (modCtx_same (pcOn_known h) (by simp only [if_neg hba])).symm
  refine enqSets_of_sem (sem := enqSel) rfl h ?_
  simp only [enqSel, readWord_pcOn h, hw, bind, Except.bind, pure, Except.pure]
  exact congrArg (fun l => Except.ok (l, 2)) hsel

end

theorem enqLdb_loads (hw : (enqEnv s e n).readByte (s.lane x) area.toNat addr.toNat = .ok w) :
    EnqSets (.enqLdb e area addr) s x e n (2 + indexCost area.toNat) (fun c => { c with wa := w }) := by
  refine enqSets_of_sem (sem := enqLdb) rfl h ?_
  simp only [enqLdb, readByte_pcOn h, hw]
  rfl

theorem enqStw_stores (hw : (enqEnv s e n).writeWord (s.pcOn x n) area.toNat addr.toNat (s.ctxOf x n).wa = .ok l) :
    EnqGives (.enqStw e area addr) s x e n (2 + indexCost area.toNat) l := by
  refine enqGives_indexed (sem := enqStw) h rfl ?_
  simp only [enqStw, enqEnv_task, pcOn_wa h, hw]
  rfl

theorem enqStx_stores (hw : (enqEnv s e n).writeWord (s.pcOn x n) area.toNat addr.toNat (s.ctxOf x n).xr = .ok l) :
    EnqGives (.enqStx e area addr) s x e n (2 + indexCost area.toNat) l := by
  refine enqGives_indexed (sem := enqStx) h rfl ?_
  simp only [enqStx, enqEnv_task, pcOn_xr h, hw]
  rfl

theorem enqStb_stores (hw : (enqEnv s e n).writeByte (s.pcOn x n) area.toNat addr.toNat ((s.ctxOf x n).wa.toNat % 256) = .ok l) :
    EnqGives (.enqStb e area addr) s x e n (3 + indexCost area.toNat) l := by
  refine enqGives_indexed (sem := enqStb) h rfl ?_
  simp only [enqStb, enqEnv_task, pcOn_wa h, hw]
  rfl

theorem enqLdhi_loads (ha : addr.toNat < 0x10000) :
    EnqSets (.enqLdhi e 0 addr) s x e n 1 (fun c => { c with wa := .ofNat 32 (addr.toNat * 65536) }) := by
  refine enqGives_of_sem (sem := enqLdhi) h rfl rfl ?_
  have hhalf : ¬0x10000 ≤ addr.toNat := Nat.not_le.mpr ha
  simp only [enqLdhi, selOperand_zero, bind, Except.bind, if_neg hhalf]
  rfl

theorem enqAdx_adds : EnqSets (.enqAdx e 0 addr) s x e n 1 (fun c => { c with xr := c.xr + addr.signExtend 32 }) := by
  rw [← signExt20_eq]
  exact enqGives_of_sem (sem := enqAdx) h rfl rfl rfl

end

/-- Settles O48: the loads by what they read, the stores by the lane with the operand written. -/
theorem enqMovesCarryWords : Obligations.EnqMovesCarryWords := by
  intro s x e n area addr w l h
  exact ⟨fun hw => ⟨enqLdw_loads h hw, enqLdx_loads h hw, enqSel_selects h hw⟩, fun hw => enqLdb_loads h hw,
    fun hw => enqStw_stores h hw, fun hw => enqStx_stores h hw, fun hw => enqStb_stores h hw, fun ha => enqLdhi_loads h ha,
    enqAdx_adds h⟩

/-! ### The operations of integers (R265) -/

theorem mul_eq_ofInt (a b : Word) : a * b = .ofInt 32 (a.toInt * b.toInt) := by
  rw [BitVec.ofInt_mul, BitVec.ofInt_toInt, BitVec.ofInt_toInt]

theorem neg_eq_ofInt (a : Word) : 0 - a = .ofInt 32 (-a.toInt) := by
  rw [BitVec.ofInt_neg, BitVec.ofInt_toInt]
  exact BitVec.zero_sub a

/-- The remainder of the division truncated toward zero. -/
theorem sub_divTrunc (a b : Word) : a - divTrunc a b * b = .ofInt 32 (a.toInt.tmod b.toInt) := by
  rw [Int.tmod_def, Int.sub_eq_add_neg, BitVec.ofInt_add, BitVec.ofInt_neg, BitVec.ofInt_mul, BitVec.ofInt_toInt, BitVec.ofInt_toInt,
    divTrunc, BitVec.sub_eq_add_neg, BitVec.mul_comm b]

theorem shlOp_eq (a b : Word) : shlOp a b = .ofNat 32 (a.toNat * 2 ^ b.toNat) := by
  unfold shlOp
  split
  case isTrue hb =>
    obtain ⟨k, hk⟩ := Nat.exists_eq_add_of_le hb
    apply BitVec.eq_of_toNat_eq
    rw [BitVec.toNat_ofNat, hk, pow_add, Nat.mul_left_comm, Nat.mul_mod_right]
    rfl
  case isFalse =>
    apply BitVec.eq_of_toNat_eq
    rw [BitVec.toNat_ofNat, BitVec.toNat_shiftLeft, Nat.shiftLeft_eq]

theorem shrOp_eq (a b : Word) : shrOp a b = .ofNat 32 (a.toNat / 2 ^ b.toNat) := by
  have hlt : a.toNat / 2 ^ b.toNat < 2 ^ 32 := (Nat.div_le_self ..).trans_lt a.isLt
  apply BitVec.eq_of_toNat_eq
  rw [BitVec.toNat_ofNat, Nat.mod_eq_of_lt hlt, shrOp]
  split
  case isTrue hb => exact (Nat.div_eq_of_lt (a.isLt.trans_le (Nat.pow_le_pow_right (by decide) hb))).symm
  case isFalse => rw [BitVec.toNat_ushiftRight, Nat.shiftRight_eq_div_pow]

/-- From 31 on a shift leaves the sign. -/
theorem div_two_pow_sign {i : Int} (hlo : -2 ^ 31 ≤ i) (hhi : i < 2 ^ 31) {k : Nat} (hk : 31 ≤ k) :
    i / 2 ^ k = if i < 0 then -1 else 0 := by
  have hpow : (2 : Int) ^ 31 ≤ 2 ^ k := pow_le_pow_right₀ (by decide) hk
  split
  case isTrue hneg => exact Int.ediv_eq_neg_one_of_neg_of_le hneg (by omega)
  case isFalse hpos => exact Int.ediv_eq_zero_of_lt (by omega) (hhi.trans_le hpow)

theorem sarOp_eq (a b : Word) : sarOp a b = .ofInt 32 (a.toInt / 2 ^ b.toNat) := by
  have hlo : -2 ^ 31 ≤ a.toInt := BitVec.le_toInt a
  have hhi : a.toInt < 2 ^ 31 := BitVec.toInt_lt
  have hdiv : a.toInt / 2 ^ min b.toNat 31 = a.toInt / 2 ^ b.toNat := by
    rcases Nat.le_total b.toNat 31 with hb | hb
    · rw [Nat.min_eq_left hb]
    · rw [Nat.min_eq_right hb, div_two_pow_sign hlo hhi hb, div_two_pow_sign hlo hhi le_rfl]
  rw [← hdiv, ← BitVec.ofInt_toInt (x := sarOp a b), sarOp, BitVec.toInt_sshiftRight, Int.shiftRight_eq_div_pow]
  norm_cast

/-- WA from WA and the word operand by an operation that does not fault on them. -/
theorem enqSets_wordOk {c : Instr} {s : State} {x : LaneId} {e : Exec45} {n cost : Nat} {area : BitVec 4} {addr : BitVec 20} {w : Word}
    {f : Word → Word → Except Nat Word} (g : Word → Word) (hf : ∀ a, f a w = .ok (g a)) (h : Executes s x e n)
    (hw : (enqEnv s e n).readWord (s.lane x) area.toNat addr.toNat = .ok w)
    (hc : exec c s = .next (enqRow e (wordOp cost f) area addr s)) :
    EnqSets c s x e n (cost + indexCost area.toNat) (fun c => { c with wa := g c.wa }) := by
  refine enqSets_of_sem hc h ?_
  simp only [wordOp, readWord_pcOn h, hw, hf, bind, Except.bind, pure, Except.pure]
  rfl

/-- Settles O49: each row by its operation of the words read. -/
theorem enqIntegerArithmetic : Obligations.EnqIntegerArithmetic := by
  intro s x e n area addr w h hw i
  have hop {c : Instr} {cost : Nat} (f : Word → Word → Word) := enqSets_wordOp f h hw (c := c) (cost := cost)
  have hcmp {c : Instr} {cost : Nat} (f : Word → Word → Bool) := enqSets_wordCmp f h hw (c := c) (cost := cost)
  refine ⟨hop (· + ·) rfl, hop (· - ·) rfl, (hop (· * ·) rfl).congr fun c => by rw [mul_eq_ofInt], fun h0 => ?div, fun h0 => ?mod,
    hop (· &&& ·) rfl, hop (· ||| ·) rfl, hop (· ^^^ ·) rfl, (hop shlOp rfl).congr fun c => by rw [shlOp_eq],
    (hop shrOp rfl).congr fun c => by rw [shrOp_eq], (hop sarOp rfl).congr fun c => by rw [sarOp_eq],
    (enqSets_wordUnary (fun a => 0 - a) h rfl).congr fun c => by rw [neg_eq_ofInt],
    hcmp (fun a b => a == b) rfl, (hcmp (fun a b => a != b) rfl).congr fun c => congrArg (fun b => { c with ba := b }) decide_not.symm,
    hcmp BitVec.slt rfl, hcmp BitVec.sle rfl, hcmp (fun a b => b.slt a) rfl, hcmp (fun a b => b.sle a) rfl, 
    hcmp (fun a b => decide (a.toNat < b.toNat)) rfl, hcmp (fun a b => decide (b.toNat < a.toNat)) rfl⟩
  case div => exact enqSets_wordOk (fun a => divTrunc a w) (fun a => if_neg h0) h hw rfl
  case mod => exact enqSets_wordOk (fun a => .ofInt 32 (a.toInt.tmod w.toInt)) (fun a => by rw [modOp, if_neg h0, sub_divTrunc]) h hw rfl

/-! ### Conversions (R265) -/

/-- The elementary functions in the order of their selectors. -/
theorem ffun_eq (sel : Nat) : ffun sel = [F32.exp, F32.ln, F32.log10, F32.sin, F32.cos, F32.tan, F32.atan, F32.floor, roundEven][sel]? :=
  match sel with
  | 0 | 1 | 2 | 3 | 4 | 5 | 6 | 7 | 8 => rfl
  | _ + 9 => rfl

/-- Settles O51: I2F, U2F and F2I by their conversion, FFUN by the function of its selector. -/
theorem enqConversions : Obligations.EnqConversions := by
  intro s x e n h
  refine ⟨enqSets_wordUnary (fun a => F32.ofInt a.toInt) h rfl, enqSets_wordUnary (fun a => F32.fromNat a.toNat) h rfl,
    enqSets_wordUnary f2i h rfl, fun sel f hf => ?ffun⟩
  case ffun =>
    refine enqGives_of_sem (sem := enqFfun) h rfl rfl ?_
    simp only [enqFfun, selOperand_zero, ffun_eq, hf, bind, Except.bind]
    rfl

end Sys2Proof.Machine
end

section
/-! Timers and counters of an Enesque task (O54, O55). -/

namespace Sys2Proof.Machine

section
variable {c : Instr} {s : State} {x : LaneId} {e : Exec45} {n : Nat} {addr : BitVec 20}
variable (h : Executes s x e n) (haddr : addr.toNat < 4096)
include h haddr

/-- A timer instruction leaves ET and Q in the timer's record and Q in BA (11_enesque_instructions.md R267). -/
theorem enqGives_timerOp {f : Timer → Bool → Nat → Nat × Bool} {t : Timer} {et : Nat} {q : Bool}
    (ht : t = (enqEnv s e n).timer (s.pcOn x n) addr.toNat)
    (hf : f t (s.ctxOf x n).ba (min ((s.pcOn x n).fno - t.lastf) (2 ^ 32 - 1)) = (et, q))
    (hc : exec c s = .next (enqRow e (timerOp f) 7 addr s)) :
    EnqGives c s x e n 10 (((s.pcOn x n).setExe (exeNo e) { (s.pcOn x n).exe (exeNo e) with
      timers := kvInsert ((s.pcOn x n).exe (exeNo e)).timers addr.toNat
        { t with et, q, inprev := (s.ctxOf x n).ba, lastf := (s.pcOn x n).fno } }).setBa n q) := by
  have hopd : timerOperand (7 : BitVec 4).toNat addr.toNat = .ok addr.toNat := if_pos haddr
  subst ht
  refine enqGives_of_sem h hc rfl ?_
  simp only [timerOp, hopd, enqEnv_task, enqEnv_exe, pcOn_ba h, hf, bind, Except.bind, pure, Except.pure]

theorem enqTpt_presets :
    EnqGives (.enqTpt e 7 addr) s x e n 4 ((s.pcOn x n).setExe (exeNo e) { (s.pcOn x n).exe (exeNo e) with
      timers := kvInsert ((s.pcOn x n).exe (exeNo e)).timers addr.toNat
        { (enqEnv s e n).timer (s.pcOn x n) addr.toNat with pt := (s.ctxOf x n).wa.toNat } }) := by
  have hopd : timerOperand (7 : BitVec 4).toNat addr.toNat = .ok addr.toNat := if_pos haddr
  refine enqGives_of_sem (sem := enqTpt) h rfl rfl ?_
  simp only [enqTpt, hopd, enqEnv_task, enqEnv_exe, pcOn_wa h, bind, Except.bind, pure, Except.pure]

/-- A counter instruction leaves the counter's record and BA as its step makes them (R268). -/
theorem enqGives_counterOp {cost : Nat} {f : Counter → EnqCtx → Counter × Bool} {r : Counter} {q : Bool}
    (hf : f ((enqEnv s e n).counter (s.pcOn x n) addr.toNat) ((s.pcOn x n).enqCtx n) = (r, q))
    (hc : exec c s = .next (enqRow e (counterOp cost f) 8 addr s)) :
    EnqGives c s x e n cost (((s.pcOn x n).setExe (exeNo e) { (s.pcOn x n).exe (exeNo e) with
      counters := kvInsert ((s.pcOn x n).exe (exeNo e)).counters addr.toNat r }).setBa n q) := by
  have hopd : counterOperand (8 : BitVec 4).toNat addr.toNat = .ok addr.toNat := if_pos haddr
  refine enqGives_of_sem h hc rfl ?_
  simp only [counterOp, hopd, enqEnv_task, enqEnv_exe, hf, bind, Except.bind, pure, Except.pure]

end

/-! ### One execution of a timer (R267) -/

/-- A timer that has not reached its preset runs on. -/
theorem not_decide_le (a b : Nat) : (!decide (a ≤ b)) = decide (b < a) := by
  rw [← decide_not]
  simp only [Nat.not_le]

section
variable (t : Timer) (i : Bool) (d : Nat)

theorem tonStep_eq : (tonStep t i d).1 = (if i && t.inprev then min (t.et + d) t.pt else 0) ∧
    (tonStep t i d).2 = (i && decide (t.pt ≤ (tonStep t i d).1)) := by
  refine ⟨?_, rfl⟩
  simp only [tonStep]
  cases i <;> cases t.inprev <;> rfl

theorem tofStep_cases :
    (i = true → (tofStep t i d).1 = 0 ∧ (tofStep t i d).2 = true) ∧
    (i = false → t.inprev = true → (tofStep t i d).1 = 0 ∧ (tofStep t i d).2 = (t.q && decide (t.pt ≠ 0))) ∧
    (i = false → t.inprev = false → t.q = true →
      (tofStep t i d).1 = min (t.et + d) t.pt ∧ (tofStep t i d).2 = decide ((tofStep t i d).1 < t.pt)) ∧
    (i = false → t.inprev = false → t.q = false → (tofStep t i d).1 = t.et ∧ (tofStep t i d).2 = false) := by
  refine ⟨?on, ?falls, ?runs, ?rests⟩
  case on => rintro rfl; exact ⟨rfl, rfl⟩
  case falls => rintro rfl hp; by_cases hpt : t.pt = 0 <;> simp [tofStep, hp, hpt]
  case runs => rintro rfl hp hq; simp only [tofStep, hp, hq, Bool.false_eq_true, if_false, if_true, not_decide_le, and_self]
  case rests => rintro rfl hp hq; simp [tofStep, hp, hq]

theorem tpStep_cases :
    (t.q = true → (tpStep t i d).1 = min (t.et + d) t.pt ∧ (tpStep t i d).2 = decide ((tpStep t i d).1 < t.pt)) ∧
    (t.q = false → i = true → t.inprev = false → (tpStep t i d).1 = 0 ∧ (tpStep t i d).2 = decide (0 < t.pt)) ∧
    (t.q = false → i = false → (tpStep t i d).1 = 0 ∧ (tpStep t i d).2 = false) ∧
    (t.q = false → i = true → t.inprev = true → (tpStep t i d).1 = t.et ∧ (tpStep t i d).2 = false) := by
  refine ⟨?runs, ?starts, ?off, ?lapsed⟩
  case runs => intro hq; simp only [tpStep, hq, if_true, Bool.true_and, not_decide_le, and_self]
  case starts => rintro hq rfl hp; simp [tpStep, hq, hp, Nat.pos_iff_ne_zero]
  case off => rintro hq rfl; simp [tpStep, hq]
  case lapsed => rintro hq rfl hp; simp [tpStep, hq, hp]

end

/-- Settles O54: each timer runs by its step, from BA and the frames since its last execution. -/
theorem enqTimersRun : Obligations.EnqTimersRun := by
  intro s x e n addr h haddr l i t d ran
  have hrun {c : Instr} {f : Timer → Bool → Nat → Nat × Bool} := enqGives_timerOp h haddr (c := c) (f := f) (t := t) rfl rfl
  refine ⟨⟨_, _, hrun rfl, tonStep_eq t i d⟩, ⟨_, _, hrun rfl, tofStep_cases t i d⟩, ⟨_, _, hrun rfl, tpStep_cases t i d⟩,
    enqTpt_presets h haddr⟩

/-! ### One execution of a counter (R268) -/

section
variable {c : Counter} {ctx : EnqCtx} {a : Bool} (ha : ctx.ba = a)
include ha

theorem ctuStep_eq {up : Int} (hup : up = if a && !c.cprev then min (c.cv + 1) (2 ^ 31 - 1) else c.cv) :
    ctuStep c ctx = ({ c with cv := up, down := false, cprev := a }, decide (c.pv ≤ up)) := by
  subst ha hup
  rfl

theorem ctdStep_eq {dn : Int} (hdn : dn = if a && !c.cprev then max (c.cv - 1) (-(2 ^ 31)) else c.cv) :
    ctdStep c ctx = ({ c with cv := dn, down := true, cprev := a }, decide (dn ≤ 0)) := by
  subst ha hdn
  rfl

/-- CLD and CRST set the value where BA is 1 and leave BA. -/
theorem counter_put (i : Int) :
    ((if ctx.ba then { c with cv := i } else c, ctx.ba) : Counter × Bool) = ({ c with cv := if a then i else c.cv }, a) := by
  subst ha
  cases ctx.ba <;> rfl

end

/-- Settles O55: each counter instruction by its step on the record, with BA as its condition. -/
theorem enqCountersCount : Obligations.EnqCountersCount := by
  intro s x e n addr h haddr l a c rise up dn holds
  have hstep {i : Instr} {cost : Nat} {f : Counter → EnqCtx → Counter × Bool} {r : Counter} {q : Bool} :=
    enqGives_counterOp h haddr (c := i) (cost := cost) (f := f) (r := r) (q := q)
  have hba : (l.enqCtx n).ba = a := pcOn_ba h
  exact ⟨hstep (ctuStep_eq hba rfl) rfl, hstep (ctdStep_eq hba rfl) rfl, hstep (counter_put hba c.pv) rfl, hstep (counter_put hba 0) rfl,
    hstep (congrArg₂ (fun (w : Word) b => ({ c with pv := w.toInt }, b)) (pcOn_wa h) hba) rfl⟩

end Sys2Proof.Machine
end

section
/-! Results and frame time in an Enesque task, and the instructions that fault (O57, O59, O60). -/

namespace Sys2Proof.Machine

/-! ### Result windows (11_enesque_instructions.md R270) -/

section
variable {c : Instr} {s : State} {x : LaneId} {e : Exec45} {n : Nat} {area : BitVec 4} {addr : BitVec 20} {k : Word}
variable (h : Executes s x e n)
include h

/-- A result goes to WA, and BA says whether there is one. -/
theorem setWa_setBa (w : Word) (b : Bool) :
    ((s.pcOn x n).setWa n w).setBa n b = (s.pcOn x n).modCtx n fun c => { c with wa := w, ba := b } :=
  Lane.modCtx_modCtx _ _ _ _ (pcOn_known h)

/-- A register of a result page as it stood at the end of step 2, named by its selector. -/
theorem enqSets_resultReg {keys : List Nat} {key : Nat} (hkey : keys[addr.toNat]? = some key)
    (hc : exec c s = .next (enqRow e (resultReg keys) 0 addr s)) :
    EnqSets c s x e n 24 (fun c => { c with wa := (s.lane x).viewReg key, ba := true }) := by
  refine enqGives_of_sem h hc rfl ?_
  simp only [resultReg, selOperand_zero, hkey, enqEnv_task, setWa_setBa h, bind, Except.bind, pure, Except.pure]
  rfl

variable (hk : (enqEnv s e n).readWord (s.lane x) area.toNat addr.toNat = .ok k)
include hk

theorem enqSets_solveWindow (f : Word × Nat → Word) {md : NetModel} {p : SolveRec} {y : Word × Nat}
    (hmd : (s.lane x).slv.model = some md) (hp : (s.lane x).slv.seen = some p) (hkind : (s.ctxOf x n).xr.toNat % 8 ≠ 7)
    (hy : p.item md ((s.ctxOf x n).xr.toNat % 8) k.toNat = some y)
    (hc : exec c s = .next (enqRow e (solveWindow f) area addr s)) :
    EnqSets c s x e n (24 + indexCost area.toNat) (fun c => { c with wa := f y, ba := true }) := by
  have hmd' : (s.pcOn x n).slv.model = some md := hmd
  have hp' : (s.pcOn x n).slv.seen = some p := hp
  refine enqSets_of_sem hc h ?_
  simp only [solveWindow, readWord_pcOn h, hk, enqEnv_task, pcOn_xr h, hmd', hp', hy, if_neg hkind, setWa_setBa h, bind, Except.bind,
    pure, Except.pure]

theorem enqSets_solveWindow_none (f : Word × Nat → Word) (hp : (s.lane x).slv.seen = none) (hkind : (s.ctxOf x n).xr.toNat % 8 ≠ 7)
    (hc : exec c s = .next (enqRow e (solveWindow f) area addr s)) :
    EnqSets c s x e n (24 + indexCost area.toNat) (fun c => { c with wa := F32.nan, ba := false }) := by
  have hp' : (s.pcOn x n).slv.seen = none := hp
  refine enqSets_of_sem hc h ?_
  simp only [solveWindow, readWord_pcOn h, hk, enqEnv_task, pcOn_xr h, hp', if_neg hkind, noResult, setWa_setBa h, bind, Except.bind,
    pure, Except.pure]
  cases (s.pcOn x n).slv.model <;> rfl

theorem enqOrd_item {p : DispRec} {y : Word} (hp : (s.lane x).opt.seen = some p)
    (hy : p.item (bits (s.ctxOf x n).xr 2 0) (bits (s.ctxOf x n).xr 15 8) k.toNat = some y) :
    EnqSets (.enqOrd e area addr) s x e n (24 + indexCost area.toNat) (fun c => { c with wa := y, ba := true }) := by
  have hp' : (s.pcOn x n).opt.seen = some p := hp
  refine enqSets_of_sem (sem := enqOrd) rfl h ?_
  simp only [enqOrd, readWord_pcOn h, hk, enqEnv_task, pcOn_xr h, hp', hy, setWa_setBa h, bind, Except.bind, pure, Except.pure]

theorem enqOrd_none (hp : (s.lane x).opt.seen = none) :
    EnqSets (.enqOrd e area addr) s x e n (24 + indexCost area.toNat) (fun c => { c with wa := F32.nan, ba := false }) := by
  have hp' : (s.pcOn x n).opt.seen = none := hp
  refine enqSets_of_sem (sem := enqOrd) rfl h ?_
  simp only [enqOrd, readWord_pcOn h, hk, hp', noResult, enqEnv_task, setWa_setBa h, bind, Except.bind, pure, Except.pure]

end

/-- Settles O57: each window by what has been published, SRN by the register its selector names. -/
theorem enqResultWindows : Obligations.EnqResultWindows := by
  intro s x e n area addr k h hk i r
  have hw {c : Instr} {md : NetModel} {p : SolveRec} {y : Word × Nat} (f : Word × Nat → Word) :=
    enqSets_solveWindow h hk f (c := c) (md := md) (p := p) (y := y)
  have hnone {c : Instr} (f : Word × Nat → Word) := enqSets_solveWindow_none h hk f (c := c)
  exact ⟨fun md p y hmd hp hkind hy => ⟨hw (·.1) hmd hp hkind hy rfl, hw (fun y => .ofNat 32 y.2) hmd hp hkind hy rfl⟩,
    fun hp hkind => ⟨hnone (·.1) hp hkind rfl, hnone (fun y => .ofNat 32 y.2) hp hkind rfl⟩,
    fun p y hp hy => enqOrd_item h hk hp hy, fun hp => enqOrd_none h hk hp, fun sel key hkey => enqSets_resultReg h hkey rfl⟩

/-! ### Frame time (R273) -/

/-- A selector of 9 or above names no word of frame time. -/
theorem timeWord_none (l : Lane) {sel : Nat} (hsel : 9 ≤ sel) : timeWord l sel = none := by
  obtain ⟨k, rfl⟩ := Nat.exists_eq_add_of_le' hsel
  rfl

/-- Settles O59: TIME is one word of the trailer of the frame that executes. -/
theorem enqTimeReadsFrameTime : Obligations.EnqTimeReadsFrameTime := by
  intro s x e n f h hf t gives sec
  have htime (sel : BitVec 20) {w : Word} (hw : timeWord (s.pcOn x n) sel.toNat = some w) : gives sel w :=
    enqGives_of_sem h rfl rfl (enqTime_word hw)
  have htrailer : (s.pcOn x n).trailer = t := by
    have hframe : (s.pcOn x n).frame = some f := hf
    simp only [Lane.trailer, hframe, t]
  refine ⟨htime 0 ?_, htime 1 ?_, htime 2 ?_, htime 3 ?_, htime 4 ?_, htime 5 ?_, htime 6 ?_, htime 7 ?_, htime 8 ?_, fun sel hsel => ?late⟩
  case late =>
    refine enqFaults_of_sem (sem := enqTime) h rfl ?_
    simp only [enqTime, selOperand_zero, timeWord_none _ hsel, bind, Except.bind]
    rfl
  all_goals
    unfold timeWord
    rw [htrailer]
    rfl

/-! ### Instructions that fault (R276, Table ENQ-6) -/

theorem enqTable_opcodes : enqTable.map (·.1) = definedOpcodes := rfl

/-- An opcode without a row in Table ENQ-5 has the meaning of ILLOP. -/
theorem enqSem_undefined {op : Nat} (hop : op ∉ definedOpcodes) : enqSem op = enqIllop := by
  have hfind : enqTable.find? (fun r => r.1 == op) = none := by
    rw [List.find?_eq_none]
    intro r hr heq
    rw [← enqTable_opcodes] at hop
    exact hop (beq_iff_eq.mp heq ▸ List.mem_map_of_mem hr)
  rw [enqSem, hfind]

/-- Settles O60: each row by the check that it does not pass. -/
theorem enqInstructionFaults : Obligations.EnqInstructionFaults := by
  intro s x e n area addr h
  have hf {c : Instr} {code : Nat} {sem : EnqSem} {area : BitVec 4} {addr : BitVec 20} :=
    enqFaults_of_sem h (c := c) (code := code) (sem := sem) (area := area) (addr := addr)
  refine ⟨fun op hop => ?undefined, fun ha => hf (sem := enqNot) rfl ?notOperand, fun ha => hf (sem := enqJmp) rfl ?jmpArea,
    fun hlen => hf (sem := enqPushw) rfl ?overflow,
    fun hstk => ⟨hf (sem := enqCloseParen) rfl ?closeEmpty, hf (sem := enqRet) rfl ?retEmpty⟩,
    fun w rest hstk => hf (sem := enqCloseParen) rfl ?closeWord,
    fun hw => ⟨hf (sem := enqDiv) rfl ?div, hf (sem := enqMod) rfl ?mod⟩,
    hf (sem := enqStw) rfl rfl, hf (sem := enqSt) rfl rfl, hf (sem := enqStb) rfl rfl, hf (sem := enqStb) rfl rfl,
    hf (sem := enqStb) rfl rfl, fun hcode => hf (sem := enqJmp) rfl ?jmpBeyond, fun hstk => hf (sem := enqEnd) rfl ?nested⟩
  case undefined =>
    have hsem : enqSem op.toNat = enqIllop := enqSem_undefined (by simpa [Instr.wellFormed] using hop)
    exact hf (sem := enqSem op.toNat) rfl (by rw [hsem]; rfl)
  case notOperand =>
    have hno : noOperand area.toNat addr.toNat = .error fIllfmt := if_neg fun h => ha h.1
    simp only [enqNot, hno]
    rfl
  case jmpArea =>
    have hno : selOperand area.toNat addr.toNat = .error fIllfmt := if_neg ha
    simp only [enqJmp, jumpIf, hno]
    rfl
  case overflow =>
    simp only [enqPushw, noOperand_zero, Lane.enqPush, enqEnv_task, pcOn_stk h, if_pos hlen]
    rfl
  case closeEmpty =>
    simp only [enqCloseParen, enqEnv_task, pcOn_stk h, hstk]
    rfl
  case retEmpty =>
    simp only [enqRet, enqEnv_task, pcOn_stk h, hstk]
    rfl
  case closeWord =>
    simp only [enqCloseParen, enqEnv_task, pcOn_stk h, hstk]
    rfl
  case div =>
    simp only [enqDiv, wordOp, readWord_pcOn h, hw]
    rfl
  case mod =>
    simp only [enqMod, wordOp, readWord_pcOn h, hw]
    rfl
  case jmpBeyond =>
    have hjump : (s.pcOn x n).enqJump (exeNo e) n addr.toNat = .error fCoderange := if_neg (Nat.not_lt.mpr hcode)
    simp only [enqJmp, jumpIf, selOperand_zero, enqEnv_task, enqEnv_exe, hjump, bind, Except.bind, if_true]
    rfl
  case nested =>
    have hnest : ((s.pcOn x n).enqCtx n).stk ≠ [] := by rwa [pcOn_stk h]
    simp only [enqEnd, noOperand_zero]
    exact if_pos hnest

end Sys2Proof.Machine
end

section
/-! The summary of a partition, the set of the calendar and the alarms as written by a session (O17). -/

namespace Sys2Proof.Machine

/-! ### A command whose work is done at once (assumption log 38) -/

/-- A write that is accepted, with the work left for step 7 done on what its operation answers. -/
theorem writeThen_gives (c : Origin → Instr) (key w : Nat) (work : Lane → Lane) (s : State) (x : LaneId) (f : Lane → Lane) {m : Lane}
    (hc : ∀ o, exec (c o) s = .next (writeThen o key w work s)) (hk : key < 0x100000)
    (ha : addrStatus (.ofNat 32 (0x40000000 + key)) = 0) (h40 : 0x040 ≤ key % 0x1000)
    (hw : ((fieldsAt (key / 0x1000) (key % 0x1000)).any fun f => f.acc.writable) = true)
    (hop : ((s.lane x).closeLock (key / 0x1000)).writeOp s.hub true [] (key / 0x1000) (key % 0x1000) (.ofNat 32 w) = some (m, 0))
    (hwork : work m = f ((s.lane x).closeLock (key / 0x1000))) : WriteGives c key (fun _ => .ofNat 32 w) s x f := by
  intro role hr acc
  refine regGives_onLanes _ s x _ _ (hc _) hr ?_
  have hwrite : (s.lane x).writeKey s.hub (.external role) [] key (.ofNat 32 w) = (m, 0) := by
    rw [Lane.writeKey_at _ _ _ _ _ _ hk ha h40 hw acc, hop]
    rfl
  simp only [hwrite, if_true, hwork]

/-! ### Summaries (15_patina_recorder.md R352) -/

section
variable (l : Lane) (h : Hub)

/-- A request that no case of R352 refuses: the summary of the selected partition is in progress. -/
theorem patSum_starts (hen : l.enabled 0x29 = true) (hlc : l.lifeCycle ≠ 0) (hsize : (l.pat.part (l.get R.PAT.SPART)).size ≠ 0)
    (hfree : l.pat.summary = none) :
    ∃ q : PatSummary, q.part = l.get R.PAT.SPART ∧ q.reqFno = l.fno ∧
      l.patSum = (l.setPat fun t => { t with summary := some q }, 0) := by
  let i := l.get R.PAT.SPART
  refine ⟨{ part := i, reqFno := l.fno, stamp := l.stamp, count := (l.pat.part i).heldCount (l.pat.nextOf i) }, rfl, rfl, ?_⟩
  unfold Lane.patSum
  rw [if_neg (by simp [hen]), if_neg hlc, if_neg hsize, if_neg (by simp [hfree])]

theorem writeOp_sum {w : Word} (hw : w.getLsbD 0 = true) :
    l.writeOp h true [] 0x29 0x054 w = some (l.store 0x29 0x054 w).patSum := by
  simp [Lane.writeOp, Lane.writeSystem, hw]

@[simp] theorem Lane.store_pat (page off : Nat) (w : Word) : (l.store page off w).pat = l.pat := by rw [Lane.store_eq]

/-- Storing a register and setting the summary change the registers and the summary alone. -/
theorem setSummary_store (page off : Nat) (w : Word) (q : PatSummary) :
    (l.store page off w).setPat (fun t => { t with summary := some q }) =
      { l with regs := (l.store page off w).regs, pat := { l.pat with summary := some q } } :=
  congrArg (fun m : Lane => m.setPat fun t => { t with summary := some q }) (Lane.store_eq l page off w)

/-- SPART holds what the write of its register gives it. -/
theorem store_spart (w : Word) : (l.store 0x29 0x054 w).get R.PAT.SPART = bits w 3 1 :=
  Lane.store_bits l 0x29 0x054 w R.PAT.SPART (by decide)

/-- The write stores the selection and starts the summary of the partition that it selects. -/
theorem writeOp_sum_starts {w : Word} (hw : w.getLsbD 0 = true) (hen : l.enabled 0x29 = true) (hlc : l.lifeCycle ≠ 0)
    (hsize : (l.pat.part (bits w 3 1)).size ≠ 0) (hfree : l.pat.summary = none) :
    ∃ q : PatSummary, q.part = bits w 3 1 ∧ q.reqFno = l.fno ∧ l.writeOp h true [] 0x29 0x054 w =
      some ((l.store 0x29 0x054 w).setPat fun t => { t with summary := some q }, 0) := by
  have henabled : (l.store 0x29 0x054 w).enabled 0x29 = true := by rwa [Lane.store_enabled _ _ _ _ _ (by decide) (by decide)]
  have hfno : (l.store 0x29 0x054 w).fno = l.fno := Lane.store_fno _ _ _ _ (by decide) (by decide)
  obtain ⟨q, hpart, hreq, hsum⟩ := patSum_starts (l.store 0x29 0x054 w) henabled (by simpa using hlc)
    (by simpa [store_spart] using hsize) (by simpa using hfree)
  exact ⟨q, hpart.trans (store_spart l w), hreq.trans hfno, (writeOp_sum l h hw).trans (congrArg some hsum)⟩

end

/-- The word that PATINA_SUM writes: SUM, with SPART kept. -/
def Lane.sumWord (l : Lane) : Word := (l.reg 0x29054 &&& 0xE) ||| 1

theorem Lane.sumWord_sum (l : Lane) : l.sumWord.getLsbD 0 = true := by simp [Lane.sumWord]

/-- PATINA_SUM stores its word and starts the summary. -/
theorem patinaSum_gives {s : State} {x : LaneId} (hen : (s.lane x).enabled 0x29 = true) (hlc : (s.lane x).lifeCycle ≠ 0)
    (hsize : ((s.lane x).pat.part (bits (s.lane x).sumWord 3 1)).size ≠ 0) (hfree : (s.lane x).pat.summary = none) :
    ∃ q : PatSummary, q.part = bits (s.lane x).sumWord 3 1 ∧ q.reqFno = (s.lane x).fno ∧
      WriteGives .patinaSum 0x29054 Lane.sumWord s x
        (fun l => (l.store 0x29 0x054 (s.lane x).sumWord).setPat fun t => { t with summary := some q }) := by
  obtain ⟨q, hpart, hreq, hop⟩ := writeOp_sum_starts ((s.lane x).closeLock 0x29) s.hub (s.lane x).sumWord_sum hen hlc hsize hfree
  exact ⟨q, hpart, hreq, writeRowOf_gives _ 0x29054 Lane.sumWord s x _ (fun _ => rfl) (by decide) (by decide) (by decide)
    (by decide) hop⟩

/-! ### The set of the calendar (16_time.md R359) -/

section
variable (l : Lane) (h : Hub)

theorem writeOp_set (hen : l.enabled 0x30 = true) : l.writeOp h true [] 0x30 0x058 1 =
    some ({ l with time := { l.time with setReq := some (l.getW R.RTC.SETW0, l.getW R.RTC.SETW1) } }, 0) := by
  simp [Lane.writeOp, Lane.writePeriph, hen]

/-- Step 7 takes the request away and places the set, where the request's words are a time. It is proved for any
reading of the two words and used for `setValue`; `id` keeps it so in the proof term, where the kernel would otherwise run
`setValue` on words that it does not know. -/
theorem calSetStep_request {w0 w1 : Word} {sec : Nat} (hreq : l.time.setReq = some (w0, w1)) (hsec : setValue w0 w1 = some sec) :
    l.calSetStep = ({ l with time := { l.time with setReq := none } } : Lane).placeSet sec := by
  unfold Lane.calSetStep
  revert hsec
  generalize setValue = value
  revert value
  refine id fun value hsec => ?_
  simp only [hreq, hsec]

/-- A request that was not there before leaves no trace but the set. -/
theorem calSetStep_places {w0 w1 : Word} {sec : Nat} (hfree : l.time.setReq = none) (hsec : setValue w0 w1 = some sec) :
    ({ l with time := { l.time with setReq := some (w0, w1) } } : Lane).calSetStep = l.placeSet sec := by
  have hdone : ({ l with time := { l.time with setReq := none } } : Lane) = l := by rw [← hfree]
  rw [calSetStep_request _ rfl hsec]
  exact congrArg (fun m => m.placeSet sec) hdone

end

/-! ### Alarms (16_time.md R363) -/

section
variable (l : Lane) (h : Hub) (w : Word)

theorem writeOp_almCfg (hok : almCfgOk w = true) : l.writeOp h true [] 0x30 0x068 w =
    some (l.writeAlarm (l.get R.RTC.ASEL) (w &&& 0xFFFFFFC0) (l.time.alarms.getD (l.get R.RTC.ASEL) {}).day, 0) := by
  simp [Lane.writeOp, Lane.writePeriph, hok]

theorem writeOp_almDay (hok : almDayOk ((l.time.alarms.getD (l.get R.RTC.ASEL) {}).cfg.getLsbD 6) w = true) :
    l.writeOp h true [] 0x30 0x06C w =
      some (l.writeAlarm (l.get R.RTC.ASEL) (l.time.alarms.getD (l.get R.RTC.ASEL) {}).cfg (w &&& 0xFFFF), 0) := by
  simp only [Lane.writeOp, Lane.writePeriph, hok, if_true]
  rfl

end

/-- Settles O17: SUM by the summary that its request starts, SET by step 7 on the request that it leaves, ALMCFG and ALMDAY by
`writeAlarm`. -/
theorem summaryCalendarAndAlarms : Obligations.SummaryCalendarAndAlarms := by
  intro s x v
  refine ⟨fun i hi hen hlc hsize hfree role hr hacc => ?sum, fun sec hen hfree hsec => ?set,
    fun i a now hi ha hnow => ⟨fun hok => ?cfg, fun hok => ?day⟩⟩
  case sum =>
    subst hi
    obtain ⟨q, hpart, hreq, hgives⟩ := patinaSum_gives hen hlc hsize hfree
    obtain ⟨t, hexec, hlane, honly⟩ := hgives role hr hacc
    refine ⟨t, q, hexec, honly, congrArg (fun l => l.pat.summary) hlane, hpart, hreq, hlane.trans ?_, fun k hk => ?_⟩
    · rw [hlane]
      exact setSummary_store _ _ _ _ _
    · rw [hlane]
      exact (closeLock_store (s.lane x) (s.lane x).sumWord (page := 0x29) (off := 0x054) rfl).1 k hk
  case set =>
    exact writeThen_gives _ 0x30058 1 _ s x _ (fun _ => rfl) (by decide) (by decide) (by decide) (by decide)
      (writeOp_set ((s.lane x).closeLock 0x30) s.hub hen)
      ((if_pos rfl).trans (calSetStep_places ((s.lane x).closeLock 0x30) hfree hsec))
  case cfg =>
    subst hi ha hnow
    exact writeRow_givesWord _ 0x30068 v s x _ (fun _ => rfl) (by decide) (by decide) (by decide) (by decide)
      (writeOp_almCfg ((s.lane x).closeLock 0x30) s.hub v hok)
  case day =>
    subst hi ha hnow
    exact writeRow_givesWord _ 0x3006C v s x _ (fun _ => rfl) (by decide) (by decide) (by decide) (by decide)
      (writeOp_almDay ((s.lane x).closeLock 0x30) s.hub v hok)

end Sys2Proof.Machine
end

section
/-! Sessions of Vangilo Link: opening, messages and end (O23). -/

namespace Sys2Proof.Machine

/-! ### The handshake (17_security.md R402, Table SEC-1) -/

section
variable {l : Lane} {port : Nat} {c : ClientCert}

/-- Where owner certificates count, a good one gives its role. -/
theorem handshake_owner (htls : tlsOk c.offer = true) (hcert : l.ownerCert c = true)
    (hlc : (l.lifeCycle = 2 ∧ ¬(port = 4 ∧ l.sec.secFlags.getLsbD 2 = true)) ∨ l.lifeCycle = 3) :
    l.handshake port c = some c.role := by
  unfold Lane.handshake
  rcases hlc with ⟨hlc, hserv⟩ | hlc
  · simpa [htls, hcert, hlc, portService] using hserv
  · simp [htls, hcert, hlc]

theorem handshake_offerRefused (htls : tlsOk c.offer = false) : l.handshake port c = none := if_pos (by simp [htls])

/-- Where owner certificates count, no other yields a session. -/
theorem handshake_certRefused (hcert : l.ownerCert c = false) (hlc : l.lifeCycle = 2 ∨ l.lifeCycle = 3) :
    l.handshake port c = none := by
  unfold Lane.handshake
  rcases hlc with hlc | hlc <;> simp [hcert, hlc]

end

/-! ### Opening (R402) -/

section
variable {s : State} {x port : Nat} {c : ClientCert} {l : Lane} (hl : s.server = some l)
include hl

/-- A handshake that yields a role opens the session under a free number on a port that serves it. -/
theorem openSession_opens {role : SessRole} (hx : x < 8) (hfree : s.hub.session x = none) (hport : l.linkPort s.hub port = true)
    (hrole : l.handshake port c = some role) : s.openSession x port c = (s.dropShadows (8 + x)).setHub fun h => h.setPorts fun p =>
      { p with
        opens := p.opens + 1
        sessions := p.sessions ++ [{ ident := x, port, role, lastAt := h.upFrames, gen := p.opens }]
        sent := p.sent ++ ((l.deviceCert s.nv).map fun c => Sent.serverCert x c).toList } := by
  have hmay : ¬(8 ≤ x ∨ (s.hub.session x).isSome = true ∨ (!l.linkPort s.hub port) = true) := by
    simp [hfree, hport, hx]
  unfold State.openSession
  rw [hl]
  dsimp only
  rw [if_neg hmay, hrole]

theorem openSession_refused (hrole : l.handshake port c = none) : s.openSession x port c = s := by
  unfold State.openSession
  rw [hl]
  dsimp only
  rw [hrole, ite_self]

end

/-! ### The end (21_field_ports.md R462) -/

section
variable {s : State} {x : Nat} {ss : Session} (hs : s.hub.session x = some ss)
include hs

/-- An open session ends with its shadows and its waiting reads. -/
theorem closeSession_ends : s.closeSession x = (s.dropShadows (8 + x)).setHub fun h => h.setPorts fun p =>
    { p with sessions := p.sessions.filter fun y => y.ident != x, waits := p.waits.filter fun w => w.session != x } :=
  if_neg (by simp [hs])

theorem idleTimeout_due (ht : ss.lastAt + 60000 ≤ s.hub.upFrames) : s.idleTimeout x = s.closeSession x := by
  unfold State.idleTimeout
  rw [hs]
  exact if_pos ht

theorem idleTimeout_early (ht : s.hub.upFrames < ss.lastAt + 60000) : s.idleTimeout x = s := by
  unfold State.idleTimeout
  rw [hs]
  exact if_neg (Nat.not_le.2 ht)

end

/-! ### Messages (R461) -/

/-- Two changes of one session are one, where the first keeps its number. -/
theorem Hub.modSession_modSession (h : Hub) (x : Nat) (f g : Session → Session) (hf : ∀ y, (f y).ident = y.ident) :
    (h.modSession x f).modSession x g = h.modSession x fun y => g (f y) := by
  refine congrArg (fun ss => h.setPorts fun p => { p with sessions := ss }) ((List.map_map ..).trans (List.map_congr_left fun y _ => ?_))
  rw [Function.comp_apply]
  by_cases hy : y.ident = x
  · rw [if_pos hy, if_pos hy, if_pos ((hf y).trans hy)]
  · rw [if_neg hy, if_neg hy, if_neg hy]

section
variable {s : State} {x : Nat} {l : Lane} {ss : Session} (hl : s.server = some l) (hs : s.hub.session x = some ss)
include hl hs

theorem keepalive_notes : s.keepalive x = s.setHub fun h => h.modSession x fun y => { y with lastAt := s.hub.upFrames } :=
  onSession_open hl hs _

theorem subscribe_notes (mask : BitVec 256) : s.subscribe x mask =
    s.setHub fun h => h.modSession x fun y => { y with lastAt := s.hub.upFrames, subs := mask } := by
  rw [State.subscribe, onSession_open hl hs]
  exact congrArg (fun g => s.setHub fun _ => g) (Hub.modSession_modSession s.hub x _ _ fun _ => rfl)

end

/-- Settles O23: a session opens by its handshake, ends as one that is open, and its messages are noted in it alone. -/
theorem sessionsOpenAndEnd : Obligations.SessionsOpenAndEnd := by
  intro s x
  refine ⟨fun l port cert hl hx hfree hport htls hcert hlc => ?opens, fun l port cert hl hbad => ?refused, fun ss hs => ?ends,
    fun l ss mask hl hs => ⟨?keepalive, ?subscribe⟩⟩
  case opens =>
    exact congrArg Host.Outcome.next (openSession_opens hl hx hfree hport (handshake_owner htls hcert hlc))
  case refused =>
    refine congrArg Host.Outcome.next (openSession_refused hl ?_)
    rcases hbad with htls | ⟨hcert, hlc⟩
    · exact handshake_offerRefused htls
    · exact handshake_certRefused hcert hlc
  case ends =>
    have hgone := closeSession_ends hs
    exact ⟨congrArg Host.Outcome.next hgone, congrArg Host.Outcome.next hgone,
      fun ht => congrArg Host.Outcome.next ((idleTimeout_due hs ht).trans hgone),
      fun ht => congrArg Host.Outcome.next (idleTimeout_early hs ht)⟩
  case keepalive => exact congrArg Host.Outcome.next (keepalive_notes hl hs)
  case subscribe => exact congrArg Host.Outcome.next (subscribe_notes hl hs mask)

end Sys2Proof.Machine
end

section
/-! Calendar shadows, the PTP port and the servo's timers (O41). -/

namespace Sys2Proof.Machine

/-! ### Calendar shadows (16_time.md R357) -/

/-- Engines read on both lanes. -/
theorem onReader_engine (s : State) {n : Nat} (hn : n < 8) (f : Lane → Lane) : s.onReader n f = onLanes f s := if_pos hn

theorem shadowTimeout_drops {l : Lane} {n : Nat} {sh : CalShadow} (h : l.shadow n = some sh) (ht : 1000 ≤ sh.age) :
    l.shadowTimeout n = l.dropShadow n := if_pos (by simpa [h] using ht)

/-- A shadow's time runs out on both lanes, whether they run frames or not. -/
theorem calendarShadowTimeout_gives (s : State) (x : LaneId) (n : Nat) :
    RegGives (.calendarShadowTimeout n) s x ((s.lane x).shadowTimeout n) := by
  refine ⟨_, rfl, ?_, rfl⟩
  cases x with
  | a => rfl
  | b => rfl

/-! ### Messages of the PTP port (R369 to R371) -/

section
variable {s : State} {l : Lane} (hl : s.ptpLane = some l)
include hl

/-- What is not the profile's is ignored. -/
theorem ptpMessage_ignored {m : PtpMsg} (h : l.ptpTakes m = false) : s.ptpMessage m = s := by
  unfold State.ptpMessage
  rw [hl]
  exact if_pos (by simp [h])

/-- A message that yields no sample, no change of grandmaster and no reply is the lane's alone. -/
theorem ptpMessage_lane {m : PtpMsg} {k : Lane} (h : l.ptpTakes m = true)
    (hm : l.ptpMessage m (s.hub.ptpRx m.port m.enters) = (k, none, false))
    (hr : k.ptpReply m (s.hub.ptpRx m.port m.enters) = (k, none)) : s.ptpMessage m = s.setLane l.id k := by
  unfold State.ptpMessage
  rw [hl]
  dsimp only
  rw [if_neg (by simp [h]), hm]
  dsimp only
  rw [hr]
  cases l.id with
  | a => rfl
  | b => rfl

theorem ptpInterval_sends {k : PtpKind} (h : l.ptpMaySend k = true) :
    s.ptpInterval k = (s.setLane l.id (l.ptpSend k).1).setHub fun h => h.sent (.ptp (l.ptpSend k).2) := by
  unfold State.ptpInterval
  rw [hl]
  exact if_neg (by simp [h])

theorem ptpInterval_idle {k : PtpKind} (h : l.ptpMaySend k = false) : s.ptpInterval k = s := by
  unfold State.ptpInterval
  rw [hl]
  exact if_pos (by simp [h])

theorem exec_announceReceiptTimeout : exec .announceReceiptTimeout s = .next (s.setLane l.id l.announceTimeout) := by
  show Host.Outcome.next (s.ptpLane.elim s fun l => s.setLane l.id l.announceTimeout) = _
  rw [hl]
  rfl

end

section
variable (l : Lane)

/-- A message of another port, transport or domain is none of the port's (Table TIM-4). -/
theorem ptpTakes_other {m : PtpMsg}
    (h : m.port ≠ l.get R.PTP.PORT ∨ m.l2 ≠ (l.get R.PTP.PROFILE != 1) ∨ m.domain ≠ l.get R.PTP.DOMAIN) :
    l.ptpTakes m = false := by
  have hhead : (m.port == l.get R.PTP.PORT && m.l2 == l.ptpL2 && m.domain == l.get R.PTP.DOMAIN) = false := by
    unfold Lane.ptpL2
    rcases h with h | h | h <;> simp [h]
  unfold Lane.ptpTakes
  dsimp only
  rw [hhead, Bool.false_and]

theorem fromMaster_iff (sender : Dword) : l.fromMaster sender = true ↔ ∃ ds, l.ptp.best = some (sender, ds) := by
  unfold Lane.fromMaster
  cases l.ptp.best with
  | none => simp
  | some b => simp [Prod.ext_iff]

theorem ptpReply_sync {m : PtpMsg} {seq : Nat} {two : Bool} {origin corr : Int} (hb : m.body = .sync seq two origin corr) (rx : Int) :
    l.ptpReply m rx = (l, none) := by
  unfold Lane.ptpReply
  rw [hb]

/-- A two-step Sync of the selected master waits for its Follow_Up (R371). -/
theorem ptpMessage_twoStep {m : PtpMsg} {seq : Nat} {origin corr : Int} (hb : m.body = .sync seq true origin corr)
    (hm : l.fromMaster m.sender = true) (rx : Int) :
    l.ptpMessage m rx = ({ l with ptp := { l.ptp with sync := seq, t2 := some (rx - corr), t1 := none } }, none, false) := by
  unfold Lane.ptpMessage
  simp only [hb, hm]
  rfl

theorem ptpMessage_stranger {m : PtpMsg} {seq : Nat} {two : Bool} {origin corr : Int} (hb : m.body = .sync seq two origin corr)
    (hm : l.fromMaster m.sender = false) (rx : Int) : l.ptpMessage m rx = (l, none, false) := by
  unfold Lane.ptpMessage
  simp only [hb, hm]
  rfl

theorem ptpMaySend_sync : l.ptpMaySend .sync = (l.ptp.state == .master) := rfl

theorem announceTimeout_best : l.announceTimeout.ptp.best = none := rfl

theorem announceTimeout_state : l.announceTimeout.ptp.state = if l.masterCapable then .master else .listening := rfl

end

/-! ### The timestamp queue (R369, Table TIM-8) -/

section
variable (l : Lane)

/-- The registers that show the head of the timestamp queue. -/
def tsqShown : List Nat :=
  [R.TSQ.LEVEL.key, R.TSQ.HVALID.key, R.TSQ.HNS.key, R.TSQ.HSEC_L.key, R.TSQ.HSEC_H.key]

theorem putHead_reg {k : Nat} (h : k ∉ tsqShown) (v p i n t : Nat) :
    (((((l.put R.TSQ.HVALID v).put R.TSQ.HPORT p).put R.TSQ.HID i).put R.TSQ.HNS n).put64 R.TSQ.HSEC_L R.TSQ.HSEC_H t).reg k = l.reg k := by
  have hne (f : Fld) (hf : f.key ∈ tsqShown) : k ≠ f.key := fun hk => h (hk ▸ hf)
  rw [Lane.put64, Lane.reg_put_ne _ _ _ _ (hne _ (by decide)), Lane.reg_put_ne _ _ _ _ (hne _ (by decide)),
    Lane.reg_put_ne _ _ _ _ (hne _ (by decide)), Lane.reg_put_ne _ _ _ _ (hne _ (by decide)),
    Lane.reg_put_ne _ _ _ _ (hne _ (by decide)), Lane.reg_put_ne _ _ _ _ (hne _ (by decide))]

theorem showTsq_reg {k : Nat} (h : k ∉ tsqShown) : l.showTsq.reg k = l.reg k := by
  have hlevel : ((l.put R.TSQ.LEVEL l.tsq.length).putB R.TSQ.FULL (decide (16 ≤ l.tsq.length))).reg k = l.reg k := by
    have hne (f : Fld) (hf : f.key ∈ tsqShown) : k ≠ f.key := fun hk => h (hk ▸ hf)
    rw [Lane.putB, Lane.reg_put_ne _ _ _ _ (hne _ (by decide)), Lane.reg_put_ne _ _ _ _ (hne _ (by decide))]
  unfold Lane.showTsq
  dsimp only
  split
  · exact (putHead_reg _ h 0 0 0 0 0).trans hlevel
  · exact (putHead_reg _ h _ _ _ _ _).trans hlevel

theorem showTsq_get {f : Fld} (h : f.key ∉ tsqShown) : l.showTsq.get f = l.get f := by
  rw [Lane.get, showTsq_reg l h, ← Lane.get]

@[simp] theorem showTsq_tsq : l.showTsq.tsq = l.tsq := by
  unfold Lane.showTsq
  dsimp only
  split <;> simp [Lane.put64]

@[simp] theorem showTsq_ptp : l.showTsq.ptp = l.ptp := by
  unfold Lane.showTsq
  dsimp only
  split <;> simp [Lane.put64]

variable {l} {e : TsEntry}

/-- A stamp of no pending message is stale. -/
theorem takeStamp_stale (h : l.ptp.pending.find? (fun p => p.1 == e.ident) = none) :
    l.takeStamp e = (({ l with tsq := l.tsq.erase e } : Lane).inc R.TSQ.STALECNT).irq R.TSQ.I_STALE := by
  unfold Lane.takeStamp
  dsimp only
  rw [h]

/-- A stamp completes the message that pends under its identifier. -/
theorem takeStamp_pending {p : Nat × Nat × Nat × Dword} (h : l.ptp.pending.find? (fun p => p.1 == e.ident) = some p) :
    (l.takeStamp e).ptp.pending = l.ptp.pending.erase p := by
  unfold Lane.takeStamp
  dsimp only
  rw [h]
  dsimp only
  split_ifs
  · rfl
  · rfl

theorem takeStamp_tsq : (l.takeStamp e).tsq = l.tsq.erase e := by
  unfold Lane.takeStamp
  dsimp only
  split
  · rfl
  · split_ifs
    · rfl
    · rfl

/-- The stamp of a Sync allows its Follow_Up. -/
theorem ptpFollow_sync {p : Nat × Nat × Nat × Dword} (h : l.ptp.pending.find? (fun p => p.1 == e.ident) = some p) (hk : p.2.1 = 0) :
    l.ptpFollow e = some { l.ptpOut 8 p.2.2.1 with time := e.ns, interval := l.getI R.PTP.LOGSYNC } := by
  obtain ⟨i, k, n, d⟩ := p
  subst hk
  unfold Lane.ptpFollow
  rw [h]
  rfl

/-- E2 takes at once the stamp that enters an empty queue (assumption log 78). -/
theorem txStamp_taken {s : State} (hl : s.server = some l) (hrun : l.engineRuns 2 = true) (hempty : l.tsq = []) (e : TsEntry) :
    s.txStamp e = (s.setLane l.id (({ l with tsq := [e] } : Lane).takeStamp e).showTsq).setHub fun h => h.sendPtp (l.ptpFollow e) := by
  have hpush : l.pushStamp e = { l with tsq := [e] } := by
    unfold Lane.pushStamp
    rw [hempty]
    rfl
  unfold State.txStamp
  rw [hl]
  dsimp only
  rw [hpush, if_neg (by simp [hrun])]

section
variable {s : State} (hl : s.server = some l) (hrun : l.engineRuns 2 = true) (hempty : l.tsq = [])
include hl hrun hempty

/-- The stamp of the one message that pends completes it, and a Sync has its Follow_Up sent. -/
theorem txStamp_completes {p : Nat × Nat × Nat × Dword} (hpend : l.ptp.pending = [p]) (he : p.1 = e.ident) :
    ((s.txStamp e).lane l.id).tsq = [] ∧ ((s.txStamp e).lane l.id).ptp.pending = [] ∧
      (p.2.1 = 0 → (s.txStamp e).hub =
        s.hub.sent (.ptp { l.ptpOut 8 p.2.2.1 with time := e.ns, interval := l.getI R.PTP.LOGSYNC })) := by
  have hfind : l.ptp.pending.find? (fun p => p.1 == e.ident) = some p := by simp [hpend, he]
  rw [txStamp_taken hl hrun hempty, State.setHub_lane, State.setLane_lane, State.setHub_hub, State.setLane_hub, showTsq_tsq, showTsq_ptp]
  refine ⟨takeStamp_tsq.trans (by simp), ?_, fun hk => ?_⟩
  · refine (takeStamp_pending (l := { l with tsq := [e] }) hfind).trans ?_
    rw [hpend, List.erase_cons_head]
  · rw [ptpFollow_sync hfind hk]
    rfl

/-- A stamp with nothing pending is counted. -/
theorem txStamp_stale (hpend : l.ptp.pending = []) : ((s.txStamp e).lane l.id).tsq = [] ∧
    ((s.txStamp e).lane l.id).get R.TSQ.STALECNT = satAdd R.TSQ.STALECNT.width (l.get R.TSQ.STALECNT) 1 := by
  rw [txStamp_taken hl hrun hempty, State.setHub_lane, State.setLane_lane, showTsq_tsq, showTsq_get _ (by decide)]
  refine ⟨takeStamp_tsq.trans (by simp), ?_⟩
  rw [takeStamp_stale (by simp [hpend]), Lane.irq_get_ne _ _ _ (by decide), Lane.inc_get _ _ _ (by decide) (by decide)]
  rfl

end

end

/-- The stamp of a message of `port` that leaves `ns` after the frame start. -/
theorem exec_txTimestamp (s : State) {port ident : Nat} (hp : port < 4) (hi : ident < 256) (ns : Int) :
    exec (.txTimestamp port ident ns) s = .next (s.txStamp { port, ident, ns := s.hub.ptpTx port ns }) := by
  show Host.Outcome.next (s.txStamp { port := port % 4, ident := ident % 256, ns := s.hub.ptpTx (port % 4) ns }) = _
  rw [Nat.mod_eq_of_lt hp, Nat.mod_eq_of_lt hi]

/-! ### The servo's timers (R373, Table TIM-5) -/

theorem servoTimer_active {s : State} {l : Lane} (hl : s.active = some l) (f : LocalClock → ServoCfg → LocalClock) :
    s.servoTimer f = s.setHub fun h => { h with clk := f h.clk (servoCfg l) } := by
  unfold State.servoTimer
  rw [hl]
  rfl

section
variable {c : LocalClock} {g : ServoCfg}

theorem sampleTimeout_locked (ht : g.smpTo ≤ c.sinceSample) (h : c.sync = .locked) :
    c.sampleTimeout g = { c.holdRate with sync := .holdover, holdFor := 0 } := by
  unfold LocalClock.sampleTimeout
  rw [if_neg (Nat.not_lt.2 ht), h]

theorem sampleTimeout_acquire (ht : g.smpTo ≤ c.sinceSample) (h : c.sync = .acquire) :
    c.sampleTimeout g = { c.holdRate with sync := .free } := by
  unfold LocalClock.sampleTimeout
  rw [if_neg (Nat.not_lt.2 ht), h]

theorem holdoverTimeout_due (h : c.sync = .holdover) (ht : g.hoTime * 1000 ≤ c.holdFor) :
    c.holdoverTimeout g = { c with sync := .free, holdFor := 0 } := if_pos ⟨h, ht⟩

end

/-- Settles O41: each command by its lane, its message or its stamp, and the servo's timers by the clock that they leave. -/
theorem timeServiceEvents : Obligations.TimeServiceEvents := by
  intro s
  refine ⟨fun x n hn hr => ⟨?freeze, ?release, fun sh hsh hage => ?timeout⟩,
    fun l hl => ⟨fun m hm => ?ignored, fun m seq origin corr htakes hb => ⟨fun hbest => ?twoStep, fun hbest => ?stranger⟩,
      fun hst => ?sends, fun hst => ?idle, ?announce⟩,
    fun l port ident ns hl hp hi hrun hempty => ⟨fun kind seq dest hpend => ?stamp, fun hpend => ?stale⟩,
    fun l hl => ⟨fun ht => ⟨fun hsync => ?locked, fun hsync => ?acquire⟩, fun hsync ht => ?holdover⟩⟩
  case freeze => exact regGives_onLanes _ s x _ _ (congrArg Host.Outcome.next (onReader_engine s hn _)) hr rfl
  case release => exact regGives_onLanes _ s x _ _ (congrArg Host.Outcome.next (onReader_engine s hn _)) hr rfl
  case timeout =>
    have hgives := calendarShadowTimeout_gives s x n
    rwa [shadowTimeout_drops hsh hage] at hgives
  case ignored => exact congrArg Host.Outcome.next (ptpMessage_ignored hl (ptpTakes_other l hm))
  case twoStep =>
    exact congrArg Host.Outcome.next (ptpMessage_lane hl htakes
      (ptpMessage_twoStep l hb ((fromMaster_iff l m.sender).2 hbest) _) (ptpReply_sync _ hb _))
  case stranger =>
    have hother : l.fromMaster m.sender = false := by
      rw [← Bool.not_eq_true, fromMaster_iff]
      exact fun ⟨ds, hds⟩ => hbest ds hds
    exact congrArg Host.Outcome.next (ptpMessage_lane hl htakes (ptpMessage_stranger l hb hother _) (ptpReply_sync _ hb _))
  case sends => exact congrArg Host.Outcome.next (ptpInterval_sends hl (by rw [ptpMaySend_sync, hst]; rfl))
  case idle => exact congrArg Host.Outcome.next (ptpInterval_idle hl (by rw [ptpMaySend_sync]; simpa using hst))
  case announce =>
    refine ⟨_, exec_announceReceiptTimeout hl, ?_, State.setLane_hub s _ _, ?_⟩
    · rw [State.setLane_lane, announceTimeout_best]
    · rw [State.setLane_lane, announceTimeout_state]
  case stamp => exact ⟨_, exec_txTimestamp s hp hi ns, txStamp_completes hl hrun hempty hpend rfl⟩
  case stale => exact ⟨_, exec_txTimestamp s hp hi ns, txStamp_stale hl hrun hempty hpend⟩
  case locked =>
    have hclk := sampleTimeout_locked ht hsync
    exact ⟨_, congrArg Host.Outcome.next (servoTimer_active hl _), congrArg LocalClock.sync hclk,
      (congrArg LocalClock.ns hclk).trans rfl, rfl⟩
  case acquire =>
    have hclk := sampleTimeout_acquire ht hsync
    exact ⟨_, congrArg Host.Outcome.next (servoTimer_active hl _), congrArg LocalClock.sync hclk,
      (congrArg LocalClock.ns hclk).trans rfl, rfl⟩
  case holdover =>
    refine congrArg Host.Outcome.next ((servoTimer_active hl _).trans ?_)
    exact congrArg (fun c => { s with hub := { s.hub with clk := c } }) (holdoverTimeout_due hsync ht)

end Sys2Proof.Machine
end

section
/-! The canonical form of the non-volatile memory (O3, O4) and the front of the queue (O1). -/

namespace Sys2Proof.Machine

/-! ### Operations of the store (14_nv_store.md R323, R324, R339, R340) -/

/-- The canonical form speaks of the contents alone. -/
theorem NvStore.wf_of_cells {s t : NvStore} (h : t.cells = s.cells) (hs : s.wf = true) : t.wf = true := by
  have hm : t.mram = s.mram := congrArg Prod.fst h
  have hn : t.nand = s.nand := congrArg Prod.snd h
  rwa [NvStore.wf, hm, hn]

/-- A fold whose steps keep the canonical form keeps it. -/
theorem NvStore.foldl_wf {α : Type} (f : NvStore → α → NvStore) (hf : ∀ (t : NvStore) a, t.wf = true → (f t a).wf = true)
    (l : List α) : ∀ s : NvStore, s.wf = true → (l.foldl f s).wf = true := by
  induction l with
  | nil => exact fun _ h => h
  | cons a l ih => exact fun s h => ih (f s a) (hf s a h)

theorem NvStore.oldManifest_wf (s : NvStore) (h : s.wf = true) : s.oldManifest.wf = true := by
  unfold NvStore.oldManifest
  exact NvStore.foldl_wf _ (fun t _ => t.writePage_wf _ _) _ s h

theorem NvStore.tear_wf (s : NvStore) (k : Nat) (h : s.wf = true) : (s.tear k).wf = true := by
  refine NvStore.foldl_wf _ (fun t p ht => ?_) _ _ (NvStore.wf_of_cells (s := s) rfl h)
  split_ifs
  · exact ht
  · exact t.writePage_wf _ _ ht

theorem NvStore.nandFail_wf (s : NvStore) (slot p : Nat) (junk : List Byte) (h : s.wf = true) : (s.nandFail slot p junk).wf = true := by
  rw [NvStore.wf_iff] at h ⊢
  exact ⟨h.1, writeCells_wf _ _ _ _ h.2⟩

/-! ### Commands that cut off or undo a write sequence -/

/-- The store of `t` stands in canonical form where that of `s` does. -/
def KeepsForm (s t : State) : Prop := s.nv.wf = true → t.nv.wf = true

theorem KeepsForm.of_cells {s t : State} (h : t.nv.cells = s.nv.cells) : KeepsForm s t := NvStore.wf_of_cells h

theorem KeepsForm.of_nv {s t : State} (h : t.nv = s.nv) : KeepsForm s t := .of_cells (congrArg NvStore.cells h)

theorem KeepsForm.refl (s : State) : KeepsForm s s := id

theorem KeepsForm.trans {s t u : State} (h : KeepsForm s t) (g : KeepsForm t u) : KeepsForm s u := fun hs => g (h hs)

section
variable (s : State)

theorem keepManifest_form : KeepsForm s s.keepManifest := by
  unfold State.keepManifest
  dsimp only
  split_ifs
  · exact s.nv.oldManifest_wf
  · exact .refl s

theorem beginRestart_form (trig : Nat) : KeepsForm s (s.beginRestart trig) :=
  (keepManifest_form s).trans (.of_nv (beginRestart_nv s trig))

theorem ioFault_form : KeepsForm s s.ioFault := by
  intro hs
  unfold State.ioFault
  exact beginRestart_form _ 7 (keepManifest_form s hs)

theorem tearStore_form : KeepsForm s s.tearStore := by
  unfold State.tearStore
  split_ifs
  · exact s.nv.tear_wf _
  · exact .refl s

theorem powerDown_form : KeepsForm s s.powerDown := (keepManifest_form s).trans (.of_cells rfl)

theorem switchToCell_form : KeepsForm s s.switchToCell := by
  unfold State.switchToCell
  split_ifs
  · exact .refl s
  · exact (tearStore_form s).trans (powerDown_form _)

theorem domainFault_form (d : Domain) : KeepsForm s (s.domainFault d) := by
  unfold State.domainFault
  split
  · exact .refl s
  · cases d with
    | bkp | cra | crb | met => exact .of_nv rfl
    | ts => exact .of_nv (touchstoneLoss_nv (s.domOff .ts))
    | la => exact .of_nv (laneDomFault_nv s .a)
    | lb => exact .of_nv (laneDomFault_nv s .b)
    | io => exact ioFault_form (s.domOff .io)
    | nv => exact tearStore_form (s.domOff .nv)
    | dsp =>
      refine .of_nv ?_
      dsimp only
      split <;> exact dispPowerOff_nv (s.domOff .dsp)

/-- What is not a fault of a domain leaves the store. -/
theorem clkAction_form (n : Nat) : KeepsForm s (s.clkAction n) := by
  unfold State.clkAction
  split_ifs
  · exact .of_nv rfl
  · exact .of_nv (touchstoneLoss_nv s)
  · exact domainFault_form s .cra
  · exact domainFault_form s .crb
  · exact .of_nv (State.setPwr_nv s _)
  · exact .of_nv (State.setHub_nv s _)
  · exact .of_nv (State.setHub_nv s _)
  · exact .of_nv (State.setHub_nv s _)
  · exact .of_nv (State.setHub_nv s _)
  · exact domainFault_form s .nv
  · exact .refl s

theorem clockFailure_form (n : Nat) : KeepsForm s (s.clockFailure n) := by
  unfold State.clockFailure
  split_ifs
  · exact .refl s
  · exact .of_nv rfl
  · exact .refl s
  · exact clkAction_form (s.setPwr _) n

/-! ### The start of a frame and the phases of a start-up -/

theorem frameStart_form (m : SupplyMeas) : KeepsForm s (s.frameStart m) := by
  cases hoff : s.pwr.off with
  | true =>
    rw [frameStart_off s m hoff]
    exact .refl s
  | false =>
    cases hr : s.restartAsked with
    | none =>
      rw [frameStart_none s m hoff hr]
      exact .of_cells (frameGoesOn_cells s m)
    | some r =>
      rw [frameStart_some s m hoff r hr]
      exact (beginRestart_form s r.trig).trans (.of_cells (frameGoesOn_cells _ m))

theorem noLane_form : KeepsForm s s.noLane := by
  unfold State.noLane
  dsimp only
  split_ifs
  · exact .of_nv (by dsimp only; rw [laneOff_nv, laneOff_nv])
  · exact beginRestart_form s 8
  · exact .refl s

theorem modulePhase_form (u : Startup) (tsOk : Bool) (a b : LaneStart) : KeepsForm s (s.modulePhase u tsOk a b) := by
  have phases (n : Nat) := (bothPhases_apart s n a b).1
  unfold State.modulePhase
  dsimp only
  split
  · exact .refl s
  split
  · exact .refl s
  split
  · refine .of_nv ?_
    split <;> rfl
  split
  · refine .of_nv ?_
    split
    · rfl
    · unfold State.nextPhase
      dsimp only
      rw [laneOn_nv, laneOn_nv]
      split <;> rfl
  split
  · exact .of_nv (phases 3)
  split
  · refine .of_nv ?_
    split
    · exact (bothPhases_apart _ 4 a b).1
    · exact phases 4
  split
  · refine .of_nv ?_
    have hf := (firstDsp_nv _).trans (phases 5)
    split <;> exact hf
  · exact KeepsForm.trans (.of_nv (phases 6)) (noLane_form _)

theorem phaseEnd_form (lane : Option LaneId) (tsOk : Bool) (a b : LaneStart) : KeepsForm s (s.phaseEnd lane tsOk a b) := by
  unfold State.phaseEnd
  split
  · split
    · exact .refl s
    · exact KeepsForm.trans (.of_nv (lanePhase_apart s _ _).1) (noLane_form _)
  · split
    · exact modulePhase_form s _ tsOk a b
    · exact .refl s

/-! ### The apply instant (14_nv_store.md R323, R325) -/

theorem runStore_form (l : Lane) (es : List OutEntry) : KeepsForm s (s.runStore l es) := by
  by_cases haway : s.nvReady = false ∨ l.on R.NVS.UNAVAIL = true
  · rw [runStore_away s l es haway]
    exact .of_cells rfl
  · simp only [not_or, Bool.not_eq_false, Bool.not_eq_true] at haway
    intro hs
    have hrun := s.nv.run_wf l.nv.patSize l.lifeCycle l.committedSlot es hs
    rcases runStore_nv_ready s l es haway.1 haway.2 with h | ⟨r, junk, -, -, h⟩
    · rwa [h]
    · rw [h]
      exact NvStore.nandFail_wf _ _ _ _ hrun

theorem driveFrame_form (l : Lane) (f : OutFrame) : KeepsForm s (s.driveFrame l f) := by
  obtain ⟨u, hu, hdrive⟩ := driveFrame_appliedView s l f
  have hnv : (s.driveFrame l f).nv = (u.runStore l f.entries).nv := congrArg AppliedView.nv hdrive
  refine KeepsForm.trans (t := u) (.of_nv (congrArg ApplyView.nv hu)) fun h => ?_
  rw [hnv]
  exact runStore_form u l f.entries h

theorem driveOutputs_form : KeepsForm s s.driveOutputs := by
  have quenches (u : State) (c : Bool) (h : KeepsForm s u) :
      KeepsForm s (if c then u.setHub fun h => { h with outs := h.outs.quenched } else u) := by
    split <;> exact h
  unfold State.driveOutputs
  dsimp only
  refine quenches _ _ ?_
  split
  · exact driveFrame_form (s.setHub fun h => { h with outs := h.outs.loadImage.pulseFrame }) _ _
  · exact runStore_form (s.setHub fun h => { h with outs := h.outs.loadImage.pulseFrame }) _ _

theorem lostVerdict_nv : s.lostVerdict.nv = s.nv := rfl

theorem needVerdict_nv : s.needVerdict.nv = s.nv := by
  unfold State.needVerdict
  dsimp only
  split_ifs
  · rfl
  · exact (lostVerdict_nv _).trans (touchstoneLoss_nv s)
  · exact touchstoneLoss_nv s

/-- What follows the outputs leaves the store. -/
theorem afterOutputs_nv (mram : List Host.Cell) : (panelDown (panelUp (s.applyPower.applyReads mram))).nv = s.nv := by
  rw [panelDown_nv, panelUp_nv]
  exact congrArg AppliedView.nv ((applyReads_appliedView _ _).trans (applyPower_appliedView s))

theorem atApply_nv (ok : Bool) : (s.atApply ok).nv = s.nv :=
  calc (s.atApply ok).nv
    _ = (s.atApply ok).applyView.nv := by rw [State.applyView]
    _ = s.instantView.nv := by rw [atApply_applyView]
    _ = s.nv := rfl

theorem applyInstant_form (ok : Bool) : KeepsForm s (s.applyInstant ok) := by
  have hat : (s.needVerdict.atApply ok).nv = s.nv := (atApply_nv _ ok).trans (needVerdict_nv s)
  unfold State.applyInstant
  dsimp only
  split
  · exact .refl s
  · have hlast (mram : List Host.Cell) :
        KeepsForm s (panelDown (panelUp ((s.needVerdict.atApply ok).driveOutputs.applyPower.applyReads mram))) :=
      (KeepsForm.of_nv hat).trans ((driveOutputs_form _).trans (.of_nv (afterOutputs_nv _ mram)))
    split
    · exact (hlast _).trans (powerDown_form _)
    · exact hlast _

/-! ### Recovery (17_security.md R396) -/

theorem imagePage_form (x tag idx : Nat) (data : List Byte) : KeepsForm s (s.imagePage x tag idx data) := by
  unfold State.imagePage State.recoveryPage
  split_ifs
  · exact s.nv.writeNand_wf _ _ _
  · exact .refl s
  · exact .of_nv (pageTrans_nv s x tag idx data)

theorem execute_form (r : NvReq) : KeepsForm s { s with nv := s.nv.execute [] r } := s.nv.execute_wf [] r

theorem recoveryPromote_form : KeepsForm s s.recoveryPromote := by
  unfold State.recoveryPromote
  dsimp only
  split
  · exact .refl s
  · exact execute_form s _

end

/-- Every command keeps the canonical form: those that leave the store alone, and the eight others by the lemmas above. -/
theorem exec_form (c : Instr) (s : State) : ∃ t, exec c s = .next t ∧ KeepsForm s t := by
  cases hc : mayStore c with
  | false =>
    obtain ⟨t, ht, hnv⟩ := exec_keeps_nv c s hc
    exact ⟨t, ht, .of_nv hnv⟩
  | true =>
    cases c
    case applyInstant ok => exact ⟨_, rfl, applyInstant_form s ok⟩
    case page x tag i b => exact ⟨_, rfl, imagePage_form s x tag i b⟩
    case ucmdPromote o =>
      refine ⟨_, rfl, ?_⟩
      split
      · exact recoveryPromote_form s
      · exact .of_nv rfl
    case frameStart m => exact ⟨_, rfl, frameStart_form s m⟩
    case startupPhaseEnd x ok a b => exact ⟨_, rfl, phaseEnd_form s x ok a b⟩
    case domainFault d => exact ⟨_, rfl, domainFault_form s d⟩
    case clockFailure n => exact ⟨_, rfl, clockFailure_form s n⟩
    case backupSwitchToCell => exact ⟨_, rfl, switchToCell_form s⟩
    all_goals exact nomatch hc

/-- Settles O1: by the definition of a step on a queue that is not empty. -/
theorem stepRunsFrontCommand : Obligations.StepRunsFrontCommand := fun _ _ _ => rfl

/-- Settles O3: nothing is listed of a store that nothing has written to. -/
theorem resetStoreIsCanonical : Obligations.ResetStoreIsCanonical := NvStore.fresh_wf

/-- Settles O4: the block idles on an empty queue, and each command keeps the form. -/
theorem stepKeepsStoreCanonical : Obligations.StepKeepsStoreCanonical := by
  intro s t hs hstep
  unfold step at hstep
  split at hstep
  case h_1 => exact Host.Outcome.next.inj hstep ▸ hs
  case h_2 c rest _ =>
    obtain ⟨u, hu, hform⟩ := exec_form c { s with pending := rest }
    exact Host.Outcome.next.inj (hu.symm.trans hstep) ▸ hform hs

end Sys2Proof.Machine
end

section
/-! What leaves the queue of waiting commands alone, and O6. -/

namespace Sys2Proof.Machine

section
variable (s : State)

/-! ### Free values, display and panel (22_display.md R477 to R488) -/

@[simp] theorem draw_pending : s.draw.2.pending = s.pending := rfl

@[simp] theorem drawWords_pending (n : Nat) : (s.drawWords n).2.pending = s.pending := by
  induction n generalizing s with
  | zero => rfl
  | succ n ih => exact ih s.draw.2

@[simp] theorem dispIrq_pending (f : Fld) : (dispIrq f s).pending = s.pending := rfl

@[simp] theorem panelUp_pending : (panelUp s).pending = s.pending := by
  unfold panelUp
  split <;> rfl

@[simp] theorem panelDown_pending : (panelDown s).pending = s.pending := by
  unfold panelDown
  split <;> rfl

@[simp] theorem dispPowerOff_pending : (dispPowerOff s).pending = s.pending := by
  unfold dispPowerOff
  split
  · rfl
  · exact panelDown_pending s

@[simp] theorem renderComplete_pending : (renderComplete s).pending = s.pending := by
  unfold renderComplete
  dsimp only
  repeat' split
  all_goals rfl

@[simp] theorem verticalBlank_pending : (verticalBlank s).pending = s.pending := by
  unfold verticalBlank
  dsimp only
  split <;> rfl

@[simp] theorem refreshCheck_pending (crc : Word) : (refreshCheck crc s).pending = s.pending := by
  unfold refreshCheck
  dsimp only
  repeat' split
  all_goals rfl

@[simp] theorem displayStale_pending : (displayStale s).pending = s.pending := by
  unfold displayStale
  dsimp only
  split <;> rfl

@[simp] theorem railFault_pending (rail : Nat) : (railFault rail s).pending = s.pending := by
  unfold railFault
  dsimp only
  repeat' split
  all_goals rfl

@[simp] theorem railRetry_pending : (railRetry s).pending = s.pending := by
  unfold railRetry
  dsimp only
  split
  · rfl
  · exact panelUp_pending _

@[simp] theorem stringFault_pending (n : Nat) (short : Bool) : (stringFault n short s).pending = s.pending := by
  unfold stringFault
  dsimp only
  split <;> rfl

@[simp] theorem panelRequests_pending : (panelRequests s).pending = s.pending := by
  unfold panelRequests
  split
  · rfl
  · dsimp only
    split
    · exact panelUp_pending _
    · rfl

/-! ### Touchstone (05_touchstone.md R114, R134) -/

@[simp] theorem lostVerdict_pending : s.lostVerdict.pending = s.pending := rfl
@[simp] theorem startVerdict_pending : s.startVerdict.pending = s.pending := rfl
@[simp] theorem runVerdict_pending : s.runVerdict.pending = s.pending := rfl

@[simp] theorem compare_pending : s.compare.pending = s.pending := by
  unfold State.compare
  split_ifs <;> rfl

@[simp] theorem touchstoneLoss_pending : s.touchstoneLoss.pending = s.pending := by
  unfold State.touchstoneLoss
  split <;> rfl

/-! ### Restarts and start-up (03_power_clocks_start.md R74, R79 to R84) -/

@[simp] theorem laneOff_pending (x : LaneId) : (s.laneOff x).pending = s.pending := State.setLane_pending s x _
@[simp] theorem laneOn_pending (x : LaneId) : (s.laneOn x).pending = s.pending := State.setLane_pending _ x _
@[simp] theorem startFrames_pending : s.startFrames.pending = s.pending := rfl
@[simp] theorem nextPhase_pending (n : Nat) : (s.nextPhase n).pending = s.pending := rfl
@[simp] theorem loadQuench_pending : s.loadQuench.pending = s.pending := rfl

@[simp] theorem keepManifest_pending : s.keepManifest.pending = s.pending := by
  unfold State.keepManifest
  dsimp only
  split <;> rfl

@[simp] theorem beginRestart_pending (trig : Nat) : (s.beginRestart trig).pending = s.pending := by
  unfold State.beginRestart
  dsimp only
  split <;> simp

@[simp] theorem testPhase_pending (x : LaneId) (e : LaneStart) : (s.testPhase x e).pending = s.pending := by
  unfold State.testPhase
  dsimp only
  split_ifs <;> simp

@[simp] theorem lanePhase_pending (x : LaneId) (e : LaneStart) : (s.lanePhase x e).pending = s.pending := by
  unfold State.lanePhase
  dsimp only
  split_ifs <;> simp

@[simp] theorem firstDsp_pending : s.firstDsp.pending = s.pending := by
  unfold State.firstDsp
  dsimp only
  split_ifs <;> rfl

@[simp] theorem noLane_pending : s.noLane.pending = s.pending := by
  unfold State.noLane
  dsimp only
  split_ifs <;> simp

@[simp] theorem bothPhases_pending (n : Nat) (a b : LaneStart) : (s.bothPhases n a b).pending = s.pending := by
  unfold State.bothPhases
  dsimp only
  split_ifs <;> simp

@[simp] theorem modulePhase_pending (u : Startup) (tsOk : Bool) (a b : LaneStart) :
    (s.modulePhase u tsOk a b).pending = s.pending := by
  unfold State.modulePhase
  dsimp only
  split_ifs <;> simp

@[simp] theorem phaseEnd_pending (lane : Option LaneId) (tsOk : Bool) (a b : LaneStart) :
    (s.phaseEnd lane tsOk a b).pending = s.pending := by
  unfold State.phaseEnd
  repeat' split
  all_goals simp

@[simp] theorem agreeKind_pending : s.agreeKind.pending = s.pending := by
  unfold State.agreeKind
  dsimp only
  split <;> rfl

@[simp] theorem startFrame_pending : s.startFrame.pending = s.pending := by
  unfold State.startFrame
  dsimp only
  repeat' split
  all_goals simp

@[simp] theorem readyTimeout_pending : s.readyTimeout.pending = s.pending := by
  unfold State.readyTimeout
  split
  · repeat' split
    all_goals simp
  · refine foldl_keeps State.pending _ _ fun t x _ => ?_
    repeat' split
    all_goals rfl

@[simp] theorem atK0_pending (u : Startup) : (s.atK0 u).pending = s.pending := by
  unfold State.atK0
  dsimp only
  split_ifs <;> simp

/-! ### Faults of domains and clocks, shutdown and power return (03_power_clocks_start.md R67 to R79) -/

@[simp] theorem tearStore_pending : s.tearStore.pending = s.pending := by
  unfold State.tearStore
  split <;> rfl

@[simp] theorem ioFault_pending : s.ioFault.pending = s.pending :=
  (beginRestart_pending _ 7).trans (keepManifest_pending s)

@[simp] theorem domOff_pending (d : Domain) : (s.domOff d).pending = s.pending := rfl
@[simp] theorem laneDomFault_pending (x : LaneId) : (s.laneDomFault x).pending = s.pending := laneOff_pending s x

@[simp] theorem domainFault_pending (d : Domain) : (s.domainFault d).pending = s.pending := by
  unfold State.domainFault
  dsimp only
  split
  · rfl
  · cases d
    case dsp =>
      dsimp only
      split <;> simp
    all_goals simp

@[simp] theorem domainRepower_pending (d : Domain) : (s.domainRepower d).pending = s.pending := by
  unfold State.domainRepower
  dsimp only
  repeat' split
  all_goals rfl

@[simp] theorem clkAction_pending (n : Nat) : (s.clkAction n).pending = s.pending := by
  unfold State.clkAction
  split_ifs <;> simp

@[simp] theorem clockFailure_pending (n : Nat) : (s.clockFailure n).pending = s.pending := by
  unfold State.clockFailure
  split_ifs <;> simp

@[simp] theorem powerDown_pending : s.powerDown.pending = s.pending := keepManifest_pending s

@[simp] theorem switchToCell_pending : s.switchToCell.pending = s.pending := by
  unfold State.switchToCell
  split <;> simp

@[simp] theorem switchToVdd_pending : s.switchToVdd.pending = s.pending := by
  unfold State.switchToVdd
  split <;> rfl

@[simp] theorem unlockBackup_pending : s.unlockBackup.pending = s.pending := by
  unfold State.unlockBackup
  split <;> rfl

@[simp] theorem powerReturn_pending : s.powerReturn.pending = s.pending := by
  unfold State.powerReturn
  split <;> rfl

/-! ### The start of a frame (04_frame.md R86) -/

@[simp] theorem nextFrame_pending : s.nextFrame.pending = s.pending := rfl

@[simp] theorem laneRepower_pending (x : LaneId) : (s.laneRepower x).pending = s.pending := by
  unfold State.laneRepower
  repeat' split
  all_goals simp

@[simp] theorem tsFrame_pending : s.tsFrame.pending = s.pending := by simp [State.tsFrame]

@[simp] theorem startupFrame_pending : s.startupFrame.pending = s.pending := by
  unfold State.startupFrame
  dsimp only
  repeat' split
  all_goals simp

@[simp] theorem rejoin_pending : s.rejoin.pending = s.pending := by
  unfold State.rejoin
  repeat' split
  all_goals simp

@[simp] theorem transferTimeout_pending : s.transferTimeout.pending = s.pending := rfl

@[simp] theorem sampleLink_pending (n : Nat) : (s.sampleLink n).pending = s.pending := by
  unfold State.sampleLink
  dsimp only
  split_ifs <;> rfl

@[simp] theorem frameBegin_pending (m : SupplyMeas) : (s.frameBegin m).pending = s.pending := by
  have samples (t : State) : ((List.range 4).foldl State.sampleLink t).pending = t.pending :=
    foldl_keeps State.pending _ _ fun t n _ => sampleLink_pending t n
  simp [State.frameBegin, State.analogArrival, State.samplePower, samples]

@[simp] theorem frameStart_pending (m : SupplyMeas) : (s.frameStart m).pending = s.pending := by
  unfold State.frameStart
  dsimp only
  repeat' split
  all_goals simp

/-! ### Arrivals and the close (01_architecture.md R21 to R23) -/

@[simp] theorem assayReported_pending (t : Int) (r : AssayReport) : (s.assayReported t r).pending = s.pending := by
  unfold State.assayReported
  dsimp only
  split_ifs <;> simp

@[simp] theorem verReported_pending (t : Int) (a b : VerFault) : (s.verReported t a b).pending = s.pending := by
  unfold State.verReported
  split <;> rfl

@[simp] theorem canDataRate_pending (n : Nat) (data : List Byte) : (s.canDataRate n data).pending = s.pending := by
  unfold State.canDataRate
  dsimp only
  repeat' split
  all_goals rfl

@[simp] theorem rxDrop_pending (n : Nat) : (s.rxDrop n).pending = s.pending := rfl

@[simp] theorem pumpAt_pending (t : Int) : (s.pumpAt t).pending = s.pending := by
  unfold State.pumpAt
  split <;> rfl

@[simp] theorem portUnitIn_pending (src : Nat) (t : Int) (data : List Byte) : (s.portUnitIn src t data).pending = s.pending := by
  unfold State.portUnitIn
  dsimp only
  repeat' split
  all_goals simp

@[simp] theorem arrivalComplete_pending (src : Nat) (t : Int) (c : ArrContent) : (s.arrivalComplete src t c).pending = s.pending := by
  unfold State.arrivalComplete
  split
  · rfl
  · cases c with
    | met w =>
      dsimp only
      split <;> rfl
    | lane r =>
      dsimp only
      split
      · rfl
      · cases r <;> simp <;> split <;> rfl
    | port b =>
      dsimp only
      split
      · rfl
      · cases b with
        | adu conn svc data => cases s.active <;> rfl
        | _ => simp

@[simp] theorem closeFrame_pending : s.closeFrame.pending = s.pending := by
  unfold State.closeFrame
  split <;> rfl

@[simp] theorem readCalendar_pending : s.readCalendar.pending = s.pending := by
  unfold State.readCalendar
  split <;> rfl

/-! ### Sessions (17_security.md R402 to R405, 21_field_ports.md R461, R462) -/

@[simp] theorem dropShadows_pending (reader : Nat) : (s.dropShadows reader).pending = s.pending := rfl
@[simp] theorem refuse_pending (x tag code : Nat) : (s.refuse x tag code).pending = s.pending := rfl

@[simp] theorem closeSession_pending (x : Nat) : (s.closeSession x).pending = s.pending := by
  unfold State.closeSession
  split <;> rfl

@[simp] theorem openSession_pending (x port : Nat) (c : ClientCert) : (s.openSession x port c).pending = s.pending := by
  unfold State.openSession
  repeat' split
  all_goals rfl

theorem onSession_pending (x : Nat) (f : Lane → Session → State → State) (hf : ∀ l t (u : State), (f l t u).pending = u.pending) :
    (s.onSession x f).pending = s.pending := by
  unfold State.onSession
  split
  · exact hf _ _ _
  · rfl

@[simp] theorem writeTrans_pending (x tag : Nat) (t : Int) (es : List WriteEntry) (entropy : List Byte) :
    (s.writeTrans x tag t es entropy).pending = s.pending :=
  onSession_pending s x _ fun _ _ _ => by
    dsimp only
    split_ifs <;> rfl

@[simp] theorem readOne_pending (o : LaneId) (x : Nat) (role : SessRole) (a : Word) :
    (s.readOne o x role a).1.pending = s.pending := by
  unfold State.readOne
  dsimp only
  repeat' split
  all_goals simp

@[simp] theorem readAll_pending (o : LaneId) (x : Nat) (role : SessRole) (l : List Word) :
    (s.readAll o x role l).1.pending = s.pending := by
  induction l generalizing s with
  | nil => rfl
  | cons a l ih => exact (ih (s.readOne o x role a).1).trans (readOne_pending s o x role a)

@[simp] theorem answerRead_pending (o : LaneId) (x tag fno : Nat) (role : SessRole) (l : List Word) :
    (s.answerRead o x tag fno role l).pending = s.pending := readAll_pending s o x role l

@[simp] theorem readTrans_pending (x tag : Nat) (addrs : List Word) : (s.readTrans x tag addrs).pending = s.pending :=
  onSession_pending s x _ fun l ss u => by
    dsimp only
    split <;> simp

@[simp] theorem readFrame_pending (x tag : Nat) (addrs : List Word) : (s.readFrame x tag addrs).pending = s.pending :=
  onSession_pending s x _ fun _ _ _ => by
    dsimp only
    split <;> rfl

@[simp] theorem answerWaits_pending (o : LaneId) : (s.answerWaits o).pending = s.pending :=
  foldl_keeps State.pending _ _ fun t w _ => answerRead_pending t o w.session w.tag t.hub.fno w.role w.addrs

@[simp] theorem pageTrans_pending (x tag idx : Nat) (data : List Byte) : (s.pageTrans x tag idx data).pending = s.pending := by
  unfold State.pageTrans
  split
  · split <;> simp
  · refine onSession_pending s x _ fun _ _ _ => ?_
    dsimp only
    split_ifs <;> rfl

@[simp] theorem imagePage_pending (x tag idx : Nat) (data : List Byte) : (s.imagePage x tag idx data).pending = s.pending := by
  unfold State.imagePage State.recoveryPage
  split_ifs <;> simp

@[simp] theorem recoveryPromote_pending : s.recoveryPromote.pending = s.pending := by
  unfold State.recoveryPromote
  dsimp only
  split <;> rfl

@[simp] theorem subscribe_pending (x : Nat) (mask : BitVec 256) : (s.subscribe x mask).pending = s.pending :=
  onSession_pending s x _ fun _ _ _ => rfl

@[simp] theorem keepalive_pending (x : Nat) : (s.keepalive x).pending = s.pending := onSession_pending s x _ fun _ _ _ => rfl

@[simp] theorem idleTimeout_pending (x : Nat) : (s.idleTimeout x).pending = s.pending := by
  unfold State.idleTimeout
  repeat' split
  all_goals simp

@[simp] theorem sendEvents_pending (l : Lane) : (s.sendEvents l).pending = s.pending := rfl

@[simp] theorem sendAnswers_pending (l : Lane) : (s.sendAnswers l).pending = s.pending :=
  foldl_keeps State.pending _ _ fun t a _ => by split <;> rfl

@[simp] theorem linkMessage_pending (x : Nat) (t : Int) (b : List Byte) : (s.linkMessage x t b).pending = s.pending := by
  unfold State.linkMessage
  dsimp only
  repeat' split
  all_goals simp

@[simp] theorem onReader_pending (reader : Nat) (f : Lane → Lane) : (s.onReader reader f).pending = s.pending := by
  unfold State.onReader
  repeat' split
  all_goals simp

@[simp] theorem debugAccess_pending (x : LaneId) (op : DebugOp) : (s.debugAccess x op).pending = s.pending := by
  unfold State.debugAccess
  split <;> simp

/-! ### The input instant and the deliveries (01_architecture.md R27, R37) -/

@[simp] theorem takeRole_pending (x : LaneId) (r : Role) : (s.takeRole x r).pending = s.pending := by
  unfold State.takeRole
  repeat' split
  all_goals simp

@[simp] theorem takeRoles_pending (v : Verdict) : (s.takeRoles v).pending = s.pending := by
  unfold State.takeRoles
  dsimp only
  split <;> simp

@[simp] theorem catchUp_pending : s.catchUp.pending = s.pending := by
  unfold State.catchUp
  repeat' split
  · rfl
  · dsimp only
    split <;> simp

@[simp] theorem fabServo_pending : s.fabServo.pending = s.pending := by
  unfold State.fabServo
  split <;> rfl

@[simp] theorem handSalts_pending (l : Lane) : (s.handSalts l).pending = s.pending := by
  unfold State.handSalts
  dsimp only
  split <;> simp

@[simp] theorem putOut_pending (n : Nat) (t : Int) (b : List Byte) : (s.putOut n t b).pending = s.pending := by
  unfold State.putOut
  dsimp only
  split <;> simp

@[simp] theorem egDown_pending : s.egDown.pending = s.pending := foldl_keeps State.pending _ _ fun _ _ _ => rfl

@[simp] theorem drainLink_pending (n : Nat) (t : Int) (fuel : Nat) : (s.drainLink n t fuel).pending = s.pending := by
  induction fuel generalizing s with
  | zero => rfl
  | succ fuel ih =>
    unfold State.drainLink
    repeat' split
    all_goals simp [ih]

@[simp] theorem drainFab_pending (t : Int) : (s.drainFab t).pending = s.pending :=
  (foldl_keeps State.pending _ _ fun s n _ => drainLink_pending s n t _).trans (egDown_pending s)

@[simp] theorem egress_pending (n : Nat) (t : Int) (b : List Byte) : (s.egress n t b).pending = s.pending := by
  unfold State.egress
  dsimp only
  split <;> simp

@[simp] theorem afterSteps_pending (f : InputFrame) : (s.afterSteps f).pending = s.pending := by
  unfold State.afterSteps
  dsimp only
  repeat' split
  all_goals simp

@[simp] theorem inputInstant_pending (lossA lossB : Bool) : (s.inputInstant lossA lossB).pending = s.pending := by
  unfold State.inputInstant
  repeat' split
  all_goals simp

@[simp] theorem outputFrameDelivery_pending (x : LaneId) (d : Delivery) : (s.outputFrameDelivery x d).pending = s.pending := by
  unfold State.outputFrameDelivery State.onSource
  split_ifs <;> simp

@[simp] theorem deadlineMiss_pending (x : LaneId) (why : Lateness) (ttFail : Bool) :
    (s.deadlineMiss x why ttFail).pending = s.pending := by
  unfold State.deadlineMiss State.onSource
  split <;> simp

/-! ### The apply instant (01_architecture.md R29) -/

@[simp] theorem route_pending (dst : Nat) (t : Int) (b : List Byte) : (s.route dst t b).pending = s.pending := by
  unfold State.route
  split <;> simp

@[simp] theorem fabEntry_pending (own : Nat) (e : OutEntry) : (s.fabEntry own e).pending = s.pending := by
  unfold State.fabEntry
  repeat' split
  all_goals simp

@[simp] theorem nandResult_pending (j : List (NvReq × Nat)) : (s.nandResult j).pending = s.pending := by
  unfold State.nandResult
  split
  · rfl
  · dsimp only
    split <;> simp

@[simp] theorem runStore_pending (l : Lane) (es : List OutEntry) : (s.runStore l es).pending = s.pending := by
  unfold State.runStore
  dsimp only
  repeat' split
  all_goals simp

@[simp] theorem driveFrame_pending (l : Lane) (f : OutFrame) : (s.driveFrame l f).pending = s.pending := by
  have entries (t : State) (es : List OutEntry) : (es.foldl (State.fabEntry l.modId) t).pending = t.pending :=
    foldl_keeps State.pending _ _ fun t e _ => fabEntry_pending t l.modId e
  simp [State.driveFrame, entries]

@[simp] theorem driveOutputs_pending : s.driveOutputs.pending = s.pending := by
  have quenches (t : State) (c : Bool) :
      (if c then t.setHub fun h => { h with outs := h.outs.quenched } else t).pending = t.pending := by
    split <;> rfl
  unfold State.driveOutputs
  dsimp only
  rw [quenches]
  split
  · exact driveFrame_pending (s.setHub fun h => { h with outs := h.outs.loadImage.pulseFrame }) _ _
  · exact runStore_pending (s.setHub fun h => { h with outs := h.outs.loadImage.pulseFrame }) _ _

@[simp] theorem switchDsp_pending (on : Bool) : (s.switchDsp on).pending = s.pending := by
  unfold State.switchDsp
  split_ifs <;> simp

@[simp] theorem craBack_pending (x : LaneId) : (s.craBack x).pending = s.pending := by
  unfold State.craBack
  split <;> rfl

@[simp] theorem applyPower_pending : s.applyPower.pending = s.pending := by
  unfold State.applyPower
  dsimp only
  repeat' split
  all_goals simp

@[simp] theorem needVerdict_pending : s.needVerdict.pending = s.pending := by
  unfold State.needVerdict
  dsimp only
  split_ifs <;> simp

@[simp] theorem pathExercise_pending (ok : Bool) : (s.pathExercise ok).pending = s.pending := by
  unfold State.pathExercise
  split <;> rfl

@[simp] theorem loadSwitch_pending : s.loadSwitch.pending = s.pending := by
  unfold State.loadSwitch
  split <;> rfl

@[simp] theorem applyPorts_pending : s.applyPorts.pending = s.pending := by
  unfold State.applyPorts
  split <;> simp

@[simp] theorem applyReads_pending (mram : List Host.Cell) : (s.applyReads mram).pending = s.pending := by
  unfold State.applyReads
  cases s.server <;> simp

@[simp] theorem applyInstant_pending (ok : Bool) : (s.applyInstant ok).pending = s.pending := by
  unfold State.applyInstant
  dsimp only
  split_ifs <;> simp

/-! ### Ports and fabric links (21_field_ports.md R454 to R473, 20_rogon_fabric.md R433, R438) -/

@[simp] theorem ethIn_pending (l : Lane) (n : Nat) (t : Int) (f : EthFrame) : (s.ethIn l n t f).pending = s.pending := by
  unfold State.ethIn
  dsimp only
  cases f
  all_goals dsimp only
  all_goals repeat' split
  all_goals simp

@[simp] theorem ethLink_pending (n speed : Nat) : (s.ethLink n speed).pending = s.pending := by
  unfold State.ethLink
  split_ifs <;> rfl

@[simp] theorem timerDue_pending (src stn : Nat) : (s.timerDue src stn).pending = s.pending := by
  unfold State.timerDue
  cases s.active <;> simp

@[simp] theorem rs485In_pending (n : Nat) (t : Int) (b : List Byte) : (s.rs485In n t b).pending = s.pending := by
  unfold State.rs485In
  repeat' split
  all_goals simp

@[simp] theorem acceptConn_pending (num svc port : Nat) (tls : Bool) (cert : ClientCert) :
    (s.acceptConn num svc port tls cert).pending = s.pending := by
  unfold State.acceptConn
  dsimp only
  repeat' split
  all_goals rfl

@[simp] theorem onCan_pending (n : Nat) (f : CanPort → CanPort) (report : Bool) : (s.onCan n f report).pending = s.pending := by
  unfold State.onCan
  split <;> rfl

@[simp] theorem onMb_pending (n : Nat) (f : MbusPort → MbusPort) : (s.onMb n f).pending = s.pending := by
  unfold State.onMb
  split <;> rfl

@[simp] theorem cageOn_pending (n : Nat) : (s.cageOn n).pending = s.pending := by
  unfold State.cageOn
  split <;> rfl

@[simp] theorem fabIn_pending (own n : Nat) (stamp : Int) (b : List Byte) : (s.fabIn own n stamp b).pending = s.pending := by
  unfold State.fabIn
  dsimp only
  split_ifs <;> simp

/-! ### Time (16_time.md R369 to R373) -/

@[simp] theorem ptpMessage_pending (m : PtpMsg) : (s.ptpMessage m).pending = s.pending := by
  unfold State.ptpMessage
  repeat' split
  all_goals simp

@[simp] theorem ptpInterval_pending (k : PtpKind) : (s.ptpInterval k).pending = s.pending := by
  unfold State.ptpInterval
  repeat' split
  all_goals simp

@[simp] theorem txStamp_pending (e : TsEntry) : (s.txStamp e).pending = s.pending := by
  unfold State.txStamp
  repeat' split
  · rfl
  · dsimp only
    split <;> simp

@[simp] theorem servoTimer_pending (f : LocalClock → ServoCfg → LocalClock) : (s.servoTimer f).pending = s.pending := by
  unfold State.servoTimer
  cases s.active <;> rfl

/-! ### The commands -/

@[simp] theorem writeRow_pending (o : Origin) (key w : Nat) : (writeRow o key w s).pending = s.pending := rfl
@[simp] theorem writeRowOf_pending (o : Origin) (key : Nat) (f : Lane → Word) : (writeRowOf o key f s).pending = s.pending := rfl

/-- Every command completes and leaves the queue: those named here by the lemma of their meaning, the rest by their definition,
which writes the lanes, the hub, the supplies or the calendar alone. -/
theorem exec_pending (c : Instr) : ∃ t, exec c s = .next t ∧ t.pending = s.pending := by
  cases c
  all_goals refine ⟨_, rfl, ?_⟩
  case errcRead x page => exact onSession_pending s x _ fun l ss u => answerRead_pending u l.id x 0 0 ss.role _
  case quenchImageWrite o n w =>
    split
    · rfl
    · split <;> rfl
  case modbusConnect num reply =>
    split
    · split <;> rfl
    · rfl
  case canBusOff port =>
    dsimp only
    split <;> simp
  case ethernetFrameReceive port t f =>
    split
    · split <;> simp
    · rfl
  case announceReceiptTimeout => cases s.ptpLane <;> simp
  case solveComputationEnd | dispatchComputationEnd | pulseEnd | adjacencyTimeout | compare | engineTrap | fabricFrameReceive
      | canReceiveTimeout | canRecover | mbusRestart | railWrite | ucmdPromote =>
    split <;> simp
  case frameStart | arrivalComplete | inputFrameClose | inputInstant | outputFrameDelivery | deadlineMiss | assayReport |
      touchstoneLoss | applyInstant | domainFault | domainRepower | clockFailure | uncorrectableError | watchdogExpiry |
      powerReturn | startupPhaseEnd | laneReadyTimeout | startFrame | writeTransaction | readTransaction |
      frameConsistentRead | subscribe | keepalive | sessionOpen | sessionIdleTimeout | sessionProtocolError |
      calendarShadowFreeze | calendarShadowRelease | backupSwitchToCell | backupSwitchToVdd | backupUnlock | ptpMessage |
      sampleTimeout | holdoverTimeout | txTimestamp | page | verificationReport | linkStateChange | portRequestTimeout |
      rs485AduEnd | canRecoveryComplete | autobaudRateSwitch | autobaudLock | mbusOvercurrent | mbusRepower | renderComplete
      | verticalBlank | refreshCrcCheck | displayStale | panelPowerUp | panelPowerDown | railFault | railRetry |
      backlightStringFault | calendarReading | laneRepower | debugAccess | sessionClose | ethernetLinkChange | sfpCageRetry
      | ptpMessageInterval | serverConnectionAccept =>
    simp
  all_goals rfl

end

/-- Settles O6: the one state that a command answers has the queue of the state before. -/
theorem commandsLeaveQueueAlone : Obligations.CommandsLeaveQueueAlone := by
  intro c s t ht
  obtain ⟨u, hu, hpending⟩ := exec_pending s c
  exact Host.Outcome.next.inj (hu.symm.trans ht) ▸ hpending

end Sys2Proof.Machine
end


section
/-! Life-cycle commands, key commands, attestation and the replacement of the firmware as written by a session
(O18, O19, O20). -/

namespace Sys2Proof.Machine

/-! ### A write whose operation answers a status of its own (R52) -/

/-- A full code of an assigned page is posted as it is. -/
theorem postStatus_pageCode (m : Lane) {page code : Nat} (hpage : (pageRow (code / 256)).isSome = true) (hcode : code % 256 ≠ 0)
    (hfull : 256 ≤ code) : m.postStatus (pageCode page code) = m.post code := by
  have hsplit : code = code / 256 * 256 + code % 256 := by omega
  rw [pageCode, if_neg (by omega), if_neg (by omega), hsplit]
  exact postStatus_page m hpage (code % 256) hcode (Nat.mod_lt _ (by decide))

/-- What the register's operation answers, posted where it is a status. -/
def Lane.answered (page : Nat) (r : Lane × Nat) : Lane := r.1.postStatus (pageCode page r.2)

theorem answered_ok (page : Nat) (m : Lane) : Lane.answered page (m, 0) = m := postStatus_ok m

theorem answered_code (page : Nat) (m : Lane) {code : Nat} (hpage : (pageRow (code / 256)).isSome = true) (hcode : code % 256 ≠ 0)
    (hfull : 256 ≤ code) : Lane.answered page (m, code) = m.post code := postStatus_pageCode m hpage hcode hfull

/-- A write of a register that is an operation leaves what that answers. -/
theorem writeKey_answered (l : Lane) (h : Hub) (role : SessRole) (e : List Byte) (key : Nat) (w : Word) (r : Lane × Nat)
    (hk : key < 0x100000) (ha : addrStatus (.ofNat 32 (0x40000000 + key)) = 0) (h40 : 0x040 ≤ key % 0x1000)
    (hw : ((fieldsAt (key / 0x1000) (key % 0x1000)).any fun f => f.acc.writable) = true) (acc : Accepts l role key w)
    (hop : (l.closeLock (key / 0x1000)).writeOp h true e (key / 0x1000) (key % 0x1000) w = some r) :
    l.writeKey h (.external role) e key w = (Lane.answered (key / 0x1000) r, pageCode (key / 0x1000) r.2) := by
  rw [Lane.writeKey_at l h role e key w hk ha h40 hw acc, hop]
  obtain ⟨m, st⟩ := r
  cases st with
  | zero => exact congrArg (·, 0) (answered_ok _ m).symm
  | succ st => rfl

/-- A row that writes one constant gives what the operation of its register answers, its status posted. -/
theorem writeRow_givesAnswer (c : Origin → Instr) (key w : Nat) (s : State) (x : LaneId) (f : Lane → Lane) (r : Lane × Nat)
    (hc : ∀ o, exec (c o) s = .next (writeRow o key w s)) (hk : key < 0x100000)
    (ha : addrStatus (.ofNat 32 (0x40000000 + key)) = 0) (h40 : 0x040 ≤ key % 0x1000)
    (hw : ((fieldsAt (key / 0x1000) (key % 0x1000)).any fun f => f.acc.writable) = true)
    (hop : ((s.lane x).closeLock (key / 0x1000)).writeOp s.hub true [] (key / 0x1000) (key % 0x1000) (.ofNat 32 w) = some r)
    (hf : Lane.answered (key / 0x1000) r = f ((s.lane x).closeLock (key / 0x1000))) : WriteGives c key (fun _ => .ofNat 32 w) s x f := by
  intro role hr acc
  refine regGives_onLanes _ s x (fun l => (l.writeKey s.hub (.external role) [] key (.ofNat 32 w)).1) _ (hc _) hr ?_
  rw [writeKey_answered _ _ _ _ _ _ r hk ha h40 hw acc hop, hf]

/-- A row whose work is done at once gives what the operation of its register answers: a status posted, else the work done. -/
theorem writeThen_givesAnswer (c : Origin → Instr) (key w : Nat) (work : Lane → Lane) (s : State) (x : LaneId) (f : Lane → Lane)
    (r : Lane × Nat) (hc : ∀ o, exec (c o) s = .next (writeThen o key w work s)) (hk : key < 0x100000)
    (ha : addrStatus (.ofNat 32 (0x40000000 + key)) = 0) (h40 : 0x040 ≤ key % 0x1000)
    (hw : ((fieldsAt (key / 0x1000) (key % 0x1000)).any fun f => f.acc.writable) = true)
    (hop : ((s.lane x).closeLock (key / 0x1000)).writeOp s.hub true [] (key / 0x1000) (key % 0x1000) (.ofNat 32 w) = some r)
    (hf : (if pageCode (key / 0x1000) r.2 = 0 then work (Lane.answered (key / 0x1000) r) else Lane.answered (key / 0x1000) r) =
      f ((s.lane x).closeLock (key / 0x1000))) : WriteGives c key (fun _ => .ofNat 32 w) s x f := by
  intro role hr acc
  refine regGives_onLanes _ s x _ _ (hc _) hr ?_
  simp only [writeKey_answered _ _ _ _ _ _ r hk ha h40 hw acc hop, hf]

/-! ### Life-cycle commands (R376, Table SEC-2) -/

section
variable (l : Lane) (h : Hub) (e : List Byte)

theorem writeOp_lcmd (w : Word) : l.writeOp h true e 0x2C 0x048 w = some (l.lcmd (bits w 2 0) e) := by
  simp [Lane.writeOp, Lane.writeSystem]

/-- The status with which a key's use is refused is one of Hallmark's. -/
theorem keyUse_error {n eng use c : Nat} (hc : l.keyUse n eng use = .error c) : c / 256 = 0x2A ∧ c % 256 ≠ 0 ∧ 256 ≤ c := by
  unfold Lane.keyUse at hc
  dsimp only at hc
  split_ifs at hc <;> cases hc <;> decide

theorem tokenCode_refused {c : Nat} (huse : l.ownerUse = .error c) (cmd : Nat) : l.tokenCode cmd = c := by
  rw [Lane.tokenCode, huse]

theorem tokenCode_used {key : List Byte} (huse : l.ownerUse = .ok key) (cmd : Nat) :
    l.tokenCode cmd = if l.tokenOk cmd then 0 else 0x2C45 := by
  rw [Lane.tokenCode, huse]

end

/-- No replacement, staging or life-cycle command is in progress, so that a life-cycle command is looked at. -/
structure Lane.LcFree (l : Lane) : Prop where
  idle : l.sec.ustate = .idle
  unstaged : l.sec.staging = none
  free : l.sec.lcNext = none

section
variable {l : Lane} (hl : l.LcFree) (e : List Byte)
include hl

theorem lcmd_provision (hst : l.lifeCycle = 0) : l.lcmd 1 e = ((l.toLifeCycle 1 l.sec.tokcnt).setSec fun t => { t with
    drsNext := some ((Crypto.kdf (sliceB e 0 48) (asciiBytes "ROOT0000") (serialBytes ++ leBytes 2 0) 256).take 32) }, 0) := by
  simp [Lane.lcmd, hl.idle, hl.unstaged, hl.free, hst]

/-- The owner key that CLAIM puts into slot 5. -/
def Lane.claimedSlot (l : Lane) : KeySlot :=
  let key := l.blobBytes.take 96
  { typ := 5, state := 1, origin := 3, dest := 3, usage := 4, kcv := kcvOf 5 key, kgen := (l.slot 5).kgen + 1, key }

theorem lcmd_claim (hst : l.lifeCycle = 1) (hkey : (Crypto.pointOf (l.blobBytes.take 96)).isSome = true) :
    l.lcmd 2 e = ((l.putSlot 5 l.claimedSlot).toLifeCycle 2 l.sec.tokcnt, 0) := by
  have hsome : Crypto.pointOf (l.blobBytes.take 96) ≠ none := by simpa [Option.isSome_iff_ne_none] using hkey
  simp [Lane.lcmd, hl.idle, hl.unstaged, hl.free, hst, hsome, Lane.claimedSlot]

theorem lcmd_claim_refused (hst : l.lifeCycle ≠ 1 ∨ (Crypto.pointOf (l.blobBytes.take 96)).isSome = false) :
    l.lcmd 2 e = (l, 0x2C46) := by
  have hno : l.lifeCycle ≠ 1 ∨ Crypto.pointOf (l.blobBytes.take 96) = none := by simpa using hst
  simp [Lane.lcmd, hl.idle, hl.unstaged, hl.free, hno]

theorem lcmd_debugon (hst : l.lifeCycle = 2) : l.lcmd 3 e =
    if l.tokenCode 3 ≠ 0 then (l.tallyUse l.ownerUse, l.tokenCode 3)
    else ((l.tallyUse l.ownerUse).toLifeCycle 3 (l.sec.tokcnt + 1), 0) := by
  simp [Lane.lcmd, hl.idle, hl.unstaged, hl.free, hst]

theorem lcmd_debugoff (hst : l.lifeCycle = 3) : l.lcmd 4 e = (l.toLifeCycle 2 l.sec.tokcnt, 0) := by
  simp [Lane.lcmd, hl.idle, hl.unstaged, hl.free, hst]

theorem lcmd_debugoff_refused (hst : l.lifeCycle ≠ 3) : l.lcmd 4 e = (l, 0x2C46) := by
  simp [Lane.lcmd, hl.idle, hl.unstaged, hl.free, hst]

/-- The slots from 8 on that hold something, each emptied. -/
def Lane.emptySlots (l m : Lane) : Lane :=
  ((List.range 128).filter fun n => decide (8 ≤ n) && (l.slot n).state != 0).foldl (fun (m : Lane) n => m.putSlot n {}) m

theorem lcmd_retire (hst : l.lifeCycle = 2 ∨ l.lifeCycle = 3) : l.lcmd 5 e =
    if l.tokenCode 5 ≠ 0 then (l.tallyUse l.ownerUse, l.tokenCode 5)
    else ((l.emptySlots (l.tallyUse l.ownerUse)).toLifeCycle 4 (l.sec.tokcnt + 1), 0) := by
  have hno : ¬(l.lifeCycle ≠ 2 ∧ l.lifeCycle ≠ 3) := by omega
  simp only [Lane.lcmd, hl.idle, hl.unstaged, hl.free, hno, Lane.emptySlots]
  rfl

end

/-- What a command with a token answers: done where the token verifies with the owner key, else refused, the use counted. -/
theorem answered_token (l done : Lane) (cmd : Nat) :
    Lane.answered 0x2C (if l.tokenCode cmd ≠ 0 then (l.tallyUse l.ownerUse, l.tokenCode cmd) else (done, 0)) =
      (match l.ownerUse with
      | .ok _ => if l.tokenOk cmd then done else (l.tallyUse l.ownerUse).post 0x2C45
      | .error c => (l.tallyUse l.ownerUse).post c) := by
  cases huse : l.ownerUse with
  | error c =>
    obtain ⟨hpage, hlow, hfull⟩ := keyUse_error l huse
    rw [tokenCode_refused l huse, if_pos (by omega)]
    exact answered_code _ _ (by rw [hpage]; decide) hlow hfull
  | ok key =>
    rw [tokenCode_used l huse]
    by_cases htok : l.tokenOk cmd = true
    · simp only [htok, if_true, ne_eq, not_true_eq_false, if_false, answered_ok]
    · simp only [htok]
      exact answered_code _ _ (by decide) (by decide) (by decide)

/-- LCMD rows: what `lcmd` answers on the lane whose page the write has closed. -/
theorem lcmdRow_gives (c : Origin → Instr) (cmd : Nat) (s : State) (x : LaneId) (f : Lane → Lane) (r : Lane × Nat)
    (hc : ∀ o, exec (c o) s = .next (writeRow o 0x2C048 cmd s)) (hbits : bits (.ofNat 32 cmd) 2 0 = cmd)
    (hr : ((s.lane x).closeLock 0x2C).lcmd cmd [] = r)
    (hf : Lane.answered 0x2C r = f ((s.lane x).closeLock 0x2C)) : WriteGives c 0x2C048 (fun _ => .ofNat 32 cmd) s x f :=
  writeRow_givesAnswer c 0x2C048 cmd s x f r hc (by decide) (by decide) (by decide) (by decide)
    ((writeOp_lcmd _ _ _ _).trans (by rw [hbits, hr])) hf

/-- Settles O18, each command by what `lcmd` answers on the lane whose page the write has closed. -/
theorem lifeCycleCommands : Obligations.LifeCycleCommands := by
  intro s x entropy hidle hunstaged hfree st tok
  have hl : ((s.lane x).closeLock 0x2C).LcFree := ⟨hidle, hunstaged, hfree⟩
  have gives {c : Origin → Instr} {cmd : Nat} {f : Lane → Lane} {r : Lane × Nat} := lcmdRow_gives c cmd s x f r
  refine ⟨fun hst => ?provision, fun hst => ?claim, fun hst => ?debugon, fun hst => ?debugoff, fun hst => ?retire,
    fun hst => ?noClaim, fun hst => ?noDebugoff⟩
  case provision =>
    intro role hr acc
    refine regGives_onLanes _ s x (fun l => (l.writeKey s.hub (.external role) entropy 0x2C048 1).1) _ rfl hr ?_
    have hop := (writeOp_lcmd ((s.lane x).closeLock 0x2C) s.hub entropy 1).trans (congrArg some (lcmd_provision hl entropy hst))
    rw [writeKey_answered _ _ _ _ _ _ _ (by decide) (by decide) (by decide) (by decide) acc hop]
    exact answered_ok 0x2C _
  case claim =>
    by_cases hkey : (Crypto.pointOf ((s.lane x).blobBytes.take 96)).isSome = true
    · exact gives (fun _ => rfl) (by decide) (lcmd_claim hl [] hst hkey) ((answered_ok _ _).trans (if_pos hkey).symm)
    · exact gives (fun _ => rfl) (by decide) (lcmd_claim_refused hl [] (.inr (Bool.eq_false_iff.mpr hkey)))
        ((answered_code _ _ (by decide) (by decide) (by decide)).trans (if_neg hkey).symm)
  case debugon => exact gives (fun _ => rfl) (by decide) (lcmd_debugon hl [] hst) (answered_token _ _ 3)
  case debugoff => exact gives (fun _ => rfl) (by decide) (lcmd_debugoff hl [] hst) (answered_ok _ _)
  case retire => exact gives (fun _ => rfl) (by decide) (lcmd_retire hl [] hst) (answered_token _ _ 5)
  case noClaim =>
    exact gives (fun _ => rfl) (by decide) (lcmd_claim_refused hl [] (.inl hst)) (answered_code _ _ (by decide) (by decide) (by decide))
  case noDebugoff =>
    exact gives (fun _ => rfl) (by decide) (lcmd_debugoff_refused hl [] hst) (answered_code _ _ (by decide) (by decide) (by decide))

/-! ### Key commands (R384 to R389) -/

section
variable (l : Lane)

theorem writeOp_kcmd (h : Hub) (w : Word) : l.writeOp h true [] 0x2A 0x060 w = some (l.kcmd (bits w 2 0)) := by
  simp [Lane.writeOp, Lane.writeSystem]

/-- The lane with command `cmd` on the selected slot left for step 7. -/
def Lane.kcmdQueued (l : Lane) (cmd : Nat) : Lane := l.setSec fun t => { t with kcmds := t.kcmds ++ [(cmd, l.get R.HMK.SSEL)] }

/-- Step 7 performs the one command that waits. -/
theorem kcmdQueued_step7 (hfree : l.sec.kcmds = []) (cmd : Nat) :
    (l.kcmdQueued cmd).kcmdStep7 = l.kcmdAct (cmd, l.get R.HMK.SSEL) := by
  have hcleared : ((l.kcmdQueued cmd).setSec fun t => { t with kcmds := [] }) = l := by
    rw [Lane.kcmdQueued, Lane.setSec, Lane.setSec, ← hfree]
  have hwaits : (l.kcmdQueued cmd).sec.kcmds = [(cmd, l.get R.HMK.SSEL)] := by
    rw [Lane.kcmdQueued, Lane.setSec, hfree, List.nil_append]
  rw [Lane.kcmdStep7, hwaits, hcleared, List.foldl_cons, List.foldl_nil]

theorem kcmdStep7_free (hfree : l.sec.kcmds = []) : l.kcmdStep7 = l := by
  rw [Lane.kcmdStep7, hfree, List.foldl_nil, Lane.setSec, ← hfree]

/-! #### What a write answers -/

theorem kcmd_fixed {cmd : Nat} (h0 : cmd ≠ 0) (hfix : fixedSlot (l.get R.HMK.SSEL) = true) : l.kcmd cmd = (l, 0x2A43) := by
  simp [Lane.kcmd, h0, hfix]

theorem kcmd_owner {cmd : Nat} (hcmd : cmd = 1 ∨ cmd = 2) (hn : l.get R.HMK.SSEL = 5) : l.kcmd cmd = (l, 0x2A43) := by
  have h0 : cmd ≠ 0 := by omega
  simp [Lane.kcmd, h0, hn, hcmd]

variable {l} (hfix : fixedSlot (l.get R.HMK.SSEL) = false)
include hfix

theorem kcmd_pend {cmd : Nat} (h0 : cmd ≠ 0) (hown : ¬(l.get R.HMK.SSEL = 5 ∧ (cmd = 1 ∨ cmd = 2)))
    (hpend : l.slotPend (l.get R.HMK.SSEL) = true) : l.kcmd cmd = (l, 0x2A08) := by
  unfold Lane.kcmd
  dsimp only
  rw [if_neg h0, if_neg (by simp [hfix, hown]), if_pos hpend]

variable (hpend : l.slotPend (l.get R.HMK.SSEL) = false)
include hpend

theorem kcmd_abort : l.kcmd 6 = (l.clearStaging, 0) := by
  simp [Lane.kcmd, hfix, hpend]

theorem kcmd_stage (hfree : l.sec.kcmds = []) (hst : l.sec.staging = none) : l.kcmd 3 = (l.kcmdQueued 3, 0) := by
  simp [Lane.kcmd, hfix, hpend, hfree, hst, Lane.kcmdQueued]

theorem kcmd_stage_refused {st : Staging} (hst : l.sec.staging = some st) : l.kcmd 3 = (l, 0x2A08) := by
  simp [Lane.kcmd, hfix, hpend, hst]

theorem kcmd_verify {st : Staging} (hst : l.sec.staging = some st) : l.kcmd 4 = (l.kcmdQueued 4, 0) := by
  simp [Lane.kcmd, hfix, hpend, hst, Lane.kcmdQueued]

theorem kcmd_verify_refused (hst : l.sec.staging = none) : l.kcmd 4 = (l, 0x2A48) := by
  simp [Lane.kcmd, hfix, hpend, hst]

theorem kcmd_commit {st : Staging} (hst : l.sec.staging = some st) (hstg : l.get R.HMK.STG = 2)
    (hslot : st.slot = l.get R.HMK.SSEL) : l.kcmd 5 = (l.kcmdQueued 5, 0) := by
  simp [Lane.kcmd, hfix, hpend, hst, hstg, hslot, Lane.kcmdQueued]

theorem kcmd_commit_refused (hno : l.get R.HMK.STG ≠ 2 ∨ l.sec.staging.map (·.slot) ≠ some (l.get R.HMK.SSEL)) :
    l.kcmd 5 = (l, 0x2A48) := by
  simpa [Lane.kcmd, hfix, hpend, imp_iff_not_or] using hno

variable (hn : l.get R.HMK.SSEL ≠ 5)
include hn

theorem kcmd_empty {cmd : Nat} (hcmd : cmd = 1 ∨ cmd = 2) (hk : (l.slot (l.get R.HMK.SSEL)).state = 0) : l.kcmd cmd = (l, 0x2A4A) := by
  rcases hcmd with rfl | rfl <;> simp [Lane.kcmd, hfix, hpend, hn, hk]

variable (hk : (l.slot (l.get R.HMK.SSEL)).state ≠ 0)
include hk

theorem kcmd_invalidate : l.kcmd 2 = (l.kcmdQueued 2, 0) := by
  simp [Lane.kcmd, hfix, hpend, hn, hk, Lane.kcmdQueued]

theorem kcmd_derive_notDerived (hor : (l.slot (l.get R.HMK.SSEL)).origin ≠ 2) : l.kcmd 1 = (l, 0x2A45) := by
  simp [Lane.kcmd, hfix, hpend, hn, hk, hor]

variable (hor : (l.slot (l.get R.HMK.SSEL)).origin = 2) (hpar : (l.slot (l.get R.HMK.SSEL)).parent < 128)
include hor hpar

theorem kcmd_derive_refused {code : Nat} (hcode : l.deriveCode (l.slot (l.get R.HMK.SSEL)).parent = code) (h0 : code ≠ 0) :
    l.kcmd 1 = (l, code) := by
  simp [Lane.kcmd, hfix, hpend, hn, hk, hor, Nat.not_le.mpr hpar, hcode, h0]

theorem kcmd_derive (hcode : l.deriveCode (l.slot (l.get R.HMK.SSEL)).parent = 0) : l.kcmd 1 = (l.kcmdQueued 1, 0) := by
  simp [Lane.kcmd, hfix, hpend, hn, hk, hor, Nat.not_le.mpr hpar, hcode, Lane.kcmdQueued]

end

/-! #### The parent of a derivation (R383, R389) -/

section
variable {l : Lane} {p : Nat}

theorem deriveCode_locked (hp : l.slotState p = 4 ∨ (l.slotState p = 1 ∧ (l.slot p).key = [])) : l.deriveCode p = 0x2A47 :=
  if_pos (by simpa using hp)

theorem deriveCode_notValid (h1 : l.slotState p ≠ 1) (h4 : l.slotState p ≠ 4) : l.deriveCode p = 0x2A45 := by
  simp [Lane.deriveCode, h1, h4]

theorem deriveCode_valid (h1 : l.slotState p = 1) (hkey : (l.slot p).key ≠ []) :
    l.deriveCode p = if (l.slot p).usage.getLsbD 0 then 0 else 0x2A46 := by
  unfold Lane.deriveCode
  dsimp only
  rw [if_neg (by simp [h1, hkey]), if_neg (not_not.mpr h1)]
  cases (l.slot p).usage.getLsbD 0 <;> rfl

end

/-! #### What step 7 does -/

section
variable {l : Lane}

theorem kcmdAct_derive {n : Nat} (hcode : l.deriveCode (l.slot n).parent = 0) :
    l.kcmdAct (1, n) = l.putSlot n { l.slot n with
      state := 1, kgen := ((l.slot n).kgen + 1) % 2 ^ 32
      key := deriveKey (l.slot (l.slot n).parent).key (l.slot n).label n (l.slot n).typ
      kcv := kcvOf (l.slot n).typ (deriveKey (l.slot (l.slot n).parent).key (l.slot n).label n (l.slot n).typ) } := by
  simp only [Lane.kcmdAct, hcode]
  rfl

theorem kcmdAct_stage {n : Nat} {key : KeySlot} (hkey : l.unwrap n l.blob = some key) :
    l.kcmdAct (3, n) = (((l.setSec fun t => { t with staging := some { slot := n, key, fno := l.fno } }).put R.HMK.STG 1).put
      R.HMK.STGSLOT n).put R.HMK.STGFNO (l.fno % 2 ^ 32) := by
  simp only [Lane.kcmdAct, hkey]
  rfl

theorem kcmdAct_stage_none {n : Nat} (hkey : l.unwrap n l.blob = none) : l.kcmdAct (3, n) = l.post 0x2A42 := by
  simp only [Lane.kcmdAct, hkey]

section
variable {st : Staging} (hst : l.sec.staging = some st) (n : Nat)
include hst

theorem kcmdAct_verify (hkcv : l.get R.HMK.EKCV = st.key.kcv) :
    l.kcmdAct (4, n) = (l.setSec fun t => { t with staging := some { st with verified := true } }).put R.HMK.STG 2 := by
  simp only [Lane.kcmdAct, hst, if_pos hkcv]

theorem kcmdAct_verify_fails (hkcv : l.get R.HMK.EKCV ≠ st.key.kcv) : l.kcmdAct (4, n) = l.clearStaging.post 0x2A41 := by
  simp only [Lane.kcmdAct, hst, if_neg hkcv]

theorem kcmdAct_commit :
    l.kcmdAct (5, n) = (l.putSlot n { st.key with kgen := ((l.slot n).kgen + 1) % 2 ^ 32 }).clearStaging := by
  simp only [Lane.kcmdAct, hst]

end
end

/-! #### The rows -/

section
variable {c : Origin → Instr} {cmd : Nat} {s : State} {x : LaneId} {f : Lane → Lane}
  (hc : ∀ o, exec (c o) s = .next (writeThen o 0x2A060 cmd Lane.kcmdStep7 s)) (hbits : bits (.ofNat 32 cmd) 2 0 = cmd)
include hc hbits

/-- A command refused with a status posts it. -/
theorem kcmdRow_posts {code : Nat} (hr : ((s.lane x).closeLock 0x2A).kcmd cmd = ((s.lane x).closeLock 0x2A, code))
    (hpage : code / 256 = 0x2A) (hlow : code % 256 ≠ 0) :
    WriteGives c 0x2A060 (fun _ => .ofNat 32 cmd) s x (fun l => l.post code) := by
  have hcode : pageCode 0x2A code ≠ 0 := by
    rw [pageCode, if_neg (by omega), if_neg (by omega)]
    omega
  refine writeThen_givesAnswer c 0x2A060 cmd _ s x _ _ hc (by decide) (by decide) (by decide) (by decide)
    ((writeOp_kcmd _ _ _).trans (by rw [hbits, hr])) ((if_neg hcode).trans ?_)
  exact answered_code _ _ (by rw [hpage]; decide) hlow (by omega)

/-- A command that is taken does its work at once (assumption log 38). -/
theorem kcmdRow_acts (hfree : (s.lane x).sec.kcmds = [])
    (hr : ((s.lane x).closeLock 0x2A).kcmd cmd = (((s.lane x).closeLock 0x2A).kcmdQueued cmd, 0))
    (hact : ((s.lane x).closeLock 0x2A).kcmdAct (cmd, (s.lane x).get R.HMK.SSEL) = f ((s.lane x).closeLock 0x2A)) :
    WriteGives c 0x2A060 (fun _ => .ofNat 32 cmd) s x f :=
  writeThen_gives c 0x2A060 cmd _ s x f hc (by decide) (by decide) (by decide) (by decide)
    ((writeOp_kcmd _ _ _).trans (by rw [hbits, hr])) ((kcmdQueued_step7 ((s.lane x).closeLock 0x2A) hfree cmd).trans hact)

end

/-- Settles O19, each command by what `kcmd` answers and what its step-7 work does, on the lane whose page the write has
closed. -/
theorem keyCommands : Obligations.KeyCommands := by
  intro s x n k p gives hfree
  have posts {c : Origin → Instr} {cmd code : Nat} := kcmdRow_posts (c := c) (cmd := cmd) (s := s) (x := x) (code := code)
  have acts {c : Origin → Instr} {cmd : Nat} {f : Lane → Lane} := kcmdRow_acts (c := c) (cmd := cmd) (s := s) (x := x) (f := f)
  refine ⟨fun hfix => ?fixed, fun hn => ?owner, fun hfix hpend => ?pend, fun hfix hpend => ?free⟩
  case fixed =>
    have hcmd (cmd : Nat) (h0 : cmd ≠ 0) := kcmd_fixed ((s.lane x).closeLock 0x2A) h0 hfix
    exact ⟨posts (fun _ => rfl) (by decide) (hcmd 1 (by decide)) rfl (by decide),
      posts (fun _ => rfl) (by decide) (hcmd 2 (by decide)) rfl (by decide),
      posts (fun _ => rfl) (by decide) (hcmd 3 (by decide)) rfl (by decide),
      posts (fun _ => rfl) (by decide) (hcmd 4 (by decide)) rfl (by decide),
      posts (fun _ => rfl) (by decide) (hcmd 5 (by decide)) rfl (by decide),
      posts (fun _ => rfl) (by decide) (hcmd 6 (by decide)) rfl (by decide)⟩
  case owner =>
    exact ⟨posts (fun _ => rfl) (by decide) (kcmd_owner ((s.lane x).closeLock 0x2A) (.inl rfl) hn) rfl (by decide),
      posts (fun _ => rfl) (by decide) (kcmd_owner ((s.lane x).closeLock 0x2A) (.inr rfl) hn) rfl (by decide)⟩
  case pend =>
    have hcmd (cmd : Nat) (h0 : cmd ≠ 0) (hown : ¬(n = 5 ∧ (cmd = 1 ∨ cmd = 2))) :=
      kcmd_pend (l := (s.lane x).closeLock 0x2A) hfix h0 hown hpend
    exact ⟨fun hn => ⟨posts (fun _ => rfl) (by decide) (hcmd 1 (by decide) (fun h => hn h.1)) rfl (by decide),
        posts (fun _ => rfl) (by decide) (hcmd 2 (by decide) (fun h => hn h.1)) rfl (by decide)⟩,
      posts (fun _ => rfl) (by decide) (hcmd 3 (by decide) (by omega)) rfl (by decide),
      posts (fun _ => rfl) (by decide) (hcmd 4 (by decide) (by omega)) rfl (by decide),
      posts (fun _ => rfl) (by decide) (hcmd 5 (by decide) (by omega)) rfl (by decide),
      posts (fun _ => rfl) (by decide) (hcmd 6 (by decide) (by omega)) rfl (by decide)⟩
  case free =>
    let l := (s.lane x).closeLock 0x2A
    have derive_refused {code : Nat} (hn : n ≠ 5) (hk : k.state ≠ 0) (hor : k.origin = 2) (hpar : k.parent < 128)
        (hcode : l.deriveCode k.parent = code) (h0 : code ≠ 0) : l.kcmd 1 = (l, code) :=
      kcmd_derive_refused (l := l) hfix hpend hn hk hor hpar hcode h0
    refine ⟨?abort, fun hn hk hor hpar => ⟨fun hv hkey hu => ?noUse, fun hlocked => ?locked, fun h1 h4 => ?notValid⟩,
      fun hn hk => posts (fun _ => rfl) (by decide) (kcmd_empty (l := l) hfix hpend hn (.inl rfl) hk) rfl (by decide),
      fun hn hk hor hpar hv hkey hu => ?derive,
      fun hn hk hor => posts (fun _ => rfl) (by decide) (kcmd_derive_notDerived (l := l) hfix hpend hn hk hor) rfl (by decide),
      fun hn hk => acts (fun _ => rfl) (by decide) hfree (kcmd_invalidate (l := l) hfix hpend hn hk) rfl,
      fun hn hk => posts (fun _ => rfl) (by decide) (kcmd_empty (l := l) hfix hpend hn (.inr rfl) hk) rfl (by decide),
      fun hst => ?unstaged, fun st hst => ?staged⟩
    case abort =>
      refine writeThen_gives _ 0x2A060 6 _ s x _ (fun _ => rfl) (by decide) (by decide) (by decide) (by decide)
        ((writeOp_kcmd l s.hub 6).trans (congrArg some (kcmd_abort (l := l) hfix hpend))) ?_
      exact kcmdStep7_free _ hfree
    case noUse =>
      have hcode : l.deriveCode k.parent = 0x2A46 := (deriveCode_valid (l := l) hv hkey).trans (if_neg (Bool.eq_false_iff.mp hu))
      exact posts (fun _ => rfl) (by decide) (derive_refused hn hk hor hpar hcode (by decide)) rfl (by decide)
    case locked =>
      exact posts (fun _ => rfl) (by decide) (derive_refused hn hk hor hpar (deriveCode_locked (l := l) hlocked) (by decide)) rfl
        (by decide)
    case notValid =>
      exact posts (fun _ => rfl) (by decide) (derive_refused hn hk hor hpar (deriveCode_notValid (l := l) h1 h4) (by decide)) rfl
        (by decide)
    case derive =>
      have hcode : l.deriveCode k.parent = 0 := (deriveCode_valid (l := l) hv hkey).trans (if_pos hu)
      exact acts (fun _ => rfl) (by decide) hfree (kcmd_derive (l := l) hfix hpend hn hk hor hpar hcode)
        (kcmdAct_derive (l := l) hcode)
    case unstaged =>
      have hstage := kcmd_stage (l := l) hfix hpend hfree hst
      exact ⟨fun key hkey => acts (fun _ => rfl) (by decide) hfree hstage (kcmdAct_stage (l := l) hkey),
        fun hkey => acts (fun _ => rfl) (by decide) hfree hstage (kcmdAct_stage_none (l := l) hkey),
        posts (fun _ => rfl) (by decide) (kcmd_verify_refused (l := l) hfix hpend hst) rfl (by decide),
        posts (fun _ => rfl) (by decide) (kcmd_commit_refused (l := l) hfix hpend (.inr (hst ▸ nofun))) rfl (by decide)⟩
    case staged =>
      have hverify := kcmd_verify (l := l) hfix hpend hst
      have hslot : l.sec.staging.map (·.slot) = some st.slot := congrArg (Option.map (·.slot)) hst
      exact ⟨posts (fun _ => rfl) (by decide) (kcmd_stage_refused (l := l) hfix hpend hst) rfl (by decide),
        fun hkcv => acts (fun _ => rfl) (by decide) hfree hverify (kcmdAct_verify (l := l) hst _ hkcv),
        fun hkcv => acts (fun _ => rfl) (by decide) hfree hverify (kcmdAct_verify_fails (l := l) hst _ hkcv),
        fun hstg hn => acts (fun _ => rfl) (by decide) hfree (kcmd_commit (l := l) hfix hpend hst hstg hn)
          (kcmdAct_commit (l := l) hst _),
        fun hno => posts (fun _ => rfl) (by decide) (kcmd_commit_refused (l := l) hfix hpend
          (hno.imp_right fun hne h => hne (Option.some.inj (hslot.symm.trans h)))) rfl (by decide)⟩

/-! ### Attestation (R390) and the replacement of the firmware (R398, Table SEC-10) -/

section
variable (l : Lane) (h : Hub)

theorem writeOp_att : l.writeOp h true [] 0x2B 0x040 1 = some l.attest := by
  simp [Lane.writeOp, Lane.writeSystem]

theorem attest_enabled (hen : l.enabled 0x2B = true) : l.attest = ((l.setSec fun t => { t with
    attReq := some ((List.range 8).flatMap fun i => leBytes 4 (l.get (R.CRY.NONCE.idx i))) }).put R.CRY.ATTV 0, 0) := by
  simp [Lane.attest, hen]

theorem writeOp_ucmd (w : Word) : l.writeOp h true [] 0x2C 0x0AC w = some (l.ucmd (bits w 2 0)) := by
  simp [Lane.writeOp, Lane.writeSystem]

theorem ucmd_start (hu : l.sec.ustate = .idle) :
    l.ucmd 1 = ((l.setSec fun t => { t with
      ustate := .staging, utgt := 1 - min 1 l.committedSlot, nextpg := 0, npages := 0, page := none }).setSlotState
        (1 - min 1 l.committedSlot) .staging, 0) := if_neg (not_not.mpr hu)

theorem ucmd_start_refused (hu : l.sec.ustate ≠ .idle) : l.ucmd 1 = (l, 0x2C08) := if_pos hu

theorem ucmd_verify (hu : l.sec.ustate = .staging) (hcmp : l.compared = true) (hpages : l.sec.npages ≠ 0)
    (hall : l.sec.nextpg = l.sec.npages) :
    l.ucmd 2 = (l.setSec fun t => { t with ustate := .verifying, since := l.fno }, 0) := by
  simp [Lane.ucmd, hu, hcmp, hpages, hall]

theorem emitNv_fno (r : NvReq) : (l.emitNv r).fno = l.fno := rfl

theorem nvPut_fno (part rid : Nat) (data : List Byte) (prio re : Bool) : (l.nvPut part rid data prio re).fno = l.fno := by
  unfold Lane.nvPut
  dsimp only
  split
  · rfl
  split
  · rw [emitNv_fno]
    cases re
    · exact Lane.inc_fno _ R.NVS.SUPCNT 1 (by decide) (by decide)
    · rfl
  · rfl

theorem ucmd_promote (hu : l.sec.ustate = .verified) (hcmp : l.compared = true) :
    l.ucmd 3 = ((l.nvPut 5 1 (manifestRecord ((l.sec.manifest.modify l.sec.utgt fun i => { i with state := .committed }).modify
      (1 - l.sec.utgt) fun i => { i with state := .previous }))).setSec fun t => { t with ustate := .promoting, since := l.fno }, 0) := by
  simp [Lane.ucmd, hu, hcmp, nvPut_fno]

theorem ucmd_abort (hu : l.sec.ustate = .staging ∨ l.sec.ustate = .verifying ∨ l.sec.ustate = .verified) :
    l.ucmd 4 = ((l.setSec fun t => { t with ustate := .idle, page := none }).setSlotState l.sec.utgt .empty, 0) := if_pos hu

end

/-- UCMD rows: what `ucmd` answers on the lane whose page the write has closed. -/
theorem ucmdRow_gives (c : Origin → Instr) (cmd : Nat) (s : State) (x : LaneId) (f : Lane → Lane) (r : Lane × Nat)
    (hc : ∀ o, exec (c o) s = .next (writeRow o 0x2C0AC cmd s)) (hbits : bits (.ofNat 32 cmd) 2 0 = cmd)
    (hr : ((s.lane x).closeLock 0x2C).ucmd cmd = r)
    (hf : Lane.answered 0x2C r = f ((s.lane x).closeLock 0x2C)) : WriteGives c 0x2C0AC (fun _ => .ofNat 32 cmd) s x f :=
  writeRow_givesAnswer c 0x2C0AC cmd s x f r hc (by decide) (by decide) (by decide) (by decide)
    ((writeOp_ucmd _ _ _).trans (by rw [hbits, hr])) hf

/-- Settles O20, each command by what its operation answers on the lane whose page the write has closed. -/
theorem attestationAndReplacement : Obligations.AttestationAndReplacement := by
  intro s x hrec u t
  let l := (s.lane x).closeLock 0x2C
  have gives {c : Origin → Instr} {cmd : Nat} {f : Lane → Lane} {r : Lane × Nat} := ucmdRow_gives c cmd s x f r
  refine ⟨fun hen => ?att, fun hu => gives (fun _ => rfl) (by decide) (ucmd_start l hu) (answered_ok _ _),
    fun hu hcmp hpages hall => gives (fun _ => rfl) (by decide) (ucmd_verify l hu hcmp hpages hall) (answered_ok _ _),
    fun hu hcmp => gives (fun _ => congrArg Host.Outcome.next (if_neg (Bool.eq_false_iff.mp hrec))) (by decide) (ucmd_promote l hu hcmp)
      (answered_ok _ _),
    fun hu => gives (fun _ => rfl) (by decide) (ucmd_abort l hu) (answered_ok _ _),
    fun hu => gives (fun _ => rfl) (by decide) (ucmd_start_refused l hu) (answered_code _ _ (by decide) (by decide) (by decide))⟩
  case att =>
    exact writeRow_gives _ 0x2B040 1 s x _ (fun _ => rfl) (by decide) (by decide) (by decide) (by decide)
      ((writeOp_att _ _).trans (congrArg some (attest_enabled _ hen)))

end Sys2Proof.Machine
end


section
/-! CAN RECOVER, M-Bus RESTART, the gamma table, the panel's restart and its rails as written by a session (O22). -/

namespace Sys2Proof.Machine

section
variable (l : Lane) (h : Hub)

/-! ### Ports (R472, R473) -/

/-- A port control entry is placed once. -/
theorem pushCtl_eq (src : Nat) :
    l.pushCtl src = l.setPorts fun p => { p with ctl := if src ∈ p.ctl then p.ctl else p.ctl ++ [src] } := by
  simp [Lane.pushCtl]

theorem writeOp_canRecover {n : Nat} (hn : n < 4) {w : Word} (hw : w.getLsbD 4 = true) (hst : l.get (R.CAN.STATE.inst n) = 2)
    (hen : l.enabled (0x44 + n) = true) : l.writeOp h true [] (0x44 + n) 0x040 w =
      some (((l.store (0x44 + n) 0x040 w).put (R.CAN.RECOVER.inst n) 1).pushCtl (0x18 + n), 0) := by
  interval_cases n <;> simp [Lane.writeOp, Lane.writePeriph, hw, hst, hen]

theorem writeOp_mbusRestart {n : Nat} (hn : n < 2) (hoff : l.on (R.MB.BUSON.inst n) = false) (hen : l.enabled (0x4C + n) = true) :
    l.writeOp h true [] (0x4C + n) 0x054 1 = some ((l.put (R.MB.RESTART.inst n) 1).pushCtl (0x20 + n), 0) := by
  interval_cases n <;> simp [Lane.writeOp, Lane.writePeriph, hoff, hen]

/-! ### The panel (R479, R480, R482) -/

theorem writeOp_gcommit (hen : l.enabled 0x51 = true) :
    l.writeOp h true [] 0x51 0x060 1 = some ({ l with panel := { l.panel with commit := true } }, 0) := by
  simp [Lane.writeOp, Lane.writePeriph, hen]

theorem writeOp_pnlRestart (hen : l.enabled 0x51 = true) (hlock : h.disp.lockout = true) :
    l.writeOp h true [] 0x51 0x060 2 = some ({ l with panel := { l.panel with restart := true } }, 0) := by
  simp [Lane.writeOp, Lane.writePeriph, hen, hlock]

theorem writeOp_pnlRestart_refused (hen : l.enabled 0x51 = true) (hlock : h.disp.lockout = false) :
    l.writeOp h true [] 0x51 0x060 2 = some (l, 0x5141) := by
  simp [Lane.writeOp, Lane.writePeriph, hen, hlock]

theorem writeOp_gdata (w : Word) : l.writeOp h true [] 0x51 0x05C w = some (l.writeGdata (bits w 9 0), 0) := by
  simp [Lane.writeOp, Lane.writePeriph]

/-- GDATA takes the low ten bits of the word. -/
theorem writeGdata_eq (w : Word) : l.writeGdata (bits w 9 0) =
    ({ l with panel := { l.panel with
      gdata := l.panel.gdata ++ [(256 * l.get R.PNL.GSEL + l.get R.PNL.GIDX, w.toNat % 1024)] } } : Lane).put R.PNL.GIDX
        ((l.get R.PNL.GIDX + 1) % 256) := by
  have hlow : bits w 9 0 % 1024 = w.toNat % 1024 := by simp [bits]
  rw [Lane.writeGdata, hlow]

/-- While the panel is off a rail's register is only stored. -/
theorem writeOp_rail {off : Nat} (hoff : off = 0x044 ∨ off = 0x048) (hpanel : h.disp.on = false) (w : Word) :
    l.writeOp h true [] 0x51 off w = none := by
  rcases hoff with rfl | rfl <;> simp [Lane.writeOp, Lane.writePeriph, hpanel]

end

/-- A row whose register is only stored gives the lane with the register stored. -/
theorem writeRowOf_stores (c : Origin → Instr) (key : Nat) (w : Lane → Word) (s : State) (x : LaneId) (f : Lane → Lane)
    (hc : ∀ o, exec (c o) s = .next (writeRowOf o key w s)) (hk : key < 0x100000)
    (ha : addrStatus (.ofNat 32 (0x40000000 + key)) = 0) (h40 : 0x040 ≤ key % 0x1000)
    (hw : ((fieldsAt (key / 0x1000) (key % 0x1000)).any fun f => f.acc.writable) = true)
    (hop : ((s.lane x).closeLock (key / 0x1000)).writeOp s.hub true [] (key / 0x1000) (key % 0x1000) (w (s.lane x)) = none)
    (hf : ((s.lane x).closeLock (key / 0x1000)).store (key / 0x1000) (key % 0x1000) (w (s.lane x)) =
      f ((s.lane x).closeLock (key / 0x1000))) : WriteGives c key w s x f := by
  intro role hr acc
  refine regGives_onLanes _ s x (fun l => (l.writeKey s.hub (.external role) [] key (w l)).1) _ (hc _) hr ?_
  rw [Lane.writeKey_at _ _ _ _ _ _ hk ha h40 hw acc, hop]
  exact hf

/-- The registers of CAN RECOVER and M-Bus RESTART are registers that a write may reach. -/
theorem canCtrl_writable {n : Nat} (hn : n < 4) :
    addrStatus (.ofNat 32 (0x40000000 + (0x44040 + n * 0x1000))) = 0 ∧
      ((fieldsAt (0x44 + n) 0x040).any fun f => f.acc.writable) = true := by
  interval_cases n <;> decide

theorem mbusRestart_writable {n : Nat} (hn : n < 2) :
    addrStatus (.ofNat 32 (0x40000000 + (0x4C054 + n * 0x1000))) = 0 ∧
      ((fieldsAt (0x4C + n) 0x054).any fun f => f.acc.writable) = true := by
  interval_cases n <;> decide

/-- CAN_RECOVER gives what the operation of its port's register answers. -/
theorem canRecover_gives {s : State} {x : LaneId} {n : Nat} (hn : n < 4) (hst : (s.lane x).get (R.CAN.STATE.inst n) = 2)
    (hen : (s.lane x).enabled (0x44 + n) = true) :
    WriteGives (fun o => .canRecover o n) (0x44040 + n * 0x1000) (fun l => (l.reg (0x44040 + n * 0x1000) &&& 0xF) ||| 0x10) s x
      (fun l => ((l.store (0x44 + n) 0x040 ((l.reg (0x44040 + n * 0x1000) &&& 0xF) ||| 0x10)).put (R.CAN.RECOVER.inst n) 1).pushCtl
        (0x18 + n)) := by
  have hpage : (0x44040 + n * 0x1000) / 0x1000 = 0x44 + n := by omega
  have hoff : (0x44040 + n * 0x1000) % 0x1000 = 0x040 := by omega
  obtain ⟨ha, hw⟩ := canCtrl_writable hn
  refine writeRowOf_gives _ _ _ s x _ (fun _ => congrArg Host.Outcome.next (if_pos hn)) (by omega) ha (by omega)
    (by rwa [hpage, hoff]) ?_
  rw [hpage, hoff]
  exact writeOp_canRecover _ _ hn (by simp) hst hen

theorem mbusRestart_gives {s : State} {x : LaneId} {n : Nat} (hn : n < 2) (hbus : (s.lane x).on (R.MB.BUSON.inst n) = false)
    (hen : (s.lane x).enabled (0x4C + n) = true) :
    WriteGives (fun o => .mbusRestart o n) (0x4C054 + n * 0x1000) (fun _ => 1) s x
      (fun l => (l.put (R.MB.RESTART.inst n) 1).pushCtl (0x20 + n)) := by
  have hpage : (0x4C054 + n * 0x1000) / 0x1000 = 0x4C + n := by omega
  have hoff : (0x4C054 + n * 0x1000) % 0x1000 = 0x054 := by omega
  obtain ⟨ha, hw⟩ := mbusRestart_writable hn
  refine writeRow_gives _ _ 1 s x _ (fun _ => congrArg Host.Outcome.next (if_pos hn)) (by omega) ha (by omega)
    (by rwa [hpage, hoff]) ?_
  rw [hpage, hoff]
  exact writeOp_mbusRestart _ _ hn hbus hen

/-- RAIL_WRITE stores its half of its register while the panel is off. -/
theorem railWrite_gives {s : State} {x : LaneId} {n off : Nat} (v : Word) (hn : n ≤ 3) (hoff : off = if n ≤ 1 then 0x044 else 0x048)
    (hpanel : s.hub.disp.on = false) :
    WriteGives (fun o => .railWrite o n v) (0x51000 + off) (fun l => l.withHalf (0x51000 + off) (decide (n % 2 = 1)) v.toNat) s x
      (fun l => l.store 0x51 off (l.withHalf (0x51000 + off) (decide (n % 2 = 1)) v.toNat)) := by
  have hrow (o : Origin) : exec (.railWrite o n v) s =
      .next (writeRowOf o (0x51000 + off) (fun l => l.withHalf (0x51000 + off) (decide (n % 2 = 1)) v.toNat) s) := by
    have hkey : (if n ≤ 1 then 0x51044 else 0x51048) = 0x51000 + off := by rw [hoff]; split <;> rfl
    refine congrArg Host.Outcome.next ((if_pos hn).trans ?_)
    dsimp only
    rw [hkey]
  have hcase : off = 0x044 ∨ off = 0x048 := by rw [hoff]; split <;> simp
  clear hoff
  rcases hcase with rfl | rfl
  · exact writeRowOf_stores _ 0x51044 _ s x _ hrow (by decide) (by decide) (by decide) (by decide)
      (writeOp_rail _ _ (.inl rfl) hpanel _) rfl
  · exact writeRowOf_stores _ 0x51048 _ s x _ hrow (by decide) (by decide) (by decide) (by decide)
      (writeOp_rail _ _ (.inr rfl) hpanel _) rfl

/-- Settles O22: each register's operation, by its row. -/
theorem portAndPanelWrites : Obligations.PortAndPanelWrites := by
  intro s x v
  refine ⟨fun n hn hst hen => ?recover, fun n hn hbus hen => ?restart,
    fun hen => ⟨?commit, fun hlock => ?panel, fun hlock => ?refused⟩, ?gdata, fun n hn hpanel => ?rail⟩
  case recover =>
    have hg := canRecover_gives hn hst hen
    simp only [pushCtl_eq] at hg
    exact hg
  case restart =>
    have hg := mbusRestart_gives hn hbus hen
    simp only [pushCtl_eq] at hg
    exact hg
  case commit =>
    exact writeRow_gives _ 0x51060 1 s x _ (fun _ => rfl) (by decide) (by decide) (by decide) (by decide) (writeOp_gcommit _ _ hen)
  case panel =>
    exact writeRow_gives _ 0x51060 2 s x _ (fun _ => rfl) (by decide) (by decide) (by decide) (by decide)
      (writeOp_pnlRestart _ _ hen hlock)
  case refused =>
    exact writeRow_givesAnswer _ 0x51060 2 s x _ _ (fun _ => rfl) (by decide) (by decide) (by decide) (by decide)
      (writeOp_pnlRestart_refused _ _ hen hlock) (answered_code _ _ (by decide) (by decide) (by decide))
  case gdata =>
    exact writeRow_givesWord _ 0x5105C v s x _ (fun _ => rfl) (by decide) (by decide) (by decide) (by decide)
      ((writeOp_gdata _ _ v).trans (congrArg (fun m => some (m, 0)) (writeGdata_eq _ v)))
  case rail =>
    have hword (l : Lane) (key : Nat) : l.withHalf key (decide (n % 2 = 1)) v.toNat =
        if n % 2 = 1 then withBits (l.reg key) 31 16 v.toNat else withBits (l.reg key) 15 0 v.toNat := by simp [Lane.withHalf]
    have hg := railWrite_gives (x := x) v hn rfl hpanel
    simp only [hword] at hg
    exact hg

end Sys2Proof.Machine
end


section
/-! Ethernet, request timers, RS-485, Modbus TCP and IEC 104 connections (O42). -/

namespace Sys2Proof.Machine

/-! ### What an arrival and a pump leave of the ports -/

@[simp] theorem Hub.complete_ports (h : Hub) (src len : Nat) (t : Int) (b : ArrBody) : (h.complete src len t b).ports = h.ports := by
  unfold Hub.complete
  dsimp only
  split <;> rfl

@[simp] theorem Hub.portArrival_ports (h : Hub) (src : Nat) (t : Int) (b : PortBody) : (h.portArrival src t b).ports = h.ports :=
  h.complete_ports _ _ _ _

/-- Nothing waits in a port queue: nothing is sent. -/
theorem pump_empty (h : Hub) (l : Lane) (now fuel : Nat) (hq : h.ports.txq = []) : h.pump l now fuel = h := by
  cases fuel with
  | zero => rfl
  | succ fuel => rw [Hub.pump, hq]; rfl

theorem pumpAt_empty (s : State) (t : Int) (hq : s.hub.ports.txq = []) : s.pumpAt t = s := by
  unfold State.pumpAt
  split
  · exact congrArg (fun h => { s with hub := h }) (pump_empty _ _ _ _ hq)
  · rfl

/-! ### Ethernet (R454, R455) -/

section
variable {s : State} {l : Lane} {n : Nat}

theorem ethernetFrameReceive_server (hsrv : s.server = some l) (hn : n < 4) (hen : l.enabled (0x38 + n) = true)
    (hup : s.hub.linkUp n = true) (t : Int) (f : EthFrame) : exec (.ethernetFrameReceive n t f) s = .next (s.ethIn l n t f) := by
  refine congrArg Host.Outcome.next ?_
  rw [hsrv]
  exact if_pos (by simp [hn, hen, hup])

/-- A datagram beyond the MTU, to another address or for no service is none that the port takes. -/
theorem udpTakes_false {data : List Byte}
    (hno : 1500 < data.length ∨ (∀ e, l.ports.eth[n]? = some e → u32At data 16 ≠ e.ip.toNat) ∨ l.udpTakes n data = false) :
    l.udpTakes n data = false := by
  rcases hno with hlong | haddr | hno
  · simp [Lane.udpTakes, Nat.not_le.mpr hlong]
  · have hother : (l.ports.eth[n]?).any (fun e => u32At data 16 == e.ip.toNat) = false := by
      cases he : l.ports.eth[n]? with
      | none => rfl
      | some e => simpa using haddr e he
    simp [Lane.udpTakes, hother]
  · exact hno

theorem ethIn_udp_takes {data : List Byte} (htakes : l.udpTakes n data = true) (t : Int) :
    s.ethIn l n t (.udp data) = s.setHub fun h => h.portArrival (0x10 + n) t (.unit 0xFFFF data) := if_pos htakes

theorem ethIn_udp_drops {data : List Byte} (htakes : l.udpTakes n data = false) (t : Int) :
    s.ethIn l n t (.udp data) = s.rxDrop n := if_neg (Bool.eq_false_iff.mp htakes)

theorem ethIn_close_session {num : Nat} {ss : Session} (hss : s.hub.session num = some ss) (hport : ss.port = n) (t : Int) :
    s.ethIn l n t (.tcpClose 4 num) = s.closeSession num := by
  simp [State.ethIn, hss, hport]

theorem ethIn_close_conn {svc num : Nat} {c : TcpConn} (hsvc : svc ≠ 4) (hc : s.hub.conn svc num = some c) (hport : c.port = n)
    (t : Int) : s.ethIn l n t (.tcpClose svc num) = s.setHub fun h => h.closeConn svc num := by
  simp [State.ethIn, hsvc, hc, hport]

end

section
variable {s : State} {n : Nat} (hn : n < 4) (hrun : s.hub.running = true)
include hn hrun

theorem ethLink_up {speed : Nat} (h1 : 1 ≤ speed) (h2 : speed ≤ 2) (hclk : s.pwr.clkFail.getLsbD 10 = false)
    (hnew : s.hub.ports.ethLink.getD n 0 ≠ speed) :
    s.ethLink n speed = (s.setPwr fun p => { p with clkFail := p.clkFail &&& ~~~(1#19 <<< (11 + n)) }).setHub fun h =>
      (h.setPorts fun p => { p with ethLink := p.ethLink.set n speed }).portArrival (0x10 + n) 0 (.status (.eth speed)) := by
  unfold State.ethLink
  rw [if_neg (by simp [hrun]; omega), if_neg (by omega), if_neg (by simp only [hclk, hnew]; decide)]

theorem ethLink_down : s.ethLink n 0 = s.setHub fun h => h.ethDown n := by
  unfold State.ethLink
  rw [if_neg (by simp [hrun]; omega), if_pos rfl]

end

/-- A link that goes down takes its connections and sessions with it. -/
theorem ethDown_ports (h : Hub) (n : Nat) (hup : h.linkUp n = true) : (h.ethDown n).ports = { h.ports with
    ethLink := h.ports.ethLink.set n 0, conns := h.ports.conns.filter fun c => c.port != n
    sessions := h.ports.sessions.filter fun c => c.port != n } := by
  rw [Hub.ethDown, if_neg (by simpa [Hub.linkUp] using hup), Hub.portArrival_ports]
  rfl

theorem ethDown_linkUp (h : Hub) (n : Nat) (hup : h.linkUp n = true) : (h.ethDown n).linkUp n = false := by
  have hlen : n < h.ports.ethLink.length := by
    by_contra hno
    simp [Hub.linkUp, List.getD_eq_getElem?_getD, List.getElem?_eq_none (Nat.not_lt.mp hno)] at hup
  simp [Hub.linkUp, ethDown_ports h n hup, hlen]

/-! ### Request timers (R456) -/

section
variable {h : Hub} (q : ReqTimer) (htimers : h.ports.timers = [q])
include htimers

/-- The one timer there is stops. -/
theorem stopTimer_only : h.stopTimer q.src q.stn = h.setPorts fun p => { p with timers := [] } := by
  simp [Hub.stopTimer, Hub.setPorts, htimers]

variable (l : Lane) (hsrc : 0x14 ≤ q.src) (hdue : q.due ≤ h.upFrames)
include hsrc hdue

/-- The one timer there is, of a port without TCP, expires with its outcome. -/
theorem expire_only : (h.expire l fun t => t.src == q.src && timerStn t.src t.stn == q.stn) =
    (h.setPorts fun p => { p with
      timers := [], late := if q.code = 1 ∧ 0x1C ≤ q.src then q.src :: p.late else p.late }).portArrival q.src 750000
        (.outcome q.stn q.code) := by
  have hstn : timerStn q.src q.stn = q.stn := if_neg (by omega)
  have hdone : h.requestDone l q = h.setPorts fun p => { p with timers := [] } := by
    rw [Hub.requestDone, if_neg (by omega), stopTimer_only q htimers]
  simp only [Hub.expire, htimers, List.filter_cons, hstn, hdue, beq_self_eq_true, decide_true, Bool.and_self, if_true,
    List.filter_nil, List.foldl_cons, List.foldl_nil, hdone]
  rfl

end

/-- A timer that is due ends with its outcome, and nothing waits to be sent after it. -/
theorem timerDue_only {s : State} {l : Lane} {q : ReqTimer} (hact : s.active = some l) (hq : s.hub.ports.txq = [])
    (htimers : s.hub.ports.timers = [q]) (hsrc : 0x14 ≤ q.src) (hdue : q.due ≤ s.hub.upFrames) :
    s.timerDue q.src q.stn = s.setHub fun h => (h.setPorts fun p => { p with
      timers := [], late := if q.code = 1 ∧ 0x1C ≤ q.src then q.src :: p.late else p.late }).portArrival q.src 750000
        (.outcome q.stn q.code) := by
  rw [State.timerDue, hact, Option.elim_some, pumpAt_empty]
  · exact congrArg (fun h => { s with hub := h }) (expire_only q htimers l hsrc hdue)
  · rw [State.setHub_hub, expire_only q htimers l hsrc hdue, Hub.portArrival_ports]
    exact hq

/-! ### RS-485 (R468) -/

section
variable {s : State} {l : Lane} {n : Nat} (hact : s.active = some l) (hn : n < 4)
  (hen : l.enabled (0x48 + n) = true) (t : Int) {data : List Byte}
include hact hn hen

/-- A unit at an RS-485 port is a response, or late, which counts. -/
theorem portUnitIn_serial : s.portUnitIn (0x1C + n) t data =
    if (s.hub.response (0x1C + n) t data).2 then
      onLanes (fun l => (l.inc (R.SER.TOUT.inst n)).irq (R.SER.I_TOUT.inst n)) { s with hub := (s.hub.response (0x1C + n) t data).1 }
    else { s with hub := (s.hub.response (0x1C + n) t data).1 } := by
  have hpage : portPage (0x1C + n) = 0x48 + n := by
    rw [portPage, if_neg (by omega), if_neg (by omega), if_neg (by omega), if_pos (by omega)]
    omega
  have hsub : 0x1C + n - 0x1C = n := by omega
  unfold State.portUnitIn
  rw [hact]
  dsimp only
  rw [hpage, if_neg (by simp [hen]), if_neg (by omega), if_neg (by omega), if_pos (by omega), hsub]
  exact if_congr (and_iff_left (by omega)) rfl rfl

variable (hrun : s.hub.running = true)
include hrun

theorem rs485In_checked : s.rs485In n t data =
    if 256 < data.length then onLanes (fun l => l.inc (R.SER.OVRUN.inst n)) s
    else if data.length < 2 ∨ u16At data (data.length - 2) ≠ crc16Modbus (data.take (data.length - 2)) then
      onLanes (fun l => l.inc (R.SER.CRCERR.inst n)) s
    else (s.portUnitIn (0x1C + n) t data).pumpAt t := by
  have hno : ¬(4 ≤ n ∨ (!s.hub.running) = true ∨ (!l.enabled (0x48 + n)) = true) := by simp [hrun, hen]; omega
  unfold State.rs485In
  rw [hact]
  exact if_neg hno

/-- A whole ADU is taken by its port; nothing waits to be sent after it. -/
theorem rs485In_whole (h2 : 2 ≤ data.length) (h256 : data.length ≤ 256)
    (hcrc : u16At data (data.length - 2) = crc16Modbus (data.take (data.length - 2)))
    (hq : (s.hub.response (0x1C + n) t data).1.ports.txq = []) : s.rs485In n t data =
      if (s.hub.response (0x1C + n) t data).2 then
        onLanes (fun l => (l.inc (R.SER.TOUT.inst n)).irq (R.SER.I_TOUT.inst n)) { s with hub := (s.hub.response (0x1C + n) t data).1 }
      else { s with hub := (s.hub.response (0x1C + n) t data).1 } := by
  rw [rs485In_checked hact hn hen t hrun, if_neg (by omega), if_neg (by simp [hcrc]; omega), portUnitIn_serial hact hn hen]
  refine pumpAt_empty _ _ ?_
  split <;> exact hq

end

section
variable {h : Hub} {src : Nat} (t : Int) (data : List Byte)

/-- The response that the port awaits. -/
theorem response_awaited {q : ReqTimer} (htimers : h.ports.timers = [q]) (hsrc : q.src = src) (hcode : q.code = 1) :
    h.response src t data = ((h.setPorts fun p => { p with timers := [] }).portArrival src t (.unit q.stn data), false) := by
  subst hsrc
  have hfind : (h.ports.timers.find? fun x => x.src == q.src && x.code == 1) = some q := by simp [htimers, hcode]
  rw [Hub.response, hfind]
  dsimp only
  rw [stopTimer_only q htimers]

variable (hnone : ∀ q ∈ h.ports.timers, ¬(q.src = src ∧ q.code = 1))
include hnone

/-- No request is outstanding: the unit is the late response that the port may still send, or unsolicited. -/
theorem response_unawaited : h.response src t data =
    if h.ports.late.contains src then (h.setPorts fun p => { p with late := p.late.filter (· != src) }, true)
    else (h.portArrival src t (.unit 0xFFFF data), false) := by
  have hfind : (h.ports.timers.find? fun x => x.src == src && x.code == 1) = none := by
    simpa using hnone
  rw [Hub.response, hfind]

theorem response_late (hlate : src ∈ h.ports.late) :
    h.response src t data = (h.setPorts fun p => { p with late := p.late.filter (· != src) }, true) :=
  (response_unawaited t data hnone).trans (if_pos (by simpa using hlate))

theorem response_unsolicited (hlate : src ∉ h.ports.late) : h.response src t data = (h.portArrival src t (.unit 0xFFFF data), false) :=
  (response_unawaited t data hnone).trans (if_neg (by simpa using hlate))

end

/-! ### Connections (R458, R466, R467) -/

/-- Which connections are open, and which attempts have been made. -/
def Hub.dialled (h : Hub) : List (Nat × Nat) × List (Nat × Nat × Nat) :=
  (h.ports.conns.map fun c => (c.svc, c.num), h.ports.tried)

theorem dialled_modConn (h : Hub) (svc num : Nat) {f : TcpConn → TcpConn} (hf : ∀ c, ((f c).svc, (f c).num) = (c.svc, c.num)) :
    (h.modConn svc num f).dialled = h.dialled := by
  have hkey (c : TcpConn) : ((if c.svc = svc ∧ c.num = num then f c else c).svc, (if c.svc = svc ∧ c.num = num then f c else c).num) =
      (c.svc, c.num) := by
    split
    · exact hf c
    · rfl
  simp only [Hub.dialled, Hub.modConn, Hub.setPorts, List.map_map, Function.comp_def, hkey]

@[simp] theorem dialled_portArrival (h : Hub) (src : Nat) (t : Int) (b : PortBody) : (h.portArrival src t b).dialled = h.dialled := by
  rw [Hub.dialled, Hub.portArrival_ports, ← Hub.dialled]

@[simp] theorem dialled_sent (h : Hub) (x : Sent) : (h.sent x).dialled = h.dialled := rfl
@[simp] theorem dialled_startTimer (h : Hub) (src stn due gen code : Nat) : (h.startTimer src stn due gen code).dialled = h.dialled := rfl
@[simp] theorem dialled_modCan (h : Hub) (n : Nat) (f : CanPort → CanPort) : (h.modCan n f).dialled = h.dialled := rfl

@[simp] theorem dialled_iecPump (h : Hub) (num fuel : Nat) : (h.iecPump num fuel).dialled = h.dialled := by
  induction fuel generalizing h with
  | zero => rfl
  | succ fuel ih =>
    unfold Hub.iecPump
    repeat' split
    · rfl
    · rfl
    · rfl
    · rw [ih, dialled_sent]
      exact dialled_modConn _ _ _ fun _ => rfl

@[simp] theorem dialled_iecSend (h : Hub) (num : Nat) (a : List Byte) : (h.iecSend num a).dialled = h.dialled := by
  rw [Hub.iecSend, dialled_iecPump]
  exact dialled_modConn _ _ _ fun _ => rfl

/-- What a port sends opens and closes no connection. -/
@[simp] theorem dialled_sendEntry (h : Hub) (l : Lane) (now src : Nat) (b : List Byte) : (h.sendEntry l now src b).dialled = h.dialled := by
  have heach (cs : List TcpConn) (a : List Byte) : (cs.foldl (fun (h : Hub) c => h.iecSend c.num a) h).dialled = h.dialled :=
    foldl_keeps Hub.dialled _ _ fun h c _ => dialled_iecSend h c.num a
  have hline (h : Hub) (us : Nat) (f : HubPorts → List Nat) :
      ((h.setLine src us).setPorts fun p => { p with late := f p }).dialled = h.dialled := rfl
  have hout (f : TcpConn → Nat) : (h.modConn 1 (u16At b 1) fun c => { c with outstanding := f c }).dialled = h.dialled :=
    dialled_modConn _ _ _ fun _ => rfl
  unfold Hub.sendEntry
  dsimp only
  repeat' split
  all_goals simp only [dialled_portArrival, dialled_sent, dialled_startTimer, dialled_modCan, heach, hline, hout]

theorem dialled_pump (h : Hub) (l : Lane) (now fuel : Nat) : (h.pump l now fuel).dialled = h.dialled := by
  induction fuel generalizing h with
  | zero => rfl
  | succ fuel ih =>
    unfold Hub.pump
    dsimp only
    split
    · rfl
    · split
      · rfl
      · rw [ih, dialled_sendEntry]
        rfl

/-- A connection is open where its key is among those of the open connections. -/
theorem conn_isSome (h : Hub) (svc num : Nat) : (h.conn svc num).isSome = decide ((svc, num) ∈ h.dialled.1) := by
  rw [Bool.eq_iff_iff, decide_eq_true_iff, Hub.conn, List.find?_isSome]
  simp [Hub.dialled]

/-- An attempt is noted, and the connection is open after it where the server answers with what TLS asks for. -/
theorem connect_dialled (h : Hub) (l : Lane) (num : Nat) (st : Station) (r : ConnectReply) :
    (h.connect l num st r).dialled =
      (h.dialled.1 ++ if r.up && (!st.tls || (r.cert.offer.version == 0x0304 && l.ownerCert r.cert)) then [(1, num)] else [],
        (st.addr, connPort st, h.upFrames) :: h.ports.tried.filter fun x => !(x.1 == st.addr && x.2.1 == connPort st)) := by
  have hgood : (!r.up || (st.tls && !(r.cert.offer.version == 0x0304 && l.ownerCert r.cert))) =
      !(r.up && (!st.tls || (r.cert.offer.version == 0x0304 && l.ownerCert r.cert))) := by
    simp only [Bool.not_and, Bool.not_or, Bool.not_not]
  unfold Hub.connect
  dsimp only
  rw [hgood]
  cases r.up && (!st.tls || (r.cert.offer.version == 0x0304 && l.ownerCert r.cert)) with
  | false => simp [Hub.dialled, Hub.setPorts]
  | true =>
    rw [if_neg (by decide), dialled_pump]
    simp [Hub.dialled, Hub.setPorts]

section
variable {s : State} {l : Lane} {num : Nat} {st : Station} (hsrv : s.server = some l) (hst : l.tcpStation num = some st)
  (hmay : s.hub.mayConnect num st = true) (reply : ConnectReply)
include hsrv hst hmay

theorem modbusConnect_connects : exec (.modbusConnect num reply) s = .next (s.setHub fun h => h.connect l num st reply) := by
  refine congrArg Host.Outcome.next ?_
  simp only [hsrv, hst, Option.bind_some, Option.map_some, hmay, if_true]

end

/-- No connection that may be made is open. -/
theorem mayConnect_closed {h : Hub} {num : Nat} {st : Station} (hmay : h.mayConnect num st = true) : (h.conn 1 num).isSome = false := by
  simp only [Hub.mayConnect, Bool.and_eq_true] at hmay
  obtain ⟨⟨⟨⟨hclosed, -⟩, -⟩, -⟩, -⟩ := hmay
  simpa using hclosed

theorem connect_conn {h : Hub} {num : Nat} {st : Station} (hmay : h.mayConnect num st = true) (l : Lane) (r : ConnectReply) :
    ((h.connect l num st r).conn 1 num).isSome = (r.up && (!st.tls || (r.cert.offer.version == 0x0304 && l.ownerCert r.cert))) := by
  have hclosed : (1, num) ∉ h.dialled.1 := by simpa [conn_isSome] using mayConnect_closed hmay
  rw [conn_isSome, connect_dialled]
  cases r.up && (!st.tls || (r.cert.offer.version == 0x0304 && l.ownerCert r.cert)) <;> simp [hclosed]

/-- SERVER_CONNECTION_ACCEPT: where the service is offered and a connection free, TLS decides. -/
theorem acceptConn_offered {s : State} {l : Lane} {num svc n : Nat} {tls : Bool} (hsrv : s.server = some l) (hn : n < 4)
    (hnum : num < iecBroadcast) (hen : l.enabled (0x38 + n) = true) (hup : s.hub.linkUp n = true) (hserves : l.serves n svc tls = true)
    (hfree : s.hub.conn svc num = none) (hopen : s.hub.ports.conns.countP (fun c => c.svc == svc) < (if svc = 2 then 8 else 4))
    (cert : ClientCert) : s.acceptConn num svc n tls cert =
      if !tls || (cert.offer.version == 0x0304 && l.ownerCert cert) then s.setHub fun h => h.setPorts fun p =>
        { p with conns := p.conns ++ [{ num, svc, port := n, addr := 0, tls, operate := tls && cert.role != .view }] }
      else s := by
  unfold State.acceptConn
  rw [hsrv]
  simp only [hn, hnum, hen, hup, hserves, hfree, hopen, decide_true, Bool.true_and, Bool.and_true, Option.isNone_none]

/-! ### IEC 104 timers (R469) -/

section
variable {h : Hub} {num : Nat} {c : TcpConn} (hc : h.conn 3 num = some c)
include hc

theorem iecTimer_unacknowledged (hout : 0 < c.outstanding) : h.iecTimer num 1 = h.closeConn 3 num := by
  simp [Hub.iecTimer, hc, hout]

theorem iecTimer_idle (hout : c.outstanding = 0) (htest : c.testSent = false) : h.iecTimer num 1 = h := by
  simp [Hub.iecTimer, hc, hout, htest]

theorem iecTimer_test : h.iecTimer num 3 =
    (h.modConn 3 num fun c => { c with testSent := true }).sent (.port (0x10 + c.port) (iecControl 0x43 0)) := by
  simp [Hub.iecTimer, hc]

end

/-- A changed connection is found as it has become. -/
theorem modConn_conn (h : Hub) (svc num : Nat) {f : TcpConn → TcpConn} (hf : ∀ c, ((f c).svc, (f c).num) = (c.svc, c.num)) :
    (h.modConn svc num f).conn svc num = (h.conn svc num).map f := by
  let g (c : TcpConn) : TcpConn := if c.svc = svc ∧ c.num = num then f c else c
  have hkey (c : TcpConn) : ((g c).svc == svc && (g c).num == num) = (c.svc == svc && c.num == num) := by
    dsimp only [g]
    split
    · obtain ⟨hsvc, hnum⟩ := Prod.mk.inj (hf c)
      rw [hsvc, hnum]
    · rfl
  have hfound : (h.modConn svc num f).conn svc num = (h.conn svc num).map g := by
    simp only [Hub.conn, Hub.modConn, Hub.setPorts, List.find?_map, Function.comp_def]
    exact congrArg (fun p => (h.ports.conns.find? p).map g) (funext hkey)
  rw [hfound]
  cases hc : h.conn svc num with
  | none => rfl
  | some c =>
    have hmatch : c.svc = svc ∧ c.num = num := by simpa using List.find?_some hc
    exact congrArg some (if_pos hmatch)

/-- The hub alone becomes what the change gives. -/
theorem hubOnly_of_setHub (s : State) (f : Hub → Hub) : HubOnly s (s.setHub f) := rfl

/-- Settles O42: each event by what its row does where its conditions hold. -/
theorem portEvents : Obligations.PortEvents := by
  intro s l n tm
  refine ⟨fun hsrv hn hen hup => ?ethernet, fun hn hrun => ⟨fun speed h1 h2 hclk hnew hlen => ?up, fun hup => ?down⟩,
    fun q hact hn hdue hq htimers => ⟨fun hsrc hcode => ?silent, fun hsrc hcode => ?sent, fun hsrc => ?canTimer⟩,
    fun data hact hn hrun hen => ?serial, fun num st reply hsrv hst hmay => ?connect,
    fun num svc tls cert hsrv hn hnum hen hup hserves hfree hopen => ?accept, fun num c hc => ?iec⟩
  case ethernet =>
    have hrow := ethernetFrameReceive_server hsrv hn hen hup tm
    refine ⟨hrow .arp, hrow .icmpEcho, hrow .other, fun data htakes => ?_, fun data hno => ?_, fun num ss hss hport => ?_,
      fun svc num c hsvc hc hport => ?_⟩
    · rw [hrow, ethIn_udp_takes htakes]
    · rw [hrow, ethIn_udp_drops (udpTakes_false hno), State.rxDrop]
    · rw [hrow, ethIn_close_session hss hport]
      rfl
    · rw [hrow, ethIn_close_conn hsvc hc hport]
      rfl
  case up =>
    refine ⟨_, congrArg Host.Outcome.next (ethLink_up hn hrun h1 h2 hclk hnew), ?_, ?_⟩
    · rw [State.setHub_hub, Hub.portArrival_ports]
      simp [Hub.setPorts, State.setPwr, hlen]
    · simp [State.setPwr]
  case down =>
    refine ⟨_, congrArg Host.Outcome.next (ethLink_down hn hrun), ethDown_linkUp _ _ hup, fun c hc => ?_, fun c hc => ?_⟩
    all_goals
      rw [State.setHub_hub, ethDown_ports _ _ hup] at hc
      simpa using (List.mem_filter.mp hc).2
  case silent =>
    have hdone := timerDue_only hact hq htimers (by omega) hdue
    rw [hsrc, hcode] at hdone
    exact congrArg Host.Outcome.next (hdone.trans (by simp))
  case sent =>
    have hdone := timerDue_only hact hq htimers (by omega) hdue
    rw [hsrc] at hdone
    exact congrArg Host.Outcome.next (hdone.trans (by simp [hcode]))
  case canTimer =>
    have hdone := timerDue_only hact hq htimers (by omega) hdue
    have hno : ¬(q.code = 1 ∧ 0x1C ≤ 0x18 + n) := by omega
    rw [hsrc] at hdone
    exact congrArg Host.Outcome.next ((if_pos hn).trans (hdone.trans (by simp only [hno, if_false])))
  case serial =>
    have hchecked := rs485In_checked hact hn hen tm hrun (data := data)
    refine ⟨fun hlong => ?_, fun h2 h256 hcrc => ?_,
      fun h2 h256 hcrc hq => ⟨fun q htimers hsrc hcode => ?_, fun hnone => ⟨fun hlate => ?_, fun hlate => ?_⟩⟩⟩
    · exact congrArg Host.Outcome.next (hchecked.trans (if_pos hlong))
    · exact congrArg Host.Outcome.next (hchecked.trans ((if_neg (by omega)).trans (if_pos (.inr hcrc))))
    · have hresp := response_awaited (h := s.hub) tm data htimers hsrc hcode
      refine congrArg Host.Outcome.next ?_
      rw [rs485In_whole hact hn hen tm hrun h2 h256 hcrc (by rw [hresp, Hub.portArrival_ports]; exact hq), hresp]
      rfl
    · have hresp := response_late (h := s.hub) tm data hnone hlate
      refine congrArg Host.Outcome.next ?_
      rw [rs485In_whole hact hn hen tm hrun h2 h256 hcrc (by rw [hresp]; exact hq), hresp]
      rfl
    · have hresp := response_unsolicited (h := s.hub) tm data hnone hlate
      refine congrArg Host.Outcome.next ?_
      rw [rs485In_whole hact hn hen tm hrun h2 h256 hcrc (by rw [hresp, Hub.portArrival_ports]; exact hq), hresp]
      rfl
  case connect =>
    refine ⟨_, modbusConnect_connects hsrv hst hmay reply, hubOnly_of_setHub s _, connect_conn hmay l reply, ?_⟩
    have htried : (s.hub.connect l num st reply).ports.tried = _ := congrArg Prod.snd (connect_dialled s.hub l num st reply)
    rw [State.setHub_hub, htried]
    exact List.mem_cons_self
  case accept =>
    have hoffered := acceptConn_offered hsrv hn hnum hen hup hserves hfree hopen cert
    refine ⟨fun hgood => ?_, fun htls hbad => ?_⟩
    · exact congrArg Host.Outcome.next (hoffered.trans (if_pos (by rcases hgood with rfl | ⟨hv, hc⟩ <;> simp [*])))
    · exact congrArg Host.Outcome.next (hoffered.trans (if_neg (by rcases hbad with hv | hc <;> simp [*])))
  case iec =>
    refine ⟨fun hout => ?_, fun hout htest => ?_, _, rfl, hubOnly_of_setHub s _, ?_⟩
    · exact congrArg (fun h => Host.Outcome.next { s with hub := h }) (iecTimer_unacknowledged hc hout)
    · exact congrArg (fun h => Host.Outcome.next { s with hub := h }) (iecTimer_idle hc hout htest)
    · rw [State.setHub_hub, iecTimer_test hc]
      have htested : (s.hub.modConn 3 num fun c => { c with testSent := true }).conn 3 num =
          (s.hub.conn 3 num).map fun c => { c with testSent := true } := modConn_conn _ _ _ fun _ => rfl
      rw [hc] at htested
      exact congrArg (Option.map (·.testSent)) htested

end Sys2Proof.Machine
end


section
/-! CAN, M-Bus and fabric links, and the frames of the fabric (O43). -/

namespace Sys2Proof.Machine

/-! ### One port of a list -/

/-- A change of the element at a place in the list sets what it becomes. -/
theorem modify_eq_set_getD {α : Type} (l : List α) (n : Nat) (f : α → α) (d : α) (hn : n < l.length) :
    l.modify n f = l.set n (f (l.getD n d)) := by
  rw [List.modify_eq_set_getElem?, List.getD_eq_getElem?_getD, List.getElem?_eq_getElem hn]
  rfl

theorem set_getD_self {α : Type} (l : List α) (n : Nat) (d : α) (hn : n < l.length) : l.set n (l.getD n d) = l := by
  rw [List.getD_eq_getElem l d hn, List.set_getElem_self]

/-! ### CAN (R471, R472) -/

/-- The CAN port `n` becomes `d`. -/
def Hub.setCan (h : Hub) (n : Nat) (d : CanPort) : Hub := h.setPorts fun p => { p with can := p.can.set n d }

theorem setCan_can (h : Hub) {n : Nat} (d : CanPort) (hn : n < h.ports.can.length) : (h.setCan n d).can n = d := by
  simp [Hub.setCan, Hub.setPorts, Hub.can, hn]

theorem modCan_eq (h : Hub) {n : Nat} (f : CanPort → CanPort) (hn : n < h.ports.can.length) :
    h.modCan n f = h.setCan n (f (h.can n)) := by
  rw [Hub.modCan, Hub.setCan, Hub.can, Hub.setPorts, Hub.setPorts, modify_eq_set_getD _ _ _ {} hn]

theorem setCan_report (h : Hub) {n : Nat} (d : CanPort) (hn : n < h.ports.can.length) :
    (h.setCan n d).canReport n 0 = (h.setCan n d).portArrival (0x18 + n) 0 (canStatus d) := by
  rw [Hub.canReport, setCan_can h d hn]

/-- A CAN port on which its change does not act. -/
theorem onCan_waits {s : State} {n : Nat} {P : CanPort → Prop} [DecidablePred P] {g : CanPort → CanPort} (hP : ¬P (s.hub.can n))
    (report : Bool) : s.onCan n (fun c => if P c then g c else c) report = s := if_neg (by simp [hP])

section
variable {s : State} {l : Lane} {n : Nat} (hrun : s.hub.running = true) (hact : s.active = some l) (hn : n < 4)
  (hlen : n < s.hub.ports.can.length) (hen : l.enabled (0x44 + n) = true)
include hrun hact hn hen hlen

/-- A CAN port that becomes another. -/
theorem onCan_becomes {f : CanPort → CanPort} {d : CanPort} (hf : f (s.hub.can n) = d) (hd : d ≠ s.hub.can n) (report : Bool) :
    s.onCan n f report = s.setHub fun h =>
      if report then (h.setCan n d).portArrival (0x18 + n) 0 (canStatus d) else h.setCan n d := by
  have hport : (decide (n < 4) && s.hub.running && s.active.any (fun l => l.enabled (0x44 + n)) &&
      decide (f (s.hub.can n) ≠ s.hub.can n)) = true := by simp [hn, hrun, hact, hen, hf, hd]
  refine (if_pos hport).trans (congrArg (fun h => { s with hub := h }) ?_)
  dsimp only
  rw [modCan_eq s.hub f hlen, hf, setCan_report s.hub d hlen]

/-- A CAN port on which its change acts. -/
theorem onCan_acts {P : CanPort → Prop} [DecidablePred P] {g : CanPort → CanPort} (hP : P (s.hub.can n))
    (hg : g (s.hub.can n) ≠ s.hub.can n) (report : Bool) : s.onCan n (fun c => if P c then g c else c) report = s.setHub fun h =>
      if report then (h.setCan n (g (s.hub.can n))).portArrival (0x18 + n) 0 (canStatus (g (s.hub.can n)))
      else h.setCan n (g (s.hub.can n)) :=
  onCan_becomes (f := fun c => if P c then g c else c) hrun hact hn hlen hen (if_pos hP) hg report

end

/-- The frames in the transmit buffers of a port that has just become `d` are dropped. -/
theorem canDrop_becomes (h : Hub) {n : Nat} (d : CanPort) (hn : n < h.ports.can.length) (t : Int) (b : PortBody) (code : Nat) :
    ((h.setCan n d).portArrival (0x18 + n) t b).canDrop n 0 code =
      d.tx.foldl (fun (h : Hub) stn => h.portArrival (0x18 + n) 0 (.outcome stn code))
        (((h.setCan n d).portArrival (0x18 + n) t b).setCan n { d with tx := [] }) := by
  have hcan : ((h.setCan n d).portArrival (0x18 + n) t b).can n = d := by
    rw [Hub.can, Hub.portArrival_ports]
    exact setCan_can h d hn
  have hlen : n < ((h.setCan n d).portArrival (0x18 + n) t b).ports.can.length := by
    rw [Hub.portArrival_ports]
    simpa [Hub.setCan, Hub.setPorts] using hn
  rw [Hub.canDrop, hcan, modCan_eq _ _ hlen, hcan]

/-! ### M-Bus (R473) -/

/-- The M-Bus port `n` becomes `d`. -/
def Hub.setMb (h : Hub) (n : Nat) (d : MbusPort) : Hub := h.setPorts fun p => { p with mb := p.mb.set n d }

section
variable {s : State} {l : Lane} {n : Nat} (hrun : s.hub.running = true) (hact : s.active = some l) (hn : n < 2)
  (hen : l.enabled (0x4C + n) = true)
include hrun hact hn hen

/-- An M-Bus port that becomes another reports it. -/
theorem onMb_becomes (hlen : n < s.hub.ports.mb.length) {f : MbusPort → MbusPort} {d : MbusPort} (hf : f (s.hub.mb n) = d)
    (hd : d ≠ s.hub.mb n) : s.onMb n f = s.setHub fun h =>
      (h.setMb n d).portArrival (0x20 + n) 0 (.status (.mbus d.on d.ovc d.ibus)) := by
  have hport : (decide (n < 2) && s.hub.running && s.active.any (fun l => l.enabled (0x4C + n)) &&
      decide (f (s.hub.mb n) ≠ s.hub.mb n)) = true := by simp [hn, hrun, hact, hen, hf, hd]
  have hset : s.hub.modMb n f = s.hub.setMb n d := by
    rw [Hub.modMb, Hub.setMb, Hub.setPorts, Hub.setPorts, modify_eq_set_getD _ _ _ {} hlen, ← Hub.mb, hf]
  have hmb : (s.hub.setMb n d).mb n = d := by simp [Hub.setMb, Hub.setPorts, Hub.mb, hlen]
  refine (if_pos hport).trans (congrArg (fun h => { s with hub := h }) ?_)
  dsimp only
  rw [hset, Hub.mbReport, hmb]

/-- A unit that is no answer shows a collision (assumption log 83). -/
theorem arrivalComplete_collision (stn : Nat) {data : List Byte} (hno : mbusAnswer data = false) :
    s.arrivalComplete (0x20 + n) 0 (.port (.unit stn data)) =
      (onLanes (fun k => (k.inc (R.MB.COLL.inst n)).irq (R.MB.I_COLL.inst n)) s).pumpAt 0 := by
  have hpage : portPage (0x20 + n) = 0x4C + n := by
    rw [portPage, if_neg (by omega), if_neg (by omega), if_neg (by omega), if_neg (by omega)]
    omega
  have hsub : 0x20 + n - 0x20 = n := by omega
  have hunit : s.portUnitIn (0x20 + n) 0 data = onLanes (fun k => (k.inc (R.MB.COLL.inst n)).irq (R.MB.I_COLL.inst n)) s := by
    unfold State.portUnitIn
    rw [hact]
    dsimp only
    rw [hpage, if_neg (by simp [hen]), if_neg (by omega), if_pos (by simp [hno]), hsub]
  unfold State.arrivalComplete
  rw [if_neg (by simp [hrun])]
  dsimp only
  rw [if_neg (by omega), hunit]

end

/-! ### Fabric links (R433, R499) -/

/-- The fabric link `n` becomes `j`. -/
def Hub.setLink (h : Hub) (n : Nat) (j : HubLink) : Hub := h.setPorts fun p => { p with links := p.links.set n j }

theorem modifyLink_eq (h : Hub) {n : Nat} (hn : n < h.ports.links.length) (f : HubLink → HubLink) :
    (h.setPorts fun p => { p with links := p.links.modify n f }) = h.setLink n (f (h.ports.links.getD n {})) := by
  rw [Hub.setLink, Hub.setPorts, Hub.setPorts, modify_eq_set_getD _ _ _ {} hn]

theorem become_untripped (k : HubLink) (now : Nat) {trip : Bool} (sfp block : Bool) (h : trip = false ∨ k.pwr = false) :
    k.become now trip sfp block = { k with sfp, block := block && sfp } := by
  rcases h with h | h <;> simp [HubLink.become, h]

theorem become_tripped (k : HubLink) (now : Nat) (sfp block : Bool) (h : k.pwr = true) :
    k.become now true sfp block = { k with sfp, block := false, pwr := false, trip := some now } := by
  simp [HubLink.become, h]

theorem retry_due {k : HubLink} {at_ now : Nat} (htrip : k.trip = some at_) (ht : at_ + 1000 ≤ now) :
    k.retry now = { k with pwr := true, trip := none } := if_pos (by simpa [htrip] using ht)

theorem retry_early {k : HubLink} {at_ now : Nat} (htrip : k.trip = some at_) (ht : now < at_ + 1000) : k.retry now = k :=
  if_neg (by simpa [htrip] using ht)

theorem setLink_self (h : Hub) {n : Nat} (hn : n < h.ports.links.length) : h.setLink n (h.ports.links.getD n {}) = h := by
  rw [Hub.setLink, Hub.setPorts, set_getD_self _ _ _ hn]

section
variable {s : State} {n : Nat} (hn : n < s.hub.ports.links.length)
include hn

theorem linkStateChange_becomes (cage : CageState) (block : Bool) {j : HubLink}
    (hj : (s.hub.ports.links.getD n {}).become s.hub.upFrames cage.trip cage.sfp block = j) :
    exec (.linkStateChange n cage block) s = .next (s.setHub fun h => h.setLink n j).egDown := by
  subst hj
  exact congrArg (fun h => Host.Outcome.next (State.egDown { s with hub := h })) (modifyLink_eq s.hub hn _)

variable {l : Lane} (hrun : s.hub.running = true) (hact : s.active = some l) (hred : l.reduced = false)
include hrun hact hred

theorem sfpCageRetry_retries :
    exec (.sfpCageRetry n) s = .next (s.setHub fun h => h.setLink n ((h.ports.links.getD n {}).retry h.upFrames)) := by
  have hon : (s.hub.running && !s.active.any (·.reduced)) = true := by simp [hrun, hact, hred]
  refine congrArg Host.Outcome.next ((if_pos hon).trans ?_)
  exact congrArg (fun h => { s with hub := h }) (modifyLink_eq s.hub hn _)

end

/-! ### Frames of the fabric (R435, R438, R445) -/

section
variable {s : State} {l : Lane} {n : Nat} {data : List Byte}

theorem fabricFrameReceive_up (hrun : s.hub.running = true) (hact : s.active = some l) (hn : n < 4)
    (hup : (s.linkBits n).getLsbD 3 = true) (stamp : Int) :
    exec (.fabricFrameReceive n stamp data) s = .next (s.fabIn l.modId n stamp data) := by
  have hin : (s.hub.running && decide (n < 4) && (s.linkBits n).getLsbD 3) = true := by simp [hrun, hn, hup]
  refine congrArg Host.Outcome.next ((if_pos hin).trans ?_)
  rw [hact]
  rfl

theorem fabIn_hopBad (hbad : hopOk data = false) (own : Nat) (stamp : Int) :
    s.fabIn own n stamp data = onLanes (fun l => l.inc (R.FL.BLKERR.inst n)) s := if_pos (by simp [hbad])

variable (hhop : hopOk data = true) {own : Nat} (stamp : Int)
include hhop

theorem fabIn_own (hdst : (readFab data).dst = own ∨ 0xFF0 ≤ (readFab data).dst) :
    s.fabIn own n stamp data = s.setHub fun h => h.fabLocal (some n) (stamp - h.clk.at 0) stamp data :=
  (if_neg (by simp [hhop])).trans (if_pos hdst)

variable (hdst : ¬((readFab data).dst = own ∨ 0xFF0 ≤ (readFab data).dst))
include hdst

theorem fabIn_lastHop (hlast : u8At data 2 ≤ 1) : s.fabIn own n stamp data = onLanes (fun l => l.inc R.FAB.HOPDROP) s :=
  (if_neg (by simp [hhop])).trans ((if_neg hdst).trans (if_pos hlast))

theorem fabIn_forwards (hmore : ¬u8At data 2 ≤ 1) : s.fabIn own n stamp data =
    (if s.hub.ports.routes.any fun q => q.dst == (readFab data).dst then onLanes (fun l => l.inc R.FAB.FWDCNT) s else s).route
      (readFab data).dst
      (stamp - (if s.hub.ports.routes.any fun q => q.dst == (readFab data).dst then
        onLanes (fun l => l.inc R.FAB.FWDCNT) s else s).hub.clk.at 0) (nextHop data) :=
  (if_neg (by simp [hhop])).trans ((if_neg hdst).trans (if_neg hmore))

theorem fabIn_noRoute (hmore : ¬u8At data 2 ≤ 1) (hno : ∀ q ∈ s.hub.ports.routes, q.dst ≠ (readFab data).dst) :
    s.fabIn own n stamp data = onLanes (fun l => l.inc R.FAB.NOROUTE) s := by
  have hany : (s.hub.ports.routes.any fun q => q.dst == (readFab data).dst) = false := by simpa using hno
  have hfind : (s.hub.ports.routes.find? fun q => q.dst == (readFab data).dst) = none := by simpa using hno
  rw [fabIn_forwards hhop stamp hdst hmore, if_neg (Bool.eq_false_iff.mp hany), State.route, hfind]

theorem fabIn_routed (hmore : ¬u8At data 2 ≤ 1) {q : Route}
    (hq : (s.hub.ports.routes.find? fun q => q.dst == (readFab data).dst) = some q) : s.fabIn own n stamp data =
      (onLanes (fun l => l.inc R.FAB.FWDCNT) s).egress q.link (stamp - s.hub.clk.at 0) (nextHop data) := by
  have hany : (s.hub.ports.routes.any fun q => q.dst == (readFab data).dst) = true :=
    List.any_eq_true.mpr ⟨q, List.mem_of_find?_eq_some hq, List.find?_some (p := fun q : Route => q.dst == (readFab data).dst) hq⟩
  rw [fabIn_forwards hhop stamp hdst hmore, if_pos hany, State.route, onLanes_hub, hq]

end

/-! ### The events of a CAN port -/

section
variable {s : State} {l : Lane} {n : Nat} (hrun : s.hub.running = true) (hact : s.active = some l) (hn : n < 4)
  (hlen : n < s.hub.ports.can.length) (hen : l.enabled (0x44 + n) = true)
include hrun hact hn hlen hen

theorem canBusOff_drops (hmode : (s.hub.can n).mode ≠ 0) (hstop : (s.hub.can n).stopped = false) (hst : (s.hub.can n).state < 2) :
    exec (.canBusOff n) s = .next (s.setHub fun h =>
      (s.hub.can n).tx.foldl (fun (h : Hub) stn => h.portArrival (0x18 + n) 0 (.outcome stn 3))
        (((h.setCan n { s.hub.can n with state := 2, txc := 256 }).portArrival (0x18 + n) 0
          (canStatus { s.hub.can n with state := 2, txc := 256 })).setCan n { s.hub.can n with state := 2, txc := 256, tx := [] })) := by
  let d : CanPort := { s.hub.can n with state := 2, txc := 256 }
  have hd : d ≠ s.hub.can n := fun h => by
    have hstate : 2 = (s.hub.can n).state := congrArg CanPort.state h
    omega
  have hno : ¬((s.hub.can n).mode = 0 ∨ (s.hub.can n).stopped = true ∨ 2 ≤ (s.hub.can n).state) := by simp [hmode, hstop]; omega
  have hoff : s.onCan n (fun c => if c.mode = 0 ∨ c.stopped ∨ 2 ≤ c.state then c else { c with state := 2, txc := 256 }) true =
      s.setHub fun h => (h.setCan n d).portArrival (0x18 + n) 0 (canStatus d) :=
    onCan_becomes (d := d) hrun hact hn hlen hen (if_neg hno) hd true
  have hstate : (((s.hub.setCan n d).portArrival (0x18 + n) 0 (canStatus d)).can n).state = 2 := by
    rw [Hub.can, Hub.portArrival_ports]
    exact congrArg CanPort.state (setCan_can s.hub d hlen)
  refine congrArg Host.Outcome.next ?_
  dsimp only
  rw [hoff]
  refine (if_pos hstate).trans ?_
  exact congrArg (fun h => { s with hub := h }) (canDrop_becomes s.hub d hlen 0 (canStatus d) 3)

theorem canRecoveryComplete_recovers (hst : (s.hub.can n).state = 3) : exec (.canRecoveryComplete n) s = .next (s.setHub fun h =>
    (h.setCan n { s.hub.can n with state := 0, txc := 0, rxc := 0 }).portArrival (0x18 + n) 0
      (canStatus { s.hub.can n with state := 0, txc := 0, rxc := 0 })) := by
  refine congrArg Host.Outcome.next (onCan_acts hrun hact hn hlen hen hst (fun h => ?_) true)
  have hstate : 0 = (s.hub.can n).state := congrArg CanPort.state h
  omega

section
variable (hmode : (s.hub.can n).mode = 3) (hlock : (s.hub.can n).abLock = none)
include hmode hlock

theorem autobaudLock_locks (hgood : 2 ≤ (s.hub.can n).abGood) : exec (.autobaudLock n) s = .next (s.setHub fun h =>
    (h.setCan n { s.hub.can n with abLock := some ((s.hub.can n).abRate, 0) }).portArrival (0x18 + n) 0
      (canStatus { s.hub.can n with abLock := some ((s.hub.can n).abRate, 0) })) := by
  refine congrArg Host.Outcome.next (onCan_acts hrun hact hn hlen hen ⟨hmode, by simp [hlock], hgood⟩ (fun h => ?_) true)
  have hnow : some ((s.hub.can n).abRate, 0) = (s.hub.can n).abLock := congrArg CanPort.abLock h
  simp [hlock] at hnow

theorem autobaudRateSwitch_switches (ht : (s.hub.can n).abSince + 200 ≤ s.hub.upFrames) :
    exec (.autobaudRateSwitch n) s = .next (s.setHub fun h => h.setCan n { s.hub.can n with
      abRate := nextRate (s.hub.can n).abRate, abSince := s.hub.upFrames, abGood := 0 }) := by
  refine congrArg Host.Outcome.next (onCan_acts hrun hact hn hlen hen ⟨hmode, by simp [hlock], ht⟩ (fun h => ?_) false)
  have hsince : s.hub.upFrames = (s.hub.can n).abSince := congrArg CanPort.abSince h
  omega

end
end

theorem autobaudLock_waits {s : State} {n : Nat} (hgood : (s.hub.can n).abGood < 2) : exec (.autobaudLock n) s = .next s :=
  congrArg Host.Outcome.next (onCan_waits (fun h => by omega) true)

theorem autobaudRateSwitch_waits {s : State} {n : Nat} (ht : s.hub.upFrames < (s.hub.can n).abSince + 200) :
    exec (.autobaudRateSwitch n) s = .next s :=
  congrArg Host.Outcome.next (onCan_waits (fun h => by omega) false)

/-! ### The events of an M-Bus port -/

section
variable {s : State} {l : Lane} {n : Nat} (hrun : s.hub.running = true) (hact : s.active = some l) (hn : n < 2)
  (hen : l.enabled (0x4C + n) = true) (hlen : n < s.hub.ports.mb.length)
include hrun hact hn hen hlen

theorem mbusOvercurrent_trips (i : Nat) (hon : (s.hub.mb n).on = true) : exec (.mbusOvercurrent n i) s = .next (s.setHub fun h =>
    (h.setMb n { s.hub.mb n with on := false, ovc := true, ibus := min i 65535, trip := s.hub.upFrames }).portArrival (0x20 + n) 0
      (.status (.mbus false true (min i 65535)))) := by
  refine congrArg Host.Outcome.next (onMb_becomes hrun hact hn hen hlen (if_pos hon) fun h => ?_)
  have hoff : false = (s.hub.mb n).on := congrArg MbusPort.on h
  simp [hon] at hoff

theorem mbusRepower_powers (hovc : (s.hub.mb n).ovc = true) (hoff : (s.hub.mb n).on = false)
    (ht : (s.hub.mb n).trip + 10000 ≤ s.hub.upFrames)
    (h3 : ((s.hub.mb n).repower.filter fun t => decide (s.hub.upFrames < t + 3600000)).length < 3) :
    exec (.mbusRepower n) s = .next (s.setHub fun h => (h.setMb n { s.hub.mb n with
      on := true, ovc := false, repower := s.hub.upFrames :: (s.hub.mb n).repower.filter fun t => decide (s.hub.upFrames < t + 3600000)
      }).portArrival (0x20 + n) 0 (.status (.mbus true false (s.hub.mb n).ibus))) := by
  refine congrArg Host.Outcome.next (onMb_becomes hrun hact hn hen hlen (if_pos (by simp only [hovc, hoff, ht, h3]; decide)) fun h => ?_)
  have hon : true = (s.hub.mb n).on := congrArg MbusPort.on h
  simp [hoff] at hon

end

/-- Settles O43: each event by what its port, link or frame becomes. -/
theorem canMbusAndFabricLinks : Obligations.CanMbusAndFabricLinks := by
  intro s l n hrun hact
  refine ⟨fun hn hlen hen => ?can, fun hn hlen hen => ?mbus, fun hn => ?link, fun stamp data hn hup => ?frame⟩
  case can =>
    refine ⟨fun hmode hstop hst => canBusOff_drops hrun hact hn hlen hen hmode hstop hst,
      fun hst => canRecoveryComplete_recovers hrun hact hn hlen hen hst,
      fun hmode hlock => ⟨fun hgood => autobaudLock_locks hrun hact hn hlen hen hmode hlock hgood, autobaudLock_waits,
        fun ht => autobaudRateSwitch_switches hrun hact hn hlen hen hmode hlock ht, autobaudRateSwitch_waits⟩⟩
  case mbus =>
    exact ⟨mbusOvercurrent_trips hrun hact hn hen hlen, mbusRepower_powers hrun hact hn hen hlen,
      fun stn data hno => congrArg Host.Outcome.next (arrivalComplete_collision hrun hact hn hen stn hno)⟩
  case link =>
    refine ⟨fun trip sfp block hno => linkStateChange_becomes hn ⟨trip, sfp⟩ block (become_untripped _ _ sfp block hno),
      fun sfp block hpwr => linkStateChange_becomes hn ⟨true, sfp⟩ block (become_tripped _ _ sfp block hpwr),
      fun at_ htrip hred => ⟨fun ht => ?_, fun ht => ?_⟩⟩
    · refine (sfpCageRetry_retries hn hrun hact hred).trans ?_
      exact congrArg (fun j => Host.Outcome.next (s.setHub fun h => h.setLink n j)) (retry_due htrip ht)
    · refine (sfpCageRetry_retries hn hrun hact hred).trans ?_
      refine congrArg (fun h => Host.Outcome.next { s with hub := h }) ?_
      dsimp only
      rw [retry_early htrip ht, setLink_self s.hub hn]
  case frame =>
    have hrow := fabricFrameReceive_up (data := data) hrun hact hn hup stamp
    have hhop : hopOk data = true ↔
        52 ≤ data.length ∧ u32At data (data.length - 4) = (crc32c (data.take (data.length - 4))).toNat := by
      simp [hopOk]
    rw [hrow, ← hhop]
    refine ⟨fun hbad => congrArg Host.Outcome.next (fabIn_hopBad (Bool.eq_false_iff.mpr hbad) _ stamp),
      fun hgood => ⟨fun hdst => congrArg Host.Outcome.next (fabIn_own hgood stamp hdst), fun hdst hlt => ?_⟩⟩
    have hfar : ¬((readFab data).dst = l.modId ∨ 0xFF0 ≤ (readFab data).dst) := by omega
    exact ⟨fun hlast => congrArg Host.Outcome.next (fabIn_lastHop hgood stamp hfar hlast),
      fun hmore hno => congrArg Host.Outcome.next (fabIn_noRoute hgood stamp hfar (by omega) hno),
      fun q hmore hq => congrArg Host.Outcome.next (fabIn_routed hgood stamp hfar (by omega) hq)⟩

end Sys2Proof.Machine
end
